-- ==== Sys2Proof/Word.lean ====
section
/-!
DEFINITION. The word types of the GQ7, the names that instruction words carry (orders, scopes, formats,
conditions), and the plain records that messages between the units carry.
-/

namespace Sys2Proof

/-- A dword, the width of a row word (R6, R190). -/
abbrev Word := BitVec 64

/-- A word of memory, the unit of coherence (R6, R317). -/
abbrev W32 := BitVec 32

/-- One byte of memory. -/
abbrev Byte := BitVec 8

/-! ### What an instruction word names -/

/-- The guard of a chain (R34 to R37): predicate or mask number, and the sense N. -/
structure Guard where
  num  : BitVec 4
  neg  : Bool
  deriving DecidableEq, Repr

/-- What every chain carries besides its operands: the switch marker S, the guard, and the number of
prefix words in front of the base word (R34, R44). -/
structure Ctl where
  sw    : Bool
  guard : Option Guard
  len   : Nat
  deriving DecidableEq, Repr

/-- A register field with its px.r window (R46). -/
structure Reg where
  win : BitVec 2
  num : BitVec 5
  deriving DecidableEq, Repr

/-- Memory order of an access (R49). -/
inductive Order where
  | plain | acq | rel | acqrel
  deriving DecidableEq, Repr

/-- Scope of an access (R49, R316). -/
inductive Scope where
  | row | clu | die | dev | sys
  deriving DecidableEq, Repr

/-- Allocation hint (R49, R76, R169). -/
inductive Hint where
  | norm | noal | strm
  deriving DecidableEq, Repr

/-- The memory layout of M16 (R49). -/
structure MemMod where
  w32   : Bool
  hint  : Hint
  order : Order
  scope : Scope
  deriving DecidableEq, Repr

/-- Rounding modes, codes 0 to 4 (R50). -/
inductive Rnd where
  | rne | rtz | rdn | rup | rna
  deriving DecidableEq, Repr

/-- Number formats, codes 0 to 11 (R227). -/
inductive Fmt where
  | f32 | f16 | t16 | t8 | t6 | s8 | z8 | s16 | s32 | s64 | z16 | z32
  deriving DecidableEq, Repr

/-- The floating-point layout of M16 (R50). -/
structure FMod where
  dfmt : Fmt
  sfmt : Fmt
  rnd  : Rnd
  deriving DecidableEq, Repr

/-- The M16 of vector commands (R276): output scale, described destination, SUB and rounding. -/
structure VMod where
  osc : BitVec 8
  dd  : Bool
  sub : BitVec 4
  rnd : Rnd
  deriving DecidableEq, Repr

/-- The M16 of app and appl (R140): release mark and size code (app: 0 eight bytes to 3 one byte). -/
structure CaskMod where
  rel : Bool
  sz  : BitVec 2
  deriving DecidableEq, Repr

/-- Integer compare conditions, codes 0 to 9 (R220). -/
inductive Cond where
  | eq | ne | lt | le | gt | ge | ltz | lez | gtz | gez
  deriving DecidableEq, Repr

/-- Floating-point compare conditions, codes 0 to 7 (R262). -/
inductive FCond where
  | eq | ne | lt | le | gt | ge | un | ord
  deriving DecidableEq, Repr

/-- Atomic operations, functions 0 to 11 (R183). -/
inductive AmoOp where
  | add | min | max | minz | maxz | and | or | xor | swap | cas | inc | fadd
  deriving DecidableEq, Repr

/-- Types of ld and ldl (R57). -/
inductive LdType where
  | s8 | z8 | s16 | z16 | s32 | z32 | d64
  deriving DecidableEq, Repr

/-- Types of st and stl (R57). -/
inductive StType where
  | b8 | h16 | w32 | d64
  deriving DecidableEq, Repr

/-! ### Names that messages and steps carry -/

/-- A row by partition and logical row identifier (R192, R198). -/
structure RowId where
  part : Nat
  lrow : Nat
  deriving DecidableEq, Repr

/-- Who sends a message, with the incarnation that the message carries (R92). -/
structure Sender where
  agent : Nat
  inc   : Nat
  deriving DecidableEq, Repr

/-- Where bytes lie once an address is translated: stack or tier memory, a scratchpad, row space, a
register space, or the host range (R63, R160, R162, R201, R437, R447). -/
inductive Place where
  | mem  (pa : Nat)
  | spad (cluster off : Nat)
  | row  (r : RowId) (off : Nat)
  | reg  (pa : Nat)
  | host (addr : Nat)
  deriving DecidableEq, Repr

/-- One physically contiguous piece of a translated extent (R110, R386). -/
structure Run where
  va    : Nat
  place : Place
  len   : Nat
  key   : Nat
  deriving DecidableEq, Repr

/-- What a read of a line is for: to fill the requester's cache, to hand a word to a row without
allocating (R149, R169), to compare for a watch (R354), or only to touch the home slice (R187). -/
inductive ReadFor where
  | fill
  | word
  | watch (isAwait : Bool) (cmp : Word)
  | touch
  deriving DecidableEq, Repr

/-- What a request asks of a home slice (R80, R82, R84, R85, R144). -/
inductive HomeOp where
  | read   (why : ReadFor)
  | reg
  | atomic (op : AmoOp) (b cmp : Word)
  | write
  | engReg
  | engWrite
  | append (padFrom : Nat) (last : Bool)
  deriving DecidableEq, Repr

/-- A request to a home or tail slice, with the issuing agent and its incarnation (R92), the row,
executor, flight-record slot and tag it is made for (R196, R422; slot 8 is none), the addressed bytes
and what is to be done. -/
structure Req where
  op     : HomeOp
  agent  : Nat
  inc    : Nat
  part   : Nat
  row    : RowId
  exec   : Nat
  slot   : Nat
  tag    : Nat
  va     : Nat
  pa     : Nat
  size   : Nat
  signed : Bool
  key    : Nat
  hint   : Hint
  mask   : BitVec 32
  data   : List Byte
  id     : Nat
  deriving DecidableEq, Repr

/-- A reply on its way to a row (R174, R175): the value, how the block was delivered (0 good, 1
poisoned, 2 key mismatch), and a refusal's cause code (0 when granted) with its fault address. -/
structure Reply where
  row    : RowId
  exec   : Nat
  slot   : Nat
  tag    : Nat
  value  : Word
  poison : Nat
  refuse : Nat
  addr   : Word
  deriving DecidableEq, Repr

/-- What an outside access does to a row image (R194, R202, R367). -/
inductive RowOp where
  | load  (size : Nat) (signed : Bool)
  | store (size : Nat) (value : Word)
  | amo   (size : Nat) (op : AmoOp) (b cmp : Word)
  | evset (bits : BitVec 16)
  | rowctl (cmd : Word)
  deriving DecidableEq, Repr

/-- An outside access on its way to a row image: target, byte offset, what it does, the writer's
privilege, and the flight-record slot that waits for it. -/
structure RowAccess where
  target : RowId
  off    : Nat
  op     : RowOp
  priv   : Nat
  row    : RowId
  exec   : Nat
  slot   : Nat
  tag    : Nat
  va     : Nat
  deriving DecidableEq, Repr

/-- A post or fork on its way to a task hub (R350, R351). -/
structure PostReq where
  row  : RowId
  exec : Nat
  slot : Nat
  tag  : Nat
  priv : Nat
  va   : Nat
  runs : List Run
  deriving DecidableEq, Repr

/-- An arrival on its way to a domain unit (R357, R359): key, domain and destination row word. -/
structure Arrival where
  row    : RowId
  slot   : Nat
  tag    : Nat
  level  : Nat
  launch : Nat
  domain : Nat
  deriving DecidableEq, Repr

/-- The four rings (R404, R405): a partition's fault queue and mailbox, the hypervisor's two. -/
inductive Ring where
  | fault (part : Nat)
  | mbox  (part : Nat)
  | hfault
  | hmbox
  deriving DecidableEq, Repr

/-- A 32-byte ring entry (R406). -/
structure RingMsg where
  head : Word
  a    : Word
  b    : Word
  c    : Word
  deriving DecidableEq, Repr

/-- A posted write or a read of the host port (R444, R446): function number, BAR, byte offset. -/
structure HostAccess where
  fn   : Nat
  bar  : Nat
  off  : Nat
  data : List Byte
  deriving DecidableEq, Repr

/-- A peer-link flit (R429): receiving port, partition channel, sequence number and what it delivers. -/
structure Flit where
  port : Nat
  part : Nat
  seq  : Nat
  acc  : RowAccess
  deriving DecidableEq, Repr

end Sys2Proof
end

