-- ==== Sys2Proof/Syntax.lean ====
section
/-!
DEFINITION. The instruction set and the device steps: one constructor per row of the opcode table. A chain
instruction carries its Ctl (switch marker, guard, prefix count) and its decoded operands; a device step carries
the operands that the message or event of that step holds.
-/

namespace Sys2Proof

/-- One constructor per row of the opcode table: the 175 instructions (R56), then the 153 device steps. -/
inductive Instr where
  /-- Always faults ILLEGAL, whatever the guard. (R205) -/
  | ill (c : Ctl)
  /-- Does nothing; with a switch marker it waits for every earlier result of the row. (R205) -/
  | nop (c : Ctl)
  /-- Waits for every outstanding result, frees the lane claim, sets d1 and enters DONE, closing the row. (R206) -/
  | stop (c : Ctl)
  /-- Advances d1, makes the row READY at the queue tail and closes it. (R207) -/
  | yield (c : Ctl)
  /-- Faults BRK at its own address, or halts the cluster when breakpoint capture is enabled. (R208) -/
  | brk (c : Ctl)
  /-- Discards the row's fetched instruction words so later chains fetch afresh. (R224) -/
  | ifence (c : Ctl)
  /-- Reads a special register into a register, clearing the THERM bits it returns. (R212) -/
  | sget (c : Ctl) (r : Reg) (num : BitVec 10)
  /-- Writes a register into a writable special register, ignoring out-of-range values. (R212) -/
  | sset (c : Ctl) (r : Reg) (num : BitVec 10)
  /-- Advances d1, records cause TRAP with its number and faults the row to the kernel. (R368) -/
  | trap (c : Ctl) (n : BitVec 10)
  /-- Calls the hypervisor as a trap reported to the hypervisor's fault queue. (R368) -/
  | hcall (c : Ctl) (n : BitVec 10)
  /-- Lowers the row's privilege and jumps to a target. (R369) -/
  | xret (c : Ctl) (ra rb : Reg)
  /-- Releases, then invalidates a range of the partition's translations, extent tables and unregistered cached words, waiting for every acknowledgement. (R370) -/
  | tlbinv (c : Ctl) (ra rb : Reg)
  /-- Delivers a control-word command to a row named by logical identifier and returns its d0. (R371) -/
  | rowctl (c : Ctl) (rd ra rb : Reg)
  /-- Places a message in the executor's outbound buffer for a mailbox and returns a status. (R372) -/
  | mbox (c : Ctl) (rd ra rb : Reg)
  /-- Adds two registers modulo 2^64. (R215) -/
  | add (c : Ctl) (rd ra rb : Reg)
  /-- Subtracts two registers modulo 2^64. (R215) -/
  | sub (c : Ctl) (rd ra rb : Reg)
  /-- Bitwise and of two registers. (R215) -/
  | and (c : Ctl) (rd ra rb : Reg)
  /-- Bitwise or of two registers. (R215) -/
  | or (c : Ctl) (rd ra rb : Reg)
  /-- Bitwise exclusive or of two registers. (R215) -/
  | xor (c : Ctl) (rd ra rb : Reg)
  /-- a and not b. (R215) -/
  | andn (c : Ctl) (rd ra rb : Reg)
  /-- a or not b. (R215) -/
  | orn (c : Ctl) (rd ra rb : Reg)
  /-- not (a or b). (R215) -/
  | nor (c : Ctl) (rd ra rb : Reg)
  /-- Shifts left by b mod 64. (R215) -/
  | shl (c : Ctl) (rd ra rb : Reg)
  /-- Shifts right unsigned by b mod 64. (R215) -/
  | shr (c : Ctl) (rd ra rb : Reg)
  /-- Shifts right arithmetic by b mod 64. (R215) -/
  | sra (c : Ctl) (rd ra rb : Reg)
  /-- Rotates left by b mod 64. (R215) -/
  | rol (c : Ctl) (rd ra rb : Reg)
  /-- Signed minimum. (R215) -/
  | min (c : Ctl) (rd ra rb : Reg)
  /-- Signed maximum. (R215) -/
  | max (c : Ctl) (rd ra rb : Reg)
  /-- Unsigned minimum. (R215) -/
  | minz (c : Ctl) (rd ra rb : Reg)
  /-- Unsigned maximum. (R215) -/
  | maxz (c : Ctl) (rd ra rb : Reg)
  /-- Low 64 bits of the product. (R216) -/
  | mul (c : Ctl) (rd ra rb : Reg)
  /-- High half of the signed product. (R216) -/
  | mulh (c : Ctl) (rd ra rb : Reg)
  /-- High half of the unsigned product. (R216) -/
  | mulhz (c : Ctl) (rd ra rb : Reg)
  /-- Signed division without fault, stalling the row 18 cycles. (R216) -/
  | div (c : Ctl) (rd ra rb : Reg)
  /-- Unsigned division without fault. (R216) -/
  | divz (c : Ctl) (rd ra rb : Reg)
  /-- Signed remainder. (R216) -/
  | rem (c : Ctl) (rd ra rb : Reg)
  /-- Unsigned remainder. (R216) -/
  | remz (c : Ctl) (rd ra rb : Reg)
  /-- Absolute value. (R216) -/
  | abs (c : Ctl) (rd ra : Reg)
  /-- Two's complement negation. (R216) -/
  | neg (c : Ctl) (rd ra : Reg)
  /-- Counts leading zero bits. (R216) -/
  | clz (c : Ctl) (rd ra : Reg)
  /-- Counts trailing zero bits. (R216) -/
  | ctz (c : Ctl) (rd ra : Reg)
  /-- Counts one bits. (R216) -/
  | popc (c : Ctl) (rd ra : Reg)
  /-- Reverses the byte order. (R216) -/
  | bswap (c : Ctl) (rd ra : Reg)
  /-- Extracts a sign-extended bit field. (R217) -/
  | bfx (c : Ctl) (rd ra rb : Reg)
  /-- Extracts a zero-extended bit field. (R217) -/
  | bfxz (c : Ctl) (rd ra rb : Reg)
  /-- Inserts a bit field into the destination. (R217) -/
  | bfi (c : Ctl) (rd ra rb : Reg)
  /-- Sign-extends a byte. (R217) -/
  | sxb (c : Ctl) (rd ra : Reg)
  /-- Sign-extends a half. (R217) -/
  | sxh (c : Ctl) (rd ra : Reg)
  /-- Sign-extends a word. (R217) -/
  | sxw (c : Ctl) (rd ra : Reg)
  /-- Zero-extends a byte. (R217) -/
  | zxb (c : Ctl) (rd ra : Reg)
  /-- Zero-extends a half. (R217) -/
  | zxh (c : Ctl) (rd ra : Reg)
  /-- Zero-extends a word. (R217) -/
  | zxw (c : Ctl) (rd ra : Reg)
  /-- Sets a predicate from a register comparison. (R220) -/
  | cmp (c : Ctl) (pd : BitVec 4) (cond : Cond) (ra rb : Reg)
  /-- Sets a predicate from a comparison with an immediate. (R220) -/
  | cmpi (c : Ctl) (pd : BitVec 4) (cond : Cond) (ra : Reg) (imm : Int)
  /-- Predicate and. (R221) -/
  | pand (c : Ctl) (pd pa pb : BitVec 4)
  /-- Predicate or. (R221) -/
  | por (c : Ctl) (pd pa pb : BitVec 4)
  /-- Predicate exclusive or. (R221) -/
  | pxor (c : Ctl) (pd pa pb : BitVec 4)
  /-- Predicate and-not. (R221) -/
  | pandn (c : Ctl) (pd pa pb : BitVec 4)
  /-- Predicate not. (R221) -/
  | pnot (c : Ctl) (pd pa : BitVec 4)
  /-- Predicate copy. (R221) -/
  | pmov (c : Ctl) (pd pa : BitVec 4)
  /-- Sets a predicate to 1. (R221) -/
  | pset (c : Ctl) (pd : BitVec 4)
  /-- Clears a predicate. (R221) -/
  | pclr (c : Ctl) (pd : BitVec 4)
  /-- Copies all 16 predicates into a register g0-g15. (R221) -/
  | pget (c : Ctl) (gd : BitVec 4)
  /-- Writes all 16 predicates from a register g0-g15. (R221) -/
  | pput (c : Ctl) (ga : BitVec 4)
  /-- Adds a sign-extended immediate. (R218) -/
  | addi (c : Ctl) (rd ra : Reg) (imm : Int)
  /-- Ands a sign-extended immediate. (R218) -/
  | andi (c : Ctl) (rd ra : Reg) (imm : Int)
  /-- Ors a sign-extended immediate. (R218) -/
  | ori (c : Ctl) (rd ra : Reg) (imm : Int)
  /-- Exclusive-ors a sign-extended immediate. (R218) -/
  | xori (c : Ctl) (rd ra : Reg) (imm : Int)
  /-- Shifts left by an immediate 0-63. (R218) -/
  | shli (c : Ctl) (rd ra : Reg) (imm : Int)
  /-- Shifts right unsigned by an immediate 0-63. (R218) -/
  | shri (c : Ctl) (rd ra : Reg) (imm : Int)
  /-- Shifts right arithmetic by an immediate 0-63. (R218) -/
  | srai (c : Ctl) (rd ra : Reg) (imm : Int)
  /-- Multiplies by a sign-extended immediate. (R218) -/
  | muli (c : Ctl) (rd ra : Reg) (imm : Int)
  /-- Loads a widened immediate into a register. (R219) -/
  | movi (c : Ctl) (rd : Reg) (imm : Int)
  /-- Loads the instruction address plus a byte distance. (R219) -/
  | adr (c : Ctl) (rd : Reg) (imm : Int)
  /-- Branches PC-relative. (R223) -/
  | br (c : Ctl) (off : BitVec 19)
  /-- Branches PC-relative and writes the link to g31. (R223) -/
  | bl (c : Ctl) (off : BitVec 19)
  /-- Jumps to a register target. (R223) -/
  | jr (c : Ctl) (ra : Reg)
  /-- Jumps to a register target and writes the link. (R223) -/
  | jlr (c : Ctl) (rd ra : Reg)
  /-- Decrements a register and branches while it is nonzero. (R223) -/
  | dbnz (c : Ctl) (rd : Reg) (off : BitVec 14)
  /-- Loads from memory, row space or the window with optional acquire. (R179) -/
  | ld (c : Ctl) (rd ra : Reg) (t : LdType) (off : Int) (m : MemMod)
  /-- Stores to memory, row space or the window with optional release. (R179) -/
  | st (c : Ctl) (rd ra : Reg) (t : StType) (off : Int) (m : MemMod)
  /-- Loads from the row's own cluster scratchpad. (R181) -/
  | ldl (c : Ctl) (rd ra : Reg) (t : LdType) (off : Int) (m : MemMod)
  /-- Stores to the row's own cluster scratchpad. (R181) -/
  | stl (c : Ctl) (rd ra : Reg) (t : StType) (off : Int) (m : MemMod)
  /-- Performs an indivisible read-modify-write of the selected operation and returns the old value. (R183) -/
  | amo (c : Ctl) (rd ra rb : Reg) (op : AmoOp) (m : MemMod)
  /-- Holds later memory instructions until acquire and/or release conditions hold at its scope. (R186) -/
  | fence (c : Ctl) (m : MemMod)
  /-- Prefetches a line into the place its scope names. (R187) -/
  | pf (c : Ctl) (ra : Reg) (m : MemMod)
  /-- Sends a value to the page's tail slice for appending and waits for the granted offset. (R143) -/
  | app (c : Ctl) (rd ra rb : Reg) (m : CaskMod)
  /-- Reads a 64-byte scratchpad line and appends it at the tail slice. (R143) -/
  | appl (c : Ctl) (rd ra rb : Reg) (m : CaskMod)
  /-- Requests the page be sealed and returns the final TAIL. (R145) -/
  | seal (c : Ctl) (rd ra : Reg)
  /-- Returns the page's tail entry. (R146) -/
  | tail (c : Ctl) (rd ra : Reg)
  /-- Floating addition rounded once. (R257) -/
  | fadd (c : Ctl) (rd ra rb : Reg) (m : FMod)
  /-- Floating subtraction rounded once. (R257) -/
  | fsub (c : Ctl) (rd ra rb : Reg) (m : FMod)
  /-- Floating multiplication rounded once. (R257) -/
  | fmul (c : Ctl) (rd ra rb : Reg) (m : FMod)
  /-- Floating division rounded once, stalling 24 cycles. (R257) -/
  | fdiv (c : Ctl) (rd ra rb : Reg) (m : FMod)
  /-- Floating square root rounded once. (R257) -/
  | fsqrt (c : Ctl) (rd ra : Reg) (m : FMod)
  /-- Floating minimum with NaN rules. (R259) -/
  | fmin (c : Ctl) (rd ra rb : Reg) (m : FMod)
  /-- Floating maximum with NaN rules. (R259) -/
  | fmax (c : Ctl) (rd ra rb : Reg) (m : FMod)
  /-- Clears the sign bit of the code. (R260) -/
  | fabs (c : Ctl) (rd ra : Reg) (m : FMod)
  /-- Inverts the sign bit of the code. (R260) -/
  | fneg (c : Ctl) (rd ra : Reg) (m : FMod)
  /-- Writes a one-hot class mask. (R261) -/
  | fclass (c : Ctl) (rd ra : Reg) (sfmt : Fmt)
  /-- Copies the sign of b onto a. (R260) -/
  | fcpys (c : Ctl) (rd ra rb : Reg) (m : FMod)
  /-- a × b + c rounded once. (R257) -/
  | fma (c : Ctl) (rd ra rb : Reg) (m : FMod)
  /-- a × b − c rounded once. (R257) -/
  | fms (c : Ctl) (rd ra rb : Reg) (m : FMod)
  /-- −(a × b) + c rounded once. (R257) -/
  | fnma (c : Ctl) (rd ra rb : Reg) (m : FMod)
  /-- −(a × b) − c rounded once. (R257) -/
  | fnms (c : Ctl) (rd ra rb : Reg) (m : FMod)
  /-- Sets a predicate from a floating comparison. (R262) -/
  | fcmp (c : Ctl) (pd : BitVec 4) (cond : FCond) (ra rb : Reg) (sfmt : Fmt)
  /-- Converts between floating and tapered formats. (R263) -/
  | fcvt (c : Ctl) (rd ra : Reg) (m : FMod)
  /-- Converts a floating value to a saturated integer. (R263) -/
  | fcvti (c : Ctl) (rd ra : Reg) (m : FMod)
  /-- Converts an integer to a floating or tapered format. (R263) -/
  | fcvtf (c : Ctl) (rd ra : Reg) (m : FMod)
  /-- Requests or re-negotiates a lane claim, waiting for lanes when none is held. (R269) -/
  | vclaim (c : Ctl) (rd ra : Reg)
  /-- Waits for the claim's commands and releases the claim. (R272) -/
  | vfree (c : Ctl) (rd : Reg)
  /-- Waits until the claim's commands up to a sequence number have completed. (R273) -/
  | vwait (c : Ctl) (rd ra : Reg)
  /-- Returns claim status or a ring entry. (R274) -/
  | vstat (c : Ctl) (rd ra : Reg)
  /-- Vector add command. (R285) -/
  | vadd (c : Ctl) (rd ra rb : Reg) (m : VMod)
  /-- Vector subtract command. (R285) -/
  | vsub (c : Ctl) (rd ra rb : Reg) (m : VMod)
  /-- Vector multiply command. (R285) -/
  | vmul (c : Ctl) (rd ra rb : Reg) (m : VMod)
  /-- Vector minimum command. (R285) -/
  | vmin (c : Ctl) (rd ra rb : Reg) (m : VMod)
  /-- Vector maximum command. (R285) -/
  | vmax (c : Ctl) (rd ra rb : Reg) (m : VMod)
  /-- Vector divide command. (R285) -/
  | vdiv (c : Ctl) (rd ra rb : Reg) (m : VMod)
  /-- Vector bitwise and command. (R285) -/
  | vand (c : Ctl) (rd ra rb : Reg) (m : VMod)
  /-- Vector bitwise or command. (R285) -/
  | vor (c : Ctl) (rd ra rb : Reg) (m : VMod)
  /-- Vector bitwise exclusive or command. (R285) -/
  | vxor (c : Ctl) (rd ra rb : Reg) (m : VMod)
  /-- Vector shift left command. (R285) -/
  | vshl (c : Ctl) (rd ra rb : Reg) (m : VMod)
  /-- Vector logical shift right command. (R285) -/
  | vshr (c : Ctl) (rd ra rb : Reg) (m : VMod)
  /-- Vector arithmetic shift right command. (R285) -/
  | vsra (c : Ctl) (rd ra rb : Reg) (m : VMod)
  /-- Vector absolute difference command. (R285) -/
  | vabsd (c : Ctl) (rd ra rb : Reg) (m : VMod)
  /-- Vector fused multiply-add command. (R285) -/
  | vfma (c : Ctl) (rd ra rb : Reg) (m : VMod)
  /-- Vector fused multiply-subtract command. (R285) -/
  | vfms (c : Ctl) (rd ra rb : Reg) (m : VMod)
  /-- Vector negate command. (R285) -/
  | vneg (c : Ctl) (rd ra rb : Reg) (m : VMod)
  /-- Vector absolute value command. (R285) -/
  | vabs (c : Ctl) (rd ra rb : Reg) (m : VMod)
  /-- Vector square root command. (R285) -/
  | vsqrt (c : Ctl) (rd ra rb : Reg) (m : VMod)
  /-- Vector reciprocal square root command. (R285) -/
  | vrsq (c : Ctl) (rd ra rb : Reg) (m : VMod)
  /-- Vector reciprocal command. (R285) -/
  | vrcp (c : Ctl) (rd ra rb : Reg) (m : VMod)
  /-- Vector base-2 exponential command. (R285) -/
  | vexp2 (c : Ctl) (rd ra rb : Reg) (m : VMod)
  /-- Vector base-2 logarithm command. (R285) -/
  | vlog2 (c : Ctl) (rd ra rb : Reg) (m : VMod)
  /-- Vector conversion command. (R285) -/
  | vcvt (c : Ctl) (rd ra rb : Reg) (m : VMod)
  /-- Vector code copy command. (R285) -/
  | vmov (c : Ctl) (rd ra rb : Reg) (m : VMod)
  /-- Vector fill with the scalar. (R285) -/
  | vfill (c : Ctl) (rd ra rb : Reg) (m : VMod)
  /-- Vector clamp between two binary16 bounds. (R285) -/
  | vclamp (c : Ctl) (rd ra rb : Reg) (m : VMod)
  /-- Vector index ramp from the scalar. (R285) -/
  | viota (c : Ctl) (rd ra rb : Reg) (m : VMod)
  /-- Vector select by mask. (R285) -/
  | vsel (c : Ctl) (rd ra rb : Reg) (m : VMod)
  /-- Vector sum reduction. (R286) -/
  | vredsum (c : Ctl) (rd ra rb : Reg) (m : VMod)
  /-- Vector maximum reduction. (R286) -/
  | vredmax (c : Ctl) (rd ra rb : Reg) (m : VMod)
  /-- Vector minimum reduction. (R286) -/
  | vredmin (c : Ctl) (rd ra rb : Reg) (m : VMod)
  /-- Vector inclusive or exclusive scan. (R286) -/
  | vscan (c : Ctl) (rd ra rb : Reg) (m : VMod)
  /-- Vector gather through an index array. (R285) -/
  | vgat (c : Ctl) (rd ra rb : Reg) (m : VMod)
  /-- Vector scatter through an index array. (R285) -/
  | vsct (c : Ctl) (rd ra rb : Reg) (m : VMod)
  /-- Vector compare into a bit array. (R285) -/
  | vcmp (c : Ctl) (rd ra rb : Reg) (m : VMod)
  /-- Vector pack of active elements. (R285) -/
  | vpack (c : Ctl) (rd ra rb : Reg) (m : VMod)
  /-- Counts active elements. (R285) -/
  | vcnt (c : Ctl) (rd ra rb : Reg) (m : VMod)
  /-- Loads the claim's function table. (R289) -/
  | vfnld (c : Ctl) (rd ra rb : Reg) (m : VMod)
  /-- Evaluates the piecewise cubic on each element. (R289) -/
  | vfn (c : Ctl) (rd ra rb : Reg) (m : VMod)
  /-- Writes the function table to the scratchpad. (R289) -/
  | vfnst (c : Ctl) (rd ra rb : Reg) (m : VMod)
  /-- Issues a byte copy into the open batch. (R112) -/
  | cpy (c : Ctl) (rd ra : Reg) (hint : Hint)
  /-- Issues a zeroing command into the open batch. (R112) -/
  | cpyz (c : Ctl) (rd ra : Reg) (hint : Hint)
  /-- Issues a strided two-dimensional copy. (R112) -/
  | cpy2 (c : Ctl) (rd ra rb : Reg) (hint : Hint)
  /-- Issues an indexed gather copy. (R112) -/
  | cpyg (c : Ctl) (rd ra rb : Reg) (hint : Hint)
  /-- Closes the open batch, optionally for the completion event. (R115) -/
  | cpyc (c : Ctl) (rd : Reg) (ev : Bool)
  /-- Closes the open batch and waits until at most n batches are outstanding, faulting for batch errors. (R116) -/
  | cpyw (c : Ctl) (rd : Reg) (n : BitVec 5) (ev : Bool)
  /-- Issues an in-stack clone of 2 KiB units. (R124) -/
  | dclone (c : Ctl) (rd ra : Reg)
  /-- Issues an in-stack zero of 2 KiB units. (R126) -/
  | dzero (c : Ctl) (rd ra : Reg)
  /-- Issues a scrub of a stack range writing a poison bitmap. (R128) -/
  | scrub (c : Ctl) (rd ra : Reg)
  /-- Returns the status word of a batch. (R118) -/
  | cpyq (c : Ctl) (rd ra : Reg)
  /-- Releases at device scope and hands a task record to the task hub. (R350) -/
  | post (c : Ctl) (ra : Reg)
  /-- Blocks until a watched dword reaches a threshold. (R354) -/
  | await (c : Ctl) (rd ra rb : Reg)
  /-- Asks the hub for a node's status dword. (R352) -/
  | tqry (c : Ctl) (rd ra : Reg)
  /-- Starts a launch from a descriptor and waits for the hub's reply. (R351) -/
  | fork (c : Ctl) (rd ra : Reg)
  /-- Arrives at a numbered rendezvous of n rows and blocks. (R359) -/
  | rdv (c : Ctl) (rd ra rb : Reg)
  /-- Arrives at (or only waits on) a domain barrier and blocks. (R358) -/
  | bar (c : Ctl) (rd : Reg) (level : BitVec 5) (k : BitVec 5)
  /-- Arrives at a domain barrier without blocking. (R358) -/
  | arrive (c : Ctl) (level : BitVec 5)
  /-- Blocks while a watched dword equals a comparand. (R354) -/
  | wait (c : Ctl) (rd ra rb : Reg)
  /-- Consumes a wake token or blocks until a WAKE. (R356) -/
  | park (c : Ctl)
  /-- Sets user event bits in a row. (R367) -/
  | evset (c : Ctl) (ra rb : Reg)
  /-- Ends an event handler, restoring predicates and PC. (R366) -/
  | evret (c : Ctl) (ra : Reg)
  /-- Sets event enables and clears pending bits. (R365) -/
  | evmask (c : Ctl) (rd ra rb : Reg)
  /-- Control-word command that sets PC and makes an IDLE or DONE row READY. (R195) -/
  | start (r : RowId) (op : BitVec 48)
  /-- Control-word command that makes a row IDLE, dropping any watch. (R195) -/
  | stopCommand (r : RowId)
  /-- Control-word command that sets a row's PC. (R195) -/
  | redirect (r : RowId) (op : BitVec 48)
  /-- Control-word command that wakes a parked row or sets its wake token. (R195) -/
  | wake (r : RowId)
  /-- Control-word command that freezes a row, recording RSTATE and FEPOCH. (R195) -/
  | freeze (r : RowId)
  /-- Control-word command that resumes a frozen row from RSTATE with replay. (R197) -/
  | thaw (r : RowId)
  /-- Control-word command that moves a row image to the cellar. (R195) -/
  | parkCommand (r : RowId)
  /-- Control-word command that brings a parked row back into a bank. (R199) -/
  | unpark (r : RowId)
  /-- Control-word command that moves a frozen or parked row to another executor. (R200) -/
  | move (r : RowId) (op : BitVec 48)
  /-- Closes an open row READY once its quantum count is reached with the ready queue not empty. (R338) -/
  | quantumClosing (e k : Nat)
  /-- Closes a row waiting at a switch marker SWITCHWAIT when the ready queue becomes non-empty. (R338) -/
  | switchMarkerClosing (e k : Nat)
  /-- Closes a row waiting at stop, cpyw, vclaim or vwait SWITCHWAIT with WCONT set. (R338) -/
  | waitingInstructionClosing (e k : Nat)
  /-- Closes a row whose slot lies at or above a newly written slot limit. (R338) -/
  | limitClosing (e k : Nat)
  /-- The waited-on unit makes a SWITCHWAIT row READY once its condition holds. (R338) -/
  | waitConditionMet (r : RowId)
  /-- The 4-cycle write-back ends and the slot becomes RETAINED. (R339) -/
  | closingDone (e k : Nat)
  /-- The bank starts opening the head of the ready queue into a slot. (R340) -/
  | opening (e : Nat)
  /-- The 8-cycle opening ends and the row becomes eligible. (R340) -/
  | openingDone (e k : Nat)
  /-- A READY row whose image is retained becomes OPEN in its slot without a transfer. (R341) -/
  | openInPlace (e k : Nat)
  /-- A free bank row brings in a PARKED READY row from the cellar. (R199) -/
  | bringIn (e : Nat)
  /-- An outside load, store or atomic arrives at a row image and is applied in boundary order. (R202) -/
  | outsideRowAccess (a : RowAccess)
  /-- A load or atomic result returns to its row, or is held or dropped for a frozen row. (R174) -/
  | resultArrival (p : Reply)
  /-- A poisoned reply or refused registration faults the row CHECK at its next boundary. (R175) -/
  | lateCheck (r : RowId)
  /-- A pending late-fault record faults the row VLATE at its next issuing boundary. (R288) -/
  | vlate (r : RowId)
  /-- A pending enabled event is delivered at a boundary, saving PC and predicates in d9. (R364) -/
  | eventDelivery (r : RowId)
  /-- A requested line arrives at the cluster cache and fills unregistered words. (R166) -/
  | lineFill (agent line : Nat) (data : List W32) (poison keymiss : BitVec 2)
  /-- The home's acknowledgement of a registration reaches the cluster cache, acknowledging stores. (R167) -/
  | registrationAck (agent id : Nat) (refused : BitVec 32)
  /-- A recall reaches a cluster cache, which writes back the words and clears their RG bits. (R168) -/
  | recall (agent line : Nat) (mask : BitVec 32)
  /-- A forwarded read reaches a registrant, which returns the word's current value. (R82) -/
  | forward (agent line : Nat) (mask : BitVec 32)
  /-- An invalidation reaches a keeper agent, which wakes matching watches and answers. (R90) -/
  | invalidation (agent line : Nat) (mask : BitVec 32) (replace : Bool)
  /-- A registration reaches the home slice, recalling, invalidating keepers and then acknowledging. (R80) -/
  | registration (r : Req)
  /-- An owner's write-back of recalled words reaches the home and is merged. (R81) -/
  | recallWriteback (agent inc line : Nat) (mask : BitVec 32) (data : List W32)
  /-- A cluster cache's eviction write-back reaches the home and is merged. (R81) -/
  | evictionWriteback (agent inc line : Nat) (mask : BitVec 32) (data : List W32)
  /-- A registrant's forward reply reaches the home and is merged into the response. (R82) -/
  | forwardReply (agent inc line : Nat) (mask : BitVec 32) (data : List W32)
  /-- A line read reaches the home slice, which returns data and adds keepers. (R82) -/
  | lineRead (r : Req)
  /-- An atomic is performed at the home slice after recalling registrations. (R84) -/
  | homeAtomic (r : Req)
  /-- A write-through from a control or management executor or hub agent enters co after recalls. (R84) -/
  | writeThrough (r : Req)
  /-- An engine's write of a line held under ENG arrives and is merged, clearing ENG. (R85) -/
  | engineLineWrite (r : Req)
  /-- An invalidation answer reaches the home; the last one lets the change be written and acknowledged. (R89) -/
  | invalidationAck (agent inc line : Nat) (kept : Bool)
  /-- A keeper's eviction notice reaches the home. (R90) -/
  | evictionNotice (agent inc line : Nat)
  /-- A tier sector fetch completes after any victim write-back and is written into its unit. (R71) -/
  | tierFill (unit : Nat)
  /-- The stack controller issues refresh at its interval. (R73) -/
  | refresh (slice pc : Nat)
  /-- Eight postponed refreshes interrupt a copy burst to refresh. (R74) -/
  | refreshLimit (slice pc : Nat)
  /-- An unanswered recall, forward, invalidation or engine write is reported after 1,048,576 cycles. (R93) -/
  | agentTimeout (agent : Nat)
  /-- The hypervisor declares an agent dead and home slices clear and poison its registrations. (R93) -/
  | agentDead (agent : Nat)
  /-- The holder renews a lease before its guarded expiry, dropping the page on refusal. (R95) -/
  | leaseRenewal (part page : Nat) (granted : Bool) (expiry : Nat)
  /-- A row access faults LEASE_LOST when no lease is obtained within 1 ms. (R95) -/
  | leaseLost (r : RowId)
  /-- A lease passes its guarded expiry at the home, letting a waiting change complete. (R94) -/
  | leaseExpiry (page holder : Nat)
  /-- A revoke of a leased page reaches a holding module. (R96) -/
  | revoke (page : Nat)
  /-- A holder's revoke acknowledgement reaches the home. (R96) -/
  | revokeAck (page : Nat) (holder : Sender)
  /-- A page's home leaves the module after recalls, ENG releases, invalidations and write-backs. (R97) -/
  | homeHandover (page : Nat)
  /-- A requester's commit removes its key from a done table. (R423) -/
  | commit (slice : Nat) (r : RowId) (tag : Nat)
  /-- A REHOME refusal returns to its unit, which translates again and reissues with the same tag. (R412) -/
  | rehomeReissue (r : Req)
  /-- The copy engine performs a step of up to 2 KiB of a queued command or node. (R99) -/
  | copyStep (cl id : Nat)
  /-- The engine reports a closed batch complete, updating d12 through the row table. (R100) -/
  | batchReport (r : RowId)
  /-- The tail slice grants an append an offset, or refuses it. (R144) -/
  | appendGrant (r : Req)
  /-- An append's data is written at its line's home and the offset is returned. (R144) -/
  | appendWrite (r : Req)
  /-- A seal arrives at the tail slice and sets STATE SEALED. (R145) -/
  | sealArrival (r : Req)
  /-- Once PEND is zero the page-table entry is written CASK-SEALED and the seal is answered. (R145) -/
  | sealEntryWrite (page : Nat)
  /-- The tail slice returns the tail entry as it stands. (R146) -/
  | tailRequest (r : Req)
  /-- A rack request reaches the tail slice and starts a push or is refused. (R154) -/
  | rackRequest (die page gen : Nat)
  /-- A pushed line is written into the replica frame; the last makes the entry VALID. (R154) -/
  | rackPushLine (die page gen line : Nat) (data : List W32)
  /-- A rack map drops or replaces an entry. (R155) -/
  | rackDrop (die page : Nat)
  /-- CASK_CTL INIT opens a FREE cask page. (R138) -/
  | caskInit (q page : Nat)
  /-- CASK_CTL INIT with zero opens a FREE cask page and zeroes it. (R138) -/
  | caskInitZero (q page : Nat)
  /-- CASK_CTL FREE starts the reclaim sweep of a cask page. (R157) -/
  | caskFree (q page : Nat)
  /-- After PEND drains and acknowledgements arrive, GEN advances and the page becomes FREE. (R157) -/
  | reclaimSweepEnd (page : Nat)
  /-- A lane pool reaches a command, checks it and processes its elements. (R287) -/
  | vectorExecute (pool claim : Nat)
  /-- The pool grants a waiting claim and writes d11. (R269) -/
  | claimGrant (pool : Nat) (r : RowId)
  /-- VPARK resume re-reads the parking block of a parked command. (R287) -/
  | vparkResume (pool claim : Nat)
  /-- VPARK discard completes a parked command with the elements already written. (R287) -/
  | vparkDiscard (pool claim : Nat)
  /-- The holder reads a posted record and creates a node, or reports it refused. (R385) -/
  | postReceive (p : PostReq)
  /-- A predecessor's release reaches the successor's home hub, decrementing LEFT or banking a credit. (R385) -/
  | nodeRelease (part rec : Nat) (engine : Option Nat)
  /-- The holder dispatches the first eligible READY node to a unit. (R387) -/
  | nodeDispatch (die : Nat)
  /-- A node READY for 65,536 cycles moves up one priority. (R387) -/
  | nodeAging (die part rec : Nat)
  /-- A node completes: DONE, counter increment, d13 update and successor releases. (R388) -/
  | nodeDone (die part rec : Nat)
  /-- A node fails a check and enters FAULT, posting to the fault queue. (R299) -/
  | nodeFault (die part rec cause : Nat) (addr : Word)
  /-- NPARK resume re-reads the parking block of a parked node. (R311) -/
  | nparkResume (engine : Nat)
  /-- NPARK fail makes a parked node FAULT with FMT_RESERVED. (R311) -/
  | nparkFail (engine : Nat)
  /-- NRETRY retry rereads, rechecks and readies a kept FAULT node. (R408) -/
  | nodeRetry (q rec : Nat)
  /-- NRETRY drop forgets a kept FAULT node. (R408) -/
  | nodeDrop (q rec : Nat)
  /-- A store changing TAIL in LQ_PTR rings a launch queue. (R378) -/
  | launchQueueRing (q n : Nat) (tail : W32)
  /-- A fork reaches the leader, which accepts or rejects it and replies. (R351) -/
  | forkRequest (p : PostReq)
  /-- The leader takes the next launch, checks its descriptor and assigns identifiers. (R379) -/
  | launchTake (q : Nat)
  /-- A hub creates one row of a launch in a bank or the cellar. (R381) -/
  | rowCreate (q launch die : Nat)
  /-- When no row is left undone the launch retires its rows and increments its counter. (R384) -/
  | launchComplete (q launch : Nat)
  /-- An arrival reaches a domain unit and is counted once per tag. (R357) -/
  | barrierArrival (a : Arrival)
  /-- A barrier or rendezvous completion reaches a row, writing DEST and waking it. (R360) -/
  | syncCompletion (r : RowId) (slot tag : Nat) (value : Word) (refused : Bool)
  /-- A rendezvous arrival reaches its unit and opens, counts or is refused. (R359) -/
  | rdvArrival (a : Arrival) (meet count : Nat)
  /-- The home's compare reply reaches a watching row, waking it when met. (R354) -/
  | watchReply (r : RowId) (slot tag : Nat) (value : Word) (met : Bool)
  /-- A held or new message is written into a fault queue or mailbox ring when it has room. (R407) -/
  | ringMessageWrite (ring : Ring) (die : Nat)
  /-- An executor's outbound buffer writes a message into its mailbox ring. (R372) -/
  | mboxDrain (e : Nat)
  /-- A walker reads page-table entries and ends with a leaf or a fault. (R393) -/
  | pageWalk (unit part : Nat) (va : Word)
  /-- Writes PT_ROOT and invalidates every translation of the partition. (R392) -/
  | ptRootWrite (q : Nat) (v : Word)
  /-- Writes tiered-mode configuration, refusing invalid values with BADCFG. (R70) -/
  | pmemCfgWrite (q : Nat) (v : Word)
  /-- Writes the rack and tail area configuration, refusing invalid values. (R137) -/
  | pcaskCfgWrite (q : Nat) (v : Word)
  /-- Places the cellar and row table, refusing invalid values. (R198) -/
  | prowCfgWrite (q : Nat) (v : Word)
  /-- Places the save area, refusing invalid values. (R427) -/
  | psaveCfgWrite (q : Nat) (v : Word)
  /-- KEY_CTL load copies KEY_DATA into a key slot on all home slices. (R67) -/
  | keyLoad (k : Nat)
  /-- KEY_CTL clear empties a key slot. (R67) -/
  | keyClear (k : Nat)
  /-- Pins every line of a page in its home slices. (R410) -/
  | pin (q page : Nat)
  /-- Pins a page and marks it a target of peer writes. (R410) -/
  | pinp (q page : Nat)
  /-- Releases a page's pins. (R410) -/
  | unpin (q page : Nat)
  /-- Moves a page to a new frame through MV, rehoming and copying. (R411) -/
  | migrate (q page : Nat)
  /-- Ends REHOME refusals of an old frame. (R411) -/
  | retire (q page : Nat)
  /-- Unmaps a scratchpad-held page and writes it back to its frame. (R413) -/
  | spunmap (q page : Nat)
  /-- Returns the next migration candidate page. (R414) -/
  | hptCandRead (die : Nat)
  /-- Returns and clears the count of skipped pinned pages. (R414) -/
  | hptSkipRead (die : Nat)
  /-- PRE_CTL EVICT raises pre-emption requests on clusters of a partition. (R428) -/
  | evict (q : Nat) (cmask : BitVec 32)
  /-- At the end of the cooperative phase the hub freezes every remaining row of the partition on the cluster. (R418) -/
  | forcedFreeze (cl : Nat)
  /-- Once frozen, the cluster saves scratchpad, engines and row images and writes back its cache. (R428) -/
  | evictionStreaming (cl : Nat)
  /-- PRE_CTL RESTORE reloads saved state and brings evicted rows back. (R430) -/
  | restore (q : Nat) (cmask : BitVec 32)
  /-- PRE_CTL REMOVE evicts a cluster and reassigns its rows to the partition's remaining clusters. (R432) -/
  | remove (q : Nat) (cmask : BitVec 32)
  /-- PRE_CTL ADD gives a free cluster to a partition. (R432) -/
  | addCluster (q : Nat) (cmask : BitVec 32)
  /-- Writes a slice-table entry at WIDX and advances WIDX. (R389) -/
  | gsEntryWrite (v : BitVec 128)
  /-- A slice entry acts at its instant, raising pre-emption requests where eviction is needed. (R390) -/
  | sliceEntry
  /-- PCTL ENABLE checks a partition's configuration and image and starts it. (R440) -/
  | enable (q : Nat)
  /-- PCTL DISABLE clears EN when no rows run. (R440) -/
  | disable (q : Nat)
  /-- PCTL RESET freezes, retires and clears all of a partition's work. (R442) -/
  | reset (q : Nat)
  /-- Writing 1 to PSTAT BADCFG clears it. (R441) -/
  | badcfgClear (q : Nat)
  /-- Sets a partition's bandwidth buckets and fills them. (R443) -/
  | pbwWrite (q : Nat) (v : Word)
  /-- Returns and clears the stall cycle count. (R443) -/
  | bwStallRead (q : Nat)
  /-- A posted host write to a BAR is performed in PCIe order. (R446) -/
  | hostPostedWrite (a : HostAccess)
  /-- A host read through BAR 2 is served at the home slices. (R444) -/
  | hostBarRead (a : HostAccess)
  /-- A store changing SQTAIL rings a storage queue pair and the hub checks new entries. (R450) -/
  | storageDoorbell (q k : Nat) (v : Word)
  /-- A storage command finishes and its completion entry is written after its data. (R450) -/
  | storageCompletion (q k cid status : Nat) (data : List Byte)
  /-- A peer flit is delivered or kept in sequence order. (R429) -/
  | peerFlitReceive (f : Flit)
  /-- A peer port completes training. (R449) -/
  | peerLinkUp (port : Nat) (rmod : BitVec 16)
  /-- A peer port fails and its kept flits are discarded. (R449) -/
  | peerPortFailure (port : Nat)
  /-- At reset the boot ROM checks and starts the firmware image. (R452) -/
  | boot
  /-- DEV_CTL bit 0 starts a warm reset that reboots the device. (R468) -/
  | warmReset
  /-- hcall 16 translates a Yalvin portable module into a type-4 image. (R455) -/
  | translatePortableModule (r : RowId)
  /-- hcall 17 verifies a native image. (R454) -/
  | verifyNativeImage (r : RowId)
  /-- hcall 18 signs an attestation report with the next leaf. (R457) -/
  | attest (r : RowId)
  /-- DBG_CTL HALT stops the cluster and its cross-trigger targets. (R459) -/
  | halt (cl : Nat)
  /-- DBG_CTL RESUME restarts a halted cluster. (R459) -/
  | resume (cl : Nat)
  /-- DBG_CTL STEP lets one row issue one chain and halts again. (R459) -/
  | step (cl : Nat)
  /-- A breakpoint matches before a chain issues and halts the cluster. (R460) -/
  | breakpointMatch (e k : Nat)
  /-- Configures the trace ring and starts or stops tracing. (R461) -/
  | trcCtlWrite (q : Nat) (v : Word)
  /-- Each executor writes a TIME record every 2^24 cycles. (R462) -/
  | traceTimeRecord (e : Nat)
  /-- Counters are flushed to the nonvolatile array every second. (R464) -/
  | lifetimeFlush
  /-- A write of LT_DATA raises the firmware rollback floor. (R464) -/
  | rollbackFloorWrite (v : Word)
  /-- Commands a performance state, stopping execution for the clock change. (R465) -/
  | pwrCtlWrite (v : Word)
  /-- A 2 us clock change ends and execution restarts at the new clock. (R465) -/
  | clockChangeDone
  /-- An executor passes 95 °C, setting THERM and writing a mailbox notice. (R434) -/
  | thermalNotice (e : Nat) (temp : BitVec 16)
  /-- A junction reaches 105 °C and the emergency throttle is forced. (R466) -/
  | throttleStart (temp : BitVec 16)
  /-- After 1 ms with every sensor below 100 °C the device returns to PWR_CTL. (R466) -/
  | throttleEnd
  /-- The management executor faults and halts. (R467) -/
  | managementHalt
  /-- A write to a register that has no behaviour of its own stores its fields. (R437) -/
  | registerWrite (q : Option Nat) (off : Nat) (v : Word)
  /-- A row meets a word or chain that decodes to a reserved major, function or encoding, such as MAJ 0x07, MAJ 0x3F, a misplaced prefix or a fifth prefix, and faults ILLEGAL whatever its guard. (R56) -/
  | reservedEncoding (word : Nat)
  /-- The fetch of a chain's word faults, or the PC has bits 1..0 set at fetch, and the row faults with the fetch or ALIGN cause at that word's address. (R44) -/
  | fetchFault (word cause info lvl : Nat)
  /-- An executor's junction sensor falls below 90 °C, so that its next rise past 95 °C sends a new thermal notice. (R434) -/
  | sensorFallenBelow90c (e : Nat)
  /-- Power is lost, and lifetime counts since the last flush, together with any attestation signature in progress, are lost. (R464) -/
  | powerLoss
  /-- An orderly shutdown flushes the lifetime counters to the nonvolatile array. (R464) -/
  | orderlyShutdown
  deriving DecidableEq, Repr

end Sys2Proof
end

