-- ==== Sys2Proof/WellFormed.lean ====
section
/-!
DEFINITION. Which instructions have an encoding: the number of prefix words fits what the operands need (R14, R45 to
R48), immediates fit, modifiers are among those the instruction accepts, and literals lie in their ranges.
-/

namespace Sys2Proof

/-- How a chain instruction uses its prefixes (R47): its immediate with the width of the base field, the
windows of its register fields (none: px.r is not admitted), and whether px.o is admitted and, if so,
whether M16 has its default value. `legal` says that operands and modifier are accepted. -/
structure Uses where
  ctl   : Ctl
  imm   : Option (Nat × Int)
  wins  : Option (List (BitVec 2))
  mod   : Option Bool
  legal : Bool
  deriving DecidableEq, Repr

namespace WF

/-- Default M16 of ld, st, ldl and stl (R48). -/
def memDefault : MemMod := ⟨false, .norm, .plain, .row⟩
/-- Default M16 of amo and pf (R48): device scope, plain. -/
def devDefault : MemMod := ⟨false, .norm, .plain, .dev⟩
/-- Default M16 of fence (R48): acquire-release, device. -/
def fenceDefault : MemMod := ⟨false, .norm, .acqrel, .dev⟩
/-- Default M16 of the floating-point groups (R48). -/
def fDefault : FMod := ⟨.f32, .f32, .rne⟩
/-- Default M16 of vector commands (R276). -/
def vDefault : VMod := ⟨0, false, 0, .rne⟩
/-- Default M16 of app and appl (R140). -/
def caskDefault : CaskMod := ⟨false, 0⟩

/-- ld and ldl accept plain at row scope and acquire; st and stl plain and release (R178). -/
def ordScope (wide : Order) (maxSys : Bool) (m : MemMod) : Bool :=
  !m.w32 && ((m.order == .plain && m.scope == .row) || (m.order == wide && (maxSys || m.scope != .sys)))

/-- fence accepts acquire, release and both, with hint norm (R178, R49). -/
def fenceMod (m : MemMod) : Bool := !m.w32 && m.hint == .norm && m.order != .plain

/-- pf accepts plain order at cluster, die and device scope (R178). -/
def pfMod (m : MemMod) : Bool :=
  !m.w32 && m.order == .plain && (m.scope == .clu || m.scope == .die || m.scope == .dev)

/-- Formats 0 to 4, the floating formats (R254). -/
def isFloat : Fmt → Bool
  | .f32 | .f16 | .t16 | .t8 | .t6 => true
  | .s8 | .z8 | .s16 | .s32 | .s64 | .z16 | .z32 => false

/-- Arithmetic and fcvt: both formats floating (R254). -/
def fArith (m : FMod) : Bool := isFloat m.sfmt && isFloat m.dfmt
/-- fabs, fneg, fcpys: equal floating formats and rounding code 0 (R254). -/
def fSign (m : FMod) : Bool := isFloat m.sfmt && m.dfmt == m.sfmt && m.rnd == .rne
/-- fcvti: floating source, integer destination (R254). -/
def fToInt (m : FMod) : Bool := isFloat m.sfmt && !isFloat m.dfmt
/-- fcvtf: integer source, floating destination (R254). -/
def fFromInt (m : FMod) : Bool := !isFloat m.sfmt && isFloat m.dfmt

/-- The M16 conditions of R276 common to every vector command. -/
def vMod (subMax : Nat) (noDd : Bool) (m : VMod) : Bool :=
  (m.osc == 0 || m.dd) && m.sub.toNat ≤ subMax && !(noDd && m.dd)

/-- The assigned special-register numbers (R210). -/
def sregAssigned (n : BitVec 10) : Bool :=
  let k := n.toNat
  k ≤ 0x010 || (0x100 ≤ k && k ≤ 0x10E) || k == 0x200

/-- The assigned special registers that sset may name (R210, R212). -/
def sregWritable (n : BitVec 10) : Bool :=
  let k := n.toNat
  (0x100 ≤ k && k ≤ 0x105) || k == 0x200

/-- A domain level of bar and arrive (R348). -/
def levelOk (l : BitVec 5) : Bool := 1 ≤ l.toNat && l.toNat ≤ 4

/-- A shift amount of shli, shri and srai (R218). -/
def shiftOk (imm : Int) : Bool := 0 ≤ imm && imm ≤ 63

/-- `v` fits a two's complement field of `w` bits (R45). -/
def fits (w : Nat) (v : Int) : Bool := -(2 ^ (w - 1) : Nat) ≤ v && v < (2 ^ (w - 1) : Nat)

/-- 1 when the condition holds. -/
def one (b : Bool) : Nat := if b then 1 else 0

end WF

open WF in
/-- How each chain instruction uses its prefixes; none for a device step, which has no words. -/
def Instr.uses : Instr → Option Uses
  -- SYS (R205, R209, R348)
  | .ill c | .nop c | .stop c | .yield c | .brk c | .ifence c | .park c => some ⟨c, none, some [], none, true⟩
  | .sget c r n => some ⟨c, none, some [r.win], none, sregAssigned n⟩
  | .sset c r n => some ⟨c, none, some [r.win], none, sregWritable n⟩
  | .trap c _ | .hcall c _ => some ⟨c, none, some [], none, true⟩
  | .xret c a b | .tlbinv c a b | .evset c a b => some ⟨c, none, some [a.win, b.win], none, true⟩
  | .rowctl c d a b | .mbox c d a b | .await c d a b | .rdv c d a b | .wait c d a b | .evmask c d a b =>
    some ⟨c, none, some [d.win, a.win, b.win], none, true⟩
  -- ALU, MUL and BIT (R214)
  | .add c d a b | .sub c d a b | .and c d a b | .or c d a b | .xor c d a b | .andn c d a b
  | .orn c d a b | .nor c d a b | .shl c d a b | .shr c d a b | .sra c d a b | .rol c d a b
  | .min c d a b | .max c d a b | .minz c d a b | .maxz c d a b
  | .mul c d a b | .mulh c d a b | .mulhz c d a b | .div c d a b | .divz c d a b | .rem c d a b
  | .remz c d a b | .bfx c d a b | .bfxz c d a b | .bfi c d a b =>
    some ⟨c, none, some [d.win, a.win, b.win], none, true⟩
  | .abs c d a | .neg c d a | .clz c d a | .ctz c d a | .popc c d a | .bswap c d a
  | .sxb c d a | .sxh c d a | .sxw c d a | .zxb c d a | .zxh c d a | .zxw c d a
  | .jlr c d a | .tqry c d a | .fork c d a => some ⟨c, none, some [d.win, a.win], none, true⟩
  -- compares and predicates (R220, R221)
  | .cmp c _ _ a b => some ⟨c, none, some [a.win, b.win], none, true⟩
  | .cmpi c _ _ a imm => some ⟨c, some (6, imm), some [a.win], none, true⟩
  | .pand c _ _ _ | .por c _ _ _ | .pxor c _ _ _ | .pandn c _ _ _ => some ⟨c, none, none, none, true⟩
  | .pnot c _ _ | .pmov c _ _ => some ⟨c, none, none, none, true⟩
  | .pset c _ | .pclr c _ | .pget c _ | .pput c _ => some ⟨c, none, none, none, true⟩
  -- immediates and control flow (R218, R219, R223)
  | .addi c d a imm | .andi c d a imm | .ori c d a imm | .xori c d a imm | .muli c d a imm =>
    some ⟨c, some (9, imm), some [d.win, a.win], none, true⟩
  | .shli c d a imm | .shri c d a imm | .srai c d a imm =>
    some ⟨c, some (9, imm), some [d.win, a.win], none, shiftOk imm⟩
  | .movi c d imm | .adr c d imm => some ⟨c, some (14, imm), some [d.win], none, true⟩
  | .br c _ | .bl c _ => some ⟨c, none, none, none, true⟩
  | .jr c a | .post c a | .evret c a => some ⟨c, none, some [a.win], none, true⟩
  | .dbnz c d _ => some ⟨c, none, some [d.win], none, true⟩
  -- loads, stores, atomics (R177, R178, R182, R186, R187)
  | .ld c d a _ off m => some ⟨c, some (6, off), some [d.win, a.win], some (m == memDefault), ordScope .acq true m⟩
  | .ldl c d a _ off m =>
    some ⟨c, some (6, off), some [d.win, a.win], some (m == memDefault), ordScope .acq false m && m.hint == .norm⟩
  | .st c d a _ off m => some ⟨c, some (6, off), some [d.win, a.win], some (m == memDefault), ordScope .rel true m⟩
  | .stl c d a _ off m =>
    some ⟨c, some (6, off), some [d.win, a.win], some (m == memDefault), ordScope .rel false m && m.hint == .norm⟩
  | .amo c d a b _ m => some ⟨c, none, some [d.win, a.win, b.win], some (m == devDefault), true⟩
  | .fence c m => some ⟨c, none, some [], some (m == fenceDefault), fenceMod m⟩
  | .pf c a m => some ⟨c, none, some [a.win], some (m == devDefault), pfMod m⟩
  -- cask group (R139, R140)
  | .app c d a b m => some ⟨c, none, some [d.win, a.win, b.win], some (m == caskDefault), true⟩
  | .appl c d a b m => some ⟨c, none, some [d.win, a.win, b.win], some (m == caskDefault), m.sz == 0⟩
  | .seal c d a | .tail c d a => some ⟨c, none, some [d.win, a.win], some true, true⟩
  -- scalar floating point (R254, R256)
  | .fadd c d a b m | .fsub c d a b m | .fmul c d a b m | .fdiv c d a b m | .fmin c d a b m
  | .fmax c d a b m | .fma c d a b m | .fms c d a b m | .fnma c d a b m | .fnms c d a b m =>
    some ⟨c, none, some [d.win, a.win, b.win], some (m == fDefault), fArith m⟩
  | .fcpys c d a b m => some ⟨c, none, some [d.win, a.win, b.win], some (m == fDefault), fSign m⟩
  | .fsqrt c d a m | .fcvt c d a m => some ⟨c, none, some [d.win, a.win], some (m == fDefault), fArith m⟩
  | .fabs c d a m | .fneg c d a m => some ⟨c, none, some [d.win, a.win], some (m == fDefault), fSign m⟩
  | .fclass c d a f => some ⟨c, none, some [d.win, a.win], some (f == .f32), isFloat f⟩
  | .fcmp c _ _ a b f => some ⟨c, none, some [a.win, b.win], some (f == .f32), isFloat f⟩
  | .fcvti c d a m => some ⟨c, none, some [d.win, a.win], some (m == fDefault), fToInt m⟩
  | .fcvtf c d a m => some ⟨c, none, some [d.win, a.win], some (m == fDefault), fFromInt m⟩
  -- claims and vector commands (R268, R275, R276)
  | .vfree c d => some ⟨c, none, some [d.win], some true, true⟩
  | .vclaim c d a | .vwait c d a | .vstat c d a => some ⟨c, none, some [d.win, a.win], some true, true⟩
  | .vadd c d a b m | .vsub c d a b m | .vmul c d a b m | .vmin c d a b m | .vmax c d a b m
  | .vdiv c d a b m | .vand c d a b m | .vor c d a b m | .vxor c d a b m | .vshl c d a b m
  | .vshr c d a b m | .vsra c d a b m | .vabsd c d a b m | .vfma c d a b m | .vfms c d a b m
  | .vneg c d a b m | .vabs c d a b m | .vsqrt c d a b m | .vrsq c d a b m | .vrcp c d a b m
  | .vexp2 c d a b m | .vlog2 c d a b m | .vcvt c d a b m | .vmov c d a b m | .vfill c d a b m
  | .vclamp c d a b m | .viota c d a b m | .vsel c d a b m | .vredsum c d a b m | .vredmax c d a b m
  | .vredmin c d a b m | .vgat c d a b m | .vsct c d a b m | .vpack c d a b m | .vfn c d a b m =>
    some ⟨c, none, some [d.win, a.win, b.win], some (m == vDefault), vMod 0 false m⟩
  | .vscan c d a b m => some ⟨c, none, some [d.win, a.win, b.win], some (m == vDefault), vMod 1 false m⟩
  | .vcmp c d a b m => some ⟨c, none, some [d.win, a.win, b.win], some (m == vDefault), vMod 7 true m⟩
  | .vcnt c d a b m | .vfnld c d a b m | .vfnst c d a b m =>
    some ⟨c, none, some [d.win, a.win, b.win], some (m == vDefault), vMod 0 true m⟩
  -- copy group (R105, R106, R108); the triple ra, ra + 1, ra + 2 needs ra below 30
  | .cpy c d a h | .cpyz c d a h =>
    some ⟨c, none, some [d.win, a.win], some (h == .norm), decide (a.num.toNat < 30)⟩
  | .cpy2 c d a b h | .cpyg c d a b h =>
    some ⟨c, none, some [d.win, a.win, b.win], some (h == .norm), decide (a.num.toNat < 30)⟩
  | .dclone c d a | .dzero c d a | .scrub c d a =>
    some ⟨c, none, some [d.win, a.win], some true, decide (a.num.toNat < 30)⟩
  | .cpyc c d ev => some ⟨c, none, some [d.win], some (!ev), true⟩
  | .cpyw c d _ ev => some ⟨c, none, some [d.win], some (!ev), true⟩
  | .cpyq c d a => some ⟨c, none, some [d.win, a.win], some true, true⟩
  -- barriers (R348)
  | .bar c d l k => some ⟨c, none, some [d.win], none, levelOk l && k.toNat ≤ 1⟩
  | .arrive c l => some ⟨c, none, some [], none, levelOk l⟩
  -- device steps have no words
  | .start _ _ | .stopCommand _ | .redirect _ _ | .wake _ | .freeze _ | .thaw _ | .parkCommand _
  | .unpark _ | .move _ _ | .quantumClosing _ _ | .switchMarkerClosing _ _ | .waitingInstructionClosing _ _
  | .limitClosing _ _ | .waitConditionMet _ | .closingDone _ _ | .opening _ | .openingDone _ _
  | .openInPlace _ _ | .bringIn _ | .outsideRowAccess _ | .resultArrival _ | .lateCheck _ | .vlate _
  | .eventDelivery _ | .lineFill _ _ _ _ _ | .registrationAck _ _ _ | .recall _ _ _ | .forward _ _ _
  | .invalidation _ _ _ _ | .registration _ | .recallWriteback _ _ _ _ _ | .evictionWriteback _ _ _ _ _
  | .forwardReply _ _ _ _ _ | .lineRead _ | .homeAtomic _ | .writeThrough _ | .engineLineWrite _
  | .invalidationAck _ _ _ _ | .evictionNotice _ _ _ | .tierFill _ | .refresh _ _ | .refreshLimit _ _
  | .agentTimeout _ | .agentDead _ | .leaseRenewal _ _ _ _ | .leaseLost _ | .leaseExpiry _ _ | .revoke _
  | .revokeAck _ _ | .homeHandover _ | .commit _ _ _ | .rehomeReissue _ | .copyStep _ _ | .batchReport _
  | .appendGrant _ | .appendWrite _ | .sealArrival _ | .sealEntryWrite _ | .tailRequest _
  | .rackRequest _ _ _ | .rackPushLine _ _ _ _ _ | .rackDrop _ _ | .caskInit _ _ | .caskInitZero _ _
  | .caskFree _ _ | .reclaimSweepEnd _ | .vectorExecute _ _ | .claimGrant _ _ | .vparkResume _ _
  | .vparkDiscard _ _ | .postReceive _ | .nodeRelease _ _ _ | .nodeDispatch _ | .nodeAging _ _ _
  | .nodeDone _ _ _ | .nodeFault _ _ _ _ _ | .nparkResume _ | .nparkFail _ | .nodeRetry _ _ | .nodeDrop _ _
  | .launchQueueRing _ _ _ | .forkRequest _ | .launchTake _ | .rowCreate _ _ _ | .launchComplete _ _
  | .barrierArrival _ | .syncCompletion _ _ _ _ _ | .rdvArrival _ _ _ | .watchReply _ _ _ _ _
  | .ringMessageWrite _ _ | .mboxDrain _ | .pageWalk _ _ _ | .ptRootWrite _ _ | .pmemCfgWrite _ _
  | .pcaskCfgWrite _ _ | .prowCfgWrite _ _ | .psaveCfgWrite _ _ | .keyLoad _ | .keyClear _ | .pin _ _
  | .pinp _ _ | .unpin _ _ | .migrate _ _ | .retire _ _ | .spunmap _ _ | .hptCandRead _ | .hptSkipRead _
  | .evict _ _ | .forcedFreeze _ | .evictionStreaming _ | .restore _ _ | .remove _ _ | .addCluster _ _
  | .gsEntryWrite _ | .sliceEntry | .enable _ | .disable _ | .reset _ | .badcfgClear _ | .pbwWrite _ _
  | .bwStallRead _ | .hostPostedWrite _ | .hostBarRead _ | .storageDoorbell _ _ _
  | .storageCompletion _ _ _ _ _ | .peerFlitReceive _ | .peerLinkUp _ _ | .peerPortFailure _ | .boot
  | .warmReset | .translatePortableModule _ | .verifyNativeImage _ | .attest _ | .halt _ | .resume _
  | .step _ | .breakpointMatch _ _ | .trcCtlWrite _ _ | .traceTimeRecord _ | .lifetimeFlush
  | .rollbackFloorWrite _ | .pwrCtlWrite _ | .clockChangeDone | .thermalNotice _ _ | .throttleStart _
  | .throttleEnd | .managementHalt | .registerWrite _ _ _ | .reservedEncoding _ | .fetchFault _ _ _ _
  | .sensorFallenBelow90c _ | .powerLoss | .orderlyShutdown => none

namespace Uses

/-- A px.r is needed: some window is not 0 (R46). -/
def needR (u : Uses) : Bool := ((u.wins.getD []).any (· != 0))
/-- A px.o is needed: M16 is not the default (R48). -/
def needO (u : Uses) : Bool := u.mod == some false

/-- The number of px.i words of the encoding with `ctl.len` prefix words; for an instruction without an
immediate, the number of px.r or px.o words that stand there without an effect (R47, R48). -/
def rest (u : Uses) : Nat := u.ctl.len - WF.one u.needR - WF.one u.needO

/-- The prefix count can be met: the needed prefixes fit, and the words left over are px.i words of an
immediate or a px.r or px.o without effect (R44, R47). -/
def prefixOk (u : Uses) : Bool :=
  u.ctl.len ≤ 4 && WF.one u.needR + WF.one u.needO ≤ u.ctl.len &&
    (match u.imm with
     | some _ => true
     | none => u.rest ≤ WF.one (u.wins.isSome && !u.needR) + WF.one (u.mod.isSome && !u.needO))

/-- The immediate fits its widened field (R45). -/
def immOk (u : Uses) : Bool :=
  match u.imm with
  | some (w, v) => WF.fits (19 * u.rest + w) v
  | none => true

end Uses

/-- The prefix words of the instruction can stand in front of it (R44 to R48). -/
def Instr.prefixesFit (i : Instr) : Bool := match i.uses with | some u => u.prefixOk | none => true
/-- The immediate of the instruction fits (R45). -/
def Instr.immediateFits (i : Instr) : Bool := match i.uses with | some u => u.immOk | none => true
/-- Operands and modifier are accepted by the instruction (R42, R49, R50, R57). -/
def Instr.operandsLegal (i : Instr) : Bool := match i.uses with | some u => u.legal | none => true

/-- The instruction has an encoding: every named check holds. A device step has no words, and every
device step is well formed. -/
def Instr.wellFormed (i : Instr) : Bool := i.prefixesFit && i.immediateFits && i.operandsLegal

end Sys2Proof
end

