-- ==== Sys2Proof/Decode.lean ====
section
/-!
DEFINITION. The decoder, total on any list of words, and the encoder. Both are written from the layouts of R34 to R50
and R56 to R58. A chain that is illegal is rejected with the offset of the word that decides it (R44, R53).
-/

namespace Sys2Proof

/-! ### Fields of a word (R34, R40) -/

/-- MAJ, bits 24..19. -/
def fMaj (w : W32) : BitVec 6 := w.extractLsb' 19 6
/-- rd, bits 18..14. -/
def fD (w : W32) : BitVec 5 := w.extractLsb' 14 5
/-- ra, bits 13..9. -/
def fA (w : W32) : BitVec 5 := w.extractLsb' 9 5
/-- rb, bits 8..4. -/
def fB (w : W32) : BitVec 5 := w.extractLsb' 4 5
/-- fn, bits 3..0. -/
def fF (w : W32) : BitVec 4 := w.extractLsb' 0 4
/-- The ten-bit number of sget, sset, trap and hcall, bits 13..4 (R58). -/
def fN (w : W32) : BitVec 10 := w.extractLsb' 4 10
/-- pd, bits 18..15. -/
def fP (w : W32) : BitVec 4 := w.extractLsb' 15 4
/-- ra of format P, bits 14..10. -/
def fPA (w : W32) : BitVec 5 := w.extractLsb' 10 5
/-- rb of format P, bits 9..5. -/
def fPB (w : W32) : BitVec 5 := w.extractLsb' 5 5
/-- cond of format P (register), bits 4..1. -/
def fPC (w : W32) : BitVec 4 := w.extractLsb' 1 4
/-- cond of format P (immediate), bits 9..6. -/
def fPCI (w : W32) : BitVec 4 := w.extractLsb' 6 4
/-- Bit 0, zero in format P (register). -/
def fZ (w : W32) : BitVec 1 := w.extractLsb' 0 1
/-- pa of format Q, bits 14..11. -/
def fQA (w : W32) : BitVec 4 := w.extractLsb' 11 4
/-- pb of format Q, bits 10..7. -/
def fQB (w : W32) : BitVec 4 := w.extractLsb' 7 4
/-- Bits 6..4, zero in format Q. -/
def fQZ (w : W32) : BitVec 3 := w.extractLsb' 4 3
/-- imm9. -/
def fI (w : W32) : BitVec 9 := w.extractLsb' 0 9
/-- imm14 and off14. -/
def fL (w : W32) : BitVec 14 := w.extractLsb' 0 14
/-- imm6 and off6. -/
def fO (w : W32) : BitVec 6 := w.extractLsb' 0 6
/-- off19. -/
def fOff19 (w : W32) : BitVec 19 := w.extractLsb' 0 19
/-- type of format M, bits 8..6. -/
def fT (w : W32) : BitVec 3 := w.extractLsb' 6 3

/-! ### Codes of the named fields -/

/-- Order codes (R49). -/
def orderCode : Order → BitVec 2
  | .plain => 0 | .acq => 1 | .rel => 2 | .acqrel => 3
/-- The order of a code (R49). -/
def orderOf (b : BitVec 2) : Order :=
  match b.toNat with
  | 0 => .plain | 1 => .acq | 2 => .rel | _ => .acqrel
/-- Scope codes (R49). -/
def scopeCode : Scope → BitVec 3
  | .row => 0 | .clu => 1 | .die => 2 | .dev => 3 | .sys => 4
/-- The scope of a code; 5 to 7 are reserved (R49). -/
def scopeOf (b : BitVec 3) : Option Scope :=
  match b.toNat with
  | 0 => some .row | 1 => some .clu | 2 => some .die | 3 => some .dev | 4 => some .sys | _ => none
/-- Hint codes (R49). -/
def hintCode : Hint → BitVec 2
  | .norm => 0 | .noal => 1 | .strm => 2
/-- The hint of a code; 3 is reserved (R49). -/
def hintOf (b : BitVec 2) : Option Hint :=
  match b.toNat with
  | 0 => some .norm | 1 => some .noal | 2 => some .strm | _ => none
/-- Rounding codes (R50). -/
def rndCode : Rnd → BitVec 3
  | .rne => 0 | .rtz => 1 | .rdn => 2 | .rup => 3 | .rna => 4
/-- The rounding mode of a code; 5 to 7 are reserved (R50). -/
def rndOf (b : BitVec 3) : Option Rnd :=
  match b.toNat with
  | 0 => some .rne | 1 => some .rtz | 2 => some .rdn | 3 => some .rup | 4 => some .rna | _ => none
/-- Format codes (R227). -/
def fmtCode : Fmt → BitVec 4
  | .f32 => 0 | .f16 => 1 | .t16 => 2 | .t8 => 3 | .t6 => 4 | .s8 => 5 | .z8 => 6 | .s16 => 7
  | .s32 => 8 | .s64 => 9 | .z16 => 10 | .z32 => 11
/-- The format of a code; 12 to 15 name no format that M16 accepts (R50, R227). -/
def fmtOf (b : BitVec 4) : Option Fmt :=
  match b.toNat with
  | 0 => some .f32 | 1 => some .f16 | 2 => some .t16 | 3 => some .t8 | 4 => some .t6 | 5 => some .s8
  | 6 => some .z8 | 7 => some .s16 | 8 => some .s32 | 9 => some .s64 | 10 => some .z16
  | 11 => some .z32 | _ => none
/-- Compare condition codes (R220). -/
def condCode : Cond → BitVec 4
  | .eq => 0 | .ne => 1 | .lt => 2 | .le => 3 | .gt => 4 | .ge => 5 | .ltz => 6 | .lez => 7
  | .gtz => 8 | .gez => 9
/-- The condition of a code; 10 to 15 are reserved (R220). -/
def condOf (b : BitVec 4) : Option Cond :=
  match b.toNat with
  | 0 => some .eq | 1 => some .ne | 2 => some .lt | 3 => some .le | 4 => some .gt | 5 => some .ge
  | 6 => some .ltz | 7 => some .lez | 8 => some .gtz | 9 => some .gez | _ => none
/-- Floating compare codes (R262). -/
def fcondCode : FCond → BitVec 4
  | .eq => 0 | .ne => 1 | .lt => 2 | .le => 3 | .gt => 4 | .ge => 5 | .un => 6 | .ord => 7
/-- The floating condition of a code; 8 to 15 are reserved (R262). -/
def fcondOf (b : BitVec 4) : Option FCond :=
  match b.toNat with
  | 0 => some .eq | 1 => some .ne | 2 => some .lt | 3 => some .le | 4 => some .gt | 5 => some .ge
  | 6 => some .un | 7 => some .ord | _ => none
/-- Atomic function codes (R183). -/
def amoCode : AmoOp → BitVec 4
  | .add => 0 | .min => 1 | .max => 2 | .minz => 3 | .maxz => 4 | .and => 5 | .or => 6 | .xor => 7
  | .swap => 8 | .cas => 9 | .inc => 10 | .fadd => 11
/-- The atomic of a code; 12 to 15 are reserved (R183). -/
def amoOf (b : BitVec 4) : Option AmoOp :=
  match b.toNat with
  | 0 => some .add | 1 => some .min | 2 => some .max | 3 => some .minz | 4 => some .maxz
  | 5 => some .and | 6 => some .or | 7 => some .xor | 8 => some .swap | 9 => some .cas
  | 10 => some .inc | 11 => some .fadd | _ => none
/-- Load type codes (R57). -/
def ldCode : LdType → BitVec 3
  | .s8 => 0 | .z8 => 1 | .s16 => 2 | .z16 => 3 | .s32 => 4 | .z32 => 5 | .d64 => 6
/-- The load type of a code; 7 is reserved (R57). -/
def ldOf (b : BitVec 3) : Option LdType :=
  match b.toNat with
  | 0 => some .s8 | 1 => some .z8 | 2 => some .s16 | 3 => some .z16 | 4 => some .s32 | 5 => some .z32
  | 6 => some .d64 | _ => none
/-- Store type codes (R57). -/
def stCode : StType → BitVec 3
  | .b8 => 0 | .h16 => 1 | .w32 => 2 | .d64 => 3
/-- The store type of a code; 4 to 7 are reserved (R57). -/
def stOf (b : BitVec 3) : Option StType :=
  match b.toNat with
  | 0 => some .b8 | 1 => some .h16 | 2 => some .w32 | 3 => some .d64 | _ => none

/-! ### M16 layouts -/

/-- The memory layout (R49). -/
def memBits (m : MemMod) : BitVec 16 :=
  0#8 ++ BitVec.ofBool m.w32 ++ hintCode m.hint ++ orderCode m.order ++ scopeCode m.scope
/-- The memory modifier of an M16, when R49 admits it. -/
def memOf (b : BitVec 16) : Option MemMod :=
  if b.extractLsb' 8 8 = 0 then
    (hintOf (b.extractLsb' 5 2)).bind fun h =>
      (scopeOf (b.extractLsb' 0 3)).map fun s => ⟨b.getLsbD 7, h, orderOf (b.extractLsb' 3 2), s⟩
  else none
/-- The floating-point layout (R50). -/
def fBits (m : FMod) : BitVec 16 := 0#5 ++ fmtCode m.dfmt ++ fmtCode m.sfmt ++ rndCode m.rnd
/-- The floating-point modifier of an M16, when R50 admits it. -/
def fOf (b : BitVec 16) : Option FMod :=
  if b.extractLsb' 11 5 = 0 then
    (fmtOf (b.extractLsb' 7 4)).bind fun d =>
      (fmtOf (b.extractLsb' 3 4)).bind fun s => (rndOf (b.extractLsb' 0 3)).map fun r => ⟨d, s, r⟩
  else none
/-- The modifier of fcmp and fclass, whose dfmt and rnd are 0 (R254). -/
def fSrcOf (b : BitVec 16) : Option FMod :=
  (fOf b).bind fun m => if m.dfmt = .f32 ∧ m.rnd = .rne then some m else none
/-- The vector layout (R276). -/
def vBits (m : VMod) : BitVec 16 := m.osc ++ BitVec.ofBool m.dd ++ m.sub ++ rndCode m.rnd
/-- The vector modifier of an M16, when its rnd is not reserved (R276). -/
def vOf (b : BitVec 16) : Option VMod :=
  (rndOf (b.extractLsb' 0 3)).map fun r => ⟨b.extractLsb' 8 8, b.getLsbD 7, b.extractLsb' 3 4, r⟩
/-- The cask layout (R140). -/
def caskBits (m : CaskMod) : BitVec 16 := 0#12 ++ BitVec.ofBool m.rel ++ 0#1 ++ m.sz
/-- The cask modifier of an M16, when R140 admits it. -/
def caskOf (b : BitVec 16) : Option CaskMod :=
  if b.extractLsb' 4 12 = 0 ∧ b.getLsbD 2 = false then some ⟨b.getLsbD 3, b.extractLsb' 0 2⟩ else none
/-- The copy layout with a hint (R108). -/
def cpyHintBits (h : Hint) : BitVec 16 := 0#9 ++ hintCode h ++ 0#5
/-- The hint of a copy's M16 (R108). -/
def cpyHintOf (b : BitVec 16) : Option Hint :=
  if b.extractLsb' 7 9 = 0 ∧ b.extractLsb' 0 5 = 0 then hintOf (b.extractLsb' 5 2) else none
/-- The copy layout with the event bit (R108). -/
def cpyEvBits (ev : Bool) : BitVec 16 := 0#7 ++ BitVec.ofBool ev ++ 0#8
/-- The event bit of a cpyc or cpyw M16 (R108). -/
def cpyEvOf (b : BitVec 16) : Option Bool :=
  if b.extractLsb' 9 7 = 0 ∧ b.extractLsb' 0 8 = 0 then some (b.getLsbD 8) else none

/-! ### The base word -/

/-- What a base word admits and stands for: the width and contents of its immediate field, which of rd,
ra and rb are registers that a window may reach (none: px.r is not admitted), the default M16 (none:
px.o is not admitted), and the instruction that the whole chain is, when M16 is one it accepts. -/
structure Cand where
  imm   : Option (Nat × Nat)
  regs  : Option (Bool × Bool × Bool)
  mod   : Option (BitVec 16)
  build : Ctl → BitVec 2 → BitVec 2 → BitVec 2 → Int → BitVec 16 → Option Instr

/-- The candidate, when the base word meets the condition of its own entry (R42). -/
def keep (ok : Bool) (k : Cand) : Option Cand := if ok then some k else none


/-! ### The opcode map, page 0 (R56 to R58): one function per major -/

/-- MAJ 0x00 by function (R56). -/
def decode00 (w : W32) : Option Cand :=
  match (fF w).toNat with
  | 0 => keep (fD w == 0 && fA w == 0 && fB w == 0) ⟨none, (some (false, false, false)), none, fun c _ _ _ _ _ => some (.ill c )⟩
  | 1 => keep (fD w == 0 && fA w == 0 && fB w == 0) ⟨none, (some (false, false, false)), none, fun c _ _ _ _ _ => some (.nop c )⟩
  | 2 => keep (fD w == 0 && fA w == 0 && fB w == 0) ⟨none, (some (false, false, false)), none, fun c _ _ _ _ _ => some (.stop c )⟩
  | 3 => keep (fD w == 0 && fA w == 0 && fB w == 0) ⟨none, (some (false, false, false)), none, fun c _ _ _ _ _ => some (.yield c )⟩
  | 4 => keep (fD w == 0 && fA w == 0 && fB w == 0) ⟨none, (some (false, false, false)), none, fun c _ _ _ _ _ => some (.brk c )⟩
  | 5 => keep (fD w == 0 && fA w == 0 && fB w == 0) ⟨none, (some (false, false, false)), none, fun c _ _ _ _ _ => some (.ifence c )⟩
  | 6 => keep (WF.sregAssigned (fN w)) ⟨none, (some (true, false, false)), none, fun c wd _ _ _ _ => some (.sget c ⟨wd, fD w⟩ (fN w))⟩
  | 7 => keep (WF.sregWritable (fN w)) ⟨none, (some (true, false, false)), none, fun c wd _ _ _ _ => some (.sset c ⟨wd, fD w⟩ (fN w))⟩
  | 8 => keep (fD w == 0) ⟨none, (some (false, false, false)), none, fun c _ _ _ _ _ => some (.trap c (fN w))⟩
  | 9 => keep (fD w == 0) ⟨none, (some (false, false, false)), none, fun c _ _ _ _ _ => some (.hcall c (fN w))⟩
  | 10 => keep (fD w == 0) ⟨none, (some (false, true, true)), none, fun c _ wa wb _ _ => some (.xret c ⟨wa, fA w⟩ ⟨wb, fB w⟩)⟩
  | 11 => keep (fD w == 0) ⟨none, (some (false, true, true)), none, fun c _ wa wb _ _ => some (.tlbinv c ⟨wa, fA w⟩ ⟨wb, fB w⟩)⟩
  | 12 => some ⟨none, (some (true, true, true)), none, fun c wd wa wb _ _ => some (.rowctl c ⟨wd, fD w⟩ ⟨wa, fA w⟩ ⟨wb, fB w⟩)⟩
  | 13 => some ⟨none, (some (true, true, true)), none, fun c wd wa wb _ _ => some (.mbox c ⟨wd, fD w⟩ ⟨wa, fA w⟩ ⟨wb, fB w⟩)⟩
  | _ => none

/-- MAJ 0x01 by function (R56). -/
def decode01 (w : W32) : Option Cand :=
  match (fF w).toNat with
  | 0 => some ⟨none, (some (true, true, true)), none, fun c wd wa wb _ _ => some (.add c ⟨wd, fD w⟩ ⟨wa, fA w⟩ ⟨wb, fB w⟩)⟩
  | 1 => some ⟨none, (some (true, true, true)), none, fun c wd wa wb _ _ => some (.sub c ⟨wd, fD w⟩ ⟨wa, fA w⟩ ⟨wb, fB w⟩)⟩
  | 2 => some ⟨none, (some (true, true, true)), none, fun c wd wa wb _ _ => some (.and c ⟨wd, fD w⟩ ⟨wa, fA w⟩ ⟨wb, fB w⟩)⟩
  | 3 => some ⟨none, (some (true, true, true)), none, fun c wd wa wb _ _ => some (.or c ⟨wd, fD w⟩ ⟨wa, fA w⟩ ⟨wb, fB w⟩)⟩
  | 4 => some ⟨none, (some (true, true, true)), none, fun c wd wa wb _ _ => some (.xor c ⟨wd, fD w⟩ ⟨wa, fA w⟩ ⟨wb, fB w⟩)⟩
  | 5 => some ⟨none, (some (true, true, true)), none, fun c wd wa wb _ _ => some (.andn c ⟨wd, fD w⟩ ⟨wa, fA w⟩ ⟨wb, fB w⟩)⟩
  | 6 => some ⟨none, (some (true, true, true)), none, fun c wd wa wb _ _ => some (.orn c ⟨wd, fD w⟩ ⟨wa, fA w⟩ ⟨wb, fB w⟩)⟩
  | 7 => some ⟨none, (some (true, true, true)), none, fun c wd wa wb _ _ => some (.nor c ⟨wd, fD w⟩ ⟨wa, fA w⟩ ⟨wb, fB w⟩)⟩
  | 8 => some ⟨none, (some (true, true, true)), none, fun c wd wa wb _ _ => some (.shl c ⟨wd, fD w⟩ ⟨wa, fA w⟩ ⟨wb, fB w⟩)⟩
  | 9 => some ⟨none, (some (true, true, true)), none, fun c wd wa wb _ _ => some (.shr c ⟨wd, fD w⟩ ⟨wa, fA w⟩ ⟨wb, fB w⟩)⟩
  | 10 => some ⟨none, (some (true, true, true)), none, fun c wd wa wb _ _ => some (.sra c ⟨wd, fD w⟩ ⟨wa, fA w⟩ ⟨wb, fB w⟩)⟩
  | 11 => some ⟨none, (some (true, true, true)), none, fun c wd wa wb _ _ => some (.rol c ⟨wd, fD w⟩ ⟨wa, fA w⟩ ⟨wb, fB w⟩)⟩
  | 12 => some ⟨none, (some (true, true, true)), none, fun c wd wa wb _ _ => some (.min c ⟨wd, fD w⟩ ⟨wa, fA w⟩ ⟨wb, fB w⟩)⟩
  | 13 => some ⟨none, (some (true, true, true)), none, fun c wd wa wb _ _ => some (.max c ⟨wd, fD w⟩ ⟨wa, fA w⟩ ⟨wb, fB w⟩)⟩
  | 14 => some ⟨none, (some (true, true, true)), none, fun c wd wa wb _ _ => some (.minz c ⟨wd, fD w⟩ ⟨wa, fA w⟩ ⟨wb, fB w⟩)⟩
  | _ => some ⟨none, (some (true, true, true)), none, fun c wd wa wb _ _ => some (.maxz c ⟨wd, fD w⟩ ⟨wa, fA w⟩ ⟨wb, fB w⟩)⟩

/-- MAJ 0x02 by function (R56). -/
def decode02 (w : W32) : Option Cand :=
  match (fF w).toNat with
  | 0 => some ⟨none, (some (true, true, true)), none, fun c wd wa wb _ _ => some (.mul c ⟨wd, fD w⟩ ⟨wa, fA w⟩ ⟨wb, fB w⟩)⟩
  | 1 => some ⟨none, (some (true, true, true)), none, fun c wd wa wb _ _ => some (.mulh c ⟨wd, fD w⟩ ⟨wa, fA w⟩ ⟨wb, fB w⟩)⟩
  | 2 => some ⟨none, (some (true, true, true)), none, fun c wd wa wb _ _ => some (.mulhz c ⟨wd, fD w⟩ ⟨wa, fA w⟩ ⟨wb, fB w⟩)⟩
  | 3 => some ⟨none, (some (true, true, true)), none, fun c wd wa wb _ _ => some (.div c ⟨wd, fD w⟩ ⟨wa, fA w⟩ ⟨wb, fB w⟩)⟩
  | 4 => some ⟨none, (some (true, true, true)), none, fun c wd wa wb _ _ => some (.divz c ⟨wd, fD w⟩ ⟨wa, fA w⟩ ⟨wb, fB w⟩)⟩
  | 5 => some ⟨none, (some (true, true, true)), none, fun c wd wa wb _ _ => some (.rem c ⟨wd, fD w⟩ ⟨wa, fA w⟩ ⟨wb, fB w⟩)⟩
  | 6 => some ⟨none, (some (true, true, true)), none, fun c wd wa wb _ _ => some (.remz c ⟨wd, fD w⟩ ⟨wa, fA w⟩ ⟨wb, fB w⟩)⟩
  | 7 => keep (fB w == 0) ⟨none, (some (true, true, false)), none, fun c wd wa _ _ _ => some (.abs c ⟨wd, fD w⟩ ⟨wa, fA w⟩)⟩
  | 8 => keep (fB w == 0) ⟨none, (some (true, true, false)), none, fun c wd wa _ _ _ => some (.neg c ⟨wd, fD w⟩ ⟨wa, fA w⟩)⟩
  | 9 => keep (fB w == 0) ⟨none, (some (true, true, false)), none, fun c wd wa _ _ _ => some (.clz c ⟨wd, fD w⟩ ⟨wa, fA w⟩)⟩
  | 10 => keep (fB w == 0) ⟨none, (some (true, true, false)), none, fun c wd wa _ _ _ => some (.ctz c ⟨wd, fD w⟩ ⟨wa, fA w⟩)⟩
  | 11 => keep (fB w == 0) ⟨none, (some (true, true, false)), none, fun c wd wa _ _ _ => some (.popc c ⟨wd, fD w⟩ ⟨wa, fA w⟩)⟩
  | 12 => keep (fB w == 0) ⟨none, (some (true, true, false)), none, fun c wd wa _ _ _ => some (.bswap c ⟨wd, fD w⟩ ⟨wa, fA w⟩)⟩
  | _ => none

/-- MAJ 0x03 by function (R56). -/
def decode03 (w : W32) : Option Cand :=
  match (fF w).toNat with
  | 0 => some ⟨none, (some (true, true, true)), none, fun c wd wa wb _ _ => some (.bfx c ⟨wd, fD w⟩ ⟨wa, fA w⟩ ⟨wb, fB w⟩)⟩
  | 1 => some ⟨none, (some (true, true, true)), none, fun c wd wa wb _ _ => some (.bfxz c ⟨wd, fD w⟩ ⟨wa, fA w⟩ ⟨wb, fB w⟩)⟩
  | 2 => some ⟨none, (some (true, true, true)), none, fun c wd wa wb _ _ => some (.bfi c ⟨wd, fD w⟩ ⟨wa, fA w⟩ ⟨wb, fB w⟩)⟩
  | 3 => keep (fB w == 0) ⟨none, (some (true, true, false)), none, fun c wd wa _ _ _ => some (.sxb c ⟨wd, fD w⟩ ⟨wa, fA w⟩)⟩
  | 4 => keep (fB w == 0) ⟨none, (some (true, true, false)), none, fun c wd wa _ _ _ => some (.sxh c ⟨wd, fD w⟩ ⟨wa, fA w⟩)⟩
  | 5 => keep (fB w == 0) ⟨none, (some (true, true, false)), none, fun c wd wa _ _ _ => some (.sxw c ⟨wd, fD w⟩ ⟨wa, fA w⟩)⟩
  | 6 => keep (fB w == 0) ⟨none, (some (true, true, false)), none, fun c wd wa _ _ _ => some (.zxb c ⟨wd, fD w⟩ ⟨wa, fA w⟩)⟩
  | 7 => keep (fB w == 0) ⟨none, (some (true, true, false)), none, fun c wd wa _ _ _ => some (.zxh c ⟨wd, fD w⟩ ⟨wa, fA w⟩)⟩
  | 8 => keep (fB w == 0) ⟨none, (some (true, true, false)), none, fun c wd wa _ _ _ => some (.zxw c ⟨wd, fD w⟩ ⟨wa, fA w⟩)⟩
  | _ => none

/-- MAJ 0x04 (R56). -/
def decode04 (w : W32) : Option Cand :=
  (condOf (fPC w)).bind fun cond => keep (fZ w == 0) ⟨none, (some (false, true, true)), none, fun c _ wa wb _ _ => some (.cmp c (fP w) cond ⟨wa, fPA w⟩ ⟨wb, fPB w⟩)⟩

/-- MAJ 0x05 (R56). -/
def decode05 (w : W32) : Option Cand :=
  (condOf (fPCI w)).bind fun cond => some ⟨(some (6, (fO w).toNat)), (some (false, true, false)), none, fun c _ wa _ imm _ => some (.cmpi c (fP w) cond ⟨wa, fPA w⟩ imm)⟩

/-- MAJ 0x06 by function (R56). -/
def decode06 (w : W32) : Option Cand :=
  match (fF w).toNat with
  | 0 => keep (fQZ w == 0) ⟨none, none, none, fun c _ _ _ _ _ => some (.pand c (fP w) (fQA w) (fQB w))⟩
  | 1 => keep (fQZ w == 0) ⟨none, none, none, fun c _ _ _ _ _ => some (.por c (fP w) (fQA w) (fQB w))⟩
  | 2 => keep (fQZ w == 0) ⟨none, none, none, fun c _ _ _ _ _ => some (.pxor c (fP w) (fQA w) (fQB w))⟩
  | 3 => keep (fQZ w == 0) ⟨none, none, none, fun c _ _ _ _ _ => some (.pandn c (fP w) (fQA w) (fQB w))⟩
  | 4 => keep (fQZ w == 0 && fQB w == 0) ⟨none, none, none, fun c _ _ _ _ _ => some (.pnot c (fP w) (fQA w))⟩
  | 5 => keep (fQZ w == 0 && fQB w == 0) ⟨none, none, none, fun c _ _ _ _ _ => some (.pmov c (fP w) (fQA w))⟩
  | 6 => keep (fQZ w == 0 && fQA w == 0 && fQB w == 0) ⟨none, none, none, fun c _ _ _ _ _ => some (.pset c (fP w))⟩
  | 7 => keep (fQZ w == 0 && fQA w == 0 && fQB w == 0) ⟨none, none, none, fun c _ _ _ _ _ => some (.pclr c (fP w))⟩
  | 8 => keep (fQZ w == 0 && fQA w == 0 && fQB w == 0) ⟨none, none, none, fun c _ _ _ _ _ => some (.pget c (fP w))⟩
  | 9 => keep (fQZ w == 0 && fP w == 0 && fQB w == 0) ⟨none, none, none, fun c _ _ _ _ _ => some (.pput c (fQA w))⟩
  | _ => none

/-- MAJ 0x08 (R56). -/
def decode08 (w : W32) : Option Cand :=
  some ⟨(some (9, (fI w).toNat)), (some (true, true, false)), none, fun c wd wa _ imm _ => some (.addi c ⟨wd, fD w⟩ ⟨wa, fA w⟩ imm)⟩

/-- MAJ 0x09 (R56). -/
def decode09 (w : W32) : Option Cand :=
  some ⟨(some (9, (fI w).toNat)), (some (true, true, false)), none, fun c wd wa _ imm _ => some (.andi c ⟨wd, fD w⟩ ⟨wa, fA w⟩ imm)⟩

/-- MAJ 0x0A (R56). -/
def decode0A (w : W32) : Option Cand :=
  some ⟨(some (9, (fI w).toNat)), (some (true, true, false)), none, fun c wd wa _ imm _ => some (.ori c ⟨wd, fD w⟩ ⟨wa, fA w⟩ imm)⟩

/-- MAJ 0x0B (R56). -/
def decode0B (w : W32) : Option Cand :=
  some ⟨(some (9, (fI w).toNat)), (some (true, true, false)), none, fun c wd wa _ imm _ => some (.xori c ⟨wd, fD w⟩ ⟨wa, fA w⟩ imm)⟩

/-- MAJ 0x0C (R56). -/
def decode0C (w : W32) : Option Cand :=
  some ⟨(some (9, (fI w).toNat)), (some (true, true, false)), none, fun c wd wa _ imm _ => some (.shli c ⟨wd, fD w⟩ ⟨wa, fA w⟩ imm)⟩

/-- MAJ 0x0D (R56). -/
def decode0D (w : W32) : Option Cand :=
  some ⟨(some (9, (fI w).toNat)), (some (true, true, false)), none, fun c wd wa _ imm _ => some (.shri c ⟨wd, fD w⟩ ⟨wa, fA w⟩ imm)⟩

/-- MAJ 0x0E (R56). -/
def decode0E (w : W32) : Option Cand :=
  some ⟨(some (9, (fI w).toNat)), (some (true, true, false)), none, fun c wd wa _ imm _ => some (.srai c ⟨wd, fD w⟩ ⟨wa, fA w⟩ imm)⟩

/-- MAJ 0x0F (R56). -/
def decode0F (w : W32) : Option Cand :=
  some ⟨(some (9, (fI w).toNat)), (some (true, true, false)), none, fun c wd wa _ imm _ => some (.muli c ⟨wd, fD w⟩ ⟨wa, fA w⟩ imm)⟩

/-- MAJ 0x10 (R56). -/
def decode10 (w : W32) : Option Cand :=
  some ⟨(some (14, (fL w).toNat)), (some (true, false, false)), none, fun c wd _ _ imm _ => some (.movi c ⟨wd, fD w⟩ imm)⟩

/-- MAJ 0x11 (R56). -/
def decode11 (w : W32) : Option Cand :=
  some ⟨(some (14, (fL w).toNat)), (some (true, false, false)), none, fun c wd _ _ imm _ => some (.adr c ⟨wd, fD w⟩ imm)⟩

/-- MAJ 0x12 (R56). -/
def decode12 (w : W32) : Option Cand :=
  some ⟨none, none, none, fun c _ _ _ _ _ => some (.br c (fOff19 w))⟩

/-- MAJ 0x13 (R56). -/
def decode13 (w : W32) : Option Cand :=
  some ⟨none, none, none, fun c _ _ _ _ _ => some (.bl c (fOff19 w))⟩

/-- MAJ 0x14 by function (R56). -/
def decode14 (w : W32) : Option Cand :=
  match (fF w).toNat with
  | 0 => keep (fD w == 0 && fB w == 0) ⟨none, (some (false, true, false)), none, fun c _ wa _ _ _ => some (.jr c ⟨wa, fA w⟩)⟩
  | 1 => keep (fB w == 0) ⟨none, (some (true, true, false)), none, fun c wd wa _ _ _ => some (.jlr c ⟨wd, fD w⟩ ⟨wa, fA w⟩)⟩
  | _ => none

/-- MAJ 0x15 (R56). -/
def decode15 (w : W32) : Option Cand :=
  some ⟨none, (some (true, false, false)), none, fun c wd _ _ _ _ => some (.dbnz c ⟨wd, fD w⟩ (fL w))⟩

/-- MAJ 0x18 (R56). -/
def decode18 (w : W32) : Option Cand :=
  (ldOf (fT w)).bind fun t => some ⟨(some (6, (fO w).toNat)), (some (true, true, false)), (some 0x0000#16), fun c wd wa _ imm m16 => (memOf m16).map fun m => .ld c ⟨wd, fD w⟩ ⟨wa, fA w⟩ t imm m⟩

/-- MAJ 0x19 (R56). -/
def decode19 (w : W32) : Option Cand :=
  (stOf (fT w)).bind fun t => some ⟨(some (6, (fO w).toNat)), (some (true, true, false)), (some 0x0000#16), fun c wd wa _ imm m16 => (memOf m16).map fun m => .st c ⟨wd, fD w⟩ ⟨wa, fA w⟩ t imm m⟩

/-- MAJ 0x1A (R56). -/
def decode1A (w : W32) : Option Cand :=
  (ldOf (fT w)).bind fun t => some ⟨(some (6, (fO w).toNat)), (some (true, true, false)), (some 0x0000#16), fun c wd wa _ imm m16 => (memOf m16).map fun m => .ldl c ⟨wd, fD w⟩ ⟨wa, fA w⟩ t imm m⟩

/-- MAJ 0x1B (R56). -/
def decode1B (w : W32) : Option Cand :=
  (stOf (fT w)).bind fun t => some ⟨(some (6, (fO w).toNat)), (some (true, true, false)), (some 0x0000#16), fun c wd wa _ imm m16 => (memOf m16).map fun m => .stl c ⟨wd, fD w⟩ ⟨wa, fA w⟩ t imm m⟩

/-- MAJ 0x1C (R56). -/
def decode1C (w : W32) : Option Cand :=
  (amoOf (fF w)).bind fun op => some ⟨none, (some (true, true, true)), (some 0x0003#16), fun c wd wa wb _ m16 => (memOf m16).map fun m => .amo c ⟨wd, fD w⟩ ⟨wa, fA w⟩ ⟨wb, fB w⟩ op m⟩

/-- MAJ 0x1D by function (R56). -/
def decode1D (w : W32) : Option Cand :=
  match (fF w).toNat with
  | 0 => keep (fD w == 0 && fA w == 0 && fB w == 0) ⟨none, (some (false, false, false)), (some 0x001B#16), fun c _ _ _ _ m16 => (memOf m16).map fun m => .fence c m⟩
  | 1 => keep (fD w == 0 && fB w == 0) ⟨none, (some (false, true, false)), (some 0x0003#16), fun c _ wa _ _ m16 => (memOf m16).map fun m => .pf c ⟨wa, fA w⟩ m⟩
  | _ => none

/-- MAJ 0x1E by function (R56). -/
def decode1E (w : W32) : Option Cand :=
  match (fF w).toNat with
  | 0 => some ⟨none, (some (true, true, true)), (some 0x0000#16), fun c wd wa wb _ m16 => (caskOf m16).map fun m => .app c ⟨wd, fD w⟩ ⟨wa, fA w⟩ ⟨wb, fB w⟩ m⟩
  | 1 => some ⟨none, (some (true, true, true)), (some 0x0000#16), fun c wd wa wb _ m16 => (caskOf m16).map fun m => .appl c ⟨wd, fD w⟩ ⟨wa, fA w⟩ ⟨wb, fB w⟩ m⟩
  | 2 => keep (fB w == 0) ⟨none, (some (true, true, false)), (some 0x0000#16), fun c wd wa _ _ m16 => if m16 = 0 then some (.seal c ⟨wd, fD w⟩ ⟨wa, fA w⟩) else none⟩
  | 3 => keep (fB w == 0) ⟨none, (some (true, true, false)), (some 0x0000#16), fun c wd wa _ _ m16 => if m16 = 0 then some (.tail c ⟨wd, fD w⟩ ⟨wa, fA w⟩) else none⟩
  | _ => none

/-- MAJ 0x20 by function (R56). -/
def decode20 (w : W32) : Option Cand :=
  match (fF w).toNat with
  | 0 => some ⟨none, (some (true, true, true)), (some 0x0000#16), fun c wd wa wb _ m16 => (fOf m16).map fun m => .fadd c ⟨wd, fD w⟩ ⟨wa, fA w⟩ ⟨wb, fB w⟩ m⟩
  | 1 => some ⟨none, (some (true, true, true)), (some 0x0000#16), fun c wd wa wb _ m16 => (fOf m16).map fun m => .fsub c ⟨wd, fD w⟩ ⟨wa, fA w⟩ ⟨wb, fB w⟩ m⟩
  | 2 => some ⟨none, (some (true, true, true)), (some 0x0000#16), fun c wd wa wb _ m16 => (fOf m16).map fun m => .fmul c ⟨wd, fD w⟩ ⟨wa, fA w⟩ ⟨wb, fB w⟩ m⟩
  | 3 => some ⟨none, (some (true, true, true)), (some 0x0000#16), fun c wd wa wb _ m16 => (fOf m16).map fun m => .fdiv c ⟨wd, fD w⟩ ⟨wa, fA w⟩ ⟨wb, fB w⟩ m⟩
  | 4 => keep (fB w == 0) ⟨none, (some (true, true, false)), (some 0x0000#16), fun c wd wa _ _ m16 => (fOf m16).map fun m => .fsqrt c ⟨wd, fD w⟩ ⟨wa, fA w⟩ m⟩
  | 5 => some ⟨none, (some (true, true, true)), (some 0x0000#16), fun c wd wa wb _ m16 => (fOf m16).map fun m => .fmin c ⟨wd, fD w⟩ ⟨wa, fA w⟩ ⟨wb, fB w⟩ m⟩
  | 6 => some ⟨none, (some (true, true, true)), (some 0x0000#16), fun c wd wa wb _ m16 => (fOf m16).map fun m => .fmax c ⟨wd, fD w⟩ ⟨wa, fA w⟩ ⟨wb, fB w⟩ m⟩
  | 7 => keep (fB w == 0) ⟨none, (some (true, true, false)), (some 0x0000#16), fun c wd wa _ _ m16 => (fOf m16).map fun m => .fabs c ⟨wd, fD w⟩ ⟨wa, fA w⟩ m⟩
  | 8 => keep (fB w == 0) ⟨none, (some (true, true, false)), (some 0x0000#16), fun c wd wa _ _ m16 => (fOf m16).map fun m => .fneg c ⟨wd, fD w⟩ ⟨wa, fA w⟩ m⟩
  | 9 => keep (fB w == 0) ⟨none, (some (true, true, false)), (some 0x0000#16), fun c wd wa _ _ m16 => (fSrcOf m16).map fun m => .fclass c ⟨wd, fD w⟩ ⟨wa, fA w⟩ m.sfmt⟩
  | 10 => some ⟨none, (some (true, true, true)), (some 0x0000#16), fun c wd wa wb _ m16 => (fOf m16).map fun m => .fcpys c ⟨wd, fD w⟩ ⟨wa, fA w⟩ ⟨wb, fB w⟩ m⟩
  | _ => none

/-- MAJ 0x21 by function (R56). -/
def decode21 (w : W32) : Option Cand :=
  match (fF w).toNat with
  | 0 => some ⟨none, (some (true, true, true)), (some 0x0000#16), fun c wd wa wb _ m16 => (fOf m16).map fun m => .fma c ⟨wd, fD w⟩ ⟨wa, fA w⟩ ⟨wb, fB w⟩ m⟩
  | 1 => some ⟨none, (some (true, true, true)), (some 0x0000#16), fun c wd wa wb _ m16 => (fOf m16).map fun m => .fms c ⟨wd, fD w⟩ ⟨wa, fA w⟩ ⟨wb, fB w⟩ m⟩
  | 2 => some ⟨none, (some (true, true, true)), (some 0x0000#16), fun c wd wa wb _ m16 => (fOf m16).map fun m => .fnma c ⟨wd, fD w⟩ ⟨wa, fA w⟩ ⟨wb, fB w⟩ m⟩
  | 3 => some ⟨none, (some (true, true, true)), (some 0x0000#16), fun c wd wa wb _ m16 => (fOf m16).map fun m => .fnms c ⟨wd, fD w⟩ ⟨wa, fA w⟩ ⟨wb, fB w⟩ m⟩
  | _ => none

/-- MAJ 0x22 (R56). -/
def decode22 (w : W32) : Option Cand :=
  (fcondOf (fPC w)).bind fun cond => keep (fZ w == 0) ⟨none, (some (false, true, true)), (some 0x0000#16), fun c _ wa wb _ m16 => (fSrcOf m16).map fun m => .fcmp c (fP w) cond ⟨wa, fPA w⟩ ⟨wb, fPB w⟩ m.sfmt⟩

/-- MAJ 0x23 by function (R56). -/
def decode23 (w : W32) : Option Cand :=
  match (fF w).toNat with
  | 0 => keep (fB w == 0) ⟨none, (some (true, true, false)), (some 0x0000#16), fun c wd wa _ _ m16 => (fOf m16).map fun m => .fcvt c ⟨wd, fD w⟩ ⟨wa, fA w⟩ m⟩
  | 1 => keep (fB w == 0) ⟨none, (some (true, true, false)), (some 0x0000#16), fun c wd wa _ _ m16 => (fOf m16).map fun m => .fcvti c ⟨wd, fD w⟩ ⟨wa, fA w⟩ m⟩
  | 2 => keep (fB w == 0) ⟨none, (some (true, true, false)), (some 0x0000#16), fun c wd wa _ _ m16 => (fOf m16).map fun m => .fcvtf c ⟨wd, fD w⟩ ⟨wa, fA w⟩ m⟩
  | _ => none

/-- MAJ 0x28 by function (R56). -/
def decode28 (w : W32) : Option Cand :=
  match (fF w).toNat with
  | 0 => keep (fB w == 0) ⟨none, (some (true, true, false)), (some 0x0000#16), fun c wd wa _ _ m16 => if m16 = 0 then some (.vclaim c ⟨wd, fD w⟩ ⟨wa, fA w⟩) else none⟩
  | 1 => keep (fA w == 0 && fB w == 0) ⟨none, (some (true, false, false)), (some 0x0000#16), fun c wd _ _ _ m16 => if m16 = 0 then some (.vfree c ⟨wd, fD w⟩) else none⟩
  | 2 => keep (fB w == 0) ⟨none, (some (true, true, false)), (some 0x0000#16), fun c wd wa _ _ m16 => if m16 = 0 then some (.vwait c ⟨wd, fD w⟩ ⟨wa, fA w⟩) else none⟩
  | 3 => keep (fB w == 0) ⟨none, (some (true, true, false)), (some 0x0000#16), fun c wd wa _ _ m16 => if m16 = 0 then some (.vstat c ⟨wd, fD w⟩ ⟨wa, fA w⟩) else none⟩
  | _ => none

/-- MAJ 0x29 by function (R56). -/
def decode29 (w : W32) : Option Cand :=
  match (fF w).toNat with
  | 0 => some ⟨none, (some (true, true, true)), (some 0x0000#16), fun c wd wa wb _ m16 => (vOf m16).map fun m => .vadd c ⟨wd, fD w⟩ ⟨wa, fA w⟩ ⟨wb, fB w⟩ m⟩
  | 1 => some ⟨none, (some (true, true, true)), (some 0x0000#16), fun c wd wa wb _ m16 => (vOf m16).map fun m => .vsub c ⟨wd, fD w⟩ ⟨wa, fA w⟩ ⟨wb, fB w⟩ m⟩
  | 2 => some ⟨none, (some (true, true, true)), (some 0x0000#16), fun c wd wa wb _ m16 => (vOf m16).map fun m => .vmul c ⟨wd, fD w⟩ ⟨wa, fA w⟩ ⟨wb, fB w⟩ m⟩
  | 3 => some ⟨none, (some (true, true, true)), (some 0x0000#16), fun c wd wa wb _ m16 => (vOf m16).map fun m => .vmin c ⟨wd, fD w⟩ ⟨wa, fA w⟩ ⟨wb, fB w⟩ m⟩
  | 4 => some ⟨none, (some (true, true, true)), (some 0x0000#16), fun c wd wa wb _ m16 => (vOf m16).map fun m => .vmax c ⟨wd, fD w⟩ ⟨wa, fA w⟩ ⟨wb, fB w⟩ m⟩
  | 5 => some ⟨none, (some (true, true, true)), (some 0x0000#16), fun c wd wa wb _ m16 => (vOf m16).map fun m => .vdiv c ⟨wd, fD w⟩ ⟨wa, fA w⟩ ⟨wb, fB w⟩ m⟩
  | 6 => some ⟨none, (some (true, true, true)), (some 0x0000#16), fun c wd wa wb _ m16 => (vOf m16).map fun m => .vand c ⟨wd, fD w⟩ ⟨wa, fA w⟩ ⟨wb, fB w⟩ m⟩
  | 7 => some ⟨none, (some (true, true, true)), (some 0x0000#16), fun c wd wa wb _ m16 => (vOf m16).map fun m => .vor c ⟨wd, fD w⟩ ⟨wa, fA w⟩ ⟨wb, fB w⟩ m⟩
  | 8 => some ⟨none, (some (true, true, true)), (some 0x0000#16), fun c wd wa wb _ m16 => (vOf m16).map fun m => .vxor c ⟨wd, fD w⟩ ⟨wa, fA w⟩ ⟨wb, fB w⟩ m⟩
  | 9 => some ⟨none, (some (true, true, true)), (some 0x0000#16), fun c wd wa wb _ m16 => (vOf m16).map fun m => .vshl c ⟨wd, fD w⟩ ⟨wa, fA w⟩ ⟨wb, fB w⟩ m⟩
  | 10 => some ⟨none, (some (true, true, true)), (some 0x0000#16), fun c wd wa wb _ m16 => (vOf m16).map fun m => .vshr c ⟨wd, fD w⟩ ⟨wa, fA w⟩ ⟨wb, fB w⟩ m⟩
  | 11 => some ⟨none, (some (true, true, true)), (some 0x0000#16), fun c wd wa wb _ m16 => (vOf m16).map fun m => .vsra c ⟨wd, fD w⟩ ⟨wa, fA w⟩ ⟨wb, fB w⟩ m⟩
  | 12 => some ⟨none, (some (true, true, true)), (some 0x0000#16), fun c wd wa wb _ m16 => (vOf m16).map fun m => .vabsd c ⟨wd, fD w⟩ ⟨wa, fA w⟩ ⟨wb, fB w⟩ m⟩
  | _ => none

/-- MAJ 0x2A by function (R56). -/
def decode2A (w : W32) : Option Cand :=
  match (fF w).toNat with
  | 0 => some ⟨none, (some (true, true, true)), (some 0x0000#16), fun c wd wa wb _ m16 => (vOf m16).map fun m => .vfma c ⟨wd, fD w⟩ ⟨wa, fA w⟩ ⟨wb, fB w⟩ m⟩
  | 1 => some ⟨none, (some (true, true, true)), (some 0x0000#16), fun c wd wa wb _ m16 => (vOf m16).map fun m => .vfms c ⟨wd, fD w⟩ ⟨wa, fA w⟩ ⟨wb, fB w⟩ m⟩
  | 2 => some ⟨none, (some (true, true, true)), (some 0x0000#16), fun c wd wa wb _ m16 => (vOf m16).map fun m => .vneg c ⟨wd, fD w⟩ ⟨wa, fA w⟩ ⟨wb, fB w⟩ m⟩
  | 3 => some ⟨none, (some (true, true, true)), (some 0x0000#16), fun c wd wa wb _ m16 => (vOf m16).map fun m => .vabs c ⟨wd, fD w⟩ ⟨wa, fA w⟩ ⟨wb, fB w⟩ m⟩
  | 4 => some ⟨none, (some (true, true, true)), (some 0x0000#16), fun c wd wa wb _ m16 => (vOf m16).map fun m => .vsqrt c ⟨wd, fD w⟩ ⟨wa, fA w⟩ ⟨wb, fB w⟩ m⟩
  | 5 => some ⟨none, (some (true, true, true)), (some 0x0000#16), fun c wd wa wb _ m16 => (vOf m16).map fun m => .vrsq c ⟨wd, fD w⟩ ⟨wa, fA w⟩ ⟨wb, fB w⟩ m⟩
  | 6 => some ⟨none, (some (true, true, true)), (some 0x0000#16), fun c wd wa wb _ m16 => (vOf m16).map fun m => .vrcp c ⟨wd, fD w⟩ ⟨wa, fA w⟩ ⟨wb, fB w⟩ m⟩
  | 7 => some ⟨none, (some (true, true, true)), (some 0x0000#16), fun c wd wa wb _ m16 => (vOf m16).map fun m => .vexp2 c ⟨wd, fD w⟩ ⟨wa, fA w⟩ ⟨wb, fB w⟩ m⟩
  | 8 => some ⟨none, (some (true, true, true)), (some 0x0000#16), fun c wd wa wb _ m16 => (vOf m16).map fun m => .vlog2 c ⟨wd, fD w⟩ ⟨wa, fA w⟩ ⟨wb, fB w⟩ m⟩
  | 9 => some ⟨none, (some (true, true, true)), (some 0x0000#16), fun c wd wa wb _ m16 => (vOf m16).map fun m => .vcvt c ⟨wd, fD w⟩ ⟨wa, fA w⟩ ⟨wb, fB w⟩ m⟩
  | 10 => some ⟨none, (some (true, true, true)), (some 0x0000#16), fun c wd wa wb _ m16 => (vOf m16).map fun m => .vmov c ⟨wd, fD w⟩ ⟨wa, fA w⟩ ⟨wb, fB w⟩ m⟩
  | 11 => some ⟨none, (some (true, true, true)), (some 0x0000#16), fun c wd wa wb _ m16 => (vOf m16).map fun m => .vfill c ⟨wd, fD w⟩ ⟨wa, fA w⟩ ⟨wb, fB w⟩ m⟩
  | 12 => some ⟨none, (some (true, true, true)), (some 0x0000#16), fun c wd wa wb _ m16 => (vOf m16).map fun m => .vclamp c ⟨wd, fD w⟩ ⟨wa, fA w⟩ ⟨wb, fB w⟩ m⟩
  | 13 => some ⟨none, (some (true, true, true)), (some 0x0000#16), fun c wd wa wb _ m16 => (vOf m16).map fun m => .viota c ⟨wd, fD w⟩ ⟨wa, fA w⟩ ⟨wb, fB w⟩ m⟩
  | 14 => some ⟨none, (some (true, true, true)), (some 0x0000#16), fun c wd wa wb _ m16 => (vOf m16).map fun m => .vsel c ⟨wd, fD w⟩ ⟨wa, fA w⟩ ⟨wb, fB w⟩ m⟩
  | _ => none

/-- MAJ 0x2B by function (R56). -/
def decode2B (w : W32) : Option Cand :=
  match (fF w).toNat with
  | 0 => some ⟨none, (some (true, true, true)), (some 0x0000#16), fun c wd wa wb _ m16 => (vOf m16).map fun m => .vredsum c ⟨wd, fD w⟩ ⟨wa, fA w⟩ ⟨wb, fB w⟩ m⟩
  | 1 => some ⟨none, (some (true, true, true)), (some 0x0000#16), fun c wd wa wb _ m16 => (vOf m16).map fun m => .vredmax c ⟨wd, fD w⟩ ⟨wa, fA w⟩ ⟨wb, fB w⟩ m⟩
  | 2 => some ⟨none, (some (true, true, true)), (some 0x0000#16), fun c wd wa wb _ m16 => (vOf m16).map fun m => .vredmin c ⟨wd, fD w⟩ ⟨wa, fA w⟩ ⟨wb, fB w⟩ m⟩
  | 3 => some ⟨none, (some (true, true, true)), (some 0x0000#16), fun c wd wa wb _ m16 => (vOf m16).map fun m => .vscan c ⟨wd, fD w⟩ ⟨wa, fA w⟩ ⟨wb, fB w⟩ m⟩
  | 4 => some ⟨none, (some (true, true, true)), (some 0x0000#16), fun c wd wa wb _ m16 => (vOf m16).map fun m => .vgat c ⟨wd, fD w⟩ ⟨wa, fA w⟩ ⟨wb, fB w⟩ m⟩
  | 5 => some ⟨none, (some (true, true, true)), (some 0x0000#16), fun c wd wa wb _ m16 => (vOf m16).map fun m => .vsct c ⟨wd, fD w⟩ ⟨wa, fA w⟩ ⟨wb, fB w⟩ m⟩
  | 6 => some ⟨none, (some (true, true, true)), (some 0x0000#16), fun c wd wa wb _ m16 => (vOf m16).map fun m => .vcmp c ⟨wd, fD w⟩ ⟨wa, fA w⟩ ⟨wb, fB w⟩ m⟩
  | 7 => some ⟨none, (some (true, true, true)), (some 0x0000#16), fun c wd wa wb _ m16 => (vOf m16).map fun m => .vpack c ⟨wd, fD w⟩ ⟨wa, fA w⟩ ⟨wb, fB w⟩ m⟩
  | 8 => some ⟨none, (some (true, true, true)), (some 0x0000#16), fun c wd wa wb _ m16 => (vOf m16).map fun m => .vcnt c ⟨wd, fD w⟩ ⟨wa, fA w⟩ ⟨wb, fB w⟩ m⟩
  | _ => none

/-- MAJ 0x2C by function (R56). -/
def decode2C (w : W32) : Option Cand :=
  match (fF w).toNat with
  | 0 => some ⟨none, (some (true, true, true)), (some 0x0000#16), fun c wd wa wb _ m16 => (vOf m16).map fun m => .vfnld c ⟨wd, fD w⟩ ⟨wa, fA w⟩ ⟨wb, fB w⟩ m⟩
  | 1 => some ⟨none, (some (true, true, true)), (some 0x0000#16), fun c wd wa wb _ m16 => (vOf m16).map fun m => .vfn c ⟨wd, fD w⟩ ⟨wa, fA w⟩ ⟨wb, fB w⟩ m⟩
  | 2 => some ⟨none, (some (true, true, true)), (some 0x0000#16), fun c wd wa wb _ m16 => (vOf m16).map fun m => .vfnst c ⟨wd, fD w⟩ ⟨wa, fA w⟩ ⟨wb, fB w⟩ m⟩
  | _ => none

/-- MAJ 0x30 by function (R56). -/
def decode30 (w : W32) : Option Cand :=
  match (fF w).toNat with
  | 0 => keep (fB w == 0 && decide ((fA w).toNat < 30)) ⟨none, (some (true, true, false)), (some 0x0000#16), fun c wd wa _ _ m16 => (cpyHintOf m16).map fun h => .cpy c ⟨wd, fD w⟩ ⟨wa, fA w⟩ h⟩
  | 1 => keep (fB w == 0 && decide ((fA w).toNat < 30)) ⟨none, (some (true, true, false)), (some 0x0000#16), fun c wd wa _ _ m16 => (cpyHintOf m16).map fun h => .cpyz c ⟨wd, fD w⟩ ⟨wa, fA w⟩ h⟩
  | 2 => keep (decide ((fA w).toNat < 30)) ⟨none, (some (true, true, true)), (some 0x0000#16), fun c wd wa wb _ m16 => (cpyHintOf m16).map fun h => .cpy2 c ⟨wd, fD w⟩ ⟨wa, fA w⟩ ⟨wb, fB w⟩ h⟩
  | 3 => keep (decide ((fA w).toNat < 30)) ⟨none, (some (true, true, true)), (some 0x0000#16), fun c wd wa wb _ m16 => (cpyHintOf m16).map fun h => .cpyg c ⟨wd, fD w⟩ ⟨wa, fA w⟩ ⟨wb, fB w⟩ h⟩
  | 4 => keep (fA w == 0 && fB w == 0) ⟨none, (some (true, false, false)), (some 0x0000#16), fun c wd _ _ _ m16 => (cpyEvOf m16).map fun ev => .cpyc c ⟨wd, fD w⟩ ev⟩
  | 5 => keep (fB w == 0) ⟨none, (some (true, false, false)), (some 0x0000#16), fun c wd _ _ _ m16 => (cpyEvOf m16).map fun ev => .cpyw c ⟨wd, fD w⟩ (fA w) ev⟩
  | 6 => keep (fB w == 0 && decide ((fA w).toNat < 30)) ⟨none, (some (true, true, false)), (some 0x0000#16), fun c wd wa _ _ m16 => if m16 = 0 then some (.dclone c ⟨wd, fD w⟩ ⟨wa, fA w⟩) else none⟩
  | 7 => keep (fB w == 0 && decide ((fA w).toNat < 30)) ⟨none, (some (true, true, false)), (some 0x0000#16), fun c wd wa _ _ m16 => if m16 = 0 then some (.dzero c ⟨wd, fD w⟩ ⟨wa, fA w⟩) else none⟩
  | 8 => keep (fB w == 0 && decide ((fA w).toNat < 30)) ⟨none, (some (true, true, false)), (some 0x0000#16), fun c wd wa _ _ m16 => if m16 = 0 then some (.scrub c ⟨wd, fD w⟩ ⟨wa, fA w⟩) else none⟩
  | 9 => keep (fB w == 0) ⟨none, (some (true, true, false)), (some 0x0000#16), fun c wd wa _ _ m16 => if m16 = 0 then some (.cpyq c ⟨wd, fD w⟩ ⟨wa, fA w⟩) else none⟩
  | _ => none

/-- MAJ 0x31 by function (R56). -/
def decode31 (w : W32) : Option Cand :=
  match (fF w).toNat with
  | 0 => keep (fD w == 0 && fB w == 0) ⟨none, (some (false, true, false)), none, fun c _ wa _ _ _ => some (.post c ⟨wa, fA w⟩)⟩
  | 1 => some ⟨none, (some (true, true, true)), none, fun c wd wa wb _ _ => some (.await c ⟨wd, fD w⟩ ⟨wa, fA w⟩ ⟨wb, fB w⟩)⟩
  | 2 => keep (fB w == 0) ⟨none, (some (true, true, false)), none, fun c wd wa _ _ _ => some (.tqry c ⟨wd, fD w⟩ ⟨wa, fA w⟩)⟩
  | 3 => keep (fB w == 0) ⟨none, (some (true, true, false)), none, fun c wd wa _ _ _ => some (.fork c ⟨wd, fD w⟩ ⟨wa, fA w⟩)⟩
  | 4 => some ⟨none, (some (true, true, true)), none, fun c wd wa wb _ _ => some (.rdv c ⟨wd, fD w⟩ ⟨wa, fA w⟩ ⟨wb, fB w⟩)⟩
  | _ => none

/-- MAJ 0x32 by function (R56). -/
def decode32 (w : W32) : Option Cand :=
  match (fF w).toNat with
  | 0 => keep (WF.levelOk (fA w) && decide ((fB w).toNat ≤ 1)) ⟨none, (some (true, false, false)), none, fun c wd _ _ _ _ => some (.bar c ⟨wd, fD w⟩ (fA w) (fB w))⟩
  | 1 => keep (fD w == 0 && fB w == 0 && WF.levelOk (fA w)) ⟨none, (some (false, false, false)), none, fun c _ _ _ _ _ => some (.arrive c (fA w))⟩
  | 2 => some ⟨none, (some (true, true, true)), none, fun c wd wa wb _ _ => some (.wait c ⟨wd, fD w⟩ ⟨wa, fA w⟩ ⟨wb, fB w⟩)⟩
  | 3 => keep (fD w == 0 && fA w == 0 && fB w == 0) ⟨none, (some (false, false, false)), none, fun c _ _ _ _ _ => some (.park c )⟩
  | _ => none

/-- MAJ 0x33 by function (R56). -/
def decode33 (w : W32) : Option Cand :=
  match (fF w).toNat with
  | 0 => keep (fD w == 0) ⟨none, (some (false, true, true)), none, fun c _ wa wb _ _ => some (.evset c ⟨wa, fA w⟩ ⟨wb, fB w⟩)⟩
  | 1 => keep (fD w == 0 && fB w == 0) ⟨none, (some (false, true, false)), none, fun c _ wa _ _ _ => some (.evret c ⟨wa, fA w⟩)⟩
  | 2 => some ⟨none, (some (true, true, true)), none, fun c wd wa wb _ _ => some (.evmask c ⟨wd, fD w⟩ ⟨wa, fA w⟩ ⟨wb, fB w⟩)⟩
  | _ => none

/-- What a base word of a major opcode may be (R56); every major not listed is reserved. -/
def decodeMajor (w : W32) : Option Cand :=
  match (fMaj w).toNat with
  | 0x00 => decode00 w
  | 0x01 => decode01 w
  | 0x02 => decode02 w
  | 0x03 => decode03 w
  | 0x04 => decode04 w
  | 0x05 => decode05 w
  | 0x06 => decode06 w
  | 0x08 => decode08 w
  | 0x09 => decode09 w
  | 0x0A => decode0A w
  | 0x0B => decode0B w
  | 0x0C => decode0C w
  | 0x0D => decode0D w
  | 0x0E => decode0E w
  | 0x0F => decode0F w
  | 0x10 => decode10 w
  | 0x11 => decode11 w
  | 0x12 => decode12 w
  | 0x13 => decode13 w
  | 0x14 => decode14 w
  | 0x15 => decode15 w
  | 0x18 => decode18 w
  | 0x19 => decode19 w
  | 0x1A => decode1A w
  | 0x1B => decode1B w
  | 0x1C => decode1C w
  | 0x1D => decode1D w
  | 0x1E => decode1E w
  | 0x20 => decode20 w
  | 0x21 => decode21 w
  | 0x22 => decode22 w
  | 0x23 => decode23 w
  | 0x28 => decode28 w
  | 0x29 => decode29 w
  | 0x2A => decode2A w
  | 0x2B => decode2B w
  | 0x2C => decode2C w
  | 0x30 => decode30 w
  | 0x31 => decode31 w
  | 0x32 => decode32 w
  | 0x33 => decode33 w
  | _ => none

/-- The guard fields obey R35: E = 0 leaves G and N zero. -/
def guardOk (w : W32) : Bool := w.getLsbD 30 || (w.extractLsb' 26 4 == 0 && !w.getLsbD 25)

/-- The guard of a base word (R34). -/
def guardOf (w : W32) : Option Guard :=
  if w.getLsbD 30 then some ⟨w.extractLsb' 26 4, w.getLsbD 25⟩ else none

/-- A base word that is legal in itself (R35, R42, R43, R56 to R58). -/
def decodeBase (w : W32) : Option Cand := if guardOk w then decodeMajor w else none

/-! ### Chains (R43 to R48) -/

/-- The prefixes met so far: px.i payloads in address order, px.r and px.o with their word offsets, the
offset of the first px.i, and the count of prefix words. -/
structure Pre where
  qs     : List (BitVec 19)
  firstI : Option Nat
  pxr    : Option (Nat × BitVec 6)
  pxo    : Option (Nat × BitVec 19)
  len    : Nat
  deriving DecidableEq, Repr

/-- No prefix yet. -/
def Pre.empty : Pre := ⟨[], none, none, none, 0⟩

/-- What one more word does to a chain: it continues, or the word is illegal as a prefix, or it is the
base word. -/
inductive Scan where
  | more (p : Pre)
  | bad
  | base
  deriving DecidableEq, Repr

/-- A word is a prefix when bits 31..25 are zero and MAJ is 0x3C, 0x3D or 0x3E (R43). -/
def isPrefix (w : W32) : Bool :=
  w.extractLsb' 25 7 == 0 && (fMaj w == 0x3C || fMaj w == 0x3D || fMaj w == 0x3E)

/-- Examines the next word of a chain (R44): a fifth prefix, a second px.r or px.o, or a px.r with
nonzero reserved bits is illegal. -/
def scan (p : Pre) (w : W32) : Scan :=
  if isPrefix w then
    if 4 ≤ p.len then .bad
    else if fMaj w = 0x3C then
      .more ⟨p.qs ++ [fOff19 w], (match p.firstI with | some k => some k | none => some p.len), p.pxr, p.pxo, p.len + 1⟩
    else if fMaj w = 0x3D then
      if p.pxr.isSome || w.extractLsb' 6 13 != 0 then .bad
      else .more ⟨p.qs, p.firstI, some (p.len, w.extractLsb' 0 6), p.pxo, p.len + 1⟩
    else
      if p.pxo.isSome then .bad
      else .more ⟨p.qs, p.firstI, p.pxr, some (p.len, fOff19 w), p.len + 1⟩
  else .base

/-- The widened immediate of R45 as a mathematical integer, from the px.i payloads in address order and
the base field. -/
def widen (qs : List (BitVec 19)) (w f : Nat) : Int :=
  let v := qs.foldl (fun v q => v * 2 ^ 19 + q.toNat) 0 * 2 ^ w + f
  let n := 19 * qs.length + w
  if v < 2 ^ (n - 1) then (v : Int) else (v : Int) - (2 ^ n : Nat)

/-- The offset of the first of the given words. -/
def firstOf : List (Option Nat) → Option Nat
  | [] => none
  | none :: t => firstOf t
  | some a :: t =>
    match firstOf t with
    | some b => some (min a b)
    | none => some a

/-- A px.r has no use when the format does not admit it or a window of a field that is no register is
nonzero (R47). -/
def pxrUseless (k : Cand) (b : BitVec 6) : Bool :=
  match k.regs with
  | none => true
  | some (d, a, r) =>
    (!d && b.extractLsb' 0 2 != 0) || (!a && b.extractLsb' 2 2 != 0) || (!r && b.extractLsb' 4 2 != 0)

/-- The first prefix without a use on the base word (R47, R48): px.i without an immediate field, px.r as
above, px.o where the major admits none or on a page other than 0. -/
def useless (k : Cand) (p : Pre) : Option Nat :=
  firstOf [if k.imm.isNone then p.firstI else none,
    p.pxr.bind fun x => if pxrUseless k x.2 then some x.1 else none,
    p.pxo.bind fun x => if k.mod.isNone || x.2.extractLsb' 16 3 != 0 then some x.1 else none]

/-- What a list of words decodes to: an instruction with the count of its words, a chain that is illegal
at a word offset (R53), or a chain that goes on past the list. -/
inductive Decoded where
  | ok (i : Instr) (words : Nat)
  | illegal (word : Nat)
  | short
  deriving DecidableEq, Repr

/-- Decides a chain at its base word, in the order of R44. -/
def finish (p : Pre) (w : W32) : Decoded :=
  match decodeBase w with
  | none => .illegal p.len
  | some k =>
    match useless k p with
    | some at' => .illegal at'
    | none =>
      let imm := match k.imm with | some (n, f) => widen p.qs n f | none => 0
      let win := match p.pxr with | some x => x.2 | none => 0
      let m16 := match p.pxo with | some x => x.2.extractLsb' 0 16 | none => k.mod.getD 0
      match k.build ⟨w.getLsbD 31, guardOf w, p.len⟩ (win.extractLsb' 0 2) (win.extractLsb' 2 2)
          (win.extractLsb' 4 2) imm m16 with
      | none => .illegal p.len
      | some i => if i.operandsLegal then .ok i (p.len + 1) else .illegal p.len

/-- Decodes a chain from the words at its address on (R44). -/
def decodeFrom (p : Pre) : List W32 → Decoded
  | [] => .short
  | w :: ws =>
    match scan p w with
    | .bad => .illegal p.len
    | .base => finish p w
    | .more p' => decodeFrom p' ws

/-- Decodes a chain from its first word (R44, R54). -/
def decode (ws : List W32) : Decoded := decodeFrom .empty ws

/-! ### The encoder -/

/-- The guard bits E, G, N (R34). -/
def guardBits : Option Guard → BitVec 6
  | none => 0
  | some g => 1#1 ++ g.num ++ BitVec.ofBool g.neg
/-- A base word from its parts (R34). -/
def mk (c : Ctl) (maj : BitVec 6) (payload : BitVec 19) : W32 :=
  BitVec.ofBool c.sw ++ guardBits c.guard ++ maj ++ payload
/-- Format A (R40). -/
def payA (d a b : BitVec 5) (fn : BitVec 4) : BitVec 19 := d ++ a ++ b ++ fn
/-- Format A with a ten-bit number (R58, R348). -/
def payA2 (d : BitVec 5) (n : BitVec 10) (fn : BitVec 4) : BitVec 19 := d ++ n ++ fn
/-- Format I (R40). -/
def payI (d a : BitVec 5) (imm : BitVec 9) : BitVec 19 := d ++ a ++ imm
/-- Formats L and D (R40). -/
def payL (d : BitVec 5) (imm : BitVec 14) : BitVec 19 := d ++ imm
/-- Format M (R40). -/
def payM (d a : BitVec 5) (t : BitVec 3) (off : BitVec 6) : BitVec 19 := d ++ a ++ t ++ off
/-- Format P, register (R40). -/
def payP (pd : BitVec 4) (a b : BitVec 5) (cond : BitVec 4) : BitVec 19 := pd ++ a ++ b ++ cond ++ 0#1
/-- Format P, immediate (R40). -/
def payPI (pd : BitVec 4) (a : BitVec 5) (cond : BitVec 4) (imm : BitVec 6) : BitVec 19 := pd ++ a ++ cond ++ imm
/-- Format Q (R40). -/
def payQ (pd pa pb : BitVec 4) (fn : BitVec 4) : BitVec 19 := pd ++ pa ++ pb ++ 0#3 ++ fn
/-- The windows of a px.r (R43). -/
def packWins (wd wa wb : BitVec 2) : BitVec 6 := wb ++ wa ++ wd


/-- The base word of an instruction, from its fields (R34, R40, R56). A device step has none. -/
def Instr.base : Instr → Option W32
  | .ill c => some (mk c 0x00#6 (payA 0#5 0#5 0#5 0#4))
  | .nop c => some (mk c 0x00#6 (payA 0#5 0#5 0#5 1#4))
  | .stop c => some (mk c 0x00#6 (payA 0#5 0#5 0#5 2#4))
  | .yield c => some (mk c 0x00#6 (payA 0#5 0#5 0#5 3#4))
  | .brk c => some (mk c 0x00#6 (payA 0#5 0#5 0#5 4#4))
  | .ifence c => some (mk c 0x00#6 (payA 0#5 0#5 0#5 5#4))
  | .sget c r num => some (mk c 0x00#6 (payA2 r.num num 6#4))
  | .sset c r num => some (mk c 0x00#6 (payA2 r.num num 7#4))
  | .trap c n => some (mk c 0x00#6 (payA2 0#5 n 8#4))
  | .hcall c n => some (mk c 0x00#6 (payA2 0#5 n 9#4))
  | .xret c ra rb => some (mk c 0x00#6 (payA 0#5 ra.num rb.num 10#4))
  | .tlbinv c ra rb => some (mk c 0x00#6 (payA 0#5 ra.num rb.num 11#4))
  | .rowctl c rd ra rb => some (mk c 0x00#6 (payA rd.num ra.num rb.num 12#4))
  | .mbox c rd ra rb => some (mk c 0x00#6 (payA rd.num ra.num rb.num 13#4))
  | .add c rd ra rb => some (mk c 0x01#6 (payA rd.num ra.num rb.num 0#4))
  | .sub c rd ra rb => some (mk c 0x01#6 (payA rd.num ra.num rb.num 1#4))
  | .and c rd ra rb => some (mk c 0x01#6 (payA rd.num ra.num rb.num 2#4))
  | .or c rd ra rb => some (mk c 0x01#6 (payA rd.num ra.num rb.num 3#4))
  | .xor c rd ra rb => some (mk c 0x01#6 (payA rd.num ra.num rb.num 4#4))
  | .andn c rd ra rb => some (mk c 0x01#6 (payA rd.num ra.num rb.num 5#4))
  | .orn c rd ra rb => some (mk c 0x01#6 (payA rd.num ra.num rb.num 6#4))
  | .nor c rd ra rb => some (mk c 0x01#6 (payA rd.num ra.num rb.num 7#4))
  | .shl c rd ra rb => some (mk c 0x01#6 (payA rd.num ra.num rb.num 8#4))
  | .shr c rd ra rb => some (mk c 0x01#6 (payA rd.num ra.num rb.num 9#4))
  | .sra c rd ra rb => some (mk c 0x01#6 (payA rd.num ra.num rb.num 10#4))
  | .rol c rd ra rb => some (mk c 0x01#6 (payA rd.num ra.num rb.num 11#4))
  | .min c rd ra rb => some (mk c 0x01#6 (payA rd.num ra.num rb.num 12#4))
  | .max c rd ra rb => some (mk c 0x01#6 (payA rd.num ra.num rb.num 13#4))
  | .minz c rd ra rb => some (mk c 0x01#6 (payA rd.num ra.num rb.num 14#4))
  | .maxz c rd ra rb => some (mk c 0x01#6 (payA rd.num ra.num rb.num 15#4))
  | .mul c rd ra rb => some (mk c 0x02#6 (payA rd.num ra.num rb.num 0#4))
  | .mulh c rd ra rb => some (mk c 0x02#6 (payA rd.num ra.num rb.num 1#4))
  | .mulhz c rd ra rb => some (mk c 0x02#6 (payA rd.num ra.num rb.num 2#4))
  | .div c rd ra rb => some (mk c 0x02#6 (payA rd.num ra.num rb.num 3#4))
  | .divz c rd ra rb => some (mk c 0x02#6 (payA rd.num ra.num rb.num 4#4))
  | .rem c rd ra rb => some (mk c 0x02#6 (payA rd.num ra.num rb.num 5#4))
  | .remz c rd ra rb => some (mk c 0x02#6 (payA rd.num ra.num rb.num 6#4))
  | .abs c rd ra => some (mk c 0x02#6 (payA rd.num ra.num 0#5 7#4))
  | .neg c rd ra => some (mk c 0x02#6 (payA rd.num ra.num 0#5 8#4))
  | .clz c rd ra => some (mk c 0x02#6 (payA rd.num ra.num 0#5 9#4))
  | .ctz c rd ra => some (mk c 0x02#6 (payA rd.num ra.num 0#5 10#4))
  | .popc c rd ra => some (mk c 0x02#6 (payA rd.num ra.num 0#5 11#4))
  | .bswap c rd ra => some (mk c 0x02#6 (payA rd.num ra.num 0#5 12#4))
  | .bfx c rd ra rb => some (mk c 0x03#6 (payA rd.num ra.num rb.num 0#4))
  | .bfxz c rd ra rb => some (mk c 0x03#6 (payA rd.num ra.num rb.num 1#4))
  | .bfi c rd ra rb => some (mk c 0x03#6 (payA rd.num ra.num rb.num 2#4))
  | .sxb c rd ra => some (mk c 0x03#6 (payA rd.num ra.num 0#5 3#4))
  | .sxh c rd ra => some (mk c 0x03#6 (payA rd.num ra.num 0#5 4#4))
  | .sxw c rd ra => some (mk c 0x03#6 (payA rd.num ra.num 0#5 5#4))
  | .zxb c rd ra => some (mk c 0x03#6 (payA rd.num ra.num 0#5 6#4))
  | .zxh c rd ra => some (mk c 0x03#6 (payA rd.num ra.num 0#5 7#4))
  | .zxw c rd ra => some (mk c 0x03#6 (payA rd.num ra.num 0#5 8#4))
  | .cmp c pd cond ra rb => some (mk c 0x04#6 (payP pd ra.num rb.num (condCode cond)))
  | .cmpi c pd cond ra imm => some (mk c 0x05#6 (payPI pd ra.num (condCode cond) (BitVec.ofInt 6 imm)))
  | .pand c pd pa pb => some (mk c 0x06#6 (payQ pd pa pb 0#4))
  | .por c pd pa pb => some (mk c 0x06#6 (payQ pd pa pb 1#4))
  | .pxor c pd pa pb => some (mk c 0x06#6 (payQ pd pa pb 2#4))
  | .pandn c pd pa pb => some (mk c 0x06#6 (payQ pd pa pb 3#4))
  | .pnot c pd pa => some (mk c 0x06#6 (payQ pd pa 0 4#4))
  | .pmov c pd pa => some (mk c 0x06#6 (payQ pd pa 0 5#4))
  | .pset c pd => some (mk c 0x06#6 (payQ pd 0 0 6#4))
  | .pclr c pd => some (mk c 0x06#6 (payQ pd 0 0 7#4))
  | .pget c gd => some (mk c 0x06#6 (payQ gd 0 0 8#4))
  | .pput c ga => some (mk c 0x06#6 (payQ 0 ga 0 9#4))
  | .addi c rd ra imm => some (mk c 0x08#6 (payI rd.num ra.num (BitVec.ofInt 9 imm)))
  | .andi c rd ra imm => some (mk c 0x09#6 (payI rd.num ra.num (BitVec.ofInt 9 imm)))
  | .ori c rd ra imm => some (mk c 0x0A#6 (payI rd.num ra.num (BitVec.ofInt 9 imm)))
  | .xori c rd ra imm => some (mk c 0x0B#6 (payI rd.num ra.num (BitVec.ofInt 9 imm)))
  | .shli c rd ra imm => some (mk c 0x0C#6 (payI rd.num ra.num (BitVec.ofInt 9 imm)))
  | .shri c rd ra imm => some (mk c 0x0D#6 (payI rd.num ra.num (BitVec.ofInt 9 imm)))
  | .srai c rd ra imm => some (mk c 0x0E#6 (payI rd.num ra.num (BitVec.ofInt 9 imm)))
  | .muli c rd ra imm => some (mk c 0x0F#6 (payI rd.num ra.num (BitVec.ofInt 9 imm)))
  | .movi c rd imm => some (mk c 0x10#6 (payL rd.num (BitVec.ofInt 14 imm)))
  | .adr c rd imm => some (mk c 0x11#6 (payL rd.num (BitVec.ofInt 14 imm)))
  | .br c off => some (mk c 0x12#6 (off))
  | .bl c off => some (mk c 0x13#6 (off))
  | .jr c ra => some (mk c 0x14#6 (payA 0#5 ra.num 0#5 0#4))
  | .jlr c rd ra => some (mk c 0x14#6 (payA rd.num ra.num 0#5 1#4))
  | .dbnz c rd off => some (mk c 0x15#6 (payL rd.num off))
  | .ld c rd ra t off _ => some (mk c 0x18#6 (payM rd.num ra.num (ldCode t) (BitVec.ofInt 6 off)))
  | .st c rd ra t off _ => some (mk c 0x19#6 (payM rd.num ra.num (stCode t) (BitVec.ofInt 6 off)))
  | .ldl c rd ra t off _ => some (mk c 0x1A#6 (payM rd.num ra.num (ldCode t) (BitVec.ofInt 6 off)))
  | .stl c rd ra t off _ => some (mk c 0x1B#6 (payM rd.num ra.num (stCode t) (BitVec.ofInt 6 off)))
  | .amo c rd ra rb op _ => some (mk c 0x1C#6 (payA rd.num ra.num rb.num (amoCode op)))
  | .fence c _ => some (mk c 0x1D#6 (payA 0#5 0#5 0#5 0#4))
  | .pf c ra _ => some (mk c 0x1D#6 (payA 0#5 ra.num 0#5 1#4))
  | .app c rd ra rb _ => some (mk c 0x1E#6 (payA rd.num ra.num rb.num 0#4))
  | .appl c rd ra rb _ => some (mk c 0x1E#6 (payA rd.num ra.num rb.num 1#4))
  | .seal c rd ra => some (mk c 0x1E#6 (payA rd.num ra.num 0#5 2#4))
  | .tail c rd ra => some (mk c 0x1E#6 (payA rd.num ra.num 0#5 3#4))
  | .fadd c rd ra rb _ => some (mk c 0x20#6 (payA rd.num ra.num rb.num 0#4))
  | .fsub c rd ra rb _ => some (mk c 0x20#6 (payA rd.num ra.num rb.num 1#4))
  | .fmul c rd ra rb _ => some (mk c 0x20#6 (payA rd.num ra.num rb.num 2#4))
  | .fdiv c rd ra rb _ => some (mk c 0x20#6 (payA rd.num ra.num rb.num 3#4))
  | .fsqrt c rd ra _ => some (mk c 0x20#6 (payA rd.num ra.num 0#5 4#4))
  | .fmin c rd ra rb _ => some (mk c 0x20#6 (payA rd.num ra.num rb.num 5#4))
  | .fmax c rd ra rb _ => some (mk c 0x20#6 (payA rd.num ra.num rb.num 6#4))
  | .fabs c rd ra _ => some (mk c 0x20#6 (payA rd.num ra.num 0#5 7#4))
  | .fneg c rd ra _ => some (mk c 0x20#6 (payA rd.num ra.num 0#5 8#4))
  | .fclass c rd ra _ => some (mk c 0x20#6 (payA rd.num ra.num 0#5 9#4))
  | .fcpys c rd ra rb _ => some (mk c 0x20#6 (payA rd.num ra.num rb.num 10#4))
  | .fma c rd ra rb _ => some (mk c 0x21#6 (payA rd.num ra.num rb.num 0#4))
  | .fms c rd ra rb _ => some (mk c 0x21#6 (payA rd.num ra.num rb.num 1#4))
  | .fnma c rd ra rb _ => some (mk c 0x21#6 (payA rd.num ra.num rb.num 2#4))
  | .fnms c rd ra rb _ => some (mk c 0x21#6 (payA rd.num ra.num rb.num 3#4))
  | .fcmp c pd cond ra rb _ => some (mk c 0x22#6 (payP pd ra.num rb.num (fcondCode cond)))
  | .fcvt c rd ra _ => some (mk c 0x23#6 (payA rd.num ra.num 0#5 0#4))
  | .fcvti c rd ra _ => some (mk c 0x23#6 (payA rd.num ra.num 0#5 1#4))
  | .fcvtf c rd ra _ => some (mk c 0x23#6 (payA rd.num ra.num 0#5 2#4))
  | .vclaim c rd ra => some (mk c 0x28#6 (payA rd.num ra.num 0#5 0#4))
  | .vfree c rd => some (mk c 0x28#6 (payA rd.num 0#5 0#5 1#4))
  | .vwait c rd ra => some (mk c 0x28#6 (payA rd.num ra.num 0#5 2#4))
  | .vstat c rd ra => some (mk c 0x28#6 (payA rd.num ra.num 0#5 3#4))
  | .vadd c rd ra rb _ => some (mk c 0x29#6 (payA rd.num ra.num rb.num 0#4))
  | .vsub c rd ra rb _ => some (mk c 0x29#6 (payA rd.num ra.num rb.num 1#4))
  | .vmul c rd ra rb _ => some (mk c 0x29#6 (payA rd.num ra.num rb.num 2#4))
  | .vmin c rd ra rb _ => some (mk c 0x29#6 (payA rd.num ra.num rb.num 3#4))
  | .vmax c rd ra rb _ => some (mk c 0x29#6 (payA rd.num ra.num rb.num 4#4))
  | .vdiv c rd ra rb _ => some (mk c 0x29#6 (payA rd.num ra.num rb.num 5#4))
  | .vand c rd ra rb _ => some (mk c 0x29#6 (payA rd.num ra.num rb.num 6#4))
  | .vor c rd ra rb _ => some (mk c 0x29#6 (payA rd.num ra.num rb.num 7#4))
  | .vxor c rd ra rb _ => some (mk c 0x29#6 (payA rd.num ra.num rb.num 8#4))
  | .vshl c rd ra rb _ => some (mk c 0x29#6 (payA rd.num ra.num rb.num 9#4))
  | .vshr c rd ra rb _ => some (mk c 0x29#6 (payA rd.num ra.num rb.num 10#4))
  | .vsra c rd ra rb _ => some (mk c 0x29#6 (payA rd.num ra.num rb.num 11#4))
  | .vabsd c rd ra rb _ => some (mk c 0x29#6 (payA rd.num ra.num rb.num 12#4))
  | .vfma c rd ra rb _ => some (mk c 0x2A#6 (payA rd.num ra.num rb.num 0#4))
  | .vfms c rd ra rb _ => some (mk c 0x2A#6 (payA rd.num ra.num rb.num 1#4))
  | .vneg c rd ra rb _ => some (mk c 0x2A#6 (payA rd.num ra.num rb.num 2#4))
  | .vabs c rd ra rb _ => some (mk c 0x2A#6 (payA rd.num ra.num rb.num 3#4))
  | .vsqrt c rd ra rb _ => some (mk c 0x2A#6 (payA rd.num ra.num rb.num 4#4))
  | .vrsq c rd ra rb _ => some (mk c 0x2A#6 (payA rd.num ra.num rb.num 5#4))
  | .vrcp c rd ra rb _ => some (mk c 0x2A#6 (payA rd.num ra.num rb.num 6#4))
  | .vexp2 c rd ra rb _ => some (mk c 0x2A#6 (payA rd.num ra.num rb.num 7#4))
  | .vlog2 c rd ra rb _ => some (mk c 0x2A#6 (payA rd.num ra.num rb.num 8#4))
  | .vcvt c rd ra rb _ => some (mk c 0x2A#6 (payA rd.num ra.num rb.num 9#4))
  | .vmov c rd ra rb _ => some (mk c 0x2A#6 (payA rd.num ra.num rb.num 10#4))
  | .vfill c rd ra rb _ => some (mk c 0x2A#6 (payA rd.num ra.num rb.num 11#4))
  | .vclamp c rd ra rb _ => some (mk c 0x2A#6 (payA rd.num ra.num rb.num 12#4))
  | .viota c rd ra rb _ => some (mk c 0x2A#6 (payA rd.num ra.num rb.num 13#4))
  | .vsel c rd ra rb _ => some (mk c 0x2A#6 (payA rd.num ra.num rb.num 14#4))
  | .vredsum c rd ra rb _ => some (mk c 0x2B#6 (payA rd.num ra.num rb.num 0#4))
  | .vredmax c rd ra rb _ => some (mk c 0x2B#6 (payA rd.num ra.num rb.num 1#4))
  | .vredmin c rd ra rb _ => some (mk c 0x2B#6 (payA rd.num ra.num rb.num 2#4))
  | .vscan c rd ra rb _ => some (mk c 0x2B#6 (payA rd.num ra.num rb.num 3#4))
  | .vgat c rd ra rb _ => some (mk c 0x2B#6 (payA rd.num ra.num rb.num 4#4))
  | .vsct c rd ra rb _ => some (mk c 0x2B#6 (payA rd.num ra.num rb.num 5#4))
  | .vcmp c rd ra rb _ => some (mk c 0x2B#6 (payA rd.num ra.num rb.num 6#4))
  | .vpack c rd ra rb _ => some (mk c 0x2B#6 (payA rd.num ra.num rb.num 7#4))
  | .vcnt c rd ra rb _ => some (mk c 0x2B#6 (payA rd.num ra.num rb.num 8#4))
  | .vfnld c rd ra rb _ => some (mk c 0x2C#6 (payA rd.num ra.num rb.num 0#4))
  | .vfn c rd ra rb _ => some (mk c 0x2C#6 (payA rd.num ra.num rb.num 1#4))
  | .vfnst c rd ra rb _ => some (mk c 0x2C#6 (payA rd.num ra.num rb.num 2#4))
  | .cpy c rd ra _ => some (mk c 0x30#6 (payA rd.num ra.num 0#5 0#4))
  | .cpyz c rd ra _ => some (mk c 0x30#6 (payA rd.num ra.num 0#5 1#4))
  | .cpy2 c rd ra rb _ => some (mk c 0x30#6 (payA rd.num ra.num rb.num 2#4))
  | .cpyg c rd ra rb _ => some (mk c 0x30#6 (payA rd.num ra.num rb.num 3#4))
  | .cpyc c rd _ => some (mk c 0x30#6 (payA rd.num 0#5 0#5 4#4))
  | .cpyw c rd n _ => some (mk c 0x30#6 (payA rd.num n 0#5 5#4))
  | .dclone c rd ra => some (mk c 0x30#6 (payA rd.num ra.num 0#5 6#4))
  | .dzero c rd ra => some (mk c 0x30#6 (payA rd.num ra.num 0#5 7#4))
  | .scrub c rd ra => some (mk c 0x30#6 (payA rd.num ra.num 0#5 8#4))
  | .cpyq c rd ra => some (mk c 0x30#6 (payA rd.num ra.num 0#5 9#4))
  | .post c ra => some (mk c 0x31#6 (payA 0#5 ra.num 0#5 0#4))
  | .await c rd ra rb => some (mk c 0x31#6 (payA rd.num ra.num rb.num 1#4))
  | .tqry c rd ra => some (mk c 0x31#6 (payA rd.num ra.num 0#5 2#4))
  | .fork c rd ra => some (mk c 0x31#6 (payA rd.num ra.num 0#5 3#4))
  | .rdv c rd ra rb => some (mk c 0x31#6 (payA rd.num ra.num rb.num 4#4))
  | .bar c rd level k => some (mk c 0x32#6 (payA rd.num level k 0#4))
  | .arrive c level => some (mk c 0x32#6 (payA 0#5 level 0#5 1#4))
  | .wait c rd ra rb => some (mk c 0x32#6 (payA rd.num ra.num rb.num 2#4))
  | .park c => some (mk c 0x32#6 (payA 0#5 0#5 0#5 3#4))
  | .evset c ra rb => some (mk c 0x33#6 (payA 0#5 ra.num rb.num 0#4))
  | .evret c ra => some (mk c 0x33#6 (payA 0#5 ra.num 0#5 1#4))
  | .evmask c rd ra rb => some (mk c 0x33#6 (payA rd.num ra.num rb.num 2#4))
  | _ => none

/-- The px.r payload of an instruction: wb, wa, wd (R43). -/
def Instr.windows : Instr → BitVec 6
  | .sget _ r _ => packWins r.win 0 0
  | .sset _ r _ => packWins r.win 0 0
  | .xret _ ra rb => packWins 0 ra.win rb.win
  | .tlbinv _ ra rb => packWins 0 ra.win rb.win
  | .rowctl _ rd ra rb => packWins rd.win ra.win rb.win
  | .mbox _ rd ra rb => packWins rd.win ra.win rb.win
  | .add _ rd ra rb => packWins rd.win ra.win rb.win
  | .sub _ rd ra rb => packWins rd.win ra.win rb.win
  | .and _ rd ra rb => packWins rd.win ra.win rb.win
  | .or _ rd ra rb => packWins rd.win ra.win rb.win
  | .xor _ rd ra rb => packWins rd.win ra.win rb.win
  | .andn _ rd ra rb => packWins rd.win ra.win rb.win
  | .orn _ rd ra rb => packWins rd.win ra.win rb.win
  | .nor _ rd ra rb => packWins rd.win ra.win rb.win
  | .shl _ rd ra rb => packWins rd.win ra.win rb.win
  | .shr _ rd ra rb => packWins rd.win ra.win rb.win
  | .sra _ rd ra rb => packWins rd.win ra.win rb.win
  | .rol _ rd ra rb => packWins rd.win ra.win rb.win
  | .min _ rd ra rb => packWins rd.win ra.win rb.win
  | .max _ rd ra rb => packWins rd.win ra.win rb.win
  | .minz _ rd ra rb => packWins rd.win ra.win rb.win
  | .maxz _ rd ra rb => packWins rd.win ra.win rb.win
  | .mul _ rd ra rb => packWins rd.win ra.win rb.win
  | .mulh _ rd ra rb => packWins rd.win ra.win rb.win
  | .mulhz _ rd ra rb => packWins rd.win ra.win rb.win
  | .div _ rd ra rb => packWins rd.win ra.win rb.win
  | .divz _ rd ra rb => packWins rd.win ra.win rb.win
  | .rem _ rd ra rb => packWins rd.win ra.win rb.win
  | .remz _ rd ra rb => packWins rd.win ra.win rb.win
  | .abs _ rd ra => packWins rd.win ra.win 0
  | .neg _ rd ra => packWins rd.win ra.win 0
  | .clz _ rd ra => packWins rd.win ra.win 0
  | .ctz _ rd ra => packWins rd.win ra.win 0
  | .popc _ rd ra => packWins rd.win ra.win 0
  | .bswap _ rd ra => packWins rd.win ra.win 0
  | .bfx _ rd ra rb => packWins rd.win ra.win rb.win
  | .bfxz _ rd ra rb => packWins rd.win ra.win rb.win
  | .bfi _ rd ra rb => packWins rd.win ra.win rb.win
  | .sxb _ rd ra => packWins rd.win ra.win 0
  | .sxh _ rd ra => packWins rd.win ra.win 0
  | .sxw _ rd ra => packWins rd.win ra.win 0
  | .zxb _ rd ra => packWins rd.win ra.win 0
  | .zxh _ rd ra => packWins rd.win ra.win 0
  | .zxw _ rd ra => packWins rd.win ra.win 0
  | .cmp _ _ _ ra rb => packWins 0 ra.win rb.win
  | .cmpi _ _ _ ra _ => packWins 0 ra.win 0
  | .addi _ rd ra _ => packWins rd.win ra.win 0
  | .andi _ rd ra _ => packWins rd.win ra.win 0
  | .ori _ rd ra _ => packWins rd.win ra.win 0
  | .xori _ rd ra _ => packWins rd.win ra.win 0
  | .shli _ rd ra _ => packWins rd.win ra.win 0
  | .shri _ rd ra _ => packWins rd.win ra.win 0
  | .srai _ rd ra _ => packWins rd.win ra.win 0
  | .muli _ rd ra _ => packWins rd.win ra.win 0
  | .movi _ rd _ => packWins rd.win 0 0
  | .adr _ rd _ => packWins rd.win 0 0
  | .jr _ ra => packWins 0 ra.win 0
  | .jlr _ rd ra => packWins rd.win ra.win 0
  | .dbnz _ rd _ => packWins rd.win 0 0
  | .ld _ rd ra _ _ _ => packWins rd.win ra.win 0
  | .st _ rd ra _ _ _ => packWins rd.win ra.win 0
  | .ldl _ rd ra _ _ _ => packWins rd.win ra.win 0
  | .stl _ rd ra _ _ _ => packWins rd.win ra.win 0
  | .amo _ rd ra rb _ _ => packWins rd.win ra.win rb.win
  | .pf _ ra _ => packWins 0 ra.win 0
  | .app _ rd ra rb _ => packWins rd.win ra.win rb.win
  | .appl _ rd ra rb _ => packWins rd.win ra.win rb.win
  | .seal _ rd ra => packWins rd.win ra.win 0
  | .tail _ rd ra => packWins rd.win ra.win 0
  | .fadd _ rd ra rb _ => packWins rd.win ra.win rb.win
  | .fsub _ rd ra rb _ => packWins rd.win ra.win rb.win
  | .fmul _ rd ra rb _ => packWins rd.win ra.win rb.win
  | .fdiv _ rd ra rb _ => packWins rd.win ra.win rb.win
  | .fsqrt _ rd ra _ => packWins rd.win ra.win 0
  | .fmin _ rd ra rb _ => packWins rd.win ra.win rb.win
  | .fmax _ rd ra rb _ => packWins rd.win ra.win rb.win
  | .fabs _ rd ra _ => packWins rd.win ra.win 0
  | .fneg _ rd ra _ => packWins rd.win ra.win 0
  | .fclass _ rd ra _ => packWins rd.win ra.win 0
  | .fcpys _ rd ra rb _ => packWins rd.win ra.win rb.win
  | .fma _ rd ra rb _ => packWins rd.win ra.win rb.win
  | .fms _ rd ra rb _ => packWins rd.win ra.win rb.win
  | .fnma _ rd ra rb _ => packWins rd.win ra.win rb.win
  | .fnms _ rd ra rb _ => packWins rd.win ra.win rb.win
  | .fcmp _ _ _ ra rb _ => packWins 0 ra.win rb.win
  | .fcvt _ rd ra _ => packWins rd.win ra.win 0
  | .fcvti _ rd ra _ => packWins rd.win ra.win 0
  | .fcvtf _ rd ra _ => packWins rd.win ra.win 0
  | .vclaim _ rd ra => packWins rd.win ra.win 0
  | .vfree _ rd => packWins rd.win 0 0
  | .vwait _ rd ra => packWins rd.win ra.win 0
  | .vstat _ rd ra => packWins rd.win ra.win 0
  | .vadd _ rd ra rb _ => packWins rd.win ra.win rb.win
  | .vsub _ rd ra rb _ => packWins rd.win ra.win rb.win
  | .vmul _ rd ra rb _ => packWins rd.win ra.win rb.win
  | .vmin _ rd ra rb _ => packWins rd.win ra.win rb.win
  | .vmax _ rd ra rb _ => packWins rd.win ra.win rb.win
  | .vdiv _ rd ra rb _ => packWins rd.win ra.win rb.win
  | .vand _ rd ra rb _ => packWins rd.win ra.win rb.win
  | .vor _ rd ra rb _ => packWins rd.win ra.win rb.win
  | .vxor _ rd ra rb _ => packWins rd.win ra.win rb.win
  | .vshl _ rd ra rb _ => packWins rd.win ra.win rb.win
  | .vshr _ rd ra rb _ => packWins rd.win ra.win rb.win
  | .vsra _ rd ra rb _ => packWins rd.win ra.win rb.win
  | .vabsd _ rd ra rb _ => packWins rd.win ra.win rb.win
  | .vfma _ rd ra rb _ => packWins rd.win ra.win rb.win
  | .vfms _ rd ra rb _ => packWins rd.win ra.win rb.win
  | .vneg _ rd ra rb _ => packWins rd.win ra.win rb.win
  | .vabs _ rd ra rb _ => packWins rd.win ra.win rb.win
  | .vsqrt _ rd ra rb _ => packWins rd.win ra.win rb.win
  | .vrsq _ rd ra rb _ => packWins rd.win ra.win rb.win
  | .vrcp _ rd ra rb _ => packWins rd.win ra.win rb.win
  | .vexp2 _ rd ra rb _ => packWins rd.win ra.win rb.win
  | .vlog2 _ rd ra rb _ => packWins rd.win ra.win rb.win
  | .vcvt _ rd ra rb _ => packWins rd.win ra.win rb.win
  | .vmov _ rd ra rb _ => packWins rd.win ra.win rb.win
  | .vfill _ rd ra rb _ => packWins rd.win ra.win rb.win
  | .vclamp _ rd ra rb _ => packWins rd.win ra.win rb.win
  | .viota _ rd ra rb _ => packWins rd.win ra.win rb.win
  | .vsel _ rd ra rb _ => packWins rd.win ra.win rb.win
  | .vredsum _ rd ra rb _ => packWins rd.win ra.win rb.win
  | .vredmax _ rd ra rb _ => packWins rd.win ra.win rb.win
  | .vredmin _ rd ra rb _ => packWins rd.win ra.win rb.win
  | .vscan _ rd ra rb _ => packWins rd.win ra.win rb.win
  | .vgat _ rd ra rb _ => packWins rd.win ra.win rb.win
  | .vsct _ rd ra rb _ => packWins rd.win ra.win rb.win
  | .vcmp _ rd ra rb _ => packWins rd.win ra.win rb.win
  | .vpack _ rd ra rb _ => packWins rd.win ra.win rb.win
  | .vcnt _ rd ra rb _ => packWins rd.win ra.win rb.win
  | .vfnld _ rd ra rb _ => packWins rd.win ra.win rb.win
  | .vfn _ rd ra rb _ => packWins rd.win ra.win rb.win
  | .vfnst _ rd ra rb _ => packWins rd.win ra.win rb.win
  | .cpy _ rd ra _ => packWins rd.win ra.win 0
  | .cpyz _ rd ra _ => packWins rd.win ra.win 0
  | .cpy2 _ rd ra rb _ => packWins rd.win ra.win rb.win
  | .cpyg _ rd ra rb _ => packWins rd.win ra.win rb.win
  | .cpyc _ rd _ => packWins rd.win 0 0
  | .cpyw _ rd _ _ => packWins rd.win 0 0
  | .dclone _ rd ra => packWins rd.win ra.win 0
  | .dzero _ rd ra => packWins rd.win ra.win 0
  | .scrub _ rd ra => packWins rd.win ra.win 0
  | .cpyq _ rd ra => packWins rd.win ra.win 0
  | .post _ ra => packWins 0 ra.win 0
  | .await _ rd ra rb => packWins rd.win ra.win rb.win
  | .tqry _ rd ra => packWins rd.win ra.win 0
  | .fork _ rd ra => packWins rd.win ra.win 0
  | .rdv _ rd ra rb => packWins rd.win ra.win rb.win
  | .bar _ rd _ _ => packWins rd.win 0 0
  | .wait _ rd ra rb => packWins rd.win ra.win rb.win
  | .evset _ ra rb => packWins 0 ra.win rb.win
  | .evret _ ra => packWins 0 ra.win 0
  | .evmask _ rd ra rb => packWins rd.win ra.win rb.win
  | _ => 0

/-- The M16 of an instruction (R48 to R50). -/
def Instr.m16 : Instr → BitVec 16
  | .ld _ _ _ _ _ m => memBits m
  | .st _ _ _ _ _ m => memBits m
  | .ldl _ _ _ _ _ m => memBits m
  | .stl _ _ _ _ _ m => memBits m
  | .amo _ _ _ _ _ m => memBits m
  | .fence _ m => memBits m
  | .pf _ _ m => memBits m
  | .app _ _ _ _ m => caskBits m
  | .appl _ _ _ _ m => caskBits m
  | .fadd _ _ _ _ m => fBits m
  | .fsub _ _ _ _ m => fBits m
  | .fmul _ _ _ _ m => fBits m
  | .fdiv _ _ _ _ m => fBits m
  | .fsqrt _ _ _ m => fBits m
  | .fmin _ _ _ _ m => fBits m
  | .fmax _ _ _ _ m => fBits m
  | .fabs _ _ _ m => fBits m
  | .fneg _ _ _ m => fBits m
  | .fclass _ _ _ sfmt => fBits ⟨.f32, sfmt, .rne⟩
  | .fcpys _ _ _ _ m => fBits m
  | .fma _ _ _ _ m => fBits m
  | .fms _ _ _ _ m => fBits m
  | .fnma _ _ _ _ m => fBits m
  | .fnms _ _ _ _ m => fBits m
  | .fcmp _ _ _ _ _ sfmt => fBits ⟨.f32, sfmt, .rne⟩
  | .fcvt _ _ _ m => fBits m
  | .fcvti _ _ _ m => fBits m
  | .fcvtf _ _ _ m => fBits m
  | .vadd _ _ _ _ m => vBits m
  | .vsub _ _ _ _ m => vBits m
  | .vmul _ _ _ _ m => vBits m
  | .vmin _ _ _ _ m => vBits m
  | .vmax _ _ _ _ m => vBits m
  | .vdiv _ _ _ _ m => vBits m
  | .vand _ _ _ _ m => vBits m
  | .vor _ _ _ _ m => vBits m
  | .vxor _ _ _ _ m => vBits m
  | .vshl _ _ _ _ m => vBits m
  | .vshr _ _ _ _ m => vBits m
  | .vsra _ _ _ _ m => vBits m
  | .vabsd _ _ _ _ m => vBits m
  | .vfma _ _ _ _ m => vBits m
  | .vfms _ _ _ _ m => vBits m
  | .vneg _ _ _ _ m => vBits m
  | .vabs _ _ _ _ m => vBits m
  | .vsqrt _ _ _ _ m => vBits m
  | .vrsq _ _ _ _ m => vBits m
  | .vrcp _ _ _ _ m => vBits m
  | .vexp2 _ _ _ _ m => vBits m
  | .vlog2 _ _ _ _ m => vBits m
  | .vcvt _ _ _ _ m => vBits m
  | .vmov _ _ _ _ m => vBits m
  | .vfill _ _ _ _ m => vBits m
  | .vclamp _ _ _ _ m => vBits m
  | .viota _ _ _ _ m => vBits m
  | .vsel _ _ _ _ m => vBits m
  | .vredsum _ _ _ _ m => vBits m
  | .vredmax _ _ _ _ m => vBits m
  | .vredmin _ _ _ _ m => vBits m
  | .vscan _ _ _ _ m => vBits m
  | .vgat _ _ _ _ m => vBits m
  | .vsct _ _ _ _ m => vBits m
  | .vcmp _ _ _ _ m => vBits m
  | .vpack _ _ _ _ m => vBits m
  | .vcnt _ _ _ _ m => vBits m
  | .vfnld _ _ _ _ m => vBits m
  | .vfn _ _ _ _ m => vBits m
  | .vfnst _ _ _ _ m => vBits m
  | .cpy _ _ _ hint => cpyHintBits hint
  | .cpyz _ _ _ hint => cpyHintBits hint
  | .cpy2 _ _ _ _ hint => cpyHintBits hint
  | .cpyg _ _ _ _ hint => cpyHintBits hint
  | .cpyc _ _ ev => cpyEvBits ev
  | .cpyw _ _ _ ev => cpyEvBits ev
  | _ => 0

/-- A px.i word (R43). -/
def pxiWord (q : BitVec 19) : W32 := 0#7 ++ 0x3C#6 ++ q
/-- A px.r word (R43). -/
def pxrWord (b : BitVec 6) : W32 := 0#7 ++ 0x3D#6 ++ 0#13 ++ b
/-- A px.o word on page 0 (R43). -/
def pxoWord (m : BitVec 16) : W32 := 0#7 ++ 0x3E#6 ++ 0#3 ++ m

/-- The k px.i payloads, most significant first, that widen a field of w bits to the value v (R14, R45). -/
def pxiPayloads (w : Nat) (v : Int) : Nat → List (BitVec 19)
  | 0 => []
  | k + 1 => BitVec.ofInt 19 (v / (2 ^ (19 * k + w) : Nat)) :: pxiPayloads w v k

/-- The prefix words of an instruction in the assembler's order px.o, px.r, px.i (R21): those that are
needed; the words left over are px.i words of an immediate, or else a px.r and then a px.o without effect. -/
def prefixWords (i : Instr) (u : Uses) : List W32 :=
  match u.imm with
  | some (w, v) =>
    (if u.needO then [pxoWord i.m16] else []) ++ (if u.needR then [pxrWord i.windows] else []) ++
      (pxiPayloads w v u.rest).map pxiWord
  | none =>
    let r := u.needR || (u.wins.isSome && 1 ≤ u.rest)
    let o := u.needO || u.rest == 2 || (u.rest == 1 && (u.needR || u.wins.isNone))
    (if o then [pxoWord i.m16] else []) ++ (if r then [pxrWord i.windows] else [])

/-- The words of a well-formed instruction; none for a device step or an ill-formed term. -/
def encode (i : Instr) : Option (List W32) :=
  match i.uses, i.base with
  | some u, some b => if i.wellFormed then some (prefixWords i u ++ [b]) else none
  | _, _ => none

/-! ### Bytes -/

/-- The four bytes of a word, least significant first (R5). -/
def wordBytes (w : W32) : List Byte :=
  [w.extractLsb' 0 8, w.extractLsb' 8 8, w.extractLsb' 16 8, w.extractLsb' 24 8]

/-- The word of four bytes, least significant first (R5); missing bytes are 0. -/
def wordOfBytes (b : List Byte) : W32 := b.getD 3 0 ++ b.getD 2 0 ++ b.getD 1 0 ++ b.getD 0 0

/-- The instruction that the decoder reads from a chain of one base word whose bits are `w`; none where
it refuses. Every row of the opcode table has 32 bits. -/
def decodeTableWord (nbits w : Nat) : Option Instr :=
  match decode [wordOfBytes (wordBytes (BitVec.ofNat 32 (w % 2 ^ nbits)))] with
  | .ok i _ => some i
  | .illegal _ => none
  | .short => none

end Sys2Proof
end

