-- ==== Sys2Proof/Message.lean ====
section
/-!
DEFINITION. The device steps as messages in flight and events: the same names and operands as the device steps of
Instr, whose docstrings say what each is. Safety.lean says which device step each stands for.
-/

namespace Sys2Proof

/-- One constructor per device step of the opcode table (rows START to ORDERLY_SHUTDOWN). -/
inductive Msg where
  | start (r : RowId) (op : BitVec 48)
  | stopCommand (r : RowId)
  | redirect (r : RowId) (op : BitVec 48)
  | wake (r : RowId)
  | freeze (r : RowId)
  | thaw (r : RowId)
  | parkCommand (r : RowId)
  | unpark (r : RowId)
  | move (r : RowId) (op : BitVec 48)
  | quantumClosing (e k : Nat)
  | switchMarkerClosing (e k : Nat)
  | waitingInstructionClosing (e k : Nat)
  | limitClosing (e k : Nat)
  | waitConditionMet (r : RowId)
  | closingDone (e k : Nat)
  | opening (e : Nat)
  | openingDone (e k : Nat)
  | openInPlace (e k : Nat)
  | bringIn (e : Nat)
  | outsideRowAccess (a : RowAccess)
  | resultArrival (p : Reply)
  | lateCheck (r : RowId)
  | vlate (r : RowId)
  | eventDelivery (r : RowId)
  | lineFill (agent line : Nat) (data : List W32) (poison keymiss : BitVec 2)
  | registrationAck (agent id : Nat) (refused : BitVec 32)
  | recall (agent line : Nat) (mask : BitVec 32)
  | forward (agent line : Nat) (mask : BitVec 32)
  | invalidation (agent line : Nat) (mask : BitVec 32) (replace : Bool)
  | registration (r : Req)
  | recallWriteback (agent inc line : Nat) (mask : BitVec 32) (data : List W32)
  | evictionWriteback (agent inc line : Nat) (mask : BitVec 32) (data : List W32)
  | forwardReply (agent inc line : Nat) (mask : BitVec 32) (data : List W32)
  | lineRead (r : Req)
  | homeAtomic (r : Req)
  | writeThrough (r : Req)
  | engineLineWrite (r : Req)
  | invalidationAck (agent inc line : Nat) (kept : Bool)
  | evictionNotice (agent inc line : Nat)
  | tierFill (unit : Nat)
  | refresh (slice pc : Nat)
  | refreshLimit (slice pc : Nat)
  | agentTimeout (agent : Nat)
  | agentDead (agent : Nat)
  | leaseRenewal (part page : Nat) (granted : Bool) (expiry : Nat)
  | leaseLost (r : RowId)
  | leaseExpiry (page holder : Nat)
  | revoke (page : Nat)
  | revokeAck (page : Nat) (holder : Sender)
  | homeHandover (page : Nat)
  | commit (slice : Nat) (r : RowId) (tag : Nat)
  | rehomeReissue (r : Req)
  | copyStep (cl id : Nat)
  | batchReport (r : RowId)
  | appendGrant (r : Req)
  | appendWrite (r : Req)
  | sealArrival (r : Req)
  | sealEntryWrite (page : Nat)
  | tailRequest (r : Req)
  | rackRequest (die page gen : Nat)
  | rackPushLine (die page gen line : Nat) (data : List W32)
  | rackDrop (die page : Nat)
  | caskInit (q page : Nat)
  | caskInitZero (q page : Nat)
  | caskFree (q page : Nat)
  | reclaimSweepEnd (page : Nat)
  | vectorExecute (pool claim : Nat)
  | claimGrant (pool : Nat) (r : RowId)
  | vparkResume (pool claim : Nat)
  | vparkDiscard (pool claim : Nat)
  | postReceive (p : PostReq)
  | nodeRelease (part rec : Nat) (engine : Option Nat)
  | nodeDispatch (die : Nat)
  | nodeAging (die part rec : Nat)
  | nodeDone (die part rec : Nat)
  | nodeFault (die part rec cause : Nat) (addr : Word)
  | nparkResume (engine : Nat)
  | nparkFail (engine : Nat)
  | nodeRetry (q rec : Nat)
  | nodeDrop (q rec : Nat)
  | launchQueueRing (q n : Nat) (tail : W32)
  | forkRequest (p : PostReq)
  | launchTake (q : Nat)
  | rowCreate (q launch die : Nat)
  | launchComplete (q launch : Nat)
  | barrierArrival (a : Arrival)
  | syncCompletion (r : RowId) (slot tag : Nat) (value : Word) (refused : Bool)
  | rdvArrival (a : Arrival) (meet count : Nat)
  | watchReply (r : RowId) (slot tag : Nat) (value : Word) (met : Bool)
  | ringMessageWrite (ring : Ring) (die : Nat)
  | mboxDrain (e : Nat)
  | pageWalk (unit part : Nat) (va : Word)
  | ptRootWrite (q : Nat) (v : Word)
  | pmemCfgWrite (q : Nat) (v : Word)
  | pcaskCfgWrite (q : Nat) (v : Word)
  | prowCfgWrite (q : Nat) (v : Word)
  | psaveCfgWrite (q : Nat) (v : Word)
  | keyLoad (k : Nat)
  | keyClear (k : Nat)
  | pin (q page : Nat)
  | pinp (q page : Nat)
  | unpin (q page : Nat)
  | migrate (q page : Nat)
  | retire (q page : Nat)
  | spunmap (q page : Nat)
  | hptCandRead (die : Nat)
  | hptSkipRead (die : Nat)
  | evict (q : Nat) (cmask : BitVec 32)
  | forcedFreeze (cl : Nat)
  | evictionStreaming (cl : Nat)
  | restore (q : Nat) (cmask : BitVec 32)
  | remove (q : Nat) (cmask : BitVec 32)
  | addCluster (q : Nat) (cmask : BitVec 32)
  | gsEntryWrite (v : BitVec 128)
  | sliceEntry
  | enable (q : Nat)
  | disable (q : Nat)
  | reset (q : Nat)
  | badcfgClear (q : Nat)
  | pbwWrite (q : Nat) (v : Word)
  | bwStallRead (q : Nat)
  | hostPostedWrite (a : HostAccess)
  | hostBarRead (a : HostAccess)
  | storageDoorbell (q k : Nat) (v : Word)
  | storageCompletion (q k cid status : Nat) (data : List Byte)
  | peerFlitReceive (f : Flit)
  | peerLinkUp (port : Nat) (rmod : BitVec 16)
  | peerPortFailure (port : Nat)
  | boot
  | warmReset
  | translatePortableModule (r : RowId)
  | verifyNativeImage (r : RowId)
  | attest (r : RowId)
  | halt (cl : Nat)
  | resume (cl : Nat)
  | step (cl : Nat)
  | breakpointMatch (e k : Nat)
  | trcCtlWrite (q : Nat) (v : Word)
  | traceTimeRecord (e : Nat)
  | lifetimeFlush
  | rollbackFloorWrite (v : Word)
  | pwrCtlWrite (v : Word)
  | clockChangeDone
  | thermalNotice (e : Nat) (temp : BitVec 16)
  | throttleStart (temp : BitVec 16)
  | throttleEnd
  | managementHalt
  | registerWrite (q : Option Nat) (off : Nat) (v : Word)
  | reservedEncoding (word : Nat)
  | fetchFault (word cause info lvl : Nat)
  | sensorFallenBelow90c (e : Nat)
  | powerLoss
  | orderlyShutdown
  deriving DecidableEq, Repr, Inhabited

end Sys2Proof
end

