-- ==== Sys2Proof/Config.lean ====
section
/-!
DEFINITION. What the spec leaves open: the order in which the units move, and every value that the spec leaves
free or takes from an outside standard. None of these constants has a body, so nothing can be proved of a value.
-/

namespace Sys2Proof

/-- Who moves next (R470 fixes no latencies; R336 to R342 fix what an executor does with its cycle): an executor
takes an arithmetic cycle, a message in flight is delivered, an event of the machine or of the outside world
comes about, or global time passes. DESIGN CHOICE, log 1. -/
inductive Turn where
  | cycle (exec : Nat)
  | deliver (k : Nat)
  | event (m : Msg)
  | elapse (ns : Nat)
  deriving DecidableEq, Repr, Inhabited

namespace Config

/-- The free choice of the next turn, taken when State.turns is empty (log 1). -/
opaque freeTurn : Nat → Turn

/-- A free value for the use named by the first argument, drawn anew at each count (log 5). -/
opaque freeWord : Nat → Nat → BitVec 64

/-- The blocks of a long range in which the stack controller finds an error, by their number in the range: what it finds, and
what an undetected one reads as (R61, log 5). -/
opaque eccErrors : Nat → List (Nat × BitVec 64 × List Byte)

/-- The byte that decrypting a block under another key than the one it was written with gives: address, the
key's generation at the write and at the read (R67, log 6). -/
opaque scrambled : Nat → Nat → Nat → Byte

/-- SHA-256 of a byte string, 32 bytes little-endian as a number (R439, R451, R457, log 7). -/
opaque sha256 : List Byte → BitVec 256

/-- LMS signature check of RFC 8554: message, signature, public key (R451, log 7). -/
opaque lmsVerify : List Byte → List Byte → List Byte → Bool

/-- LMS signature of the device identity tree with a leaf (R457, log 7). -/
opaque lmsSign : Nat → List Byte → List Byte

/-- The hash of the identity's LMS public key, and the firmware key hash fused in the ROM (R452, R457, log 7). -/
opaque deviceKeyHash : BitVec 256
opaque romKeyHash : BitVec 256

/-- The firmware image in namespace 1 of the storage port, block 0 on (R452), and whether self-test passes, log 8. -/
opaque firmwareImage : List Byte
opaque selfTestPasses : Bool
opaque failedStacks : BitVec 8
opaque portableVersion : BitVec 8

/-- Bytes of the host's memory and of the capacity-tier and storage devices outside the machine (R447, R450). -/
opaque hostByte : Nat → Nat → Byte

/-- The set that a line takes in an array of its home slice: 0 data array, 1 registry, 2 keeper array (R75 gives how many
sets each has and no index), log 32. -/
opaque homeSet : Nat → Nat → Nat

/-- Bytes of a logical block of a storage namespace (R450), log 36. -/
opaque blockSize : Nat → Nat

/-- How large the fitted capacity tier is, in bytes (R63), log 10. -/
opaque tierFitted : Nat

end Config

end Sys2Proof
end

