-- ==== Sys2Proof/Machine/Store.lean ====
section
/-!
DEFINITION. Sparse storage: byte memory as a sorted list of cells in one canonical form, and sorted maps from
numbers to records. An unlisted byte reads 0 (DESIGN CHOICE, log 3).
-/

namespace Sys2Proof.Machine

/-- Byte memory: addresses strictly rising, no cell equal to what an unlisted address reads as. -/
abbrev Memory := List Host.Cell

/-- What an unlisted address reads as: zero (DESIGN CHOICE, log 3: the spec gives no contents after power-on). -/
def memDefault : Byte := 0

/-- The byte at an address. -/
def memRead : Memory → Nat → Byte
  | [], _ => memDefault
  | (b, v) :: m, a => if a = b then v else memRead m a

/-- A cell list with one cell written at its place; a default value takes its cell out. -/
def memWrite : Memory → Nat → Byte → Memory
  | [], a, v => if v = memDefault then [] else [(a, v)]
  | (b, w) :: m, a, v =>
    if a < b then (if v = memDefault then (b, w) :: m else (a, v) :: (b, w) :: m)
    else if a = b then (if v = memDefault then m else (a, v) :: m)
    else (b, w) :: memWrite m a v

/-- Every listed address is above a bound, the addresses rise, and no cell holds the default. -/
def memFormAbove : Option Nat → Memory → Bool
  | _, [] => true
  | lo, (a, v) :: m => (match lo with | none => true | some l => decide (l < a)) && decide (v ≠ memDefault)
      && memFormAbove (some a) m

/-- The canonical form of memory. -/
def Memory.wf (m : Memory) : Bool := memFormAbove none m

/-- The bytes from an address on. -/
def memBytes (m : Memory) (a : Nat) : Nat → List Byte
  | 0 => []
  | n + 1 => memRead m a :: memBytes m (a + 1) n

/-- Writes a byte list from an address on. -/
def memStore : Memory → Nat → List Byte → Memory
  | m, _, [] => m
  | m, a, v :: vs => memStore (memWrite m a v) (a + 1) vs

/-- The number that a little-endian byte list stands for (R5). -/
def leNat : List Byte → Nat
  | [] => 0
  | b :: bs => b.toNat + 256 * leNat bs

/-- The low n bytes of a number, little-endian (R5). -/
def leBytes : Nat → Nat → List Byte
  | 0, _ => []
  | n + 1, v => BitVec.ofNat 8 v :: leBytes n (v / 256)

/-- A sorted map from numbers to records: an unlisted key reads as a default given by the reader. -/
abbrev NMap (α : Type) := List (Nat × α)

/-- The entry of a key, if listed. -/
def mapGet? {α : Type} : NMap α → Nat → Option α
  | [], _ => none
  | (j, v) :: m, k => if k = j then some v else mapGet? m k

/-- The entry of a key, or the default. -/
def mapGet {α : Type} (m : NMap α) (k : Nat) (d : α) : α := (mapGet? m k).getD d

/-- The map with one entry set. -/
def mapSet {α : Type} : NMap α → Nat → α → NMap α
  | [], k, v => [(k, v)]
  | (j, w) :: m, k, v =>
    if k < j then (k, v) :: (j, w) :: m
    else if k = j then (k, v) :: m
    else (j, w) :: mapSet m k v

/-- The map without a key. -/
def mapDel {α : Type} : NMap α → Nat → NMap α
  | [], _ => []
  | (j, w) :: m, k => if k = j then m else (j, w) :: mapDel m k

/-- The element of a list at an index, or a default. -/
def nth {α : Type} : List α → Nat → α → α
  | [], _, d => d
  | x :: _, 0, _ => x
  | _ :: xs, n + 1, d => nth xs n d

/-- The list with the element at an index replaced. -/
def setNth {α : Type} : List α → Nat → α → List α
  | [], _, _ => []
  | _ :: xs, 0, v => v :: xs
  | x :: xs, n + 1, v => x :: setNth xs n v

/-- A number put into an ascending list. -/
def insertAsc (n : Nat) : List Nat → List Nat
  | [] => [n]
  | x :: xs => if n ≤ x then n :: x :: xs else x :: insertAsc n xs
/-- A list without the first element that meets a test. -/
def dropFirst {α : Type} (p : α → Bool) : List α → List α
  | [] => []
  | x :: xs => if p x then xs else x :: dropFirst p xs

/-- The first index whose element meets a test. -/
def indexOf? {α : Type} (p : α → Bool) : List α → Nat → Option Nat
  | [], _ => none
  | x :: xs, n => if p x then some n else indexOf? p xs (n + 1)

end Sys2Proof.Machine
end

