-- ==== Sys2Proof/Machine/State.lean ====
section
/-!
DEFINITION. Everything the spec gives the machine, as plain data: row images and executors, memory and its
metadata, caches, home slices, engines, pools, hubs, partitions, the hub die; the state after reset; the reasons
a step can stop.
-/

namespace Sys2Proof.Machine

/-- Reasons for a stop. There is none: every fault of the spec is taken by the machine itself (R403 for rows,
R299 for nodes, R288 for vector commands, R467 for the management executor), so no step stops with one. -/
inductive Fault where
  deriving DecidableEq, Repr

/-- Refusals: an instruction without a meaning. -/
inductive Refusal where
  /-- Raised by Dispatch for an instruction that has no meaning yet, by its mnemonic. Safe. -/
  | notModelled (mnemonic : String)
  deriving DecidableEq, Repr

/-! ### Executors -/

/-- A row image: d0 to d127 (R190). -/
abbrev Image := Vector Word 128

/-- States of an open slot (R337). -/
inductive SlotSt where
  | empty | opening | opened | closing | retained
  deriving DecidableEq, Repr

/-- An instruction at which a row may be closed while it waits (R338), with the n of cpyw and vwait. -/
inductive WaitFor where
  | stop
  | cpyw (n : Nat)
  | vclaim
  | vwait (n : Nat)
  deriving DecidableEq, Repr

/-- What an OPEN row waits for at an instruction (R103, R116, R166, R172, R174, R180, R186, R206, R269, R273,
R278, R349). -/
inductive Wait where
  | none
  | walk (part : Nat) (va : Word)
  | walkFault (part page cause info lvl : Nat)
  | lease (page : Nat) (va : Word) (acc since : Nat)
  | lines
  | slotFull
  | release (scope : Scope) (snap : Nat)
  | acquire
  | copyQueue
  | batchFull
  | commands
  | router (cluster : Nat)
  | reply (slot : Nat)
  | answer
  | instruction (w : WaitFor)
  | marker
  deriving DecidableEq, Repr

/-- One of the four slots of an executor: its state, the physical row it holds, cycles left of a transfer,
cycles of a stall (R203, R224, R253), what the row waits for, whether the breakpoint at the PC was already taken (R460),
whether its row ended a chain in the last cycle (R339), how many arrivals its boundary has taken (R202, log 50), and whether the
chain that it waits at was begun before (R224). -/
structure Slot where
  st     : SlotSt
  row    : Nat
  left   : Nat
  stall  : Nat
  wait   : Wait
  bpPass : Bool
  ended  : Bool
  arr    : Nat
  begun  : Bool
  deriving DecidableEq, Repr

/-- A message in an executor's outbound buffer (R372). -/
structure MboxMsg where
  row  : RowId
  priv : Nat
  sel  : Nat
  a    : Word
  b    : Word
  deriving DecidableEq, Repr

/-- An executor with its bank: CYCLE, the slot that last began a chain, four slots, the ready queue, the rows of it that entered
since the last cycle (R374), transfers of the bank (true: opening), the slots whose closing was asked for since the last cycle (R337),
the outbound buffer, the hold buffer, cycles counted of a pre-emption request (R418), the cycle of the last trace record (R462), whether
a thermal notice is armed (R434), and the stalls that bank rows which are not open have still to serve (R203, R253). -/
structure Exec where
  cycle   : Word
  rr      : Nat
  slots   : Vector Slot 4
  queue   : List Nat
  entered : List Nat
  xfer    : List (Bool × Nat)
  asked   : List Nat
  outbox  : List MboxMsg
  hold    : List Reply
  preCyc  : Nat
  lastRec : Word
  armed   : Bool
  stalls  : List (Nat × Nat)
  deriving DecidableEq, Repr

/-! ### Caches, home slices, translation -/

/-- A cluster cache line (R165) with its 32 words; agents of the hub die use the same lines write-through (R170). -/
structure CLine where
  v     : BitVec 32
  rg    : BitVec 32
  key   : BitVec 6
  st    : Bool
  age   : BitVec 4
  words : Vector W32 32
  deriving DecidableEq, Repr

/-- An old word that rows of an agent may still fetch (R224): its address and value, for each row that has issued chains since (by
partition and logical row) how many; and, for a word that a copy batch has replaced, the rows that have observed the batch's completion,
whose chains count from there (R225). -/
structure StaleWord where
  agent  : Nat
  addr   : Nat
  old    : W32
  passed : NMap Nat
  copied : Bool
  seen   : List Nat
  deriving DecidableEq, Repr

/-- A line request outstanding (R166): whether a clearing has come since it was sent (R171), whether its line was evicted
since, so that it is asked for again, the loads, atomics and part stores that wait for it, in order (true: a store), and ST, key and hint
of the first access (log 70). -/
structure Miss where
  agent   : Nat
  line    : Nat
  cleared : Bool
  evicted : Bool
  ops     : List (Bool × Req)
  st      : Bool
  key     : Nat
  hint    : Hint
  deriving DecidableEq, Repr

/-- A registration or write-through not yet acknowledged (R167). -/
structure PendReg where
  id    : Nat
  agent : Nat
  line  : Nat
  mask  : BitVec 32
  part  : Nat
  row   : RowId
  tag   : Nat
  deriving DecidableEq, Repr

/-- A store of a row that waits for registrations to be acknowledged (R167, R174). -/
structure StoreWait where
  row  : RowId
  exec : Nat
  slot : Nat
  tag  : Nat
  va   : Nat
  ids  : List Nat
  bad  : Bool
  deriving DecidableEq, Repr

/-- Metadata of a 64-byte block (R60) and the generation of the key it was written with (log 6). -/
structure Block where
  d   : Bool
  p   : Bool
  key : BitVec 6
  v   : Bool
  tag : BitVec 15
  gen : Nat
  deriving DecidableEq, Repr

/-- A line of a home slice's data array: dirty, its place in the order of replacement (0 is least recent), pin (0 none, 1
PIN, 2 PINP), P of the stack's copies of its two blocks, which a write-back renews, and whether the way stands empty and pinned after an
in-stack write has discarded its line (R75 to R77, R125, R127, R128, R410; DESIGN CHOICE, log 101: the pin stays with the way). -/
structure DLine where
  dirty : Bool
  used  : Nat
  pin   : Nat
  spoil : BitVec 2
  gone  : Bool
  deriving DecidableEq, Repr

/-- A registry entry (R79). -/
structure RegEntry where
  eng   : Bool
  old   : Bool
  ownA  : BitVec 8
  maskA : BitVec 32
  ownB  : BitVec 8
  maskB : BitVec 32
  deriving DecidableEq, Repr

/-- A keeper entry (R86): pointer form with valid pointers, or coarse form. -/
structure KeepEntry where
  co    : Bool
  ptrs  : List (BitVec 8)
  peer  : Bool
  watch : Bool
  mgmt  : Bool
  grp   : BitVec 8
  deriving DecidableEq, Repr

/-- A change or read in progress at a line: the request, whether keepers are being invalidated (second stage),
agents whose answers are awaited, clusters that answered kept, words forwarded by registrants (R80 to R90). -/
structure Txn where
  req      : Req
  inval    : Bool
  awaiting : List Nat
  kept     : List Nat
  got      : List (Nat × W32)
  deriving DecidableEq, Repr

/-- The home side of a line: registry and when it was last registered (R80), keepers, the change in progress, waiting
requests in arrival order, and the agents whose write-back of an evicted line has answered a recall or a forward that they
are still going to answer (R81). -/
structure HLine where
  reg     : RegEntry
  reged   : Nat
  keep    : KeepEntry
  txn     : Option Txn
  waiting : List Req
  early   : List Nat
  deriving DecidableEq, Repr

/-- A done-table entry (R423): key, kind (0 W, 1 A, 2 cask, 3 hub), result. -/
structure DoneEnt where
  row    : RowId
  tag    : Nat
  kind   : Nat
  result : Word
  addr   : Nat
  deriving DecidableEq, Repr

/-- A translation buffer entry: leaves only, tagged with partition and page size (R397). -/
structure TlbEnt where
  part : Nat
  base : Nat
  lvl  : Nat
  leaf : Word
  pte  : Nat
  deriving DecidableEq, Repr

/-- A pointer entry that a walker keeps (R397): the table of a level that an address prefix leads to. -/
structure PtrEnt where
  part   : Nat
  lvl    : Nat
  prefixOf : Nat
  table  : Nat
  deriving DecidableEq, Repr

/-- A lease of a page, as holder of another module's page or as home of this module's page (R94 to R97). -/
structure Lease where
  page   : Nat
  holder : Nat
  isHome : Bool
  start  : Nat
  expiry : Nat
  trans  : Nat
  revoking : Bool
  deriving DecidableEq, Repr

/-- What else a slot's side record says: where a load that its place answered at issue reads again (R425), or of a watch that the home's
reply has not come, without or with a write that wakes its row when it comes (R354, R355). -/
inductive OpMore where
  | place (p : Place) (size : Nat) (signed : Bool)
  | asked
  | woken
  deriving DecidableEq, Repr

/-- What the flight record of a row cannot hold: the request itself, for a reissue (R425), the chain after a
blocking instruction, whether the row waits at the instruction for the reply, an acquire still to clear, the reply of
an operation that was performed at issue, whether a bar waits on this arrival, and what OpMore says (log 11). -/
structure OpRec where
  row      : RowId
  slot     : Nat
  na       : Word
  blocking : Bool
  req      : Option Req
  access   : Option RowAccess
  post     : Option PostReq
  acq      : Option Scope
  reply    : Option Reply
  bar      : Bool
  more     : Option OpMore
  deriving DecidableEq, Repr

/-! ### Copy engines -/

/-- Kinds of copy commands (R105, R309). -/
inductive CopyKind where
  | cpy | cpyz | cpy2 | cpyg | dclone | dzero | scrub
  deriving DecidableEq, Repr

/-- A command or COPY node in a copy engine (R98 to R129): queue place 0 to 15 for executors, 16 for the hub; snap
is the number of the cluster's next registration when it issued (R119), and elem the element of a cpyg in progress with its index, none
where it is skipped (R112). -/
structure CopyCmd where
  id     : Nat
  queue  : Nat
  kind   : CopyKind
  row    : RowId
  batch  : Nat
  node   : Option (Nat × Nat)
  dst    : List Run
  src    : List Run
  idx    : List Run
  len    : Nat
  count  : Nat
  dstStride : Nat
  srcStride : Nat
  esz    : Nat
  hint   : Hint
  pos    : Nat
  err    : Nat
  errAt  : Nat
  corr   : Nat
  snap   : Nat
  elem   : Option (Nat × Option Nat)
  deriving DecidableEq, Repr

/-- A batch of a row (R100, R114 to R118). -/
structure Batch where
  row      : RowId
  num      : Nat
  closed   : Bool
  ev       : Bool
  left     : Nat
  corr     : Nat
  err      : Nat
  errAt    : Nat
  rep      : Bool
  reported : Bool
  deriving DecidableEq, Repr

/-! ### Lane pools -/

/-- An exact value: a signed zero, a finite value n ÷ d × 2^e with n and d not zero, an infinity, or NaN (R237). -/
inductive Num where
  | zero (neg : Bool)
  | fin (neg : Bool) (n d : Nat) (e : Int)
  | inf (neg : Bool)
  | nan
  deriving DecidableEq, Repr

/-- A source array being read (R282): the offset of the next block, the bytes of the present one as they were decoded, its elements,
and the next of them. -/
structure VCursor where
  nxt  : Nat
  raw  : List Byte
  vals : List Num
  k    : Nat
  deriving DecidableEq, Repr

/-- A block of a described destination being written: its offset, its values, whether an element was written (R282). -/
structure VPend where
  off   : Nat
  vals  : List Num
  dirty : Bool
  deriving DecidableEq, Repr

/-- Where a vector command stands: the next element, the accumulator, elements counted or packed, the sources, the
destination block, the blocks that failed CHECK and how many of them were reported (R286, R287, R249). -/
structure VRun where
  i      : Nat
  acc    : Option Num
  out    : Nat
  a      : VCursor
  b      : VCursor
  pend   : Option VPend
  checks : List Nat
  posted : Nat
  deriving DecidableEq, Repr

/-- A vector command dispatched to a claim (R278): sequence number, the chain, PC, X and Y. -/
structure VCmd where
  seq : Nat
  op  : Instr
  pc  : Word
  x   : Word
  y   : Word
  deriving DecidableEq, Repr

/-- A ring entry of a claim (R274): state 0 completed, 1 outstanding, 2 discarded, 3 faulted. -/
structure RingEnt where
  seq   : Nat
  pc    : Word
  x     : Word
  y     : Word
  state : Nat
  deriving DecidableEq, Repr

/-- A claim of a pool (R265 to R274, R287, R289). -/
structure Claim where
  num    : Nat
  row    : RowId
  want   : Nat
  lanes  : Nat
  marea  : Nat
  shrk   : Bool
  cmds   : List VCmd
  ring   : List RingEnt
  last   : Nat
  fn     : Option (List W32)
  parked : Option VRun
  deriving DecidableEq, Repr

/-- A lane pool: its claims, the rows waiting at vclaim with their requests, and VPARK's CLAIM (R287). -/
structure Pool where
  claims  : List Claim
  waiting : List (RowId × Nat × Nat)
  vpark   : BitVec 3
  deriving DecidableEq, Repr

/-- A block that a lane or tile engine has written and that none has observed to be written yet, so that a decoder may still receive
words of before (R250): its place and its bytes before, the row whose command or node it is, the command's sequence number, and the node's
partition and record. -/
structure TornBlock where
  place : Place
  old   : List Byte
  row   : RowId
  seq   : Nat
  node  : Option (Nat × Nat)
  deriving DecidableEq, Repr

/-! ### Tile engines and task hubs -/

/-- A stored column of the weight buffer: per block read, none when not stored, else its compressed bytes with
the poison mark (R302). -/
abbrev WColumn := List (Option (Bool × List Byte))

/-- A weight-buffer slot's header with the load that starts there (R302, R303); hurt says that another load has overwritten bytes of
it since. -/
structure WSlot where
  valid : Bool
  k     : Nat
  n     : Nat
  fb    : Nat
  used  : Nat
  cols  : List WColumn
  hurt  : Bool
  deriving DecidableEq, Repr

/-- A tile engine (R291, R301, R304, R311). -/
structure Tile where
  wbuf    : NMap WSlot
  acc     : NMap W32
  staging : List W32
  resv    : Nat
  busy    : Option (Nat × Nat)
  parked  : Option (Nat × Nat)
  deriving DecidableEq, Repr

/-- An engine's state in the save area of a partition (R301, R428): its reservation count goes on counting there; full says that its
weight buffer and accumulator store were saved too, and seed which free values stand in the slot for the weights (log 26). -/
structure SavedTile where
  full : Bool
  tile : Tile
  seed : Nat
  deriving DecidableEq, Repr

/-- What the engine of a parked node has read (R311): the blocks of the row in progress, poisoned or not, the columns of a WLOAD and
the rows of a TRANS. -/
structure NodeWork where
  raws : List (Bool × List Byte)
  cols : List WColumn
  mat  : List (List W32)
  deriving DecidableEq, Repr

/-- A node kept by its holder (R293 to R301, R385 to R388); prog counts the rows that a parked node has finished, checks
the blocks reported for it, work is what its engine has read of it (R311, R312), stuck is when it began to wait for a lease (R95). -/
structure Node where
  die    : Nat
  part   : Nat
  record : Nat
  poster : RowId
  priv   : Nat
  words  : List Word
  recPa  : List Run
  left   : Nat
  state  : Nat
  cause  : Nat
  bound  : Bool
  engine : Nat
  prio   : Nat
  since  : Nat
  xlated : Bool
  runsA  : List Run
  runsB  : List Run
  runsC  : List Run
  ctr    : List Run
  unit   : Option Nat
  prog   : Nat
  checks : List Nat
  work   : NodeWork
  stuck  : Option Nat
  deriving DecidableEq, Repr

/-- A directory entry (R385): CREDIT n with or without an engine, or HELD by a die. -/
structure DirEnt where
  part   : Nat
  record : Nat
  held   : Option Nat
  credit : Nat
  engine : Option Nat
  deriving DecidableEq, Repr

/-- A task hub: its nodes, directory, kept FAULT nodes, done table, and the skips of the die's hot-page tracker (R385 to
R388, R408, R414, R423). -/
structure Hub where
  nodes : List Node
  dir   : List DirEnt
  kept  : List Node
  done  : List DoneEnt
  hptSkip : Nat
  deriving DecidableEq, Repr

/-- Where a launch came from: a host queue or a fork (R378, R379). -/
inductive Source where
  | queue (n : Nat)
  | fork (p : PostReq)
  deriving DecidableEq, Repr

/-- A live launch (R375 to R384). -/
structure Launch where
  id     : Nat
  base   : Nat
  rows   : Nat
  n1     : Nat
  n2     : Nat
  n3     : Nat
  entry  : Word
  args   : Word
  quant  : Nat
  slots  : Nat
  priv   : Nat
  ctrl   : Bool
  gang   : Bool
  images : List (List Word)
  place  : List Nat
  made   : List Nat
  counter : Option Run
  source : Source
  finished : List Nat
  cleared : List Nat
  deriving DecidableEq, Repr

/-- A launch accepted or a fork waiting at the leader (R379). -/
structure Fork where
  post : PostReq
  at_  : Nat
  deriving DecidableEq, Repr

/-- A launch that has been accepted and waits for a run of identifiers (R380): where it came from, its descriptor, its row images and the
place of its counter. -/
structure TakenLaunch where
  src     : Source
  desc    : List Word
  images  : List (List Word)
  counter : Option Run
  deriving DecidableEq, Repr

/-- A domain and its unit's count (R357): partition, launch, level, domain number; the phase and the arrivals
counted in it, and the keys counted with their phases (R423, R425). -/
structure DomUnit where
  part    : Nat
  launch  : Nat
  level   : Nat
  dom     : Nat
  phase   : BitVec 32
  arrived : List Arrival
  seen    : List (RowId × Nat × Nat)
  deriving DecidableEq, Repr

/-- An open meeting point (R359): count, arrivals in order; waiting ones keep their counts. -/
structure Meeting where
  part    : Nat
  launch  : Nat
  level   : Nat
  dom     : Nat
  meet    : Nat
  count   : Nat
  arrived : List Arrival
  deriving DecidableEq, Repr

/-! ### Partitions -/

/-- A ring's registers: BASE/IRQ/LOGN word, HEAD, TAIL, DROP (R405). -/
structure RingRegs where
  base : Word
  head : W32
  tail : W32
  drop : W32
  deriving DecidableEq, Repr

/-- A launch queue's registers (R378), and the tails that have been rung with the number of their arrival (R379). -/
structure LaunchQ where
  cfg  : Word
  tail : W32
  head : W32
  done : W32
  ridx : BitVec 24
  err  : BitVec 4
  rung : List (W32 × Nat)
  deriving DecidableEq, Repr

/-- A storage queue pair (R450): registers, the hub's place in the submission ring, the completion tail, phase,
and the commands started and not finished. -/
structure StorQ where
  nsq    : Word
  ncq    : Word
  cqHead : W32
  sqTail : W32
  sqHead : W32
  cqTail : W32
  phase  : Bool
  open_  : List (List Word)
  deriving DecidableEq, Repr

/-- The registers and own state of one partition (R439 to R443 and the chapters they name). -/
structure Part where
  pdef0 : Word
  pdef1 : Word
  pslice : List Word
  pimg : Word
  pns : Word
  pkeyh : List Word
  pmem : Word
  pmemT : Word
  pcask : Word
  prow : Word
  psave : Word
  pbw : Word
  tokens : Nat
  bwStall : Word
  pctlBusy : Bool
  en : Bool
  rst : Bool
  badcfg : Bool
  img : BitVec 4
  ptRoot : Word
  lq : List LaunchQ
  mb : RingRegs
  fq : RingRegs
  caskPage : Word
  caskBusy : Bool
  caskRes : BitVec 2
  npark : BitVec 7
  nretryRec : Word
  nretryBusy : Bool
  nretryRes : BitVec 2
  pgPage : Word
  pgBusy : Bool
  pgRes : BitVec 2
  pgDst : Word
  pgPte : Word
  trcCtl : Word
  trcDrop : W32
  trcTail : W32
  stor : List StorQ
  rsvBase : Word
  pquant : Word
  pslots : Word
  pyield : Word
  spwin : Word
  therm : BitVec 512
  parked : List RowId
  forks : List Fork
  taken : Option TakenLaunch
  arrivals : Nat
  sysHash : BitVec 256
  transHash : BitVec 256
  deriving DecidableEq, Repr

/-- A pre-emption request on a cluster (R416 to R418): partition, stage (1 requested, 4 rows being frozen, 2 frozen,
3 streaming), rows the eviction's FREEZE froze, whether REMOVE follows, whether a slice entry asked. -/
structure PreReq where
  part   : Nat
  stage  : Nat
  froze  : List RowId
  remove : Bool
  slice  : Bool
  deriving DecidableEq, Repr

/-- A cluster: debug module, pre-emption request, partitions evicted from it and not restored, the one resident on it,
fill pointer, copy engine, held copy commands (R428, log 12), watches. -/
structure Cluster where
  xtgt    : BitVec 32
  brkcap  : Bool
  dbgCause : BitVec 2
  halted  : Bool
  bps     : List Word
  dbgRow  : BitVec 24
  ccsel   : BitVec 14
  stepping : Bool
  pre     : Option PreReq
  evicted : List Nat
  resident : Option Nat
  fill    : Nat
  cmds    : List CopyCmd
  heldCmds : List CopyCmd
  watches : List (RowId × Nat × Nat)
  deriving DecidableEq, Repr

/-! ### The hub die -/

/-- A key slot (R67): VALID, the key pair, and its generation (log 6). -/
structure KeySlot where
  valid : Bool
  gen   : Nat
  data  : List Word
  deriving DecidableEq, Repr

/-- A rack-map entry (R153). -/
structure RackEnt where
  die   : Nat
  part  : Nat
  page  : Nat
  frame : Nat
  gen   : Nat
  valid : Bool
  left  : Nat
  deriving DecidableEq, Repr

/-- A request that waits at its tail slice (R144, R145): a seal that was taken up and waits for PEND zero, or a request whose turn
has not come. -/
structure TailWait where
  page  : Nat
  taken : Bool
  req   : Req
  deriving DecidableEq, Repr

/-- A reclaim sweep in progress (R157). -/
structure Sweep where
  part : Nat
  page : Nat
  deriving DecidableEq, Repr

/-- A page being moved (R411): its destination frame and the address of its leaf, as they were when MIGRATE began. -/
structure Migration where
  part  : Nat
  page  : Nat
  dst   : Nat
  pte   : Nat
  deriving DecidableEq, Repr

/-- A page being taken out of a scratchpad (R413), and its leaf as it was when SPUNMAP began. -/
structure Unmapping where
  part : Nat
  page : Nat
  leaf : Word
  deriving DecidableEq, Repr

/-- A peer port (R449) with its receivers' kept flits and next sequence numbers per channel (R429). -/
structure Peer where
  chmask : BitVec 32
  en     : Bool
  state  : BitVec 2
  rmod   : BitVec 16
  kept   : List Flit
  next   : NMap Nat
  deriving DecidableEq, Repr

/-- A message held for a full ring, by die (R407). -/
structure HeldMsg where
  die  : Nat
  ring : Ring
  msg  : RingMsg
  deriving DecidableEq, Repr

/-- A slice-table entry (R389). -/
structure GsEntry where
  inst : Word
  pset : BitVec 32
  deriving DecidableEq, Repr

/-- The hub-die registers (R437 and the rules it names). gsFull says that the slice table holds 64 entries, whose two indices are then
equal (R389); gsWait are clusters on which the entry acted on last waits for another partition's request (R390). -/
structure HubDie where
  keys    : NMap KeySlot
  keyData : List Word
  keySlot : BitVec 6
  keyBusy : Bool
  preMask : BitVec 32
  prePart : BitVec 6
  preStage : BitVec 3
  preOp   : BitVec 3
  preBusy : Bool
  preErr  : Bool
  gsTab   : NMap GsEntry
  gsLow   : Word
  gsWidx  : BitVec 6
  gsRidx  : BitVec 6
  gsBusy  : Bool
  gsEn    : Bool
  gsFull  : Bool
  gsWait  : List Nat
  hfq     : RingRegs
  hmb     : RingRegs
  pwrCtl  : BitVec 3
  pwrCur  : BitVec 3
  pwrNext : Option (BitVec 3)
  changing : Bool
  thr     : Bool
  tmax    : BitVec 16
  trans   : Nat
  bootVersion : W32
  bootPver : Byte
  bootFail : Byte
  bootCode : Byte
  bootDone : Bool
  fwHash  : BitVec 256
  ltIdx   : W32
  lt      : NMap Nat
  ltNv    : NMap Nat
  psel    : Word
  mgmtHalted : Bool
  deriving DecidableEq, Repr

/-- The machine. -/
structure State where
  count   : Nat
  turns   : List Turn
  agenda  : List Msg
  cur     : Nat
  waited  : Wait
  time    : Nat
  rows    : NMap Image
  execs   : NMap Exec
  spads   : NMap Memory
  mem     : Memory
  blocks  : NMap Block
  caches  : NMap CLine
  misses  : List Miss
  stale   : List StaleWord
  regs    : List PendReg
  regNext : Nat
  stores  : List StoreWait
  ops     : List OpRec
  late    : List (RowId × Nat × Word)
  waitFor : List (RowId × WaitFor)
  owed    : List (RowId × List (Nat × Nat))
  stalls  : List (RowId × Nat)
  homes   : NMap HLine
  dlines  : NMap DLine
  done    : NMap (List DoneEnt)
  tierMiss : List (Nat × Nat × List Req)
  postponed : NMap Nat
  incs    : NMap (BitVec 8)
  deadSeen : List Nat
  tlbs    : NMap (List TlbEnt)
  llbs    : NMap (List TlbEnt)
  walkers : NMap (List PtrEnt)
  mapped  : List TlbEnt
  leases  : List Lease
  rehomed : List (Nat × Nat)
  leaving : List Nat
  moves   : List Migration
  unmaps  : List Unmapping
  tails   : List TailWait
  tailCache : NMap Word
  racks   : List RackEnt
  sweeps  : List Sweep
  batches : List Batch
  copyNext : Nat
  pools   : NMap Pool
  torn    : List TornBlock
  tiles   : NMap Tile
  saves   : NMap SavedTile
  hubs    : NMap Hub
  launches : NMap (List Launch)
  domains : List DomUnit
  meetings : List Meeting
  meetWait : List Meeting
  parts   : NMap Part
  clusters : NMap Cluster
  hub     : HubDie
  peers   : NMap Peer
  heldMsgs : List HeldMsg
  posted  : List HostAccess
  reads   : List (HostAccess × List Byte)
  vectors : List (Nat × Nat)
  deriving DecidableEq, Repr

/-! ### Default records: what an unlisted key reads as -/

def Slot.init : Slot := ⟨.empty, 0, 0, 0, .none, false, false, 0, false⟩

/-- An executor after reset: CYCLE 0 (R210), slots EMPTY (DESIGN CHOICE, log 2). -/
def Exec.init : Exec := ⟨0, 0, Vector.replicate 4 Slot.init, [], [], [], [], [], [], 0, 0, true, []⟩

/-- An image that nothing has filled: zero (DESIGN CHOICE, log 2). -/
def Image.init : Image := Vector.replicate 128 0

def CLine.init : CLine := ⟨0, 0, 0, false, 0, Vector.replicate 32 0⟩

/-- Block metadata after reset: zero (R60). -/
def Block.init : Block := ⟨false, false, 0, false, 0, 0⟩

def RegEntry.init : RegEntry := ⟨false, false, 0, 0, 0, 0⟩

def KeepEntry.init : KeepEntry := ⟨false, [], false, false, false, 0⟩

/-- The home side of a line after reset (R79, R86). -/
def HLine.init : HLine := ⟨RegEntry.init, 0, KeepEntry.init, none, [], []⟩

/-- A line that the data array does not hold. -/
def DLine.init : DLine := ⟨false, 0, 0, 0, false⟩

def Pool.init : Pool := ⟨[], [], 0⟩

def WSlot.init : WSlot := ⟨false, 0, 0, 0, 0, [], false⟩

def NodeWork.init : NodeWork := ⟨[], [], []⟩

def Tile.init : Tile := ⟨[], [], [], 0, none, none⟩

def Hub.init : Hub := ⟨[], [], [], [], 0⟩

def RingRegs.init : RingRegs := ⟨0, 0, 0, 0⟩

def LaunchQ.init : LaunchQ := ⟨0, 0, 0, 0, 0, 0, []⟩

def StorQ.init : StorQ := ⟨0, 0, 0, 0, 0, 0, true, []⟩

/-- A partition after reset: the reset values of R69, R137, R138, R198, R210, R311, R378, R392, R405, R408, R410,
R427, R439 to R443, R450, R461. SPWIN has none: 0 (DESIGN CHOICE, log 2). -/
def Part.init : Part where
  pdef0 := 0
  pdef1 := 0
  pslice := [0, 0, 0, 0]
  pimg := 0
  pns := 0
  pkeyh := [0, 0, 0, 0]
  pmem := 0
  pmemT := 0
  pcask := 0
  prow := 0
  psave := 0
  pbw := 0
  tokens := 0
  bwStall := 0
  pctlBusy := false
  en := false
  rst := false
  badcfg := false
  img := 0
  ptRoot := 0
  lq := [LaunchQ.init, LaunchQ.init, LaunchQ.init, LaunchQ.init]
  mb := RingRegs.init
  fq := RingRegs.init
  caskPage := 0
  caskBusy := false
  caskRes := 0
  npark := 0
  nretryRec := 0
  nretryBusy := false
  nretryRes := 0
  pgPage := 0
  pgBusy := false
  pgRes := 0
  pgDst := 0
  pgPte := 0
  trcCtl := 0
  trcDrop := 0
  trcTail := 0
  stor := [StorQ.init, StorQ.init, StorQ.init, StorQ.init]
  rsvBase := 0
  pquant := 64
  pslots := 4
  pyield := 65536
  spwin := 0
  therm := 0
  parked := []
  forks := []
  taken := none
  arrivals := 0
  sysHash := 0
  transHash := 0

def Cluster.init : Cluster where
  xtgt := 0
  brkcap := false
  dbgCause := 0
  halted := false
  bps := [0, 0, 0, 0]
  dbgRow := 0
  ccsel := 0
  stepping := false
  pre := none
  evicted := []
  resident := none
  fill := 0
  cmds := []
  heldCmds := []
  watches := []

def KeySlot.init : KeySlot := ⟨false, 0, []⟩

def Peer.init : Peer := ⟨0, false, 0, 0, [], []⟩

def HubDie.init : HubDie where
  keys := []
  keyData := [0, 0, 0, 0, 0, 0, 0, 0]
  keySlot := 0
  keyBusy := false
  preMask := 0
  prePart := 0
  preStage := 0
  preOp := 0
  preBusy := false
  preErr := false
  gsTab := []
  gsLow := 0
  gsWidx := 0
  gsRidx := 0
  gsBusy := false
  gsEn := false
  gsFull := false
  gsWait := []
  hfq := RingRegs.init
  hmb := RingRegs.init
  pwrCtl := 0
  pwrCur := 0
  pwrNext := none
  changing := false
  thr := false
  tmax := 0
  trans := 0
  bootVersion := 0
  bootPver := 0
  bootFail := 0
  bootCode := 0
  bootDone := false
  fwHash := 0
  ltIdx := 0
  lt := []
  ltNv := []
  psel := 0
  mgmtHalted := false

/-- The machine right after reset: every register at the value the spec gives, or at the value of log 2; memory
lists nothing (log 3); the boot ROM is about to run (R452). -/
def State.reset : State where
  count := 0
  turns := []
  agenda := [.boot]
  cur := 0
  waited := .none
  time := 0
  rows := []
  execs := []
  spads := []
  mem := []
  blocks := []
  caches := []
  misses := []
  stale := []
  regs := []
  regNext := 0
  stores := []
  ops := []
  late := []
  waitFor := []
  owed := []
  stalls := []
  homes := []
  dlines := []
  done := []
  tierMiss := []
  postponed := []
  incs := []
  deadSeen := []
  tlbs := []
  llbs := []
  walkers := []
  mapped := []
  leases := []
  rehomed := []
  leaving := []
  moves := []
  unmaps := []
  tails := []
  tailCache := []
  racks := []
  sweeps := []
  batches := []
  copyNext := 0
  pools := []
  torn := []
  tiles := []
  saves := []
  hubs := []
  launches := []
  domains := []
  meetings := []
  meetWait := []
  parts := []
  clusters := []
  hub := HubDie.init
  peers := []
  heldMsgs := []
  posted := []
  reads := []
  vectors := []

end Sys2Proof.Machine
end

