-- ==== Sys2Proof/Machine/Bits.lean ====
section
/-!
DEFINITION. Bit fields of row words and registers, the words of a row image, and the bytes of words.
-/

namespace Sys2Proof.Machine

/-- The field of n bits from bit lo on, as a number. -/
def bits (w : Word) (lo n : Nat) : Nat := (w.extractLsb' lo n).toNat

/-- The word with the field of n bits from bit lo on set to v modulo 2^n. -/
def putBits (w : Word) (lo n v : Nat) : Word :=
  (w &&& ~~~(BitVec.ofNat 64 (2 ^ n - 1) <<< lo)) ||| (BitVec.ofNat 64 (v % 2 ^ n) <<< lo)

/-- A bit of a word. -/
def bit (w : Word) (i : Nat) : Bool := w.getLsbD i

/-- 1 for true, 0 for false. -/
def num (b : Bool) : Nat := if b then 1 else 0

/-- A field for a concatenation: v in bits from lo on. -/
def at_ (v lo : Nat) : Nat := v * 2 ^ lo

/-- The word of a number, modulo 2^64. -/
def w64 (n : Nat) : Word := BitVec.ofNat 64 n

/-- The sign extension of the low n bytes of a number to 64 bits (R179). -/
def sextBytes (n v : Nat) : Word :=
  match n with
  | 1 => (BitVec.ofNat 8 v).signExtend 64
  | 2 => (BitVec.ofNat 16 v).signExtend 64
  | 4 => (BitVec.ofNat 32 v).signExtend 64
  | _ => BitVec.ofNat 64 v

/-- The zero extension of the low n bytes of a number. -/
def zextBytes (n v : Nat) : Word := BitVec.ofNat 64 (v % 256 ^ n)

/-- A loaded value extended by its type (R57, R179). -/
def extend (signed : Bool) (n v : Nat) : Word := if signed then sextBytes n v else zextBytes n v

/-- Row word n of an image (R190). -/
def imgWord (im : Image) (n : Nat) : Word := (im[n]?).getD 0

/-- The image with row word n written. -/
def imgSet (im : Image) (n : Nat) (v : Word) : Image := im.setIfInBounds n v

/-- The number with the bytes from byte offset o on replaced by n bytes of v: a store into part of a dword. -/
def patchWord (w : Word) (o n v : Nat) : Word := putBits w (8 * o) (8 * n) v

/-- The bit mask of 32-bit words of a line that n bytes at an address touch. -/
def wordMask (pa n : Nat) : BitVec 32 :=
  BitVec.ofNat 32 ((2 ^ (((pa % 128) + n + 3) / 4) - 1) - (2 ^ ((pa % 128) / 4) - 1))

/-- The list of indices below n whose bit is set. -/
def setBits (n v : Nat) : List Nat := (List.range n).filter fun i => v.testBit i

/-- Two byte ranges overlap. -/
def overlap (a n b m : Nat) : Bool := a < b + m && b < a + n

/-- The image word list as bytes, little-endian (R5, R190). -/
def imgBytes (im : Image) : List Byte := im.toList.flatMap fun w => leBytes 8 w.toNat

/-- Eight-byte numbers of a byte list. -/
def dwords : Nat → List Byte → List Word
  | 0, _ => []
  | n + 1, bs => w64 (leNat (bs.take 8)) :: dwords n (bs.drop 8)

/-- An image from its bytes. -/
def imgOf (bs : List Byte) : Image :=
  (dwords 128 bs).zipIdx.foldl (fun im p => imgSet im p.2 p.1) Image.init

end Sys2Proof.Machine
end

