-- ==== Sys2Proof/Machine/Layout.lean ====
section
/-!
DEFINITION. The unit numbers of R3 and R4, the physical address map of R63, R201, R437 and R447, and where the
areas of a partition lie (R64, R69, R70, R136, R152, R198, R427).
-/

namespace Sys2Proof.Machine

/-! ### Units -/

/-- Executor of a physical row: 0 to 511 on clusters, 512 + x control executor x, 544 the management executor. -/
def execOf (pr : Nat) : Nat := pr / 2048
/-- An executor of the hub die. -/
def isCtl (e : Nat) : Bool := 512 ≤ e
def clusterOf (e : Nat) : Nat := e / 16
/-- Die of an executor; control and management executors lie on the hub die, 4. -/
def dieOf (e : Nat) : Nat := if 512 ≤ e then 4 else e / 128
/-- The caching agent of an executor (R4). -/
def agentOf (e : Nat) : Nat := if e < 512 then e / 16 else if e < 544 then 0x60 + (e - 512) else 0x80
/-- The translation buffer of an executor: its cluster's, a control cluster's (32, 33), the management one's (34). -/
def unitOf (e : Nat) : Nat := if e < 512 then e / 16 else if e < 544 then 32 + (e - 512) / 16 else 34
/-- The lane pool that serves an executor (R265). -/
def poolOf (e : Nat) : Nat := 2 * (e / 16) + (if e % 16 < 8 then 0 else 1)
/-- A caching agent whose cache writes through (R170). -/
def writesThrough (agent : Nat) : Bool := 0x60 ≤ agent && agent ≤ 0x80

/-! ### Physical addresses -/

def stackTop : Nat := 960 * 2 ^ 30
def tierBase : Nat := 0x100000000000
def tierTop : Nat := 0x200000000000
def rowSpace : Nat := 0x200000000000
def rowSpaceTop : Nat := 0x208000000000
def windowBase : Nat := 0x300000000000
def hubBase : Nat := 0x310000000000
def hubTop : Nat := hubBase + 2 ^ 20
def hostBase : Nat := 0x380000000000
def hostTop : Nat := 0x400000000000

/-- Stack or tier memory, which home slices serve (R63). -/
def isMemory (pa : Nat) : Bool := pa < stackTop || (tierBase ≤ pa && pa < tierTop)

/-- The row and byte offset that a row-space address names (R201). -/
def rowOfSpace (pa : Nat) : RowId × Nat :=
  (⟨(pa - rowSpace) / 2 ^ 34, ((pa - rowSpace) % 2 ^ 34) / 1024⟩, pa % 1024)

/-! ### Partitions -/

def part (s : State) (q : Nat) : Part := mapGet s.parts q Part.init
def setPart (s : State) (q : Nat) (p : Part) : State := { s with parts := mapSet s.parts q p }
def cluster (s : State) (c : Nat) : Cluster := mapGet s.clusters c Cluster.init
def setCluster (s : State) (c : Nat) (x : Cluster) : State := { s with clusters := mapSet s.clusters c x }

/-- The partition's clusters, control executors and home slices, each in increasing number (R439). -/
def clustersOf (p : Part) : List Nat := setBits 32 (bits p.pdef0 32 32)
def ctlOf (p : Part) : List Nat := setBits 32 (bits p.pdef0 0 32)
def slicesOf (p : Part) : List Nat :=
  p.pslice.zipIdx.flatMap fun (w, i) => (setBits 64 w.toNat).map (· + 64 * i)
def hCount (p : Part) : Nat := (slicesOf p).length

/-- The stack behind one home slice: 3.75 GiB (R64). -/
def sliceBytes : Nat := 4026531840
def pbase (p : Part) : Nat := bits p.pdef1 56 8 * sliceBytes
def stackLen (p : Part) : Nat := hCount p * sliceBytes
def inStack (p : Part) (pa : Nat) : Bool := pbase p ≤ pa && pa < pbase p + stackLen p

/-- Tiered mode and its fields (R69); flat stack rows are FLATS in tiered mode and 327,680 otherwise (R137). -/
def tiered (p : Part) : Bool := bit p.pmem 63
def flats (p : Part) : Nat := if tiered p then bits p.pmem 32 19 else 327680
def tsize (p : Part) : Nat := bits p.pmem 0 32
def tbase (p : Part) : Nat := p.pmemT.toNat
def inTier (p : Part) (pa : Nat) : Bool :=
  tiered p && tbase p ≤ pa && pa < tbase p + 2048 * tsize p

/-- The 2 KiB unit of a stack address and its stack row index (R64). -/
def unitIn (p : Part) (pa : Nat) : Nat := (pa - pbase p) / 2048
def srowIndex (p : Part) (pa : Nat) : Nat := unitIn p pa / (6 * hCount p)
def unitAddr (p : Part) (u : Nat) : Nat := pbase p + 2048 * u

/-- The home slice of a stack address (R64); a tier address is homed with the unit that caches it (R70). -/
def cacheUnits (p : Part) : Nat := (327680 - flats p) * 6 * hCount p
def tierUnit (p : Part) (pa : Nat) : Nat :=
  flats p * 6 * hCount p + ((pa - tbase p) / 2048) % cacheUnits p
def tierTag (p : Part) (pa : Nat) : Nat := ((pa - tbase p) / 2048) / cacheUnits p
def unitOfAddr (p : Part) (pa : Nat) : Nat := if inTier p pa then tierUnit p pa else unitIn p pa
def homeOf (p : Part) (pa : Nat) : Nat := nth (slicesOf p) (unitOfAddr p pa % hCount p) 0
/-- Pseudo-channel, stack bank and subarray of a unit (R64). -/
def pcOfUnit (p : Part) (u : Nat) : Nat := (u / hCount p) % 6
def bankOfUnit (p : Part) (u : Nat) : Nat := (u / (6 * hCount p)) % 40
def subOfUnit (p : Part) (u : Nat) : Nat := ((u / (6 * hCount p)) / 40) / 512

/-- Flat stack memory of the partition (R64, R70). -/
def isFlat (p : Part) (pa : Nat) : Bool := inStack p pa && srowIndex p pa < flats p
/-- A whole byte range lies in flat stack memory. -/
def flatRange (p : Part) (pa n : Nat) : Bool := isFlat p pa && isFlat p (pa + (n - 1))

/-- The rack area (R152). -/
def rackRows (p : Part) : Nat := bits p.pcask 44 12
def inRack (p : Part) (pa : Nat) : Bool :=
  isFlat p pa && flats p - rackRows p ≤ srowIndex p pa
/-- The tail area and the address of a page's tail entry (R136). -/
def tailBase (p : Part) : Nat := bits p.pcask 16 24 * 65536
def tailLen (p : Part) : Nat := hCount p * 491520
def tailAddr (p : Part) (page : Nat) : Nat := tailBase p + 8 * ((page - pbase p) / 65536)
/-- The cellar and the row table (R198). -/
def cellBase (p : Part) : Nat := bits p.prow 16 24 * 65536
def cellImages (p : Part) : Nat := 64 * bits p.prow 44 20
def tableBase (p : Part) : Nat := cellBase p + 65536 * bits p.prow 44 20
def cellLen (p : Part) : Nat := 65536 * bits p.prow 44 20 + 2 ^ 27
/-- The save area (R427). -/
def saveBase (p : Part) : Nat := bits p.psave 30 10 * 2 ^ 30
def inRange (pa base len : Nat) : Bool := base ≤ pa && pa < base + len
def inTail (p : Part) (pa : Nat) : Bool := inRange pa (tailBase p) (tailLen p)
def inCell (p : Part) (pa : Nat) : Bool := inRange pa (cellBase p) (cellLen p)
def inSave (p : Part) (pa : Nat) : Bool := inRange pa (saveBase p) (2 ^ 30)

/-- A valid cask location (R131). -/
def caskPlace (p : Part) (page : Nat) : Bool :=
  flatRange p (65536 * page) 65536 && !inRack p (65536 * page) && !inRack p (65536 * page + 65535) && !inTail p (65536 * page)

/-- Where the areas of a partition begin and end: an extent is cut there when it is translated. The end of the fitted tier
concerns addresses in the tier alone. -/
def areaEdges (p : Part) (pa : Nat) : List Nat :=
  [pbase p, pbase p + stackLen p, unitAddr p ((flats p - rackRows p) * 6 * hCount p), unitAddr p (flats p * 6 * hCount p),
   tailBase p, tailBase p + tailLen p, cellBase p, cellBase p + cellLen p, saveBase p, saveBase p + 2 ^ 30,
   tbase p, tbase p + 2048 * tsize p] ++ (if tierBase ≤ pa then [tierBase + Config.tierFitted] else [])
/-- Bytes from an address to the next edge, at most n. -/
def toEdge (p : Part) (pa n : Nat) : Nat :=
  (areaEdges p pa).foldl (fun m e => if pa < e && e < pa + m then e - pa else m) n

/-- A valid place for a page table of the partition (R392, R395). -/
def tablePlace (p : Part) (pa : Nat) : Bool :=
  isFlat p pa && !inRack p pa && !inTail p pa && !inCell p pa && !inSave p pa

/-- A key slot index is one of the partition's at most two (R395, R439). -/
def ownsKey (p : Part) (k : Nat) : Bool :=
  (bit p.pdef1 7 && bits p.pdef1 0 6 == k) || (bit p.pdef1 15 && bits p.pdef1 8 6 == k)
def keySlot (s : State) (k : Nat) : KeySlot := mapGet s.hub.keys k KeySlot.init
def keyValid (s : State) (p : Part) (k : Nat) : Bool := ownsKey p k && (keySlot s k).valid

end Sys2Proof.Machine
end

