-- ==== Sys2Proof/Machine/Stack.lean ====
section
/-!
DEFINITION. Blocks of stack memory with their metadata: how a block is delivered, what it decrypts to, and what a write into
part of it or over all of it leaves (R60 to R67); the dwords that the hardware keeps in areas of its own.
-/

namespace Sys2Proof.Machine

/-! ### Blocks (R60 to R67) -/

def block (s : State) (pa : Nat) : Block := mapGet s.blocks (pa / 64) Block.init
def setBlock (s : State) (pa : Nat) (b : Block) : State := { s with blocks := mapSet s.blocks (pa / 64) b }
def keyGen (s : State) (k : BitVec 6) : Nat := (keySlot s k.toNat).gen
/-- How a block is delivered under a key index: 0 good, 1 poisoned, 2 key mismatch (R62, R66). -/
def delivery (s : State) (pa key : Nat) : Nat :=
  let b := block s pa
  if b.p then 1 else if b.key.toNat ≠ key then 2 else 0
/-- A byte as the home slice decrypts it: a block written under an earlier key of its slot gives unrelated data
(R67, log 6). -/
def homeByte (s : State) (pa : Nat) : Byte :=
  let b := block s pa
  if b.gen = keyGen s b.key then memRead s.mem pa else Config.scrambled pa b.gen (keyGen s b.key)
def homeBytes (s : State) (pa : Nat) : Nat → List Byte
  | 0 => []
  | n + 1 => homeByte s pa :: homeBytes s (pa + 1) n
/-- A block rewritten under its slot's present key before part of it is written: its bytes as they decrypt now. -/
def settle (s : State) (pa : Nat) : State :=
  let b := block s pa
  let a := pa / 64 * 64
  { s with mem := if b.gen = keyGen s b.key then s.mem else memStore s.mem a (homeBytes s a 64),
           blocks := if b.gen = keyGen s b.key then s.blocks else mapSet s.blocks (pa / 64) { b with gen := keyGen s b.key } }
/-- The home merges bytes that lie in one block: part of a block keeps its KEY and P, a whole block takes the
writer's index and clears P (R62, R66). In tiered mode D is set in the unit's block (R71). -/
def mergeBlock (s : State) (pa : Nat) (data : List Byte) (key : Nat) : State :=
  let k := BitVec.ofNat 6 key
  if pa % 64 = 0 && data.length = 64 then
    setBlock { s with mem := memStore s.mem pa data } pa { block s pa with p := false, key := k, gen := keyGen s k }
  else
    let s := settle s pa
    { s with mem := memStore s.mem pa data }
/-- The home merges bytes from an address on, block by block; fuel counts the blocks touched. -/
def mergeFrom : Nat → State → Nat → List Byte → Nat → State
  | 0, s, _, _, _ => s
  | n + 1, s, pa, data, key =>
    let here := 64 - pa % 64
    mergeFrom n (mergeBlock s pa (data.take here) key) (pa + here) (data.drop here) key
def merge (s : State) (pa : Nat) (data : List Byte) (key : Nat) : State :=
  if data = [] then s else mergeFrom ((pa % 64 + data.length + 63) / 64) s pa data key
/-- P is set in a block (R61, R93, R113). -/
def poisonBlock (s : State) (pa : Nat) : State := setBlock s pa { block s pa with p := true }
/-- A block that is written in part and was last written whole under another key index (R66). -/
def foreignPart (s : State) (pa n key : Nat) : Bool :=
  (List.range ((pa % 64 + n + 63) / 64)).any fun i =>
    let a := pa / 64 * 64 + 64 * i
    (a < pa || pa + n < a + 64) && (block s a).key.toNat != key

/-! ### Dwords in the areas of the hardware

The row table, the cellar, tail entries, save slots and trace rings lie in flat stack memory. A write of the hardware into
part of a block goes in under the KEY that the block has (DEDUCED, log 67). -/

def memWord (s : State) (pa : Nat) : Word := w64 (leNat (homeBytes s pa 8))
/-- Bytes of the hardware's own, written within blocks under the keys that these have. -/
def ownStore (s : State) (pa : Nat) (data : List Byte) : State :=
  let t := settle (settle s pa) (pa + (data.length - 1))
  { s with mem := memStore t.mem pa data, blocks := t.blocks }
def setMemWord (s : State) (pa : Nat) (v : Word) : State := ownStore s pa (leBytes 8 v.toNat)
/-- The key index under which the hardware writes whole blocks of a partition: its key slot A (DEDUCED, log 67). -/
def keyA (s : State) (q : Nat) : Nat := bits (part s q).pdef1 0 6


end Sys2Proof.Machine
end

