-- ==== Sys2Proof/Machine/Ops.lean ====
section
/-!
DEFINITION. The named operations over rows, executors, the flight record, traces and rings; taking an exception
and returning from one, each once; the frame that every chain shares.
-/

namespace Sys2Proof.Machine

/-! ### The executing row -/

/-- The image in a bank row (R190, R201). -/
def rowImage (s : State) (pr : Nat) : Image := mapGet s.rows pr Image.init
def rowWord (s : State) (pr n : Nat) : Word := imgWord (rowImage s pr) n
def setRowWord (s : State) (pr n : Nat) (v : Word) : State :=
  { s with rows := mapSet s.rows pr (imgSet (rowImage s pr) n v) }

/-- The row word that a register field names through its window (R46). -/
def regIndex (r : Reg) : Nat :=
  match r.win.toNat with
  | 0 => 32 + r.num.toNat
  | 1 => 64 + r.num.toNat
  | 2 => 96 + r.num.toNat
  | _ => r.num.toNat
/-- Window 0 with number 0 is g0, which reads zero and discards writes (R46, R190). -/
def isG0 (r : Reg) : Bool := r.win == 0 && r.num == 0
/-- Reading a register field of the executing row. -/
def readReg (s : State) (r : Reg) : Word := if isG0 r then 0 else rowWord s s.cur (regIndex r)
/-- Writing a register field of the executing row; a write to g0 is discarded. -/
def writeReg (s : State) (r : Reg) (v : Word) : State :=
  if isG0 r then s else setRowWord s s.cur (regIndex r) v
/-- Register gn. -/
def gReg (n : Nat) : Reg := ⟨0, BitVec.ofNat 5 n⟩
/-- A write to row word n, except d32, which is g0 (R190). -/
def writeWord (s : State) (n : Nat) (v : Word) : State := if n = 32 then s else setRowWord s s.cur n v

/-- The PC of the executing row: d1 (R52). -/
def pc (s : State) : Word := rowWord s s.cur 1
def setPc (s : State) (v : Word) : State := setRowWord s s.cur 1 v
/-- The address of the word after the base word of the chain at d1 (R52, R223). -/
def nextPc (c : Ctl) (s : State) : Word := pc s + w64 (4 * (c.len + 1))

/-- Predicates, privilege and identity of the executing row (R192). -/
def preds (s : State) : BitVec 16 := (rowWord s s.cur 2).extractLsb' 0 16
def setPreds (s : State) (p : BitVec 16) : State :=
  setRowWord s s.cur 2 (putBits (rowWord s s.cur 2) 0 16 p.toNat)
def pred (s : State) (n : BitVec 4) : Bool := (preds s).getLsbD n.toNat
def setPred (s : State) (n : BitVec 4) (b : Bool) : State :=
  setPreds s (if b then preds s ||| (1#16 <<< n.toNat) else preds s &&& ~~~(1#16 <<< n.toNat))
def privOf (s : State) (pr : Nat) : Nat := bits (rowWord s pr 2) 16 2
def priv (s : State) : Nat := privOf s s.cur
def rowId (s : State) (pr : Nat) : RowId := ⟨bits (rowWord s pr 3) 40 6, bits (rowWord s pr 3) 0 24⟩
def curRow (s : State) : RowId := rowId s s.cur
def curPart (s : State) : Nat := (curRow s).part
def curExec (s : State) : Nat := execOf s.cur

/-- States of a row as d0 holds them (R195). -/
def stIdle : Nat := 0
def stReady : Nat := 1
def stOpen : Nat := 2
def stWait : Nat := 3
def stBlocked : Nat := 4
def stFaulted : Nat := 5
def stFrozen : Nat := 6
def stParked : Nat := 7
def stDone : Nat := 8
def rowState (s : State) (pr : Nat) : Nat := bits (rowWord s pr 0) 48 8

/-! ### Where a row lies (R198, R201) -/

/-- The place of a row image: a bank row, or an image in the cellar at a physical address. -/
inductive Loc where
  | none
  | bank (pr : Nat)
  | cellar (pa : Nat)
  deriving DecidableEq, Repr

/-- The row-table entry of a row (R198). -/
def entryAddr (s : State) (r : RowId) : Nat := tableBase (part s r.part) + 8 * r.lrow
def rowEntry (s : State) (r : RowId) : Word := memWord s (entryAddr s r)
def setRowEntry (s : State) (r : RowId) (e : Word) : State := setMemWord s (entryAddr s r) e
def isLive (s : State) (r : RowId) : Bool := decide (r.part < 32) && bit (rowEntry s r) 63
/-- PROW as a bank row: a control executor's row when CX is set (R198). -/
def entryRow (e : Word) : Nat := (if bit e 20 then 512 * 2048 else 0) + bits e 0 20
/-- A bank row as the low bits of an entry. -/
def rowCode (pr : Nat) : Nat := if pr < 512 * 2048 then pr else 2 ^ 20 + (pr - 512 * 2048)
def bankEntry (pr : Nat) : Word := w64 (2 ^ 63 + rowCode pr)
def cellEntry (idx pr : Nat) : Word := w64 (2 ^ 63 + 2 ^ 62 + at_ idx 32 + rowCode pr)
/-- The partition number that the management executor's row carries; no partition has it, so no row table names that
row (DESIGN CHOICE, log 16). -/
def mgmtPart : Nat := 63
/-- Where the row lies. -/
def locate (s : State) (r : RowId) : Loc :=
  let e := rowEntry s r
  if r.part = mgmtPart then .bank (544 * 2048 + r.lrow % 2048)
  else if !isLive s r then .none
  else if bit e 62 then .cellar (cellBase (part s r.part) + 1024 * bits e 32 24)
  else .bank (entryRow e)
/-- A row word of an image where it lies. -/
def locWord (s : State) (l : Loc) (n : Nat) : Word :=
  match l with
  | .none => 0
  | .bank pr => rowWord s pr n
  | .cellar pa => memWord s (pa + 8 * n)
def setLocWord (s : State) (l : Loc) (n : Nat) (v : Word) : State :=
  match l with
  | .none => s
  | .bank pr => setRowWord s pr n v
  | .cellar pa => setMemWord s (pa + 8 * n) v
def locState (s : State) (l : Loc) : Nat := bits (locWord s l 0) 48 8
def locId (s : State) (l : Loc) : RowId := ⟨bits (locWord s l 3) 40 6, bits (locWord s l 3) 0 24⟩
/-- A field of a row word of an image. -/
def setLocBits (s : State) (l : Loc) (n lo w v : Nat) : State := setLocWord s l n (putBits (locWord s l n) lo w v)
/-- The lowest free row of an executor's bank: rows listed in State.rows are taken (R381). -/
def freeRow (s : State) (e : Nat) : Option Nat :=
  (List.range 2048).find? (fun k => (mapGet? s.rows (2048 * e + k)).isNone) |>.map (2048 * e + ·)
/-- A block decrypts as it was written: its slot holds the key that encrypted it (R67). -/
def plainBlock (b : Block) (s : State) : Bool := b.gen == keyGen s b.key
/-- The rows of a partition that are live, from its row table as it is read (R65, R198): entries as they were written, then those in
blocks whose slot has been loaded anew, which read as unrelated data. -/
def liveRows (s : State) (q : Nat) : List RowId :=
  let p := part s q
  let rowAt := fun (a : Nat) => (⟨q, (a - tableBase p) / 8⟩ : RowId)
  let others := (s.blocks.filter fun x => inRange (64 * x.1) (tableBase p) (2 ^ 27) && !plainBlock x.2 s).map (·.1)
    ++ if keyGen s 0 = 0 then [] else ((List.range (2 ^ 21)).map (tableBase p / 64 + ·)).filter fun k => (mapGet? s.blocks k).isNone
  ((s.mem.filter fun c => inRange c.1 (tableBase p) (2 ^ 27) && (c.1 - tableBase p) % 8 == 7 && c.2.getLsbD 7
      && plainBlock (block s c.1) s).map fun c => rowAt (c.1 - 7))
    ++ (others.flatMap fun k => (List.range 8).map fun i => rowAt (64 * k + 8 * i)).filter fun r => bit (rowEntry s r) 63
/-- The cellar images that the partition's live entries take, and the lowest free one (R198). -/
def cellTaken (s : State) (q : Nat) : List Nat :=
  ((liveRows s q).filter fun r => bit (rowEntry s r) 62).map fun r => bits (rowEntry s r) 32 24
def freeCell (s : State) (q : Nat) : Option Nat :=
  let taken := cellTaken s q
  (List.range (min (cellImages (part s q)) (taken.length + 1))).find? fun k => !taken.contains k

/-! ### Executors, slots and the bank (R336 to R342) -/

def exec' (s : State) (e : Nat) : Exec := mapGet s.execs e Exec.init
def setExec (s : State) (e : Nat) (x : Exec) : State := { s with execs := mapSet s.execs e x }
def slot (s : State) (e k : Nat) : Slot := ((exec' s e).slots[k]?).getD Slot.init
def setSlot (s : State) (e k : Nat) (x : Slot) : State :=
  let ex := exec' s e
  setExec s e { ex with slots := ex.slots.setIfInBounds k x }
/-- The slot whose image is that of a bank row (OPEN, closing or retained). -/
def slotOf (s : State) (pr : Nat) : Option Nat :=
  (List.range 4).find? fun k =>
    let x := slot s (execOf pr) k
    x.st != .empty && x.row == pr
/-- What the executing row waits for at its instruction. -/
def setWait (s : State) (w : Wait) : State :=
  match slotOf s s.cur with
  | some k => setSlot s (curExec s) k { slot s (curExec s) k with wait := w }
  | none => s
/-- Cycles in which the row issues nothing after a division, a square root or an ifence (R203, R224, R253). -/
def stall (s : State) (n : Nat) : State :=
  match slotOf s s.cur with
  | some k => setSlot s (curExec s) k { slot s (curExec s) k with stall := n }
  | none => s
/-- A message to be delivered. -/
def send (s : State) (m : Msg) : State := { s with agenda := s.agenda ++ [m] }
def sendAll (s : State) (l : List Msg) : State := { s with agenda := s.agenda ++ l }
/-- A free value for a use (Config.freeWord), drawn anew at each use. -/
def draw (s : State) (use : Nat) : State × Word := ({ s with count := s.count + 1 }, Config.freeWord use s.count)

/-- Bytes of which each word is the present one or the one before, as a free choice has it (R250, log 5). -/
def mixWords (f : Word) (now old : List Byte) : List Byte :=
  now.zipIdx.map fun (b, i) => if bit f (i / 4) then old.getD i b else b
/-- A block read while its writing is not ordered before the read: words of different writes (R250). -/
def readTorn (s : State) (l : List TornBlock) (now : List Byte) : State × List Byte :=
  l.foldl (fun (s, bs) b =>
    let (s, f) := draw s 0x250
    (s, mixWords f bs b.old)) (s, now)
/-- Blocks whose writing has been observed are read whole from then on (R250, R290, R313). -/
def settleTorn (s : State) (p : TornBlock → Bool) : State := { s with torn := s.torn.filter fun b => !p b }
/-- A free value has been looked at: the next draw is another. -/
def nextDraw (s : State) : State := { s with count := s.count + 1 }

/-! ### Traces (R461 to R463) -/

/-- A 16-byte record into the partition's trace ring, which wraps (R461); DROP counts nothing, since a record
leaves its unit's buffer at once (DESIGN CHOICE, log 13). -/
def traceRec (s : State) (q : Nat) (a b : Word) : State :=
  let p := part s q
  let logn := bits p.trcCtl 0 4
  if logn = 0 then s
  else
    let pa := bits p.trcCtl 12 52 * 4096 + 16 * (p.trcTail.toNat % (2 ^ logn * 65536))
    let s := setMemWord (setMemWord s pa a) (pa + 8) b
    setPart s q { part s q with trcTail := p.trcTail + 1 }
/-- The class of a row in a state-change record (R462). -/
def traceClass (s : State) (pr st : Nat) : Nat :=
  if st = 4 then 1 else if st = 3 then 2
  else if st = 2 then
    match (slotOf s pr).map fun k => (slot s (execOf pr) k).wait with
    | some .none => 0
    | some .answer => 1
    | some (.instruction _) => 1
    | some (.reply _) => 1
    | some _ => 2
    | none => 0
  else 3
/-- The state-change record of a row (R462), written by the executors of clusters (R461). -/
def traceState (s : State) (pr st : Nat) : State :=
  let r := rowId s pr
  let e := execOf pr
  let p := part s r.part
  if bit p.trcCtl 4 && !isCtl e then
    let x := exec' s e
    let delta := min (x.cycle - x.lastRec).toNat (2 ^ 32 - 1)
    let a := w64 (2 ^ 60 + at_ e 51 + at_ r.lrow 24 + at_ (traceClass s pr st) 22 + at_ ((slotOf s pr).getD 0) 20
      + at_ st 16)
    traceRec (setExec s e { x with lastRec := x.cycle }) r.part a (w64 delta)
  else s
/-- The local number of the home slice that records an address; for a row image the slice that serves the row's entry of
the row table (DEDUCED, log 68). -/
def recordSlice (s : State) (q pa : Nat) : Nat :=
  let p := part s q
  (if rowSpace ≤ pa && pa < rowSpaceTop then homeOf p (tableBase p + 8 * (rowOfSpace pa).1.lrow) else homeOf p pa) % 64
/-- A coherence record of a partition's home slice (R463); the fabric cycles since the last record are free. -/
def traceCoh (s : State) (q event scope agent pa : Nat) : State :=
  if bit (part s q).trcCtl 5 then
    let (s, f) := draw s 0x463
    traceRec s q (w64 (2 ^ 61 + at_ event 56 + at_ scope 53 + at_ (agent % 256) 45 + at_ (recordSlice s q pa) 37 + bits f 0 32))
      (w64 (pa / 128 * 128))
  else s
/-- A message with a stale incarnation is logged with its agent and both numbers (R92): event 5, and a second record of the
same kind whose second dword holds the message's number and the agent's present one (DESIGN CHOICE, log 68). -/
def traceStale (s : State) (q agent was now pa : Nat) : State :=
  if bit (part s q).trcCtl 5 then
    let s := traceCoh s q 5 3 agent pa
    traceRec s q (w64 (2 ^ 61 + at_ 5 56 + at_ 3 53 + at_ (agent % 256) 45 + at_ (recordSlice s q pa) 37))
      (w64 (at_ (was % 256) 8 + now % 256))
  else s

/-! ### Row states -/

/-- A row changes its state: STATE of d0, a state-change record (R333, R462). -/
def setRowState (s : State) (pr st : Nat) : State :=
  traceState (setRowWord s pr 0 (putBits (rowWord s pr 0) 48 8 st)) pr st
/-- The bank has been asked for the write-back of a slot, which it has not ended (R337, R339). -/
def closingAsked (x : Exec) (k : Nat) : Bool := x.asked.contains k || x.xfer.contains (false, k)
/-- The executor closes a row that leaves OPEN: the bank is asked for the write-back at once (R339); what is asked for in one cycle is
served by slot number (R337). -/
def closeSlot (s : State) (pr : Nat) : State :=
  match slotOf s pr with
  | some k =>
    let e := execOf pr
    if (slot s e k).st = .opened && !closingAsked (exec' s e) k then
      let rest := (slot s e k).stall
      let s := setSlot s e k { slot s e k with wait := .none, stall := 0, bpPass := false, ended := false, begun := false }
      let x := exec' s e
      setExec s e { x with asked := insertAsc k x.asked, stalls := if rest = 0 then x.stalls else (pr, rest) :: x.stalls }
    else s
  | none => s
/-- A row leaves OPEN for a state and its slot closes. -/
def closeRow (s : State) (pr st : Nat) : State := closeSlot (setRowState s pr st) pr
/-- A bank row enters the tail of the ready queue; those of one cycle stand by slot in bank (R342). -/
def enterQueue (x : Exec) (pr : Nat) : Exec :=
  let new := x.queue.filter fun y => x.entered.contains y
  { x with queue := (x.queue.filter fun y => !x.entered.contains y) ++ insertAsc pr new, entered := pr :: x.entered }
/-- A bank row becomes READY and enters the ready queue of its bank (R342); R341 opens it in place. The queue is a list: d15 LINK, which
means something to the bank only (R192), keeps the value of reset (DESIGN CHOICE, log 88). -/
def makeReady (s : State) (pr : Nat) : State :=
  let s := setRowState s pr stReady
  let x := exec' s (execOf pr)
  if x.queue.contains pr then s else setExec s (execOf pr) (enterQueue x pr)
/-- A row leaves the ready queue. -/
def unqueue (s : State) (pr : Nat) : State :=
  let x := exec' s (execOf pr)
  setExec s (execOf pr) { x with queue := x.queue.filter (· != pr) }

/-! ### The flight record (R196) -/

def slotWord (s : State) (l : Loc) (i : Nat) : Word := locWord s l (17 + 2 * i)
def slotState (s : State) (l : Loc) (i : Nat) : Nat := bits (slotWord s l i) 58 6
def slotTag (s : State) (l : Loc) (i : Nat) : Nat := bits (slotWord s l i) 18 32
def slotDest (s : State) (l : Loc) (i : Nat) : Nat := bits (slotWord s l i) 11 7
def slotClass (s : State) (l : Loc) (i : Nat) : Nat := bits (slotWord s l i) 8 3
def slotKind (s : State) (l : Loc) (i : Nat) : Nat := bits (slotWord s l i) 0 8
def slotAddr (s : State) (l : Loc) (i : Nat) : Word := locWord s l (16 + 2 * i)
/-- The slots that are not FREE. -/
def busySlots (s : State) (l : Loc) : List Nat := (List.range 8).filter fun i => slotState s l i != 0
/-- The lowest-numbered FREE slot. -/
def freeSlot (s : State) (l : Loc) : Option Nat := (List.range 8).find? fun i => slotState s l i == 0
/-- OUTS of d2 counts the slots that are not FREE (R196). -/
def recount (s : State) (l : Loc) : State := setLocBits s l 2 18 6 (busySlots s l).length
def setSlotState (s : State) (l : Loc) (i st : Nat) : State := recount (setLocBits s l (17 + 2 * i) 58 6 st) l
/-- The tag of a request issued now (R422): slot index below, nanoseconds of global time above. -/
def tagAt (s : State) (i : Nat) : Nat := (s.time % 2 ^ 29) * 8 + i
/-- Takes slot i: every field of both words is written; time moves on by the nanosecond that keeps tags unique
(R422, log 14). -/
def takeSlot (s : State) (l : Loc) (i size dest cls kind : Nat) (addr : Word) : State :=
  let s := { s with time := s.time + 1 }
  let w := w64 (at_ 1 58 + at_ (size % 256) 50 + at_ (tagAt s i) 18 + at_ dest 11 + at_ cls 8 + kind)
  recount (setLocWord (setLocWord s l (16 + 2 * i) addr) l (17 + 2 * i) w) l
/-- The side record of a slot (log 11). -/
def opRec (s : State) (r : RowId) (i : Nat) : Option OpRec := s.ops.find? fun o => o.row == r && o.slot == i
def setOpRec (s : State) (o : OpRec) : State :=
  { s with ops := o :: s.ops.filter fun x => !(x.row == o.row && x.slot == o.slot) }
def dropOpRec (s : State) (r : RowId) (i : Nat) : State :=
  { s with ops := s.ops.filter fun x => !(x.row == r && x.slot == i) }
/-- A slot becomes FREE: only STATE changes (R196). -/
def clearSlot (s : State) (l : Loc) (i : Nat) : State := dropOpRec (setSlotState s l i 0) (locId s l) i
/-- The slot of a row that still holds a tag. -/
def slotHas (s : State) (l : Loc) (i tag : Nat) : Bool := slotState s l i != 0 && slotTag s l i == tag

/-! ### Arrivals (R202) -/

/-- Arrivals at a row wait: its slot is being opened, or is being closed, from the decision to the end of the write-back (log 50), or its
boundary has taken 4 of them (R202). -/
def inTransfer (s : State) (l : Loc) : Bool :=
  match l with
  | .bank pr =>
    match slotOf s pr with
    | some k =>
      let x := slot s (execOf pr) k
      x.st == .opening || closingAsked (exec' s (execOf pr)) k || (x.st == .opened && 4 ≤ x.arr)
    | none => false
  | _ => false
/-- An arrival is applied at the boundary of a row that stands in a slot; each arithmetic cycle is a boundary (R202, log 50). -/
def noteArrival (s : State) (l : Loc) : State :=
  match l with
  | .bank pr =>
    match slotOf s pr with
    | some k => setSlot s (execOf pr) k { slot s (execOf pr) k with arr := (slot s (execOf pr) k).arr + 1 }
    | none => s
  | _ => s

/-! ### Rings (R404 to R407) -/

def ringRegs (s : State) : Ring → RingRegs
  | .fault q => (part s q).fq
  | .mbox q => (part s q).mb
  | .hfault => s.hub.hfq
  | .hmbox => s.hub.hmb
def setRingRegs (s : State) (r : Ring) (x : RingRegs) : State :=
  match r with
  | .fault q => setPart s q { part s q with fq := x }
  | .mbox q => setPart s q { part s q with mb := x }
  | .hfault => { s with hub := { s.hub with hfq := x } }
  | .hmbox => { s with hub := { s.hub with hmb := x } }
def ringLogn (x : RingRegs) : Nat := bits x.base 0 4
/-- Room for one more entry: TAIL − HEAD < 2^LOGN (R407). -/
def ringRoom (x : RingRegs) : Bool := decide ((x.tail - x.head).toNat < 2 ^ ringLogn x)
def satInc (x : W32) : W32 := if x = BitVec.allOnes 32 then x else x + 1
/-- A unit raises a message for a ring: a disabled ring drops it, a full ring with 64 messages held on the die
drops it, otherwise it is on its way (R407). -/
def postMsg (s : State) (die : Nat) (r : Ring) (m : RingMsg) : State :=
  let x := ringRegs s r
  let held := s.heldMsgs.filter fun h => h.die == die && h.ring == r
  if ringLogn x = 0 || (!ringRoom x && 64 ≤ held.length) then
    setRingRegs s r { x with drop := satInc x.drop }
  else send { s with heldMsgs := s.heldMsgs ++ [⟨die, r, m⟩] } (.ringMessageWrite r die)
/-- The elements of a list without those that satisfy p, but for the first n of them. -/
def keepFirst {α : Type} (p : α → Bool) : Nat → List α → List α
  | _, [] => []
  | 0, x :: l => if p x then keepFirst p 0 l else x :: keepFirst p 0 l
  | n + 1, x :: l => x :: keepFirst p (if p x then n else n + 1) l
/-- While a ring is full, each die holds 64 messages for it; what it had on its way beyond them is dropped and counted (R407). -/
def trimHeld (s : State) (r : Ring) : State :=
  if ringRoom (ringRegs s r) then s
  else [0, 1, 2, 3].foldl (fun s d =>
    let kept := keepFirst (fun h : HeldMsg => h.die == d && h.ring == r) 64 s.heldMsgs
    let x := ringRegs s r
    let n := x.drop.toNat + (s.heldMsgs.length - kept.length)
    setRingRegs { s with heldMsgs := kept } r { x with drop := BitVec.ofNat 32 (min n (2 ^ 32 - 1)) }) s
/-- A header dword (R406). -/
def msgHead (kind cause agent priv : Nat) (r : RowId) : Word :=
  w64 (at_ kind 56 + at_ cause 48 + at_ agent 40 + at_ priv 38 + at_ r.part 24 + r.lrow)

/-! ### Causes (R409) and accesses (R400) -/

def cIllegal : Nat := 0x01
def cPriv : Nat := 0x02
def cAlign : Nat := 0x03
def cPageNp : Nat := 0x04
def cPagePerm : Nat := 0x05
def cRowword : Nat := 0x06
def cSealed : Nat := 0x07
def cFull : Nat := 0x08
def cFmt : Nat := 0x09
def cCheck : Nat := 0x0A
def cVlate : Nat := 0x0B
def cLanes : Nat := 0x0C
def cTrap : Nat := 0x0D
def cBrk : Nat := 0x0E
def cLease : Nat := 0x0F
def cDomain : Nat := 0x10
def cRehome : Nat := 0x11

/-- What d5 says of a fault (R400): cause, INFO, deciding word, access kind, walk level (7: no walk). -/
structure FaultInfo where
  cause : Nat
  info  : Nat
  word  : Nat
  acc   : Nat
  lvl   : Nat
  deriving DecidableEq, Repr

/-- A fault without a walk. -/
def faultOf (cause info acc : Nat) : FaultInfo := ⟨cause, info, 0, acc, 7⟩
/-- The fault word d5 (R400). -/
def faultWord (f : FaultInfo) (late : Bool) : Word :=
  w64 (at_ (num late) 63 + at_ f.acc 59 + at_ f.lvl 56 + at_ f.info 32 + at_ f.word 8 + f.cause)

/-! ### Taking an exception -/

/-- The report of a row's fault to its ring (R403, R404, R406): a user row's to the partition's fault queue, a
supervisor row's and every hcall to the hypervisor's. -/
def reportFault (s : State) (pr cause : Nat) (toHyper : Bool) : State :=
  let r := rowId s pr
  let p := privOf s pr
  let m : RingMsg := ⟨msgHead 1 cause (agentOf (execOf pr)) p r, rowWord s pr 6, rowWord s pr 5, rowWord s pr 1⟩
  postMsg s (dieOf (execOf pr)) (if p = 0 && !toHyper then .fault r.part else .hfault) m

/-- TAKING AN EXCEPTION, the one shared operation (R403): d5 and d6 are written, the row enters FAULTED and its
slot closes, and one message goes to the ring; d1 is as the caller left it. The management executor's fault halts
it (R404, R467). -/
def takeFault (s : State) (pr : Nat) (f : FaultInfo) (late toHyper : Bool) (addr : Word) : State :=
  let s := setRowWord (setRowWord s pr 5 (faultWord f late)) pr 6 addr
  let s := closeRow s pr stFaulted
  if execOf pr = 544 then send s .managementHalt else reportFault s pr f.cause toHyper

/-- A precise fault of the executing row's chain: d1 stays at the instruction (R53, R403). -/
def fault (s : State) (f : FaultInfo) (addr : Word) : State := takeFault s s.cur f false false addr

/-- Delivery of an event (R364): d9 saves PC, ACT and the predicates; the PC goes to the handler in d8. -/
def deliverEvent (s : State) (pr : Nat) : State :=
  let saved := w64 (at_ (bits (rowWord s pr 1) 2 46) 18 + 2 ^ 17 + bits (rowWord s pr 2) 0 16)
  setRowWord (setRowWord s pr 9 saved) pr 1 (rowWord s pr 8)
/-- The defined bits of d10: enables and pending bits of COPY, SEALED, FULL, PREEMPT, LSHRK and USER (R362). -/
def eventBits : Word := w64 (at_ 0xFFFF001F 32 + 0xFFFF001F)
/-- An event can be delivered (R364): no handler runs, WCONT is 0, and the PC is its own 48-bit sign extension. -/
def eventOpen (s : State) (pr : Nat) : Bool :=
  !bit (rowWord s pr 9) 17 && !bit (rowWord s pr 15) 39 &&
    decide (rowWord s pr 1 = (BitVec.ofNat 48 (bits (rowWord s pr 1) 0 48)).signExtend 64)
/-- SEALED_WRITE or CASK_FULL of an app or appl (R147, R364): with its event (bit 1 or 2) enabled and delivery
possible, the bit is set, d5 and d6 are written and the handler runs with the append as the saved PC; otherwise the
fault is taken. -/
def caskFault (s : State) (pr : Nat) (f : FaultInfo) (addr : Word) : State :=
  let b := if f.cause = cSealed then 1 else 2
  if bit (rowWord s pr 10) (32 + b) && eventOpen s pr && rowState s pr == stOpen then
    let s := setRowWord (setRowWord s pr 5 (faultWord f false)) pr 6 addr
    let s := setRowWord s pr 10 (rowWord s pr 10 ||| (1#64 <<< b))
    deliverEvent s pr
  else takeFault s pr f false false addr

/-- RETURN FROM AN EVENT HANDLER (R366): the predicates come back from d9, ACT clears, the PC is the saved one or
the one named. -/
def eventReturn (s : State) (target : Option Word) : State :=
  let d9 := rowWord s s.cur 9
  let t := target.getD ((BitVec.ofNat 48 (bits d9 18 46 * 4)).signExtend 64)
  let s := setPc s t
  let s := setPreds s (d9.extractLsb' 0 16)
  setRowWord s s.cur 9 (putBits d9 17 1 0)

/-! ### Chains -/

/-- The guard of a scalar chain, read once (R36). -/
def guardPasses (c : Ctl) (s : State) : Bool :=
  match c.guard with
  | none => true
  | some g => pred s g.num != g.neg
/-- QCNT counts every chain issued, saturating at 255 (R192, R338). -/
def countChain (s : State) : State :=
  setRowWord s s.cur 2 (putBits (rowWord s s.cur 2) 24 8 (min 255 (bits (rowWord s s.cur 2) 24 8 + 1)))
/-- The chain is done: it is counted and the PC is the address after the base word (R52). -/
def advance (c : Ctl) (s : State) : State := countChain (setPc s (nextPc c s))
/-- The chain is done and the PC is a target. -/
def jump (t : Word) (s : State) : State := countChain (setPc s t)
/-- A chain under its guard: a failed guard has no effect but the PC's advance (R36). -/
def chain (c : Ctl) (s : State) (body : State → State) : Host.Outcome State Fault Refusal :=
  .next (if guardPasses c s then body s else advance c s)
/-- A write through window 3 faults ROWWORD_RO with the instruction address (R46, R401). -/
def roFault (s : State) : State := fault s (faultOf cRowword 0 0) (pc s)
/-- A chain whose whole effect is a register result (R203): the window check, then the result of the sources. -/
def resultChain (c : Ctl) (rd : Reg) (s : State) (v : State → Word) : Host.Outcome State Fault Refusal :=
  chain c s fun s => if rd.win = 3 then roFault s else advance c (writeReg s rd (v s))
/-- A privileged chain faults PRIV below a privilege (R58, R348), with the access kind of its group (R400). -/
def privChainAs (c : Ctl) (need acc : Nat) (s : State) (body : State → State) : Host.Outcome State Fault Refusal :=
  chain c s fun s => if priv s < need then fault s (faultOf cPriv 0 acc) (pc s) else body s
def privChain (c : Ctl) (need : Nat) (s : State) (body : State → State) : Host.Outcome State Fault Refusal :=
  privChainAs c need 0 s body

end Sys2Proof.Machine
end

