-- ==== Sys2Proof/Machine/Slices.lean ====
section
/-!
DEFINITION. The home slice's data array with its ways, ages and pins, what the stack controller finds when a block is read,
and the tier sectors that a partition's cache units hold (R61, R71, R75 to R77, R464).
-/

namespace Sys2Proof.Machine

def lineOf (pa : Nat) : Nat := pa / 128
/-- The partition whose memory an address is, and the home slice of a line (R64). -/
def ownerPart (s : State) (pa : Nat) : Nat :=
  ((s.parts.find? fun (_, p) => inStack p pa || inTier p pa).map (·.1)).getD 0
def lineHome (s : State) (line : Nat) : Nat := homeOf (part s (ownerPart s (128 * line))) (128 * line)

/-! ### Stack reads and the lifetime store (R61, R464) -/

def ltAdd (s : State) (i n : Nat) : State :=
  { s with hub := { s.hub with lt := mapSet s.hub.lt i (mapGet s.hub.lt i 0 + n) } }
/-- The stack behind a home slice, and the stack bank counter of a unit (R3, R464). -/
def stackOf (slice : Nat) : Nat := slice / 32
def bankCounter (p : Part) (u : Nat) : Nat :=
  let slice := nth (slicesOf p) (u % hCount p) 0
  0x10000 + 40 * (192 * stackOf slice + (6 * (slice % 32) + pcOfUnit p u)) + bankOfUnit p u
/-- Sixty-four free bytes (log 5): what a block reads as whose wide error was not detected. -/
def freeBlock (count : Nat) : List Byte :=
  (List.range 8).flatMap fun i => leBytes 8 (Config.freeWord 0x61 (count + i)).toNat
/-- What the stack controller finds in a block that it reads (R61): a free choice (log 5). -/
inductive EccFound where
  | good | corrected | uncorrectable | undetected
  deriving DecidableEq, Repr
def eccFound (f : Word) : EccFound :=
  if bit f 0 then .uncorrectable else if bit f 1 then .corrected else if bit f 2 then .undetected else .good
/-- The stack controller's check of a block that is read (R61): an error corrected is counted for its stack and its stack
bank; an uncorrectable one is counted and sets P; a wide error that escapes detection is delivered as read. -/
def stackFound (s : State) (q pa : Nat) (e : EccFound) (wrong : List Byte) : State :=
  let p := part s q
  let u := unitOfAddr p pa
  let k := stackOf (homeOf p pa)
  let b := block s pa
  { s with
    hub := if e = .uncorrectable then (ltAdd s (8 + k) 1).hub
      else if e = .corrected then (ltAdd (ltAdd s k 1) (bankCounter p u) 1).hub else s.hub
    blocks := if e = .uncorrectable then mapSet s.blocks (pa / 64) { b with p := true } else s.blocks
    mem := if e = .undetected then memStore s.mem (pa / 64 * 64) wrong else s.mem }
/-- The check of one block: what is found is a free choice (log 5). -/
def stackCheck (s : State) (q pa : Nat) : State :=
  stackFound { s with count := s.count + 9 } q pa (eccFound (Config.freeWord 0x61 s.count)) (freeBlock (s.count + 1))

/-! ### The data array (R75 to R77) -/

/-- A line as the array holds it; a pinned way whose line was discarded holds none (R127). -/
def dataLine? (s : State) (line : Nat) : Option DLine := (mapGet? s.dlines line).filter fun d => !d.gone
/-- The array holds a line. -/
def held (s : State) (line : Nat) : Bool := (dataLine? s line).isSome
/-- The set of a line in an array: 0 data array, 1 registry, 2 keeper array, of 512, 1,024 and 4,096 sets (R75). -/
def homeSetOf (array line : Nat) : Nat := Config.homeSet array line % nth [512, 1024, 4096] array 1
/-- Two lines take ways of one set of one array. -/
def sameSet (s : State) (array a b : Nat) : Bool := homeSetOf array a == homeSetOf array b && lineHome s a == lineHome s b
/-- The next place in the order of use. -/
def nextUse (l : List Nat) : Nat := l.foldl max 0 + 1
/-- A use of a line that the array holds makes it the most recent (R76). -/
def useData (s : State) (line : Nat) : State :=
  match mapGet? s.dlines line with
  | some d => { s with dlines := mapSet s.dlines line { d with used := nextUse (s.dlines.map (·.2.used)) } }
  | none => s
/-- P of the two blocks of a line. -/
def blockPs (s : State) (line : Nat) : BitVec 2 :=
  BitVec.ofNat 2 (num (block s (128 * line)).p + 2 * num (block s (128 * line + 64)).p)
/-- A dirty line is written to the stack and stays (R97, R127): the stack's copies are as it is then. -/
def writeBackLine (s : State) (line : Nat) : State :=
  match dataLine? s line with
  | some d =>
    if d.dirty then { s with dlines := mapSet s.dlines line { d with dirty := false, spoil := blockPs s line } } else s
  | none => s
/-- A line without its data (R127): a pinned one leaves its way. -/
def emptied (d : DLine) : Option DLine := if d.pin = 0 then none else some { d with dirty := false, spoil := 0, gone := true }
/-- A line leaves the data array without being written back. -/
def discardData (s : State) (line : Nat) : State :=
  match mapGet? s.dlines line with
  | some d => match emptied d with
    | some d => { s with dlines := mapSet s.dlines line d }
    | none => { s with dlines := mapDel s.dlines line }
  | none => s
/-- A line leaves the array (R75): a dirty one is written to the stack; of a clean one the stack's copy remains, with the
poison that a scrub has found in it (R128). No registration and no keeper entry changes. -/
def evictData (s : State) (line : Nat) : State :=
  let d := mapGet s.dlines line DLine.init
  let bad := fun (i : Nat) => !d.dirty && d.spoil.getLsbD i
  let s := if bad 0 then poisonBlock s (128 * line) else s
  let s := if bad 1 then poisonBlock s (128 * line + 64) else s
  { s with dlines := mapDel s.dlines line }
/-- The least recently used line of a list. -/
def oldestOf : List (Nat × Nat) → Option (Nat × Nat)
  | [] => none
  | x :: l => match oldestOf l with
    | some y => some (if y.2 < x.2 then y else x)
    | none => some x
/-- A way for a line (R75, R77): of a full set the least recently used line leaves that is not pinned. -/
def roomData (s : State) (line : Nat) : State :=
  if s.dlines.length < 16 then s
  else
    let ways := s.dlines.filter fun x => sameSet s 0 x.1 line
    if ways.length < 16 then s
    else match oldestOf ((ways.filter fun x => x.2.pin == 0).map fun x => (x.1, x.2.used)) with
      | some v => evictData s v.1
      | none => s
def setDline (s : State) (line : Nat) (d : DLine) : State := { s with dlines := mapSet s.dlines line d }
/-- The pin of a line's way (R77). -/
def pinOf (s : State) (line : Nat) : Nat := (mapGet s.dlines line DLine.init).pin
/-- An allocation on a miss by the access's hint (R76): normal is most recent, stream least recent, no-allocate none. The stack's copies
of its blocks have P as they are read. -/
def allocData (s : State) (line : Nat) (h : Hint) : State :=
  if held s line then useData s line
  else match h with
    | .noal => s
    | .norm => let s := roomData s line
               setDline s line ⟨false, nextUse (s.dlines.map (·.2.used)), pinOf s line, blockPs s line, false⟩
    | .strm => let s := roomData s line
               setDline s line ⟨false, 0, pinOf s line, blockPs s line, false⟩
/-- A line that the array holds is dirty (R75, R81). -/
def markDirty (s : State) (line : Nat) : State :=
  match mapGet? s.dlines line with
  | some d => { s with dlines := mapSet s.dlines line { d with dirty := true } }
  | none => s
/-- P is set in the stack's copy of a block (R61, R128): of a line that the array holds, that copy alone. -/
def spoilBlock (s : State) (pa : Nat) : State :=
  match dataLine? s (lineOf pa) with
  | some d => { s with dlines := mapSet s.dlines (lineOf pa) { d with spoil := d.spoil ||| (1#2 <<< (pa / 64 % 2)) } }
  | none => poisonBlock s pa
/-- P of a block's copy in the stack. -/
def stackP (s : State) (pa : Nat) : Bool :=
  match dataLine? s (lineOf pa) with
  | some d => d.spoil.getLsbD (pa / 64 % 2)
  | none => (block s pa).p
/-- The stack controller's check of the stack's copy of a block, whether or not a home slice holds its line (R61, R125, R128): a free
choice (log 5). -/
def checkCopy (s : State) (q pa : Nat) : State × EccFound :=
  let p := part s q
  let k := stackOf (homeOf p pa)
  let e := eccFound (Config.freeWord 0x61 s.count)
  let s := { s with count := s.count + 9 }
  match e with
  | .uncorrectable => (spoilBlock (ltAdd s (8 + k) 1) pa, e)
  | .corrected => (ltAdd (ltAdd s k 1) (bankCounter p (unitOfAddr p pa)) 1, e)
  | _ => (s, e)
/-- The blocks of a range that are read from the stack are checked (R61); those of a line in the array are not read there. -/
def checkRange (s : State) (q pa n : Nat) : State :=
  (List.range ((pa % 64 + n + 63) / 64)).foldl (fun s i =>
    let a := pa / 64 * 64 + 64 * i
    if held s (lineOf a) then s else stackCheck s q a) s
/-- The check of a long range that the hub or a router reads (R61): which of its blocks have an error is a free choice (log 5). -/
def checkBulk (s : State) (q pa n : Nat) : State :=
  let bad := (Config.eccErrors s.count).filter fun x => 64 * x.1 < n && !held s (lineOf (pa + 64 * x.1))
  let t := bad.foldl (fun t x => stackFound t q (pa + 64 * x.1) (eccFound x.2.1) (x.2.2.take 64)) s
  { s with count := s.count + 1, hub := t.hub, blocks := t.blocks, mem := t.mem }
/-- A read at its home of bytes in one line (R61, R76): a line not held is read whole from the stack and allocated by the
hint; without allocation only the blocks of the range are read. -/
def readArray (s : State) (q pa n : Nat) (h : Hint) : State :=
  let line := lineOf pa
  let s := if h = .noal then checkRange s q pa n else checkRange s q (128 * line) 128
  allocData s line h
/-- A write at its home into one line prepares the line (R61, R76): a line not held is read from the stack, but for the
blocks that the write covers. -/
def fetchArray (s : State) (q pa n : Nat) (h : Hint) : State :=
  let line := lineOf pa
  let s := (List.range 2).foldl (fun s i =>
    let a := 128 * line + 64 * i
    let covered := pa ≤ a && a + 64 ≤ pa + n
    let touched := overlap pa n a 64
    if held s line || covered || (h == .noal && !touched) then s else stackCheck s q a) s
  allocData s line h

/-! ### Tier sectors (R71) -/

/-- A sector of the partition is being read from the tier: no freeze, eviction or resize passes it (R72). -/
def tierBusy (s : State) (q : Nat) : Bool := s.tierMiss.any fun m => inStack (part s q) (2048 * m.1)
/-- The block of the cache unit that a tier address is served from. -/
def unitBlock (p : Part) (pa : Nat) : Nat := unitAddr p (tierUnit p pa) + pa % 2048
/-- Does the tier unit of an address hold its sector. -/
def tierHit (s : State) (p : Part) (pa : Nat) : Bool :=
  let b := block s (unitBlock p pa)
  b.v && b.tag.toNat == tierTag p pa
/-- D of a tier sector's blocks is set by a write (R71). -/
def tierDirty (s : State) (q pa n : Nat) : State :=
  let p := part s q
  if inTier p pa then
    (List.range ((pa % 64 + n + 63) / 64)).foldl (fun s i =>
      let a := unitBlock p (pa / 64 * 64 + 64 * i)
      setBlock s a { block s a with d := true }) s
  else s
/-- Bytes of one line written at their home (R66, R71, R75): the line is prepared, the bytes merged under a key index, the
line is dirty, and D is set in a tier sector's blocks. -/
def arrayWrite (s : State) (q pa : Nat) (data : List Byte) (key : Nat) (h : Hint) : State :=
  let s := fetchArray s q pa data.length h
  tierDirty (markDirty (merge s pa data key) (lineOf pa)) q pa data.length

end Sys2Proof.Machine
end

