-- ==== Sys2Proof/Machine/Coherence.lean ====
section
/-!
DEFINITION. Cache lines, the registry and the keeper array of a line, and what recalls,
invalidations and clearings do to them: each once, used by the messages between units and, in one step, by the
units of the hub die (R60 to R91, R165 to R172).
-/

namespace Sys2Proof.Machine

/-! ### Cache lines (R165) -/

def lineKey (agent line : Nat) : Nat := agent * 2 ^ 40 + line
def cline? (s : State) (agent line : Nat) : Option CLine := mapGet? s.caches (lineKey agent line)
def cline (s : State) (agent line : Nat) : CLine := (cline? s agent line).getD CLine.init
def setCline (s : State) (agent line : Nat) (x : CLine) : State :=
  { s with caches := mapSet s.caches (lineKey agent line) x }
def dropCline (s : State) (agent line : Nat) : State := { s with caches := mapDel s.caches (lineKey agent line) }
def cword (x : CLine) (i : Nat) : W32 := (x.words[i]?).getD 0
def lineBytes (x : CLine) : List Byte := x.words.toList.flatMap wordBytes
/-- A line with the words of a mask replaced. -/
def putWords (x : CLine) (mask : BitVec 32) (data : List W32) : CLine :=
  { x with words := (setBits 32 mask.toNat).foldl (fun v i => v.setIfInBounds i (nth data i 0)) x.words }
/-- The bytes of a line with n bytes of a value written at a byte offset. -/
def putBytes (x : CLine) (off : Nat) (data : List Byte) : CLine :=
  let bs := memStore (lineBytes x |>.zipIdx |>.foldr (fun p m => (p.2, p.1) :: m) []) off data
  let ws := (List.range 32).map fun i => wordOfBytes (memBytes bs (4 * i) 4)
  putWords x (BitVec.allOnes 32) ws
/-- The bytes of a line from an offset on. -/
def lineRange (x : CLine) (off n : Nat) : List Byte := ((lineBytes x).drop off).take n

/-! ### Incarnations (R92, R93) -/

/-- The incarnation that the homes hold of an agent, and the one that the agent itself stamps on what it sends: a dead agent
is told no new number, so it goes on with its first (DEDUCED, log 69). -/
def incOf (s : State) (agent : Nat) : Nat := (mapGet s.incs agent 0).toNat
def ownInc (_agent : Nat) : Nat := 0

/-! ### Old code words (R224, R225) -/

/-- Words whose old value the rows of an agent may still fetch (R224); copied when a copy batch has replaced them (R225). -/
def rememberStale (s : State) (agent : Nat) (copied : Bool) (old : List (Nat × W32)) : State :=
  { s with stale := old.map (fun p => ⟨agent, p.1, p.2, [], copied, []⟩) ++ s.stale }
/-- The values that a line holds of the words of a mask. -/
def heldWords (line : Nat) (x : CLine) (mask : BitVec 32) : List (Nat × W32) :=
  (setBits 32 (x.v &&& mask).toNat).map fun i => (128 * line + 4 * i, cword x i)
/-- A row as a key of the counts of an old code word. -/
def rowKey (r : RowId) : Nat := r.part * 2 ^ 24 + r.lrow
/-- A row of an agent issues a chain: the old code words come nearer to their end for it (R224), those of a copy batch once it has
observed the completion (R225). -/
def passStale (s : State) (agent : Nat) (r : RowId) : State :=
  { s with stale := s.stale.map fun w =>
      if w.agent = agent ∧ (!w.copied || w.seen.contains (rowKey r)) = true then
        { w with passed := mapSet w.passed (rowKey r) (mapGet w.passed (rowKey r) 0 + 1) } else w }
/-- A row observes what has been completed before: a batch of its own or an acquire of its (R121, R225). -/
def observeCopies (s : State) (r : RowId) : State :=
  { s with stale := s.stale.map fun w => if w.copied && !w.seen.contains (rowKey r) then { w with seen := rowKey r :: w.seen } else w }
/-- The row's fetched words are dropped: no later chain of it sees an old one (R224). -/
def dropStaleCode (s : State) (agent : Nat) (r : RowId) : State :=
  { s with stale := s.stale.map fun w =>
      if w.agent = agent then { w with passed := mapSet w.passed (rowKey r) 8, seen := rowKey r :: w.seen } else w }
/-- The old values that a row may still fetch from a word. -/
def staleAt (s : State) (agent : Nat) (r : RowId) (addr : Nat) : List W32 :=
  (s.stale.filter fun w => w.agent == agent && w.addr == addr && decide (mapGet w.passed (rowKey r) 0 < 8)).map (·.old)

/-! ### The registry of a line (R79) -/

def hline (s : State) (line : Nat) : HLine := mapGet s.homes line HLine.init
def setHline (s : State) (line : Nat) (h : HLine) : State := { s with homes := mapSet s.homes line h }
def setReg (s : State) (line : Nat) (r : RegEntry) : State := setHline s line { hline s line with reg := r }
def setKeep (s : State) (line : Nat) (k : KeepEntry) : State := setHline s line { hline s line with keep := k }
/-- The words registered to an agent; none while an engine holds the line. -/
def ownMask (r : RegEntry) (a : Nat) : BitVec 32 :=
  if r.eng then 0
  else if r.maskA ≠ 0 ∧ r.ownA.toNat = a then r.maskA
  else if r.maskB ≠ 0 ∧ r.ownB.toNat = a then r.maskB else 0
/-- The owners of a line. -/
def owners (r : RegEntry) : List Nat :=
  if r.eng then [] else (if r.maskA ≠ 0 then [r.ownA.toNat] else []) ++ (if r.maskB ≠ 0 then [r.ownB.toNat] else [])
/-- The registry without the words of a mask of an agent (R81). -/
def unregister (r : RegEntry) (a : Nat) (mask : BitVec 32) : RegEntry :=
  if r.eng then r
  else if r.maskA ≠ 0 ∧ r.ownA.toNat = a then { r with maskA := r.maskA &&& ~~~mask }
  else if r.maskB ≠ 0 ∧ r.ownB.toNat = a then { r with maskB := r.maskB &&& ~~~mask } else r
/-- Step 4 of R80: the agent's mask gains the words; a new owner is the younger one. A third owner takes the place
of an absent one (step 3 has removed the older when both were in use). -/
def register (r : RegEntry) (a : Nat) (mask : BitVec 32) : RegEntry :=
  if r.maskA ≠ 0 ∧ r.ownA.toNat = a then { r with maskA := r.maskA ||| mask }
  else if r.maskB ≠ 0 ∧ r.ownB.toNat = a then { r with maskB := r.maskB ||| mask }
  else if r.maskA = 0 then { r with ownA := BitVec.ofNat 8 a, maskA := mask, old := true }
  else { r with ownB := BitVec.ofNat 8 a, maskB := mask, old := false }
/-- The older owner (R80 step 3). -/
def olderOwner (r : RegEntry) : Nat := if r.old then r.ownB.toNat else r.ownA.toNat
/-- The entry holds a registration or an engine's line. -/
def hasReg (r : RegEntry) : Bool := r.eng || r.maskA != 0 || r.maskB != 0

/-! ### Watches and keepers (R86 to R91, R353 to R355) -/

/-- A watch ends and its row wakes: d14 := 0, the slot is freed, the row is READY (R355); a PARKED or FROZEN row is
READY when it resumes (R360). -/
def endWatch (s : State) (r : RowId) (i : Nat) : State :=
  let l := locate s r
  let s := clearSlot (setLocWord s l 14 0) l i
  let d15 := locWord s l 15
  let mine := bits d15 41 3 == 2 || bits d15 41 3 == 5
  let st := locState s l
  if (st = stFrozen || st = stParked) && mine && bits d15 44 4 = stBlocked then
    setLocWord s l 15 (putBits (putBits d15 41 3 0) 44 4 stReady)
  else
    match l with
    | .bank pr => if st = stBlocked && mine then makeReady (setRowWord s pr 15 (putBits d15 41 3 0)) pr else s
    | _ => s
/-- A watch's row wakes; when the home's reply has not come yet, with it, which has
the value read at issue (R354, R355, DEDUCED, log 99). -/
def wakeWatch (s : State) (r : RowId) (i : Nat) : State :=
  match opRec s r i with
  | some o => if o.more = some .asked || o.more = some .woken then setOpRec s { o with more := some .woken } else endWatch s r i
  | none => endWatch s r i
/-- A row that watches a dword of its own image wakes when an arrival writes it (R354). -/
def wakeOwnWatch (s : State) (r : RowId) (l : Loc) (off n : Nat) : State :=
  match (busySlots s l).find? fun i => slotKind s l i == 0x0A with
  | some i =>
    match (opRec s r i).bind fun o => o.access with
    | some a => if overlap a.off 8 off n then wakeWatch s r i else s
    | none => s
  | none => s
/-- A row word is written by an arrival: a watch of the row on it ends (R354). -/
def arriveWord (s : State) (r : RowId) (l : Loc) (n : Nat) (v : Word) : State := wakeOwnWatch (setLocWord s l n v) r l (8 * n) 8
/-- The rows of an agent that watch a word of the mask of a line wake (R90, R355). -/
def wakeWatchers (s : State) (agent line : Nat) (mask : BitVec 32) : State :=
  let x := cluster s agent
  let hit := x.watches.filter fun (_, _, pa) => lineOf pa == line && (wordMask pa 8 &&& mask) != 0
  let s := setCluster s agent { x with watches := x.watches.filter fun w => !hit.contains w }
  hit.foldl (fun s (r, i, _) => wakeWatch s r i) s
/-- Rows of the agent still watch the line. -/
def watching (s : State) (agent line : Nat) : Bool :=
  (cluster s agent).watches.any fun (_, _, pa) => lineOf pa == line
def dropWatch (s : State) (agent : Nat) (r : RowId) : State :=
  setCluster s agent { cluster s agent with watches := (cluster s agent).watches.filter fun w => w.1 != r }
/-- A cluster wakes its rows that watch words which it writes itself; when none watches the line any longer the home
is told (R89). -/
def ownWrite (s : State) (agent line : Nat) (mask : BitVec 32) : State :=
  if watching s agent line then
    let s := wakeWatchers s agent line mask
    if watching s agent line then s else send s (.evictionNotice agent (ownInc agent) line)
  else s
/-- Adding a keeper: a free pointer, or the coarse form (R88). -/
def coarsen (k : KeepEntry) (a : Nat) : KeepEntry :=
  if 0x60 ≤ a ∧ a < 0x80 then { k with grp := k.grp ||| (1#8 <<< ((a - 0x60) / 4)) }
  else if a = 0x80 then { k with mgmt := true }
  else if a < 0x20 then { k with watch := true } else { k with peer := true }
def addKeeper (k : KeepEntry) (a : Nat) : KeepEntry :=
  if k.co then coarsen k a
  else if k.ptrs.contains (BitVec.ofNat 8 a) then k
  else if k.ptrs.length < 4 then { k with ptrs := k.ptrs ++ [BitVec.ofNat 8 a] }
  else coarsen (k.ptrs.foldl (fun k p => coarsen k p.toNat) { KeepEntry.init with co := true }) a
/-- The agents that a keeper entry names, for a partition's clusters and the proxies with a lease (R89). -/
def keepersOf (s : State) (q : Nat) (k : KeepEntry) (page : Nat) : List Nat :=
  if !k.co then k.ptrs.map BitVec.toNat
  else (if k.watch then clustersOf (part s q) else [])
    ++ ((setBits 8 k.grp.toNat).flatMap fun g => [0x60 + 4 * g, 0x61 + 4 * g, 0x62 + 4 * g, 0x63 + 4 * g])
    ++ (if k.mgmt then [0x80] else [])
    ++ (if k.peer then (s.leases.filter fun l => l.isHome && l.page == page).map fun l => l.holder else [])
/-- An invalidation carried out at an agent: an agent of the hub die drops its copy, a cluster wakes its rows and
answers kept while others watch the line (R89, R90). Answers whether it was kept. -/
def invalidateAt (s : State) (agent line : Nat) (mask : BitVec 32) (replace : Bool) : State × Bool :=
  let s := wakeWatchers s agent line (if replace then BitVec.allOnes 32 else mask)
  let s := if writesThrough agent then
      dropCline (rememberStale s agent false (heldWords line (cline s agent line) (BitVec.allOnes 32))) agent line else s
  (s, watching s agent line)
/-- How many fills of a line are on their way from its home to an agent; they answer its first misses of the line. -/
def fillsOnWay (s : State) (agent line : Nat) : Nat :=
  (s.agenda.filter fun m => match m with | .lineFill a l _ _ _ => a == agent && l == line | _ => false).length
/-- The first n misses of an agent for a line are marked: their fills install nothing. -/
def clearFirst (agent line : Nat) : Nat → List Miss → List Miss
  | 0, l => l
  | _, [] => []
  | n + 1, m :: l => if m.agent = agent ∧ m.line = line then { m with cleared := true } :: clearFirst agent line n l
    else m :: clearFirst agent line (n + 1) l
/-- A unit of the hub die invalidates an agent at once: a fill that the home has sent to a keeper before installs nothing, as though the
invalidation had come behind it (R89, R325). -/
def invalidateOnce (s : State) (agent line : Nat) (mask : BitVec 32) (replace : Bool) : State × Bool :=
  let s := if writesThrough agent then { s with misses := clearFirst agent line (fillsOnWay s agent line) s.misses } else s
  invalidateAt s agent line mask replace
/-- The keepers of a line invalidated at once by a writer; the entry is rebuilt in the pointer form (R89). -/
def invalidateAll (s : State) (q line : Nat) (mask : BitVec 32) (writer : Nat) : State :=
  let named := (keepersOf s q (hline s line).keep (line / 512)).filter (· != writer)
  let had := (keepersOf s q (hline s line).keep (line / 512)).contains writer
  let (s, kept) := named.foldl (fun (s, kept) a =>
    let (s, k) := invalidateOnce s a line mask false
    (s, if k then kept ++ [a] else kept)) (s, [])
  let keepWriter := (writesThrough writer && (cline? s writer line).isSome) || (writer < 0x20 && had)
  let k := (if keepWriter then [writer] else []) ++ kept
  setKeep s line (k.foldl addKeeper KeepEntry.init)
/-- A keeper entry replaced: every agent it names is invalidated with every word, then the entry is gone (R91). -/
def replaceKeepers (s : State) (q line : Nat) : State :=
  let s := (keepersOf s q (hline s line).keep (line / 512)).foldl (fun s a => (invalidateOnce s a line 0 true).1) s
  setKeep s line KeepEntry.init
/-- The entry names no agent. -/
def keepsNone (k : KeepEntry) : Bool := !k.co && k.ptrs.isEmpty
/-- A page whose home left this module: stack memory here stands for the other module's home (R97). -/
def isRemote (s : State) (pa : Nat) : Bool := s.leaving.contains (pa / 65536)
/-- A place for a line in the keeper array (R75, R91): when its set is full, a freely chosen entry of it is replaced. -/
def roomKeep (s : State) (line : Nat) : State :=
  let kept := s.homes.filter fun x => !keepsNone x.2.keep
  if !keepsNone (hline s line).keep || kept.length < 8 then s
  else
    let ways := kept.filter fun x => sameSet s 2 x.1 line
    if ways.length < 8 then s
    else
      let quiet := (ways.filter fun x => x.2.txn.isNone).map (·.1)
      let (s, f) := draw s 0x91
      if quiet.isEmpty then s
      else
        let v := nth quiet (f.toNat % quiet.length) line
        replaceKeepers s (ownerPart s (128 * v)) v
/-- An agent is added to the keepers of a line (R87, R88, R91). -/
def keepAt (s : State) (line a : Nat) : State :=
  let s := roomKeep s line
  setKeep s line (addKeeper (hline s line).keep a)

/-! ### Tier misses (R71) -/

/-- A sector is read from the tier and written into its unit (R68, R71): over another tag, the keepers of the victim's lines
are invalidated with every word; every block then is valid, clean and has the new tag. Whether a device reports poison with
a block is free (log 5). -/
def fillUnit (s : State) (q unit tag : Nat) : State :=
  let p := part s q
  let old := block s (2048 * unit)
  let sector := fun (t : Nat) => tbase p + 2048 * (t * cacheUnits p + (unitIn p (2048 * unit) - flats p * 6 * hCount p))
  let s := if old.v && old.tag.toNat ≠ tag then
      (List.range 16).foldl (fun s i => replaceKeepers s q (sector old.tag.toNat / 128 + i)) s else s
  (List.range 32).foldl (fun s i =>
    let (s, f) := draw s 0x68
    let s := if bit f 0 then poisonBlock s (sector tag + 64 * i) else s
    let a := 2048 * unit + 64 * i
    setBlock s a { block s a with v := true, tag := BitVec.ofNat 15 tag, d := false }) s
/-- The sector of a tier address is in its unit, filled at once for an access by the hardware itself. -/
def tierEnsure (s : State) (q pa : Nat) : State :=
  let p := part s q
  if inTier p pa && !tierHit s p pa then fillUnit s q (unitAddr p (tierUnit p pa) / 2048) (tierTag p pa) else s

/-! ### Recalls and the values of words (R80 to R82) -/

/-- Words of a mask merged into the home's line, which is dirty then (R81, R82). -/
def mergeWords (s : State) (line : Nat) (mask : BitVec 32) (data : List W32) : State :=
  if mask = 0 then s
  else
    let q := ownerPart s (128 * line)
    let s := readArray (tierEnsure s q (128 * line)) q (128 * line) 128 .norm
    let s := (setBits 32 mask.toNat).foldl (fun s i =>
      let a := 128 * line + 4 * i
      tierDirty (mergeBlock s a (wordBytes (nth data i 0)) (block s a).key.toNat) q a 4) s
    markDirty s line
/-- The value of a word that an owner has sent home and that has not arrived (R81). -/
def wordInFlight (s : State) (agent line i : Nat) : Option W32 :=
  s.agenda.reverse.findSome? fun m =>
    match m with
    | .recallWriteback a _ l mask data => if a = agent ∧ l = line ∧ mask.getLsbD i then some (nth data i 0) else none
    | .evictionWriteback a _ l mask data => if a = agent ∧ l = line ∧ mask.getLsbD i then some (nth data i 0) else none
    | _ => none
/-- An owner's value of a word: on its way home, or in its cache. A word on its way that the cache holds again is to be
registered anew: home still has the old registration (R81). -/
def ownerWord (s : State) (agent line i : Nat) : Option W32 :=
  match wordInFlight s agent line i with
  | some w => some w
  | none => if (cline s agent line).rg.getLsbD i then some (cword (cline s agent line) i) else none
/-- Words of a mask put into the fills of a line on their way to an agent. -/
def patchFills (s : State) (agent line : Nat) (mask : BitVec 32) (data : List W32) : State :=
  { s with agenda := s.agenda.map fun m => match m with
      | .lineFill a l ws p k => if a = agent ∧ l = line then
          .lineFill a l (ws.zipIdx.map fun w => if mask.getLsbD w.2 then nth data w.2 0 else w.1) p k else m
      | m => m }
/-- A recall carried out at once: the owner's words of the mask go home, RG clears, V stays; a write-back of them on its
way finds nothing registered (R80, R81, R168). A word on its way that the cache holds anew keeps its RG. A fill that the home has sent
before brings those words as they are now, not older (R319, R323). -/
def recallNow (s : State) (line agent : Nat) (mask : BitVec 32) : State :=
  let m := ownMask (hline s line).reg agent &&& mask
  let vals := (List.range 32).map fun i => if m.getLsbD i then ownerWord s agent line i else none
  let have_ := BitVec.ofNat 32 (vals.zipIdx.foldl (fun n p => if p.1.isSome then n + 2 ^ p.2 else n) 0)
  let away := BitVec.ofNat 32 ((List.range 32).foldl (fun n i => if (wordInFlight s agent line i).isSome then n + 2 ^ i else n) 0)
  let x := cline s agent line
  let s := patchFills (mergeWords s line have_ (vals.map fun v => v.getD 0)) agent line have_ (vals.map fun v => v.getD 0)
  let s := if (cline? s agent line).isSome then setCline s agent line { x with rg := x.rg &&& ~~~(m &&& ~~~away) } else s
  setReg s line (unregister (hline s line).reg agent m)
/-- Every owner's words of a mask recalled at once. -/
def recallAll (s : State) (line : Nat) (mask : BitVec 32) : State :=
  (owners (hline s line).reg).foldl (fun s a => recallNow s line a mask) s
/-- The current value of a word: its registrant's, else the home's (R82). -/
def wordNow (s : State) (pa : Nat) : W32 :=
  let line := lineOf pa
  let i := pa / 4 % 32
  match (owners (hline s line).reg).findSome? fun a =>
      if (ownMask (hline s line).reg a).getLsbD i then ownerWord s a line i else none with
  | some w => w
  | none => wordOfBytes (homeBytes s (pa / 4 * 4) 4)
/-- The bytes as a read at device scope returns them, registrants' words forwarded (R82, R398). -/
def readNow (s : State) (pa n : Nat) : List Byte :=
  let first := pa / 4
  let ws := (List.range ((pa % 4 + n + 3) / 4)).flatMap fun i => wordBytes (wordNow s (4 * (first + i)))
  (ws.drop (pa % 4)).take n
def dwordNow (s : State) (pa : Nat) : Word := w64 (leNat (readNow s pa 8))
/-- The worst delivery of the blocks a range touches under a key index. -/
def deliveryRange (s : State) (pa n key : Nat) : Nat :=
  (List.range ((pa % 64 + n + 63) / 64)).foldl (fun d i => max d (delivery s (pa / 64 * 64 + 64 * i) key)) 0
/-- The registry's place for a line (R75, R80): when the line's set is full, every owner of its least recently registered line
is recalled first. -/
def roomReg (s : State) (line : Nat) : State :=
  let regd := s.homes.filter fun x => hasReg x.2.reg
  if hasReg (hline s line).reg || regd.length < 16 then s
  else
    let ways := regd.filter fun x => sameSet s 1 x.1 line
    if ways.length < 16 then s
    else match oldestOf ((ways.filter fun x => !x.2.reg.eng && x.2.txn.isNone).map fun x => (x.1, x.2.reged)) with
      | some v => recallAll s v.1 (BitVec.allOnes 32)
      | none => s
/-- A line's entry is written by a registration or an engine (R80, R85). -/
def enterReg (s : State) (line : Nat) (r : RegEntry) : State :=
  let s := roomReg s line
  setHline s line { hline s line with reg := r, reged := nextUse (s.homes.map (·.2.reged)) }
/-- A dead or answered owner's later reply is not awaited, or is discarded (R81). -/
def answeredEarly (s : State) (line agent : Nat) : State :=
  setHline s line { hline s line with early := (hline s line).early ++ [agent] }
def takeEarly (s : State) (line agent : Nat) : State :=
  setHline s line { hline s line with early := dropFirst (· == agent) (hline s line).early }

/-- Blocks of a range whose KEY is not the index of a read are logged (R66): event 7. -/
def logKeys (s : State) (q agent pa n key : Nat) : State :=
  (List.range ((pa % 64 + n + 63) / 64)).foldl (fun s i =>
    let a := pa / 64 * 64 + 64 * i
    if (block s a).key.toNat = key then s else traceCoh s q 7 3 agent (max a pa)) s

/-! ### Writes of the hub die -/

/-- Bytes cut at the bounds of blocks; fuel counts the blocks. -/
def byBlock : Nat → Nat → List Byte → List (Nat × List Byte)
  | 0, _, _ => []
  | n + 1, pa, data =>
    let here := 64 - pa % 64
    if data = [] then [] else (pa, data.take here) :: byBlock n (pa + here) (data.drop here)
def blocksOf (pa : Nat) (data : List Byte) : List (Nat × List Byte) := byBlock ((pa % 64 + data.length + 63) / 64) pa data
/-- A write by a unit of the hub die into one block (R66, R84, R89): recalls and keepers first; a part of a block with
another KEY is refused and logged. -/
def hubBlock (s : State) (q agent pa : Nat) (data : List Byte) (key : Nat) : State :=
  let m := wordMask pa data.length
  let s := tierEnsure s q pa
  if foreignPart s pa data.length key then traceCoh s q 7 3 agent pa
  else arrayWrite (invalidateAll (recallAll s (lineOf pa) m) q (lineOf pa) m agent) q pa data key .norm
/-- A write by a unit of the hub die, performed in one step at the homes (R84, R89). -/
def hubWrite (s : State) (q agent pa : Nat) (data : List Byte) (key : Nat) : State :=
  (blocksOf pa data).foldl (fun s b => hubBlock s q agent b.1 b.2 key) s
def hubWriteDword (s : State) (q agent pa : Nat) (v : Word) (key : Nat) : State :=
  hubWrite s q agent pa (leBytes 8 v.toNat) key
/-- A write of the hardware itself, under the KEY that each block has (DEDUCED, log 67). -/
def hubOwn (s : State) (q agent pa : Nat) (data : List Byte) : State :=
  (blocksOf pa data).foldl (fun s b => hubBlock s q agent b.1 b.2 (block s b.1).key.toNat) s
/-- A message that is retried keeps its place before later ones. -/
def sendAgain (s : State) (m : Msg) : State := { s with agenda := m :: s.agenda }
/-- The tier unit that serves an address has a miss entry (R72). -/
def unitMissing (s : State) (p : Part) (pa : Nat) : Bool :=
  s.tierMiss.any fun m => m.1 == unitAddr p (tierUnit p pa) / 2048
/-- The miss entries of the slice of a unit (R72). -/
def sliceMisses (s : State) (p : Part) (u : Nat) : List (Nat × Nat × List Req) :=
  s.tierMiss.filter fun m => homeOf p (2048 * m.1) == homeOf p (2048 * u)
/-- The unit of an address takes an access by the hardware itself now (R72): it has no miss entry, and its sector is cached or one of
the slice's 16 entries is free for a miss, which such an access carries out whole within its step. -/
def tierTakes (s : State) (pa : Nat) : Bool :=
  let p := part s (ownerPart s pa)
  !inTier p pa || (!unitMissing s p pa && (tierHit s p pa || decide ((sliceMisses s p (unitAddr p (tierUnit p pa) / 2048)).length < 16)))
/-- Lines of a byte range. -/
def rangeLines (pa n : Nat) : List Nat := (List.range ((pa % 128 + n + 127) / 128)).map (lineOf pa + ·)
/-- Another module holds a lease of a page that is homed here. -/
def leased (s : State) (page : Nat) : Bool := s.leases.any fun l => l.isHome && l.page == page
/-- The leases of a page are revoked through the peer proxies (R96). -/
def revokeLeases (s : State) (page : Nat) : State :=
  { s with leases := s.leases.map fun l => if l.isHome ∧ l.page = page then { l with revoking := true } else l }
/-- A line takes an access of an agent's now: no change is in progress at it, no other agent holds it under ENG (R85), and its tier unit
is free for it (R72). -/
def lineQuiet (s : State) (agent line : Nat) : Bool :=
  (hline s line).txn.isNone && (!(hline s line).reg.eng || (hline s line).reg.ownA.toNat == agent) && tierTakes s (128 * line)
/-- The lines of ranges take a unit's reads now. -/
def linesQuiet (s : State) (agent : Nat) (ranges : List (Nat × Nat)) : Bool :=
  (ranges.flatMap fun r => rangeLines r.1 r.2).all fun l => lineQuiet s agent l
/-- The lines of ranges take a unit's writes now: no other module has a lease of their pages (R96). -/
def rangesFree (s : State) (agent : Nat) (ranges : List (Nat × Nat)) : Bool :=
  (ranges.flatMap fun r => rangeLines r.1 r.2).all fun l => lineQuiet s agent l && !leased s (l / 512)
/-- The leases of the pages of ranges are revoked (R96). -/
def askRanges (s : State) (ranges : List (Nat × Nat)) : State :=
  ((ranges.flatMap fun r => rangeLines r.1 r.2).map (· / 512)).foldl revokeLeases s
/-- A unit of the hub die writes ranges of memory only when they are free; until then its message is retried. -/
def whenFree (s : State) (agent : Nat) (ranges : List (Nat × Nat)) (again : Msg) (write : State → State) : State :=
  if rangesFree s agent ranges then write s else sendAgain (askRanges s ranges) again

/-! ### Clearings (R170) -/

/-- The words of a line that a cache holds with a value that is no longer the current one. -/
def oldWords (s : State) (line : Nat) (x : CLine) (mask : BitVec 32) : List (Nat × W32) :=
  (heldWords line x mask).filter fun p => wordNow s p.1 != p.2
/-- The line without the values of its unregistered words. -/
def clearLine (x : CLine) : CLine := { x with v := x.v &&& x.rg }
/-- The clearing of an acquire at die, device or system scope in an agent's cache (R170): unregistered words of
lines whose ST is 0; at system scope also those of pages homed in another module; fills on their way deliver no
words to later loads (R171). The write-through caches keep their lines but those homed elsewhere. -/
def acquireClear (s : State) (agent : Nat) (sys : Bool) (remote : Nat → Bool) : State :=
  let sel := fun (k : Nat) (x : CLine) => k / 2 ^ 40 == agent &&
    ((!writesThrough agent && !x.st) || (sys && remote (k % 2 ^ 40)))
  let s := rememberStale s agent false ((s.caches.filter fun (k, x) => sel k x).flatMap fun (k, x) => oldWords s (k % 2 ^ 40) x (~~~x.rg))
  { s with caches := s.caches.map (fun (k, x) => if sel k x then (k, clearLine x) else (k, x)),
           misses := s.misses.map fun m =>
             if m.agent == agent && ((!writesThrough agent && !m.st) || (sys && remote m.line)) then { m with cleared := true } else m }
/-- The clearing that an acquire at a scope makes for an executor (R170). -/
def acquireAt (s : State) (e : Nat) (sc : Scope) : State :=
  match sc with
  | .row | .clu => s
  | .die | .dev => if isCtl e then s else acquireClear s (agentOf e) false fun _ => false
  | .sys => acquireClear s (agentOf e) true fun line => isRemote s (128 * line)
/-- Every unregistered word of a line range that a copy has written is dropped from a cluster cache (R121, R127, R225). -/
def dropRange (s : State) (agent lo n : Nat) : State :=
  let s := rememberStale s agent true ((s.caches.filter fun (k, _) =>
    k / 2 ^ 40 == agent && overlap (128 * (k % 2 ^ 40)) 128 lo n).flatMap fun (k, x) => oldWords s (k % 2 ^ 40) x (~~~x.rg))
  { s with caches := s.caches.map (fun (k, x) =>
      if k / 2 ^ 40 == agent && overlap (128 * (k % 2 ^ 40)) 128 lo n then (k, clearLine x) else (k, x)) }
/-- Fills of lines that are on their way to an agent deliver no words to later loads (R121, R171). -/
def clearFills (s : State) (agent : Nat) (ls : List Nat) : State :=
  { s with misses := s.misses.map fun m => if m.agent = agent ∧ ls.contains m.line then { m with cleared := true } else m }
/-- A line leaves every cluster cache of a partition (R127 step 4). -/
def dropClusters (s : State) (q line : Nat) : State :=
  (clustersOf (part s q)).foldl (fun s c => clearFills (dropRange s c (128 * line) 128) c [line]) s

end Sys2Proof.Machine
end

