-- ==== Sys2Proof/Machine/Xlate.lean ====
section
/-!
DEFINITION. Translation: page-table walks, translation buffers, what a leaf permits, and where an address lies
(R160, R162, R392 to R399, R413, R438, R447).
-/

namespace Sys2Proof.Machine

/-! ### Leaves (R394) -/

def leafClass (e : Word) : Nat := bits e 60 2
def leafKey (e : Word) : Nat := bits e 54 6
def leafR (e : Word) : Bool := bit e 53
def leafW (e : Word) : Bool := bit e 52
def leafX (e : Word) : Bool := bit e 51
def leafU (e : Word) : Bool := bit e 50
def leafMv (e : Word) : Bool := bit e 49
def leafSpm (e : Word) : Bool := bit e 48
def leafFrame (e : Word) : Nat := bits e 16 30 * 65536
def clsOrdinary : Nat := 0
def clsReadOnly : Nat := 1
def clsOpen : Nat := 2
def clsSealed : Nat := 3
/-- Bytes that a leaf of a level maps (R393). -/
def pageSize (lvl : Nat) : Nat := if lvl = 2 then 2 ^ 26 else if lvl = 3 then 2 ^ 21 else 65536

/-- The place of a physical address (R63, R201, R437, R447). -/
def placeOf (pa : Nat) : Place :=
  if rowSpace ≤ pa && pa < rowSpaceTop then .row (rowOfSpace pa).1 (rowOfSpace pa).2
  else if windowBase ≤ pa && pa < hubTop then .reg pa
  else if hostBase ≤ pa && pa < hostTop then .host (pa - hostBase)
  else .mem pa
/-- The place of an address under a leaf; an SPM leaf places it in a scratchpad (R413). -/
def leafPlace (t : TlbEnt) (va : Nat) : Place :=
  if leafSpm t.leaf then .spad (bits t.leaf 11 5) (65536 * bits t.leaf 4 7 + va % 65536)
  else placeOf (leafFrame t.leaf + va % pageSize t.lvl)

/-! ### The walk (R393 to R395) -/

/-- How a walk ends: a leaf with its level and its entry's address, a fault with cause, INFO and level, or MV set,
at which the walk waits (R398), as it does at an entry whose line is being changed or is held under ENG (R85). -/
inductive Walk where
  | leaf (t : TlbEnt)
  | fault (cause info lvl : Nat)
  | moving
  deriving DecidableEq, Repr

/-- Lowest index bit and number of index bits of a level (R393). -/
def levelBits (lv : Nat) : Nat × Nat :=
  match lv with
  | 0 => (46, 11)
  | 1 => (36, 10)
  | 2 => (26, 10)
  | 3 => (21, 5)
  | _ => (16, 5)
/-- A pointer uses only V, LEAF and bits 45..8 (R394). -/
def pointerClean (e : Word) : Bool := bits e 46 16 == 0 && bits e 0 8 == 0
/-- A leaf's zero bits are zero; SPC and SPO are zero without SPM (R394). -/
def leafClean (e : Word) : Bool := bits e 46 2 == 0 && bits e 0 4 == 0 && (leafSpm e || bits e 4 12 == 0)
/-- What R395 refuses of a leaf, by its frame and by the address that is accessed through it: cause and INFO, or none. An address outside
every range that the map of R63 names faults PAGE_NP (R63), one in cache units too (R70); one in another owner's memory PAGE_PERM (R395;
DEDUCED, log 87). Another partition's row that is not live faults PAGE_NP first (R201). SPM on a row-space frame is a malformed entry. -/
def leafFault (s : State) (q : Nat) (t : TlbEnt) (va : Nat) : Option (Nat × Nat) :=
  let p := part s q
  let e := t.leaf
  let f := leafFrame e
  let a := f + va % pageSize t.lvl
  let cask := 2 ≤ leafClass e
  if !leafClean e || f % pageSize t.lvl ≠ 0 then some (cPagePerm, 5)
  else if inRack p f || inRack p a then some (cPageNp, 0)
  else if tierBase ≤ a && a < tierTop && tierBase + Config.tierFitted ≤ a then some (cPageNp, 0)
  else if f = windowBase + 65536 * q && t.lvl = 4 then (if leafClass e = 0 then none else some (cPagePerm, 6))
  else if windowBase ≤ a && a < hubTop then some (cPagePerm, 6)
  else if hostBase ≤ a && a < hostTop then (if leafClass e = 0 then none else some (cPagePerm, 6))
  else if rowSpace ≤ a && a < rowSpaceTop then
    (if cask then some (cPagePerm, 12) else if leafSpm e then some (cPagePerm, 5)
     else if (rowOfSpace a).1.part = q then none
     else if isLive s (rowOfSpace a).1 then some (cPagePerm, 9) else some (cPageNp, 0))
  else if cask && !(t.lvl == 4 && caskPlace p (f / 65536)) then some (cPagePerm, 12)
  else if !isMemory a then some (cPageNp, 0)
  else if inTail p f || inTail p a || inCell p f || inCell p a || inSave p f || inSave p a then some (cPagePerm, 13)
  else if inStack p a && !isFlat p a then some (cPageNp, 0)
  else if !isRemote s a && ((!isFlat p a && !inTier p a) || (!isFlat p f && !inTier p f)) then some (cPagePerm, 6)
  else if leafSpm e && (!(clustersOf p).contains (bits e 11 5) || cask) then some (cPagePerm, 8)
  else none
/-- The walk from a table on: fuel counts the levels left. An entry in a poisoned block is taken as its bytes are: R62 names no treatment
for a walker (DESIGN CHOICE, log 96). -/
def walkFrom (s : State) (q va : Nat) : Nat → Nat → Nat → Walk
  | 0, _, lv => .fault cPagePerm 5 (lv - 1)
  | n + 1, table, lv =>
    let (lo, w) := levelBits lv
    let pte := table + 8 * (va / 2 ^ lo % 2 ^ w)
    let e := dwordNow s pte
    if (hline s (lineOf pte)).txn.isSome || (hline s (lineOf pte)).reg.eng then .moving
    else if !bit e 63 then .fault cPageNp 0 lv
    else if bit e 62 then
      if lv < 2 then .fault cPagePerm 5 lv
      else if leafMv e then .moving
      else
        let t : TlbEnt := ⟨q, va / pageSize lv * pageSize lv, lv, e, pte⟩
        match leafFault s q t va with
        | some (c, i) => .fault c i lv
        | none => .leaf t
    else if lv = 4 || !pointerClean e || !tablePlace (part s q) (bits e 8 38 * 256) then .fault cPagePerm 5 lv
    else walkFrom s q va n (bits e 8 38 * 256) (lv + 1)
/-- The deepest pointer that a die's walkers keep for an address (R397). -/
def keptPointer (s : State) (die q va : Nat) : Option PtrEnt :=
  (mapGet s.walkers die []).find? fun p => p.part == q && p.prefixOf == va / 2 ^ (levelBits p.lvl).1
/-- A whole walk of a partition's tree (R393), from PT_ROOT or from a pointer that a walker kept. -/
def walk (s : State) (die q va : Nat) : Walk :=
  let root := (part s q).ptRoot
  let t := bits root 14 32 * 16384
  if !bit root 0 then .fault cPageNp 0 0
  else if !tablePlace (part s q) t then .fault cPagePerm 5 0
  else match keptPointer s die q va with
    | some p => walkFrom s q va (4 - p.lvl) p.table (p.lvl + 1)
    | none => walkFrom s q va 5 t 0
/-- The pointers of levels 0 to 2 that a walk passes, deepest first, for the walker to keep (R397). -/
def pointersOf (s : State) (q va : Nat) : Nat → Nat → Nat → List PtrEnt
  | 0, _, _ => []
  | n + 1, table, lv =>
    let (lo, w) := levelBits lv
    let e := dwordNow s (table + 8 * (va / 2 ^ lo % 2 ^ w))
    if bit e 63 && !bit e 62 && lv ≤ 2 then
      pointersOf s q va n (bits e 8 38 * 256) (lv + 1) ++ [⟨q, lv, va / 2 ^ lo, bits e 8 38 * 256⟩]
    else []

/-- The entries that a walk reads. -/
def walkReads (s : State) (va : Nat) : Nat → Nat → Nat → List Nat
  | 0, _, _ => []
  | n + 1, table, lv =>
    let (lo, w) := levelBits lv
    let a := table + 8 * (va / 2 ^ lo % 2 ^ w)
    let e := dwordNow s a
    a :: if bit e 63 && !bit e 62 && lv < 4 then walkReads s va n (bits e 8 38 * 256) (lv + 1) else []
/-- The stack's check of the blocks that a walk reads (R61). -/
def checkWalk (s : State) (die q va : Nat) : State :=
  let reads := match keptPointer s die q va with
    | some p => walkReads s va (4 - p.lvl) p.table (p.lvl + 1)
    | none => walkReads s va 5 (bits (part s q).ptRoot 14 32 * 16384) 0
  reads.foldl (fun s a => checkRange s q a 8) s

/-! ### Translation buffers (R397) -/

def tlbHit (q va : Nat) (t : TlbEnt) : Bool := t.part == q && inRange va t.base (pageSize t.lvl)
/-- A leaf held by a unit's buffer or its die's last-level buffer. -/
def tlbFind (s : State) (unit q va : Nat) : Option TlbEnt :=
  match (mapGet s.tlbs unit []).find? (tlbHit q va) with
  | some t => some t
  | none => (mapGet s.llbs (if unit < 32 then unit / 8 else 4) []).find? (tlbHit q va)
/-- What a held leaf answers for an address under it: an access may reach an area of R395 that the leaf's first one did not. -/
def heldLeaf (s : State) (unit q va : Nat) : Option Walk :=
  (tlbFind s unit q va).map fun t =>
    match leafFault s q t va with
    | some (c, i) => .fault c i t.lvl
    | none => .leaf t
/-- A leaf enters both buffers, which keep their 2,048 and 16,384 newest leaves (DESIGN CHOICE, log 15). -/
def tlbFill (s : State) (unit : Nat) (t : TlbEnt) : State :=
  let die := if unit < 32 then unit / 8 else 4
  { s with tlbs := mapSet s.tlbs unit ((t :: mapGet s.tlbs unit []).take 2048),
           llbs := mapSet s.llbs die ((t :: mapGet s.llbs die []).take 16384),
           mapped := t :: s.mapped.filter (· != t) }
/-- A range of a partition leaves every buffer, walker and walk in progress (R370, R397). -/
def tlbDrop (s : State) (q : Nat) (hit : TlbEnt → Bool) : State :=
  let keep := fun t : TlbEnt => !(t.part == q && hit t)
  { s with tlbs := s.tlbs.map fun (k, l) => (k, l.filter keep),
           llbs := s.llbs.map fun (k, l) => (k, l.filter keep),
           mapped := s.mapped.filter keep,
           walkers := s.walkers.map fun (k, l) => (k, l.filter fun p => p.part != q),
           agenda := s.agenda.filter fun i => match i with | .pageWalk _ q' _ => q' != q | _ => true }

/-! ### Row accesses -/

/-- The answer of a translation at issue: a leaf, a walk to wait for, or a fault (cause, INFO, level). -/
inductive Xl where
  | leaf (t : TlbEnt)
  | miss
  | fault (cause info lvl : Nat)
  deriving DecidableEq, Repr

/-- The management executor is not translated (DESIGN CHOICE, log 16): every physical address, with the key of the
block addressed. -/
def physicalLeaf (s : State) (va : Nat) : TlbEnt :=
  ⟨0, va / 65536 * 65536, 4,
    w64 (2 ^ 63 + 2 ^ 62 + at_ (block s va).key.toNat 54 + at_ 15 50 + va / 65536 % 2 ^ 30 * 65536), 0⟩
/-- An address whose bits 63..56 are not all equal to bit 56 (R180 step 3). -/
def canonical (va : Word) : Bool := va == (BitVec.ofNat 57 (bits va 0 57)).signExtend 64
/-- The translation of an address of a row at issue: its unit's buffers; the fault of a walk that the chain has waited
for; else a walk (R399). -/
def lookupFor (s : State) (pr : Nat) (va : Word) : Xl :=
  let e := execOf pr
  let q := (rowId s pr).part
  if e = 544 then .leaf (physicalLeaf s va.toNat)
  else if !canonical va then .fault cPageNp 0 7
  else match heldLeaf s (unitOf e) q (bits va 0 57) with
    | some (.leaf t) => .leaf t
    | some (.fault c i l) => .fault c i l
    | _ =>
      match s.waited with
      | .walkFault q' page c i l => if q' = q ∧ page = bits va 0 57 / 65536 then .fault c i l else .miss
      | _ => .miss
def lookup (s : State) (va : Word) : Xl := lookupFor s s.cur va
/-- The executing row waits at its instruction for a walk (R180). -/
def startWalk (s : State) (va : Word) : State :=
  setWait (send s (.pageWalk (unitOf (curExec s)) (curPart s) va)) (.walk (curPart s) va)

/-- What an access needs of a leaf (R396). -/
inductive Need where
  | read | write | fetch
  deriving DecidableEq, Repr
/-- The permission that fails first: U, then the access's own bit; a READ-ONLY page refuses writes (R180, R396,
R402). -/
def permFault (priv : Nat) (need : Need) (e : Word) : Option Nat :=
  if priv = 0 && !leafU e then some 1
  else match need with
    | .read => if leafR e then none else some 2
    | .write => if leafW e && leafClass e ≠ clsReadOnly then none else some 3
    | .fetch => if leafX e then none else some 4

/-- The scratchpad window of a partition (R162): 256 MiB from SPWIN on. -/
def inWindow (s : State) (q : Nat) (va : Word) : Bool := decide ((va - (part s q).spwin).toNat < 2 ^ 28)
def windowCluster (s : State) (q : Nat) (va : Word) : Nat := (va - (part s q).spwin).toNat / 2 ^ 23
def windowOffset (s : State) (q : Nat) (va : Word) : Nat := (va - (part s q).spwin).toNat % 2 ^ 23
/-- A scratchpad that rows of an executor reach: the partition's, on the same die (R162, R413). -/
def reachable (s : State) (q e c : Nat) : Bool := (clustersOf (part s q)).contains c && c / 8 == dieOf e

end Sys2Proof.Machine
end

