-- ==== Sys2Proof/Machine/Claims.lean ====
section
/-!
DEFINITION. Lane pools and claims: the claim word d11, grants, re-negotiation, release and re-establishment
(R265 to R273).
-/

namespace Sys2Proof.Machine

def pool (s : State) (p : Nat) : Pool := mapGet s.pools p Pool.init
def setPool (s : State) (p : Nat) (x : Pool) : State := { s with pools := mapSet s.pools p x }
/-- The claim of a number in a pool. -/
def claimIn (s : State) (p num : Nat) : Option Claim := (pool s p).claims.find? fun c => c.num == num
def putClaim (s : State) (p : Nat) (c : Claim) : State :=
  setPool s p { pool s p with claims := (pool s p).claims.map fun x => if x.num = c.num then c else x }
/-- Lanes that no claim holds (R265). -/
def freeLanes (x : Pool) : Nat := 256 - x.claims.foldl (fun n c => n + c.lanes) 0
/-- Lanes in multiples of 32 (R265). -/
def down32 (n : Nat) : Nat := n / 32 * 32

/-! ### The claim word (R267) -/

def d11Valid (w : Word) : Bool := bit w 0
def d11Recl (w : Word) : Bool := bit w 1
def d11Pool (w : Word) : Nat := bits w 3 6
def d11Claim (w : Word) : Nat := bits w 9 3
def d11Lanes (w : Word) : Nat := bits w 12 9
def d11Want (w : Word) : Nat := bits w 21 9
def d11Marea (w : Word) : Nat := bits w 30 7
/-- The claim word of a claim; the function-table fields 63..37 are kept. -/
def d11Of (old : Word) (p : Nat) (c : Claim) : Word :=
  w64 (at_ (bits old 37 27) 37 + at_ c.marea 30 + at_ c.want 21 + at_ c.lanes 12 + at_ c.num 9 + at_ p 3
    + at_ (num c.shrk) 2 + 1)
/-- The pool writes d11 through the row table (R267). -/
def writeClaim (s : State) (p : Nat) (c : Claim) : State :=
  let l := locate s c.row
  arriveWord (putClaim s p c) c.row l 11 (d11Of (locWord s l 11) p c)
/-- The claim that the executing row holds in its present pool, when d11 is VALID and RECL is clear. -/
def ownClaim (s : State) (pr : Nat) : Option (Nat × Claim) :=
  let w := rowWord s pr 11
  if d11Valid w && !d11Recl w then (claimIn s (d11Pool w) (d11Claim w)).map fun c => (d11Pool w, c) else none

/-- The claim of a row that was moved still has commands in the pool that it came from (R271 step 1). -/
def stranded (s : State) (pr : Nat) : Bool :=
  match ownClaim s pr with
  | some (p, c) => p != poolOf (execOf pr) && !c.cmds.isEmpty
  | none => false

/-! ### Grants (R269, R270) -/

/-- The fair share when a vclaim waits: 256 ÷ (claims + 1), rounded down to 32 (R269). -/
def fairShare (x : Pool) : Nat := down32 (256 / (x.claims.length + 1))
/-- SHRK marked in every claim above the fair share; LSHRK (bit 4) becomes pending in its row (R269, R362). -/
def markShrink (s : State) (p : Nat) : State :=
  let share := fairShare (pool s p)
  (pool s p).claims.foldl (fun s c =>
    if share < c.lanes && !c.shrk then
      let s := writeClaim s p { c with shrk := true }
      let l := locate s c.row
      arriveWord s c.row l 10 (locWord s l 10 ||| (1#64 <<< 4))
    else s) s
/-- The grant of a claim after a re-negotiation point (R270): step 1 with SHRK, unless a command is outstanding;
step 2 when no other claim waits. -/
def negotiated (x : Pool) (c : Claim) (others : Bool) : Claim :=
  let c1 := if c.shrk && c.cmds.isEmpty then
      { c with lanes := min c.lanes (max 32 (fairShare x)), shrk := false } else c
  let free := freeLanes x + (c.lanes - c1.lanes)
  if !others && c1.lanes < c1.want then { c1 with lanes := min c1.want (c1.lanes + down32 free) } else c1
/-- A claim was cut to no lanes, and its row waits at a vector command for some (R270). -/
def waitsForLanes (s : State) (c : Claim) : Bool :=
  c.lanes == 0 && (match locate s c.row with
    | .bank pr => ((slotOf s pr).map fun k => (slot s (execOf pr) k).wait) == some .commands
    | _ => false)
/-- Another claim than c waits for lanes of its pool (R270): one that a vclaim asks for, or one without lanes. -/
def othersWait (s : State) (p : Nat) (c : Claim) : Bool :=
  ((pool s p).waiting.any fun x => x.1 != c.row) || (pool s p).claims.any fun x => x.num != c.num && waitsForLanes s x
/-- A re-negotiation point of the claim of a bank row (R270); at a closing the pool may cut a claim without an
outstanding command to 0 lanes, which is a free choice (log 5). -/
def renegotiate (s : State) (pr : Nat) (closing : Bool) : State :=
  match ownClaim s pr with
  | none => s
  | some (p, c) =>
    let c := negotiated (pool s p) c (othersWait s p c)
    let (s, f) := if closing && c.cmds.isEmpty then draw s 0x270 else (s, 0)
    writeClaim s p (if bit f 0 then { c with lanes := 0 } else c)
/-- The lowest claim number that is free in a pool. -/
def freeClaim (x : Pool) : Nat := ((List.range 8).find? fun k => !x.claims.any fun c => c.num == k).getD 0
/-- A new claim can be granted: fewer than 8 claims and at least 32 free lanes (R269). -/
def canGrant (x : Pool) : Bool := x.claims.length < 8 && 32 ≤ freeLanes x
/-- A claim granted to a row: d11 is written (R269). -/
def grantClaim (s : State) (p : Nat) (r : RowId) (want marea : Nat) (last : Nat) : State :=
  let x := pool s p
  let c : Claim := ⟨freeClaim x, r, want, min want (down32 (freeLanes x)), marea, false, [], [], last, none, none⟩
  writeClaim (setPool s p { x with claims := x.claims ++ [c] }) p c

/-! ### Release (R271, R272) -/

def dropClaim (s : State) (p num : Nat) : State :=
  setPool s p { pool s p with claims := (pool s p).claims.filter fun c => c.num != num }
/-- The lanes are released and d11 := 0 (R272); no command of the claim is outstanding. -/
def freeClaimOf (s : State) (pr : Nat) : State :=
  match ownClaim s pr with
  | some (p, c) => setRowWord (dropClaim (settleTorn s fun b => b.row == c.row && b.node.isNone) p c.num) pr 11 0
  | none => if d11Valid (rowWord s pr 11) then setRowWord s pr 11 0 else s
/-- The old pool releases the claim and sets RECL, keeping WANT, MAREA and the table fields (R271). -/
def reclaim (s : State) (p : Nat) (c : Claim) : State :=
  let l := locate s c.row
  let s := dropClaim s p c.num
  arriveWord s c.row l 11 (putBits (putBits (putBits (locWord s l 11) 12 9 0) 1 1 1) 2 1 0)
/-- A row asks no pool but the one of its executor for lanes. -/
def leavePools (s : State) (r : RowId) (e : Nat) : State :=
  { s with pools := s.pools.map fun (k, x) => (k, if k = poolOf e then x else { x with waiting := x.waiting.filter fun w => w.1 != r }) }
/-- A row's image comes to an executor: a claim of another pool without an outstanding command is released with
RECL set; one with outstanding commands is released when they complete (R271); a request of the row waits in no other pool. -/
def claimFollows (s : State) (r : RowId) (e : Nat) : State :=
  let s := leavePools s r e
  let w := locWord s (locate s r) 11
  if d11Valid w && !d11Recl w && d11Pool w ≠ poolOf e then
    match claimIn s (d11Pool w) (d11Claim w) with
    | some c => if c.cmds.isEmpty then reclaim s (d11Pool w) c else s
    | none => s
  else s

end Sys2Proof.Machine
end

