-- ==== Sys2Proof/Machine/Num.lean ====
section
/-!
DEFINITION. Numbers as the units compute them: exact values, decoding of the formats, rounding into them, the exact
operations and their special cases (R227 to R238, R257 to R263, R284 to R286).
-/

namespace Sys2Proof.Machine

/-! ### Formats (R227, R230) -/

def fmtCode : Fmt → Nat
  | .f32 => 0 | .f16 => 1 | .t16 => 2 | .t8 => 3 | .t6 => 4 | .s8 => 5 | .z8 => 6
  | .s16 => 7 | .s32 => 8 | .s64 => 9 | .z16 => 10 | .z32 => 11
def fmtOf (c : Nat) : Option Fmt :=
  [Fmt.f32, .f16, .t16, .t8, .t6, .s8, .z8, .s16, .s32, .s64, .z16, .z32][c]?
def fmtWidth : Fmt → Nat
  | .f32 => 32 | .f16 => 16 | .t16 => 16 | .t8 => 8 | .t6 => 6 | .s8 => 8 | .z8 => 8
  | .s16 => 16 | .s32 => 32 | .s64 => 64 | .z16 => 16 | .z32 => 32
def isBinary (f : Fmt) : Bool := f == .f32 || f == .f16
def isTapered (f : Fmt) : Bool := f == .t16 || f == .t8 || f == .t6
def isInteger (f : Fmt) : Bool := !isBinary f && !isTapered f
def isSigned (f : Fmt) : Bool := f == .s8 || f == .s16 || f == .s32 || f == .s64
/-- Elements of a described block (R227); 0 for formats that no block holds. -/
def blockCount (f : Fmt) : Nat :=
  match f with
  | .f32 => 15 | .f16 => 30 | .t16 => 30 | .t8 => 60 | .t6 => 80 | .s8 => 60 | .z8 => 60 | _ => 0
/-- Exponent bits of a tapered format, and the exponent of its largest magnitude (R230). -/
def taperEs (f : Fmt) : Nat := if f == .t16 then 2 else 1
def taperMax (f : Fmt) : Int := if f == .t16 then 56 else if f == .t8 then 12 else 8
/-- Precision, least exponent of a unit in the last place, and greatest exponent of a binary format. -/
def binPrec (f : Fmt) : Nat := if f == .f32 then 24 else 11
def binQmin (f : Fmt) : Int := if f == .f32 then -149 else -24
def binEmax (f : Fmt) : Int := if f == .f32 then 127 else 15
def canonNan (f : Fmt) : Nat := if f == .f32 then 0x7FC00000 else 0x7E00

/-- A value n × 2^e with its sign; zero when n is. -/
def dyadic (neg : Bool) (n : Nat) (e : Int) : Num := if n = 0 then .zero neg else .fin neg n 1 e
def ofInt (v : Int) : Num := dyadic (v < 0) v.natAbs 0

/-! ### Decoding -/

/-- Leading bits of an n-bit number that equal b. -/
def runLength (b : Bool) (m : Nat) : Nat → Nat
  | 0 => 0
  | n + 1 => if m.testBit n = b then runLength b m n + 1 else 0
/-- A tapered code (R231). -/
def decodeTapered (f : Fmt) (c : Nat) : Num :=
  let n := fmtWidth f - 1
  let es := taperEs f
  let sgn := c.testBit n
  let mag := c % 2 ^ n
  if mag = 0 then (if sgn then .nan else .zero false)
  else
    let b := mag.testBit (n - 1)
    let len := runLength b mag n
    let k : Int := if b then (len : Int) - 1 else -(len : Int)
    let t := if len = n then 0 else n - len - 1
    let r := mag % 2 ^ t
    let x := min es t
    let fb := t - x
    let e := (r / 2 ^ fb) * 2 ^ (es - x)
    dyadic sgn (2 ^ fb + r % 2 ^ fb) (k * (2 ^ es : Nat) + e - fb)
/-- A binary code (IEEE 754). -/
def decodeBinary (f : Fmt) (c : Nat) : Num :=
  let p := binPrec f
  let w := fmtWidth f
  let neg := c.testBit (w - 1)
  let ex := c / 2 ^ (p - 1) % 2 ^ (w - p)
  let fr := c % 2 ^ (p - 1)
  if ex = 2 ^ (w - p) - 1 then (if fr = 0 then .inf neg else .nan)
  else if ex = 0 then dyadic neg fr (binQmin f)
  else dyadic neg (2 ^ (p - 1) + fr) (binQmin f + (ex : Int) - 1)
/-- The integer that a code of an integer format stands for. -/
def intOf (f : Fmt) (c : Nat) : Int :=
  let w := fmtWidth f
  let v := c % 2 ^ w
  if isSigned f && v.testBit (w - 1) then (v : Int) - (2 ^ w : Nat) else v
/-- The value of a code of a format (R231, R237); a tapered NR and every NaN decode to NaN. -/
def decodeNum (f : Fmt) (c : Nat) : Num :=
  let v := c % 2 ^ fmtWidth f
  if isBinary f then decodeBinary f v else if isTapered f then decodeTapered f v else ofInt (intOf f v)

/-! ### Rounding -/

/-- Whether the magnitude is rounded up: rest r of divisor d (2r against d tells half), q the magnitude kept. -/
def roundsUp (rnd : Rnd) (neg : Bool) (q r d : Nat) : Bool :=
  match rnd with
  | .rne => decide (d < 2 * r) || (decide (2 * r = d) && decide (q % 2 = 1))
  | .rna => decide (d ≤ 2 * r) && decide (r ≠ 0)
  | .rtz => false
  | .rup => decide (r ≠ 0) && !neg
  | .rdn => decide (r ≠ 0) && neg
/-- The floor of log2 of n ÷ d. -/
def log2Ratio (n d : Nat) : Int :=
  let s : Int := (Nat.log2 n : Int) - Nat.log2 d
  if (if 0 ≤ s then n < d * 2 ^ s.toNat else n * 2 ^ (-s).toNat < d) then s - 1 else s
/-- n ÷ d × 2^e as a quotient of numbers. -/
def scaleRatio (n d : Nat) (e : Int) : Nat × Nat := if 0 ≤ e then (n * 2 ^ e.toNat, d) else (n, d * 2 ^ (-e).toNat)
/-- A value rounded to an integer of a sign and magnitude (R236). -/
def roundInt (rnd : Rnd) (neg : Bool) (n d : Nat) (e : Int) : Nat :=
  let (a, b) := scaleRatio n d e
  a / b + num (roundsUp rnd neg (a / b) (a % b) b)
/-- A finite value into a binary format (R235, R258): subnormals kept; sat gives the largest finite value instead
of an infinity (R284). -/
def roundBinary (f : Fmt) (rnd : Rnd) (sat neg : Bool) (n d : Nat) (e : Int) : Nat :=
  let p := binPrec f
  let s := e + log2Ratio n d
  let qe := max (s - ((p : Int) - 1)) (binQmin f)
  let (a, b) := scaleRatio n d (e - qe)
  let q0 := a / b + num (roundsUp rnd neg (a / b) (a % b) b)
  let (q, qe) := if q0 = 2 ^ p then (2 ^ (p - 1), qe + 1) else (q0, qe)
  let sign := if neg then 2 ^ (fmtWidth f - 1) else 0
  let infinity := (2 ^ (fmtWidth f - p) - 1) * 2 ^ (p - 1)
  if q < 2 ^ (p - 1) then sign + q
  else if binEmax f < qe + (p - 1) then
    let toInf := !sat && (match rnd with | .rne => true | .rna => true | .rtz => false | .rup => !neg | .rdn => neg)
    sign + (if toInf then infinity else infinity - 1)
  else sign + ((qe - binQmin f + 1).toNat * 2 ^ (p - 1) + (q - 2 ^ (p - 1)))
/-- A finite value into a tapered format (R233). -/
def roundTapered (f : Fmt) (rnd : Rnd) (neg : Bool) (n d : Nat) (e : Int) : Nat :=
  let w := fmtWidth f - 1
  let es := taperEs f
  let s := e + log2Ratio n d
  let largest := taperMax f
  let le := fun (k : Int) => -- the value is at most 2^k
    let (a, b) := scaleRatio n d (e - k)
    decide (a ≤ b)
  let m :=
    if largest ≤ s then 2 ^ w - 1
    else if le (-largest) then 1
    else
      let k := Int.fdiv s (2 ^ es : Nat)
      let ex := (s - k * (2 ^ es : Nat)).toNat
      let (g, len) := if 0 ≤ k then (((2 ^ (k + 1).toNat - 1) * 2) * 2 ^ es + ex, (k + 1).toNat + 1 + es)
        else (2 ^ es + ex, (-k).toNat + 1 + es)
      let (a, b) := scaleRatio n d (e - s)
      let (a, b) := scaleRatio ((g - 1) * b + a) b ((w : Int) - len)
      a / b + num (roundsUp rnd neg (a / b) (a % b) b)
  m + (if neg then 2 ^ w else 0)
/-- The range of an integer format. -/
def intMin (f : Fmt) : Int := if isSigned f then -(2 ^ (fmtWidth f - 1) : Nat) else 0
def intMax (f : Fmt) : Int := if isSigned f then (2 ^ (fmtWidth f - 1) : Nat) - 1 else (2 ^ fmtWidth f : Nat) - 1
def clampInt (f : Fmt) (v : Int) : Int := max (intMin f) (min (intMax f) v)
/-- The code of an integer in a format, modulo its width. -/
def intCode (f : Fmt) (v : Int) : Nat := (v % (2 ^ fmtWidth f : Nat)).toNat
/-- round(x, rnd, f) as a code of the format, with the special values of R234 to R236 and R258. -/
def roundTo (f : Fmt) (rnd : Rnd) (sat : Bool) (x : Num) : Nat :=
  if isBinary f then
    match x with
    | .zero neg => if neg then 2 ^ (fmtWidth f - 1) else 0
    | .inf neg => (if neg then 2 ^ (fmtWidth f - 1) else 0) + (2 ^ (fmtWidth f - binPrec f) - 1) * 2 ^ (binPrec f - 1)
    | .nan => canonNan f
    | .fin neg n d e => roundBinary f rnd sat neg n d e
  else if isTapered f then
    match x with
    | .zero _ => 0
    | .inf _ => 2 ^ (fmtWidth f - 1)
    | .nan => 2 ^ (fmtWidth f - 1)
    | .fin neg n d e => roundTapered f rnd neg n d e
  else
    match x with
    | .zero _ => 0
    | .nan => 0
    | .inf neg => intCode f (if neg then intMin f else intMax f)
    | .fin neg n d e =>
      let v : Int := roundInt rnd neg n d e
      intCode f (clampInt f (if neg then -v else v))
/-- Rounding as a value. -/
def roundNum (f : Fmt) (rnd : Rnd) (x : Num) : Num := decodeNum f (roundTo f rnd false x)

/-! ### Exact operations and their special cases (R258, R259) -/

def negNum : Num → Num
  | .zero s => .zero (!s)
  | .fin s n d e => .fin (!s) n d e
  | .inf s => .inf (!s)
  | .nan => .nan
def absNum : Num → Num
  | .zero _ => .zero false
  | .fin _ n d e => .fin false n d e
  | .inf _ => .inf false
  | .nan => .nan
def isNeg : Num → Bool
  | .zero s => s
  | .fin s _ _ _ => s
  | .inf s => s
  | .nan => false
/-- Two finite values over one denominator and exponent: signed numerators, denominator, exponent. -/
def align (s : Bool) (n d : Nat) (e : Int) (s' : Bool) (n' d' : Nat) (e' : Int) : Int × Int × Nat × Int :=
  let m := min e e'
  let a : Int := n * 2 ^ (e - m).toNat * d'
  let b : Int := n' * 2 ^ (e' - m).toNat * d
  (if s then -a else a, if s' then -b else b, d * d', m)
/-- The exact sum; an exact zero sum of opposite signs is −0 in mode down only (R258). -/
def addNum (rnd : Rnd) (x y : Num) : Num :=
  match x, y with
  | .nan, _ => .nan
  | _, .nan => .nan
  | .inf s, .inf t => if s = t then .inf s else .nan
  | .inf s, _ => .inf s
  | _, .inf t => .inf t
  | .zero s, .zero t => .zero (if s = t then s else rnd == .rdn)
  | .zero _, y => y
  | x, .zero _ => x
  | .fin s n d e, .fin t m c f =>
    let (a, b, q, k) := align s n d e t m c f
    if a + b = 0 then .zero (rnd == .rdn) else .fin (a + b < 0) (a + b).natAbs q k
def subNum (rnd : Rnd) (x y : Num) : Num := addNum rnd x (negNum y)
/-- The exact product (R238, R258). -/
def mulNum (x y : Num) : Num :=
  match x, y with
  | .nan, _ => .nan
  | _, .nan => .nan
  | .inf _, .zero _ => .nan
  | .zero _, .inf _ => .nan
  | .inf s, y => .inf (s != isNeg y)
  | x, .inf t => .inf (isNeg x != t)
  | .zero s, y => .zero (s != isNeg y)
  | x, .zero t => .zero (isNeg x != t)
  | .fin s n d e, .fin t m c f => .fin (s != t) (n * m) (d * c) (e + f)
/-- The exact quotient (R258). -/
def divNum (x y : Num) : Num :=
  match x, y with
  | .nan, _ => .nan
  | _, .nan => .nan
  | .inf _, .inf _ => .nan
  | .inf s, y => .inf (s != isNeg y)
  | x, .inf t => .zero (isNeg x != t)
  | .zero _, .zero _ => .nan
  | .zero s, y => .zero (s != isNeg y)
  | x, .zero t => .inf (isNeg x != t)
  | .fin s n d e, .fin t m c f => .fin (s != t) (n * c) (d * m) (e - f)
/-- The integer square root by bits: r so far, i bits to try. -/
def isqrtFrom (v : Nat) : Nat → Nat → Nat
  | 0, r => r
  | i + 1, r => if (r + 2 ^ i) * (r + 2 ^ i) ≤ v then isqrtFrom v i (r + 2 ^ i) else isqrtFrom v i r
/-- The root of n ÷ d × 2^e to 128 bits, the lowest bit telling that digits follow: enough for every rounding. -/
def rootOf (neg : Bool) (n d : Nat) (e : Int) : Num :=
  let s := e + log2Ratio n d
  let k := 128 - Int.fdiv s 2
  let (a, b) := scaleRatio n d (e + 2 * k)
  let v := a / b
  let r := isqrtFrom v 132 0
  .fin neg (2 * r + num (r * r ≠ v || a % b ≠ 0)) 1 (-k - 1)
def sqrtNum : Num → Num
  | .nan => .nan
  | .zero s => .zero s
  | .inf s => if s then .nan else .inf false
  | .fin s n d e => if s then .nan else rootOf false n d e
/-- 1 ÷ √x (R285). -/
def rsqrtNum : Num → Num
  | .nan => .nan
  | .zero s => .inf s
  | .inf s => if s then .nan else .zero false
  | .fin s n d e => if s then .nan else rootOf false d n (-e)
/-- The order of R259 and of fcmp: −1, 0, 1 of two values that are not NaN; zeros compare equal here. -/
def cmpNum (x y : Num) : Int :=
  match x, y with
  | .inf s, .inf t => if s = t then 0 else if s then -1 else 1
  | .inf s, _ => if s then -1 else 1
  | _, .inf t => if t then 1 else -1
  | .zero _, .zero _ => 0
  | .zero _, y => if isNeg y then 1 else -1
  | x, .zero _ => if isNeg x then -1 else 1
  | .fin s n d e, .fin t m c f =>
    let (a, b, _, _) := align s n d e t m c f
    if a < b then -1 else if a = b then 0 else 1
  | _, _ => 0
/-- x stands before y in the order −∞ < … < −0 < +0 < … < +∞ (R259). -/
def before (x y : Num) : Bool :=
  let c := cmpNum x y
  decide (c < 0) || (decide (c = 0) && isNeg x && !isNeg y)
def minNum (x y : Num) : Num :=
  match x, y with
  | .nan, y => y
  | x, .nan => x
  | x, y => if before y x then y else x
def maxNum (x y : Num) : Num :=
  match x, y with
  | .nan, y => y
  | x, .nan => x
  | x, y => if before x y then y else x
/-- Compare conditions with the unordered pair (R262). -/
def fcmpHolds (c : FCond) (x y : Num) : Bool :=
  let un := x == .nan || y == .nan
  let k := cmpNum x y
  match c with
  | .eq => !un && k == 0
  | .ne => un || k != 0
  | .lt => !un && decide (k < 0)
  | .le => !un && decide (k ≤ 0)
  | .gt => !un && decide (0 < k)
  | .ge => !un && decide (0 ≤ k)
  | .un => un
  | .ord => !un

/-! ### Powers and logarithms of 2 (R285), to 400 bits, the lowest bit telling that digits follow -/

def workBits : Nat := 400
/-- The sum of y^k ÷ k! from term k on, in fixed point with workBits fraction bits. -/
def expTerms (y : Nat) : Nat → Nat → Nat → Nat
  | 0, _, _ => 0
  | fuel + 1, k, term => term + expTerms y fuel (k + 1) (term * y / 2 ^ workBits / (k + 1))
/-- ln 2 in fixed point: the sum of 1 ÷ (k × 2^k). -/
def ln2Terms : Nat → Nat → Nat
  | 0, _ => 0
  | fuel + 1, k => 2 ^ workBits / (k * 2 ^ k) + ln2Terms fuel (k + 1)
def ln2 : Nat := ln2Terms 410 1
/-- 2^x for an x that is no integer: integer part i, fraction f in fixed point. -/
def pow2 (i : Int) (f : Nat) : Num :=
  let y := f * ln2 / 2 ^ workBits
  .fin false (2 * expTerms y 100 0 (2 ^ workBits) + 1) 1 (i - workBits - 1)
def exp2Num : Num → Num
  | .nan => .nan
  | .zero _ => .fin false 1 1 0
  | .inf s => if s then .zero false else .inf false
  | .fin s n d e =>
    let big := decide (16 < e + log2Ratio n d)
    if big then (if s then .fin false 1 1 (-131072) else .fin false 1 1 131072)
    else
      let (a, b) := scaleRatio n d e
      let q : Int := if s then -((a / b : Nat) : Int) else (a / b : Nat)
      if a % b = 0 then .fin false 1 1 q
      else
        let r := a % b * 2 ^ workBits / b
        if s then pow2 (q - 1) (2 ^ workBits - r - 1) else pow2 q r
/-- Binary digits of log2 of y, 1 ≤ y < 2 in fixed point of 512 bits, by squaring. -/
def logDigits : Nat → Nat → Nat → Nat
  | 0, _, acc => acc
  | fuel + 1, y, acc =>
    let z := y * y / 2 ^ 512
    if 2 ^ 513 ≤ z then logDigits fuel (z / 2) (2 * acc + 1) else logDigits fuel z (2 * acc)
def log2Num : Num → Num
  | .nan => .nan
  | .zero _ => .inf true
  | .inf s => if s then .nan else .inf false
  | .fin s n d e =>
    if s then .nan
    else
      let k := log2Ratio n d
      let (a, b) := scaleRatio n d (-k)
      if a = b then ofInt (e + k)
      else
        let f := logDigits 192 (a * 2 ^ 512 / b) 0
        let t : Int := ((e + k) * (2 ^ 192 : Nat) + f) * 2 + 1
        dyadic (t < 0) t.natAbs (-193)

/-! ### Values in row words (R228) -/

/-- The row word of a code: zeros above the width, or copies of the sign for S16 and S32. -/
def fmtWord (f : Fmt) (code : Nat) : Word :=
  match f with
  | .s16 => (BitVec.ofNat 16 code).signExtend 64
  | .s32 => (BitVec.ofNat 32 code).signExtend 64
  | f => w64 (code % 2 ^ fmtWidth f)
/-- The code of a format in a row word. -/
def fmtCodeOf (f : Fmt) (w : Word) : Nat := bits w 0 (fmtWidth f)
def fmtValue (f : Fmt) (w : Word) : Num := decodeNum f (fmtCodeOf f w)
/-- A result rounded once into dfmt as a row word (R253). -/
def roundWord (f : Fmt) (rnd : Rnd) (x : Num) : Word := fmtWord f (roundTo f rnd false x)

end Sys2Proof.Machine
end

