-- ==== Sys2Proof/Machine/Flags.lean ====
section
/-!
DEFINITION. What sets a predicate: the integer and floating compare conditions (R220, R262), the predicate
functions (R221), and the class mask of fclass (R261).
-/

namespace Sys2Proof.Machine

/-- The integer compare conditions (R220). -/
def condHolds (c : Cond) (x y : Word) : Bool :=
  match c with
  | .eq => x == y
  | .ne => x != y
  | .lt => x.slt y
  | .le => x.sle y
  | .gt => y.slt x
  | .ge => y.sle x
  | .ltz => x.ult y
  | .lez => x.ule y
  | .gtz => y.ult x
  | .gez => y.ule x

/-- A chain whose whole effect is a predicate (R220, R221, R262): every other bit of d2 but QCNT is unchanged. -/
def predChain (c : Ctl) (pd : BitVec 4) (s : State) (v : State → Bool) : Host.Outcome State Fault Refusal :=
  chain c s fun s => advance c (setPred s pd (v s))

/-- The class mask of a code of a format (R261). -/
def classMask (f : Fmt) (code : Nat) : Nat :=
  let v := code % 2 ^ fmtWidth f
  if isTapered f then
    match decodeTapered f v with
    | .zero _ => 2 ^ 4
    | .nan => 2 ^ 10
    | .inf _ => 0
    | .fin neg _ _ _ => if neg then 2 ^ 1 else 2 ^ 6
  else
    let p := binPrec f
    let neg := v.testBit (fmtWidth f - 1)
    let ex := v / 2 ^ (p - 1) % 2 ^ (fmtWidth f - p)
    let fr := v % 2 ^ (p - 1)
    if ex = 2 ^ (fmtWidth f - p) - 1 then
      (if fr = 0 then (if neg then 2 ^ 0 else 2 ^ 7) else if fr.testBit (p - 2) then 2 ^ 9 else 2 ^ 8)
    else if ex = 0 then
      (if fr = 0 then (if neg then 2 ^ 3 else 2 ^ 4) else if neg then 2 ^ 2 else 2 ^ 5)
    else if neg then 2 ^ 1 else 2 ^ 6

end Sys2Proof.Machine
end

