-- ==== Sys2Proof/Machine/Operands.lean ====
section
/-!
DEFINITION. Operand forms: immediates, PC-relative targets, memory operands, register triples, sizes of access
types, sign-bit operations on codes, and the values of atomics (R45, R52, R57, R106, R179, R183, R260).
-/

namespace Sys2Proof.Machine

/-- An immediate as 64 bits, sign-extended (R45, R218). -/
def immWord (imm : Int) : Word := BitVec.ofInt 64 imm
/-- A branch target: instruction address plus 4 times a signed word offset (R52, R223). -/
def branchTarget {n : Nat} (s : State) (off : BitVec n) : Word := pc s + (off.signExtend 64 <<< 2)

/-- Access sizes and signs of the types (R57). -/
def ldSize : LdType → Nat
  | .s8 => 1 | .z8 => 1 | .s16 => 2 | .z16 => 2 | .s32 => 4 | .z32 => 4 | .d64 => 8
def ldSigned : LdType → Bool
  | .s8 => true | .s16 => true | .s32 => true | _ => false
def stSize : StType → Nat
  | .b8 => 1 | .h16 => 2 | .w32 => 4 | .d64 => 8
/-- The address of a memory operand: base register plus immediate times the access size (R179). -/
def memAddr (s : State) (ra : Reg) (size : Nat) (off : Int) : Word := readReg s ra + BitVec.ofInt 64 (off * size)
/-- Bytes of an atomic (R183). -/
def amoSize (m : MemMod) : Nat := if m.w32 then 4 else 8

/-- The register after one in its window (R106). -/
def regPlus (r : Reg) (i : Nat) : Reg := ⟨r.win, r.num + BitVec.ofNat 5 i⟩
/-- The triple of a data-moving command: destination, source, length word (R106). -/
def triple (s : State) (ra : Reg) : Word × Word × Word :=
  (readReg s ra, readReg s (regPlus ra 1), readReg s (regPlus ra 2))

/-- Floor division of signed numbers as 64-bit words: the high half of a signed product (R216). -/
def mulHigh (a b : Word) : Word := BitVec.ofInt 64 (Int.fdiv (a.toInt * b.toInt) (2 ^ 64 : Nat))
def mulHighU (a b : Word) : Word := w64 (a.toNat * b.toNat / 2 ^ 64)
/-- div, divz, rem, remz without fault (R216). -/
def divSigned (a b : Word) : Word := if b = 0 then BitVec.allOnes 64 else BitVec.ofInt 64 (Int.tdiv a.toInt b.toInt)
def divUnsigned (a b : Word) : Word := if b = 0 then BitVec.allOnes 64 else w64 (a.toNat / b.toNat)
def remSigned (a b : Word) : Word := if b = 0 then a else BitVec.ofInt 64 (Int.tmod a.toInt b.toInt)
def remUnsigned (a b : Word) : Word := if b = 0 then a else w64 (a.toNat % b.toNat)
/-- Counts (R216). -/
def leadingZeros (a : Word) : Nat := if a = 0 then 64 else 63 - Nat.log2 a.toNat
def trailingZeros (a : Word) : Nat := ((List.range 64).find? fun i => a.getLsbD i).getD 64
def onesCount (a : Word) : Nat := (setBits 64 a.toNat).length
def byteSwap (a : Word) : Word := w64 (leNat (leBytes 8 a.toNat).reverse)
/-- Bit fields: position, and length clipped at bit 63 (R217). -/
def fieldPos (b : Word) : Nat := bits b 0 6
def fieldLen (b : Word) : Nat := min (bits b 8 8) (64 - fieldPos b)
def extractSigned (a b : Word) : Word :=
  let k := fieldLen b
  let v := bits a (fieldPos b) k
  if k = 0 then 0 else if v.testBit (k - 1) then w64 (v + (2 ^ 64 - 2 ^ k)) else w64 v
def extractUnsigned (a b : Word) : Word := w64 (bits a (fieldPos b) (fieldLen b))
def insertField (old a b : Word) : Word := putBits old (fieldPos b) (fieldLen b) a.toNat

/-- A sign-bit operation on the code of a format: the new sign from the old one; a tapered 0 or NR is kept
(R260). -/
def signOp (f : Fmt) (code : Nat) (newSign : Bool → Bool) : Nat :=
  let w := fmtWidth f
  let v := code % 2 ^ w
  let mag := v % 2 ^ (w - 1)
  if isTapered f && mag = 0 then v else mag + (if newSign (v.testBit (w - 1)) then 2 ^ (w - 1) else 0)

/-- The binary32 sum of fadd (R183): nearest-even, NaN and the sum of opposite infinities give 0x7FC00000. -/
def fadd32 (a b : Nat) : Nat := roundTo .f32 .rne false (addNum .rne (decodeNum .f32 a) (decodeNum .f32 b))
/-- An n-byte number read as signed. -/
def signedOf (n v : Nat) : Int := if v.testBit (8 * n - 1) then (v : Int) - (2 ^ (8 * n) : Nat) else v
/-- The new value of an atomic of n bytes (R183). -/
def amoNew (op : AmoOp) (n old b : Nat) : Nat :=
  match op with
  | .add => (old + b) % 2 ^ (8 * n)
  | .min => if signedOf n old ≤ signedOf n b then old else b
  | .max => if signedOf n old ≤ signedOf n b then b else old
  | .minz => min old b
  | .maxz => max old b
  | .and => old &&& b
  | .or => old ||| b
  | .xor => old ^^^ b
  | .swap => b
  | .cas => b
  | .inc => if b ≤ old then 0 else old + 1
  | .fadd => if n = 4 then fadd32 old b
      else fadd32 (old % 2 ^ 32) (b % 2 ^ 32) + fadd32 (old / 2 ^ 32) (b / 2 ^ 32) * 2 ^ 32
/-- An atomic writes its location, except a cas whose comparand differs (R183). -/
def amoWrites (op : AmoOp) (old cmp : Nat) : Bool := !(op == .cas && old != cmp)

end Sys2Proof.Machine
end

