-- ==== Sys2Proof/Machine/Rows.lean ====
section
/-!
DEFINITION. Rows from outside: the commands of the control word (R195 to R200), placement in banks and the cellar,
what becomes of outstanding operations when a row freezes, leaves and resumes (R419 to R426), replies (R174, R175),
and outside accesses to a row image (R194, R201, R202).
-/

namespace Sys2Proof.Machine

/-! ### Launches (R335) -/

def launchList (s : State) (q : Nat) : List Launch := mapGet s.launches q []
def setLaunchList (s : State) (q : Nat) (l : List Launch) : State := { s with launches := mapSet s.launches q l }
def launchIdAt (s : State) (l : Loc) : Nat := bits (locWord s l 3) 24 16
def findLaunch (s : State) (q id : Nat) : Option Launch := (launchList s q).find? fun x => x.id == id
def putLaunch (s : State) (q : Nat) (x : Launch) : State :=
  setLaunchList s q ((launchList s q).map fun y => if y.id = x.id then x else y)
/-- The launch of a row where it lies. -/
def launchAt (s : State) (l : Loc) : Option Launch := findLaunch s (locId s l).part (launchIdAt s l)
/-- A row enters or leaves DONE: the count of its launch's rows that are not DONE follows, and at zero the launch
is complete (R335). -/
def countDone (s : State) (l : Loc) (done : Bool) : State :=
  match launchAt s l with
  | none => s
  | some x =>
    let i := (locId s l).lrow - x.base
    let f := if done then (if x.finished.contains i then x.finished else i :: x.finished)
      else x.finished.filter (· != i)
    let s := putLaunch s (locId s l).part { x with finished := f }
    if f.length = x.rows then send s (.launchComplete (locId s l).part x.id) else s

/-! ### Logs (R463) -/

/-- The bank logs a discarded command, store or response in the coherence trace: event 6, with the agent of the row's
executor (R195, R420, log 68). -/
def logDiscard (s : State) (r : RowId) : State :=
  let e := match locate s r with | .bank pr => execOf pr | _ => execOf (entryRow (rowEntry s r))
  traceCoh s r.part 6 3 (agentOf e) (rowSpace + 2 ^ 34 * r.part + 1024 * r.lrow)

/-! ### Watches dropped (R195, R355, R419) -/

/-- A watch of a row is dropped: d14 := 0, its slot is freed, its cluster forgets it and, when no row there watches
the line any longer, tells the home (R89, R195). -/
def dropWatchAt (s : State) (l : Loc) : State :=
  if bits (locWord s l 14) 0 2 = 0 then s
  else
    let r := locId s l
    let s := setLocWord s l 14 0
    let slots := (busySlots s l).filter fun i => slotKind s l i == 0x0A
    let s := slots.foldl (fun s i => clearSlot s l i) s
    (List.range 0x81).foldl (fun s c =>
      let mine := (cluster s c).watches.filter fun w => w.1 == r
      let s := if mine.isEmpty then s else dropWatch s c r
      mine.foldl (fun s w =>
        if watching s c (lineOf w.2.2) then s
        else send s (.evictionNotice c (ownInc c) (lineOf w.2.2))) s) s

/-! ### Placement (R198 to R200) -/

/-- A bank row that names no row: a slot that closed a row which has left its bank. -/
def noRow : Nat := 2 ^ 40
/-- The image of a bank row is gone: no slot retains it. -/
def forgetSlots (s : State) (pr : Nat) : State :=
  match slotOf s pr with
  | some k =>
    let x := slot s (execOf pr) k
    setSlot s (execOf pr) k (if x.st = .retained then Slot.init else { x with row := noRow })
  | none => s
/-- What is left of a bank row's stall (R203, R253). -/
def stallLeft (s : State) (pr : Nat) : Nat := (((exec' s (execOf pr)).stalls.find? fun p => p.1 == pr).map (·.2)).getD 0
/-- A row leaves its bank row; what is left of its stall it serves where it comes into a bank again (log 91). -/
def dropRow (s : State) (pr : Nat) : State :=
  let r := rowId s pr
  let n := stallLeft s pr
  let s := if n = 0 then s else { s with stalls := (r, n) :: s.stalls.filter fun p => p.1 != r }
  let s := { forgetSlots (unqueue s pr) pr with rows := mapDel s.rows pr }
  let x := exec' s (execOf pr)
  setExec s (execOf pr) { x with stalls := x.stalls.filter fun p => p.1 != pr }
/-- An image of 128 words in a partition's cellar (R198): whole blocks, under its key slot A (log 67). -/
def storeImage (s : State) (q pa : Nat) (im : Image) : State := merge s pa (imgBytes im) (keyA s q)
def loadImage (s : State) (pa : Nat) : Image := imgOf (homeBytes s pa 1024)
/-- An image leaves bank row pr for cellar image k; the row-table entry names executor e (R198). -/
def toCellar (s : State) (r : RowId) (pr k e : Nat) : State :=
  let im := rowImage s pr
  let s := dropRow s pr
  setRowEntry (storeImage s r.part (cellBase (part s r.part) + 1024 * k) im) r (cellEntry k (2048 * e + pr % 2048))
/-- A pre-emption request for the row's partition stands on the cluster of a bank row. -/
def preempted (s : State) (pr : Nat) : Bool :=
  !isCtl (execOf pr) && (cluster s (clusterOf (execOf pr))).pre.any fun x => x.part == (rowId s pr).part
/-- PREEMPT (bit 3) becomes pending in a row on a cluster that is asked for (R417). -/
def notePreempt (s : State) (pr : Nat) : State :=
  if preempted s pr then arriveWord s (rowId s pr) (.bank pr) 10 (rowWord s pr 10 ||| 8#64) else s
/-- A bank takes a new or moved row of the partition: not while its cluster has been evicted or frozen for it (log 31). -/
def bankTakes (s : State) (q e : Nat) : Bool :=
  isCtl e || (!(cluster s (clusterOf e)).evicted.contains q &&
    !(cluster s (clusterOf e)).pre.any fun x => x.part == q && 2 ≤ x.stage)
/-- A bank brings in PARKED rows of the partition: not from a pre-emption request until the restore (R417). -/
def bringsIn (s : State) (q e : Nat) : Bool :=
  isCtl e || (!(cluster s (clusterOf e)).evicted.contains q && !(cluster s (clusterOf e)).pre.any fun x => x.part == q)
/-- What a row has still to serve of a stall that began in another bank row (R203, R253). -/
def resumeStall (s : State) (r : RowId) (pr : Nat) : State :=
  match s.stalls.find? fun p => p.1 == r with
  | none => s
  | some (_, n) =>
    let x := exec' s (execOf pr)
    setExec { s with stalls := s.stalls.filter fun p => p.1 != r } (execOf pr) { x with stalls := (pr, n) :: x.stalls }
/-- An image comes into bank row pr (R199). -/
def intoBank (s : State) (r : RowId) (pr : Nat) (im : Image) : State :=
  let s := setRowEntry { s with rows := mapSet s.rows pr im } r (bankEntry pr)
  claimFollows (notePreempt (resumeStall s r pr) pr) r (execOf pr)
/-- An image comes from the cellar into bank row pr: its blocks are read from the stack (R61, R199). -/
def cellarToBank (s : State) (r : RowId) (pr pa : Nat) : State :=
  let s := checkRange s r.part pa 1024
  intoBank s r pr (loadImage s pa)
/-- A row becomes PARKED or is no longer: the order in which rows were parked (R199). -/
def noteParked (s : State) (r : RowId) (add : Bool) : State :=
  let p := part s r.part
  setPart s r.part { p with parked := p.parked.filter (· != r) ++ (if add then [r] else []) }

/-! ### Responses of a row that is frozen or leaves (R420 to R426) -/

/-- The done-table place that a slot's request is kept at: a home slice, 256 + d for the hub of die d, 264 for row
images. -/
def donePlace (s : State) (q : Nat) (o : OpRec) (die : Nat) : Option Nat :=
  match o.req, o.post, o.access with
  | some r, _, _ => some (homeOf (part s q) r.pa)
  | none, some _, _ => some (256 + die)
  | none, none, some _ => some 264
  | none, none, none => none
/-- The commit of a slot's key (R424). -/
def sendCommit (s : State) (r : RowId) (i tag die : Nat) : State :=
  match opRec s r i with
  | some o =>
    match donePlace s r.part o die with
    | some p => send s (.commit p r tag)
    | none => s
  | none => s
/-- The chain after a blocking instruction becomes the PC once its reply is written (R349). -/
def passReply (s : State) (l : Loc) (i : Nat) : State :=
  match opRec s (locId s l) i with
  | some o => if o.blocking then setLocWord s l 1 o.na else s
  | none => s
/-- A row waits at an instruction that holds a slot until its reply (R349). -/
def awaitsReply (s : State) (r : RowId) : Bool := s.ops.any fun o => o.row == r && o.blocking
/-- The PC is set from outside: no reply moves it any longer (R195). -/
def unblock (s : State) (r : RowId) : State :=
  { s with ops := s.ops.map fun o => if o.row = r then { o with blocking := false } else o }
/-- A value written into a destination row word: 0 names none, and d32 discards it. -/
def writeDest (s : State) (l : Loc) (dest : Nat) (v : Word) : State :=
  if dest = 0 || dest = 32 then s else setLocWord s l dest v
/-- The same by a returning result, which ends a watch of the row on that word (R202, R354). -/
def arriveDest (s : State) (r : RowId) (l : Loc) (dest : Nat) (v : Word) : State :=
  if dest = 0 || dest = 32 then s else arriveWord s r l dest v
/-- The access kind of d5 for a slot's KIND (R196, R400). -/
def accOfKind (k : Nat) : Nat :=
  match k with
  | 1 => 2
  | 2 => 3
  | 3 => 4
  | 0x0A => 7
  | 0x0B => 8
  | _ => 5
/-- The acquire that waited for a slot's value is made, at the executor where the row lies (R170, R179). -/
def acquireAfter (s : State) (p : Reply) (e : Nat) : State :=
  match (opRec s p.row p.slot).bind fun o => o.acq with
  | some sc => acquireAt (observeCopies s p.row) e sc
  | none => s
/-- A held response is written into its DEST, and its acquire is made (R170, R185); a class R slot becomes FREE, a class A slot
COMMIT (R421, R426). A poisoned or refused one leaves its destination. -/
def writeHeldOne (s : State) (pr : Nat) (p : Reply) : State :=
  let l := Loc.bank pr
  if slotHas s l p.slot p.tag then
    if p.refuse ≠ 0 then clearSlot s l p.slot
    else
      let s := acquireAfter s p (execOf pr)
      let bad := p.poison ≠ 0
      let s := if bad then { s with
        late := s.late ++ [(p.row, 16 * accOfKind (slotKind s l p.slot) + (p.poison - 1), slotAddr s l p.slot)] }
        else writeDest s l (slotDest s l p.slot) p.value
      let s := passReply s l p.slot
      if slotClass s l p.slot = 2 then
        setSlotState { s with ops := s.ops.map fun o =>
          if o.row = p.row ∧ o.slot = p.slot then { o with blocking := false, acq := none } else o } l p.slot 4
      else clearSlot s l p.slot
  else s
def writeHeld (s : State) (pr : Nat) : State :=
  let e := execOf pr
  let r := rowId s pr
  let mine := (exec' s e).hold.filter fun p => p.row == r
  let s := setExec s e { exec' s e with hold := (exec' s e).hold.filter fun p => p.row != r }
  mine.foldl (fun s p => writeHeldOne s pr p) s
/-- R421 steps 1 and 2: held responses are written, and every class R or A slot still ISSUED becomes REPLAY. -/
def leaveBank (s : State) (pr : Nat) : State :=
  let s := writeHeld s pr
  let l := Loc.bank pr
  (List.range 8).foldl (fun s i =>
    if slotState s l i = 1 && (slotClass s l i = 0 || slotClass s l i = 2) then setSlotState s l i 3 else s) s
/-- The message that carries a request to its home or tail slice. -/
def reqMsg (kind : Nat) (r : Req) : Msg :=
  if kind = 5 ∨ kind = 6 then .appendGrant r
  else if kind = 7 then .sealArrival r
  else if kind = 8 then .tailRequest r
  else match r.op with
    | .read _ => .lineRead r
    | .reg => .registration r
    | .atomic _ _ _ => .homeAtomic r
    | .write => .writeThrough r
    | .engReg => .registration r
    | .engWrite => .engineLineWrite r
    | .append _ _ => .appendGrant r
/-- The request of a row under a tag, addressed to another executor. -/
def readdress (r : RowId) (tag e : Nat) (x : Req) : Req := if x.row = r ∧ x.tag = tag then { x with exec := e } else x
/-- The executor of a reply that is dropped and logged when it comes (R421). -/
def noExec : Nat := 1024
/-- The request of a class A slot that is still under way: in flight, or waiting at a home, a tier unit, a tail slice or in a cluster
cache. -/
def underWay (s : State) (r : RowId) (tag : Nat) : Bool :=
  let mine := fun x : Req => x.row == r && x.tag == tag
  (s.agenda.any fun m => match m with
    | .homeAtomic x => mine x
    | .appendGrant x => mine x
    | .appendWrite x => mine x
    | .sealArrival x => mine x
    | .rehomeReissue x => mine x
    | .outsideRowAccess x => x.row == r && x.tag == tag
    | .postReceive x => x.row == r && x.tag == tag
    | .forkRequest x => x.row == r && x.tag == tag
    | _ => false)
  || s.homes.any (fun (_, h) => h.waiting.any mine || h.txn.any fun t => mine t.req)
  || s.tierMiss.any (fun x => x.2.2.any mine) || s.tails.any (fun t => mine t.req)
  || s.misses.any fun m => m.ops.any fun o => mine o.2
/-- A request under way is answered to an executor: the row's present one, so that the first issue and the reissue of a class A slot are
performed once, whichever arrives first (R329, R425, DEDUCED, log 75); or none, so that a load that is issued afresh takes the later
answer (R421, R425). -/
def readdressAll (s : State) (r : RowId) (tag e : Nat) : State :=
  let f := readdress r tag e
  let g := fun x : PostReq => if x.row = r ∧ x.tag = tag then { x with exec := e } else x
  { s with
    agenda := s.agenda.map fun m => match m with
      | .homeAtomic x => .homeAtomic (f x)
      | .lineRead x => .lineRead (f x)
      | .tailRequest x => .tailRequest (f x)
      | .outsideRowAccess x => .outsideRowAccess (if x.row = r ∧ x.tag = tag then { x with exec := e } else x)
      | .appendGrant x => .appendGrant (f x)
      | .appendWrite x => .appendWrite (f x)
      | .sealArrival x => .sealArrival (f x)
      | .rehomeReissue x => .rehomeReissue (f x)
      | .postReceive x => .postReceive (g x)
      | .forkRequest x => .forkRequest (g x)
      | m => m
    homes := s.homes.map fun (k, h) => (k, { h with waiting := h.waiting.map f, txn := h.txn.map fun t => { t with req := f t.req } })
    tierMiss := s.tierMiss.map fun (u, t, l) => (u, t, l.map f)
    misses := s.misses.map fun m => { m with ops := m.ops.map fun o => (o.1, f o.2) }
    tails := s.tails.map fun t => { t with req := f t.req } }
/-- A response of a slot that is still on its way when the slot is issued again is dropped when it comes (R421). -/
def cutReplies (s : State) (r : RowId) (tag : Nat) : State :=
  { s with agenda := s.agenda.map fun m => match m with
      | .resultArrival p => if p.row = r ∧ p.tag = tag then .resultArrival { p with exec := noExec } else m
      | m => m }
/-- A load that its place answered at issue is issued again: a scratchpad is read afresh; a register is read when the reply comes
(R425, R438). -/
def readAgain (s : State) (o : OpRec) (p : Reply) : State :=
  match o.more with
  | some (.place (.spad c off) n sg) =>
    let f := Config.freeWord 0x164 s.count
    let v := extend sg n (leNat (memBytes (mapGet s.spads c []) off n))
    send { s with count := s.count + 1 } (.resultArrival (if bit f 0 then { p with poison := 3 } else { p with value := v }))
  | some (.place (.reg _) _ _) => send (setOpRec s { o with reply := none }) (.resultArrival p)
  | _ => send s (.resultArrival p)
/-- The request of a slot is issued again from the row's present executor (R425): an atomic of a cluster cache at that executor's cache,
or at the home when it has none (R184). -/
def reissueReq (s : State) (l : Loc) (e i : Nat) (r : Req) : State :=
  send s (reqMsg (slotKind s l i) { r with
    exec := e, agent := agentOf e, inc := ownInc (agentOf e),
    id := if isCtl e && (match r.op with | .atomic _ _ _ => true | _ => false) then 0 else r.id,
    op := match r.op with | .read .fill => .read .word | x => x })
/-- A REPLAY slot is reissued from the row's present executor with its tag (R425, R426). -/
def reissue (s : State) (pr i : Nat) : State :=
  let l := Loc.bank pr
  let e := execOf pr
  let r := rowId s pr
  let tag := slotTag s l i
  let s := cutReplies (setSlotState s l i 1) r tag
  match opRec s r i with
  | none => s
  | some o =>
    match o.reply with
    | some p => readAgain s o { p with exec := e }
    | none =>
      if o.more matches some (.place _ _ _) then send s (.resultArrival ⟨r, e, i, tag, 0, 0, 0, 0⟩)
      else if slotClass s l i = 2 && underWay s r tag then readdressAll s r tag e
      else
        let s := if slotClass s l i = 0 then readdressAll s r tag noExec else s
        let s := match o.req with
          | some x => reissueReq s l e i x
          | none => s
        let s := match o.access with
          | some a => if slotKind s l i = 0x0A then s else send s (.outsideRowAccess { a with exec := e })
          | none => s
        match o.post with
        | some p => send s (if o.blocking then .forkRequest { p with exec := e } else .postReceive { p with exec := e })
        | none => s
/-- R426 steps 1 to 3: held responses are written, commits are sent, REPLAY slots are reissued in index order. -/
def resumeSlots (s : State) (pr : Nat) : State :=
  let s := writeHeld s pr
  let l := Loc.bank pr
  let r := rowId s pr
  let s := (List.range 8).foldl (fun s i =>
    if slotState s l i = 4 then clearSlot (sendCommit s r i (slotTag s l i) (dieOf (execOf pr))) l i else s) s
  (List.range 8).foldl (fun s i => if slotState s l i = 3 then reissue s pr i else s) s

/-! ### Waiting instructions (R338) -/

/-- The row's claim is not waiting to be re-established (R271): no commands of it are outstanding in a pool that the row has left, and
the row is in no pool's queue with it. -/
def claimSettled (s : State) (pr : Nat) : Bool :=
  !stranded s pr && !(d11Recl (rowWord s pr 11) && (pool s (poolOf (execOf pr))).waiting.any fun x => x.1 == rowId s pr)
/-- The condition that a waiting instruction waits for. -/
def waitForMet (s : State) (pr : Nat) (w : WaitFor) : Bool :=
  match w with
  | .stop => bits (rowWord s pr 2) 18 6 == 0
  | .cpyw n => decide (bits (rowWord s pr 12) 8 8 ≤ n)
  | .vclaim => d11Valid (rowWord s pr 11) && claimSettled s pr
  | .vwait n =>
    claimSettled s pr && match ownClaim s pr with
    | none => true
    | some (_, c) => !c.cmds.any fun v => decide ((n + 2 ^ 32 - v.seq % 2 ^ 32) % 2 ^ 32 < 2 ^ 31)
/-- What a SWITCHWAIT row waits for: its waiting instruction's condition, or at a switch marker OUTS 0. -/
def switchMet (s : State) (pr : Nat) : Bool :=
  if bit (rowWord s pr 15) 39 then
    match s.waitFor.find? fun x => x.1 == rowId s pr with
    | some (_, w) => waitForMet s pr w
    | none => true
  else bits (rowWord s pr 2) 18 6 == 0
def dropWaitFor (s : State) (r : RowId) : State := { s with waitFor := s.waitFor.filter fun x => x.1 != r }
/-- A SWITCHWAIT row whose condition holds becomes READY (R338). -/
def wakeIfMet (s : State) (pr : Nat) : State :=
  if rowState s pr = stWait && switchMet s pr then makeReady (dropWaitFor s (rowId s pr)) pr else s
/-- WCONT := 1 and WN := n for a row that waits OPEN at stop, cpyw, vclaim or vwait (R338). -/
def markWcont (s : State) (pr : Nat) : State :=
  match (slotOf s pr).map fun k => (slot s (execOf pr) k).wait with
  | some (.instruction w) =>
    let n := match w with | .cpyw n => n | _ => 0
    setRowWord s pr 15 (putBits (putBits (rowWord s pr 15) 39 1 1) 34 5 n)
  | _ => s
/-- WCONT and WN clear: the instruction completes, or STOP, REDIRECT or a store to d1 (R338). -/
def clearWcont (s : State) (l : Loc) : State := setLocWord s l 15 (putBits (locWord s l 15) 34 6 0)
/-- The slot of a bank row waits for nothing any longer. -/
def endWait (s : State) (pr : Nat) : State :=
  match slotOf s pr with
  | some k => setSlot s (execOf pr) k { slot s (execOf pr) k with wait := .none }
  | none => s
/-- A row leaves whatever it waited for: its wait at an instruction, its place in a pool's queue. -/
def leaveWaits (s : State) (r : RowId) (l : Loc) : State :=
  let s := clearWcont (dropWaitFor (unblock s r) r) l
  let s := { s with pools := s.pools.map fun (k, p) => (k, { p with waiting := p.waiting.filter fun w => w.1 != r }) }
  match l with
  | .bank pr => endWait s pr
  | _ => s

/-! ### The commands of the control word (R195) -/

/-- The operand as a PC: sext(OPERAND). -/
def opPc (op : Nat) : Word := (BitVec.ofNat 48 op).signExtend 64
def rstateAt (s : State) (l : Loc) : Nat := bits (locWord s l 15) 44 4
def blkAt (s : State) (l : Loc) : Nat := bits (locWord s l 15) 41 3
def setRstate (s : State) (l : Loc) (v : Nat) : State := setLocBits s l 15 44 4 v
def setBlk (s : State) (l : Loc) (v : Nat) : State := setLocBits s l 15 41 3 v
/-- A row in a bank changes to a state: it leaves the queue, and its slot closes when it was OPEN. -/
def settleState (s : State) (pr st : Nat) : State := closeRow (unqueue s pr) pr st
/-- The state as FREEZE and PARK record it: OPEN and SWITCHWAIT as READY. -/
def recorded (st : Nat) : Nat := if st = 2 ∨ st = 3 then 1 else st

/-- START (R195). -/
def commandStart (s : State) (r : RowId) (op : Nat) : State :=
  match locate s r with
  | .bank pr =>
    let st := rowState s pr
    if st = stIdle || st = stDone then
      let s := setRowWord (leaveWaits s r (.bank pr)) pr 1 (opPc op)
      makeReady (if st = stDone then countDone s (.bank pr) false else s) pr
    else logDiscard s r
  | _ => logDiscard s r
/-- STOP (R195): a watch is dropped, a barrier arrival stays counted. -/
def commandStop (s : State) (r : RowId) : State :=
  match locate s r with
  | .bank pr =>
    let st := rowState s pr
    if 1 ≤ st && st ≤ 5 then
      let l := Loc.bank pr
      let s := leaveWaits (dropWatchAt s l) r l
      settleState (if st = stBlocked then setBlk s l 0 else s) pr stIdle
    else logDiscard s r
  | _ => logDiscard s r
/-- REDIRECT (R195). -/
def commandRedirect (s : State) (r : RowId) (op : Nat) : State :=
  match locate s r with
  | .bank pr =>
    let st := rowState s pr
    let l := Loc.bank pr
    if st = stFaulted || st = stParked then logDiscard s r
    else
      let s := setRowWord (leaveWaits s r l) pr 1 (opPc op)
      if st = stWait then makeReady s pr
      else if st = stBlocked then makeReady (setBlk (dropWatchAt s l) l 0) pr
      else s
  | _ => logDiscard s r
/-- WAKE (R195, R356). A PARKED row that was blocked at park gets BLK 0 with its RSTATE READY, as a BLOCKED one does (DESIGN CHOICE, log
90: the table names RSTATE only). -/
def commandWake (s : State) (r : RowId) : State :=
  let l := locate s r
  let st := locState s l
  let token := setLocBits s l 15 40 1 1
  match l with
  | .none => logDiscard s r
  | .cellar _ =>
    if rstateAt s l = 4 && blkAt s l = 4 then setBlk (setRstate s l 1) l 0 else logDiscard s r
  | .bank pr =>
    if st = stParked then
      (if rstateAt s l = 4 && blkAt s l = 4 then setBlk (setRstate s l 1) l 0 else logDiscard s r)
    else if st ≤ 3 then token
    else if st = stBlocked then (if blkAt s l = 4 then makeReady (setBlk s l 0) pr else token)
    else logDiscard s r
/-- What FREEZE and PARK record before a row stops: WCONT of a waiting row, RSTATE (R195, R338). -/
def recordState (s : State) (pr : Nat) : State :=
  setRstate (dropWaitFor (markWcont s pr) (rowId s pr)) (.bank pr) (recorded (rowState s pr))
/-- A DONE row that FREEZE or PARK stops is no longer DONE for its launch (R335, log 77). -/
def leaveDone (s : State) (pr : Nat) : State := if rowState s pr = stDone then countDone s (.bank pr) false else s
/-- FREEZE (R195, R419): the watch is freed, an await is executed again, FEPOCH counts. -/
def commandFreeze (s : State) (r : RowId) : State :=
  match locate s r with
  | .bank pr =>
    let st := rowState s pr
    let l := Loc.bank pr
    if st = stFrozen || st = stParked then logDiscard s r
    else
      let s := recordState (renegotiate (leaveDone s pr) pr true) pr
      let s := dropWatchAt s l
      let s := if st = stBlocked && blkAt s l = 5 then setBlk (setRstate s l 1) l 0 else s
      let s := setLocBits s l 15 48 16 (bits (locWord s l 15) 48 16 + 1)
      settleState s pr stFrozen
  | _ => logDiscard s r
/-- A command is a FREEZE that waits for the sectors of the row's partition which are being read from the tier (R72). -/
def freezeWaits (s : State) (r : RowId) (cmd : Word) : Bool := bits cmd 56 8 == 0x10 && tierBusy s r.part
/-- A FREEZE by which an eviction freezes a row of a cluster (R417, R418): the row is noted for the eviction list. -/
def freezeFor (s : State) (r : RowId) (cl : Nat) : State :=
  let x := cluster s cl
  commandFreeze (setCluster s cl { x with pre := x.pre.map fun y => { y with froze := y.froze ++ [r] } }) r
/-- The participants of a launch's domains have become fewer: each unit that has arrivals looks at its phase again (R357). -/
def recheckPhases (s : State) (l : Loc) : State :=
  sendAll s ((s.domains.filter fun u => u.part == (locId s l).part && u.launch == launchIdAt s l).flatMap fun u =>
    (u.arrived.take 1).map .barrierArrival)
/-- A resumed row takes the state of RSTATE (R197, R199); one that is DONE again counts as such (R335). -/
def resumeState (s : State) (pr st : Nat) : State :=
  if st = stReady then makeReady s pr
  else if st = stDone then recheckPhases (countDone (setRowState s pr st) (.bank pr) true) (.bank pr)
  else setRowState s pr st
/-- What THAW restores (R197): RSTATE, but a row BLOCKED in wait becomes READY. -/
def thawState (s : State) (pr : Nat) : State :=
  let l := Loc.bank pr
  if rstateAt s l = stBlocked && blkAt s l = 2 then makeReady (setBlk s l 0) pr else resumeState s pr (rstateAt s l)
/-- THAW (R197, R426). A FAULTED row is resumed from its d1, as the last paragraph of R197, R208 and R368 have it (DEDUCED, log 78:
the table of R195 would discard the command). -/
def commandThaw (s : State) (r : RowId) : State :=
  match locate s r with
  | .bank pr =>
    if rowState s pr = stFrozen then thawState (resumeSlots s pr) pr
    else if rowState s pr = stFaulted then makeReady s pr
    else logDiscard s r
  | _ => logDiscard s r
/-- A row is given to an executor of another cluster: it owes an acquire there, once the stores that it leaves behind are
acknowledged, so that it reads nothing older than its own accesses (R188, R323, log 39). -/
def owe (s : State) (r : RowId) (l : Loc) (old new : Nat) : State :=
  if agentOf old = agentOf new then s
  else
    let left := ((busySlots s l).filter fun i => slotKind s l i == 2).map fun i => (i, slotTag s l i)
    { s with owed := (r, left) :: s.owed.filter fun x => x.1 != r }
/-- A PARKED row whose image still lies in its bank goes to the cellar, when an image is free; else it waits
(R198, R421). -/
def parkImage (s : State) (r : RowId) (pr e : Nat) (again : Msg) : State :=
  match freeCell s r.part with
  | some k => noteParked (toCellar (leaveBank s pr) r pr k e) r true
  | none => if s.agenda.contains again then s else send s again
/-- PARK (R195, R198). -/
def commandPark (s : State) (r : RowId) : State :=
  match locate s r with
  | .bank pr =>
    let st := rowState s pr
    let l := Loc.bank pr
    if st = stParked then parkImage s r pr (execOf pr) (.parkCommand r)
    else
      let s := if st = stFrozen then setLocBits s l 15 33 1 1 else recordState (renegotiate (leaveDone s pr) pr true) pr
      parkImage (settleState s pr stParked) r pr (execOf pr) (.parkCommand r)
  | _ => logDiscard s r
/-- No command of a row waits any longer for its image to leave or enter a bank. -/
def dropRetries (s : State) (r : RowId) : State :=
  { s with agenda := s.agenda.filter fun m => match m with
      | .parkCommand x => x != r
      | .move x _ => x != r
      | .unpark x => x != r
      | _ => true }
/-- A parked image comes back into a bank row with RSTATE, whatever that is (R199, R426): FROZEN when FRZ is set. -/
def comeBack (s : State) (r : RowId) (pr : Nat) : State :=
  let l := Loc.bank pr
  let s := noteParked (dropRetries s r) r false
  if bit (rowWord s pr 15) 33 then setRowState (setLocBits s l 15 33 1 0) pr stFrozen
  else
    let s := resumeSlots s pr
    resumeState s pr (rstateAt s l)
/-- UNPARK (R199): it waits for a free row of the executor that the row table names, and for a restore (R417). -/
def commandUnpark (s : State) (r : RowId) : State :=
  match locate s r with
  | .bank pr => if rowState s pr = stParked then comeBack s r pr else logDiscard s r
  | .cellar pa =>
    let e := execOf (entryRow (rowEntry s r))
    match (if bringsIn s r.part e then freeRow s e else none) with
    | some pr => comeBack (cellarToBank s r pr pa) r pr
    | none => if s.agenda.contains (.unpark r) then s else send s (.unpark r)
  | .none => logDiscard s r
/-- MOVE (R200, R431). R470 leaves the duration of the image's transfer open; the model moves the whole image within the step (DESIGN
CHOICE, log 83). -/
def commandMove (s : State) (r : RowId) (op : Nat) : State :=
  if 512 ≤ op || !(clustersOf (part s r.part)).contains (op / 16) then logDiscard s r
  else
    match locate s r with
    | .bank pr =>
      let st := rowState s pr
      if st = stFrozen then
        match (if bankTakes s r.part op then freeRow s op else none) with
        | some pr' =>
          let s := leaveBank (owe s r (.bank pr) (execOf pr) op) pr
          intoBank (dropRow s pr) r pr' (rowImage s pr)
        | none =>
          if (freeCell s r.part).isSome then
            let s := setLocBits (owe s r (.bank pr) (execOf pr) op) (.bank pr) 15 33 1 1
            parkImage (setRowState s pr stParked) r pr op (.parkCommand r)
          else if s.agenda.contains (.move r (BitVec.ofNat 48 op)) then s
          else send s (.move r (BitVec.ofNat 48 op))
      else if st = stParked then
        (if s.agenda.contains (.move r (BitVec.ofNat 48 op)) then s else send s (.move r (BitVec.ofNat 48 op)))
      else logDiscard s r
    | .cellar pa =>
      let s := owe s r (.cellar pa) (execOf (entryRow (rowEntry s r))) op
      setRowEntry s r (cellEntry (bits (rowEntry s r) 32 24) (2048 * op))
    | .none => logDiscard s r

/-- A command is performed in a state of its row (R195, R200); else it is discarded. -/
def commandHolds (s : State) (r : RowId) (l : Loc) (cmd op : Nat) : Bool :=
  let st := match l with | .cellar _ => stParked | _ => locState s l
  l != .none && match cmd with
    | 0x01 => st == stIdle || st == stDone
    | 0x02 => 1 ≤ st && st ≤ 5
    | 0x03 => st != stFaulted && st != stParked
    | 0x04 => st ≤ 4 || (st == stParked && rstateAt s l == 4 && blkAt s l == 4)
    | 0x10 => st != stFrozen && st != stParked
    | 0x11 => st == stFrozen || st == stFaulted
    | 0x12 => st != stParked
    | 0x13 => st == stParked
    | 0x14 => (st == stFrozen || st == stParked) && op < 512 && (clustersOf (part s r.part)).contains (op / 16)
    | _ => false
/-- A control-word command arrives at its row (R195): one that is performed leaves CMD 0 and OPERAND as written; one that is not, or
has a reserved code, leaves the row unchanged and is logged. -/
def applyCommand (s : State) (r : RowId) (w : Word) : State :=
  let op := bits w 0 48
  let l := locate s r
  if !commandHolds s r l (bits w 56 8) op then logDiscard s r
  else
    let s := arriveWord s r l 0 (w64 (at_ (locState s l) 48 + op))
    match bits w 56 8 with
    | 0x01 => commandStart s r op
    | 0x02 => commandStop s r
    | 0x03 => commandRedirect s r op
    | 0x04 => commandWake s r
    | 0x10 => commandFreeze s r
    | 0x11 => commandThaw s r
    | 0x12 => commandPark s r
    | 0x13 => commandUnpark s r
    | _ => commandMove s r op
/-- Commands that need supervisor privilege of their writer (R195). -/
def privilegedCommand (w : Word) : Bool := 0x10 ≤ bits w 56 8 && bits w 56 8 ≤ 0x14

/-! ### Replies (R174, R175, R420) -/

/-- The reply acknowledges a write-through, which the home has entered in its done table (R423, R424). -/
def writtenThrough (s : State) (p : Reply) : Bool := ((opRec s p.row p.slot).bind fun o => o.req).any fun r => r.op == .write
/-- A reply leaves the slot of an unfrozen row: the value is written, the key of an atomic or a write-through is committed, the slot is FREE
(R174, R424); a row at a marker or waiting instruction whose condition now holds becomes READY. -/
def deliver (s : State) (l : Loc) (p : Reply) : State :=
  let kind := slotKind s l p.slot
  let s := if p.poison ≠ 0 then
      { s with late := s.late ++ [(p.row, 16 * accOfKind kind + (p.poison - 1), slotAddr s l p.slot)] }
    else if kind = 2 then s
    else arriveDest s p.row l (slotDest s l p.slot) p.value
  let s := passReply s l p.slot
  let s := if slotClass s l p.slot = 2 || writtenThrough s p then sendCommit s p.row p.slot p.tag (dieOf p.exec) else s
  clearSlot s l p.slot
/-- A refusal of an append or seal (cause SEALED_WRITE or CASK_FULL) reaches an OPEN row at its instruction: that of an append may
go to the event handler (R147), that of a seal is a fault (R145); a row in any other state executes the instruction again when
it runs. -/
def deliverRefusal (s : State) (pr : Nat) (p : Reply) : State :=
  let isSeal := slotKind s (.bank pr) p.slot == 7
  let s := clearSlot s (.bank pr) p.slot
  if rowState s pr ≠ stOpen then wakeIfMet s pr
  else if isSeal then takeFault s pr (faultOf p.refuse 0 5) false false p.addr
  else caskFault s pr (faultOf p.refuse 0 5) p.addr
/-- A reply in a bank: a frozen row's class R and A replies are held (R420), or dropped when the buffer is full. -/
def replyInBank (s : State) (pr : Nat) (p : Reply) : State :=
  let l := Loc.bank pr
  let st := rowState s pr
  let cls := slotClass s l p.slot
  if (st = stFrozen || st = stParked) && (cls = 0 || cls = 2) then
    let x := exec' s (execOf pr)
    if x.hold.length < 64 then setSlotState (setExec s (execOf pr) { x with hold := x.hold ++ [p] }) l p.slot 2
    else logDiscard (setSlotState s l p.slot 3) p.row
  else if p.refuse ≠ 0 then deliverRefusal s pr p
  else wakeIfMet (deliver (acquireAfter s p (execOf pr)) l p) pr
/-- The result of an atomic that its home has performed returns: rows of the agent that watch the word which it has written
wake (R89, R355). -/
def ownAtomic (s : State) (p : Reply) : State :=
  match (opRec s p.row p.slot).bind fun o => o.req with
  | some r => match r.op with
    | .atomic op _ cmp =>
      if p.poison = 0 && amoWrites op (p.value.toNat % 256 ^ r.size) (cmp.toNat % 256 ^ r.size) then
        ownWrite s r.agent (lineOf r.pa) (wordMask r.pa r.size) else s
    | _ => s
  | none => s
/-- A reply arrives (R174, R202, R419 to R421): class W follows the row table; class R and A go to the executor
that issued the request, and are dropped when the row has left it or its slot waits for a replay. -/
def arriveReply (s : State) (p : Reply) : State :=
  let l := locate s p.row
  if !slotHas s l p.slot p.tag then logDiscard s p.row
  else
    match l with
    | .none => logDiscard s p.row
    | .cellar _ => if slotClass s l p.slot = 1 then deliver s l p else logDiscard s p.row
    | .bank pr =>
      if inTransfer s l then { s with agenda := .resultArrival p :: s.agenda }
      else if slotState s l p.slot = 1 && (slotClass s l p.slot = 1 || execOf pr = p.exec) then
        replyInBank (ownAtomic (noteArrival s l) p) pr p
      else logDiscard s p.row

/-! ### Outside accesses to a row image (R194, R201, R202) -/

/-- Bytes of an image at an offset; d32 reads zero. -/
def imageBytes (s : State) (l : Loc) (off n : Nat) : Nat :=
  let w := if off / 8 = 32 then 0 else locWord s l (off / 8)
  w.toNat / 2 ^ (8 * (off % 8)) % 256 ^ n
/-- A write into an image: part of a dword, d32 discarded, a watcher of its own image woken. -/
def writeImage (s : State) (r : RowId) (l : Loc) (off n : Nat) (v : Nat) : State :=
  if off / 8 = 32 then s
  else
    let s := setLocWord s l (off / 8) (patchWord (locWord s l (off / 8)) (off % 8) n v)
    wakeOwnWatch s r l off n
/-- Head words that another agent may store to (R191): d1, d2, d5 to d10. -/
def isPw (n : Nat) : Bool := n == 1 || n == 2 || (5 ≤ n && n ≤ 10)
/-- The defined bits of a PW word (R8, R191, R288, R362, R364, R400). -/
def pwBits (w : Nat) : Word :=
  match w with
  | 5 => w64 (at_ 0xFF 56 + at_ 0xFFFF 32 + at_ 7 8 + 0xFF)
  | 7 => w64 (at_ (2 ^ 41 - 1) 23 + 0xFFFF)
  | 9 => w64 (at_ (2 ^ 47 - 1) 17 + 0xFFFF)
  | 10 => eventBits
  | _ => BitVec.allOnes 64
/-- An outside store applied (R194): a PW word only in the states that stand still, and of d2 only PRED; reserved bits stay zero. -/
def applyStore (s : State) (a : RowAccess) (l : Loc) (n : Nat) (v : Word) : State :=
  let w := a.off / 8
  let st := locState s l
  if w = 0 then applyCommand s a.target v
  else if 32 ≤ w then writeImage s a.target l a.off n v.toNat
  else if !isPw w || a.priv = 0 || !(st = stIdle || st ≥ stFaulted) then logDiscard s a.target
  else
    let old := locWord s l w
    let new := patchWord old (a.off % 8) n v.toNat
    let s := arriveWord s a.target l w (if w = 2 then putBits old 0 16 (bits new 0 16) else new &&& pwBits w)
    if w = 1 then clearWcont (unblock s a.target) l else s
/-- The recorded result of a key in a done table (R423). -/
def doneFind (s : State) (p : Nat) (r : RowId) (tag : Nat) : Option DoneEnt :=
  (mapGet s.done p []).find? fun d => d.row == r && d.tag == tag
def doneAdd (s : State) (p : Nat) (d : DoneEnt) : State := { s with done := mapSet s.done p (d :: mapGet s.done p []) }
/-- What an outside access does at its target, and the value it returns (R194, R201, R367). -/
def applyAccess (s : State) (a : RowAccess) (l : Loc) : State × Word :=
  match a.op with
  | .load n sg => (s, extend sg n (imageBytes s l a.off n))
  | .store n v => (applyStore s a l n v, 0)
  | .amo n op b cmp =>
    match doneFind s 264 a.row a.tag with
    | some d => (s, d.result)
    | none =>
      let old := imageBytes s l a.off n
      let s := if amoWrites op old (cmp.toNat % 256 ^ n) then
          writeImage s a.target l a.off n (amoNew op n old (b.toNat % 256 ^ n)) else s
      (doneAdd s 264 ⟨a.row, a.tag, 1, zextBytes n old, 0⟩, zextBytes n old)
  | .evset b => (arriveWord s a.target l 10 (locWord s l 10 ||| (b.setWidth 64 <<< 16)), 0)
  | .rowctl c =>
    let s := applyCommand s a.target c
    (s, locWord s (locate s a.target) 0)
/-- The access writes a FREEZE that has to wait (R72). -/
def accessWaits (s : State) (a : RowAccess) : Bool :=
  match a.op with
  | .store _ v => a.off / 8 == 0 && freezeWaits s a.target v
  | .rowctl c => freezeWaits s a.target c
  | _ => false
/-- An outside access arrives (R201, R202): at a row that is gone it is not applied, a load and an atomic return
zero; the answer goes to the accessing row's slot. -/
def arriveAccess (s : State) (a : RowAccess) : State :=
  let l := locate s a.target
  if inTransfer s l || accessWaits s a then { s with agenda := .outsideRowAccess a :: s.agenda }
  else
    let (s, v) := if l = .none then (logDiscard s a.target, 0) else applyAccess (noteArrival s l) a l
    if a.slot < 8 then send s (.resultArrival ⟨a.row, a.exec, a.slot, a.tag, v, 0, 0, 0⟩) else s

end Sys2Proof.Machine
end

