-- ==== Sys2Proof/Machine/RowEvents.lean ====
section
/-!
DEFINITION. The meanings of the control-word commands and of what happens at a row's boundary: replies, late checks,
events, closings and openings, breakpoints, decoding and fetch faults (R195 to R202, R334 to R342, R364, R460).
-/

namespace Sys2Proof.Machine

/-! ### Commands (R195) -/

/-- START. -/
def execStart (r : RowId) (op : BitVec 48) (s : State) : Host.Outcome State Fault Refusal :=
  .next (commandStart s r op.toNat)
/-- STOP. -/
def execStopCommand (r : RowId) (s : State) : Host.Outcome State Fault Refusal := .next (commandStop s r)
/-- REDIRECT. -/
def execRedirect (r : RowId) (op : BitVec 48) (s : State) : Host.Outcome State Fault Refusal :=
  .next (commandRedirect s r op.toNat)
/-- WAKE. -/
def execWake (r : RowId) (s : State) : Host.Outcome State Fault Refusal := .next (commandWake s r)
/-- FREEZE; while a sector of the partition is being read from the tier it waits (R72). -/
def execFreeze (r : RowId) (s : State) : Host.Outcome State Fault Refusal :=
  .next (if tierBusy s r.part then send s (.freeze r) else commandFreeze s r)
/-- THAW. -/
def execThaw (r : RowId) (s : State) : Host.Outcome State Fault Refusal := .next (commandThaw s r)
/-- PARK. -/
def execParkCommand (r : RowId) (s : State) : Host.Outcome State Fault Refusal := .next (commandPark s r)
/-- UNPARK. -/
def execUnpark (r : RowId) (s : State) : Host.Outcome State Fault Refusal := .next (commandUnpark s r)
/-- MOVE. -/
def execMove (r : RowId) (op : BitVec 48) (s : State) : Host.Outcome State Fault Refusal :=
  .next (commandMove s r op.toNat)

/-! ### Arrivals -/

/-- An outside access arrives at a row image (R202). -/
def execOutsideRowAccess (a : RowAccess) (s : State) : Host.Outcome State Fault Refusal := .next (arriveAccess s a)

/-! ### Boundaries of an OPEN row (R364) -/

/-- The row of slot k of executor e is OPEN at a boundary. -/
def openIn (s : State) (e k : Nat) : Option Nat :=
  let x := slot s e k
  if x.st = .opened && rowState s x.row == stOpen then some x.row else none
/-- A row stands OPEN in a slot that is neither opening nor closing. -/
def openRow (s : State) (r : RowId) : Option Nat :=
  match locate s r with
  | .bank pr =>
    match slotOf s pr with
    | some k => openIn s (execOf pr) k
    | none => none
  | _ => none
/-- A late CHECK is due (R175). -/
def lateDue (s : State) (r : RowId) : Option (Nat × Word) :=
  (s.late.find? fun x => x.1 == r && decide (x.2.1 < 256)).map fun x => x.2
/-- The row faults CHECK late (R175): its first pending poisoned reply or refused registration. -/
def execLateCheck (r : RowId) (s : State) : Host.Outcome State Fault Refusal :=
  .next (match openRow s r, lateDue s r with
    | some pr, some (code, addr) =>
      let s := { s with late := dropFirst (fun x => x.1 == r && decide (x.2.1 < 256)) s.late }
      takeFault s pr ⟨cCheck, code % 16, 0, code / 16, 7⟩ true false addr
    | _, _ => s)

/-! ### Closings (R338, R339) -/

/-- The launch quantum and slot limit of a row; a row without a launch has the widest. -/
def quantumOf (s : State) (pr : Nat) : Nat :=
  min ((launchAt s (.bank pr)).map (·.quant) |>.getD 255) (part s (rowId s pr).part).pquant.toNat
def slotLimitOf (s : State) (pr : Nat) : Nat := (launchAt s (.bank pr)).map (·.slots) |>.getD 4
def pslotsOf (s : State) (pr : Nat) : Nat := (part s (rowId s pr).part).pslots.toNat
/-- A row in the ready queue is seen by the closings: one that did not enter since the last cycle (R374). -/
def queueWaits (s : State) (e : Nat) : Bool := (exec' s e).queue.any fun y => !(exec' s e).entered.contains y
/-- A row leaves its slot for READY: it enters the queue and its slot closes (R338, R342). -/
def closeReady (s : State) (pr : Nat) : State := closeSlot (makeReady s pr) pr
/-- The quantum is reached at the boundary that ends a chain (R338, R339). -/
def quantumDue (s : State) (e k : Nat) : Bool :=
  match openIn s e k with
  | some pr => (slot s e k).ended && (slot s e k).wait == .none && !awaitsReply s (rowId s pr)
      && decide (quantumOf s pr ≤ bits (rowWord s pr 2) 24 8) && queueWaits s e
  | none => false
/-- The slot lies at or above the limit: its row closes at its boundary, at which it also stands while it waits (R338, R349). -/
def limitDue (s : State) (e k : Nat) : Bool :=
  match openIn s e k with
  | some pr => decide (pslotsOf s pr ≤ k)
  | none => false
def waitingDue (s : State) (e k : Nat) : Bool :=
  match openIn s e k, (slot s e k).wait with
  | some pr, .instruction w => !waitForMet s pr w && queueWaits s e
  | _, _ => false
/-- The quantum closing (R338). -/
def execQuantumClosing (e k : Nat) (s : State) : Host.Outcome State Fault Refusal :=
  .next (if quantumDue s e k then closeReady s (slot s e k).row else s)
/-- The limit closing (R338); a row that waits at an instruction finishes its wait afterwards (log 38). -/
def execLimitClosing (e k : Nat) (s : State) : Host.Outcome State Fault Refusal :=
  .next (if limitDue s e k then
      let pr := (slot s e k).row
      closeReady (match (slot s e k).wait with | .instruction _ => markWcont s pr | _ => s) pr
    else s)
/-- The waiting-instruction closing: WCONT and WN are set (R338). -/
def execWaitingInstructionClosing (e k : Nat) (s : State) : Host.Outcome State Fault Refusal :=
  .next (if waitingDue s e k then
      let pr := (slot s e k).row
      match (slot s e k).wait with
      | .instruction w =>
        let s := markWcont s pr
        closeRow { s with waitFor := s.waitFor ++ [(rowId s pr, w)] } pr stWait
      | _ => s
    else s)
/-- A SWITCHWAIT row's condition has come about (R338). -/
def execWaitConditionMet (r : RowId) (s : State) : Host.Outcome State Fault Refusal :=
  .next (match locate s r with
    | .bank pr => wakeIfMet s pr
    | _ => s)

/-! ### The bank (R337, R339 to R342, R199) -/

def headTransfer (s : State) (e : Nat) : Option (Bool × Nat) := (exec' s e).xfer.head?
/-- A transfer of slot k is at its end. -/
def transferDone (s : State) (e k : Nat) (isOpening : Bool) : Bool :=
  headTransfer s e == some (isOpening, k) && (slot s e k).left == 0
def popTransfer (s : State) (e : Nat) : State := setExec s e { exec' s e with xfer := (exec' s e).xfer.drop 1 }
/-- The write-back ends: the slot is RETAINED, or EMPTY when its row has left the bank (R339). -/
def execClosingDone (e k : Nat) (s : State) : Host.Outcome State Fault Refusal :=
  .next (if transferDone s e k false then
      let x := slot s e k
      setSlot (popTransfer s e) e k (if x.row = noRow then Slot.init else { x with st := .retained, left := 0 })
    else s)
/-- OPEN rows of the launch of a row on its executor (R340). -/
def openOfLaunch (s : State) (pr : Nat) : Nat :=
  let e := execOf pr
  ((List.range 4).filter fun k =>
    let x := slot s e k
    (x.st == .opened || x.st == .opening) && rowState s x.row == stOpen && launchIdAt s (.bank x.row) == launchIdAt s (.bank pr)
      && (rowId s x.row).part == (rowId s pr).part).length
def underLimit (s : State) (pr : Nat) : Bool := openOfLaunch s pr < slotLimitOf s pr
/-- The slot that the bank takes for an opening: the lowest EMPTY one, else the lowest RETAINED one, below PSLOTS
(R340). -/
def slotToOpen (s : State) (pr : Nat) : Option Nat :=
  let e := execOf pr
  let below := (List.range 4).filter fun k => k < pslotsOf s pr
  match below.find? fun k => (slot s e k).st == .empty with
  | some k => some k
  | none => below.find? fun k => (slot s e k).st == .retained
/-- The slot that retains the head's image and in which it opens in place (R341). -/
def placeDue (s : State) (e k : Nat) : Bool :=
  match (exec' s e).queue.head? with
  | some pr => (slot s e k).st == .retained && (slot s e k).row == pr && decide (k < pslotsOf s pr) && underLimit s pr
  | none => false
/-- A row takes a slot: OPEN, QCNT 0, out of the queue (R340, R341); what is left of a stall holds it on (R203, R253, R336). -/
def occupy (s : State) (pr k : Nat) (st : SlotSt) (left stall : Nat) : State :=
  let e := execOf pr
  let x := exec' s e
  let stall := max stall (((x.stalls.find? fun p => p.1 == pr).map (·.2)).getD 0)
  let s := setExec s e { x with stalls := x.stalls.filter fun p => p.1 != pr }
  let s := setRowWord (unqueue s pr) pr 2 (putBits (rowWord s pr 2) 24 8 0)
  let s := setSlot s e k { Slot.init with st := st, row := pr, left := left, stall := stall }
  setRowState s pr stOpen
def openingDue (s : State) (e : Nat) : Option (Nat × Nat) :=
  match (exec' s e).queue.head? with
  | some pr =>
    if (exec' s e).xfer.isEmpty && (exec' s e).asked.isEmpty && underLimit s pr && !(List.range 4).any (placeDue s e) then
      (slotToOpen s pr).map fun k => (pr, k)
    else none
  | none => none
/-- The bank starts opening the head of the queue (R340): 8 cycles. -/
def execOpening (e : Nat) (s : State) : Host.Outcome State Fault Refusal :=
  .next (match openingDue s e with
    | some (pr, k) =>
      let s := occupy s pr k .opening 8 0
      setExec s e { exec' s e with xfer := (exec' s e).xfer ++ [(true, k)] }
    | none => s)
/-- The opening ends: the row is eligible from the next cycle (R340). -/
def execOpeningDone (e k : Nat) (s : State) : Host.Outcome State Fault Refusal :=
  .next (if transferDone s e k true then setSlot (popTransfer s e) e k { slot s e k with st := .opened, left := 0 } else s)
/-- An opening has started for the cycle that comes next (R340). -/
def openingStarts (s : State) (e : Nat) : Bool :=
  match headTransfer s e with
  | some (true, k) => (slot s e k).left == 8
  | _ => false
/-- The head opens in the slot that still retains its image; it is eligible from the next cycle (R341): from the one that comes, or,
when it became the head by an opening that starts with that one, from the one after it. -/
def execOpenInPlace (e k : Nat) (s : State) : Host.Outcome State Fault Refusal :=
  .next (if placeDue s e k then occupy s (slot s e k).row k .opened 0 (num (openingStarts s e)) else s)
/-- A PARKED READY row that the row table assigns to an executor, in the order of parking (R199); none while a
pre-emption request for its partition stands on the cluster (R417). -/
def bringable (s : State) (e : Nat) : Option RowId :=
  ((s.parts.flatMap fun (_, p) => p.parked).filter fun r =>
    match locate s r with
    | .cellar pa =>
      let d15 := memWord s (pa + 120)
      execOf (entryRow (rowEntry s r)) == e && bits d15 44 4 == stReady && !bit d15 33 && bringsIn s r.part e
    | _ => false).head?
/-- The bank brings in a PARKED row (R199). -/
def execBringIn (e : Nat) (s : State) : Host.Outcome State Fault Refusal :=
  .next (match bringable s e, freeRow s e with
    | some r, some pr =>
      match locate s r with
      | .cellar pa => comeBack (cellarToBank s r pr pa) r pr
      | _ => s
    | _, _ => s)

/-! ### Halting and breakpoints (R459, R460) -/

/-- Clusters that halt with a cluster: itself and, over and over, what XTGT names. -/
def haltSet (s : State) : Nat → List Nat → List Nat
  | 0, l => l
  | n + 1, l => haltSet s n ((l ++ l.flatMap fun c => setBits 32 (cluster s c).xtgt.toNat).dedup)
/-- A cluster halts with a cause, and its cross-trigger targets with cause 3 (R459). -/
def haltCluster (s : State) (c cause : Nat) : State :=
  (haltSet s 32 [c]).foldl (fun s t =>
    let x := cluster s t
    if x.halted then s
    else setCluster s t { x with halted := true, stepping := false,
                                 dbgCause := BitVec.ofNat 2 (if t = c then cause else 3) }) s
def breakDue (s : State) (e k : Nat) : Bool :=
  match openIn s e k with
  | some pr =>
    let x := cluster s (clusterOf e)
    !isCtl e && !(slot s e k).bpPass && x.bps.any fun b => bit b 0 && rowWord s pr 1 == (b &&& ~~~3#64)
      && (!bit b 1 || decide ((rowId s pr).lrow = x.dbgRow.toNat))
  | none => false
/-- A breakpoint matches before a chain issues (R460). -/
def execBreakpointMatch (e k : Nat) (s : State) : Host.Outcome State Fault Refusal :=
  .next (if breakDue s e k then haltCluster (setSlot s e k { slot s e k with bpPass := true }) (clusterOf e) 2 else s)

/-! ### Faults of decoding and fetching -/

/-- A word or chain that decodes to a reserved encoding: ILLEGAL whatever its guard, with the word offset (R39, R53,
R56). -/
def execReservedEncoding (word : Nat) (s : State) : Host.Outcome State Fault Refusal :=
  .next (fault s ⟨cIllegal, 0, word, 0, 7⟩ (pc s))
/-- The fetch of a chain's word faults, at that word's address (R44, R55). -/
def execFetchFault (word cause info lvl : Nat) (s : State) : Host.Outcome State Fault Refusal :=
  .next (fault s ⟨cause, info, 0, 1, lvl⟩ (pc s + w64 (4 * word)))

end Sys2Proof.Machine
end

