-- ==== Sys2Proof/Machine/Cache.lean ====
section
/-!
DEFINITION. Cluster caches and the caches of the hub die: ages and eviction, misses, stores and their registrations,
watches woken by a cluster's own writes (R165 to R172, R224, R355).
-/

namespace Sys2Proof.Machine

/-! ### Ages and eviction (R165, R168) -/

def setOf (line : Nat) : Nat := line % 1024
/-- The lines of an agent in a set. -/
def waysOf (s : State) (agent set : Nat) : List (Nat × CLine) :=
  (s.caches.filter fun (k, _) => k / 2 ^ 40 == agent && setOf (k % 2 ^ 40) == set).map fun (k, x) => (k % 2 ^ 40, x)
/-- A use of a line: its age is 0, and every way that was more recent grows older (log 17). -/
def useLine (s : State) (agent line : Nat) : State :=
  match cline? s agent line with
  | none => s
  | some x =>
    { s with caches := s.caches.map fun (k, y) =>
        if k = lineKey agent line then (k, { y with age := 0 })
        else if k / 2 ^ 40 = agent ∧ setOf (k % 2 ^ 40) = setOf line ∧ y.age < x.age then (k, { y with age := y.age + 1 })
        else (k, y) }
/-- A line leaves a cluster cache: unregistered words are discarded, registered ones go home (R81, R168); a cache of
the hub die tells the home (R90). A fill of the line that is on its way may be older than the words that leave: it is asked
for again behind them (R323). -/
def evictLine (s : State) (agent line : Nat) : State :=
  let x := cline s agent line
  let s := dropCline s agent line
  if writesThrough agent then send s (.evictionNotice agent (ownInc agent) line)
  else if x.rg = 0 then s
  else
    let s := { s with misses := s.misses.map fun m => if m.agent = agent ∧ m.line = line then { m with evicted := true } else m }
    send s (.evictionWriteback agent (ownInc agent) line x.rg x.words.toList)
/-- Room for a line in its set: a line of a full set of a cluster cache, the oldest, leaves (R165). -/
def makeWay (s : State) (agent line : Nat) : State :=
  let ways := waysOf s agent (setOf line)
  if writesThrough agent || ways.length < 16 || (cline? s agent line).isSome then s
  else
    match ways.foldl (fun (m : Option (Nat × CLine)) w =>
      match m with
      | none => some w
      | some v => if v.2.age < w.2.age then some w else some v) none with
    | some (v, _) => evictLine s agent v
    | none => s
/-- The line present: allocated empty at age 0, or at age 15 for a stream (R169). -/
def allocLine (s : State) (agent line : Nat) (hint : Hint) : State :=
  if (cline? s agent line).isSome then s
  else
    let s := makeWay s agent line
    let s := setCline s agent line { CLine.init with age := 15 }
    if hint = .strm then s else useLine s agent line

/-! ### Words that a cache drops -/

/-- Words dropped from a cache with their registrations, and fills on their way that would bring them back (R175). -/
def dropWords (s : State) (agent line : Nat) (mask : BitVec 32) : State :=
  let s := match cline? s agent line with
    | some x => setCline s agent line { x with v := x.v &&& ~~~mask, rg := x.rg &&& ~~~mask }
    | none => s
  { s with misses := s.misses.map fun m => if m.agent = agent ∧ m.line = line then { m with cleared := true } else m }

/-- The unregistered words that an atomic or write of this agent has changed at the home are dropped (R188). -/
def dropStale (s : State) (agent line : Nat) (mask : BitVec 32) : State :=
  dropWords s agent line (mask &&& ~~~(cline s agent line).rg)

/-! ### Misses (R166) -/

/-- The line request that a new access joins: one before a clearing serves no later load (R171). -/
def missOf (s : State) (agent line : Nat) : Option Miss :=
  s.misses.find? fun m => m.agent == agent && m.line == line && !m.cleared
/-- A line request can be made or merged: at most 64 of a cache are outstanding. -/
def missRoom (s : State) (agent line : Nat) : Bool :=
  (missOf s agent line).isSome || (s.misses.filter fun m => m.agent == agent).length < 64
/-- Accesses join the line request that missOf names. -/
def joinMiss (agent line : Nat) (ops : List (Bool × Req)) : List Miss → List Miss
  | [] => []
  | m :: l => if m.agent = agent ∧ m.line = line ∧ m.cleared = false then { m with ops := m.ops ++ ops } :: l
    else m :: joinMiss agent line ops l
/-- A request for the whole line, merged with one outstanding; the access waits in it. The first access's hint, key and
class decide for the line (DESIGN CHOICE, log 70: the spec does not say whose do). -/
def addMiss (s : State) (r : Req) (st : Bool) (op : Option (Bool × Req)) : State :=
  let line := lineOf r.pa
  match missOf s r.agent line with
  | some _ => { s with misses := joinMiss r.agent line op.toList s.misses }
  | none =>
    send { s with misses := s.misses ++ [⟨r.agent, line, false, false, op.toList, st, r.key, r.hint⟩] }
      (.lineRead { r with op := .read .fill, pa := 128 * line, size := 128, slot := 8 })

/-! ### Loads and stores in a cluster cache (R166, R167) -/

def bytesMask (r : Req) : BitVec 32 := wordMask r.pa r.size
/-- Every word of the access has V set. -/
def hits (s : State) (r : Req) : Bool :=
  let m := bytesMask r
  (cline s r.agent (lineOf r.pa)).v &&& m == m
def lineValue (x : CLine) (r : Req) : Word := extend r.signed r.size (leNat (lineRange x (r.pa % 128) r.size))
def replyTo (r : Req) (v : Word) (poison : Nat) : Msg := .resultArrival ⟨r.row, r.exec, r.slot, r.tag, v, poison, 0, 0⟩
/-- The store covers part of a word that has no value: the line is filled first (R167). -/
def needsFill (s : State) (r : Req) : Bool := r.size < 4 && !hits s r
/-- The words of a line whose registration the home has not acknowledged to the cache. -/
def pendingMask (s : State) (agent line : Nat) : BitVec 32 :=
  (s.regs.filter fun p => p.agent == agent && p.line == line).foldl (fun m p => m ||| p.mask) 0
/-- A dword of which one word is registered and the other is not: the registered word is given back home first, as an
eviction gives it, and one registration takes both words, so that the store enters co at one point (R317, DEDUCED, log 71). -/
def splitStore (s : State) (r : Req) : Bool :=
  let m := bytesMask r
  let rg := (cline s r.agent (lineOf r.pa)).rg &&& m
  r.size == 8 && rg != 0 && rg != m
/-- The words that a store of an agent replaces, as its rows may still fetch them (R224): the cache's own or the current ones. -/
def lostWords (s : State) (line : Nat) (x : CLine) (m : BitVec 32) : List (Nat × W32) :=
  (setBits 32 m.toNat).map fun i =>
    (128 * line + 4 * i, if x.v.getLsbD i then cword x i else wordNow s (128 * line + 4 * i))
/-- A write of a cluster cache: data written, V and RG set, one registration for the new words, watches woken; and the
identifiers of the registrations that cover its words and are not acknowledged (R167). ST and KEY stay those of the
translation that filled the line (R165). -/
def cacheWrite (s : State) (r : Req) : State × List Nat :=
  let line := lineOf r.pa
  let old := (cline? s r.agent line).isSome
  let s := useLine (allocLine s r.agent line r.hint) r.agent line
  let x := cline s r.agent line
  let m := bytesMask r
  let new := if splitStore s r then m else m &&& ~~~x.rg
  let s := if splitStore s r then send s (.evictionWriteback r.agent (ownInc r.agent) line (x.rg &&& m) x.words.toList) else s
  let s := rememberStale s r.agent false (lostWords s line x m)
  let s := setCline s r.agent line { putBytes x (r.pa % 128) r.data with
    v := x.v ||| m, rg := x.rg ||| m, key := if old then x.key else BitVec.ofNat 6 r.key }
  let s := ownWrite s r.agent line m
  let s := if new = 0 then s
    else
      let id := s.regNext
      send { s with regNext := id + 1, regs := s.regs ++ [⟨id, r.agent, line, new, r.part, r.row, r.tag⟩] }
        (.registration { r with op := .reg, mask := new, id := id })
  (s, (s.regs.filter fun p => p.agent == r.agent && p.line == line && p.mask &&& m != 0).map fun p => p.id)
/-- A store accepted by a cluster cache: acknowledged at once, or when its registrations are (R167). -/
def storeCache (s : State) (r : Req) : State :=
  let (s, ids) := cacheWrite s r
  if ids = [] then send s (replyTo r 0 0)
  else { s with stores := s.stores ++ [⟨r.row, r.exec, r.slot, r.tag, r.va, ids, false⟩] }
/-- The side record of an operation that has been performed keeps its reply: a replay answers with it (R184, R329). -/
def performedNow (s : State) (p : Reply) : State :=
  { s with ops := s.ops.map fun o =>
      if o.row = p.row ∧ o.slot = p.slot then { o with req := none, reply := some p } else o }
/-- An atomic at row or cluster scope, performed in the cluster cache on valid words (R184): once, even across a freeze. -/
def atomicCache (s : State) (r : Req) (op : AmoOp) (b cmp : Word) : State :=
  let old := leNat (lineRange (cline s r.agent (lineOf r.pa)) (r.pa % 128) r.size)
  let s := if amoWrites op old (cmp.toNat % 256 ^ r.size) then
      (cacheWrite s { r with data := leBytes r.size (amoNew op r.size old (b.toNat % 256 ^ r.size)) }).1 else s
  let p : Reply := ⟨r.row, r.exec, r.slot, r.tag, zextBytes r.size old, 0, 0, 0⟩
  send (performedNow s p) (.resultArrival p)
/-- An atomic reaches the cluster cache in which it is performed (R184): its words are obtained first if they are not valid. -/
def cacheAtomic (s : State) (r : Req) : State :=
  match r.op with
  | .atomic o b cmp =>
    if hits s r then atomicCache s r o b cmp
    else if missRoom s r.agent (lineOf r.pa) then addMiss s r false (some (false, r)) else sendAgain s (.homeAtomic r)
  | _ => s
/-- An atomic that waits for a fill. -/
def isAtomic (op : Bool × Req) : Bool := !op.1 && match op.2.op with | .atomic _ _ _ => true | _ => false
/-- An access that waited for a fill is served from the filled line: a load, an atomic, or a part store. -/
def serveOp (s : State) (x : CLine) (bad : Nat) (op : Bool × Req) : State :=
  let r := op.2
  if bad ≠ 0 then send s (replyTo r 0 bad)
  else if op.1 then storeCache s r
  else match r.op with
    | .atomic o b cmp => atomicCache s r o b cmp
    | _ => send s (replyTo r (lineValue x r) 0)

/-! ### Messages that reach a cache -/

/-- The poison code of the block that an access lies in, from the two block marks of a fill (R166). -/
def blockMark (poison keymiss : BitVec 2) (pa : Nat) : Nat :=
  let i := pa / 64 % 2
  if poison.getLsbD i then 1 else if keymiss.getLsbD i then 2 else 0
/-- The words of the good blocks of a fill. -/
def goodWords (poison keymiss : BitVec 2) : BitVec 32 :=
  (if blockMark poison keymiss 0 = 0 then 0xFFFF#32 else 0) ||| (if blockMark poison keymiss 64 = 0 then 0xFFFF0000#32 else 0)
/-- A fill arrives (R166, R167, R171): words without RG are written, V set unless a clearing came in between, and the
accesses that wait are served in order. A line that was evicted since is asked for again behind its write-back (R323); an atomic, whose
word may have been changed at its home after a clearing, obtains it anew (R184, R324). -/
def execLineFill (agent line : Nat) (data : List W32) (poison keymiss : BitVec 2) (s : State) :
    Host.Outcome State Fault Refusal :=
  .next (match s.misses.find? fun m => m.agent == agent && m.line == line with
    | none => s
    | some m =>
      let rest := dropFirst (fun x : Miss => x.agent == agent && x.line == line) s.misses
      match (if m.evicted then m.ops.head? else none) with
      | some (_, r) =>
        send { s with misses := rest ++ [{ m with evicted := false, cleared := false }] }
          (.lineRead { r with op := .read .fill, pa := 128 * line, size := 128, slot := 8 })
      | none =>
      let cleared := m.cleared || m.evicted
      let s := allocLine { s with misses := rest } agent line m.hint
      let x := cline s agent line
      let put := ~~~x.rg &&& goodWords poison keymiss
      let y := putWords x put data
      let y := { y with v := if cleared then x.v else x.v ||| put, key := BitVec.ofNat 6 m.key,
                        st := m.st }
      let s := setCline s agent line y
      let again := if cleared then m.ops.filter isAtomic else []
      let s := (m.ops.filter fun op => !again.contains op).foldl (fun s op =>
        let now := cline s agent line
        let seen := if cleared then putWords now (put &&& ~~~now.rg) data else now
        let have_ := if cleared then now.v ||| put else now.v
        let bad := if bytesMask op.2 &&& ~~~have_ = 0 then 0 else blockMark poison keymiss op.2.pa
        -- a part store after a clearing works on the delivered words
        let s := if cleared && bad = 0 && op.1 then setCline s agent line { seen with v := now.v ||| bytesMask op.2 } else s
        serveOp s seen bad op) s
      again.foldl (fun s op => addMiss s op.2 m.st (some op)) s)

/-- A registration is over for the stores that wait for it, and others take its place: the stores that wait for none any longer are
acknowledged, or fault late (R167, R175). -/
def settleStores (s : State) (id : Nat) (others : List Nat) (bad : Bool) : State :=
  let upd := s.stores.map fun w => if w.ids.contains id then
      { w with ids := w.ids.filter (· != id) ++ others, bad := w.bad || bad } else w
  let (done, rest) := upd.partition fun w => w.ids.isEmpty
  done.foldl (fun s w => arriveReply s ⟨w.row, w.exec, w.slot, w.tag, 0, if w.bad then 2 else 0, 0, 0⟩)
    { s with stores := rest }
/-- An acknowledgement of a registration (R167, R175, R424): refused words lose V and RG, stores that it covers are
acknowledged or fault late. -/
def execRegistrationAck (agent id : Nat) (refused : BitVec 32) (s : State) : Host.Outcome State Fault Refusal :=
  .next (match s.regs.find? fun p => p.id == id && p.agent == agent with
    | none => s
    | some p =>
      let s := { s with regs := s.regs.filter fun x => x.id != id }
      let s := if refused = 0 then s else dropWords s agent p.line refused
      settleStores (send s (.commit (homeOf (part s p.part) (128 * p.line)) p.row p.tag)) id [] (refused != 0))

/-- A recall reaches a cluster cache (R168): the registered words of the mask go home, RG clears, V stays. A word whose
registration is still on its way is not held: its older value is on its way home (R81). -/
def execRecall (agent line : Nat) (mask : BitVec 32) (s : State) : Host.Outcome State Fault Refusal :=
  let x := cline s agent line
  let m := x.rg &&& mask &&& ~~~(pendingMask s agent line)
  let s := if m = 0 then s else setCline s agent line { x with rg := x.rg &&& ~~~m }
  .next (send s (.recallWriteback agent (ownInc agent) line m x.words.toList))

/-- A forward reaches a registrant (R82, R168): the current values, RG left set. -/
def execForward (agent line : Nat) (mask : BitVec 32) (s : State) : Host.Outcome State Fault Refusal :=
  let x := cline s agent line
  .next (send s (.forwardReply agent (ownInc agent) line (x.rg &&& mask &&& ~~~(pendingMask s agent line)) x.words.toList))

/-- An invalidation reaches an agent (R89, R90). With `replace` it is the loss of the whole keeper entry (R91): every agent
that the entry names is invalidated with every word. -/
def execInvalidation (agent line : Nat) (mask : BitVec 32) (replace : Bool) (s : State) :
    Host.Outcome State Fault Refusal :=
  .next (if replace then replaceKeepers s (ownerPart s (128 * line)) line
    else
      let (s, kept) := invalidateAt s agent line mask false
      send s (.invalidationAck agent (ownInc agent) line kept))

end Sys2Proof.Machine
end

