-- ==== Sys2Proof/Machine/Tails.lean ====
section
/-!
DEFINITION. Tail entries of cask pages and what the tail slice does: grants, the writes of a granted append, seals,
the rack maps and their frames (R133 to R158).
-/

namespace Sys2Proof.Machine

/-! ### Tail entries (R135, R136) -/

/-- The address of a page's tail entry in the tail area. -/
def entryPlace (s : State) (q page : Nat) : Nat := tailAddr (part s q) (65536 * page)
/-- A tail entry, in the cache of its tail slice or in the tail area. -/
def tailEntry (s : State) (q page : Nat) : Word :=
  (mapGet? s.tailCache (entryPlace s q page)).getD (memWord s (entryPlace s q page))
def teGen (e : Word) : Nat := bits e 48 16
def teRacked (e : Word) : Nat := bits e 44 4
def teState (e : Word) : Nat := bits e 42 2
def tePend (e : Word) : Nat := bits e 34 8
def teTail (e : Word) : Nat := bits e 0 17
def teWith (e : Word) (st pend tl : Nat) : Word := putBits (putBits (putBits e 42 2 st) 34 8 pend) 0 17 tl
/-- The tail slice and home die of a page (R133). -/
def tailSlice (s : State) (q page : Nat) : Nat := homeOf (part s q) (65536 * page)
/-- The home slice of the page whose entry lies at a place of a tail area. -/
def sliceOfEntry (s : State) (a : Nat) : Option Nat :=
  (s.parts.find? fun (_, p) => inTail p a).map fun (_, p) => homeOf p (pbase p + (a - tailBase p) / 8 * 65536)
/-- Entries leave the caches for the tail area (R136). -/
def writeEntries (s : State) (l : List (Nat × Word)) : State :=
  l.foldl (fun s x => setMemWord { s with tailCache := mapDel s.tailCache x.1 } x.1 x.2) s
/-- Every cached entry of a partition is written back. -/
def flushTails (s : State) (q : Nat) : State := writeEntries s (s.tailCache.filter fun x => inTail (part s q) x.1)
/-- A tail entry is written in its slice's cache, which holds 512: a freely chosen one without appends in progress makes room
(R136). Without room it is written to the area. -/
def setTailEntry (s : State) (q page : Nat) (e : Word) : State :=
  let a := entryPlace s q page
  if (mapGet? s.tailCache a).isSome || s.tailCache.length < 512 then { s with tailCache := mapSet s.tailCache a e }
  else
    let mine := s.tailCache.filter fun x => sliceOfEntry s x.1 == some (tailSlice s q page)
    let out := mine.filter fun x => tePend x.2 == 0
    if mine.length < 512 then { s with tailCache := mapSet s.tailCache a e }
    else match out with
      | [] => setMemWord s a e
      | v :: _ =>
        let (s, f) := draw s 0x136
        let s := writeEntries s [nth out (f.toNat % out.length) v]
        { s with tailCache := mapSet s.tailCache a e }
def homeDie (s : State) (q page : Nat) : Nat := tailSlice s q page / 64
/-- The unit that writes page-table entries for tail slices (log 68). -/
def tailUnit : Nat := 0x85
/-- The reply of a cask request, or its refusal with a cause and a fault address. -/
def caskReply (r : Req) (v : Word) (poison refuse : Nat) (addr : Word) : Msg :=
  .resultArrival ⟨r.row, r.exec, r.slot, r.tag, v, poison, refuse, addr⟩
/-- A key that the tail slice has recorded is answered (R159, R423). -/
def tailDone (s : State) (r : Req) : Option DoneEnt := doneFind s (homeOf (part s r.part) r.pa) r.row r.tag
/-- The done table of the tail slice has no free entry (R423). -/
def tailFull (s : State) (r : Req) : Bool :=
  decide (16384 ≤ (mapGet s.done (homeOf (part s r.part) r.pa) []).length)

/-! ### Grants, seals and tails (R144 to R146) -/

/-- An append is granted or refused (R144). -/
def grantNow (s : State) (r : Req) : State :=
  let page := r.pa / 65536
  let e := tailEntry s r.part page
  let sz := r.data.length
  let o := (teTail e + sz - 1) / sz * sz
  if teState e ≠ 1 then send s (caskReply r 0 0 cSealed (w64 r.va))
  else if 65536 < o + sz then send s (caskReply r 0 0 cFull (w64 (r.va + o)))
  else
    let pad := o - teTail e
    let s := setTailEntry s r.part page (teWith e 1 (tePend e + 1) (o + sz))
    let s := doneAdd s (homeOf (part s r.part) r.pa) ⟨r.row, r.tag, 2, w64 o, r.pa⟩
    let base := { r with pa := 65536 * page + (o - pad), data := List.replicate pad 0 ++ r.data, id := o, mask := 0 }
    if pad ≠ 0 && o % 128 = 0 then
      send s (.appendWrite { base with size := pad, op := .append (65536 * page + o) false })
    else send s (.appendWrite { base with size := pad + sz, op := .append 0 true })
/-- A request waits at the tail slice: taken up (a seal that waits for PEND zero) or not yet. -/
def waitTail (s : State) (r : Req) (taken : Bool) : State :=
  { s with tails := s.tails ++ [⟨r.pa / 65536, taken, r⟩] }
/-- A seal is taken up (R145). -/
def sealNow (s : State) (r : Req) : State :=
  let page := r.pa / 65536
  let e := tailEntry s r.part page
  if teState e = 0 || teState e = 3 then send s (caskReply r 0 0 cSealed (w64 r.va))
  else
    let s := waitTail (setTailEntry s r.part page (putBits e 42 2 2)) r true
    if tePend e = 0 then send s (.sealEntryWrite page) else s
/-- An append that finds PEND at 255 waits without a grant (R144). -/
def mustWait (s : State) (r : Req) : Bool :=
  match r.op with
  | .append _ _ =>
    let e := tailEntry s r.part (r.pa / 65536)
    teState e == 1 && tePend e == 255 && decide ((teTail e + r.data.length - 1) / r.data.length * r.data.length + r.data.length ≤ 65536)
  | _ => false
/-- A request of a page is served (R144 to R146): an append, a seal, or tail, which returns the entry as it stands. -/
def serveTail (s : State) (r : Req) : State :=
  match r.op with
  | .append _ _ => grantNow s r
  | .read _ => send s (caskReply r (tailEntry s r.part (r.pa / 65536)) 0 0 0)
  | _ => sealNow s r
/-- The request is refused with a retry (R423). -/
def retryTail (s : State) (r : Req) : State := sendAgain s (reqMsg (match r.op with | .append _ _ => 5 | _ => 7) r)
/-- A request arrives at its tail slice, which serves a page's requests one at a time in arrival order (R144): a recorded key
is answered (R159), and behind a request that waits every later one waits. A full done table refuses with a retry (R423). -/
def tailArrive (s : State) (r : Req) : State :=
  match (match r.op with | .read _ => none | _ => tailDone s r) with
  | some d => send s (caskReply r d.result 0 0 0)
  | none =>
    if s.tails.any (fun t => t.page == r.pa / 65536 && !t.taken) || mustWait s r then waitTail s r false
    else if tailFull s r && r.op != .read .word then retryTail s r
    else serveTail s r
/-- The requests that wait at a page are served in order until one must wait on; a full done table refuses (R423). -/
def serveWaiting (s : State) (page : Nat) : State :=
  let (mine, rest) := s.tails.partition fun t => t.page == page && !t.taken
  (mine.foldl (fun (x : State × Bool) t =>
    if x.2 || mustWait x.1 t.req then (waitTail x.1 t.req false, true)
    else if tailFull x.1 t.req && t.req.op != .read .word then (retryTail x.1 t.req, false)
    else (serveTail x.1 t.req, false))
    ({ s with tails := rest }, false)).1
/-- PEND falls by one; what waited at 255 goes on, and at zero the seals that wait for it (R144, R145). -/
def appendDone (s : State) (q page : Nat) : State :=
  let e := tailEntry s q page
  let e := putBits e 34 8 (tePend e - 1)
  let s := serveWaiting (setTailEntry s q page e) page
  if tePend (tailEntry s q page) = 0 && s.tails.any (fun t => t.page == page && t.taken) then send s (.sealEntryWrite page) else s

/-- The write of a granted append is performed at its line's home (R144, R150): a write of part of a block with
another KEY is refused (R66) and the append's row faults CHECK. Padding in the line before is a write of its own; padding in the data's
own line and the data are one write, refused as one (DESIGN CHOICE, log 98). -/
def finishAppend (s : State) (r : Req) (next : Nat) (last : Bool) : State :=
  let bad := foreignPart s r.pa r.size r.key
  let s := if bad then s else arrayWrite s r.part r.pa (r.data.take r.size) r.key r.hint
  let worse : BitVec 32 := if bad then 1 else r.mask
  if last then
    let s := appendDone s r.part (r.pa / 65536)
    send s (caskReply r (w64 r.id) (if worse = 0 then 0 else 2) 0 0)
  else
    send s (.appendWrite { r with pa := next, data := r.data.drop r.size, size := r.data.length - r.size, mask := worse,
                                  op := .append 0 true })
/-- The page-table entries become CASK-SEALED and the waiting seals are answered (R145). -/
def finishSeals (s : State) (page : Nat) : State :=
  let (mine, rest) := s.tails.partition fun t => t.page == page && t.taken
  mine.foldl (fun s t =>
    let r := t.req
    let e := tailEntry s r.part page
    if tePend e ≠ 0 then { s with tails := s.tails ++ [t] }
    else
      let s := if r.id = 0 then s
        else hubWriteDword s r.part tailUnit r.id (putBits (dwordNow s r.id) 60 2 3) (block s r.id).key.toNat
      let s := doneAdd s (homeOf (part s r.part) r.pa) ⟨r.row, r.tag, 2, w64 (teTail e), r.pa⟩
      send s (caskReply r (w64 (teTail e)) 0 0 0)) { s with tails := rest }

/-! ### Rack maps (R152 to R155) -/

/-- The partition's slices on a die, and its rack frames there (R152). -/
def dieSlices (p : Part) (d : Nat) : List Nat := (slicesOf p).filter fun k => k / 64 == d
def rackFrames (p : Part) (d : Nat) : Nat := min 2048 (rackRows p * 6 * (dieSlices p d).length / 32)
/-- The physical address of a line of a rack frame on a die (R152). -/
def frameLine (p : Part) (d f line : Nat) : Nat :=
  let hx := (dieSlices p d).length
  let v := 32 * f + line % 512 / 16
  let slice := nth (dieSlices p d) (v % hx) 0
  let idx := (indexOf? (· == slice) (slicesOf p) 0).getD 0
  let u := ((flats p - rackRows p + v / (6 * hx)) * 6 + v / hx % 6) * hCount p + idx
  unitAddr p u + 128 * (line % 16)
def rackEnt (s : State) (d q page : Nat) : Option RackEnt :=
  s.racks.find? fun x => x.die == d && x.part == q && x.page == page
/-- A rack-map entry is dropped (R155). -/
def dropRack (s : State) (d page : Nat) : State :=
  { s with racks := s.racks.filter fun x => !(x.die == d && x.page == page) }
/-- A frame for a new entry: a free one, or that of the least recently used VALID entry, which goes (R155). -/
def takeFrame (s : State) (d q : Nat) : State × Option Nat :=
  let mine := s.racks.filter fun x => x.die == d && x.part == q
  match (List.range (rackFrames (part s q) d)).find? fun f => !mine.any fun x => x.frame == f with
  | some f => (s, some f)
  | none =>
    match mine.find? fun x => x.valid with
    | some x => (dropRack s d x.page, some x.frame)
    | none => (s, none)
/-- A miss on a sealed page of another die (R153): the frame's address when the entry is VALID; else the page is read
at home, and a new entry asks for a push. The GEN that a new entry takes, and that a VALID one is compared with, is the tail entry's at
that moment (DESIGN CHOICE, log 86: the rules do not say how the rack map learns it). -/
def rackLook (s : State) (d q pa : Nat) : State × Option Nat :=
  let page := pa / 65536
  if homeDie s q page = d || 4 ≤ d then (s, none)
  else
    let gen := teGen (tailEntry s q page)
    match rackEnt s d q page with
    | some x =>
      if x.valid && x.gen == gen then
        ({ s with racks := s.racks.filter (· != x) ++ [x] }, some (frameLine (part s q) d x.frame (lineOf pa)))
      else (s, none)
    | none =>
      match takeFrame s d q with
      | (s, some f) => (send { s with racks := s.racks ++ [⟨d, q, page, f, gen, false, 512⟩] } (.rackRequest d page gen), none)
      | (s, none) => (s, none)
/-- The words and marks of a rack frame's line, as the die's own home slice reads them. -/
def frameFill (s : State) (r : Req) (fa : Nat) : Msg :=
  let line := lineOf fa
  let ws := (List.range 32).map fun i => wordOfBytes (homeBytes s (128 * line + 4 * i) 4)
  let mark := fun k => BitVec.ofNat 2 (num (delivery s (128 * line) r.key == k) + 2 * num (delivery s (128 * line + 64) r.key == k))
  .lineFill r.agent (lineOf r.pa) ws (mark 1) (mark 2)

/-- A word of a rack frame, answered to a load that allocates nothing (R153, R169). -/
def frameWord (s : State) (r : Req) (a : Nat) : Msg :=
  replyTo r (extend r.signed r.size (leNat (homeBytes s a r.size))) (delivery s a r.key)

/-- The home slice of a die answers from a rack frame: the blocks that it reads are checked and a mismatch is logged (R61, R66). -/
def fromFrame (s : State) (r : Req) (a n : Nat) (answer : State → Msg) : State :=
  let s := logKeys (checkRange s r.part a n) r.part r.agent a n r.key
  send s (answer s)

/-! ### The meanings of the rack and tail steps -/

/-- A request of a cask page arrives; one with a stale incarnation is discarded (R92). -/
def caskArrive (s : State) (r : Req) : State :=
  if incOf s r.agent ≠ r.inc then traceStale s r.part r.agent r.inc (incOf s r.agent) r.pa else tailArrive s r
/-- An append arrives at its tail slice. -/
def execAppendGrant (r : Req) (s : State) : Host.Outcome State Fault Refusal := .next (caskArrive s r)
/-- A seal arrives. -/
def execSealArrival (r : Req) (s : State) : Host.Outcome State Fault Refusal := .next (caskArrive s r)
/-- The page-table entries that the seals waiting at a page name. -/
def sealEntries (s : State) (page : Nat) : List (Nat × Nat) :=
  (s.tails.filter fun t => t.page == page && t.taken && t.req.id != 0).map fun t => (t.req.id, 8)
/-- PEND is zero: the page-table entry becomes CASK-SEALED. -/
def execSealEntryWrite (page : Nat) (s : State) : Host.Outcome State Fault Refusal :=
  .next (whenFree s tailUnit (sealEntries s page) (.sealEntryWrite page) fun s => finishSeals s page)
/-- The tail entry is returned as it stands when the tail slice serves the request (R146). -/
def execTailRequest (r : Req) (s : State) : Host.Outcome State Fault Refusal := .next (caskArrive s r)
/-- A rack request arrives (R154): with an equal GEN and STATE SEALED the die's bit is set and all 512 lines are pushed, also
when the rack map has dropped its entry meanwhile; any other request is refused, and the PENDING entry goes. -/
def execRackRequest (die page gen : Nat) (s : State) : Host.Outcome State Fault Refusal :=
  let q := ownerPart s (65536 * page)
  let e := tailEntry s q page
  .next (if teState e = 2 && teGen e = gen then
      let s := setTailEntry s q page (putBits e 44 4 (teRacked e ||| 2 ^ die))
      sendAll s ((List.range 512).map fun i =>
        .rackPushLine die page gen i ((List.range 32).map fun w =>
          wordOfBytes (homeBytes s (65536 * page + 128 * i + 4 * w) 4)))
    else { s with racks := s.racks.filter fun y => !(y.die == die && y.page == page && !y.valid) })
/-- A pushed line is written into the frame, unless its GEN differs (R154). -/
def execRackPushLine (die page gen line : Nat) (data : List W32) (s : State) : Host.Outcome State Fault Refusal :=
  .next (match s.racks.find? fun x => x.die == die && x.page == page && x.gen == gen && !x.valid with
    | none => s
    | some x =>
      let fa := frameLine (part s x.part) die x.frame line
      let src := 65536 * page + 128 * line
      let put := fun (s : State) (i : Nat) =>
        let b := block s (src + 64 * i)
        let s := { s with mem := memStore s.mem (fa + 64 * i) ((data.drop (16 * i)).take 16 |>.flatMap wordBytes) }
        setBlock s (fa + 64 * i) { b with gen := keyGen s b.key, d := false, v := false }
      let s := put (put s 0) 1
      let y := { x with left := x.left - 1, valid := x.left == 1 }
      { s with racks := s.racks.map fun z => if z = x then y else z })
/-- A rack map drops an entry (R155). -/
def execRackDrop (die page : Nat) (s : State) : Host.Outcome State Fault Refusal := .next (dropRack s die page)

/-! ### CASK_CTL (R138, R157) -/

def caskAnswer (s : State) (q res : Nat) : State :=
  setPart s q { part s q with caskBusy := false, caskRes := BitVec.ofNat 2 res }
/-- INIT: a FREE page opens (R138); no other step makes a page OPEN, so that a sealed one is unsealed by being freed alone (R156). -/
def openCask (s : State) (q page : Nat) : State :=
  setTailEntry s q page (putBits (teWith (tailEntry s q page) 1 0 0) 44 4 0)
def execCaskInit (q page : Nat) (s : State) : Host.Outcome State Fault Refusal :=
  .next (if !caskPlace (part s q) page then caskAnswer s q 2
    else if teState (tailEntry s q page) ≠ 0 then caskAnswer s q 1
    else caskAnswer (openCask s q page) q 0)
/-- FREE starts the reclaim sweep: STATE FREEING (R157). -/
def execCaskFree (q page : Nat) (s : State) : Host.Outcome State Fault Refusal :=
  let e := tailEntry s q page
  .next (if !caskPlace (part s q) page then caskAnswer s q 2
    else if teState e ≠ 1 && teState e ≠ 2 then caskAnswer s q 1
    else
      let s := setTailEntry s q page (putBits e 42 2 3)
      send { s with sweeps := s.sweeps ++ [⟨q, page⟩],
                    leases := s.leases.map fun l => if l.isHome ∧ l.page = page then { l with revoking := true } else l }
        (.reclaimSweepEnd page))
/-- The sweep ends once PEND is zero and every lease of the page is gone (R157): rack entries and cached lines are
removed, GEN advances, the page is FREE: the only way out of SEALED (R156). -/
def execReclaimSweepEnd (page : Nat) (s : State) : Host.Outcome State Fault Refusal :=
  .next (match s.sweeps.find? fun x => x.page == page with
    | none => s
    | some x =>
      let e := tailEntry s x.part page
      if tePend e ≠ 0 || s.leases.any (fun l => l.isHome && l.page == page) then send s (.reclaimSweepEnd page)
      else
        let s := { s with racks := s.racks.filter fun y => y.page != page, sweeps := s.sweeps.filter (· != x) }
        let cs := clustersOf (part s x.part)
        let s := { s with
          caches := s.caches.filter fun (k, _) => !(cs.contains (k / 2 ^ 40) && k % 2 ^ 40 / 512 == page)
          misses := s.misses.map fun m => if cs.contains m.agent ∧ m.line / 512 = page then { m with cleared := true } else m }
        let s := setTailEntry s x.part page (w64 (at_ ((teGen e + 1) % 2 ^ 16) 48))
        caskAnswer s x.part 0)

end Sys2Proof.Machine
end

