-- ==== Sys2Proof/Machine/Home.lean ====
section
/-!
DEFINITION. The home slices: registrations, reads, atomics and write-throughs with their recalls, forwards and
invalidations; tier sectors; refresh; dead agents; commits; hand-overs, leases and REHOME (R61 to R97, R411, R412,
R423).
-/

namespace Sys2Proof.Machine

/-! ### What a request needs of the owners and the keepers -/

/-- The words that an owner must write back before a request proceeds (R80, R84, R85, R354). -/
def recallMask (s : State) (r : Req) (a : Nat) : BitVec 32 :=
  let g := (hline s (lineOf r.pa)).reg
  match r.op with
  | .read (.watch _ _) => ownMask g a &&& bytesMask r
  | .read _ => 0
  | .reg =>
    let mine := if a = r.agent then 0 else ownMask g a &&& r.mask
    let left := (owners g).filter fun o => o != r.agent && ownMask g o &&& ~~~r.mask != 0
    if !(owners g).contains r.agent && left.length = 2 && a = olderOwner g then ownMask g a else mine
  | .engReg => ownMask g a
  | .engWrite => 0
  | .append _ _ => ownMask g a &&& bytesMask r
  | .atomic _ _ _ => ownMask g a &&& bytesMask r
  | .write => ownMask g a &&& bytesMask r
/-- The registered words that a read is forwarded for (R82): a fill needs none that its own cache holds. -/
def forwardMask (s : State) (r : Req) (a : Nat) : BitVec 32 :=
  let g := (hline s (lineOf r.pa)).reg
  match r.op with
  | .read .fill => if a = r.agent then 0 else ownMask g a
  | .read .word => ownMask g a &&& bytesMask r
  | _ => 0
/-- The words that a request changes: what its invalidations name (R89). -/
def changeMask (r : Req) : BitVec 32 :=
  match r.op with
  | .read _ => 0
  | .reg => r.mask
  | .engReg => 0
  | .engWrite => r.mask ||| wordMask r.pa r.data.length
  | _ => bytesMask r
/-- An atomic that writes: not a failing cas, and not on a block that is delivered bad (R183). -/
def willWrite (s : State) (r : Req) : Bool :=
  match r.op with
  | .atomic op _ cmp =>
    delivery s r.pa r.key == 0 && amoWrites op (leNat (homeBytes s r.pa r.size)) (cmp.toNat % 256 ^ r.size)
  | .write => !foreignPart s r.pa r.size r.key
  | .append _ _ => !foreignPart s r.pa r.size r.key
  | _ => true

/-! ### Completing a request -/

/-- The words of a line as a read answers them: forwarded ones, else the home's. -/
def answerWord (s : State) (line : Nat) (got : List (Nat × W32)) (i : Nat) : W32 :=
  match got.find? fun p => p.1 == i with
  | some p => p.2
  | none => wordOfBytes (homeBytes s (128 * line + 4 * i) 4)
def answerWords (s : State) (line : Nat) (got : List (Nat × W32)) : List W32 := (List.range 32).map (answerWord s line got)
/-- The two block marks of a line under a key index (R62, R66). -/
def marks (s : State) (line key : Nat) (what : Nat) : BitVec 2 :=
  BitVec.ofNat 2 (num (delivery s (128 * line) key == what) + 2 * num (delivery s (128 * line + 64) key == what))
/-- A request whose blocks have another KEY is logged (R66). -/
def logMismatch (s : State) (r : Req) (pa n : Nat) : State := logKeys s r.part r.agent pa n r.key
/-- A keeper is added by a read of an agent that keeps copies (R87), but for a page homed elsewhere (R97). -/
def keepReader (s : State) (r : Req) : State :=
  let line := lineOf r.pa
  if (writesThrough r.agent || 0xC0 ≤ r.agent) && !isRemote s r.pa then keepAt s line r.agent else s
/-- The unregistered words that a cluster cache holds of an access made at the home are dropped, and fills of them on their
way install nothing: what the home has answered is never followed by an older value (R188, R323). -/
def passCache (s : State) (r : Req) : State :=
  if r.agent < 0x20 then dropStale s r.agent (lineOf r.pa) (bytesMask r) else s
/-- The answer of a read (R82, R354): a fill, a word, a compare, or nothing. -/
def finishRead (s : State) (r : Req) (got : List (Nat × W32)) : State :=
  let line := lineOf r.pa
  let s := keepReader s r
  let bytes := ((answerWords s line got).flatMap wordBytes).drop (r.pa % 128) |>.take r.size
  let d := delivery s r.pa r.key
  match r.op with
  | .read .fill =>
    send (logMismatch s r (128 * line) 128) (.lineFill r.agent line (answerWords s line got) (marks s line r.key 1) (marks s line r.key 2))
  | .read .word => send (passCache (logMismatch s r r.pa r.size) r) (replyTo r (extend r.signed r.size (leNat bytes)) d)
  | .read (.watch isAwait cmp) =>
    let v := w64 (leNat bytes)
    let s := logMismatch s r r.pa r.size
    let met := (if isAwait then cmp.ule v else v != cmp) || d != 0
    let s := if d = 0 then s else { s with late := s.late ++ [(r.row, 16 * 7 + (d - 1), w64 r.va)] }
    let s := if met then s else keepAt s line r.agent
    send s (.watchReply r.row r.slot r.tag v met)
  | _ => s
/-- Blocks of a registration whose KEY differs from the store's: their words are refused (R66, R175). -/
def refusedWords (s : State) (r : Req) : BitVec 32 :=
  let line := lineOf r.pa
  (List.range 2).foldl (fun m i =>
    if (block s (128 * line + 64 * i)).key.toNat = r.key then m
    else m ||| (r.mask &&& (0xFFFF#32 <<< (16 * i)))) 0
/-- Steps 4 and 6 of a registration (R80). -/
def finishReg (s : State) (r : Req) : State :=
  let line := lineOf r.pa
  let bad := refusedWords s r
  let s := if r.mask &&& ~~~bad = 0 then s
    else enterReg s line (register (hline s line).reg r.agent (r.mask &&& ~~~bad))
  let s := traceCoh s r.part 0 3 r.agent r.pa
  let s := doneAdd s (homeOf (part s r.part) r.pa) ⟨r.row, r.tag, 0, 0, r.pa⟩
  send s (.registrationAck r.agent r.id bad)
/-- An atomic performed at its home (R84, R183): on a block delivered bad nothing is performed, so nothing is entered in the done table,
and the reply is poisoned. Rows of the requester's cluster that watch the word wake when the result returns (R89). -/
def finishAtomic (s : State) (r : Req) (op : AmoOp) (b cmp : Word) : State :=
  let d := delivery s r.pa r.key
  let old := leNat (homeBytes s r.pa r.size)
  let w := d == 0 && amoWrites op old (cmp.toNat % 256 ^ r.size)
  let s := passCache (traceCoh s r.part 4 3 r.agent r.pa) r
  let s := if w then
      arrayWrite s r.part r.pa (leBytes r.size (amoNew op r.size old (b.toNat % 256 ^ r.size))) r.key r.hint else s
  let s := logMismatch s r r.pa r.size
  let s := if d = 0 then doneAdd s (homeOf (part s r.part) r.pa) ⟨r.row, r.tag, 1, zextBytes r.size old, r.pa⟩ else s
  send s (replyTo r (zextBytes r.size old) d)
/-- A write-through enters co (R83, R84): a part of a block with another KEY is refused (R66). -/
def finishWrite (s : State) (r : Req) : State :=
  let line := lineOf r.pa
  let bad := foreignPart s r.pa r.size r.key
  let s := if bad then dropWords (logMismatch s r r.pa r.size) r.agent line (bytesMask r)
    else arrayWrite s r.part r.pa r.data r.key r.hint
  let s := if r.slot < 8 then doneAdd s (homeOf (part s r.part) r.pa) ⟨r.row, r.tag, 0, 0, r.pa⟩ else s
  send s (replyTo r 0 (if bad then 2 else 0))
/-- ENG is set with the engine's agent as owner A (R85); a page that is homed elsewhere has no registrations here: the engine's writes go
through to its home (R97). -/
def finishEngReg (s : State) (r : Req) : State :=
  if isRemote s r.pa then s
  else enterReg s (lineOf r.pa) { RegEntry.init with eng := true, ownA := BitVec.ofNat 8 r.agent }
/-- An engine's write of its line has arrived in full: the bytes that come with it are merged, but for a part of a block with
another KEY (R66), and ENG and owner A clear (R85). Those that an engine of this module has read and written block by block
were merged as they came. -/
def finishEngWrite (s : State) (r : Req) : State :=
  let s := if r.data = [] then s
    else if foreignPart s r.pa r.data.length r.key then logMismatch s r r.pa r.data.length
    else arrayWrite s r.part r.pa r.data r.key r.hint
  let s := if r.signed then dropClusters s r.part (lineOf r.pa) else s
  setReg s (lineOf r.pa) RegEntry.init
/-- A request is performed. -/
def perform (s : State) (r : Req) (got : List (Nat × W32)) : State :=
  match r.op with
  | .read _ => finishRead s r got
  | .reg => finishReg s r
  | .atomic op b cmp => finishAtomic s r op b cmp
  | .write => finishWrite s r
  | .engReg => finishEngReg s r
  | .engWrite => finishEngWrite s r
  | .append next last => finishAppend s r next last

/-! ### Starting, progressing and draining -/

def txnOf (s : State) (line : Nat) : Option Txn := (hline s line).txn
def setTxn (s : State) (line : Nat) (t : Option Txn) : State := setHline s line { hline s line with txn := t }
/-- A line that a request must wait for: a change in progress, or ENG, but for the engine's own write (R85). -/
def lineBusy (s : State) (r : Req) : Bool :=
  let h := hline s (lineOf r.pa)
  h.txn.isSome || (h.reg.eng && match r.op with | .engWrite => h.reg.ownA.toNat != r.agent | _ => true)
/-- The agents of the hub die that hold a copy of a line homed elsewhere: its home's revoke reaches them (R96, R97). -/
def remoteHolders (s : State) (r : Req) : List Nat :=
  if isRemote s r.pa then ((s.caches.filter fun x => x.1 % 2 ^ 40 == lineOf r.pa && writesThrough (x.1 / 2 ^ 40)).map fun x => x.1 / 2 ^ 40)
  else []
/-- The agents to invalidate for a change, but the writer: the keepers of this module (R89), and every module with a lease of
the page, which is revoked (R96). An append is written by its tail slice: the appender's own agent is a keeper like the others
(R144). -/
def toInvalidate (s : State) (r : Req) : List Nat :=
  if changeMask r = 0 || !willWrite s r then []
  else
    let writer := fun a => a == r.agent && (match r.op with | .append _ _ => false | _ => true)
    ((keepersOf s r.part (hline s (lineOf r.pa)).keep (r.pa / 65536)).filter (· < 0xC0) ++ remoteHolders s r
      ++ (s.leases.filter fun l => l.isHome && l.page == r.pa / 65536).map fun l => l.holder).filter fun a => !writer a
/-- The keeper entry after a change (R89). -/
def rebuildKeepers (s : State) (r : Req) (kept : List Nat) : State :=
  if changeMask r = 0 || !willWrite s r then s
  else
    let line := lineOf r.pa
    let named := (keepersOf s r.part (hline s line).keep (r.pa / 65536)).contains r.agent
    let mine := (match r.op with | .append _ _ => false | _ => true) &&
      ((writesThrough r.agent && (named || (cline? s r.agent line).isSome)) || (r.agent < 0x20 && named))
    setKeep s line (((if mine then [r.agent] else []) ++ kept).foldl addKeeper KeepEntry.init)
/-- The last answer has come: the change is made, the entry rebuilt, the requester answered (R89). -/
def complete (s : State) (t : Txn) : State :=
  let s := setTxn s (lineOf t.req.pa) none
  let s' := perform s t.req t.got
  if changeMask t.req = 0 || !willWrite s t.req then s' else
    let line := lineOf t.req.pa
    let k := (hline (rebuildKeepers s t.req t.kept) line).keep
    if keepsNone k then setKeep s' line k else setKeep (roomKeep s' line) line k
/-- No owner's answer is awaited any longer: the keepers are invalidated, or the request is performed. -/
def invalidateStage (s : State) (t : Txn) : State :=
  let line := lineOf t.req.pa
  let ks := toInvalidate s t.req
  if ks = [] then complete s t
  else
    let s := setTxn s line (some { t with inval := true, awaiting := ks })
    ks.foldl (fun s a =>
      if 0xC0 ≤ a then
        { s with leases := s.leases.map fun l => if l.isHome ∧ l.page = t.req.pa / 65536 ∧ l.holder = a then
            { l with revoking := true } else l }
      else
        let s := traceCoh s t.req.part 2 3 a t.req.pa
        send s (.invalidation a line (changeMask t.req) false)) s
/-- The home reads what a read or an atomic needs (R61, R76). -/
def readFor (s : State) (r : Req) : State :=
  match r.op with
  | .read .fill => readArray s r.part (128 * lineOf r.pa) 128 r.hint
  | .read _ => readArray s r.part r.pa r.size r.hint
  | .atomic _ _ _ => readArray s r.part r.pa r.size r.hint
  | _ => s
/-- A request starts at a quiet line: what it reads, recalls or forwards, then invalidations (R80, R82, R84, R85). -/
def startReq (s : State) (r : Req) : State :=
  let line := lineOf r.pa
  let s := readFor s r
  let os := owners (hline s line).reg
  let rec' := os.filter fun a => recallMask s r a != 0
  let fwd := os.filter fun a => forwardMask s r a != 0
  let t : Txn := ⟨r, false, rec' ++ fwd.filter (fun a => !rec'.contains a), [], []⟩
  if t.awaiting = [] then invalidateStage s t
  else
    let s := rec'.foldl (fun s a =>
      let s := traceCoh s r.part 1 3 a r.pa
      send s (.recall a line (recallMask s r a))) s
    let s := fwd.foldl (fun s a => send s (.forward a line (forwardMask s r a))) s
    setTxn s line (some t)
/-- Waiting requests proceed in arrival order until one keeps the line busy (R85). -/
def drain (s : State) (line : Nat) : State :=
  let ws := (hline s line).waiting
  ws.foldl (fun s r =>
    let h := hline s line
    if !h.waiting.isEmpty || lineBusy s r then setHline s line { h with waiting := h.waiting ++ [r] } else startReq s r)
    (setHline s line { hline s line with waiting := [] })
/-- An awaited answer of an agent has come: a later message that it leaves unanswered is reported anew (R93). -/
def answered (s : State) (line agent : Nat) (kept : Bool) : State :=
  match txnOf s line with
  | none => s
  | some t =>
    let s := { s with deadSeen := s.deadSeen.filter (· != agent) }
    let t := { t with awaiting := t.awaiting.filter (· != agent), kept := if kept then t.kept ++ [agent] else t.kept }
    let s := setTxn s line (some t)
    if t.awaiting = [] then drain (if t.inval then complete s t else invalidateStage s t) line else s

/-! ### Arrival of requests -/

/-- A message carries another incarnation than its agent's present one (R92). -/
def staleInc (s : State) (agent inc : Nat) : Bool := incOf s agent != inc
/-- It is discarded and logged with the agent and both numbers (R92): event 5. -/
def logStale (s : State) (q agent inc pa : Nat) : State := traceStale s q agent inc (incOf s agent) pa
/-- An identifier that the device neither issues nor accepts (R4). -/
def reservedAgent (a : Nat) : Bool := (0x90 ≤ a && a < 0xC0) || 0x100 ≤ a
/-- An access to a sector that is not cached, or to a unit that is being filled, waits in the unit's miss entry; a 17th miss
of a slice is retried (R71, R72). -/
def tierWait (s : State) (p : Part) (r : Req) (again : Msg) : State :=
  let u := unitAddr p (tierUnit p r.pa) / 2048
  match s.tierMiss.find? fun m => m.1 == u with
  | some (_, tag, rs) =>
    { s with tierMiss := s.tierMiss.map fun m => if m.1 = u then (u, tag, rs ++ [r]) else m }
  | none =>
    if 16 ≤ (sliceMisses s p u).length then sendAgain s again
    else send { s with tierMiss := s.tierMiss ++ [(u, tierTag p r.pa, [r])] } (.tierFill u)
/-- A tagged request whose key its home's done table holds is answered, not performed again (R423). -/
def doneAnswer (s : State) (r : Req) : Option State :=
  let tagged := match r.op with | .atomic _ _ _ => true | .reg => true | .write => r.slot < 8 | _ => false
  if !tagged then none
  else (doneFind s (homeOf (part s r.part) r.pa) r.row r.tag).map fun d =>
    match r.op with
    | .atomic _ _ _ => send s (replyTo r d.result 0)
    | .reg => send s (.registrationAck r.agent r.id 0)
    | _ => send s (replyTo r 0 0)
/-- The done table of a home slice has no free entry (R423). -/
def doneFull (s : State) (r : Req) : Bool :=
  (match r.op with | .atomic _ _ _ => true | .reg => true | .write => r.slot < 8 | _ => false) &&
    decide (16384 ≤ (mapGet s.done (homeOf (part s r.part) r.pa) []).length)
/-- The guard band of a lease in nanoseconds (R94); 20 ppm of the length count up to a whole nanosecond (DESIGN CHOICE, log 73:
the rule gives no rounding). -/
def guardBand (l : Lease) (trans : Nat) : Nat :=
  3 + (20 * (l.expiry - l.start) + 999999) / 1000000 + 50 * (trans - l.trans)
/-- The holder may use its copy (R94). -/
def leaseUsable (s : State) (page : Nat) : Bool :=
  s.leases.any fun l => !l.isHome && l.page == page && decide (s.time + guardBand l s.hub.trans < l.expiry)
/-- A request that a hand-over refuses (R97): a registration for a page that has left, and a read of it by a cluster without a
lease. -/
def handedOver (s : State) (r : Req) : Bool :=
  isRemote s r.pa && (match r.op with
    | .reg => true
    | .read _ => decide (r.agent < 0x20) && !leaseUsable s (r.pa / 65536)
    | _ => false)
/-- A request of the agent's own that carries another incarnation or a reserved number; a granted append is written by its tail slice
(R92, R144). -/
def foreignSender (s : State) (r : Req) : Bool :=
  (staleInc s r.agent r.inc && (match r.op with | .append _ _ => false | _ => true)) || reservedAgent r.agent
/-- A request arrives at its home slice: stale incarnations and reserved agents are discarded, an old frame refuses with
REHOME, a key performed before is answered, a page that has left refuses (R97), a tier miss or a busy line is waited for. -/
def homeArrive (s : State) (r : Req) : State :=
  let p := part s r.part
  if foreignSender s r then logStale s r.part r.agent r.inc r.pa
  else if (s.rehomed.any fun x => x.1 == r.pa / 65536) then
    send (traceCoh s r.part 7 3 r.agent r.pa) (.rehomeReissue r)
  else match doneAnswer s r with
    | some s' => s'
    | none =>
      let again := match r.op with | .append _ _ => Msg.appendWrite r | _ => reqMsg 0 r
      if handedOver s r then (if r.op = .reg then send s (.rehomeReissue r) else send s again)
      else if doneFull s r then sendAgain s again
      else if inTier p r.pa && (unitMissing s p r.pa || !tierHit s p r.pa) then tierWait s p r again
      else if lineBusy s r || !(hline s (lineOf r.pa)).waiting.isEmpty then
        setHline s (lineOf r.pa) { hline s (lineOf r.pa) with waiting := (hline s (lineOf r.pa)).waiting ++ [r] }
      else drain (startReq s r) (lineOf r.pa)

/-- A load that is issued again in another cluster comes behind the stores that its row has left behind (R188, R425, log 39). -/
def behindStores (s : State) (r : Req) : Bool :=
  r.slot < 8 && r.op == .read .word && s.owed.any fun x => x.1 == r.row && x.2.any fun y => slotHas s (locate s r.row) y.1 y.2
/-- A line read arrives (R82). -/
def execLineRead (r : Req) (s : State) : Host.Outcome State Fault Refusal :=
  .next (if behindStores s r then sendAgain s (.lineRead r) else homeArrive s r)
/-- A registration arrives (R80). -/
def execRegistration (r : Req) (s : State) : Host.Outcome State Fault Refusal := .next (homeArrive s r)
/-- An atomic arrives at its home (R84), or where its request says so at its cluster cache (R184). -/
def execHomeAtomic (r : Req) (s : State) : Host.Outcome State Fault Refusal :=
  .next (if r.id = 1 then cacheAtomic s r else homeArrive s r)
/-- The write of a granted append arrives at its line's home (R144). -/
def execAppendWrite (r : Req) (s : State) : Host.Outcome State Fault Refusal := .next (homeArrive s r)
/-- A write-through arrives (R84). -/
def execWriteThrough (r : Req) (s : State) : Host.Outcome State Fault Refusal := .next (homeArrive s r)
/-- An engine's write of a line that it holds under ENG arrives (R85). -/
def engineArrive (s : State) (r : Req) : State :=
  let g := (hline s (lineOf r.pa)).reg
  if staleInc s r.agent r.inc then logStale s r.part r.agent r.inc r.pa
  else if g.eng && g.ownA.toNat == r.agent && (txnOf s (lineOf r.pa)).isNone then
    drain (invalidateStage s ⟨{ r with op := .engWrite }, false, [], [], []⟩) (lineOf r.pa)
  else s
def execEngineLineWrite (r : Req) (s : State) : Host.Outcome State Fault Refusal := .next (engineArrive s r)

/-- An owner's words are merged (R81): those still registered to it, which then are so no longer. -/
def mergeBack (s : State) (agent line : Nat) (mask : BitVec 32) (data : List W32) : State :=
  let m := ownMask (hline s line).reg agent &&& mask
  let s := mergeWords s line m data
  setReg s line (unregister (hline s line).reg agent m)
/-- The home awaits the agent's answer to a recall or a forward of the line. -/
def awaitsOwner (s : State) (line agent : Nat) : Bool :=
  (txnOf s line).any fun t => !t.inval && t.awaiting.contains agent
/-- The agent's answer was given by an eviction write-back: it is discarded (R81). -/
def wasEarly (s : State) (line agent : Nat) : Bool := (hline s line).early.contains agent
/-- A write-back answers a recall; a tier miss of its line is waited for (R72). -/
def execRecallWriteback (agent inc line : Nat) (mask : BitVec 32) (data : List W32) (s : State) :
    Host.Outcome State Fault Refusal :=
  .next (if staleInc s agent inc then logStale s (ownerPart s (128 * line)) agent inc (128 * line)
    else if !tierTakes s (128 * line) then sendAgain s (.recallWriteback agent inc line mask data)
    else
      let s := mergeBack s agent line mask data
      if wasEarly s line agent then takeEarly s line agent
      else if awaitsOwner s line agent then answered s line agent false else s)
/-- The write-back of an evicted line: a recall or a forward that finds its words already on their way in it is answered by it,
and the owner's own answer will be discarded (R81). -/
def execEvictionWriteback (agent inc line : Nat) (mask : BitVec 32) (data : List W32) (s : State) :
    Host.Outcome State Fault Refusal :=
  .next (if staleInc s agent inc then logStale s (ownerPart s (128 * line)) agent inc (128 * line)
    else if !tierTakes s (128 * line) then sendAgain s (.evictionWriteback agent inc line mask data)
    else
      let s := mergeBack s agent line mask data
      if awaitsOwner s line agent && !wasEarly s line agent && (txnOf s line).any (fun t =>
          recallMask s t.req agent == 0 && forwardMask s t.req agent == 0) then
        answered (answeredEarly s line agent) line agent false
      else s)
/-- A forward reply is merged into the response (R82). -/
def execForwardReply (agent inc line : Nat) (mask : BitVec 32) (data : List W32) (s : State) :
    Host.Outcome State Fault Refusal :=
  .next (if staleInc s agent inc then logStale s (ownerPart s (128 * line)) agent inc (128 * line)
    else if wasEarly s line agent then takeEarly s line agent
    else match txnOf s line with
      | some t =>
        if t.inval || !t.awaiting.contains agent then s
        else
          let got := (setBits 32 mask.toNat).map fun i => (i, nth data i 0)
          answered (setTxn s line (some { t with got := got ++ t.got })) line agent false
      | none => s)
/-- An invalidation answer arrives (R89). -/
def execInvalidationAck (agent inc line : Nat) (kept : Bool) (s : State) : Host.Outcome State Fault Refusal :=
  .next (if staleInc s agent inc then logStale s (ownerPart s (128 * line)) agent inc (128 * line)
    else match txnOf s line with
      | some t => if t.inval then answered s line agent kept else s
      | none => s)
/-- An eviction notice arrives (R90): it clears a pointer of a quiet entry. -/
def execEvictionNotice (agent inc line : Nat) (s : State) : Host.Outcome State Fault Refusal :=
  .next (if staleInc s agent inc then logStale s (ownerPart s (128 * line)) agent inc (128 * line)
    else
      let k := (hline s line).keep
      if k.co || (txnOf s line).any (·.inval) then s
      else setKeep s line { k with ptrs := k.ptrs.filter (· != BitVec.ofNat 8 agent) })

/-! ### Tier, refresh (R71 to R74) -/

/-- The sector arrives (R71), and the accesses that wait for it are served; those to another sector of the unit miss anew. -/
def execTierFill (unit : Nat) (s : State) : Host.Outcome State Fault Refusal :=
  .next (match s.tierMiss.find? fun m => m.1 == unit with
    | none => s
    | some (_, tag, rs) =>
      let s := { s with tierMiss := s.tierMiss.filter fun m => m.1 != unit }
      rs.foldl homeArrive (fillUnit s (ownerPart s (2048 * unit)) unit tag))
/-- Refresh of a pseudo-channel at its interval: it may be postponed up to 8 times (R73). -/
def execRefresh (slice pc : Nat) (s : State) : Host.Outcome State Fault Refusal :=
  let k := 6 * slice + pc
  let n := mapGet s.postponed k 0
  let (s, f) := draw s 0x73
  .next (if n < 8 && bit f 0 then { s with postponed := mapSet s.postponed k (n + 1) }
    else { s with postponed := mapSet s.postponed k 0 })
/-- At eight postponed refreshes a copy burst ends after its block and the owed refreshes are issued (R74). -/
def execRefreshLimit (slice pc : Nat) (s : State) : Host.Outcome State Fault Refusal :=
  let k := 6 * slice + pc
  .next (if 8 ≤ mapGet s.postponed k 0 then { s with postponed := mapSet s.postponed k 0 } else s)

/-! ### Dead agents (R93) -/

/-- A line at which the home awaits an agent: its answer, or its write of a line that it holds under ENG. -/
def awaitedAt (s : State) (agent : Nat) : Option Nat :=
  (s.homes.find? fun (_, h) => (h.txn.any fun t => t.awaiting.contains agent) ||
    (h.reg.eng && h.reg.ownA.toNat == agent)).map (·.1)
/-- An unanswered message is reported to the hypervisor and goes on being awaited (R93), without a second report until the agent answers or
is declared dead: the report is an entry of the
hypervisor's fault queue with KIND 3 that names the agent and the line (DESIGN CHOICE, log 72: the spec gives it no form). -/
def execAgentTimeout (agent : Nat) (s : State) : Host.Outcome State Fault Refusal :=
  .next (match awaitedAt s agent with
    | some line =>
      if s.deadSeen.contains agent then s
      else
        let q := ownerPart s (128 * line)
        postMsg { s with deadSeen := s.deadSeen ++ [agent] } (lineHome s line / 64) .hfault
          ⟨msgHead 3 0 agent 0 ⟨q, 0⟩, w64 (128 * line), 0, 0⟩
    | none => s)
/-- The blocks of a line that hold words of a mask lose their contents. -/
def poisonWords (s : State) (line : Nat) (mask : BitVec 32) : State :=
  let s := if mask &&& 0xFFFF#32 = 0 then s else poisonBlock s (128 * line)
  if mask &&& 0xFFFF0000#32 = 0 then s else poisonBlock s (128 * line + 64)
/-- The hypervisor declares an agent dead (R93): a new incarnation, its registrations and ENG lines cleared and
poisoned, its awaited answers taken as "not held". -/
def agentDeath (s : State) (agent : Nat) : State :=
  let s := { s with incs := mapSet s.incs agent (mapGet s.incs agent 0 + 1), deadSeen := s.deadSeen.filter (· != agent) }
  (s.homes.map (·.1)).foldl (fun s line =>
    let g := (hline s line).reg
    let s := setHline s line { hline s line with early := (hline s line).early.filter (· != agent) }
    let s := if g.eng && g.ownA.toNat == agent then
        drain (setReg (poisonWords s line (BitVec.allOnes 32)) line RegEntry.init) line
      else
        let m := ownMask g agent
        if m = 0 then s else setReg (poisonWords s line m) line (unregister g agent m)
    if (txnOf s line).any fun t => t.awaiting.contains agent then answered s line agent false else s) s

/-! ### Done tables (R423) -/

/-- A commit removes its key (R423), which lies in one table only: in a hub's, for a post or fork; else in that of the slice named, or of
the one to which its page has moved since (R411). -/
def execCommit (slice : Nat) (r : RowId) (tag : Nat) (s : State) : Host.Outcome State Fault Refusal :=
  .next (if 256 ≤ slice && slice < 264 then
      { s with hubs := s.hubs.map fun (k, h) => (k, { h with done := h.done.filter fun d => !(d.row == r && d.tag == tag) }) }
    else { s with done := s.done.map fun (k, l) => (k, l.filter fun d => !(d.row == r && d.tag == tag)) })

/-! ### Hand-overs and REHOME (R97, R411, R412) -/

/-- Steps 1 to 4 of a hand-over of a page, carried out at once (R97): recalls, ENG lines released, keepers
invalidated, dirty lines written back. -/
def quiesce (s : State) (q page : Nat) : State :=
  (List.range 512).foldl (fun s i =>
    let line := 512 * page + i
    let s := if (mapGet? s.homes line).isNone then s
      else replaceKeepers (recallAll s line (BitVec.allOnes 32)) q line
    writeBackLine s line) s
/-- No line of a page is held under ENG or has a change in progress. -/
def pageQuiet (s : State) (page : Nat) : Bool :=
  !s.homes.any fun (line, h) => line / 512 == page && (h.reg.eng || h.txn.isSome)
/-- A page that is homed here again starts with no registrations and no keepers (R97). -/
def freshHome (s : State) (page : Nat) : State :=
  { s with homes := s.homes.map fun (line, h) =>
      if line / 512 = page then (line, { h with reg := RegEntry.init, keep := KeepEntry.init }) else (line, h) }
/-- The unit that records a hand-over (log 68). -/
def handoverUnit : Nat := 0x84
/-- A cask page never leaves its module (R134). -/
def caskPage (s : State) (page : Nat) : Bool :=
  teState (tailEntry s (ownerPart s (65536 * page)) page) != 0
/-- A page's home leaves this module (R97), or comes back with no registrations and no keepers; logged as event 3. -/
def execHomeHandover (page : Nat) (s : State) : Host.Outcome State Fault Refusal :=
  let q := ownerPart s (65536 * page)
  let note := fun s : State => traceCoh s q 3 4 handoverUnit (65536 * page)
  .next (if s.leaving.contains page then note (freshHome { s with leaving := s.leaving.filter (· != page) } page)
    else if pageQuiet s page && !caskPage s page then note { quiesce s q page with leaving := page :: s.leaving }
    else s)
/-- A request for a page that has moved, in the page where it lies now (R412). -/
def moveReq (r : Req) (page key : Nat) : Req := { r with pa := 65536 * page + r.pa % 65536, key := key }
/-- The stores that wait for a registration. -/
def storesOf (s : State) (id : Nat) : List StoreWait := s.stores.filter fun w => w.ids.contains id
/-- A refused registration is made again (R412): the words leave the old line and are stored, as the cache has them now, at the new one,
and every store that waits for the registration waits for the new one. When the new home is in another module, each of those stores is
written through (R97), and an atomic's word with no reply. -/
def reissueStore (s : State) (r : Req) (page key : Nat) : State :=
  let ws := storesOf s r.id
  let mine := fun (o : OpRec) => ws.any fun w => w.row == o.row && w.slot == o.slot
  let now := if hits s r then lineRange (cline s r.agent (lineOf r.pa)) (r.pa % 128) r.size else r.data
  let s := dropWords s r.agent (lineOf r.pa) r.mask
  let s := { s with regs := s.regs.filter fun p => p.id != r.id }
  let r' := moveReq r page key
  if isRemote s r'.pa then
    let s := { s with
      stores := s.stores.filter fun w => !w.ids.contains r.id
      ops := s.ops.map fun o => if mine o then { o with req := o.req.map fun x => { moveReq x page key with op := .write } } else o }
    let s := sendAll s ((s.ops.filter mine).filterMap fun o => o.req.map .writeThrough)
    if ws.isEmpty then send s (.writeThrough { r' with op := .write, slot := 8, data := now }) else s
  else
    let s := { s with ops := s.ops.map fun o => if mine o then { o with req := o.req.map fun x => moveReq x page key } else o }
    let (s, ids) := cacheWrite s { r' with data := now }
    settleStores s r.id ids false
/-- A fill of a moved line is asked for at the new one, for the accesses that wait for it (R412). -/
def moveMiss (s : State) (r : Req) (page key : Nat) : State :=
  let line := lineOf (moveReq r page key).pa
  { s with misses := s.misses.map fun m => if m.agent = r.agent ∧ m.line = lineOf r.pa then
      { m with line := line, key := key, ops := m.ops.map fun o => (o.1, moveReq o.2 page key) } else m }
/-- A request refused with REHOME is translated again and reissued with its tag (R412). -/
def execRehomeReissue (r : Req) (s : State) : Host.Outcome State Fault Refusal :=
  .next (match walk s (dieOf r.exec) r.part r.va with
    | .leaf t =>
      match leafPlace t r.va with
      | .mem pa =>
        match r.op with
        | .reg => reissueStore s r (pa / 65536) (leafKey t.leaf)
        | .read .fill => send (moveMiss s r (pa / 65536) (leafKey t.leaf)) (.lineRead (moveReq r (pa / 65536) (leafKey t.leaf)))
        | _ => send s (reqMsg 0 (moveReq r (pa / 65536) (leafKey t.leaf)))
      | _ => send s (.rehomeReissue r)
    | _ => send s (.rehomeReissue r))

/-! ### Leases (R94 to R96) -/

/-- A page that is homed elsewhere leaves this module's caches. -/
def dropPage (s : State) (page : Nat) : State :=
  { s with caches := s.caches.map fun (k, x) => if k % 2 ^ 40 / 512 = page then (k, clearLine x) else (k, x) }
/-- A lease is granted or renewed, or refused, upon which the page is dropped (R95). For a page that is homed here it
is this module that grants the lease, to the peer proxy that the number names. A length outside 10 µs to 10 ms is the
default, 100 µs (R94, log 74). -/
def execLeaseRenewal (part page : Nat) (granted : Bool) (expiry : Nat) (s : State) : Host.Outcome State Fault Refusal :=
  let home := !s.leaving.contains page
  let expiry := if inRange (expiry - s.time) 10000 9990001 then expiry else s.time + 100000
  let holder := if home then 0xC0 + part % 64 else part
  let rest := s.leases.filter fun l => !(l.isHome == home && l.page == page && (l.holder == holder || !home))
  .next (if granted then { s with leases := rest ++ [⟨page, holder, home, s.time, expiry, s.hub.trans, false⟩] }
    else if home then { s with leases := rest } else dropPage { s with leases := rest } page)
/-- A lease passes its guarded expiry at the home (R94, R96). -/
def releaseLease (s : State) (page holder : Nat) : State :=
  let s := { s with leases := s.leases.filter fun l => !(l.isHome && l.page == page && l.holder == holder) }
  (s.homes.map (·.1)).foldl (fun s line =>
    if line / 512 = page && (txnOf s line).any (fun t => t.awaiting.contains holder) then answered s line holder false
    else s) s
def execLeaseExpiry (page holder : Nat) (s : State) : Host.Outcome State Fault Refusal :=
  .next (match s.leases.find? fun l => l.isHome && l.page == page && l.holder == holder with
    | some l => if l.expiry + guardBand l s.hub.trans < s.time then releaseLease s page holder else s
    | none => s)
/-- A holder's acknowledgement of a revoke (R92, R96). -/
def execRevokeAck (page : Nat) (holder : Sender) (s : State) : Host.Outcome State Fault Refusal :=
  .next (if staleInc s holder.agent holder.inc then
      logStale s (ownerPart s (65536 * page)) holder.agent holder.inc (65536 * page)
    else if s.leases.any fun l => l.isHome && l.page == page && l.holder == holder.agent && l.revoking then
      releaseLease s page holder.agent else s)
/-- A revoke of a leased page reaches this module (R96): the page is dropped and acknowledged outside. -/
def execRevoke (page : Nat) (s : State) : Host.Outcome State Fault Refusal :=
  .next (dropPage { s with leases := s.leases.filter fun l => !(!l.isHome && l.page == page) } page)

end Sys2Proof.Machine
end

