-- ==== Sys2Proof/Machine/Regs.lean ====
section
/-!
DEFINITION. The two register spaces: the hub-die registers and the partitions' register windows, what a read returns
and what a write does (R437 to R443 and the rules that they name).
-/

namespace Sys2Proof.Machine

/-! ### Helpers -/

/-- The word with only the bits from lo on, n of them. -/
def field (v : Word) (lo n : Nat) : Word := putBits 0 lo n (bits v lo n)
/-- A vector is raised on a function of the host port (R445). -/
def raiseVector (s : State) (fn v : Nat) : State := { s with vectors := s.vectors ++ [(fn, v)] }
def setBadcfg (s : State) (q : Nat) : State := setPart s q { part s q with badcfg := true }
/-- Half-open ranges of a partition's areas, as base and length. -/
def flatEnd (p : Part) : Nat := pbase p + 2048 * (6 * hCount p * flats p)
def inFlat (p : Part) (base len : Nat) : Bool := pbase p ≤ base && base + len ≤ flatEnd p
def rackBase (p : Part) : Nat := pbase p + 2048 * (6 * hCount p * (flats p - rackRows p))
def hitsRack (p : Part) (base len : Nat) : Bool := overlap base len (rackBase p) (flatEnd p - rackBase p)
def hitsTail (p : Part) (base len : Nat) : Bool := overlap base len (tailBase p) (tailLen p)
def hitsCell (p : Part) (base len : Nat) : Bool := overlap base len (cellBase p) (cellLen p)

/-- Nodes of a partition on every hub. -/
def hub (s : State) (d : Nat) : Hub := mapGet s.hubs d Hub.init
def setHub (s : State) (d : Nat) (h : Hub) : State := { s with hubs := mapSet s.hubs d h }
/-- A partition has a live row: while its PROW_CFG is 0 it has no row table of its own, and its rows are those in the banks. -/
def hasRows (s : State) (q : Nat) : Bool :=
  if (part s q).prow = 0 then s.rows.any fun x => (rowId s x.1).part == q else !(liveRows s q).isEmpty
/-- RUN (R441): a live row, a launch not completed, or a node in a state other than DONE and FAULT. -/
def running (s : State) (q : Nat) : Bool :=
  hasRows s q || !(launchList s q).isEmpty || (part s q).taken.isSome
    || s.hubs.any fun (_, h) => h.nodes.any fun n => n.part == q && n.state != 4 && n.state != 5

/-! ### Invalidation of translations (R370, R392) -/

/-- Unregistered words leave the cluster caches of a partition in the lines that a test names, whatever ST (R370 step 4). -/
def flashClear (s : State) (q : Nat) (sel : Nat → Bool) : State :=
  let cs := clustersOf (part s q)
  let hit := fun (k : Nat) => cs.contains (k / 2 ^ 40) && sel (k % 2 ^ 40)
  let s := cs.foldl (fun s c => rememberStale s c false ((s.caches.filter fun (k, _) => k / 2 ^ 40 == c && hit k).flatMap fun (k, x) =>
    oldWords s (k % 2 ^ 40) x (~~~x.rg))) s
  { s with caches := s.caches.map (fun (k, x) => if hit k then (k, clearLine x) else (k, x)),
           misses := s.misses.map fun m => if cs.contains m.agent && sel m.line then { m with cleared := true } else m }
/-- Steps 2 to 4 of tlbinv for a range of a partition (R370): translations, extent tables of nodes that do not run, and in the cluster
caches the lines of the frames that the range's translations have named since it was last invalidated (log 18); for the whole partition
every line. -/
def invalidateRange (s : State) (q : Nat) (whole : Bool) (hit : TlbEnt → Bool) : State :=
  let named := s.mapped.filter fun t => t.part == q && hit t
  let s := tlbDrop s q hit
  let s := { s with hubs := s.hubs.map fun (d, h) =>
    (d, { h with nodes := h.nodes.map fun n => if n.part = q ∧ n.state ≠ 3 ∧ n.state ≠ 6 then { n with xlated := false } else n }) }
  flashClear s q fun line => whole || named.any fun t => overlap (128 * line) 128 (leafFrame t.leaf) (pageSize t.lvl)

/-! ### Registers with checks (R69, R70, R137, R198, R392, R427) -/

/-- PT_ROOT is written and every translation of the partition is invalidated (R392). -/
def ptRootWrite (s : State) (q : Nat) (v : Word) : State :=
  invalidateRange (setPart s q { part s q with ptRoot := field v 14 32 ||| field v 0 1 }) q true fun _ => true
/-- PMEM_CFG (R69, R70): refused with BADCFG while rows run (log 19), when the largest tag reaches 2^15, or when
nothing is left to cache a tier range. A write with TIER 0 is refused for neither TSIZE nor a C of 0, since it makes no tier range
(DESIGN CHOICE, log 84). -/
def pmemCfgWrite (s : State) (q : Nat) (v : Word) : State :=
  let v := field v 63 1 ||| field v 32 19 ||| field v 0 32
  let p := part s q
  let np := { p with pmem := v }
  let c := (327680 - bits v 32 19) * 6 * hCount p
  let bad := 327680 < bits v 32 19 || (bit v 63 && bits v 0 32 ≠ 0 && (c == 0 || 2 ^ 15 ≤ (bits v 0 32 - 1) / c))
  if running s q || bad then setBadcfg s q else setPart s q np
/-- PCASK_CFG (R137). -/
def pcaskCfgWrite (s : State) (q : Nat) (v : Word) : State :=
  let v := field v 44 12 ||| field v 16 24
  let p := part s q
  let np := { p with pcask := v }
  if running s q || !inFlat np (tailBase np) (tailLen np) || flats np < rackRows np then setBadcfg s q
  else setPart (flushTails s q) q np
/-- PROW_CFG (R198). -/
def prowCfgWrite (s : State) (q : Nat) (v : Word) : State :=
  let v := field v 44 20 ||| field v 16 24
  let np := { part s q with prow := v }
  if running s q || !inFlat np (cellBase np) (cellLen np) || hitsTail np (cellBase np) (cellLen np)
      || hitsRack np (cellBase np) (cellLen np) then setBadcfg s q
  else setPart s q np
/-- PSAVE_CFG (R427). -/
def psaveCfgWrite (s : State) (q : Nat) (v : Word) : State :=
  let np := { part s q with psave := field v 30 10 }
  let b := saveBase np
  if running s q || !inFlat np b (2 ^ 30) || hitsCell np b (2 ^ 30) || hitsTail np b (2 ^ 30) || hitsRack np b (2 ^ 30)
  then setBadcfg s q else setPart s q np
/-- BW_STALL now: while a rate is set, cycles in which a flit waited may have been added to it, a free value (log 5). -/
def stallCount (s : State) (q : Nat) : State × Word :=
  if bits (part s q).pbw 0 16 = 0 then (s, (part s q).bwStall) else draw s 0x443
/-- PBW: the buckets are set and filled (R443); what BW_STALL has counted stays to be read. -/
def pbwWrite (s : State) (q : Nat) (v : Word) : State :=
  let (s, n) := stallCount s q
  setPart s q { part s q with pbw := field v 32 16 ||| field v 0 16, tokens := 1024 * bits v 32 16, bwStall := n }
/-- BW_STALL is returned and cleared (R443). -/
def bwStallRead (s : State) (q : Nat) : State × Word :=
  let (s, n) := stallCount s q
  (setPart s q { part s q with bwStall := 0 }, n)
/-- A TIME record of an executor (R462): kind 3. -/
def timeRecord (s : State) (q e : Nat) : State := traceRec s q (w64 (at_ 3 60 + at_ e 51)) (w64 s.time)
/-- TRC_CTL (R461, R462): every executor of the partition's clusters writes a TIME record when tracing starts. -/
def trcCtlWrite (s : State) (q : Nat) (v : Word) : State :=
  let v := field v 12 52 ||| field v 0 6
  let old := (part s q).trcCtl
  let v := if 10 < bits v 0 4 then field v 4 60 else v
  let s := setPart s q { part s q with trcCtl := v }
  let s := { s with execs := s.execs.map fun (e, x) =>
    if (clustersOf (part s q)).contains (clusterOf e) then (e, { x with lastRec := x.cycle }) else (e, x) }
  if bits old 0 4 = 0 && bits v 0 4 ≠ 0 && bit v 4 then
    ((clustersOf (part s q)).flatMap fun c => (List.range 16).map (16 * c + ·)).foldl (fun s e => timeRecord s q e) s
  else s

/-! ### Rings -/

def ringBase (v : Word) : Word := let v := field v 12 52 ||| field v 0 5; if 12 < bits v 0 4 then field v 4 60 else v
def ringTailRead (x : RingRegs) : Word := w64 (x.drop.toNat * 2 ^ 32 + x.tail.toNat)

/-! ### Hub-die registers of their own behaviour -/

/-- The power state commanded (R465): 5 to 7 are ignored; a change takes 2 us and the last value written during one
applies at its end. -/
def maxState (s : State) (v : BitVec 3) : BitVec 3 := if s.hub.thr && v < 3 then 3 else v
def pwrCtlWrite (s : State) (v : Word) : State :=
  let n := bits v 0 3
  if 5 ≤ n then s
  else
    let s := { s with hub := { s.hub with pwrCtl := BitVec.ofNat 3 n } }
    if s.hub.changing then { s with hub := { s.hub with pwrNext := some (BitVec.ofNat 3 n) } }
    else if maxState s (BitVec.ofNat 3 n) = s.hub.pwrCur then s
    else { s with hub := { s.hub with pwrNext := some (BitVec.ofNat 3 n), changing := true, trans := s.hub.trans + 1 } }
/-- Indices that hold a counter (R464). -/
def ltAssigned (i : Nat) : Bool :=
  i < 0x10 || (0x20 ≤ i && i < 0x40) || (0x200 ≤ i && i < 0x206 + 12) || (0x300 ≤ i && i < 0x340)
    || (0x1000 ≤ i && i < 0x1200) || (0x10000 ≤ i && i < 0x10000 + 40 * 192 * 8)
def ltRead (s : State) (i : Nat) : Word := if ltAssigned i then w64 (mapGet s.hub.lt i 0) else BitVec.allOnes 64
/-- The rollback floor rises, in the counter and the nonvolatile array (R464). -/
def rollbackFloorWrite (s : State) (v : Word) : State :=
  if s.hub.ltIdx.toNat = 0x204 && mapGet s.hub.lt 0x204 0 < v.toNat then
    { s with hub := { s.hub with lt := mapSet s.hub.lt 0x204 v.toNat, ltNv := mapSet s.hub.ltNv 0x204 v.toNat } }
  else s
/-- An entry of the slice table at WIDX, which advances (R389); with the 64th the indices are equal. -/
def gsEntryWrite (s : State) (v : BitVec 128) : State :=
  { s with hub := { s.hub with
      gsTab := mapSet s.hub.gsTab s.hub.gsWidx.toNat ⟨v.extractLsb' 64 64, v.extractLsb' 0 32⟩, gsWidx := s.hub.gsWidx + 1
      gsFull := s.hub.gsWidx + 1 == s.hub.gsRidx } }
/-- GS_CTL (R389): EN and WIDX; a table whose indices are equal then is as full as it was (log 33). -/
def gsCtlWrite (s : State) (v : Word) : State :=
  let w := BitVec.ofNat 6 (bits v 8 6)
  { s with hub := { s.hub with gsWidx := w, gsEn := bit v 0, gsFull := s.hub.gsFull && w == s.hub.gsRidx } }
/-- A page is pinned with PINP (R77). -/
def pinpPage (s : State) (page : Nat) : Bool := (mapGet? s.dlines (512 * page)).any fun x => x.pin == 2
/-- The next of the tracker's pages that it offers: which pages it has counted and how often is a free value (log 5). A cask page is
skipped without counting (R134), one pinned with PINP is counted (R414); fuel counts the pages, after which there is none. -/
def hptNext : Nat → State → Nat → State × Word
  | 0, s, _ => (s, 0)
  | fuel + 1, s, d =>
    let (s, f) := draw s 0x414
    if bits f 16 48 = 0 then (s, 0)
    else if caskPage s (bits f 16 48) then hptNext fuel s d
    else if pinpPage s (bits f 16 48) then hptNext fuel (setHub s d { hub s d with hptSkip := (hub s d).hptSkip + 1 }) d
    else (s, f)
/-- HPT_CAND read (R414): a die's tracker offers its next candidate, of at most 64 pages at a read (log 5). -/
def hptCandRead (s : State) (d : Nat) : State × Word := hptNext 64 s d
def hptSkipRead (s : State) (d : Nat) : State × Word := (setHub s d { hub s d with hptSkip := 0 }, w64 (hub s d).hptSkip)

/-! ### Commands with BUSY -/

/-- KEY_CTL (R67); a halted management executor leaves the key slots as they are (R467). That a write with OP 3 still changes SLOT, and
that partition 0's ring has its record, are choices of the model (DESIGN CHOICE, log 79). So is a host's write through the physical
function (R437), which acts as one of the management executor (DESIGN CHOICE, log 95). -/
def keyCtlWrite (s : State) (v : Word) : State :=
  if s.hub.keyBusy || s.hub.mgmtHalted then s
  else
    let k := bits v 0 6
    let s := { s with hub := { s.hub with keySlot := BitVec.ofNat 6 k } }
    match bits v 8 2 with
    | 1 => send { s with hub := { s.hub with keyBusy := true } } (.keyLoad k)
    | 2 => send { s with hub := { s.hub with keyBusy := true } } (.keyClear k)
    | 3 => traceCoh s 0 7 3 0x80 0
    | _ => s
def keyCtlRead (s : State) : Word :=
  w64 (at_ (num s.hub.keyBusy) 7 + at_ (num (keySlot s s.hub.keySlot.toNat).valid) 6 + s.hub.keySlot.toNat)
/-- PRE_CTL (R416): ERR when a cluster of CMASK is not PART's, or for ADD is another partition's. -/
def preCtlWrite (s : State) (v : Word) : State :=
  if s.hub.preBusy then s
  else
    let q := bits v 8 6
    let op := bits v 2 3
    let cs := setBits 32 (bits v 32 32)
    let mine := clustersOf (part s q)
    let bad := if op = 4 then cs.any fun c => (s.parts.any fun (k, p) => k != q && (clustersOf p).contains c)
      else cs.any fun c => !mine.contains c
    let mask := BitVec.ofNat 32 (bits v 32 32)
    let named := { s with hub := { s.hub with preMask := mask, prePart := BitVec.ofNat 6 q, preErr := false } }
    let stage : BitVec 3 := if op = 2 then 4 else if op = 4 then 0 else 1
    let go := fun (t : State) (m : Msg) =>
      if bad then { s with hub := { s.hub with preErr := true } }
      else send { t with hub := { t.hub with preBusy := true, preStage := stage, preOp := BitVec.ofNat 3 op } } m
    let s := named
    match op with
    | 0 => s
    | 1 => go s (.evict q mask)
    | 2 => go s (.restore q mask)
    | 3 => go s (.remove q mask)
    | 4 => go s (.addCluster q mask)
    | _ => traceCoh s q 7 3 0x80 0
def preCtlRead (s : State) : Word :=
  w64 (at_ s.hub.preMask.toNat 32 + at_ s.hub.prePart.toNat 8 + at_ s.hub.preStage.toNat 5 + at_ (num s.hub.preBusy) 1
    + num s.hub.preErr)
/-- PCTL (R440). -/
def pctlWrite (s : State) (q : Nat) (v : Word) : State :=
  if (part s q).pctlBusy then s
  else
    let busy := setPart s q { part s q with pctlBusy := true }
    match bits v 2 2 with
    | 1 => send busy (.enable q)
    | 2 => send busy (.disable q)
    | 3 => send busy (.reset q)
    | _ => s
/-- CASK_CTL (R138). -/
def caskCtlWrite (s : State) (q : Nat) (v : Word) : State :=
  if (part s q).caskBusy then s
  else
    let s := setPart s q { part s q with caskPage := field v 16 48 }
    let go := fun m => send (setPart s q { part s q with caskBusy := true }) m
    match bits v 6 2 with
    | 1 => go (.caskInit q (bits v 16 48))
    | 2 => go (.caskInitZero q (bits v 16 48))
    | 3 => go (.caskFree q (bits v 16 48))
    | _ => s
/-- PG_CTL (R410). -/
def pgCtlWrite (s : State) (q : Nat) (v : Word) : State :=
  if (part s q).pgBusy then s
  else
    let s := setPart s q { part s q with pgPage := field v 16 48 }
    let page := bits v 16 48
    let go := fun m => send (setPart s q { part s q with pgBusy := true }) m
    match bits v 13 3 with
    | 1 => go (.pin q page)
    | 2 => go (.pinp q page)
    | 3 => go (.unpin q page)
    | 4 => go (.migrate q page)
    | 5 => go (.retire q page)
    | 6 => go (.spunmap q page)
    | _ => s
/-- NRETRY (R408). -/
def nretryWrite (s : State) (q : Nat) (v : Word) : State :=
  if (part s q).nretryBusy then s
  else
    let s := setPart s q { part s q with nretryRec := field v 6 58 }
    let go := fun m => send (setPart s q { part s q with nretryBusy := true }) m
    match bits v 4 2 with
    | 1 => go (.nodeRetry q (bits v 6 58 * 64))
    | 2 => go (.nodeDrop q (bits v 6 58 * 64))
    | _ => s
/-- NPARK (R311): the partition's engine selected. -/
def tile (s : State) (e : Nat) : Tile := mapGet s.tiles e Tile.init
def npEngine (s : State) (q : Nat) : Nat := (part s q).npark.toNat
def nparkWrite (s : State) (q : Nat) (v : Word) : State :=
  let s := setPart s q { part s q with npark := BitVec.ofNat 7 (bits v 0 7) }
  let mine := (clustersOf (part s q)).contains (bits v 0 7 / 4)
  match bits v 9 2 with
  | 1 => if mine then send s (.nparkResume (bits v 0 7)) else s
  | 2 => if mine then send s (.nparkFail (bits v 0 7)) else s
  | _ => s
def nparkRead (s : State) (q : Nat) : Word :=
  let e := npEngine s q
  w64 (at_ (num ((clustersOf (part s q)).contains (e / 4) && (tile s e).parked.isSome)) 11 + e)
/-- VPARK of a pool of the partition (R287). -/
def poolMine (s : State) (q p : Nat) : Bool := p < 64 && (clustersOf (part s q)).contains (p / 2)
def vparkWrite (s : State) (p : Nat) (v : Word) : State :=
  let c := bits v 0 3
  let s := setPool s p { pool s p with vpark := BitVec.ofNat 3 c }
  match bits v 9 2 with
  | 1 => send s (.vparkResume p c)
  | 2 => send s (.vparkDiscard p c)
  | _ => s
def vparkRead (s : State) (p : Nat) : Word :=
  let c := (pool s p).vpark.toNat
  match (claimIn s p c).bind fun x => x.parked.map fun _ => (x.cmds.head?.map (·.seq)).getD 0 with
  | some seq => w64 (at_ (seq % 2 ^ 32) 32 + at_ 1 11 + c)
  | none => w64 c

/-! ### Launch and storage queues -/

def lq (s : State) (q n : Nat) : LaunchQ := nth (part s q).lq n LaunchQ.init
def setLq (s : State) (q n : Nat) (x : LaunchQ) : State :=
  setPart s q { part s q with lq := setNth (part s q).lq n x }
/-- A store that changes TAIL rings the queue (R378). -/
def launchRing (s : State) (q n : Nat) (tail : W32) : State :=
  let p := part s q
  let s := setPart s q { p with arrivals := p.arrivals + 1 }
  setLq s q n { lq s q n with tail := tail, rung := (lq s q n).rung ++ [(tail, p.arrivals)] }
def lqCfgWrite (s : State) (q n : Nat) (v : Word) : State :=
  if (lq s q n).head = (lq s q n).tail then setLq s q n { lq s q n with cfg := ringBase v } else s
def stor (s : State) (q k : Nat) : StorQ := nth (part s q).stor k StorQ.init
def setStor (s : State) (q k : Nat) (x : StorQ) : State :=
  setPart s q { part s q with stor := setNth (part s q).stor k x }
/-- NSQ and NCQ are ignored while commands are unfinished (R450). -/
def storBusy (x : StorQ) : Bool := !x.open_.isEmpty || x.sqHead != x.sqTail
def storCfgWrite (s : State) (q k : Nat) (sub : Bool) (v : Word) : State :=
  let x := stor s q k
  if storBusy x then s
  else if sub then setStor s q k { x with nsq := (let w := field v 12 52 ||| field v 0 4; if 12 < bits w 0 4 then field w 4 60 else w) }
  else setStor s q k { x with ncq := ringBase v }

/-! ### Debug modules (R458) -/

/-- The state of a way as DBG_CCDAT shows it (R165). The number of a way is the line's place among its set's lines (DESIGN CHOICE, log 82:
the rules do not say which way a line takes). -/
def ccLine (s : State) (c set way : Nat) : BitVec 128 :=
  match (waysOf s c set)[way]? with
  | none => 0
  | some (line, x) => BitVec.ofNat 128 (line / 1024 * 2 ^ 100 + x.v.toNat * 2 ^ 68 + x.rg.toNat * 2 ^ 36
      + x.key.toNat * 2 ^ 30 + num x.st * 2 ^ 29 + x.age.toNat * 2 ^ 25)
def dbgRead (s : State) (c off : Nat) : Word :=
  let x := cluster s c
  if off = 0 then w64 (at_ x.xtgt.toNat 32 + at_ (num x.brkcap) 5 + at_ x.dbgCause.toNat 2 + num x.halted)
  else if 8 ≤ off && off ≤ 0x20 then nth x.bps (off / 8 - 1) 0
  else if off = 0x28 then w64 x.dbgRow.toNat
  else if off = 0x30 then w64 x.ccsel.toNat
  else if off = 0x38 then (ccLine s c (x.ccsel.toNat / 16) (x.ccsel.toNat % 16)).extractLsb' 0 64
  else if off = 0x40 then (ccLine s c (x.ccsel.toNat / 16) (x.ccsel.toNat % 16)).extractLsb' 64 64
  else 0
/-- A write to a debug module; through a window XTGT names only the partition's own clusters. -/
def dbgWrite (s : State) (c off : Nat) (v : Word) (targets : BitVec 32) : State :=
  let x := cluster s c
  if off = 0 then
    let s := setCluster s c { x with xtgt := BitVec.ofNat 32 (bits v 32 32) &&& targets, brkcap := bit v 5 }
    match bits v 6 2 with
    | 1 => send s (.halt c)
    | 2 => send s (.resume c)
    | 3 => send s (.step c)
    | _ => s
  else if 8 ≤ off && off ≤ 0x20 then setCluster s c { x with bps := setNth x.bps (off / 8 - 1) v }
  else if off = 0x28 then setCluster s c { x with dbgRow := BitVec.ofNat 24 (bits v 0 24) }
  else if off = 0x30 then setCluster s c { x with ccsel := BitVec.ofNat 14 (bits v 0 14) }
  else s

/-! ### The register window of a partition (R437) -/

def pstat (s : State) (q : Nat) : Word :=
  let p := part s q
  w64 (at_ p.img.toNat 8 + at_ (num s.hub.mgmtHalted) 7 + at_ (num s.hub.thr) 6 + at_ (num p.badcfg) 3
    + at_ (num p.rst) 2 + at_ (num (running s q)) 1 + num p.en)
def badcfgClear (s : State) (q : Nat) : State := setPart s q { part s q with badcfg := false }
def windowRead (s : State) (q off : Nat) : State × Word :=
  let p := part s q
  let v : Word :=
    if off = 0 then pstat s q
    else if off = 8 then p.ptRoot
    else if off = 0x10 then p.pdef0
    else if 0x40 ≤ off && off < 0xC0 then
      let x := lq s q ((off - 0x40) / 32)
      match (off - 0x40) % 32 with
      | 0 => x.cfg
      | 8 => w64 (at_ x.tail.toNat 32 + x.head.toNat)
      | 16 => w64 (at_ x.done.toNat 32 + at_ x.ridx.toNat 8 + at_ x.err.toNat 4)
      | _ => 0
    else if off = 0x100 then p.mb.base
    else if off = 0x108 then w64 p.mb.head.toNat
    else if off = 0x110 then ringTailRead p.mb
    else if off = 0x140 then p.caskPage ||| w64 (at_ (num p.caskBusy) 5 + at_ p.caskRes.toNat 3)
    else if off = 0x148 then nparkRead s q
    else if off = 0x150 then p.nretryRec ||| w64 (at_ (num p.nretryBusy) 3 + at_ p.nretryRes.toNat 1)
    else if off = 0x160 then p.pgPage ||| w64 (at_ (num p.pgBusy) 12 + at_ p.pgRes.toNat 10)
    else if off = 0x168 then p.pgDst
    else if off = 0x170 then p.pgPte
    else if off = 0x180 then p.trcCtl
    else if off = 0x188 then w64 (at_ p.trcDrop.toNat 32 + p.trcTail.toNat)
    else if 0x200 ≤ off && off < 0x280 then
      let x := stor s q ((off - 0x200) / 32)
      match (off - 0x200) % 32 with
      | 0 => x.nsq
      | 8 => x.ncq
      | 16 => w64 (at_ x.cqHead.toNat 32 + x.sqTail.toNat)
      | _ => 0
    else if 0x800 ≤ off && off < 0xA00 then
      (if poolMine s q ((off - 0x800) / 8) then vparkRead s ((off - 0x800) / 8) else 0)
    else if 0x1000 ≤ off && off < 0x3000 then
      (if bit p.pdef1 16 && (clustersOf p).contains ((off - 0x1000) / 256) then
        dbgRead s ((off - 0x1000) / 256) (off % 256) else 0)
    else 0
  if off = 0x300 then bwStallRead s q else (s, v)
/-- NDB (R450): a changed SQTAIL rings the pair. -/
def ndbWrite (s : State) (q k : Nat) (v : Word) : State :=
  let x := stor s q k
  let tail := BitVec.ofNat 32 (bits v 0 32)
  let s := setStor s q k { x with cqHead := BitVec.ofNat 32 (bits v 32 32) }
  if tail = x.sqTail then s else send s (.storageDoorbell q k v)
def windowWrite (s : State) (q off : Nat) (v : Word) : State :=
  let p := part s q
  if off = 0 then (if bit v 3 then badcfgClear s q else s)
  else if off = 8 then ptRootWrite s q v
  else if 0x40 ≤ off && off < 0xC0 then
    let n := (off - 0x40) / 32
    match (off - 0x40) % 32 with
    | 0 => lqCfgWrite s q n v
    | 8 => if BitVec.ofNat 32 (bits v 32 32) = (lq s q n).tail then s
           else launchRing s q n (BitVec.ofNat 32 (bits v 32 32))
    | _ => s
  else if off = 0x100 then setPart s q { p with mb := { p.mb with base := ringBase v } }
  else if off = 0x108 then setPart s q { p with mb := { p.mb with head := BitVec.ofNat 32 (bits v 0 32) } }
  else if off = 0x140 then caskCtlWrite s q v
  else if off = 0x148 then nparkWrite s q v
  else if off = 0x150 then nretryWrite s q v
  else if off = 0x160 then pgCtlWrite s q v
  else if off = 0x168 then setPart s q { p with pgDst := field v 16 48 }
  else if off = 0x170 then setPart s q { p with pgPte := field v 3 61 }
  else if off = 0x180 then trcCtlWrite s q v
  else if 0x200 ≤ off && off < 0x280 then
    let k := (off - 0x200) / 32
    match (off - 0x200) % 32 with
    | 0 => storCfgWrite s q k true v
    | 8 => storCfgWrite s q k false v
    | 16 => ndbWrite s q k v
    | _ => s
  else if 0x800 ≤ off && off < 0xA00 then
    (if poolMine s q ((off - 0x800) / 8) then vparkWrite s ((off - 0x800) / 8) v else s)
  else if 0x1000 ≤ off && off < 0x3000 then
    (if bit p.pdef1 16 && (clustersOf p).contains ((off - 0x1000) / 256) then
      dbgWrite s ((off - 0x1000) / 256) (off % 256) v (BitVec.ofNat 32 (bits p.pdef0 32 32)) else s)
  else s

/-! ### The hub-die register space (R437) -/

/-- A partition block (R439, R440). While EN is 1, or the management executor is halted (R467), the definition registers
ignore writes. -/
def blockRead (s : State) (q off : Nat) : Word :=
  let p := part s q
  if off = 0 then p.pdef0 else if off = 8 then p.pdef1
  else if 0x10 ≤ off && off ≤ 0x28 then nth p.pslice ((off - 0x10) / 8) 0
  else if off = 0x30 then p.pmem else if off = 0x38 then p.pmemT
  else if off = 0x40 then p.pcask else if off = 0x48 then p.prow
  else if off = 0x50 then p.psave else if off = 0x58 then p.pbw
  else if off = 0x60 then w64 (num p.pctlBusy)
  else if off = 0x68 then p.pimg else if off = 0x70 then p.pns
  else if 0x80 ≤ off && off ≤ 0x98 then nth p.pkeyh ((off - 0x80) / 8) 0
  else 0
def blockWrite (s : State) (q off : Nat) (v : Word) : State :=
  let p := part s q
  let defn := fun p => if (part s q).en || s.hub.mgmtHalted then s else setPart s q p
  if off = 0 then defn { p with pdef0 := v }
  else if off = 8 then defn { p with pdef1 := field v 56 8 ||| field v 15 2 ||| field v 7 7 ||| field v 0 6 }
  else if 0x10 ≤ off && off ≤ 0x28 then defn { p with pslice := setNth p.pslice ((off - 0x10) / 8) v }
  else if off = 0x30 then pmemCfgWrite s q v
  else if off = 0x38 then (if running s q then setBadcfg s q else setPart s q { p with pmemT := field v 11 53 })
  else if off = 0x40 then pcaskCfgWrite s q v
  else if off = 0x48 then prowCfgWrite s q v
  else if off = 0x50 then psaveCfgWrite s q v
  else if off = 0x58 then pbwWrite s q v
  else if off = 0x60 then pctlWrite s q v
  else if off = 0x68 then defn { p with pimg := field v 6 58 }
  else if off = 0x70 then defn { p with pns := v }
  else if 0x80 ≤ off && off ≤ 0x98 then defn { p with pkeyh := setNth p.pkeyh ((off - 0x80) / 8) v }
  else s
def peer (s : State) (k : Nat) : Peer := mapGet s.peers k Peer.init
def setPeer (s : State) (k : Nat) (x : Peer) : State := { s with peers := mapSet s.peers k x }
def hubDieRead (s : State) (off : Nat) : State × Word :=
  let h := s.hub
  if off < 0x2000 then (s, blockRead s (off / 256) (off % 256))
  else if off = 0x2000 then (s, keyCtlRead s)
  else if off = 0x2100 then (s, preCtlRead s)
  else if off = 0x2200 then
    (s, w64 (at_ h.gsWidx.toNat 8 + at_ h.gsRidx.toNat 2 + at_ (num h.gsBusy) 1 + num h.gsEn))
  else if off = 0x2208 then (s, w64 (mapGet h.gsTab h.gsWidx.toNat ⟨0, 0⟩).pset.toNat)
  else if off = 0x2210 then (s, (mapGet h.gsTab h.gsWidx.toNat ⟨0, 0⟩).inst)
  else if off = 0x2300 then (s, h.hfq.base)
  else if off = 0x2308 then (s, w64 h.hfq.head.toNat)
  else if off = 0x2310 then (s, ringTailRead h.hfq)
  else if off = 0x2320 then (s, h.hmb.base)
  else if off = 0x2328 then (s, w64 h.hmb.head.toNat)
  else if off = 0x2330 then (s, ringTailRead h.hmb)
  else if 0x2400 ≤ off && off < 0x2420 then hptCandRead s ((off - 0x2400) / 8)
  else if 0x2420 ≤ off && off < 0x2440 then hptSkipRead s ((off - 0x2420) / 8)
  else if off = 0x2500 then (s, w64 h.pwrCtl.toNat)
  else if off = 0x2508 then (s, w64 (at_ h.tmax.toNat 48 + at_ (num h.thr) 7 + h.pwrCur.toNat))
  else if off = 0x2600 then
    (s, w64 (at_ h.bootVersion.toNat 32 + at_ h.bootPver.toNat 24 + at_ h.bootFail.toNat 16 + at_ h.bootCode.toNat 8
      + num h.bootDone))
  else if off = 0x2700 then (s, w64 h.ltIdx.toNat)
  else if off = 0x2708 then (s, ltRead s h.ltIdx.toNat)
  else if 0x3000 ≤ off && off < 0x3300 then
    let x := peer s ((off - 0x3000) / 64)
    (s, if off % 64 = 0 then w64 (at_ x.rmod.toNat 48 + at_ x.chmask.toNat 8 + at_ x.state.toNat 2 + num x.en) else 0)
  else if 0x4000 ≤ off && off < 0x6000 then (s, dbgRead s ((off - 0x4000) / 256) (off % 256))
  else (s, 0)
def hubDieWrite (s : State) (off : Nat) (v : Word) : State :=
  let h := s.hub
  if off < 0x2000 then blockWrite s (off / 256) (off % 256) v
  else if off = 0x2000 then keyCtlWrite s v
  else if 0x2008 ≤ off && off ≤ 0x2040 then
    if h.mgmtHalted then s else { s with hub := { h with keyData := setNth h.keyData ((off - 0x2008) / 8) v } }
  else if off = 0x2100 then preCtlWrite s v
  else if off = 0x2200 then gsCtlWrite s v
  else if off = 0x2208 then { s with hub := { h with gsLow := field v 0 32 } }
  else if off = 0x2210 then gsEntryWrite s (v ++ h.gsLow)
  else if off = 0x2300 then { s with hub := { h with hfq := { h.hfq with base := ringBase v } } }
  else if off = 0x2308 then { s with hub := { h with hfq := { h.hfq with head := BitVec.ofNat 32 (bits v 0 32) } } }
  else if off = 0x2320 then { s with hub := { h with hmb := { h.hmb with base := ringBase v } } }
  else if off = 0x2328 then { s with hub := { h with hmb := { h.hmb with head := BitVec.ofNat 32 (bits v 0 32) } } }
  else if off = 0x2500 then pwrCtlWrite s v
  else if off = 0x2700 then { s with hub := { h with ltIdx := BitVec.ofNat 32 (bits v 0 32) } }
  else if off = 0x2708 then rollbackFloorWrite s v
  else if off = 0x2800 then (if bit v 0 then send s .warmReset else s)
  else if 0x3000 ≤ off && off < 0x3300 then
    let x := peer s ((off - 0x3000) / 64)
    if off % 64 = 0 then
      let st : BitVec 2 := if !bit v 0 then 0 else if x.en then x.state else 1
      setPeer s ((off - 0x3000) / 64) { x with chmask := BitVec.ofNat 32 (bits v 8 32), en := bit v 0, state := st }
    else s
  else if 0x4000 ≤ off && off < 0x6000 then
    dbgWrite s ((off - 0x4000) / 256) (off % 256) v (BitVec.allOnes 32)
  else s

/-- A register by its physical address (R437). -/
def regRead (s : State) (pa : Nat) : State × Word :=
  if hubBase ≤ pa then hubDieRead s (pa - hubBase)
  else windowRead s ((pa - windowBase) / 65536) ((pa - windowBase) % 65536)
def regWrite (s : State) (pa : Nat) (v : Word) : State :=
  if hubBase ≤ pa then hubDieWrite s (pa - hubBase) v
  else windowWrite s ((pa - windowBase) / 65536) ((pa - windowBase) % 65536) v

/-! ### The meanings of the register steps -/

/-- PT_ROOT written (R392). -/
def execPtRootWrite (q : Nat) (v : Word) (s : State) : Host.Outcome State Fault Refusal := .next (ptRootWrite s q v)
/-- PMEM_CFG written (R70). -/
def execPmemCfgWrite (q : Nat) (v : Word) (s : State) : Host.Outcome State Fault Refusal := .next (pmemCfgWrite s q v)
/-- PCASK_CFG written (R137). -/
def execPcaskCfgWrite (q : Nat) (v : Word) (s : State) : Host.Outcome State Fault Refusal := .next (pcaskCfgWrite s q v)
/-- PROW_CFG written (R198). -/
def execProwCfgWrite (q : Nat) (v : Word) (s : State) : Host.Outcome State Fault Refusal := .next (prowCfgWrite s q v)
/-- PSAVE_CFG written (R427). -/
def execPsaveCfgWrite (q : Nat) (v : Word) (s : State) : Host.Outcome State Fault Refusal := .next (psaveCfgWrite s q v)
/-- PBW written (R443). -/
def execPbwWrite (q : Nat) (v : Word) (s : State) : Host.Outcome State Fault Refusal := .next (pbwWrite s q v)
/-- BW_STALL read and cleared (R443). -/
def execBwStallRead (q : Nat) (s : State) : Host.Outcome State Fault Refusal := .next (bwStallRead s q).1
/-- BADCFG cleared (R441). -/
def execBadcfgClear (q : Nat) (s : State) : Host.Outcome State Fault Refusal := .next (badcfgClear s q)
/-- TRC_CTL written (R461). -/
def execTrcCtlWrite (q : Nat) (v : Word) (s : State) : Host.Outcome State Fault Refusal := .next (trcCtlWrite s q v)
/-- A TIME record of an executor for the partition of its cluster (R462). -/
def execTraceTimeRecord (e : Nat) (s : State) : Host.Outcome State Fault Refusal :=
  .next (s.parts.foldl (fun s (q, p) =>
    if bit p.trcCtl 4 && (clustersOf p).contains (clusterOf e) then timeRecord s q e else s) s)
/-- GS_ENTRY written (R389). -/
def execGsEntryWrite (v : BitVec 128) (s : State) : Host.Outcome State Fault Refusal := .next (gsEntryWrite s v)
/-- PWR_CTL written (R465). -/
def execPwrCtlWrite (v : Word) (s : State) : Host.Outcome State Fault Refusal := .next (pwrCtlWrite s v)
/-- LT_DATA written: the rollback floor (R464). -/
def execRollbackFloorWrite (v : Word) (s : State) : Host.Outcome State Fault Refusal := .next (rollbackFloorWrite s v)
/-- HPT_CAND read (R414). -/
def execHptCandRead (die : Nat) (s : State) : Host.Outcome State Fault Refusal := .next (hptCandRead s die).1
/-- HPT_SKIP read (R414). -/
def execHptSkipRead (die : Nat) (s : State) : Host.Outcome State Fault Refusal := .next (hptSkipRead s die).1
/-- A launch queue is rung (R378). -/
def execLaunchQueueRing (q n : Nat) (tail : W32) (s : State) : Host.Outcome State Fault Refusal :=
  .next (launchRing s q n tail)
/-- A write to a register of a window, or of the hub die (R437). -/
def execRegisterWrite (q : Option Nat) (off : Nat) (v : Word) (s : State) : Host.Outcome State Fault Refusal :=
  .next (match q with
    | some q => windowWrite s q off v
    | none => hubDieWrite s off v)
/-- A key slot is loaded from KEY_DATA, which clears (R67). -/
def execKeyLoad (k : Nat) (s : State) : Host.Outcome State Fault Refusal :=
  let h := s.hub
  .next { s with hub := { h with keys := mapSet h.keys k ⟨true, (keySlot s k).gen + 1, h.keyData⟩,
                                 keyData := [0, 0, 0, 0, 0, 0, 0, 0], keyBusy := false } }
/-- A key slot is emptied (R67). -/
def execKeyClear (k : Nat) (s : State) : Host.Outcome State Fault Refusal :=
  let h := s.hub
  .next { s with hub := { h with keys := mapSet h.keys k ⟨false, (keySlot s k).gen + 1, []⟩, keyBusy := false } }
/-- A cluster halts at a request (R459). -/
def execHalt (cl : Nat) (s : State) : Host.Outcome State Fault Refusal := .next (haltCluster s cl 1)
/-- A halted cluster goes on (R459). -/
def execResume (cl : Nat) (s : State) : Host.Outcome State Fault Refusal :=
  .next (setCluster s cl { cluster s cl with halted := false, stepping := false })
/-- STEP (R459): the OPEN row that DBG_ROW names issues one chain, then the cluster halts again. -/
def execStep (cl : Nat) (s : State) : Host.Outcome State Fault Refusal :=
  let x := cluster s cl
  let named := (List.range 64).any fun n =>
    match openIn s (16 * cl + n / 4) (n % 4) with
    | some pr => decide ((rowId s pr).lrow = x.dbgRow.toNat)
    | none => false
  .next (if x.halted && named then setCluster s cl { x with stepping := true } else s)
/-- The clock change of 2 us ends (R465): the last value written during it applies. -/
def execClockChangeDone (s : State) : Host.Outcome State Fault Refusal :=
  .next (if s.hub.changing then
      let v := maxState s (s.hub.pwrNext.getD s.hub.pwrCtl)
      { s with time := s.time + 2000, hub := { s.hub with pwrCur := v, changing := false, pwrNext := none } }
    else s)

end Sys2Proof.Machine
end

