-- ==== Sys2Proof/Machine/Mem.lean ====
section
/-!
DEFINITION. Loads, stores, scratchpad accesses, atomics, fence and pf (R160 to R189), with the checks of R180, the
waits of R172, R174 and R179, and where each access is served.
-/

namespace Sys2Proof.Machine

/-! ### Waits that memory instructions share -/

/-- An acquire of the row has not made its clearing yet: no later memory instruction issues (R179). -/
def acquirePending (s : State) : Bool := s.ops.any fun o => o.row == curRow s && o.acq.isSome
/-- Stores that the row left behind in another cluster are not acknowledged yet (log 39). -/
def storesBehind (s : State) : Bool :=
  s.owed.any fun x => x.1 == curRow s && x.2.any fun y => slotHas s (.bank s.cur) y.1 y.2
/-- The acquire that a row owes after a move to another cluster is made (log 39). -/
def payOwed (s : State) : State :=
  if s.owed.any fun x => x.1 == curRow s then
    acquireAt { s with owed := s.owed.filter fun x => x.1 != curRow s } (curExec s) .dev
  else s
/-- A memory instruction under its guard: it waits for an earlier acquire (R179), and after a move for the row's stores
left behind. -/
def memChain (c : Ctl) (s : State) (body : State → State) : Host.Outcome State Fault Refusal :=
  chain c s fun s => if acquirePending s || storesBehind s then setWait s .acquire else body (payOwed s)
/-- The registrations that a release waits for: those made when it first issued (R172). -/
def releaseSnap (s : State) : Nat :=
  match s.waited with
  | .release _ n => n
  | _ => s.regNext
/-- The access of a slot targets another row's image, which a release does not wait for (R331). -/
def toRowImage (s : State) (i : Nat) : Bool := ((opRec s (curRow s) i).bind fun o => o.access).isSome
/-- Stores that an agent of the hub die has not had acknowledged (R172). -/
def writesOpen (s : State) (agent : Nat) : Bool :=
  s.ops.any fun o => o.req.any fun r => r.agent == agent && r.op == .write
/-- A release of the executing row is complete at a scope (R172). -/
def releaseMet (s : State) (sc : Scope) (snap : Nat) : Bool :=
  let l := Loc.bank s.cur
  let agent := agentOf (curExec s)
  let busy := busySlots s l
  let loads := busy.all fun i => slotKind s l i != 1 && (slotKind s l i != 3 || toRowImage s i)
  let stores := busy.all fun i =>
    !(slotKind s l i == 2 || slotKind s l i == 5 || slotKind s l i == 6) || toRowImage s i
  match sc with
  | .row => loads
  | .clu => loads
  | _ => loads && stores && !(s.regs.any fun p => p.agent == agent && decide (p.id < snap)) &&
      !(writesThrough agent && writesOpen s agent)
/-- The scope of a release, if the order has one. -/
def releaseOf (m : MemMod) : Option Scope := if m.order = .rel ∨ m.order = .acqrel then some m.scope else none
def acquireOf (m : MemMod) : Option Scope := if m.order = .acq ∨ m.order = .acqrel then some m.scope else none
/-- The body runs once the release of the access is complete; until then the row waits (R172). -/
def afterRelease (s : State) (rel : Option Scope) (body : State → State) : State :=
  match rel with
  | none => body s
  | some sc => if releaseMet s sc (releaseSnap s) then body s else setWait s (.release sc (releaseSnap s))
/-- The acquire of an access that is complete within its instruction (R170, R176). -/
def acquireNow (s : State) (acq : Option Scope) : State :=
  match acq with
  | none => s
  | some sc => acquireAt (observeCopies s (curRow s)) (curExec s) sc

/-! ### Where an access goes (R160, R180) -/

/-- What an access needs: to read, to write, or both (R183, R396). -/
structure Want where
  rd  : Bool
  wr  : Bool
  acc : Nat
  d64 : Bool
  deriving DecidableEq, Repr

/-- Where an access goes, or what stops it: a fault with its address, or a walk to wait for. -/
inductive Site where
  | stop (f : FaultInfo) (a : Word)
  | walk
  | at_ (p : Place) (t : TlbEnt)
  deriving DecidableEq, Repr

/-- R180 steps 6 to 8 and R438, R447 on a leaf; evset is no write of the page but names a row outside it (R132, R367). -/
def leafStop (s : State) (w : Want) (q : Nat) (t : TlbEnt) (p : Place) : Option FaultInfo :=
  let e := t.leaf
  let pv := priv s
  let perm := if w.rd then permFault pv .read e else none
  let perm := match perm with | some i => some i | none => if w.wr then permFault pv .write e else none
  match perm with
  | some i => some (faultOf cPagePerm i w.acc)
  | none =>
    if w.wr && 2 ≤ leafClass e then some (if w.acc = 10 then faultOf cPagePerm 15 10 else faultOf cSealed 0 w.acc)
    else match p with
      | .mem _ => if curExec s = 544 || keyValid s (part s q) (leafKey e) then none else some (faultOf cPagePerm 7 w.acc)
      | .spad _ _ => if keyValid s (part s q) (leafKey e) then none else some (faultOf cPagePerm 7 w.acc)
      | .reg _ => if w.d64 then none else some (faultOf cPagePerm 14 w.acc)
      | .host _ => some (faultOf cPagePerm 6 w.acc)
      | .row r _ => if r == curRow s || isLive s r then none else some (faultOf cPageNp 0 w.acc)
/-- R180 steps 3 to 8 for an aligned address. -/
def siteOf (s : State) (w : Want) (a : Word) : Site :=
  let q := curPart s
  let e := curExec s
  if e ≠ 544 && !canonical a then .stop (faultOf cPageNp 0 w.acc) a
  else if e ≠ 544 && inWindow s q a then
    if reachable s q e (windowCluster s q a) then
      .at_ (.spad (windowCluster s q a) (windowOffset s q a)) ⟨q, 0, 4, 0, 0⟩
    else .stop (faultOf cPagePerm 8 w.acc) a
  else match lookup s a with
    | .miss => .walk
    | .fault c i l => .stop ⟨c, i, 0, w.acc, l⟩ a
    | .leaf t =>
      let p := leafPlace t (if e = 544 then a.toNat else bits a 0 57)
      match p with
      | .spad c _ => if c / 8 = dieOf e then
          (match leafStop s w q t p with | some f => .stop f a | none => .at_ p t)
        else .stop (faultOf cPagePerm 8 w.acc) a
      | _ => match leafStop s w q t p with
        | some f => .stop f a
        | none => .at_ p t
/-- The body on the place of an access, after alignment and the checks of R180. -/
def withSite (s : State) (w : Want) (a : Word) (size : Nat) (body : State → Place → TlbEnt → State) : State :=
  if a.toNat % size ≠ 0 then fault s (faultOf cAlign 0 w.acc) a
  else match siteOf s w a with
    | .stop f a => fault s f a
    | .walk => startWalk s a
    | .at_ p t => body s p t
/-- A page homed elsewhere is used under a lease (R94, R95): without one the row waits. -/
def underLease (s : State) (pa : Nat) (a : Word) (acc : Nat) (body : State → State) : State :=
  if isRemote s pa && !leaseUsable s (pa / 65536) then setWait s (.lease (pa / 65536) a acc s.time) else body s
/-- The lowest free slot, or the row waits (R174, R196). -/
def withSlot (s : State) (body : State → Nat → State) : State :=
  match freeSlot s (.bank s.cur) with
  | some i => body s i
  | none => setWait s .slotFull

/-! ### Requests -/

/-- The destination row word of a register field; 0 for g0, which keeps nothing (R196). -/
def destOf (r : Reg) : Nat := if isG0 r then 0 else regIndex r
def blankOp (s : State) (i : Nat) : OpRec := ⟨curRow s, i, 0, false, none, none, none, none, none, false, none⟩
/-- A request of the executing row. -/
def requestOf (s : State) (op : HomeOp) (i : Nat) (a : Word) (pa size : Nat) (signed : Bool) (t : TlbEnt) (h : Hint)
    (data : List Byte) : Req :=
  let e := curExec s
  ⟨op, agentOf e, ownInc (agentOf e), if e = 544 then ownerPart s pa else curPart s, curRow s, e, i,
    slotTag s (.bank s.cur) i, a.toNat, pa, size, signed,
    leafKey t.leaf, h, wordMask pa size, data, 0⟩
/-- A slot taken and its side record kept. -/
def openSlot (s : State) (i size dest cls kind : Nat) (a : Word) (o : OpRec) : State :=
  setOpRec (takeSlot s (.bank s.cur) i size dest cls kind a) o
/-- A reply that the place itself gives at once. -/
def ownReply (s : State) (i : Nat) (v : Word) : Reply :=
  ⟨curRow s, curExec s, i, slotTag s (.bank s.cur) i, v, 0, 0, 0⟩
/-- An access performed at its place within the instruction, whose reply is on its way (scratchpads, registers). -/
def answerNow (s : State) (i size dest cls kind : Nat) (a : Word) (acq : Option Scope) (v : Word) (more : Option OpMore) : State :=
  let s := openSlot s i size dest cls kind a { blankOp s i with acq := acq }
  let p := ownReply s i v
  send (setOpRec s { blankOp s i with acq := acq, reply := some p, more := more }) (.resultArrival p)
/-- An atomic at a scratchpad bank whose check fails writes nothing, and its reply comes poisoned (R183). -/
def answerBad (s : State) (i size dest cls kind : Nat) (a : Word) (acq : Option Scope) : State :=
  let s := openSlot s i size dest cls kind a { blankOp s i with acq := acq }
  let p := { ownReply s i 0 with poison := 3 }
  send (setOpRec s { blankOp s i with acq := acq, reply := some p }) (.resultArrival p)
/-- An access sent to another row's image (R202). -/
def toRow (s : State) (i size dest cls kind : Nat) (a : Word) (acq : Option Scope) (r : RowId) (off : Nat) (op : RowOp) :
    State :=
  let s := takeSlot s (.bank s.cur) i size dest cls kind a
  let x : RowAccess := ⟨r, off, op, priv s, curRow s, curExec s, i, slotTag s (.bank s.cur) i, a.toNat⟩
  send (setOpRec s { blankOp s i with acq := acq, access := some x }) (.outsideRowAccess x)
/-- A cluster whose router refuses window accesses while it streams out (R163, R428). -/
def routerRefuses (s : State) (c : Nat) : Bool := (cluster s c).pre.any fun x => x.stage == 3
/-- A scratchpad of a cluster. -/
def spad (s : State) (c : Nat) : Memory := mapGet s.spads c []
def setSpad (s : State) (c : Nat) (m : Memory) : State := { s with spads := mapSet s.spads c m }
def spadBytes (s : State) (c off n : Nat) : List Byte := memBytes (spad s c) off n
def spadStore (s : State) (c off : Nat) (bs : List Byte) : State := setSpad s c (memStore (spad s c) off bs)
/-- Whether a read of a scratchpad meets an uncorrectable error, which is a free value (R164, log 5). -/
def spadError (s : State) : Bool := bit (Config.freeWord 0x164 s.count) 0
/-- A scratchpad is read: a free value of its own is used up; a corrected error is counted (R164, R464). -/
def spadRead (s : State) (c : Nat) : State :=
  let f := Config.freeWord 0x164 s.count
  let s := { s with count := s.count + 1 }
  if bit f 1 then ltAdd s (0x20 + c) 1 else s

/-- A self-row access to a row word that an outstanding ld or amo will write waits for that slot (R174). -/
def afterOwn (s : State) (off : Nat) (body : State → State) : State :=
  let l := Loc.bank s.cur
  match (busySlots s l).find? fun i => (slotKind s l i == 1 || slotKind s l i == 3) && slotDest s l i == off / 8
      && off / 8 != 0 with
  | some i => setWait s (.reply i)
  | none => body s

/-- A store of a row that waits for the fill of its line (R167). -/
def awaitsFill (s : State) (r : Req) : Bool :=
  s.misses.any fun m => m.ops.any fun o => o.1 && o.2.row == r.row && o.2.tag == r.tag
/-- Two accesses touch one 4-byte word. -/
def wordsMeet (r : Req) (pa size : Nat) : Bool :=
  decide (r.pa / 4 ≤ (pa + size - 1) / 4) && decide (pa / 4 ≤ (r.pa + r.size - 1) / 4)
/-- An earlier access of the row to a word of this one that is not made yet: a load, an atomic, a store that waits for a fill
(R188, log 40). -/
def earlierAccess (s : State) (pa size : Nat) : Option Nat :=
  (s.ops.find? fun o => o.row == curRow s && o.req.any fun r => wordsMeet r pa size && (match r.op with
    | .read _ => true
    | .atomic _ _ _ => true
    | _ => awaitsFill s r)).map fun o => o.slot
/-- The accesses of one row to one word are made in program order (R188). -/
def afterEarlier (s : State) (pa size : Nat) (body : State → State) : State :=
  match earlierAccess s pa size with
  | some i => setWait s (.reply i)
  | none => body s

/-- The slot of a register load of the row that is being read again (R425). -/
def rereading (s : State) : Option Nat :=
  (s.ops.find? fun o => o.row == curRow s && o.reply.isNone && (match o.more with | some (.place (.reg _) _ _) => true | _ => false)).map
    fun o => o.slot
/-- A register performs the accesses of a row in program order (R438). -/
def afterReread (s : State) (body : State → State) : State :=
  match rereading s with
  | some i => setWait s (.reply i)
  | none => body s
/-- The reply of a register load that is issued again has the value that the register has when it comes (R425). -/
def freshReply (s : State) (p : Reply) : State × Reply :=
  match (opRec s p.row p.slot).filter fun o =>
      o.reply.isNone && slotHas s (locate s p.row) p.slot p.tag && !inTransfer s (locate s p.row) with
  | some o =>
    match o.more with
    | some (.place (.reg pa) n sg) =>
      let (s, v) := regRead s pa
      let p := { p with value := extend sg n v.toNat }
      (setOpRec s { o with reply := some p }, p)
    | _ => (s, p)
  | none => (s, p)
/-- A reply arrives at its row (R174, R420). -/
def execResultArrival (p : Reply) (s : State) : Host.Outcome State Fault Refusal :=
  .next (arriveReply (freshReply s p).1 (freshReply s p).2)

/-! ### ld -/

/-- A load served by memory: a hit, a merged miss, or the home without allocation (R149, R153, R166, R169). A load with noal that
finds one of its two words valid behaves as without the hint. -/
def loadMemory (s : State) (rd : Reg) (a : Word) (pa size : Nat) (signed : Bool) (t : TlbEnt) (h : Hint)
    (acq : Option Scope) : State :=
  withSlot s fun s i =>
    let r0 := requestOf s (.read .fill) i a pa size signed t h []
    let cask := leafClass t.leaf
    let hit := cask ≠ clsOpen && hits s r0
    let direct := cask = clsOpen || (h == .noal && (cline s r0.agent (lineOf pa)).v &&& bytesMask r0 == 0)
    if !hit && !direct && !missRoom s r0.agent (lineOf pa) then setWait s .lines
    else
      let s := takeSlot s (.bank s.cur) i size (destOf rd) 0 1 a
      let r := { r0 with tag := slotTag s (.bank s.cur) i }
      let s := setOpRec s { blankOp s i with acq := acq, req := some r }
      if hit then send (useLine s r.agent (lineOf pa)) (replyTo r (lineValue (cline s r.agent (lineOf pa)) r) 0)
      else if direct then
        match (if cask = clsSealed then rackLook s (dieOf r.exec) r.part pa else (s, none)) with
        | (s, some fa) => fromFrame s r (fa + pa % 128) size fun s => frameWord s r (fa + pa % 128)
        | (s, none) => send s (.lineRead { r with op := .read .word })
      else
        let st := cask = clsReadOnly || cask = clsSealed
        match (if cask = clsSealed && (missOf s r.agent (lineOf pa)).isNone then
            rackLook s (dieOf r.exec) r.part pa else (s, none)) with
        | (s, some fa) =>
          fromFrame { s with misses := s.misses ++ [⟨r.agent, lineOf pa, false, false, [(false, r)], st, r.key, r.hint⟩] } r
            (fa / 128 * 128) 128 fun s => frameFill s r fa
        | (s, none) => addMiss s r st (some (false, r))
/-- A load on its place (R160, R179). -/
def loadAt (c : Ctl) (rd : Reg) (a : Word) (size : Nat) (signed : Bool) (h : Hint) (acq : Option Scope) (s : State)
    (p : Place) (t : TlbEnt) : State :=
  match p with
  | .row r off =>
    if r = curRow s then afterOwn s off fun s =>
      let v := extend signed size (imageBytes s (.bank s.cur) off size)
      let s := if overlap off size 96 8 then observeCopies s r else s
      advance c (acquireNow (writeReg s rd v) acq)
    else withSlot s fun s i =>
      advance c (toRow s i size (destOf rd) 0 1 a acq r off (.load size signed))
  | .spad cl off =>
    if routerRefuses s cl then setWait s (.router cl)
    else withSlot s fun s i =>
      if spadError s then fault s (faultOf cCheck 2 2) a
      else
        let v := extend signed size (leNat (spadBytes s cl off size))
        advance c (answerNow (spadRead s cl) i size (destOf rd) 0 1 a acq v (some (.place p size signed)))
  | .reg pa => afterReread s fun s => withSlot s fun s i =>
      let (s, v) := regRead s pa
      advance c (answerNow s i size (destOf rd) 0 1 a acq v (some (.place p size signed)))
  | .host _ => fault s (faultOf cPagePerm 6 2) a
  | .mem pa => underLease s pa a 2 fun s => afterEarlier s pa size fun s =>
      let s' := loadMemory s rd a pa size signed t h acq
      if s'.time = s.time then s' else advance c s'
/-- ld (R177 to R180). Of a ROWWORD_RO from rd in window 3 the fault's address is the data address of R180 step 1, where R401 has an
instruction address (DEDUCED, log 54). -/
def execLd (c : Ctl) (rd ra : Reg) (t : LdType) (off : Int) (m : MemMod) (s : State) :
    Host.Outcome State Fault Refusal :=
  memChain c s fun s =>
    let size := ldSize t
    let a := memAddr s ra size off
    if rd.win = 3 then fault s (faultOf cRowword 0 2) a
    else withSite s ⟨true, false, 2, size == 8⟩ a size (loadAt c rd a size (ldSigned t) m.hint (acquireOf m))

/-! ### st -/

/-- A store into the issuing row's own image (R176, R193): d0 takes a command, d8 everything, d10 its upper half. -/
def storeSelf (c : Ctl) (a : Word) (size off : Nat) (v : Word) (s : State) : State :=
  let w := off / 8
  let ro := fault s (faultOf cRowword 0 3) a
  if w = 0 then
    if size ≠ 8 then ro
    else if privilegedCommand v && priv s = 0 then fault s (faultOf cPriv 0 3) a
    else if freezeWaits s (curRow s) v then setWait s .answer
    else applyCommand (advance c s) (curRow s) v
  else if w = 8 || 32 < w then
    advance c (wakeOwnWatch (setRowWord s s.cur w (patchWord (rowWord s s.cur w) (off % 8) size v.toNat)) (curRow s)
      (.bank s.cur) off size)
  else if w = 32 then advance c s
  else if w = 10 then
    let old := rowWord s s.cur 10
    let new := patchWord old (off % 8) size v.toNat
    advance c (setRowWord s s.cur 10 (putBits (new &&& eventBits) 0 32 (bits old 0 32)))
  else ro
/-- A store to another row's image is refused at its issue (R194, R195). -/
def outsideStoreFault (s : State) (size off : Nat) (v : Word) : Option Nat :=
  let w := off / 8
  if 32 ≤ w then none
  else if w = 0 then
    (if size ≠ 8 then some cRowword else if privilegedCommand v && priv s = 0 then some cPriv else none)
  else if isPw w && priv s ≠ 0 then none
  else some cRowword
/-- A store to global memory (R167, R170): a cluster cache registers, the hub die's caches and a page homed elsewhere
write through; rows of a control executor that watch a word which it writes wake (R355). -/
def storeMemory (s : State) (a : Word) (pa size : Nat) (v : Word) (t : TlbEnt) (h : Hint) : State :=
  withSlot s fun s i =>
    let data := leBytes size v.toNat
    let r0 := requestOf s .reg i a pa size false t h data
    let through := writesThrough r0.agent || isRemote s pa
    if !through && needsFill s r0 && !missRoom s r0.agent (lineOf pa) then setWait s .lines
    else
      let s := takeSlot s (.bank s.cur) i size 0 1 2 a
      let r := { r0 with tag := slotTag s (.bank s.cur) i, op := if through then .write else .reg }
      let s := setOpRec s { blankOp s i with req := some r }
      if through then
        let s := rememberStale s r.agent false (lostWords s (lineOf pa) (cline s r.agent (lineOf pa)) (bytesMask r))
        let s := match cline? s r.agent (lineOf pa) with
          | some x => setCline s r.agent (lineOf pa) (putBytes x (pa % 128) data)
          | none => s
        let s := if writesThrough r.agent then ownWrite s r.agent (lineOf pa) (bytesMask r) else s
        send (dropWords s r.agent (lineOf pa) 0) (.writeThrough r)
      else if needsFill s r then addMiss s r false (some (true, r))
      else storeCache s r
/-- A store on its place. -/
def storeAt (c : Ctl) (a : Word) (size : Nat) (v : Word) (h : Hint) (rel : Option Scope) (s : State) (p : Place)
    (t : TlbEnt) : State :=
  afterRelease s rel fun s =>
    match p with
    | .row r off =>
      if r = curRow s then afterOwn s off fun s => storeSelf c a size off v s
      else match outsideStoreFault s size off v with
        | some cause => fault s (faultOf cause 0 3) a
        | none => withSlot s fun s i => advance c (toRow s i size 0 1 2 a none r off (.store size v))
    | .spad cl off =>
      if routerRefuses s cl then setWait s (.router cl)
      else withSlot s fun s i =>
        advance c (answerNow (spadStore s cl off (leBytes size v.toNat)) i size 0 1 2 a none 0 none)
    | .reg pa => afterReread s fun s => withSlot s fun s i => advance c (answerNow (regWrite s pa v) i size 0 1 2 a none 0 none)
    | .host _ => fault s (faultOf cPagePerm 6 3) a
    | .mem pa => underLease s pa a 3 fun s => afterEarlier s pa size fun s =>
        let s' := storeMemory s a pa size v t h
        if s'.time = s.time then s' else advance c s'
/-- st (R177 to R180). -/
def execSt (c : Ctl) (rd ra : Reg) (t : StType) (off : Int) (m : MemMod) (s : State) :
    Host.Outcome State Fault Refusal :=
  memChain c s fun s =>
    let size := stSize t
    let a := memAddr s ra size off
    withSite s ⟨false, true, 3, size == 8⟩ a size (storeAt c a size (readReg s rd) m.hint (releaseOf m))

/-! ### ldl and stl (R181) -/

/-- The checks of a scratchpad access: a control executor's row has no scratchpad (R382). -/
def withOffset (s : State) (a : Word) (size acc : Nat) (body : State → Nat → State) : State :=
  if isCtl (curExec s) then fault s (faultOf cPagePerm 18 acc) (pc s)
  else if a.toNat % size ≠ 0 then fault s (faultOf cAlign 0 acc) a
  else if 2 ^ 23 ≤ a.toNat then fault s (faultOf cPagePerm 0 acc) a
  else body s a.toNat
/-- ldl: complete within the instruction; an uncorrectable error faults CHECK (R164, R181). -/
def execLdl (c : Ctl) (rd ra : Reg) (t : LdType) (off : Int) (m : MemMod) (s : State) :
    Host.Outcome State Fault Refusal :=
  memChain c s fun s =>
    let size := ldSize t
    let a := memAddr s ra size off
    if rd.win = 3 && !isCtl (curExec s) then fault s (faultOf cRowword 0 2) a
    else withOffset s a size 2 fun s o =>
      if spadError s then fault s (faultOf cCheck 2 2) a
      else
        let cl := clusterOf (curExec s)
        let v := extend (ldSigned t) size (leNat (spadBytes s cl o size))
        advance c (acquireNow (writeReg (spadRead s cl) rd v) (acquireOf m))
/-- stl (R181). -/
def execStl (c : Ctl) (rd ra : Reg) (t : StType) (off : Int) (m : MemMod) (s : State) :
    Host.Outcome State Fault Refusal :=
  memChain c s fun s =>
    let size := stSize t
    let a := memAddr s ra size off
    withOffset s a size 3 fun s o =>
      afterRelease s (releaseOf m) fun s =>
        advance c (spadStore s (clusterOf (curExec s)) o (leBytes size (readReg s rd).toNat))

/-! ### amo (R182 to R185) -/

/-- Whether an atomic on global memory is performed at its home (R184). -/
def atHome (s : State) (pa : Nat) (m : MemMod) : Bool :=
  writesThrough (agentOf (curExec s)) || isRemote s pa || !(m.scope == .row || m.scope == .clu)
/-- An atomic on global memory: at the home for die scope and wider, for the hub die and for a remote page; else in the
cluster cache, which identifier 1 of its request says (R184). -/
def amoMemory (s : State) (rd : Reg) (op : AmoOp) (m : MemMod) (a : Word) (pa : Nat) (b cmp : Word) (t : TlbEnt) :
    State :=
  withSlot s fun s i =>
    let n := amoSize m
    let r0 := requestOf s (.atomic op b cmp) i a pa n false t m.hint []
    let away := atHome s pa m
    if !away && !hits s r0 && !missRoom s r0.agent (lineOf pa) then setWait s .lines
    else
      let s := takeSlot s (.bank s.cur) i n (destOf rd) 2 3 a
      let r := { r0 with tag := slotTag s (.bank s.cur) i, id := num (!away) }
      let s := setOpRec s { blankOp s i with acq := acquireOf m, req := some r }
      if away then send s (.homeAtomic r) else cacheAtomic s r
/-- An atomic on its place. -/
def amoAt (c : Ctl) (rd rb : Reg) (op : AmoOp) (m : MemMod) (a : Word) (s : State) (p : Place) (t : TlbEnt) : State :=
  let n := amoSize m
  let b := readReg s rb
  let cmp := readReg s rd
  let new := fun old => amoNew op n old (b.toNat % 256 ^ n)
  let writes := fun old => amoWrites op old (cmp.toNat % 256 ^ n)
  afterRelease s (releaseOf m) fun s =>
    match p with
    | .row r off =>
      if off / 8 < 32 then fault s (faultOf cRowword 0 4) a
      else if r = curRow s then afterOwn s off fun s =>
        let old := imageBytes s (.bank s.cur) off n
        let s := if writes old then writeImage s r (.bank s.cur) off n (new old) else s
        advance c (acquireNow (writeReg s rd (zextBytes n old)) (acquireOf m))
      else withSlot s fun s i =>
        advance c (toRow s i n (destOf rd) 2 3 a (acquireOf m) r off (.amo n op b cmp))
    | .spad cl off =>
      if routerRefuses s cl then setWait s (.router cl)
      else withSlot s fun s i =>
        if spadError s then
          advance c (answerBad { s with count := s.count + 1 } i n (destOf rd) 2 3 a (acquireOf m))
        else
          let old := leNat (spadBytes s cl off n)
          let s := spadRead s cl
          let s := if writes old then spadStore s cl off (leBytes n (new old)) else s
          advance c (answerNow s i n (destOf rd) 2 3 a (acquireOf m) (zextBytes n old) none)
    | .reg _ => fault s (faultOf cPagePerm 14 4) a
    | .host _ => fault s (faultOf cPagePerm 6 4) a
    | .mem pa => underLease s pa a 4 fun s => afterEarlier s pa n fun s =>
        let s' := amoMemory s rd op m a pa b cmp t
        if s'.time = s.time then s' else advance c s'
/-- amo (R182). -/
def execAmo (c : Ctl) (rd ra rb : Reg) (op : AmoOp) (m : MemMod) (s : State) : Host.Outcome State Fault Refusal :=
  memChain c s fun s =>
    let a := readReg s ra
    if rd.win = 3 then fault s (faultOf cRowword 0 4) a
    else withSite s ⟨true, true, 4, false⟩ a (amoSize m) (amoAt c rd rb op m a)

/-! ### fence and pf (R186, R187) -/

/-- The slot of an ld or amo of the row that has not returned. -/
def loadOut (s : State) : Option Nat :=
  let l := Loc.bank s.cur
  (busySlots s l).find? fun i => slotKind s l i == 1 || slotKind s l i == 3
/-- The acquire of a fence waits until every earlier ld, ldl and amo has returned and made its own (R186). -/
def afterLoads (s : State) (acq : Option Scope) (body : State → State) : State :=
  match acq, loadOut s with
  | none, _ => body s
  | some _, some i => setWait s (.reply i)
  | some _, none => if acquirePending s then setWait s .acquire else body s
/-- fence waits at itself until its conditions hold, then makes its clearing (R186, log 17). -/
def execFence (c : Ctl) (m : MemMod) (s : State) : Host.Outcome State Fault Refusal :=
  chain c s fun s =>
    afterRelease s (releaseOf m) fun s => afterLoads s (acquireOf m) fun s => advance c (acquireNow s (acquireOf m))
/-- pf misses while 64 line requests of its cache are out: its row waits at it (R166). -/
def prefetchWaits (s : State) (m : MemMod) (p : Place) : Bool :=
  match p with
  | .mem pa => m.scope == .clu && !missRoom s (agentOf (curExec s)) (lineOf pa)
  | _ => false
/-- The line that pf names is brought in, where nothing forbids it (R187). -/
def prefetch (s : State) (m : MemMod) (a : Word) (p : Place) (t : TlbEnt) : State :=
  match p with
  | .mem pa =>
    let r := requestOf s (.read .touch) 8 a pa 1 false t m.hint []
    if m.scope = .clu then
      if leafClass t.leaf = clsOpen || (cline s r.agent (lineOf pa)).v = BitVec.allOnes 32 ||
          (isRemote s pa && !leaseUsable s (pa / 65536)) then s
      else
        let st := leafClass t.leaf = clsReadOnly || leafClass t.leaf = clsSealed
        match (if leafClass t.leaf = clsSealed && (missOf s r.agent (lineOf pa)).isNone then
            rackLook s (dieOf r.exec) r.part pa else (s, none)) with
        | (s, some fa) =>
          fromFrame { s with misses := s.misses ++ [⟨r.agent, lineOf pa, false, false, [], st, r.key, r.hint⟩] } r
            (fa / 128 * 128) 128 fun s => frameFill s r fa
        | (s, none) => addMiss s r st none
    else send s (.lineRead r)
  | _ => s
/-- pf raises no fault: a failed translation drops it (R187). -/
def execPf (c : Ctl) (ra : Reg) (m : MemMod) (s : State) : Host.Outcome State Fault Refusal :=
  memChain c s fun s =>
    let a := readReg s ra
    match siteOf s ⟨true, false, 2, false⟩ a with
    | .walk => if m.hint = .noal then advance c s else startWalk s a
    | .stop _ _ => advance c s
    | .at_ p t =>
      if m.hint = .noal then advance c s
      else if prefetchWaits s m p then setWait s .lines
      else advance c (prefetch s m a p t)

/-! ### LEASE_LOST (R95) -/

/-- No lease was obtained within 1 ms of the access's first attempt: the access that waits for it faults LEASE_LOST. -/
def execLeaseLost (r : RowId) (s : State) : Host.Outcome State Fault Refusal :=
  .next (match openRow s r with
    | some pr =>
      match (slotOf s pr).map fun k => (slot s (execOf pr) k).wait with
      | some (.lease _ a acc since) => if since + 1000000 ≤ s.time then takeFault s pr (faultOf cLease 0 acc) false false a else s
      | _ => s
    | none => s)

end Sys2Proof.Machine
end

