-- ==== Sys2Proof/Machine/Uses.lean ====
section
/-!
DEFINITION. The row words that a chain names as registers, for the interlock of R174, and the fields that every chain
carries.
-/

namespace Sys2Proof.Machine

/-- Row words that a chain reads or writes as registers (R174); g0 is d32, which no result is kept for. -/
def regWords (i : Instr) : List Nat :=
  match i with
  | .ill _ => []
  | .nop _ => []
  | .stop _ => []
  | .yield _ => []
  | .brk _ => []
  | .ifence _ => []
  | .sget _ r _ => [regIndex r]
  | .sset _ r _ => [regIndex r]
  | .trap _ _ => []
  | .hcall _ _ => []
  | .xret _ ra rb => [regIndex ra, regIndex rb]
  | .tlbinv _ ra rb => [regIndex ra, regIndex rb]
  | .rowctl _ rd ra rb => [regIndex rd, regIndex ra, regIndex rb]
  | .mbox _ rd ra rb => [regIndex rd, regIndex ra, regIndex rb]
  | .add _ rd ra rb => [regIndex rd, regIndex ra, regIndex rb]
  | .sub _ rd ra rb => [regIndex rd, regIndex ra, regIndex rb]
  | .and _ rd ra rb => [regIndex rd, regIndex ra, regIndex rb]
  | .or _ rd ra rb => [regIndex rd, regIndex ra, regIndex rb]
  | .xor _ rd ra rb => [regIndex rd, regIndex ra, regIndex rb]
  | .andn _ rd ra rb => [regIndex rd, regIndex ra, regIndex rb]
  | .orn _ rd ra rb => [regIndex rd, regIndex ra, regIndex rb]
  | .nor _ rd ra rb => [regIndex rd, regIndex ra, regIndex rb]
  | .shl _ rd ra rb => [regIndex rd, regIndex ra, regIndex rb]
  | .shr _ rd ra rb => [regIndex rd, regIndex ra, regIndex rb]
  | .sra _ rd ra rb => [regIndex rd, regIndex ra, regIndex rb]
  | .rol _ rd ra rb => [regIndex rd, regIndex ra, regIndex rb]
  | .min _ rd ra rb => [regIndex rd, regIndex ra, regIndex rb]
  | .max _ rd ra rb => [regIndex rd, regIndex ra, regIndex rb]
  | .minz _ rd ra rb => [regIndex rd, regIndex ra, regIndex rb]
  | .maxz _ rd ra rb => [regIndex rd, regIndex ra, regIndex rb]
  | .mul _ rd ra rb => [regIndex rd, regIndex ra, regIndex rb]
  | .mulh _ rd ra rb => [regIndex rd, regIndex ra, regIndex rb]
  | .mulhz _ rd ra rb => [regIndex rd, regIndex ra, regIndex rb]
  | .div _ rd ra rb => [regIndex rd, regIndex ra, regIndex rb]
  | .divz _ rd ra rb => [regIndex rd, regIndex ra, regIndex rb]
  | .rem _ rd ra rb => [regIndex rd, regIndex ra, regIndex rb]
  | .remz _ rd ra rb => [regIndex rd, regIndex ra, regIndex rb]
  | .abs _ rd ra => [regIndex rd, regIndex ra]
  | .neg _ rd ra => [regIndex rd, regIndex ra]
  | .clz _ rd ra => [regIndex rd, regIndex ra]
  | .ctz _ rd ra => [regIndex rd, regIndex ra]
  | .popc _ rd ra => [regIndex rd, regIndex ra]
  | .bswap _ rd ra => [regIndex rd, regIndex ra]
  | .bfx _ rd ra rb => [regIndex rd, regIndex ra, regIndex rb]
  | .bfxz _ rd ra rb => [regIndex rd, regIndex ra, regIndex rb]
  | .bfi _ rd ra rb => [regIndex rd, regIndex ra, regIndex rb]
  | .sxb _ rd ra => [regIndex rd, regIndex ra]
  | .sxh _ rd ra => [regIndex rd, regIndex ra]
  | .sxw _ rd ra => [regIndex rd, regIndex ra]
  | .zxb _ rd ra => [regIndex rd, regIndex ra]
  | .zxh _ rd ra => [regIndex rd, regIndex ra]
  | .zxw _ rd ra => [regIndex rd, regIndex ra]
  | .cmp _ _ _ ra rb => [regIndex ra, regIndex rb]
  | .cmpi _ _ _ ra _ => [regIndex ra]
  | .pand _ _ _ _ => []
  | .por _ _ _ _ => []
  | .pxor _ _ _ _ => []
  | .pandn _ _ _ _ => []
  | .pnot _ _ _ => []
  | .pmov _ _ _ => []
  | .pset _ _ => []
  | .pclr _ _ => []
  | .pget _ gd => [32 + gd.toNat]
  | .pput _ ga => [32 + ga.toNat]
  | .addi _ rd ra _ => [regIndex rd, regIndex ra]
  | .andi _ rd ra _ => [regIndex rd, regIndex ra]
  | .ori _ rd ra _ => [regIndex rd, regIndex ra]
  | .xori _ rd ra _ => [regIndex rd, regIndex ra]
  | .shli _ rd ra _ => [regIndex rd, regIndex ra]
  | .shri _ rd ra _ => [regIndex rd, regIndex ra]
  | .srai _ rd ra _ => [regIndex rd, regIndex ra]
  | .muli _ rd ra _ => [regIndex rd, regIndex ra]
  | .movi _ rd _ => [regIndex rd]
  | .adr _ rd _ => [regIndex rd]
  | .br _ _ => []
  | .bl _ _ => [63]
  | .jr _ ra => [regIndex ra]
  | .jlr _ rd ra => [regIndex rd, regIndex ra]
  | .dbnz _ rd _ => [regIndex rd]
  | .ld _ rd ra _ _ _ => [regIndex rd, regIndex ra]
  | .st _ rd ra _ _ _ => [regIndex rd, regIndex ra]
  | .ldl _ rd ra _ _ _ => [regIndex rd, regIndex ra]
  | .stl _ rd ra _ _ _ => [regIndex rd, regIndex ra]
  | .amo _ rd ra rb _ _ => [regIndex rd, regIndex ra, regIndex rb]
  | .fence _ _ => []
  | .pf _ ra _ => [regIndex ra]
  | .app _ rd ra rb _ => [regIndex rd, regIndex ra, regIndex rb]
  | .appl _ rd ra rb _ => [regIndex rd, regIndex ra, regIndex rb]
  | .seal _ rd ra => [regIndex rd, regIndex ra]
  | .tail _ rd ra => [regIndex rd, regIndex ra]
  | .fadd _ rd ra rb _ => [regIndex rd, regIndex ra, regIndex rb]
  | .fsub _ rd ra rb _ => [regIndex rd, regIndex ra, regIndex rb]
  | .fmul _ rd ra rb _ => [regIndex rd, regIndex ra, regIndex rb]
  | .fdiv _ rd ra rb _ => [regIndex rd, regIndex ra, regIndex rb]
  | .fsqrt _ rd ra _ => [regIndex rd, regIndex ra]
  | .fmin _ rd ra rb _ => [regIndex rd, regIndex ra, regIndex rb]
  | .fmax _ rd ra rb _ => [regIndex rd, regIndex ra, regIndex rb]
  | .fabs _ rd ra _ => [regIndex rd, regIndex ra]
  | .fneg _ rd ra _ => [regIndex rd, regIndex ra]
  | .fclass _ rd ra _ => [regIndex rd, regIndex ra]
  | .fcpys _ rd ra rb _ => [regIndex rd, regIndex ra, regIndex rb]
  | .fma _ rd ra rb _ => [regIndex rd, regIndex ra, regIndex rb]
  | .fms _ rd ra rb _ => [regIndex rd, regIndex ra, regIndex rb]
  | .fnma _ rd ra rb _ => [regIndex rd, regIndex ra, regIndex rb]
  | .fnms _ rd ra rb _ => [regIndex rd, regIndex ra, regIndex rb]
  | .fcmp _ _ _ ra rb _ => [regIndex ra, regIndex rb]
  | .fcvt _ rd ra _ => [regIndex rd, regIndex ra]
  | .fcvti _ rd ra _ => [regIndex rd, regIndex ra]
  | .fcvtf _ rd ra _ => [regIndex rd, regIndex ra]
  | .vclaim _ rd ra => [regIndex rd, regIndex ra]
  | .vfree _ rd => [regIndex rd]
  | .vwait _ rd ra => [regIndex rd, regIndex ra]
  | .vstat _ rd ra => [regIndex rd, regIndex ra]
  | .vadd _ rd ra rb _ => [regIndex rd, regIndex ra, regIndex rb]
  | .vsub _ rd ra rb _ => [regIndex rd, regIndex ra, regIndex rb]
  | .vmul _ rd ra rb _ => [regIndex rd, regIndex ra, regIndex rb]
  | .vmin _ rd ra rb _ => [regIndex rd, regIndex ra, regIndex rb]
  | .vmax _ rd ra rb _ => [regIndex rd, regIndex ra, regIndex rb]
  | .vdiv _ rd ra rb _ => [regIndex rd, regIndex ra, regIndex rb]
  | .vand _ rd ra rb _ => [regIndex rd, regIndex ra, regIndex rb]
  | .vor _ rd ra rb _ => [regIndex rd, regIndex ra, regIndex rb]
  | .vxor _ rd ra rb _ => [regIndex rd, regIndex ra, regIndex rb]
  | .vshl _ rd ra rb _ => [regIndex rd, regIndex ra, regIndex rb]
  | .vshr _ rd ra rb _ => [regIndex rd, regIndex ra, regIndex rb]
  | .vsra _ rd ra rb _ => [regIndex rd, regIndex ra, regIndex rb]
  | .vabsd _ rd ra rb _ => [regIndex rd, regIndex ra, regIndex rb]
  | .vfma _ rd ra rb _ => [regIndex rd, regIndex ra, regIndex rb]
  | .vfms _ rd ra rb _ => [regIndex rd, regIndex ra, regIndex rb]
  | .vneg _ rd ra rb _ => [regIndex rd, regIndex ra, regIndex rb]
  | .vabs _ rd ra rb _ => [regIndex rd, regIndex ra, regIndex rb]
  | .vsqrt _ rd ra rb _ => [regIndex rd, regIndex ra, regIndex rb]
  | .vrsq _ rd ra rb _ => [regIndex rd, regIndex ra, regIndex rb]
  | .vrcp _ rd ra rb _ => [regIndex rd, regIndex ra, regIndex rb]
  | .vexp2 _ rd ra rb _ => [regIndex rd, regIndex ra, regIndex rb]
  | .vlog2 _ rd ra rb _ => [regIndex rd, regIndex ra, regIndex rb]
  | .vcvt _ rd ra rb _ => [regIndex rd, regIndex ra, regIndex rb]
  | .vmov _ rd ra rb _ => [regIndex rd, regIndex ra, regIndex rb]
  | .vfill _ rd ra rb _ => [regIndex rd, regIndex ra, regIndex rb]
  | .vclamp _ rd ra rb _ => [regIndex rd, regIndex ra, regIndex rb]
  | .viota _ rd ra rb _ => [regIndex rd, regIndex ra, regIndex rb]
  | .vsel _ rd ra rb _ => [regIndex rd, regIndex ra, regIndex rb]
  | .vredsum _ rd ra rb _ => [regIndex rd, regIndex ra, regIndex rb]
  | .vredmax _ rd ra rb _ => [regIndex rd, regIndex ra, regIndex rb]
  | .vredmin _ rd ra rb _ => [regIndex rd, regIndex ra, regIndex rb]
  | .vscan _ rd ra rb _ => [regIndex rd, regIndex ra, regIndex rb]
  | .vgat _ rd ra rb _ => [regIndex rd, regIndex ra, regIndex rb]
  | .vsct _ rd ra rb _ => [regIndex rd, regIndex ra, regIndex rb]
  | .vcmp _ rd ra rb _ => [regIndex rd, regIndex ra, regIndex rb]
  | .vpack _ rd ra rb _ => [regIndex rd, regIndex ra, regIndex rb]
  | .vcnt _ rd ra rb _ => [regIndex rd, regIndex ra, regIndex rb]
  | .vfnld _ rd ra rb _ => [regIndex rd, regIndex ra, regIndex rb]
  | .vfn _ rd ra rb _ => [regIndex rd, regIndex ra, regIndex rb]
  | .vfnst _ rd ra rb _ => [regIndex rd, regIndex ra, regIndex rb]
  | .cpy _ rd ra _ => [regIndex rd, regIndex ra, regIndex (regPlus ra 1), regIndex (regPlus ra 2)]
  | .cpyz _ rd ra _ => [regIndex rd, regIndex ra, regIndex (regPlus ra 1), regIndex (regPlus ra 2)]
  | .cpy2 _ rd ra rb _ => [regIndex rd, regIndex ra, regIndex rb, regIndex (regPlus ra 1), regIndex (regPlus ra 2)]
  | .cpyg _ rd ra rb _ => [regIndex rd, regIndex ra, regIndex rb, regIndex (regPlus ra 1), regIndex (regPlus ra 2)]
  | .cpyc _ rd _ => [regIndex rd]
  | .cpyw _ rd _ _ => [regIndex rd]
  | .dclone _ rd ra => [regIndex rd, regIndex ra, regIndex (regPlus ra 1), regIndex (regPlus ra 2)]
  | .dzero _ rd ra => [regIndex rd, regIndex ra, regIndex (regPlus ra 1), regIndex (regPlus ra 2)]
  | .scrub _ rd ra => [regIndex rd, regIndex ra, regIndex (regPlus ra 1), regIndex (regPlus ra 2)]
  | .cpyq _ rd ra => [regIndex rd, regIndex ra]
  | .post _ ra => [regIndex ra]
  | .await _ rd ra rb => [regIndex rd, regIndex ra, regIndex rb]
  | .tqry _ rd ra => [regIndex rd, regIndex ra]
  | .fork _ rd ra => [regIndex rd, regIndex ra]
  | .rdv _ rd ra rb => [regIndex rd, regIndex ra, regIndex rb]
  | .bar _ rd _ _ => [regIndex rd]
  | .arrive _ _ => []
  | .wait _ rd ra rb => [regIndex rd, regIndex ra, regIndex rb]
  | .park _ => []
  | .evset _ ra rb => [regIndex ra, regIndex rb]
  | .evret _ ra => [regIndex ra]
  | .evmask _ rd ra rb => [regIndex rd, regIndex ra, regIndex rb]
  | .start _ _ => []
  | .stopCommand _ => []
  | .redirect _ _ => []
  | .wake _ => []
  | .freeze _ => []
  | .thaw _ => []
  | .parkCommand _ => []
  | .unpark _ => []
  | .move _ _ => []
  | .quantumClosing _ _ => []
  | .switchMarkerClosing _ _ => []
  | .waitingInstructionClosing _ _ => []
  | .limitClosing _ _ => []
  | .waitConditionMet _ => []
  | .closingDone _ _ => []
  | .opening _ => []
  | .openingDone _ _ => []
  | .openInPlace _ _ => []
  | .bringIn _ => []
  | .outsideRowAccess _ => []
  | .resultArrival _ => []
  | .lateCheck _ => []
  | .vlate _ => []
  | .eventDelivery _ => []
  | .lineFill _ _ _ _ _ => []
  | .registrationAck _ _ _ => []
  | .recall _ _ _ => []
  | .forward _ _ _ => []
  | .invalidation _ _ _ _ => []
  | .registration _ => []
  | .recallWriteback _ _ _ _ _ => []
  | .evictionWriteback _ _ _ _ _ => []
  | .forwardReply _ _ _ _ _ => []
  | .lineRead _ => []
  | .homeAtomic _ => []
  | .writeThrough _ => []
  | .engineLineWrite _ => []
  | .invalidationAck _ _ _ _ => []
  | .evictionNotice _ _ _ => []
  | .tierFill _ => []
  | .refresh _ _ => []
  | .refreshLimit _ _ => []
  | .agentTimeout _ => []
  | .agentDead _ => []
  | .leaseRenewal _ _ _ _ => []
  | .leaseLost _ => []
  | .leaseExpiry _ _ => []
  | .revoke _ => []
  | .revokeAck _ _ => []
  | .homeHandover _ => []
  | .commit _ _ _ => []
  | .rehomeReissue _ => []
  | .copyStep _ _ => []
  | .batchReport _ => []
  | .appendGrant _ => []
  | .appendWrite _ => []
  | .sealArrival _ => []
  | .sealEntryWrite _ => []
  | .tailRequest _ => []
  | .rackRequest _ _ _ => []
  | .rackPushLine _ _ _ _ _ => []
  | .rackDrop _ _ => []
  | .caskInit _ _ => []
  | .caskInitZero _ _ => []
  | .caskFree _ _ => []
  | .reclaimSweepEnd _ => []
  | .vectorExecute _ _ => []
  | .claimGrant _ _ => []
  | .vparkResume _ _ => []
  | .vparkDiscard _ _ => []
  | .postReceive _ => []
  | .nodeRelease _ _ _ => []
  | .nodeDispatch _ => []
  | .nodeAging _ _ _ => []
  | .nodeDone _ _ _ => []
  | .nodeFault _ _ _ _ _ => []
  | .nparkResume _ => []
  | .nparkFail _ => []
  | .nodeRetry _ _ => []
  | .nodeDrop _ _ => []
  | .launchQueueRing _ _ _ => []
  | .forkRequest _ => []
  | .launchTake _ => []
  | .rowCreate _ _ _ => []
  | .launchComplete _ _ => []
  | .barrierArrival _ => []
  | .syncCompletion _ _ _ _ _ => []
  | .rdvArrival _ _ _ => []
  | .watchReply _ _ _ _ _ => []
  | .ringMessageWrite _ _ => []
  | .mboxDrain _ => []
  | .pageWalk _ _ _ => []
  | .ptRootWrite _ _ => []
  | .pmemCfgWrite _ _ => []
  | .pcaskCfgWrite _ _ => []
  | .prowCfgWrite _ _ => []
  | .psaveCfgWrite _ _ => []
  | .keyLoad _ => []
  | .keyClear _ => []
  | .pin _ _ => []
  | .pinp _ _ => []
  | .unpin _ _ => []
  | .migrate _ _ => []
  | .retire _ _ => []
  | .spunmap _ _ => []
  | .hptCandRead _ => []
  | .hptSkipRead _ => []
  | .evict _ _ => []
  | .forcedFreeze _ => []
  | .evictionStreaming _ => []
  | .restore _ _ => []
  | .remove _ _ => []
  | .addCluster _ _ => []
  | .gsEntryWrite _ => []
  | .sliceEntry => []
  | .enable _ => []
  | .disable _ => []
  | .reset _ => []
  | .badcfgClear _ => []
  | .pbwWrite _ _ => []
  | .bwStallRead _ => []
  | .hostPostedWrite _ => []
  | .hostBarRead _ => []
  | .storageDoorbell _ _ _ => []
  | .storageCompletion _ _ _ _ _ => []
  | .peerFlitReceive _ => []
  | .peerLinkUp _ _ => []
  | .peerPortFailure _ => []
  | .boot => []
  | .warmReset => []
  | .translatePortableModule _ => []
  | .verifyNativeImage _ => []
  | .attest _ => []
  | .halt _ => []
  | .resume _ => []
  | .step _ => []
  | .breakpointMatch _ _ => []
  | .trcCtlWrite _ _ => []
  | .traceTimeRecord _ => []
  | .lifetimeFlush => []
  | .rollbackFloorWrite _ => []
  | .pwrCtlWrite _ => []
  | .clockChangeDone => []
  | .thermalNotice _ _ => []
  | .throttleStart _ => []
  | .throttleEnd => []
  | .managementHalt => []
  | .registerWrite _ _ _ => []
  | .reservedEncoding _ => []
  | .fetchFault _ _ _ _ => []
  | .sensorFallenBelow90c _ => []
  | .powerLoss => []
  | .orderlyShutdown => []

/-- Switch marker, guard and prefix count of a chain (R34); a device step has none. -/
def ctlOfInstr (i : Instr) : Option Ctl :=
  match i with
  | .ill c => some c
  | .nop c => some c
  | .stop c => some c
  | .yield c => some c
  | .brk c => some c
  | .ifence c => some c
  | .sget c _ _ => some c
  | .sset c _ _ => some c
  | .trap c _ => some c
  | .hcall c _ => some c
  | .xret c _ _ => some c
  | .tlbinv c _ _ => some c
  | .rowctl c _ _ _ => some c
  | .mbox c _ _ _ => some c
  | .add c _ _ _ => some c
  | .sub c _ _ _ => some c
  | .and c _ _ _ => some c
  | .or c _ _ _ => some c
  | .xor c _ _ _ => some c
  | .andn c _ _ _ => some c
  | .orn c _ _ _ => some c
  | .nor c _ _ _ => some c
  | .shl c _ _ _ => some c
  | .shr c _ _ _ => some c
  | .sra c _ _ _ => some c
  | .rol c _ _ _ => some c
  | .min c _ _ _ => some c
  | .max c _ _ _ => some c
  | .minz c _ _ _ => some c
  | .maxz c _ _ _ => some c
  | .mul c _ _ _ => some c
  | .mulh c _ _ _ => some c
  | .mulhz c _ _ _ => some c
  | .div c _ _ _ => some c
  | .divz c _ _ _ => some c
  | .rem c _ _ _ => some c
  | .remz c _ _ _ => some c
  | .abs c _ _ => some c
  | .neg c _ _ => some c
  | .clz c _ _ => some c
  | .ctz c _ _ => some c
  | .popc c _ _ => some c
  | .bswap c _ _ => some c
  | .bfx c _ _ _ => some c
  | .bfxz c _ _ _ => some c
  | .bfi c _ _ _ => some c
  | .sxb c _ _ => some c
  | .sxh c _ _ => some c
  | .sxw c _ _ => some c
  | .zxb c _ _ => some c
  | .zxh c _ _ => some c
  | .zxw c _ _ => some c
  | .cmp c _ _ _ _ => some c
  | .cmpi c _ _ _ _ => some c
  | .pand c _ _ _ => some c
  | .por c _ _ _ => some c
  | .pxor c _ _ _ => some c
  | .pandn c _ _ _ => some c
  | .pnot c _ _ => some c
  | .pmov c _ _ => some c
  | .pset c _ => some c
  | .pclr c _ => some c
  | .pget c _ => some c
  | .pput c _ => some c
  | .addi c _ _ _ => some c
  | .andi c _ _ _ => some c
  | .ori c _ _ _ => some c
  | .xori c _ _ _ => some c
  | .shli c _ _ _ => some c
  | .shri c _ _ _ => some c
  | .srai c _ _ _ => some c
  | .muli c _ _ _ => some c
  | .movi c _ _ => some c
  | .adr c _ _ => some c
  | .br c _ => some c
  | .bl c _ => some c
  | .jr c _ => some c
  | .jlr c _ _ => some c
  | .dbnz c _ _ => some c
  | .ld c _ _ _ _ _ => some c
  | .st c _ _ _ _ _ => some c
  | .ldl c _ _ _ _ _ => some c
  | .stl c _ _ _ _ _ => some c
  | .amo c _ _ _ _ _ => some c
  | .fence c _ => some c
  | .pf c _ _ => some c
  | .app c _ _ _ _ => some c
  | .appl c _ _ _ _ => some c
  | .seal c _ _ => some c
  | .tail c _ _ => some c
  | .fadd c _ _ _ _ => some c
  | .fsub c _ _ _ _ => some c
  | .fmul c _ _ _ _ => some c
  | .fdiv c _ _ _ _ => some c
  | .fsqrt c _ _ _ => some c
  | .fmin c _ _ _ _ => some c
  | .fmax c _ _ _ _ => some c
  | .fabs c _ _ _ => some c
  | .fneg c _ _ _ => some c
  | .fclass c _ _ _ => some c
  | .fcpys c _ _ _ _ => some c
  | .fma c _ _ _ _ => some c
  | .fms c _ _ _ _ => some c
  | .fnma c _ _ _ _ => some c
  | .fnms c _ _ _ _ => some c
  | .fcmp c _ _ _ _ _ => some c
  | .fcvt c _ _ _ => some c
  | .fcvti c _ _ _ => some c
  | .fcvtf c _ _ _ => some c
  | .vclaim c _ _ => some c
  | .vfree c _ => some c
  | .vwait c _ _ => some c
  | .vstat c _ _ => some c
  | .vadd c _ _ _ _ => some c
  | .vsub c _ _ _ _ => some c
  | .vmul c _ _ _ _ => some c
  | .vmin c _ _ _ _ => some c
  | .vmax c _ _ _ _ => some c
  | .vdiv c _ _ _ _ => some c
  | .vand c _ _ _ _ => some c
  | .vor c _ _ _ _ => some c
  | .vxor c _ _ _ _ => some c
  | .vshl c _ _ _ _ => some c
  | .vshr c _ _ _ _ => some c
  | .vsra c _ _ _ _ => some c
  | .vabsd c _ _ _ _ => some c
  | .vfma c _ _ _ _ => some c
  | .vfms c _ _ _ _ => some c
  | .vneg c _ _ _ _ => some c
  | .vabs c _ _ _ _ => some c
  | .vsqrt c _ _ _ _ => some c
  | .vrsq c _ _ _ _ => some c
  | .vrcp c _ _ _ _ => some c
  | .vexp2 c _ _ _ _ => some c
  | .vlog2 c _ _ _ _ => some c
  | .vcvt c _ _ _ _ => some c
  | .vmov c _ _ _ _ => some c
  | .vfill c _ _ _ _ => some c
  | .vclamp c _ _ _ _ => some c
  | .viota c _ _ _ _ => some c
  | .vsel c _ _ _ _ => some c
  | .vredsum c _ _ _ _ => some c
  | .vredmax c _ _ _ _ => some c
  | .vredmin c _ _ _ _ => some c
  | .vscan c _ _ _ _ => some c
  | .vgat c _ _ _ _ => some c
  | .vsct c _ _ _ _ => some c
  | .vcmp c _ _ _ _ => some c
  | .vpack c _ _ _ _ => some c
  | .vcnt c _ _ _ _ => some c
  | .vfnld c _ _ _ _ => some c
  | .vfn c _ _ _ _ => some c
  | .vfnst c _ _ _ _ => some c
  | .cpy c _ _ _ => some c
  | .cpyz c _ _ _ => some c
  | .cpy2 c _ _ _ _ => some c
  | .cpyg c _ _ _ _ => some c
  | .cpyc c _ _ => some c
  | .cpyw c _ _ _ => some c
  | .dclone c _ _ => some c
  | .dzero c _ _ => some c
  | .scrub c _ _ => some c
  | .cpyq c _ _ => some c
  | .post c _ => some c
  | .await c _ _ _ => some c
  | .tqry c _ _ => some c
  | .fork c _ _ => some c
  | .rdv c _ _ _ => some c
  | .bar c _ _ _ => some c
  | .arrive c _ => some c
  | .wait c _ _ _ => some c
  | .park c => some c
  | .evset c _ _ => some c
  | .evret c _ => some c
  | .evmask c _ _ _ => some c
  | .start _ _ => none
  | .stopCommand _ => none
  | .redirect _ _ => none
  | .wake _ => none
  | .freeze _ => none
  | .thaw _ => none
  | .parkCommand _ => none
  | .unpark _ => none
  | .move _ _ => none
  | .quantumClosing _ _ => none
  | .switchMarkerClosing _ _ => none
  | .waitingInstructionClosing _ _ => none
  | .limitClosing _ _ => none
  | .waitConditionMet _ => none
  | .closingDone _ _ => none
  | .opening _ => none
  | .openingDone _ _ => none
  | .openInPlace _ _ => none
  | .bringIn _ => none
  | .outsideRowAccess _ => none
  | .resultArrival _ => none
  | .lateCheck _ => none
  | .vlate _ => none
  | .eventDelivery _ => none
  | .lineFill _ _ _ _ _ => none
  | .registrationAck _ _ _ => none
  | .recall _ _ _ => none
  | .forward _ _ _ => none
  | .invalidation _ _ _ _ => none
  | .registration _ => none
  | .recallWriteback _ _ _ _ _ => none
  | .evictionWriteback _ _ _ _ _ => none
  | .forwardReply _ _ _ _ _ => none
  | .lineRead _ => none
  | .homeAtomic _ => none
  | .writeThrough _ => none
  | .engineLineWrite _ => none
  | .invalidationAck _ _ _ _ => none
  | .evictionNotice _ _ _ => none
  | .tierFill _ => none
  | .refresh _ _ => none
  | .refreshLimit _ _ => none
  | .agentTimeout _ => none
  | .agentDead _ => none
  | .leaseRenewal _ _ _ _ => none
  | .leaseLost _ => none
  | .leaseExpiry _ _ => none
  | .revoke _ => none
  | .revokeAck _ _ => none
  | .homeHandover _ => none
  | .commit _ _ _ => none
  | .rehomeReissue _ => none
  | .copyStep _ _ => none
  | .batchReport _ => none
  | .appendGrant _ => none
  | .appendWrite _ => none
  | .sealArrival _ => none
  | .sealEntryWrite _ => none
  | .tailRequest _ => none
  | .rackRequest _ _ _ => none
  | .rackPushLine _ _ _ _ _ => none
  | .rackDrop _ _ => none
  | .caskInit _ _ => none
  | .caskInitZero _ _ => none
  | .caskFree _ _ => none
  | .reclaimSweepEnd _ => none
  | .vectorExecute _ _ => none
  | .claimGrant _ _ => none
  | .vparkResume _ _ => none
  | .vparkDiscard _ _ => none
  | .postReceive _ => none
  | .nodeRelease _ _ _ => none
  | .nodeDispatch _ => none
  | .nodeAging _ _ _ => none
  | .nodeDone _ _ _ => none
  | .nodeFault _ _ _ _ _ => none
  | .nparkResume _ => none
  | .nparkFail _ => none
  | .nodeRetry _ _ => none
  | .nodeDrop _ _ => none
  | .launchQueueRing _ _ _ => none
  | .forkRequest _ => none
  | .launchTake _ => none
  | .rowCreate _ _ _ => none
  | .launchComplete _ _ => none
  | .barrierArrival _ => none
  | .syncCompletion _ _ _ _ _ => none
  | .rdvArrival _ _ _ => none
  | .watchReply _ _ _ _ _ => none
  | .ringMessageWrite _ _ => none
  | .mboxDrain _ => none
  | .pageWalk _ _ _ => none
  | .ptRootWrite _ _ => none
  | .pmemCfgWrite _ _ => none
  | .pcaskCfgWrite _ _ => none
  | .prowCfgWrite _ _ => none
  | .psaveCfgWrite _ _ => none
  | .keyLoad _ => none
  | .keyClear _ => none
  | .pin _ _ => none
  | .pinp _ _ => none
  | .unpin _ _ => none
  | .migrate _ _ => none
  | .retire _ _ => none
  | .spunmap _ _ => none
  | .hptCandRead _ => none
  | .hptSkipRead _ => none
  | .evict _ _ => none
  | .forcedFreeze _ => none
  | .evictionStreaming _ => none
  | .restore _ _ => none
  | .remove _ _ => none
  | .addCluster _ _ => none
  | .gsEntryWrite _ => none
  | .sliceEntry => none
  | .enable _ => none
  | .disable _ => none
  | .reset _ => none
  | .badcfgClear _ => none
  | .pbwWrite _ _ => none
  | .bwStallRead _ => none
  | .hostPostedWrite _ => none
  | .hostBarRead _ => none
  | .storageDoorbell _ _ _ => none
  | .storageCompletion _ _ _ _ _ => none
  | .peerFlitReceive _ => none
  | .peerLinkUp _ _ => none
  | .peerPortFailure _ => none
  | .boot => none
  | .warmReset => none
  | .translatePortableModule _ => none
  | .verifyNativeImage _ => none
  | .attest _ => none
  | .halt _ => none
  | .resume _ => none
  | .step _ => none
  | .breakpointMatch _ _ => none
  | .trcCtlWrite _ _ => none
  | .traceTimeRecord _ => none
  | .lifetimeFlush => none
  | .rollbackFloorWrite _ => none
  | .pwrCtlWrite _ => none
  | .clockChangeDone => none
  | .thermalNotice _ _ => none
  | .throttleStart _ => none
  | .throttleEnd => none
  | .managementHalt => none
  | .registerWrite _ _ _ => none
  | .reservedEncoding _ => none
  | .fetchFault _ _ _ _ => none
  | .sensorFallenBelow90c _ => none
  | .powerLoss => none
  | .orderlyShutdown => none

end Sys2Proof.Machine
end

