-- ==== Sys2Proof/Machine/Fetch.lean ====
section
/-!
DEFINITION. Fetching a chain: translation and permission of each word, the cluster cache, old words of code that was
just rewritten, and decoding in address order (R44, R53 to R55, R180, R224, R396 to R399).
-/

namespace Sys2Proof.Machine

/-- What fetching at the PC of a row gives: a chain with its words, the offset of a word that decides ILLEGAL, a fetch
fault, or what the row waits for. -/
inductive Fetched where
  | chain (i : Instr) (words : Nat)
  | reserved (word : Nat)
  | fault (word cause info lvl : Nat)
  | walk (va : Word)
  | lease (page : Nat) (va : Word)
  | line (va pa : Nat) (t : TlbEnt)
  deriving DecidableEq, Repr

/-- A code word that the cache holds, or the old one that the row may still issue (R224): a free choice (log 5). -/
def codeValue (s : State) (pr n pa : Nat) (w : W32) : W32 :=
  let old := staleAt s (agentOf (execOf pr)) (rowId s pr) (pa / 4 * 4)
  if old = [] then w else nth old ((Config.freeWord 0x224 s.count).toNat / 2 ^ (8 * n) % (old.length + 1)) w
/-- Word n of a chain from global memory: a valid word of the agent's cache, else its line is asked for; a block that
nobody owns and that is poisoned or keyed otherwise faults CHECK (R62, R66, log 20). -/
def codeWord (s : State) (pr n : Nat) (va : Word) (pa : Nat) (t : TlbEnt) : W32 ⊕ Fetched :=
  let agent := agentOf (execOf pr)
  let x := cline s agent (lineOf pa)
  let i := pa / 4 % 32
  let owned := (owners (hline s (lineOf pa)).reg).any fun a => (ownMask (hline s (lineOf pa)).reg a).getLsbD i
  if isRemote s pa && !leaseUsable s (pa / 65536) then .inr (.lease (pa / 65536) va)
  else if leafClass t.leaf = clsOpen then .inl (wordNow s pa)
  else if x.v.getLsbD i then .inl (codeValue s pr n pa (cword x i))
  else if !owned && delivery s pa (leafKey t.leaf) ≠ 0 then
    .inr (.fault n cCheck (delivery s pa (leafKey t.leaf) - 1) 7)
  else .inr (.line va.toNat pa t)
/-- Word n of the chain at the PC of a row (R44, R55, R180, R396): code lies in global memory; the window, row space,
registers and the host range admit no fetch (log 20). -/
def fetchWord (s : State) (pr n : Nat) : W32 ⊕ Fetched :=
  let va := rowWord s pr 1 + w64 (4 * n)
  let e := execOf pr
  let q := (rowId s pr).part
  if e ≠ 544 && canonical va && inWindow s q va then .inr (.fault n cPagePerm 17 7)
  else match lookupFor s pr va with
    | .miss => .inr (.walk va)
    | .fault c i l => .inr (.fault n c i l)
    | .leaf t =>
      match permFault (privOf s pr) .fetch t.leaf with
      | some i => .inr (.fault n cPagePerm i 7)
      | none =>
        match leafPlace t (if e = 544 then va.toNat else bits va 0 57) with
        | .mem pa =>
          if e ≠ 544 && !keyValid s (part s q) (leafKey t.leaf) then .inr (.fault n cPagePerm 7 7)
          else codeWord s pr n va pa t
        | .spad _ _ => .inr (.fault n cPagePerm 17 7)
        | .row _ _ => .inr (.fault n cPagePerm 15 7)
        | .reg _ => .inr (.fault n cPagePerm 14 7)
        | .host _ => .inr (.fault n cPagePerm 6 7)
/-- The words of a chain fetched and decoded in address order; a later word is not fetched once an earlier one decides
(R44). Fuel is the five words that a chain can have examined. -/
def fetchFrom (s : State) (pr : Nat) : Nat → List W32 → Fetched
  | 0, _ => .reserved 4
  | n + 1, ws =>
    match fetchWord s pr ws.length with
    | .inr f => f
    | .inl w =>
      match decode (ws ++ [w]) with
      | .ok i k => .chain i k
      | .illegal k => .reserved k
      | .short => fetchFrom s pr n (ws ++ [w])
/-- The chain at the PC of a row (R44, R55). -/
def fetch (s : State) (pr : Nat) : Fetched :=
  if rowWord s pr 1 % 4 ≠ 0 then .fault 0 cAlign 0 7 else fetchFrom s pr 5 []

/-- The executing row asks for a line of code (R166); a sealed page may come from a rack frame (R153). -/
def fetchLine (s : State) (va pa : Nat) (t : TlbEnt) : State :=
  let r := requestOf s (.read .fill) 8 (w64 va) pa 4 false t .norm []
  let cask := leafClass t.leaf
  let st := cask = clsReadOnly || cask = clsSealed
  if !missRoom s r.agent (lineOf pa) then s
  else match (if cask = clsSealed && (missOf s r.agent (lineOf pa)).isNone then rackLook s (dieOf r.exec) r.part pa
      else (s, none)) with
    | (s, some fa) =>
      fromFrame { s with misses := s.misses ++ [⟨r.agent, lineOf pa, false, false, [], st, r.key, r.hint⟩] } r (fa / 128 * 128) 128
        fun s => frameFill s r fa
    | (s, none) => addMiss s r st none
/-- The row waits for what its fetch needs. -/
def awaitFetch (s : State) (f : Fetched) : State :=
  match f with
  | .walk va => startWalk s va
  | .lease page va => setWait s (.lease page va 1 s.time)
  | .line va pa t => setWait (fetchLine s va pa t) .lines
  | _ => s

end Sys2Proof.Machine
end

