-- ==== Sys2Proof/Machine/Blocks.lean ====
section
/-!
DEFINITION. Described blocks: the check, decoding under a nominal format, and writing with a scale (R239 to R252).
-/

namespace Sys2Proof.Machine

/-- One bit of the CRC (R242). -/
def crcBit (c : Nat) : Nat := if c.testBit 15 then (c * 2 % 65536) ^^^ 0x1021 else c * 2 % 65536
def crcByte (c : Nat) (b : Byte) : Nat :=
  let x := c ^^^ (b.toNat * 256)
  crcBit (crcBit (crcBit (crcBit (crcBit (crcBit (crcBit (crcBit x)))))))
/-- CHECK of a block: bytes 0, 1 and 4 to 63 (R242). -/
def blockCrc (bs : List Byte) : Nat := (bs.take 2 ++ bs.drop 4).foldl crcByte 0xFFFF
/-- A value times a power of two (R241). -/
def scaleNum (x : Num) (k : Int) : Num :=
  match x with
  | .fin s n d e => .fin s n d (e + k)
  | x => x

/-- A block as decoded: its elements, and whether they are of the nominal format or an all-zero block; or a block whose
check fails; or one with a reserved code (R247). -/
inductive BlockRead where
  | good (own : Bool) (vals : List Num)
  | bad
  | reserved
  deriving DecidableEq, Repr

/-- The codes of a block's elements (R243). -/
def payloadCodes (f : Fmt) (bs : List Byte) : List Nat :=
  let p := leNat (bs.drop 4)
  (List.range (blockCount f)).map fun i => p / 2 ^ (fmtWidth f * i) % 2 ^ fmtWidth f
/-- Decoding of the 64 bytes of a block (R240, R241, R244, R247). -/
def readBlock (bs : List Byte) (nominal : Fmt) : BlockRead :=
  let fmt := (bs.getD 0 0).toNat
  let s := (bs.getD 1 0).toNat
  if leNat ((bs.drop 2).take 2) ≠ blockCrc bs then .bad
  else if fmt = 0x1F then .good true (List.replicate (blockCount nominal) (.zero false))
  else if fmt < 0x10 || 0x16 < fmt || s = 0 then .reserved
  else match fmtOf (fmt - 0x10) with
    | some f => .good (f == nominal) ((payloadCodes f bs).map fun c => scaleNum (decodeNum f c) ((s : Int) - 128))
    | none => .reserved

/-- The largest floor(log2 |v|) among the finite values of a block (R251). -/
def topExponent (vals : List Num) : Option Int :=
  vals.foldl (fun m v => match v, m with
    | .fin _ n d e, some k => some (max k (log2Ratio n d + e))
    | .fin _ n d e, none => some (log2Ratio n d + e)
    | _, m => m) none
/-- The constant c of a format in automatic mode (R251). -/
def scaleBias (f : Fmt) : Int :=
  match f with
  | .t8 => 4 | .t6 => 2 | .t16 => 8 | .s8 => 7 | .z8 => 8 | _ => 0
/-- SCALE of a block: the explicit one, or the automatic one (R251). -/
def chooseScale (f : Fmt) (osc : Nat) (vals : List Num) : Nat :=
  if osc ≠ 0 then osc
  else if isBinary f then 0x80
  else match topExponent vals with
    | none => 0x80
    | some k => (max 1 (min 255 (k - scaleBias f + 129))).toNat
/-- The 64 bytes of a block with the values given (R251, R252, R244). -/
def writeBlock (f : Fmt) (osc : Nat) (vals : List Num) : List Byte :=
  let sc := chooseScale f osc vals
  let codes := vals.map fun v => roundTo f .rne false (scaleNum v (128 - (sc : Int)))
  let body := fun (fmt s : Nat) (p : Nat) =>
    let pay := leBytes 60 p
    let head := [BitVec.ofNat 8 fmt, BitVec.ofNat 8 s]
    head ++ leBytes 2 (blockCrc (head ++ [0, 0] ++ pay)) ++ pay
  if codes.all (· == 0) then body 0x1F 0x80 0
  else body (0x10 + fmtCode f) sc (codes.foldr (fun c p => c % 2 ^ fmtWidth f + p * 2 ^ fmtWidth f) 0)

end Sys2Proof.Machine
end

