-- ==== Sys2Proof/Machine/VecUnit.lean ====
section
/-!
DEFINITION. What a lane pool does with one command: descriptors, masks, element operations, reductions, the function
unit, late faults and parking (R279 to R289), as a function of the scratchpad's bytes.
-/

namespace Sys2Proof.Machine

/-- The vector operations (R285, R286, R289). -/
inductive VOp where
  | add | sub | mul | min | max | div | and | or | xor | shl | shr | sra | absd | fma | fms | neg | abs | sqrt | rsq
  | rcp | exp2 | log2 | cvt | mov | fill | clamp | iota | sel | redsum | redmax | redmin | scan | gat | sct | cmp | pack
  | cnt | fnld | fn | fnst
  deriving DecidableEq, Repr

/-- The operation, guard and M16 of a vector chain. -/
def vopOf (i : Instr) : Option (VOp × Ctl × VMod) :=
  match i with
  | .vadd c _ _ _ m => some (.add, c, m)
  | .vsub c _ _ _ m => some (.sub, c, m)
  | .vmul c _ _ _ m => some (.mul, c, m)
  | .vmin c _ _ _ m => some (.min, c, m)
  | .vmax c _ _ _ m => some (.max, c, m)
  | .vdiv c _ _ _ m => some (.div, c, m)
  | .vand c _ _ _ m => some (.and, c, m)
  | .vor c _ _ _ m => some (.or, c, m)
  | .vxor c _ _ _ m => some (.xor, c, m)
  | .vshl c _ _ _ m => some (.shl, c, m)
  | .vshr c _ _ _ m => some (.shr, c, m)
  | .vsra c _ _ _ m => some (.sra, c, m)
  | .vabsd c _ _ _ m => some (.absd, c, m)
  | .vfma c _ _ _ m => some (.fma, c, m)
  | .vfms c _ _ _ m => some (.fms, c, m)
  | .vneg c _ _ _ m => some (.neg, c, m)
  | .vabs c _ _ _ m => some (.abs, c, m)
  | .vsqrt c _ _ _ m => some (.sqrt, c, m)
  | .vrsq c _ _ _ m => some (.rsq, c, m)
  | .vrcp c _ _ _ m => some (.rcp, c, m)
  | .vexp2 c _ _ _ m => some (.exp2, c, m)
  | .vlog2 c _ _ _ m => some (.log2, c, m)
  | .vcvt c _ _ _ m => some (.cvt, c, m)
  | .vmov c _ _ _ m => some (.mov, c, m)
  | .vfill c _ _ _ m => some (.fill, c, m)
  | .vclamp c _ _ _ m => some (.clamp, c, m)
  | .viota c _ _ _ m => some (.iota, c, m)
  | .vsel c _ _ _ m => some (.sel, c, m)
  | .vredsum c _ _ _ m => some (.redsum, c, m)
  | .vredmax c _ _ _ m => some (.redmax, c, m)
  | .vredmin c _ _ _ m => some (.redmin, c, m)
  | .vscan c _ _ _ m => some (.scan, c, m)
  | .vgat c _ _ _ m => some (.gat, c, m)
  | .vsct c _ _ _ m => some (.sct, c, m)
  | .vcmp c _ _ _ m => some (.cmp, c, m)
  | .vpack c _ _ _ m => some (.pack, c, m)
  | .vcnt c _ _ _ m => some (.cnt, c, m)
  | .vfnld c _ _ _ m => some (.fnld, c, m)
  | .vfn c _ _ _ m => some (.fn, c, m)
  | .vfnst c _ _ _ m => some (.fnst, c, m)
  | _ => none

/-- A command as its pool runs it: operation, guard, M16, the claim's mask area, X and Y, and the table held. -/
structure VCtx where
  op    : VOp
  guard : Option Guard
  m     : VMod
  marea : Nat
  x     : Word
  y     : Word
  table : Option (List W32)
  deriving DecidableEq, Repr

/-- The scratchpad with the command's standing. -/
structure VWork where
  run : VRun
  mem : Memory
  deriving DecidableEq, Repr

/-- What stops a command: a late fault at an element, or a block at which it parks (R287). -/
inductive VStop where
  | late (cause elem : Nat)
  | park (off : Nat)
  deriving DecidableEq, Repr

/-- A stop within an element, with the blocks that have failed CHECK by then (R249). -/
abbrev VHalt := VStop × List Nat
def VWork.halt {α : Type} (w : VWork) (e : VStop) : Except VHalt α := .error (e, w.run.checks)
/-- The work before the element in which a command stops; the blocks noted in it stay noted. -/
def VWork.noted (w : VWork) (checks : List Nat) : VWork := { w with run := { w.run with checks := checks } }

/-! ### Descriptors (R280, R281) -/

def padEnd : Nat := 2 ^ 23
def VCtx.doff (c : VCtx) : Nat := 16 * bits c.x 44 20
def VCtx.aoff (c : VCtx) : Nat := 16 * bits c.x 24 20
def VCtx.count (c : VCtx) : Nat := bits c.x 0 16
def VCtx.boff (c : VCtx) : Nat := 16 * bits c.y 44 20
def VCtx.dcode (c : VCtx) : Nat := bits c.y 40 4
def VCtx.scode (c : VCtx) : Nat := bits c.y 36 4
def VCtx.dfmt (c : VCtx) : Fmt := (fmtOf c.dcode).getD .f32
def VCtx.sfmt (c : VCtx) : Fmt := (fmtOf c.scode).getD .f32
def VCtx.desc (c : VCtx) : Bool := bit c.y 35
def VCtx.acc (c : VCtx) : Bool := bit c.y 34
def VCtx.sat (c : VCtx) : Bool := bit c.y 33
def VCtx.scal (c : VCtx) : Bool := bit c.y 32
def VCtx.scalar (c : VCtx) : Nat := bits c.y 0 32
/-- The sources are of integer formats (R284). -/
def VCtx.ints (c : VCtx) : Bool := 7 ≤ c.scode && c.scode ≤ 11 && !c.desc
/-- SFMT and DFMT are both integer formats: sums are exact (R286). -/
def VCtx.exact (c : VCtx) : Bool := isInteger c.sfmt && isInteger c.dfmt
/-- The scalar: binary32 bits, or an S32 integer for integer sources (R284). -/
def VCtx.scalarNum (c : VCtx) : Num :=
  if c.ints then ofInt (BitVec.ofNat 32 c.scalar).toInt else decodeNum .f32 c.scalar

/-! ### What a command accepts (R285, R287) -/

/-- Commands that act on codes. -/
def VOp.onCodes (o : VOp) : Bool :=
  match o with
  | .and | .or | .xor | .shl | .shr | .sra | .mov | .gat | .sct => true
  | _ => false
def VOp.shifts (o : VOp) : Bool := o == .shl || o == .shr || o == .sra
/-- Commands that read no array source. -/
def VOp.noSource (o : VOp) : Bool := o == .fill || o == .iota || o == .cnt
/-- Commands with a second source. -/
def VOp.twoSources (o : VOp) : Bool :=
  match o with
  | .add | .sub | .mul | .min | .max | .div | .and | .or | .xor | .shl | .shr | .sra | .absd | .fma | .fms | .sel | .cmp => true
  | _ => false
def VOp.reduces (o : VOp) : Bool := o == .redsum || o == .redmax || o == .redmin
def VOp.accOk (o : VOp) : Bool :=
  match o with
  | .add | .sub | .mul | .div | .absd | .cvt | .redsum | .fn => true
  | _ => false
def VOp.rootLike (o : VOp) : Bool :=
  match o with
  | .sqrt | .rsq | .rcp | .exp2 | .log2 | .fn => true
  | _ => false
/-- A format code that parks the command: 12 to 14, or a narrow format of a plain array (R229, R287 step 3). -/
def parkCode (f : Nat) (described : Bool) : Bool := (12 ≤ f && f ≤ 14) || (!described && 2 ≤ f && f ≤ 6)
def codeFmt (o : VOp) (f : Nat) : Bool := (7 ≤ f && f ≤ 11) || (!o.shifts && f ≤ 1)
/-- Formats and flags that R285 accepts; codes 12 to 14 are left to step 3. -/
def VCtx.accepts (c : VCtx) : Bool :=
  let o := c.op
  let odd := fun f => 12 ≤ f && f ≤ 14
  let flags := (!c.acc || o.accOk) && (c.scal || !(o == .fill || o == .clamp || o == .iota)) &&
    !(c.scal && (o == .gat || o == .sct))
  let src := o.noSource || odd c.scode || (if c.desc then c.scode ≤ 6 else c.scode ≤ 11)
  let formats :=
    if o.onCodes then (odd c.scode || codeFmt o c.scode) && (odd c.dcode || codeFmt o c.dcode) &&
      (c.scode == c.dcode || odd c.scode || odd c.dcode) && !c.desc && !c.m.dd
    else if o = .cmp then src && (c.dcode == 15 || odd c.dcode)
    else if o = .cnt then c.dcode == 11 || odd c.dcode
    else if o.rootLike then src && (c.dcode ≤ 4 || odd c.dcode)
    else src && (odd c.dcode || (if c.m.dd then c.dcode ≤ 6 else c.dcode ≤ 11))
  flags && formats
/-- The checks of R287 that come before any element; none when the command runs. A count of 0 has no effect (R280,
log 22). -/
def VCtx.check (c : VCtx) : Option VStop :=
  let src := !c.op.noSource
  if bits c.x 16 8 ≠ 0 || 32768 < c.count || !c.accepts then some (.late cIllegal 0)
  else if c.count = 0 then none
  else if src && parkCode c.scode c.desc then some (.park c.aoff)
  else if c.dcode ≠ 15 && parkCode c.dcode c.m.dd then some (.park c.doff)
  else if c.op = .fn && c.table.isNone then some (.late cLanes 0)
  else if (src && c.desc && (c.aoff % 64 ≠ 0 || (c.op.twoSources && !c.scal && c.boff % 64 ≠ 0))) ||
      (c.m.dd && c.doff % 64 ≠ 0) then some (.late cAlign 0)
  else none

/-! ### Arrays (R282, R283) -/

/-- Bytes of a plain element. -/
def elemBytes (f : Fmt) : Nat := fmtWidth f / 8
def padNum (m : Memory) (off n : Nat) : Nat := leNat (memBytes m off n)
/-- An element is active (R283). -/
def VCtx.active (c : VCtx) (m : Memory) (i : Nat) : Bool :=
  match c.guard with
  | none => true
  | some g => (memRead m (65536 * c.marea + 4096 * g.num.toNat + i / 8)).getLsbD (i % 8) != g.neg
/-- The bytes of the destination block being written (R250). -/
def VCtx.pendBytes (c : VCtx) (p : VPend) : List Byte := writeBlock c.dfmt c.m.osc.toNat p.vals
/-- A read that overlaps the destination block in progress sees the elements written so far (R279). -/
def VCtx.touch (c : VCtx) (w : VWork) (off n : Nat) : VWork :=
  match w.run.pend with
  | some p => if p.dirty && overlap p.off 64 off n then { w with mem := memStore w.mem p.off (c.pendBytes p) } else w
  | none => w
/-- The destination block in progress is written, when an element of it was. -/
def VCtx.flush (c : VCtx) (w : VWork) : VWork :=
  match w.run.pend with
  | some p => ⟨{ w.run with pend := none }, if p.dirty then memStore w.mem p.off (c.pendBytes p) else w.mem⟩
  | none => w
/-- A block that failed its check is noted once (R249). -/
def noteCheck (w : VWork) (off : Nat) : VWork :=
  if w.run.checks.contains off then w else { w with run := { w.run with checks := w.run.checks ++ [off] } }
/-- The code of element i of a plain array. -/
def VCtx.plainCode (c : VCtx) (w : VWork) (f : Fmt) (off i : Nat) : VWork × Nat :=
  let n := elemBytes f
  let w := c.touch w (off + i * n) n
  (w, padNum w.mem (off + i * n) n)
/-- Bytes from DOFF on that the command may write. -/
def VCtx.span (c : VCtx) : Nat :=
  if c.m.dd then 64 * ((c.count + blockCount c.dfmt - 1) / blockCount c.dfmt) else c.count * elemBytes c.dfmt
/-- Bytes from DOFF on in which the command may write, the table of vsct too. -/
def VCtx.reach (c : VCtx) : Nat := max c.span (if c.op = .sct then c.scalar * elemBytes c.sfmt else 0)
/-- A source block as the scratchpad holds it, decoded (R247); its next element is number k. -/
def VCtx.readSource (c : VCtx) (w : VWork) (off k : Nat) : Except VHalt (VWork × VCursor) :=
  let raw := memBytes w.mem off 64
  match readBlock raw c.sfmt with
  | .reserved => w.halt (.park off)
  | .bad => .ok (noteCheck w off, ⟨off + 64, raw, List.replicate (blockCount c.sfmt) .nan, k⟩)
  | .good _ vals => .ok (w, ⟨off + 64, raw, vals, k⟩)
/-- The present block of a source, decoded again when lower elements of the command have been written over it, those of the
destination block in progress too (R279). -/
def VCtx.refresh (c : VCtx) (w : VWork) (cur : VCursor) : Except VHalt (VWork × VCursor) :=
  let off := cur.nxt - 64
  if cur.vals.isEmpty || !overlap c.doff c.span off 64 then .ok (w, cur)
  else
    let w := c.touch w off 64
    if memBytes w.mem off 64 == cur.raw then .ok (w, cur) else c.readSource w off cur.k
/-- The next element of a described source (R245, R279, R282): a block is read when its first element is reached. What blocks
already passed supplied does not change (DEDUCED, log 22). -/
def VCtx.nextElem (c : VCtx) (w : VWork) (cur : VCursor) : Except VHalt (VWork × VCursor × Num) :=
  (c.refresh w cur).bind fun (w, cur) =>
    if cur.k < cur.vals.length then .ok (w, { cur with k := cur.k + 1 }, nth cur.vals cur.k .nan)
    else if padEnd < cur.nxt + 64 then w.halt (.late cPagePerm w.run.i)
    else (c.readSource (c.touch w cur.nxt 64) cur.nxt 0).map fun (w, cur) => (w, { cur with k := 1 }, nth cur.vals 0 .nan)
/-- First source of element i. -/
def VCtx.sourceA (c : VCtx) (w : VWork) : Except VHalt (VWork × Num) :=
  if c.op.noSource then .ok (w, .zero false)
  else if c.desc then (c.nextElem w w.run.a).map fun (w, cur, v) => ({ w with run := { w.run with a := cur } }, v)
  else let (w, k) := c.plainCode w c.sfmt c.aoff w.run.i; .ok (w, decodeNum c.sfmt k)
/-- Second source of element i, or the scalar. -/
def VCtx.sourceB (c : VCtx) (w : VWork) : Except VHalt (VWork × Num) :=
  if c.scal then .ok (w, c.scalarNum)
  else if !c.op.twoSources then .ok (w, .zero false)
  else if c.desc then (c.nextElem w w.run.b).map fun (w, cur, v) => ({ w with run := { w.run with b := cur } }, v)
  else let (w, k) := c.plainCode w c.sfmt c.boff w.run.i; .ok (w, decodeNum c.sfmt k)
/-- The block of a described destination that holds element j, with its old values (R282). -/
def VCtx.loadOld (c : VCtx) (w : VWork) (j : Nat) : Except VHalt VWork :=
  let n := blockCount c.dfmt
  let off := c.doff + 64 * (j / n)
  if w.run.pend.any fun p => p.off == off then .ok w
  else if padEnd < off + 64 then w.halt (.late cPagePerm w.run.i)
  else
    let w := c.flush w
    match readBlock (memBytes w.mem off 64) c.dfmt with
    | .reserved => w.halt (.park off)
    | .bad => let w := noteCheck w off
              .ok { w with run := { w.run with pend := some ⟨off, List.replicate n .nan, false⟩ } }
    | .good own vals =>
      .ok { w with run := { w.run with pend := some ⟨off, if own then vals else List.replicate n (.zero false), false⟩ } }
/-- The old value of destination element j. -/
def VCtx.oldValue (c : VCtx) (w : VWork) (j : Nat) : Except VHalt (VWork × Num) :=
  if c.m.dd then (c.loadOld w j).map fun w =>
    (w, nth ((w.run.pend.map (·.vals)).getD []) (j % blockCount c.dfmt) .nan)
  else let (w, k) := c.plainCode w c.dfmt c.doff j; .ok (w, decodeNum c.dfmt k)

/-! ### Writing a result (R284) -/

/-- A result: a number, or the all ones of an integer division by zero. -/
inductive VRes where
  | num (x : Num)
  | ones
  deriving DecidableEq, Repr

/-- The integer that a number is, if it is one. -/
def intValue? (x : Num) : Option Int :=
  match x with
  | .zero _ => some 0
  | .fin s n d e =>
    let (a, b) := scaleRatio n d e
    if a % b = 0 then some (if s then -(a / b : Nat) else (a / b : Nat)) else none
  | _ => none
/-- The code of a result in a plain destination (R284). -/
def VCtx.resultCode (c : VCtx) (r : VRes) : Nat :=
  let f := c.dfmt
  match r with
  | .ones => if isInteger f then 2 ^ fmtWidth f - 1 else roundTo f c.m.rnd false .nan
  | .num x =>
    match (if isInteger f && c.ints then intValue? x else none) with
    | some v => intCode f (if c.sat then clampInt f v else v)
    | none => roundTo f c.m.rnd c.sat x
/-- A destination element written with its code. -/
def VCtx.putCode (c : VCtx) (w : VWork) (j code : Nat) : VWork :=
  let n := elemBytes c.dfmt
  { w with mem := memStore w.mem (c.doff + j * n) (leBytes n code) }
/-- A result is written into destination element j (R284, R282). -/
def VCtx.put (c : VCtx) (w : VWork) (j : Nat) (r : VRes) : Except VHalt VWork :=
  if c.m.dd then
    (c.loadOld w j).map fun w =>
      let x := match r with
        | .num x => decodeNum .f32 (roundTo .f32 c.m.rnd false x)
        | .ones => .nan
      { w with run := { w.run with pend := w.run.pend.map fun p =>
          { p with vals := setNth p.vals (j % blockCount c.dfmt) x, dirty := true } } }
  else .ok (c.putCode w j (c.resultCode r))

/-! ### Element operations (R285, R289) -/

/-- Integer division truncates toward zero (R284). -/
def vdivide (ints : Bool) (a b : Num) : VRes :=
  if ints then
    match intValue? a, intValue? b with
    | some p, some q => if q = 0 then .ones else .num (ofInt (Int.tdiv p q))
    | _, _ => .num .nan
  else .num (divNum a b)
/-- A segment of the function table: b, c0, c1, c2, c3. -/
def segNum (t : List W32) (j k : Nat) : Num := decodeNum .f32 (nth t (5 * j + k) 0).toNat
/-- The highest segment whose breakpoint is at or below x; 0 when there is none (R289). -/
def segmentOf (t : List W32) (x : Num) : Nat :=
  (List.range (t.length / 5)).foldl (fun j k =>
    if segNum t k 0 ≠ .nan && x ≠ .nan && cmpNum (segNum t k 0) x ≤ 0 then k else j) 0
/-- The function unit (R289). -/
def evalTable (t : List W32) (a : Num) : Num :=
  let q := roundNum .f32 .rne
  let x := q a
  let j := segmentOf t x
  let d := q (subNum .rne x (segNum t j 0))
  let u := q (addNum .rne (mulNum d (segNum t j 4)) (segNum t j 3))
  let v := q (addNum .rne (mulNum d u) (segNum t j 2))
  if x = .nan then .nan else q (addNum .rne (mulNum d v) (segNum t j 1))
/-- The exact result of an operation on element values; i is the element index (R285). -/
def VCtx.result (c : VCtx) (i : Nat) (a b old : Num) : VRes :=
  let r := c.m.rnd
  match c.op with
  | .add => .num (addNum r a b)
  | .sub => .num (subNum r a b)
  | .mul => .num (mulNum a b)
  | .min => .num (minNum a b)
  | .max => .num (maxNum a b)
  | .div => vdivide c.ints a b
  | .absd => .num (absNum (subNum r a b))
  | .fma => .num (addNum r (mulNum a b) old)
  | .fms => .num (subNum r (mulNum a b) old)
  | .neg => .num (negNum a)
  | .abs => .num (absNum a)
  | .sqrt => .num (sqrtNum a)
  | .rsq => .num (rsqrtNum a)
  | .rcp => .num (divNum (ofInt 1) a)
  | .exp2 => .num (exp2Num a)
  | .log2 => .num (log2Num a)
  | .fill => .num b
  | .iota => .num (addNum r b (ofInt i))
  | .clamp => .num (minNum (maxNum a (decodeNum .f16 (c.scalar % 65536))) (decodeNum .f16 (c.scalar / 65536)))
  | .fn => .num (evalTable (c.table.getD []) a)
  | _ => .num a
/-- The old element is added before the one rounding (R284). -/
def VCtx.withAcc (c : VCtx) (r : VRes) (old : Num) : VRes :=
  match r with
  | .num x => if c.acc && c.op ≠ .redsum then .num (addNum c.m.rnd x old) else r
  | .ones => .ones
/-- A result code of the commands that act on codes: shifts take b modulo the width (R285). -/
def VCtx.codeResult (c : VCtx) (a b : Nat) (shift : Nat) : Nat :=
  let w := fmtWidth c.dfmt
  match c.op with
  | .and => a &&& b
  | .or => a ||| b
  | .xor => a ^^^ b
  | .shl => a * 2 ^ shift % 2 ^ w
  | .shr => a / 2 ^ shift
  | .sra => if a.testBit (w - 1) then (2 ^ w - 1) - (2 ^ w - 1 - a) / 2 ^ shift else a / 2 ^ shift
  | _ => a
/-- The code of the scalar as a second source, and the amount it shifts by. -/
def VCtx.scalarCode (c : VCtx) : Nat := if c.ints then intCode c.dfmt (BitVec.ofNat 32 c.scalar).toInt else c.scalar % 2 ^ fmtWidth c.dfmt
def VCtx.shiftOf (c : VCtx) (b : Nat) : Nat :=
  ((if c.scal then (BitVec.ofNat 32 c.scalar).toInt else intOf c.sfmt b) % (fmtWidth c.dfmt : Int)).toNat
/-- vcmp's condition (R262, R285): signed or unsigned integers by their values, never unordered. -/
def vcondOf (n : Nat) : FCond :=
  match n with
  | 0 => .eq | 1 => .ne | 2 => .lt | 3 => .le | 4 => .gt | 5 => .ge | 6 => .un | _ => .ord

/-! ### One element (R279, R287 step 5) -/

/-- A plain extent passes the end of the scratchpad at element i. -/
def VCtx.pastEnd (c : VCtx) (i : Nat) (active : Bool) (out : Nat) : Bool :=
  let past := fun off n j => padEnd < off + (j + 1) * n
  let sn := elemBytes c.sfmt
  let dn := elemBytes c.dfmt
  let src := !c.op.noSource && !c.desc && c.op ≠ .gat && past c.aoff sn i
  let src2 := c.op.twoSources && !c.scal && !c.desc && past c.boff sn i
  let idx := (c.op = .gat || c.op = .sct) && past c.boff 4 i
  let dst :=
    if c.op = .cmp then padEnd < c.doff + i / 8 + 1
    else if c.op = .sct then false
    else
      let j := if c.op.reduces || c.op = .cnt then 0 else if c.op = .pack then out else i
      if c.op = .pack && !active then false
      else if c.m.dd then padEnd < c.doff + 64 * (j / blockCount c.dfmt) + 64 else past c.doff dn j
  src || src2 || idx || dst
/-- The elements of vgat and vsct: an index outside the table is a late PAGE_PERM (R285). -/
def VCtx.indexed (c : VCtx) (w : VWork) : Except VHalt VWork :=
  let i := w.run.i
  let w := c.touch w (c.boff + 4 * i) 4
  let k := padNum w.mem (c.boff + 4 * i) 4
  let n := elemBytes c.sfmt
  if c.scalar ≤ k then w.halt (.late cPagePerm i)
  else if c.op = .gat then
    if padEnd < c.aoff + (k + 1) * n then w.halt (.late cPagePerm i)
    else .ok (c.putCode w i (padNum w.mem (c.aoff + k * n) n))
  else if padEnd < c.doff + (k + 1) * n then w.halt (.late cPagePerm i)
  else .ok (c.putCode w k (padNum w.mem (c.aoff + i * n) n))
/-- The step of a reduction or scan (R286). -/
def VCtx.accumulate (c : VCtx) (acc : Option Num) (a : Num) : Num :=
  let r := match c.op, acc with
    | .redmax, some x => maxNum x a
    | .redmin, some x => minNum x a
    | .redmax, none => a
    | .redmin, none => a
    | _, x => addNum c.m.rnd (x.getD (.zero false)) a
  if c.exact then r else roundNum .f32 c.m.rnd r
/-- The bit of vcmp is written; bits beyond the element keep their values. -/
def VCtx.putBit (c : VCtx) (w : VWork) (i : Nat) (v : Bool) : VWork :=
  let o := c.doff + i / 8
  let b := memRead w.mem o
  let m : Byte := 1#8 <<< (i % 8)
  { w with mem := memWrite w.mem o (if v then b ||| m else b &&& ~~~m) }
/-- One element, its sources read after every lower element is written. -/
def VCtx.element (c : VCtx) (w : VWork) : Except VHalt VWork :=
  let i := w.run.i
  let act := c.active w.mem i
  let next := fun (w : VWork) => { w with run := { w.run with i := i + 1 } }
  if c.pastEnd i act w.run.out then w.halt (.late cPagePerm i)
  else if c.op = .gat ∨ c.op = .sct then (if act then (c.indexed w).map next else .ok (next w))
  else if c.op.onCodes then
    if !act then .ok (next w)
    else
      let (w, a) := c.plainCode w c.sfmt c.aoff i
      let (w, b) := if c.scal || !c.op.twoSources then (w, c.scalarCode) else c.plainCode w c.sfmt c.boff i
      .ok (next (c.putCode w i (c.codeResult a b (c.shiftOf b))))
  else
    (c.sourceA w).bind fun (w, a) => (c.sourceB w).bind fun (w, b) =>
      if c.op = .sel then (c.put w i (.num (if act then a else b))).map next
      else if !act then .ok (next w)
      else match c.op with
        | .cmp => .ok (next (c.putBit w i (fcmpHolds (vcondOf c.m.sub.toNat) a b)))
        | .cnt => .ok (next { w with run := { w.run with out := w.run.out + 1 } })
        | .pack => (c.put w w.run.out (.num a)).map fun w => next { w with run := { w.run with out := w.run.out + 1 } }
        | .redsum | .redmax | .redmin =>
          .ok (next { w with run := { w.run with acc := some (c.accumulate w.run.acc a) } })
        | .scan =>
          let new := c.accumulate w.run.acc a
          let out := if c.m.sub = 0 then new else w.run.acc.getD (.zero false)
          (c.put w i (.num out)).map fun w => next { w with run := { w.run with acc := some new } }
        | _ =>
          if c.acc || c.op = .fma || c.op = .fms then
            (c.oldValue w i).bind fun (w, old) => (c.put w i (c.withAcc (c.result i a b old) old)).map next
          else (c.put w i (c.result i a b .nan)).map next

/-! ### A whole command -/

/-- How a command ended, or where it stands. -/
structure VEnd where
  work : VWork
  stop : Option VStop
  deriving DecidableEq, Repr

/-- The result of a reduction, or the count, at the end (R286). -/
def VCtx.finish (c : VCtx) (w : VWork) : VEnd :=
  let put := fun (j : Nat) (x : Num) => match c.put w j (.num x) with
    | .ok w' => ⟨c.flush w', none⟩
    | .error (e, l) => ⟨w.noted l, some e⟩
  match c.op with
  | .cnt => ⟨c.putCode w 0 w.run.out, none⟩
  | .redsum => put 0 (w.run.acc.getD (.zero false))
  | .redmax | .redmin => match w.run.acc with
    | some x => put 0 x
    | none => ⟨c.flush w, none⟩
  | _ => ⟨c.flush w, none⟩
/-- The elements from the next one on; a stop leaves the work before its element. -/
def VCtx.elements (c : VCtx) : Nat → VWork → VEnd
  | 0, w => c.finish w
  | n + 1, w =>
    match c.element w with
    | .ok w' => c.elements n w'
    | .error (.late f e, l) => ⟨c.flush (w.noted l), some (.late f e)⟩
    | .error (.park o, l) => ⟨w.noted l, some (.park o)⟩
/-- Where a command begins: vredsum under ACC starts from the old d[0] (R286). -/
def VCtx.start (c : VCtx) : VRun := ⟨0, none, 0, ⟨c.aoff, [], [], 0⟩, ⟨c.boff, [], [], 0⟩, none, [], 0⟩
def VCtx.begin' (c : VCtx) (w : VWork) : VEnd :=
  if c.op = .redsum && c.acc && w.run.i = 0 && w.run.acc.isNone then
    if c.pastEnd 0 true 0 then ⟨w, some (.late cPagePerm 0)⟩
    else match c.oldValue w 0 with
      | .ok (w', old) => c.elements (c.count - w'.run.i) { w' with run := { w'.run with acc := some old } }
      | .error (e, l) => ⟨w.noted l, some e⟩
  else c.elements (c.count - w.run.i) w
/-- A command runs from the start or goes on from where it parked (R287). -/
def VCtx.runCmd (c : VCtx) (w : VWork) : VEnd :=
  match c.check with
  | some e => ⟨w, some e⟩
  | none => if c.count = 0 then ⟨w, none⟩ else c.begin' w

/-! ### The table commands (R289) -/

/-- Segments of 20 bytes that lie below the end of the scratchpad from an offset on. -/
def segsBelow (off n : Nat) : Nat := min n ((padEnd - off) / 20)
/-- What decides vfnld and vfnst before their effect; an extent past the end names the first segment concerned, and those below it are
processed (R287 step 5). -/
def VCtx.tableCheck (c : VCtx) : Option VStop :=
  let ld := c.op = .fnld
  let n := if ld then c.count else (c.table.getD []).length / 5
  let off := if ld then c.aoff else c.doff
  if bits c.x 16 8 ≠ 0 || c.y ≠ 0 || (if ld then c.doff ≠ 0 || c.count = 0 || 64 < c.count else c.aoff ≠ 0 || c.count ≠ 0)
  then some (.late cIllegal 0)
  else if !ld && c.table.isNone then some (.late cLanes 0)
  else if segsBelow off n < n then some (.late cPagePerm (segsBelow off n))
  else none
/-- The words of a table of n segments at a scratchpad offset. -/
def tableAt (m : Memory) (off n : Nat) : List W32 :=
  (List.range (5 * n)).map fun i => BitVec.ofNat 32 (padNum m (off + 4 * i) 4)

end Sys2Proof.Machine
end

