-- ==== Sys2Proof/Machine/Pools.lean ====
section
/-!
DEFINITION. The claim instructions, the issue of vector commands, and what a lane pool does when it reaches a command
(R268 to R279, R287 to R289).
-/

namespace Sys2Proof.Machine

/-! ### Claims -/

def vseq (s : State) (pr : Nat) : Nat := bits (rowWord s pr 2) 32 32
/-- The function table that d11 names, from the pool's own scratchpad (R271 step 4). -/
def tableOfD11 (s : State) (p : Nat) (w : Word) : Option (List W32) :=
  if bit w 63 then some (tableAt (spad s (p / 2)) (16 * bits w 37 19) (bits w 56 7)) else none
/-- A claim granted to a row that waited for it or asks now; a kept function table is loaded again (R269, R271). -/
def establish (s : State) (p : Nat) (r : RowId) (want marea : Nat) : State :=
  let l := locate s r
  let old := locWord s l 11
  let num := freeClaim (pool s p)
  let s := grantClaim s p r want marea (bits (locWord s l 2) 32 32)
  match claimIn s p num with
  | some c => putClaim s p { c with fn := tableOfD11 s p old }
  | none => s
/-- A row's request joins a pool's queue, and larger claims are marked SHRK (R269). -/
def joinPool (s : State) (p : Nat) (r : RowId) (want marea : Nat) : State :=
  let x := pool s p
  if x.waiting.any fun w => w.1 == r then s
  else markShrink (setPool s p { x with waiting := x.waiting ++ [(r, want, marea)] }) p
/-- The claim is re-established in the row's present pool before the body runs (R271): the row waits, in the way of its instruction,
while commands of it are outstanding in the pool that it came from, and when no lanes are free. -/
def withClaim (s : State) (wait : Wait) (body : State → State) : State :=
  let w := rowWord s s.cur 11
  let p := poolOf (curExec s)
  if stranded s s.cur then setWait s wait
  else if !d11Recl w then body s
  else if canGrant (pool s p) then body (establish s p (curRow s) (d11Want w) (d11Marea w))
  else setWait (joinPool s p (curRow s) (d11Want w) (d11Marea w)) wait
/-- The instruction that waited completes: WCONT clears (R338). -/
def completeWait (s : State) : State := clearWcont s (.bank s.cur)
/-- The row waited at this instruction, OPEN or closed (R338). -/
def hadWaited (s : State) (w : WaitFor) : Bool := s.waited == .instruction w || bit (rowWord s s.cur 15) 39

/-- A request word of vclaim that no claim admits (R269). -/
def badRequest (q d11 : Word) : Bool :=
  bits q 23 41 != 0 || bits q 9 7 != 0 || bits q 0 9 == 0 || decide (256 < bits q 0 9) ||
    (d11Valid d11 && bits q 16 7 != d11Marea d11)
/-- vclaim: a row with a claim re-negotiates, a row without waits for lanes (R269), and one that waited until its claim was established
again goes on with the lanes that it asks for (R271); rows of control executors have no pool (R382). -/
def claimBody (c : Ctl) (rd ra : Reg) (s : State) : State :=
  let q := readReg s ra
  let want := (bits q 0 9 + 31) / 32 * 32
  let p := poolOf (curExec s)
  let done := fun (s : State) => advance c (writeReg (completeWait s) rd (w64 (d11Lanes (rowWord s s.cur 11))))
  if isCtl (curExec s) || badRequest q (rowWord s s.cur 11) then fault s (faultOf cLanes 0 0) (pc s)
  else if rd.win = 3 then roFault s
  else if d11Valid (rowWord s s.cur 11) then
    if hadWaited s .vclaim && !d11Recl (rowWord s s.cur 11) && !stranded s s.cur && d11Want (rowWord s s.cur 11) = want then done s
    else withClaim s (.instruction .vclaim) fun s =>
      match ownClaim s s.cur with
      | some (p, x) => done (renegotiate (putClaim s p { x with want := want }) s.cur false)
      | none => done s
  else if canGrant (pool s p) then done (establish s p (curRow s) want (bits q 16 7))
  else setWait (joinPool s p (curRow s) want (bits q 16 7)) (.instruction .vclaim)
def execVclaim (c : Ctl) (rd ra : Reg) (s : State) : Host.Outcome State Fault Refusal :=
  chain c s (claimBody c rd ra)
/-- The commands of the row's claim are complete, else the row waits as at vwait (R272). -/
def afterCommands (s : State) (body : State → State) : State :=
  match ownClaim s s.cur with
  | some (_, x) => if x.cmds.isEmpty then body s else setWait s (.instruction (.vwait (vseq s s.cur)))
  | none => body s
/-- Last completed sequence number of the row's claim; without a pool's record, VSEQ. -/
def lastDone (s : State) : Nat :=
  match ownClaim s s.cur with
  | some (_, x) => x.last
  | none => vseq s s.cur
/-- vfree (R272). -/
def execVfree (c : Ctl) (rd : Reg) (s : State) : Host.Outcome State Fault Refusal :=
  chain c s fun s =>
    if rd.win = 3 then roFault s
    else if !d11Valid (rowWord s s.cur 11) then advance c (writeReg s rd 0)
    else afterCommands s fun s =>
      let last := lastDone s
      advance c (writeReg (freeClaimOf (completeWait s) s.cur) rd (w64 last))
/-- vwait (R273). -/
def execVwait (c : Ctl) (rd ra : Reg) (s : State) : Host.Outcome State Fault Refusal :=
  chain c s fun s =>
    let n := bits (readReg s ra) 0 32
    if rd.win = 3 then roFault s
    else if !d11Valid (rowWord s s.cur 11) then advance c (writeReg s rd (w64 (vseq s s.cur)))
    else withClaim s (.instruction (.vwait n)) fun s =>
      if waitForMet s s.cur (.vwait n) then
        let s := settleTorn (renegotiate s s.cur false) fun b =>
          b.row == curRow s && b.node.isNone && decide ((n + 2 ^ 32 - b.seq % 2 ^ 32) % 2 ^ 32 < 2 ^ 31)
        advance c (writeReg (completeWait s) rd (w64 (lastDone s)))
      else setWait s (.instruction (.vwait n))
/-- The word that vstat returns (R274). -/
def vstatWord (s : State) (sel : Word) : Word :=
  let ones := BitVec.allOnes 64
  match ownClaim s s.cur with
  | none => if bits sel 0 2 = 0 then (if d11Valid (rowWord s s.cur 11) then w64 (at_ (vseq s s.cur) 32) else 0) else ones
  | some (_, x) =>
    let ent := x.ring.find? fun e => e.seq == bits sel 32 32
    match bits sel 0 2 with
    | 0 => w64 (at_ x.last 32 + at_ x.cmds.length 24 + at_ (num x.parked.isSome) 23 + x.lanes)
    | 1 => (ent.map fun e => e.pc ||| w64 e.state).getD ones
    | 2 => (ent.map (·.x)).getD ones
    | _ => (ent.map (·.y)).getD ones
/-- vstat (R274). -/
def execVstat (c : Ctl) (rd ra : Reg) (s : State) : Host.Outcome State Fault Refusal :=
  resultChain c rd s fun s => vstatWord s (readReg s ra)

/-! ### The issue of a command (R278) -/

/-- A claim with no lanes takes free ones before its next command (R270). -/
def claimLanes (s : State) (p : Nat) (x : Claim) : State :=
  if x.lanes = 0 ∧ 32 ≤ freeLanes (pool s p) then
    writeClaim s p { x with lanes := min x.want (down32 (freeLanes (pool s p))) }
  else s
/-- A command enters its claim and its ring entry (R278). -/
def dispatchCmd (s : State) (p : Nat) (x : Claim) (i : Instr) (a b : Word) : State :=
  let seq := vseq s s.cur
  let first := x.cmds.isEmpty
  let ring := x.ring.filter (fun e => e.seq % 32 != seq % 32) ++ [⟨seq, pc s, a, b, 1⟩]
  let s := putClaim s p { x with cmds := x.cmds ++ [⟨seq, i, pc s, a, b⟩], ring := ring }
  if first then send s (.vectorExecute p x.num) else s
/-- The issue of every vector command (R278): the guard selects a mask and never skips it. -/
def vectorChain (c : Ctl) (i : Instr) (rd ra rb : Reg) (s : State) : Host.Outcome State Fault Refusal :=
  .next (if !d11Valid (rowWord s s.cur 11) then fault s (faultOf cLanes 0 0) (pc s)
    else if rd.win = 3 then roFault s
    else if acquirePending s then setWait s .acquire
    else withClaim s .commands fun s =>
      match ownClaim s s.cur with
      | none => fault s (faultOf cLanes 0 0) (pc s)
      | some (p, x) =>
        let s := claimLanes s p x
        match claimIn s p x.num with
        | none => s
        | some x =>
          if x.lanes = 0 || 32 ≤ x.cmds.length then setWait s .commands
          else
            let a := readReg s ra
            let b := readReg s rb
            let seq := (vseq s s.cur + 1) % 2 ^ 32
            let s := setRowWord s s.cur 2 (putBits (rowWord s s.cur 2) 32 32 seq)
            let s := dispatchCmd s p x i a b
            advance c (writeReg s rd (w64 seq)))

/-! ### The pool reaches a command (R279, R287 to R289) -/

/-- Privilege and place of a claim's row, for messages. -/
def privAt (s : State) (r : RowId) : Nat := bits (locWord s (locate s r) 2) 16 2
/-- The address of a scratchpad byte of a pool's cluster in its window (R406). -/
def padAddr (s : State) (q p off : Nat) : Word := (part s q).spwin + w64 (2 ^ 23 * (p / 2) + off)
/-- A message of a pool about a block: KIND 3 to the fault queue or KIND 6 to the mailbox (R248, R249, R406). -/
def postBlock (s : State) (p : Nat) (x : Claim) (seq kind cause off : Nat) : State :=
  let q := x.row.part
  let m : RingMsg := ⟨msgHead kind cause (p / 2) (privAt s x.row) x.row, padAddr s q p off, w64 (at_ p 8 + x.num), w64 seq⟩
  postMsg s (p / 16) (if kind = 6 then .mbox q else .fault q) m
/-- Blocks that failed CHECK are reported once each (R249). -/
def postChecks (s : State) (p : Nat) (x : Claim) (seq : Nat) (r : VRun) : State :=
  (r.checks.drop r.posted).foldl (fun s off => postBlock s p x seq 3 cCheck off) s
def setRing (x : Claim) (f : Nat → Option Nat) : Claim :=
  { x with ring := x.ring.map fun e => match f e.seq with | some st => { e with state := st } | none => e }
/-- Commands of the claim have completed: a claim whose row has moved to another pool is released, a row waiting for
them goes on, the next command is reached (R271, R338). -/
def commandsMoved (s : State) (p : Nat) (x : Claim) : State :=
  let s := putClaim s p x
  let l := locate s x.row
  if x.cmds.isEmpty then
    match l with
    | .bank pr => wakeIfMet (claimFollows s x.row (execOf pr)) pr
    | _ => s
  else
    let s := send s (.vectorExecute p x.num)
    match l with
    | .bank pr => wakeIfMet s pr
    | _ => s
/-- The first command of a claim completes. -/
def completeCmd (s : State) (p : Nat) (x : Claim) (seq : Nat) : State :=
  commandsMoved s p (setRing { x with cmds := x.cmds.drop 1, last := seq, parked := none }
    fun n => if n = seq then some 0 else none)
/-- A late fault (R288): the command stops, later ones are discarded, d7 is written; the address of its chain waits
with it. -/
def lateFault (s : State) (p : Nat) (x : Claim) (cmd : VCmd) (cause elem : Nat) : State :=
  let later := (x.cmds.drop 1).map (·.seq)
  let x := setRing x fun n => if n = cmd.seq then some 3 else if later.contains n then some 2 else none
  let l := locate s x.row
  let s := arriveWord s x.row l 7 (w64 (at_ cmd.seq 32 + at_ cause 24 + 2 ^ 23 + elem))
  let s := { s with late := (s.late.filter fun y => !(y.1 == x.row && y.2.1 == 256)) ++ [(x.row, 256, cmd.pc)] }
  commandsMoved s p { x with cmds := [], last := later.getLast?.getD cmd.seq, parked := none }
/-- d11's table fields after vfnld (R289). -/
def loadTable (s : State) (p : Nat) (x : Claim) (c : VCtx) : State × Claim :=
  let l := locate s x.row
  let w := putBits (putBits (putBits (locWord s l 11) 63 1 1) 56 7 c.count) 37 19 (c.aoff / 16)
  let x := { x with fn := some (tableAt (spad s (p / 2)) c.aoff c.count) }
  (arriveWord s x.row l 11 w, x)
/-- The segments below the one at which vfnld or vfnst stops are loaded or stored (R287 step 5); the rest of the table, and d11, stay as
they were (DESIGN CHOICE, log 92). -/
def tableBelow (s : State) (p : Nat) (x : Claim) (c : VCtx) (n : Nat) : State × Claim :=
  if c.op = .fnld then
    (s, if n = 0 then x else { x with fn := some (tableAt (spad s (p / 2)) c.aoff n ++ (x.fn.getD []).drop (5 * n)) })
  else (spadStore s (p / 2) c.doff (((c.table.getD []).take (5 * n)).flatMap wordBytes), x)
/-- vfnld and vfnst (R289). -/
def runTable (s : State) (p : Nat) (x : Claim) (cmd : VCmd) (c : VCtx) : State :=
  match c.tableCheck with
  | some (.late f e) =>
    let (s, x) := tableBelow s p x c e
    lateFault s p x cmd f e
  | some (.park _) => s
  | none =>
    if c.op = .fnld then
      let (s, x) := loadTable s p x c
      completeCmd s p x cmd.seq
    else completeCmd (spadStore s (p / 2) c.doff ((c.table.getD []).flatMap wordBytes)) p x cmd.seq
/-- Offset of a block in the scratchpad of a pool's cluster. -/
def padOffset (p : Nat) (b : TornBlock) : Option Nat :=
  match b.place with
  | .spad k o => if k = p / 2 then some o else none
  | _ => none
/-- The blocks that a command of a claim may see in part (R250): those that another row's command or a node has written unobserved. The
command writes in none of them: what it reads of its own extents is as it is (log 103). -/
def tornFor (s : State) (p : Nat) (x : Claim) (c : VCtx) : List TornBlock :=
  s.torn.filter fun b => (padOffset p b).any fun o => !overlap c.doff c.reach o 64 && (b.row != x.row || b.node.isSome)
/-- The scratchpad as the command sees it. -/
def seenPad (s : State) (p : Nat) (l : List TornBlock) : State × Memory :=
  l.foldl (fun (s, m) b =>
    let o := (padOffset p b).getD 0
    let (s, bs) := readTorn s [b] (memBytes m o 64)
    (s, memStore m o bs)) (s, spad s (p / 2))
/-- The scratchpad after the command: what it has seen in part is as it was. -/
def afterSeen (s : State) (p : Nat) (l : List TornBlock) (m : Memory) : Memory :=
  l.foldl (fun m b => let o := (padOffset p b).getD 0; memStore m o (memBytes (spad s (p / 2)) o 64)) m
/-- A command run on the scratchpad as it sees it. -/
def runSeen (s : State) (p : Nat) (x : Claim) (c : VCtx) (run : VRun) : State × VEnd :=
  let l := tornFor s p x c
  let (t, m) := seenPad s p l
  let e := c.runCmd ⟨run, m⟩
  (t, { e with work := { e.work with mem := afterSeen s p l e.work.mem } })
/-- The blocks of a described destination that a command has changed, until its completion is observed (R250, R290). -/
def noteWritten (s : State) (p : Nat) (x : Claim) (seq : Nat) (c : VCtx) (after : Memory) : State :=
  if !c.m.dd then s
  else
    let offs := (List.range (c.span / 64)).map fun k => c.doff + 64 * k
    let old := spad s (p / 2)
    { s with torn := s.torn ++ ((offs.filter fun o => memBytes old o 64 != memBytes after o 64).map fun o =>
        ⟨.spad (p / 2) o, memBytes old o 64, x.row, seq, none⟩) }
/-- The pool runs the first command of a claim, from its start or from where it parked. -/
def runHead (s : State) (p : Nat) (x : Claim) (cmd : VCmd) (run : Option VRun) : State :=
  match vopOf cmd.op with
  | none => s
  | some (op, ctl, m) =>
    let c : VCtx := ⟨op, ctl.guard, m, x.marea, cmd.x, cmd.y, x.fn⟩
    if op = .fnld ∨ op = .fnst then runTable s p x cmd c
    else
      let (s, e) := runSeen s p x c (run.getD c.start)
      let r := e.work.run
      let s := noteWritten s p x cmd.seq c e.work.mem
      let s := postChecks (setSpad s (p / 2) e.work.mem) p x cmd.seq r
      match e.stop with
      | none => completeCmd s p x cmd.seq
      | some (.late f n) => lateFault s p x cmd f n
      | some (.park off) =>
        let s := postBlock s p x cmd.seq 6 cFmt off
        putClaim s p { x with parked := some { r with posted := r.checks.length } }
/-- A pool reaches the first outstanding command of a claim (R287). -/
def execVectorExecute (pool claim : Nat) (s : State) : Host.Outcome State Fault Refusal :=
  .next (match claimIn s pool claim with
    | some x =>
      match x.cmds.head?, x.parked with
      | some cmd, none => runHead s pool x cmd none
      | _, _ => s
    | none => s)
/-- The executor of a row: where its image lies, or the one that its entry names. -/
def execAt (s : State) (r : RowId) : Nat :=
  match locate s r with
  | .bank pr => execOf pr
  | _ => execOf (entryRow (rowEntry s r))
/-- A row's waiting request is granted (R269), in the pool of the row's executor. -/
def execClaimGrant (pool : Nat) (r : RowId) (s : State) : Host.Outcome State Fault Refusal :=
  let x := Machine.pool s pool
  .next (match x.waiting.find? fun w => w.1 == r with
    | some (_, want, marea) =>
      if canGrant x && poolOf (execAt s r) = pool then
        let s := establish (setPool s pool { x with waiting := x.waiting.filter fun w => w.1 != r }) pool r want marea
        match locate s r with
        | .bank pr => wakeIfMet s pr
        | _ => s
      else s
    | none => s)
/-- VPARK resume: the parking block is read again (R287). -/
def execVparkResume (pool claim : Nat) (s : State) : Host.Outcome State Fault Refusal :=
  .next (match claimIn s pool claim with
    | some x =>
      match x.cmds.head?, x.parked with
      | some cmd, some run => runHead s pool { x with parked := none } cmd (some run)
      | _, _ => s
    | none => s)
/-- VPARK discard: the command completes with the elements already written and no more (R287). -/
def execVparkDiscard (pool claim : Nat) (s : State) : Host.Outcome State Fault Refusal :=
  .next (match claimIn s pool claim with
    | some x =>
      match x.cmds.head?, x.parked with
      | some cmd, some run =>
        match vopOf cmd.op with
        | some (op, ctl, m) =>
          let c : VCtx := ⟨op, ctl.guard, m, x.marea, cmd.x, cmd.y, x.fn⟩
          let m := (c.flush ⟨run, spad s (pool / 2)⟩).mem
          completeCmd (setSpad (noteWritten s pool x cmd.seq c m) (pool / 2) m) pool x cmd.seq
        | none => s
      | _, _ => s
    | none => s)

/-! ### What a waiting row waits for -/

/-- A row that waits for its pool: for a claim to be re-established, for lanes or for a place among 32 commands (R270,
R271, R278). -/
def commandsReady (s : State) (pr : Nat) : Bool :=
  let w := rowWord s pr 11
  if stranded s pr then false
  else if d11Valid w && d11Recl w then
    !(pool s (poolOf (execOf pr))).waiting.any fun x => x.1 == rowId s pr
  else match ownClaim s pr with
    | some (p, x) => (x.lanes != 0 || 32 ≤ freeLanes (pool s p)) && x.cmds.length < 32
    | none => true
/-- The row of a slot can look at its instruction again (R103, R116, R166, R172, R174, R180, R186). -/
def waitReady (s : State) (pr : Nat) (w : Wait) : Bool :=
  let t := { s with cur := pr }
  match w with
  | .none => true
  | .walk q va => (tlbFind s (unitOf (execOf pr)) q (bits va 0 57)).isSome ||
      !s.agenda.any fun m => match m with | .pageWalk _ q' va' => q' == q && va' == va | _ => false
  | .walkFault _ _ _ _ _ => true
  | .lease page _ _ _ => leaseUsable s page || !isRemote s (65536 * page)
  | .lines => (s.misses.filter fun m => m.agent == agentOf (execOf pr)).length < 64
  | .slotFull => (freeSlot s (.bank pr)).isSome
  | .release sc n => releaseMet t sc n
  | .acquire => !acquirePending t && !storesBehind t
  | .copyQueue => true
  | .batchFull => bits (rowWord s pr 12) 8 8 < 32
  | .commands => commandsReady s pr
  | .router c => !routerRefuses s c
  | .reply i => slotState s (.bank pr) i == 0
  | .answer => true
  | .instruction w => waitForMet s pr w
  | .marker => bits (rowWord s pr 2) 18 6 == 0

/-- A row stands before a chain that it is going to issue: it waits neither within an instruction nor for a reply that moves its PC, and
what it waited for before the chain has come about (log 53). -/
def beforeChain (s : State) (pr : Nat) : Bool :=
  !awaitsReply s (rowId s pr) && (match (slotOf s pr).map fun k => (slot s (execOf pr) k).wait with
    | some (.instruction _) => false
    | some (.walkFault _ _ _ _ _) => false
    | some w => waitReady s pr w
    | none => true)

/-! ### VLATE (R288) -/

/-- A late fault of a vector command waits for a row that issues: not for one that waits at an instruction, OPEN or closed and opened
again (R273, R288). -/
def vlatePending (s : State) (pr : Nat) : Bool := bit (rowWord s pr 7) 23 && beforeChain s pr && !bit (rowWord s pr 15) 39
/-- The instruction address of the command that d7 names: from the ring of the row's claim; where the claim is gone, as it was when
the command faulted; a SEQ that no ring holds, which a kernel may store (R191), gives a free value (DESIGN CHOICE, log 93). -/
def vlateAddr (s : State) (r : RowId) (pr : Nat) : Word :=
  let seq := bits (rowWord s pr 7) 32 32
  match (ownClaim s pr).bind fun x => x.2.ring.find? fun e => e.seq == seq with
  | some e => e.pc
  | none => ((s.late.find? fun x => x.1 == r && x.2.1 == 256).map fun x => x.2.2).getD (Config.freeWord 0x288 s.count)
def vlateDue (s : State) (r : RowId) : Option Word :=
  match openRow s r with
  | some pr => if vlatePending s pr then some (vlateAddr s r pr) else none
  | none => none
/-- The row faults VLATE with the command's address; PEND clears (R288). -/
def execVlate (r : RowId) (s : State) : Host.Outcome State Fault Refusal :=
  .next (match openRow s r, vlateDue s r with
    | some pr, some a =>
      let s := { s with late := s.late.filter fun x => !(x.1 == r && x.2.1 == 256), count := s.count + 1 }
      let s := setRowWord s pr 7 (putBits (rowWord s pr 7) 23 1 0)
      takeFault s pr (faultOf cVlate 0 0) true false a
    | _, _ => s)

end Sys2Proof.Machine
end

