-- ==== Sys2Proof/Machine/Choose.lean ====
section
/-!
DEFINITION. Whose turn it is: the order of messages in flight (log 1), events due at an executor, the slot that an
arithmetic cycle goes to and its interlocks (R38, R174, R336 to R341, R459), and the passing of a cycle.
-/

namespace Sys2Proof.Machine

/-! ### Messages in flight -/

/-- The channel whose messages stay in order: between an agent and the home of a line in each direction, and from a
row to a row image (R202, R317); a cluster sends its engine's registrations after its own (R119). Messages of other kinds have none. -/
def channel (s : State) (m : Msg) : Option (List Nat) :=
  match m with
  | .lineFill a l _ _ _ => some [1, a, l]
  | .registrationAck a id _ => (s.regs.find? fun p => p.id == id).map fun p => [1, a, p.line]
  | .recall a l _ => some [1, a, l]
  | .forward a l _ => some [1, a, l]
  | .invalidation a l _ _ => some [1, a, l]
  | .registration r => some [2, if r.op = .engReg then r.agent - 0x20 else r.agent, lineOf r.pa]
  | .lineRead r => some [2, r.agent, lineOf r.pa]
  | .homeAtomic r => some [2, r.agent, lineOf r.pa]
  | .writeThrough r => some [2, r.agent, lineOf r.pa]
  | .engineLineWrite r => some [2, r.agent, lineOf r.pa]
  | .recallWriteback a _ l _ _ => some [2, a, l]
  | .evictionWriteback a _ l _ _ => some [2, a, l]
  | .forwardReply a _ l _ _ => some [2, a, l]
  | .evictionNotice a _ l => some [2, a, l]
  | .outsideRowAccess a => some [3, a.row.part, a.row.lrow, a.target.part, a.target.lrow]
  | .rackPushLine d p _ _ _ => some [4, d, p]
  | .appendGrant r => some [5, r.row.part, r.row.lrow, r.pa / 65536]
  | .sealArrival r => some [5, r.row.part, r.row.lrow, r.pa / 65536]
  | .tailRequest r => some [5, r.row.part, r.row.lrow, r.pa / 65536]
  | _ => none
/-- The message that a turn delivers: the first one of the k-th message's channel. -/
def toDeliver (s : State) (k : Nat) : Option Msg :=
  match s.agenda[k % s.agenda.length]? with
  | none => none
  | some m =>
    match channel s m with
    | none => some m
    | some c => s.agenda.find? fun x => channel s x == some c
/-- A message leaves the agenda. -/
def takeMsg (s : State) (m : Msg) : State := { s with agenda := dropFirst (· == m) s.agenda }

/-! ### The issue of an executor (R336) -/

/-- Row words that an outstanding ld or amo of a row will write (R174). -/
def pendingDests (s : State) (pr : Nat) : List Nat :=
  let l := Loc.bank pr
  ((busySlots s l).filter fun i => slotKind s l i == 1 || slotKind s l i == 3).map fun i => slotDest s l i
/-- A chain names a row word whose value is outstanding (R174). -/
def interlocked (s : State) (pr : Nat) (i : Instr) : Bool :=
  (regWords i).any fun n => (pendingDests s pr).contains n
/-- The chain has S set and a result of the row is outstanding (R38). -/
def atMarker (s : State) (pr : Nat) (i : Instr) : Bool :=
  ((ctlOfInstr i).any fun c => c.sw) && bits (rowWord s pr 2) 18 6 != 0
/-- The executor issues at all: no clock change stops it (R465), its cluster is not halted, or steps one chain of the
row that DBG_ROW names (R459); the management executor is not halted (R467). -/
def executorRuns (s : State) (e : Nat) : Bool :=
  !s.hub.changing && (if e = 544 then !s.hub.mgmtHalted else isCtl e || !(cluster s (clusterOf e)).halted)
def stepsRow (s : State) (e pr : Nat) : Bool :=
  let x := cluster s (clusterOf e)
  !isCtl e && x.halted && x.stepping && decide ((rowId s pr).lrow = x.dbgRow.toNat)
/-- The row of slot k can begin a chain, leaving aside what its fetch gives (R336). -/
def mayIssue (s : State) (e k : Nat) : Option Nat :=
  match openIn s e k with
  | some pr =>
    let x := slot s e k
    if (executorRuns s e || stepsRow s e pr) && x.stall == 0 && waitReady s pr x.wait && !awaitsReply s (rowId s pr)
    then some pr else none
  | none => none
/-- What a cycle is given to: a slot that begins a chain or faults at decoding or fetching, a slot that comes to stand
at a switch marker or waits for its fetch, or nothing. -/
inductive Pick where
  | idle
  | issue (k pr : Nat) (f : Fetched)
  | marker (k : Nat)
  | fetch (k pr : Nat) (f : Fetched)
  deriving DecidableEq, Repr

/-- What slot k would do with the cycle; none passes it on. A chain that decodes ILLEGAL faults at once, also one whose base word has S
set while results are outstanding: R38 does not say which comes first (DESIGN CHOICE, log 89). -/
def pickSlot (s : State) (e k : Nat) : Option Pick :=
  match mayIssue s e k with
  | none => none
  | some pr =>
    let f := fetch { s with waited := (slot s e k).wait } pr
    match f with
    | .chain i _ =>
      if atMarker s pr i then (if (slot s e k).wait = .marker then none else some (.marker k))
      else if interlocked s pr i then none
      else some (.issue k pr f)
    | .reserved _ => some (.issue k pr f)
    | .fault _ _ _ _ => some (.issue k pr f)
    | .walk _ => some (.fetch k pr f)
    | .lease _ _ => some (.fetch k pr f)
    | .line _ pa _ =>
      if (missOf s (agentOf e) (lineOf pa)).isSome then none else some (.fetch k pr f)
/-- The first slot after the pointer that can use the cycle (R336). -/
def pick (s : State) (e : Nat) : Pick :=
  let rr := (exec' s e).rr
  ([1, 2, 3, 4].findSome? fun d => pickSlot s e ((rr + d) % 4)).getD .idle
/-- One arithmetic cycle passes at an executor: CYCLE counts, stalls run down, the rows that entered the ready queue are seen by the
closings from now on (R374), what was asked of the bank is served in its order, and a closing's write-back begins with its first cycle
(R337, R339); CYCLE and the count of a pre-emption request stand still while the cluster is halted (R210, R418, R459). -/
def passCycle (s : State) (e : Nat) : State :=
  let x := exec' s e
  let run := executorRuns s e
  let down := fun (y : Slot) => { y with stall := y.stall - 1, ended := false, arr := 0 }
  let x := { x with slots := x.slots.map down, stalls := (x.stalls.map fun p => (p.1, p.2 - 1)).filter fun p => p.2 != 0,
                    entered := [], xfer := x.xfer ++ x.asked.map fun k => (false, k), asked := [],
                    cycle := if run then x.cycle + 1 else x.cycle,
                    preCyc := if run && !isCtl e && (cluster s (clusterOf e)).pre.isSome then x.preCyc + 1 else x.preCyc }
  let s := setExec s e x
  match x.xfer.head? with
  | none => s
  | some (_, k) =>
    let y := slot s e k
    setSlot s e k (if y.st = .opened then { y with st := .closing, left := 3 } else { y with left := y.left - 1 })
/-! ### Events due at an executor -/

/-- The row of a slot stands at a switch marker with a result outstanding, and the ready queue is not empty (R38,
R338): it came there before, or its chain has ended and the next one has S set. -/
def markerDue (s : State) (e k : Nat) : Bool :=
  match openIn s e k with
  | some pr =>
    let w := (slot s e k).wait
    queueWaits s e && bits (rowWord s pr 2) 18 6 != 0 && (w == .marker
      || (w == .none && !awaitsReply s (rowId s pr) && (match fetch { s with waited := .none } pr with
          | .chain i _ => atMarker s pr i
          | _ => false)))
  | none => false
/-- The switch-marker closing (R338). -/
def execSwitchMarkerClosing (e k : Nat) (s : State) : Host.Outcome State Fault Refusal :=
  .next (if markerDue s e k then closeRow s (slot s e k).row stWait else s)
/-- A pending enabled event can be delivered to an OPEN row that issues (R364, log 53). -/
def eventDue (s : State) (pr : Nat) : Bool :=
  let d10 := rowWord s pr 10
  eventOpen s pr && bits d10 32 32 &&& bits (d10 &&& eventBits) 0 32 != 0 && beforeChain s pr
/-- The delivery of a copy-completion event is an observation of the completion (R121). -/
def seeCopyEvent (s : State) (r : RowId) (pr : Nat) : State :=
  if bit (rowWord s pr 10) 0 && bit (rowWord s pr 10) 32 then observeCopies s r else s
/-- An event is delivered (R364): the row begins the handler's chain and waits for nothing. -/
def execEventDelivery (r : RowId) (s : State) : Host.Outcome State Fault Refusal :=
  .next (match openRow s r with
    | some pr => if eventDue s pr then endWait (deliverEvent (seeCopyEvent s r pr) pr) pr else s
    | none => s)
/-- What ends or begins at the bank of an executor (R337, R340, R341, R199). -/
def bankDue (s : State) (e : Nat) : Option Msg :=
  match [0, 1, 2, 3].find? (placeDue s e) with
  | some k => some (.openInPlace e k)
  | none =>
    if (openingDue s e).isSome then some (.opening e)
    else if (bringable s e).isSome && (freeRow s e).isSome then some (.bringIn e) else none
/-- The end of the transfer that the bank performs (R337). -/
def transferDue (s : State) (e : Nat) : Option Msg :=
  match headTransfer s e with
  | some (true, k) => if transferDone s e k true then some (.openingDone e k) else none
  | some (false, k) => if transferDone s e k false then some (.closingDone e k) else none
  | none => none
/-- The closing of a row that waits: the limit, the switch marker, the waiting instruction (R338). -/
def waitClosing (s : State) (e k : Nat) : Option Msg :=
  if limitDue s e k then some (.limitClosing e k)
  else if markerDue s e k then some (.switchMarkerClosing e k)
  else if waitingDue s e k then some (.waitingInstructionClosing e k)
  else none
/-- The event that comes before the executor's next cycle: the end of a transfer, late faults and closings by slot number, each for
its first cause (R337, R338, R364), the delivery of an event, a breakpoint, openings. A halted cluster only ends its transfers
(R459). -/
def dueEvent (s : State) (e : Nat) : Option Msg :=
  match transferDue s e with
  | some m => some m
  | none =>
    if !executorRuns s e then none
    else match [0, 1, 2, 3].findSome? (dueClosing s e) with
    | some m => some m
    | none => dueBoundary s e
where
  rowIn (s : State) (e k : Nat) : Option RowId := (openIn s e k).map (rowId s)
  dueClosing (s : State) (e k : Nat) : Option Msg :=
    if ((rowIn s e k).bind (lateDue s)).isSome then (rowIn s e k).map .lateCheck
    else if ((rowIn s e k).bind (vlateDue s)).isSome then (rowIn s e k).map .vlate
    else match waitClosing s e k with
    | some m => some m
    | none => if quantumDue s e k then some (.quantumClosing e k) else none
  dueBoundary (s : State) (e : Nat) : Option Msg :=
      match [0, 1, 2, 3].findSome? fun k => (openIn s e k).filter fun pr => eventDue s pr with
      | some pr => some (.eventDelivery (rowId s pr))
      | none =>
        match [0, 1, 2, 3].find? (breakDue s e) with
        | some k => some (.breakpointMatch e k)
        | none => bankDue s e

/-! ### The cycles of a chain -/

/-- What comes between two cycles of a chain in slot k: the bank's transfers end and begin, and rows that wait in other slots close
(R338 to R341, R374). -/
def betweenCycles (s : State) (e k : Nat) : Option Msg :=
  match transferDue s e with
  | some m => some m
  | none =>
    if !executorRuns s e then none
    else match ([0, 1, 2, 3].filter (· != k)).findSome? (waitClosing s e) with
    | some m => some m
    | none => bankDue s e
/-- Such an event comes about; what else a message may be leaves the state as it is. -/
def atCycle (m : Msg) (s : State) : State :=
  let o : Host.Outcome State Fault Refusal := match m with
    | .openingDone e k => execOpeningDone e k s
    | .closingDone e k => execClosingDone e k s
    | .limitClosing e k => execLimitClosing e k s
    | .switchMarkerClosing e k => execSwitchMarkerClosing e k s
    | .waitingInstructionClosing e k => execWaitingInstructionClosing e k s
    | .openInPlace e k => execOpenInPlace e k s
    | .opening e => execOpening e s
    | .bringIn e => execBringIn e s
    | _ => .next s
  match o with
  | .next t => t
  | _ => s
/-- All that comes between two cycles. -/
def betweenAll (e k : Nat) : Nat → State → State
  | 0, s => s
  | n + 1, s => match betweenCycles s e k with
    | some m => betweenAll e k n (atCycle m s)
    | none => s
/-- The cycles of a chain of n words in slot k (R336). -/
def passCycles (s : State) (e k : Nat) : Nat → State
  | 0 => s
  | 1 => passCycle s e
  | n + 2 => passCycles (betweenAll e k 16 (passCycle s e)) e k (n + 1)
/-- A chain of n words begins in slot k: its cycles pass, the pointer moves, what the row waited for is handed to the
meaning, old code words have one chain less, unless the row comes back to a chain that it waited at (R224, R336). -/
def beginChain (s : State) (e k pr n : Nat) : State :=
  let s := passCycles s e k n
  let x := slot s e k
  let again := x.begun && x.wait != .none
  let s := { s with cur := pr, waited := x.wait }
  let s := setSlot s e k { x with wait := .none, bpPass := false, ended := true, begun := true }
  let s := if again then s else passStale s (agentOf e) (rowId s pr)
  let s := setExec s e { exec' s e with rr := k }
  if stepsRow s e pr then setCluster s (clusterOf e) { cluster s (clusterOf e) with stepping := false } else s

end Sys2Proof.Machine
end

