-- ==== Sys2Proof/Machine/Domains.lean ====
section
/-!
DEFINITION. Domains of a launch and their units: members, participants, scopes, phases, meeting points
(R343 to R345, R357 to R361).
-/

namespace Sys2Proof.Machine

/-- The scope of a level (R361). -/
def levelScope (l : Nat) : Scope := if l = 1 then .clu else if l = 2 then .die else if l = 3 then .dev else .sys
/-- A row belongs to a domain of a level: MEMB (R344). -/
def memberOf (s : State) (pr l : Nat) : Bool := bit (rowWord s pr 4) (59 + l)
/-- The number of the domain of a level that launch row i lies in: level-1 domains and level-2 domains are counted
through the launch, the wider ones are one each (R343). -/
def domainOf (x : Launch) (l i : Nat) : Nat :=
  if l = 1 then i / x.n1 else if l = 2 then i / x.n1 / x.n2 else 0
/-- The domain of a row by its identifiers (R192, R343). -/
def rowDomain (s : State) (l : Nat) (loc : Loc) : Nat :=
  match launchAt s loc with
  | some x => domainOf x l ((locId s loc).lrow - x.base)
  | none => 0
/-- The launch rows of a domain. -/
def domainRows (x : Launch) (l dom : Nat) : List Nat := (List.range x.rows).filter fun i => domainOf x l i == dom
/-- The executor that holds a row, or to which its row-table entry assigns it. -/
def execOfRow (s : State) (r : RowId) : Nat := execOf (entryRow (rowEntry s r))
/-- The scope of a synchronisation, widened while a member has been moved out of its unit (R345); a launch row that is not created yet
lies in no executor. -/
def domainScope (s : State) (l : Nat) (loc : Loc) : Scope :=
  match launchAt s loc with
  | none => levelScope l
  | some x =>
    let q := (locId s loc).part
    let es := (((domainRows x l (rowDomain s l loc)).map fun i => (⟨q, x.base + i⟩ : RowId)).filter (isLive s)).map (execOfRow s)
    let same := fun (f : Nat → Nat) => es.all fun e => f e == f (es.headD 0)
    if l = 1 then (if same clusterOf then .clu else if same dieOf then .die else .dev)
    else if l = 2 then (if same dieOf then .die else .dev)
    else levelScope l

/-! ### Units (R357) -/

def sameUnit (u : DomUnit) (q launch l dom : Nat) : Bool :=
  u.part == q && u.launch == launch && u.level == l && u.dom == dom
def domUnit (s : State) (q launch l dom : Nat) : DomUnit :=
  (s.domains.find? fun u => sameUnit u q launch l dom).getD ⟨q, launch, l, dom, 0, [], []⟩
def putUnit (s : State) (u : DomUnit) : State :=
  { s with domains := u :: s.domains.filter fun v => !sameUnit v u.part u.launch u.level u.dom }
/-- The participants of a domain: its rows that are not DONE. -/
def participants (s : State) (q launch l dom : Nat) : Nat :=
  match findLaunch s q launch with
  | some x => ((domainRows x l dom).filter fun i => !x.finished.contains i).length
  | none => 0
/-- The completion of the unit's phase goes to every row that arrived in it, and the next phase starts. -/
def completePhase (s : State) (u : DomUnit) : State :=
  let s := sendAll s (u.arrived.map fun a => .syncCompletion a.row a.slot a.tag (w64 u.phase.toNat) false)
  putUnit s { u with phase := u.phase + 1, arrived := [] }
/-- PHASE COMPLETE: the counted arrivals equal the participants. At level 4 the gang's other modules must have
arrived too, which is a free value drawn at each attempt (log 23). -/
def phaseCheck (s : State) (q launch l dom : Nat) : State :=
  let u := domUnit s q launch l dom
  if u.arrived.isEmpty || u.arrived.length < participants s q launch l dom then s
  else if l = 4 then
    let (s, f) := draw s 0x357
    if bit f 0 then completePhase s u else sendAll s ((u.arrived.take 1).map fun a => .barrierArrival a)
  else completePhase s u
/-- An arrival would complete its unit's phase at once: every other participant has arrived. At level 4 the gang's other modules must
have arrived too, which is a free value (log 23). -/
def lastArrival (s : State) (a : Arrival) : Bool :=
  let u := domUnit s a.row.part a.launch a.level a.domain
  (a.level < 4 || bit (Config.freeWord 0x357 s.count) 0) && !(u.seen.any fun x => x.1 == a.row && x.2.1 == a.tag)
    && u.arrived.length + 1 == participants s a.row.part a.launch a.level a.domain
/-- A row has left the participants: each of its domains' phases may complete (R357). -/
def phasesOf (s : State) (loc : Loc) : State :=
  let r := locId s loc
  let launch := launchIdAt s loc
  [1, 2, 3, 4].foldl (fun s l =>
    if bit (locWord s loc 4) (59 + l) then phaseCheck s r.part launch l (rowDomain s l loc) else s) s
/-- An arrival reaches its unit and is counted once per tag (R357). -/
def execBarrierArrival (a : Arrival) (s : State) : Host.Outcome State Fault Refusal :=
  let u := domUnit s a.row.part a.launch a.level a.domain
  let known := u.seen.any fun x => x.1 == a.row && x.2.1 == a.tag
  let s := if known then s
    else putUnit s { u with arrived := u.arrived ++ [a], seen := (a.row, a.tag, u.phase.toNat) :: u.seen }
  .next (phaseCheck s a.row.part a.launch a.level a.domain)

/-! ### Meeting points (R359) -/

def sameMeeting (m : Meeting) (a : Arrival) (meet : Nat) : Bool :=
  m.part == a.row.part && m.launch == a.launch && m.level == a.level && m.dom == a.domain && m.meet == meet
/-- The completions of a meeting whose arrivals reached its count: each its own index. -/
def completeMeeting (s : State) (m : Meeting) : State :=
  let s := sendAll s ((m.arrived.zipIdx.filter fun x => x.1.row.part < 32).map fun (a, j) =>
    .syncCompletion a.row a.slot a.tag (w64 j) false)
  let s := { s with meetings := s.meetings.filter (· != m) }
  let (mine, rest) := s.meetWait.partition fun w => w.part == m.part && w.level == m.level
  sendAll { s with meetWait := rest } (mine.flatMap fun w => w.arrived.map fun a => .rdvArrival a w.meet w.count)
/-- The unit of a domain, among those of its level (R357): the cluster or the die on which the hub placed its first row. -/
def domainUnit (s : State) (q launch l dom : Nat) : Nat :=
  match findLaunch s q launch with
  | some x =>
    let e := nth x.place ((domainRows x l dom).headD 0) 0
    if l = 1 then clusterOf e else if l = 2 then dieOf e else 0
  | none => 0
/-- The meetings that a partition has open in the unit of another one, at its level. -/
def unitMeetings (s : State) (m : Meeting) : List Meeting :=
  s.meetings.filter fun x => x.part == m.part && x.level == m.level &&
    domainUnit s x.part x.launch x.level x.dom == domainUnit s m.part m.launch m.level m.dom
/-- Arrivals of the gang's other modules at a meeting of level 4 (R357): their number is a free value, drawn when an arrival comes or
looks again; they leave room for the arrivals of this module, and are those of no row here (log 23). -/
def gangArrivals (s : State) (m : Meeting) : State × Meeting :=
  if m.level < 4 then (s, m)
  else
    let (s, f) := draw s 0x359
    let n := f.toNat % (m.count - m.arrived.length + 1)
    let a : Arrival := ⟨⟨64, 0⟩, 0, 0, 4, 0, 0⟩
    (s, { m with arrived := m.arrived ++ List.replicate n a })
/-- A meeting with its new arrival: complete when the arrivals reach the count. At level 4 it looks again later. -/
def meetNow (s : State) (m : Meeting) : State :=
  if m.arrived.length = m.count then completeMeeting s m
  else if m.level < 4 then s
  else sendAll s (((m.arrived.filter fun a => a.row.part < 32).take 1).map fun a => .rdvArrival a m.meet m.count)
/-- A meeting replaces its former self. -/
def putMeeting (s : State) (m : Meeting) : State :=
  { s with meetings := s.meetings.map fun x =>
      if x.part = m.part ∧ x.launch = m.launch ∧ x.level = m.level ∧ x.dom = m.dom ∧ x.meet = m.meet then m else x }
/-- An arrival at a meeting point (R359). -/
def execRdvArrival (a : Arrival) (meet count : Nat) (s : State) : Host.Outcome State Fault Refusal :=
  .next (match s.meetings.find? fun m => sameMeeting m a meet with
    | some m =>
      if m.arrived.any fun b => b.row == a.row && b.tag == a.tag then
        (if m.level < 4 then s
         else
          let (s, n) := gangArrivals s m
          meetNow (putMeeting s n) n)
      else if m.count ≠ count then send s (.syncCompletion a.row a.slot a.tag 0 true)
      else
        let n := { m with arrived := m.arrived ++ [a] }
        meetNow (putMeeting s n) n
    | none =>
      let (s, m) := gangArrivals s ⟨a.row.part, a.launch, a.level, a.domain, meet, count, []⟩
      let m := if m.arrived.length < count then { m with arrived := m.arrived ++ [a] } else { m with arrived := m.arrived.dropLast ++ [a] }
      if (unitMeetings s m).length < 256 then meetNow { s with meetings := s.meetings ++ [m] } m
      else { s with meetWait := s.meetWait ++ [{ m with arrived := [a] }] })

/-! ### Completions at a row (R358 to R360) -/

/-- A row that waits BLOCKED for a reason becomes READY; one FROZEN or PARKED in that wait is READY when it resumes;
any other state stays (R360). -/
def unblockRow (s : State) (l : Loc) (reasons : List Nat) : State :=
  let d15 := locWord s l 15
  let mine := reasons.contains (bits d15 41 3)
  let st := locState s l
  if (st = stFrozen || st = stParked) && mine && bits d15 44 4 = stBlocked then
    setLocWord s l 15 (putBits (putBits d15 41 3 0) 44 4 stReady)
  else
    match l with
    | .bank pr => if st = stBlocked && mine then makeReady (setRowWord s pr 15 (putBits d15 41 3 0)) pr else s
    | _ => s
/-- A refused rendezvous (R359): d1 is set back, the slot is freed, the row faults DOMAIN at its selector; a row FROZEN
or PARKED meanwhile is FAULTED when it resumes. -/
def refuseRdv (s : State) (l : Loc) (slot : Nat) : State :=
  let a := slotAddr s l slot
  let q := w64 (at_ (bits a 0 8 - 8) 32 + bits a 8 16)
  let ia := ((opRec s (locId s l) slot).map (·.na)).getD (locWord s l 1)
  let st := locState s l
  let s := clearSlot s l slot
  let blocked := bits (locWord s l 15) 41 3 = 3
  let f := faultOf cDomain 0 9
  if !blocked then s
  else
    let s := setLocBits (setLocWord s l 1 ia) l 15 41 3 0
    match l with
    | .bank pr =>
      if st = stBlocked then takeFault s pr f false false q
      else setLocBits (setRowWord (setRowWord s pr 5 (faultWord f false)) pr 6 q) l 15 44 4 stFaulted
    | _ => setLocBits (setLocWord (setLocWord s l 5 (faultWord f false)) l 6 q) l 15 44 4 stFaulted
/-- A completion of a barrier (address word 1 to 4) or a rendezvous reaches its row as an arrival (R202, R358, R360, R361): DEST, the slot,
the acquire, and the wake of the bar that waits on this arrival or of the rdv. -/
def execSyncCompletion (r : RowId) (slot tag : Nat) (value : Word) (refused : Bool) (s : State) :
    Host.Outcome State Fault Refusal :=
  let l := locate s r
  .next (if l = .none || !slotHas s l slot tag then logDiscard s r
    else if inTransfer s l then sendAgain s (.syncCompletion r slot tag value refused)
    else
    let s := noteArrival s l
    if refused then refuseRdv s l slot
    else
      let a := (slotAddr s l slot).toNat
      let isBar := a < 8
      let level := if isBar then a else a % 256 - 8
      let waits := !isBar || ((opRec s r slot).map (·.bar)).getD false
      let s := writeDest s l (slotDest s l slot) value
      let sc := domainScope s level l
      let s := clearSlot s l slot
      let s := if waits then unblockRow (acquireAt s (execOfRow s r) sc) l [if isBar then 1 else 3] else s
      match l with
      | .bank pr => wakeIfMet s pr
      | _ => s)

end Sys2Proof.Machine
end

