-- ==== Sys2Proof/Machine/Sync.lean ====
section
/-!
DEFINITION. Waiting, barriers, rendezvous and events: wait, await, park, bar, arrive, rdv, evset, evret, evmask
(R353 to R367), and the reply of a watch.
-/

namespace Sys2Proof.Machine

/-- A write to rd through window 3 faults before any other effect, with the access kind of its group (R46, R373). -/
def roFaultAs (s : State) (acc : Nat) : State := fault s (faultOf cRowword 0 acc) (pc s)
/-- The row closes BLOCKED for a reason; the PC is as given. -/
def blockRow (s : State) (reason : Nat) (target : Word) : State :=
  let s := countChain (setPc s target)
  closeRow (setLocBits s (.bank s.cur) 15 41 3 reason) s.cur stBlocked
/-- The row closes and is READY at the same boundary (R334). -/
def closeToReady (s : State) (target : Word) : State := closeReady (countChain (setPc s target)) s.cur

/-! ### wait and await (R353 to R355) -/

/-- What forbids a watch on a place (R354). -/
def watchStop (s : State) (p : Place) : Option Nat :=
  match p with
  | .mem pa => if isRemote s pa then some 17 else none
  | .spad _ _ => some 17
  | .row r _ => if r = curRow s then none else some 15
  | .reg _ => some 14
  | .host _ => some 6
/-- A watch placed: slot, d14, and the row closes BLOCKED (R354). -/
def placeWatch (c : Ctl) (isAwait : Bool) (rd : Reg) (a : Word) (i : Nat) (o : OpRec) (s : State) : State :=
  let s := takeSlot s (.bank s.cur) i 8 (destOf rd) 0 0x0A a
  let s := setOpRec s { o with na := nextPc c s }
  let s := setRowWord s s.cur 14 (a ||| (if isAwait then 2#64 else 1#64))
  blockRow s (if isAwait then 5 else 2) (if isAwait then pc s else nextPc c s)
/-- The comparison of a watch (R354). -/
def watchMet (isAwait : Bool) (v y : Word) : Bool := if isAwait then decide (y.toNat ≤ v.toNat) else v != y
/-- wait or await on its place: the row's own image is compared by its bank at issue, with the acquire at device scope (R354, R361);
memory by its home. -/
def watchAt (c : Ctl) (isAwait : Bool) (rd : Reg) (a y : Word) (s : State) (p : Place) (t : TlbEnt) : State :=
  match watchStop s p with
  | some i => fault s (faultOf cPagePerm i 7) a
  | none => withSlot s fun s i =>
    match p with
    | .row r off =>
      let v := w64 (imageBytes s (.bank s.cur) off 8)
      let s := acquireAt s (curExec s) .dev
      if watchMet isAwait v y then closeToReady (writeReg s rd v) (nextPc c s)
      else
        let v' := if isAwait then s else writeReg s rd v
        placeWatch c isAwait rd a i { blankOp s i with access := some ⟨r, off, .load 8 false, 0, r, curExec s, i, 0, a.toNat⟩ } v'
    | .mem pa => afterEarlier s pa 8 fun s =>
      let r := requestOf s (.read (.watch isAwait y)) i a pa 8 false t .norm []
      let agent := r.agent
      let s := placeWatch c isAwait rd a i { blankOp s i with more := some .asked } s
      let r := { r with tag := slotTag s (.bank s.cur) i }
      let s := setCluster s agent { cluster s agent with watches := (cluster s agent).watches ++ [(r.row, i, pa)] }
      send s (.lineRead r)
    | _ => s
/-- wait and await under their guard. -/
def watchChain (c : Ctl) (isAwait : Bool) (rd ra rb : Reg) (s : State) : Host.Outcome State Fault Refusal :=
  memChain c s fun s =>
    let a := readReg s ra
    if rd.win = 3 then roFaultAs s 7
    else if a.toNat % 8 ≠ 0 then fault s (faultOf cAlign 0 7) a
    else if curExec s ≠ 544 && canonical a && inWindow s (curPart s) a then fault s (faultOf cPagePerm 17 7) a
    else withSite s ⟨true, false, 7, true⟩ a 8 (watchAt c isAwait rd a (readReg s rb))
/-- wait (R354). -/
def execWait (c : Ctl) (rd ra rb : Reg) (s : State) : Host.Outcome State Fault Refusal :=
  watchChain c false rd ra rb s
/-- await (R354). -/
def execAwait (c : Ctl) (rd ra rb : Reg) (s : State) : Host.Outcome State Fault Refusal :=
  watchChain c true rd ra rb s
/-- The reply of a watch reaches its row as an arrival (R202, R354): the clearing of an acquire at device scope, the value, and, when met,
the wake; an await that is met has its chain behind it. A write that came before the reply wakes the row now. -/
def execWatchReply (r : RowId) (slot tag : Nat) (value : Word) (met : Bool) (s : State) :
    Host.Outcome State Fault Refusal :=
  let l := locate s r
  .next (if l = .none || !slotHas s l slot tag then logDiscard s r
    else if inTransfer s l then sendAgain s (.watchReply r slot tag value met)
    else
      let s := acquireAt (noteArrival s l) (execOfRow s r) .dev
      let isAwait := bits (locWord s l 14) 0 2 = 2
      let dest := slotDest s l slot
      let s := if isAwait && !met then s else writeDest s l dest value
      if met then
        let s := match opRec s r slot with
          | some o => if isAwait then setLocWord s l 1 o.na else s
          | none => s
        let s := (List.range 0x81).foldl (fun s a => if (cluster s a).watches.any (fun w => w.1 == r) then dropWatch s a r else s) s
        endWatch s r slot
      else match opRec s r slot with
        | some o => if o.more = some .woken then endWatch s r slot else setOpRec s { o with more := none }
        | none => s)

/-! ### park (R356) -/

def execPark (c : Ctl) (s : State) : Host.Outcome State Fault Refusal :=
  chain c s fun s =>
    let s := renegotiate s s.cur true
    if bit (rowWord s s.cur 15) 40 then closeToReady (setLocBits s (.bank s.cur) 15 40 1 0) (nextPc c s)
    else blockRow s 4 (nextPc c s)

/-! ### Barriers and rendezvous (R357 to R359) -/

/-- A fault of a level: the row is no member (R344). -/
def domainFault (s : State) (info : Nat) (a : Word) : State := fault s (faultOf cDomain info 9) a
/-- The row's slot of KIND 0x09 with an address word. -/
def arrivalSlot (s : State) (l : Nat) : Option Nat :=
  (busySlots s (.bank s.cur)).find? fun i => slotKind s (.bank s.cur) i == 9 && slotAddr s (.bank s.cur) i == w64 l
/-- The arrival that the executing row sends. -/
def arrivalOf (s : State) (l i : Nat) : Arrival :=
  let b := Loc.bank s.cur
  ⟨curRow s, i, slotTag s b i, l, launchIdAt s b, rowDomain s l b⟩
/-- No bar of the row waits on an arrival any longer but the one given. -/
def markBar (s : State) (i : Option Nat) : State :=
  { s with ops := s.ops.map fun o => if o.row = curRow s then { o with bar := some o.slot == i } else o }
/-- One arrival per phase: an arrival slot that exists is waited for, then the release, then the slot and the arrival
(R358). -/
def arriveThen (s : State) (l dest : Nat) (body : State → Nat → State) : State :=
  match arrivalSlot s l with
  | some i => setWait s (.reply i)
  | none =>
    afterRelease s (some (domainScope s l (.bank s.cur))) fun s => withSlot s fun s i =>
      body (openSlot s i 0 dest 3 9 (w64 l) (blankOp s i)) i
/-- The arrival is on its way to the domain unit. -/
def sendArrival (s : State) (l i : Nat) : State := send s (.barrierArrival (arrivalOf s l i))
/-- The bar that is the last arrival of its phase: the unit completes the phase, and the row goes straight to READY at this boundary
(R334, R357): DEST takes the phase number, the slot is free again, the acquire is made. -/
def lastBar (c : Ctl) (rd : Reg) (a : Arrival) (s : State) : State :=
  let u := domUnit s a.row.part a.launch a.level a.domain
  let sc := domainScope s a.level (.bank s.cur)
  let s := completePhase s { u with seen := (a.row, a.tag, u.phase.toNat) :: u.seen }
  let s := clearSlot (writeReg s rd (w64 u.phase.toNat)) (.bank s.cur) a.slot
  closeToReady (renegotiate (acquireAt s (curExec s) sc) s.cur false) (nextPc c s)
/-- bar (R358): a re-negotiation point of the claim (R270). -/
def barBody (c : Ctl) (rd : Reg) (l k : Nat) (s : State) : State :=
  if rd.win = 3 then roFaultAs s 9
  else if !memberOf s s.cur l then domainFault s l (w64 l)
  else if k = 0 then
    arriveThen s l (destOf rd) fun s i =>
      if lastArrival s (arrivalOf s l i) then lastBar c rd (arrivalOf s l i) (nextDraw s)
      else blockRow (renegotiate (markBar (sendArrival s l i) (some i)) s.cur false) 1 (nextPc c s)
  else
    let s := renegotiate s s.cur false
    match arrivalSlot s l with
    | some i => blockRow (markBar (setLocBits s (.bank s.cur) (17 + 2 * i) 11 7 (destOf rd)) (some i)) 1 (nextPc c s)
    | none => closeToReady (writeReg s rd (BitVec.allOnes 64)) (nextPc c s)
def execBar (c : Ctl) (rd : Reg) (level k : BitVec 5) (s : State) : Host.Outcome State Fault Refusal :=
  chain c s (barBody c rd level.toNat k.toNat)
/-- arrive (R358) does not close. -/
def execArrive (c : Ctl) (level : BitVec 5) (s : State) : Host.Outcome State Fault Refusal :=
  chain c s fun s =>
    let l := level.toNat
    if !memberOf s s.cur l then domainFault s l (w64 l)
    else arriveThen s l 0 fun s i => advance c (sendArrival s l i)
/-- rdv (R359). -/
def execRdv (c : Ctl) (rd ra rb : Reg) (s : State) : Host.Outcome State Fault Refusal :=
  chain c s fun s =>
    let q := readReg s ra
    let n := (readReg s rb).toNat
    let l := bits q 32 3
    let id := bits q 0 16
    if rd.win = 3 then roFaultAs s 9
    else if bits q 35 29 ≠ 0 || bits q 16 16 ≠ 0 || l < 1 || 4 < l || n = 0 || 2 ^ 24 ≤ n then domainFault s 0 q
    else if !memberOf s s.cur l then domainFault s l q
    else afterRelease s (some (domainScope s l (.bank s.cur))) fun s => withSlot s fun s i =>
      let s := openSlot s i 0 (destOf rd) 3 9 (w64 (256 * id + 8 + l)) { blankOp s i with na := pc s }
      let s := send s (.rdvArrival (arrivalOf s l i) id n)
      blockRow s 3 (nextPc c s)

/-! ### Events (R362 to R367) -/

/-- evmask (R365); the enables of the reserved events read zero (R8, R362). -/
def execEvmask (c : Ctl) (rd ra rb : Reg) (s : State) : Host.Outcome State Fault Refusal :=
  chain c s fun s =>
    let old := rowWord s s.cur 10
    let new := w64 (at_ (bits (readReg s ra) 0 32) 32 + (bits old 0 32 &&& (2 ^ 32 - 1 - bits (readReg s rb) 0 32))) &&& eventBits
    if rd.win = 3 then roFaultAs s 10 else advance c (writeReg (setRowWord s s.cur 10 new) rd old)
/-- evret (R366): the return from a handler. -/
def execEvret (c : Ctl) (ra : Reg) (s : State) : Host.Outcome State Fault Refusal :=
  chain c s fun s =>
    if !bit (rowWord s s.cur 9) 17 then fault s ⟨cIllegal, 0, c.len, 10, 7⟩ (pc s)
    else countChain (eventReturn s (if isG0 ra then none else some (readReg s ra)))
/-- The event bits applied to the row's own d10. -/
def setUserEvents (s : State) (b : BitVec 16) : State :=
  setRowWord s s.cur 10 (rowWord s s.cur 10 ||| (b.setWidth 64 <<< 16))
/-- evset on the place of its target (R367). -/
def evsetAt (c : Ctl) (t : Word) (b : BitVec 16) (s : State) (p : Place) (_ : TlbEnt) : State :=
  match p with
  | .row r _ =>
    if r = curRow s then advance c (setUserEvents s b)
    else withSlot s fun s i => advance c (toRow s i 8 0 1 2 (t + 80) none r 80 (.evset b))
  | _ => fault s (faultOf cPagePerm 15 10) t
/-- evset (R367). -/
def execEvset (c : Ctl) (ra rb : Reg) (s : State) : Host.Outcome State Fault Refusal :=
  chain c s fun s =>
    let t := readReg s ra
    if curExec s ≠ 544 && canonical t && inWindow s (curPart s) t && t.toNat % 1024 = 0 then
      fault s (faultOf cPagePerm 15 10) t
    else withSite s ⟨false, true, 10, true⟩ t 1024 (evsetAt c t ((readReg s rb).extractLsb' 16 16))

end Sys2Proof.Machine
end

