-- ==== Sys2Proof/Machine/Sys.lean ====
section
/-!
DEFINITION. stop, yield, brk, the special registers, trap, hcall, xret, tlbinv, rowctl and mbox; the mailbox's drain,
the writing of ring entries and the page walk (R205 to R213, R368 to R372, R393, R404 to R407).
-/

namespace Sys2Proof.Machine

/-! ### stop, yield, brk -/

/-- The row is DONE: its launch's count and the phases of its domains follow (R206, R335, R357). -/
def enterDone (c : Ctl) (s : State) : State :=
  let s := advance c (completeWait s)
  let s := closeRow s s.cur stDone
  phasesOf (countDone s (.bank s.cur) true) (.bank s.cur)
/-- stop (R206): every slot free, the claim freed as by vfree, then DONE. -/
def execStop (c : Ctl) (s : State) : Host.Outcome State Fault Refusal :=
  chain c s fun s =>
    if bits (rowWord s s.cur 2) 18 6 ≠ 0 then setWait s (.instruction .stop)
    else afterCommands s fun s => enterDone c (freeClaimOf s s.cur)
/-- yield (R207): a re-negotiation point; READY at the tail of the queue, or FROZEN on a cluster that is asked for
(R417), once no sector is being read from the tier (R72). -/
def execYield (c : Ctl) (s : State) : Host.Outcome State Fault Refusal :=
  chain c s fun s =>
    if preempted s s.cur && tierBusy s (curPart s) then setWait s .answer
    else if preempted s s.cur then freezeFor (advance c s) (curRow s) (clusterOf (curExec s))
    else closeToReady (renegotiate s s.cur true) (nextPc c s)
/-- brk (R208): with BRKCAP the cluster halts, the PC at the brk; else the fault BRK. -/
def execBrk (c : Ctl) (s : State) : Host.Outcome State Fault Refusal :=
  chain c s fun s =>
    let cl := clusterOf (curExec s)
    if !isCtl (curExec s) && (cluster s cl).brkcap then haltCluster s cl 2
    else fault s (faultOf cBrk 0 0) (pc s)

/-! ### Special registers (R210 to R213) -/

/-- The partition whose registers a special-register number reaches: PSEL's for the hypervisor, but for a control
executor its own (R212). -/
def regPart (s : State) : Nat :=
  if priv s = 2 && !(isCtl (curExec s) && curExec s != 544) then bits s.hub.psel 0 5 else curPart s
/-- The launch of the executing row. -/
def curLaunch (s : State) : Option Launch := launchAt s (.bank s.cur)
/-- The unit numbers that a row reads; the management executor has none, and what it reads is a free value
(R3, R213, R382, log 5). -/
def unitNumber (s : State) (v : Nat) : State × Word := if curExec s = 544 then draw s 0x210 else (s, w64 v)
/-- A number of the launch; a row whose launch the hub does not hold reads a free value (log 5). -/
def launchNumber (s : State) (v : Launch → Word) : State × Word :=
  match curLaunch s with
  | some x => (s, v x)
  | none => draw s 0x211
/-- DOMSIZE (R211). -/
def domSize (x : Launch) : Word := w64 (at_ (x.n3 % 2 ^ 16) 32 + at_ (x.n2 % 2 ^ 16) 16 + x.n1 % 2 ^ 16)
/-- The cluster, executor and die numbers of an executor (R213, R382). -/
def clusterNumber (e : Nat) : Nat := if isCtl e then 32 + (e - 512) / 16 else clusterOf e
/-- The value that sget returns (R210): a read of THERM clears the bits returned. -/
def specialGet (s : State) (n : Nat) : State × Word :=
  let e := curExec s
  let d3 := rowWord s s.cur 3
  let d4 := rowWord s s.cur 4
  let d11 := rowWord s s.cur 11
  let q := regPart s
  let p := part s q
  match n with
  | 0x000 => (s, w64 (bits d3 0 24))
  | 0x001 => unitNumber s (rowCode s.cur)
  | 0x002 => (s, (part s (curPart s)).rsvBase + w64 (1024 * bits d3 0 24))
  | 0x003 => (s, w64 (bits d3 24 16))
  | 0x004 => (s, w64 (bits d4 0 15))
  | 0x005 => (s, w64 (bits d4 15 16))
  | 0x006 => (s, w64 (bits d4 31 16))
  | 0x007 => launchNumber s domSize
  | 0x008 => unitNumber s (clusterNumber e)
  | 0x009 => unitNumber s e
  | 0x00A => unitNumber s (dieOf e)
  | 0x00B => (s, w64 (bits d3 40 6))
  | 0x00C => (s, w64 s.time)
  | 0x00D => (s, (exec' s e).cycle)
  | 0x00E => (s, if d11Valid d11 then w64 (d11Lanes d11) else 0)
  | 0x00F => (s, (part s (curPart s)).spwin)
  | 0x010 => launchNumber s fun x => x.args
  | 0x100 => (s, p.rsvBase)
  | 0x101 => (s, p.pquant)
  | 0x102 => (s, p.pslots)
  | 0x103 => (s, p.pyield)
  | 0x104 => (s, p.fq.base)
  | 0x105 => (s, w64 p.fq.head.toNat)
  | 0x106 => (s, ringTailRead p.fq)
  | 0x200 => (s, s.hub.psel)
  | n =>
    if 0x107 ≤ n ∧ n ≤ 0x10E then
      let k := n - 0x107
      let v := p.therm.extractLsb' (64 * k) 64
      let mine := (List.range 64).foldl (fun (m : Word) b =>
        if (clustersOf p).contains (clusterOf (64 * k + b)) then m ||| (1#64 <<< b) else m) 0
      let clear : BitVec 512 := ((BitVec.allOnes 64).setWidth 512) <<< (64 * k)
      (setPart s q { p with therm := p.therm &&& ~~~clear }, v &&& mine)
    else (s, 0)
/-- A register's new value, when it lies in the register's range (R210, R212, R405). -/
def specialSet (s : State) (n : Nat) (v : Word) : State :=
  let q := regPart s
  let p := part s q
  match n with
  | 0x100 => setPart s q { p with rsvBase := v }
  | 0x101 => if 1 ≤ v.toNat ∧ v.toNat ≤ 255 then setPart s q { p with pquant := v } else s
  | 0x102 => if 1 ≤ v.toNat ∧ v.toNat ≤ 4 then setPart s q { p with pslots := v } else s
  | 0x103 => if 1 ≤ v.toNat ∧ v.toNat ≤ 2 ^ 32 - 1 then setPart s q { p with pyield := v } else s
  | 0x104 => if 12 < bits v 0 4 then s
             else setPart s q { p with fq := { p.fq with base := field v 12 52 ||| field v 0 5 } }
  | 0x105 => setPart s q { p with fq := { p.fq with head := BitVec.ofNat 32 (bits v 0 32) } }
  | 0x200 => if v.toNat ≤ 31 then { s with hub := { s.hub with psel := v } } else s
  | _ => s
/-- The privilege that a number needs (R210). -/
def specialPriv (n : Nat) : Nat := if n < 0x100 then 0 else if n < 0x200 then 1 else 2
/-- sget (R209, R212). -/
def execSget (c : Ctl) (r : Reg) (num : BitVec 10) (s : State) : Host.Outcome State Fault Refusal :=
  privChain c (specialPriv num.toNat) s fun s =>
    if r.win = 3 then roFault s
    else
      let (s, v) := specialGet s num.toNat
      advance c (writeReg s r v)
/-- sset (R209, R212). -/
def execSset (c : Ctl) (r : Reg) (num : BitVec 10) (s : State) : Host.Outcome State Fault Refusal :=
  privChain c (specialPriv num.toNat) s fun s => advance c (specialSet s num.toNat (readReg s r))

/-! ### trap, hcall, xret -/

/-- A call to the kernel or the hypervisor (R368): d1 is the next chain, d6 the call. -/
def callFault (c : Ctl) (info : Nat) (hyper : Bool) (s : State) : State :=
  let ia := pc s
  let s := advance c s
  takeFault s s.cur (faultOf cTrap info 0) false hyper ia
/-- trap (R368). -/
def execTrap (c : Ctl) (n : BitVec 10) (s : State) : Host.Outcome State Fault Refusal :=
  chain c s (callFault c n.toNat false)
/-- hcall (R368): always reported to the hypervisor. -/
def execHcall (c : Ctl) (n : BitVec 10) (s : State) : Host.Outcome State Fault Refusal :=
  privChain c 1 s (callFault c (2 ^ 15 + n.toNat) true)
/-- xret (R369): a privilege no higher than the row's, and the jump. -/
def execXret (c : Ctl) (ra rb : Reg) (s : State) : Host.Outcome State Fault Refusal :=
  privChain c 1 s fun s =>
    let np := (readReg s rb).toNat
    if priv s < np || np = 3 then fault s (faultOf cPriv 0 0) (pc s)
    else
      let t := readReg s ra
      jump t (setRowWord s s.cur 2 (putBits (rowWord s s.cur 2) 16 2 np))

/-! ### tlbinv (R370) -/

/-- The selector names every translation of the partition. -/
def wholeRange (sel : Word) : Bool := bits sel 0 2 != 0 || bits sel 2 2 == 3
/-- The translations that a selector names. -/
def tlbRange (a sel : Word) (t : TlbEnt) : Bool :=
  if wholeRange sel then true
  else
    let n := pageSize (4 - bits sel 2 2)
    overlap (bits a 0 57 / n * n) n t.base (pageSize t.lvl)
/-- tlbinv: a release at device scope, then the range leaves every unit of the partition. R470 leaves the duration of the
acknowledgement open; the model gives it none, so that the row goes on within the step (DESIGN CHOICE, log 83). -/
def execTlbinv (c : Ctl) (ra rb : Reg) (s : State) : Host.Outcome State Fault Refusal :=
  privChain c 1 s fun s =>
    afterRelease s (some .dev) fun s =>
      advance c (invalidateRange s (curPart s) (wholeRange (readReg s rb)) (tlbRange (readReg s ra) (readReg s rb)))

/-! ### rowctl (R371) -/

/-- Earlier accesses of the executing row to a row image are still on their way. -/
def accessesOpen (s : State) (r : RowId) : Bool :=
  s.agenda.any fun m =>
    match m with
    | .outsideRowAccess a => a.row == curRow s && a.target == r
    | _ => false
/-- A row word of a row is written where the row lies now. -/
def writeBack (s : State) (r : RowId) (rd : Reg) (v : Word) : State :=
  if isG0 rd then s else setLocWord s (locate s r) (regIndex rd) v
/-- The command applied at its target, and the target's d0 as it stands then. -/
def rowctlApply (s : State) (t : RowId) (cmd : Word) : State × Word :=
  let s := applyCommand s t cmd
  (s, locWord s (locate s t) 0)
/-- rowctl: a supervisor names its own partition, or leaves the field zero, as the kernel of R434 does (log 41). -/
def execRowctl (c : Ctl) (rd ra rb : Reg) (s : State) : Host.Outcome State Fault Refusal :=
  privChainAs c 1 10 s fun s =>
    let q := readReg s ra
    let cmd := readReg s rb
    let t : RowId := ⟨if priv s = 2 then bits q 24 6 else curPart s, bits q 0 24⟩
    if rd.win = 3 then roFaultAs s 10
    else if priv s ≠ 2 && bits q 24 6 ≠ 0 && bits q 24 6 ≠ curPart s then fault s (faultOf cPriv 0 10) (pc s)
    else if bits q 30 34 ≠ 0 || !isLive s t then advance c (writeReg s rd (BitVec.allOnes 64))
    else if freezeWaits s t cmd then setWait s .answer
    else if t = curRow s then
      let (s, v) := rowctlApply (advance c s) t cmd
      writeBack s t rd v
    else if inTransfer s (locate s t) || accessesOpen s t then setWait s .answer
    else
      let me := curRow s
      let (s, v) := rowctlApply (noteArrival (advance c s) (locate s t)) t cmd
      writeBack s me rd v

/-! ### mbox (R372) -/

/-- mbox: the outbound buffer takes the message, or answers 1 when it is full and 2 for a bad selector. -/
def execMbox (c : Ctl) (rd ra rb : Reg) (s : State) : Host.Outcome State Fault Refusal :=
  chain c s fun s =>
    let sel := (readReg s rd).toNat
    let e := curExec s
    let x := exec' s e
    if rd.win = 3 then roFaultAs s 10
    else if 2 ≤ sel || (sel = 1 && priv s = 0) then advance c (writeReg s rd 2)
    else if 4 ≤ x.outbox.length then advance c (writeReg s rd 1)
    else
      let m : MboxMsg := ⟨curRow s, priv s, sel, readReg s ra, readReg s rb⟩
      let s := send (setExec s e { x with outbox := x.outbox ++ [m] }) (.mboxDrain e)
      advance c (writeReg s rd 0)
/-- The oldest message of an executor's buffer goes to its mailbox ring (R372, R404, R406). -/
def execMboxDrain (e : Nat) (s : State) : Host.Outcome State Fault Refusal :=
  .next (match (exec' s e).outbox with
    | [] => s
    | m :: ms =>
      let s := setExec s e { exec' s e with outbox := ms }
      postMsg s (dieOf e) (if m.sel = 1 then .hmbox else .mbox m.row.part)
        ⟨msgHead 5 0 (agentOf e) m.priv m.row, m.a, m.b, 0⟩)

/-! ### Ring entries (R405 to R407, R445) -/

/-- The function and vector of a ring (R445). -/
def ringVector : Ring → Nat × Nat
  | .fault q => (q + 1, 0)
  | .mbox q => (q + 1, 5)
  | .hfault => (0, 0)
  | .hmbox => (0, 1)
/-- The partition in whose memory a ring lies; the hypervisor's is found by its address. -/
def ringPart (s : State) (r : Ring) : Nat :=
  match r with
  | .fault q => q
  | .mbox q => q
  | _ => ownerPart s ((ringRegs s r).base.toNat / 4096 * 4096)
/-- The hub-die unit that writes the rings (R4; which one, DESIGN CHOICE, log 68). -/
def ringUnit : Nat := 0x85
/-- Where the next entry of a ring lies. -/
def entryPlaceOf (x : RingRegs) : Nat := bits x.base 12 52 * 4096 + 32 * (x.tail.toNat % 2 ^ ringLogn x)
/-- An entry written: +8 to +24, then the header, then TAIL (R407), and the vector when IRQ is set. -/
def writeEntry (s : State) (r : Ring) (m : RingMsg) : State :=
  let x := ringRegs s r
  let q := ringPart s r
  let a := entryPlaceOf x
  let s := hubOwn s q ringUnit (a + 8) (leBytes 8 m.a.toNat ++ leBytes 8 m.b.toNat ++ leBytes 8 m.c.toNat)
  let s := hubOwn s q ringUnit a (leBytes 8 m.head.toNat)
  let s := setRingRegs s r { ringRegs s r with tail := x.tail + 1 }
  if bit x.base 4 then raiseVector s (ringVector r).1 (ringVector r).2 else s
/-- The first message that a die holds for a ring is written when the ring has room; a disabled ring drops it (R407). -/
def execRingMessageWrite (ring : Ring) (die : Nat) (s : State) : Host.Outcome State Fault Refusal :=
  .next (match s.heldMsgs.find? fun h => h.die == die && h.ring == ring with
    | none => s
    | some h =>
      let x := ringRegs s ring
      if ringLogn x = 0 then
        setRingRegs { s with heldMsgs := dropFirst (· == h) s.heldMsgs } ring { x with drop := satInc x.drop }
      else if ringRoom x then
        whenFree s ringUnit [(entryPlaceOf x, 32)] (.ringMessageWrite ring die) fun s =>
          trimHeld (writeEntry { s with heldMsgs := dropFirst (· == h) s.heldMsgs } ring h.msg) ring
      else send (trimHeld s ring) (.ringMessageWrite ring die))

/-! ### Page walks (R393 to R398) -/

/-- Executors that use a translation unit. -/
def unitExecs (unit : Nat) : List Nat :=
  if unit < 32 then (List.range 16).map (16 * unit + ·)
  else if unit < 34 then (List.range 16).map (512 + 16 * (unit - 32) + ·) else [544]
/-- Rows that wait for a walk learn its fault. -/
def failWalk (s : State) (unit q : Nat) (va : Word) (cause info lvl : Nat) : State :=
  ((unitExecs unit).flatMap fun e => [(e, 0), (e, 1), (e, 2), (e, 3)]).foldl (fun s x =>
    let y := slot s x.1 x.2
    if y.wait = .walk q va then
      setSlot s x.1 x.2 { y with wait := .walkFault q (bits va 0 57 / 65536) cause info lvl }
    else s) s
/-- A walk ends with a leaf, which the buffers take, or a fault; at an entry whose MV is set it waits (R398). -/
def execPageWalk (unit part : Nat) (va : Word) (s : State) : Host.Outcome State Fault Refusal :=
  let die := if unit < 32 then unit / 8 else 4
  let a := bits va 0 57
  let r := checkWalk s die part a
  .next (match walk r die part a with
    | .moving => send s (.pageWalk unit part va)
    | .fault c i l => failWalk r unit part va c i l
    | .leaf t =>
      let s := r
      let new := pointersOf s part a 5 (bits (Sys2Proof.Machine.part s part).ptRoot 14 32 * 16384) 0
      let old := (mapGet s.walkers die []).filter fun p => !new.contains p
      tlbFill { s with walkers := mapSet s.walkers die ((new ++ old).take 1024) } unit t)

end Sys2Proof.Machine
end

