-- ==== Sys2Proof/Machine/Copy.lean ====
section
/-!
DEFINITION. Extents and their translation, the copy group and the copy engines: issue, steps, completion, batches
(R98 to R129).
-/

namespace Sys2Proof.Machine

/-! ### Translated extents (R110, R299, R386) -/

/-- A place some bytes further on. -/
def shiftPlace (p : Place) (n : Nat) : Place :=
  match p with
  | .mem pa => .mem (pa + n)
  | .spad c off => .spad c (off + n)
  | .row r off => .row r (off + n)
  | .reg pa => .reg (pa + n)
  | .host a => .host (a + n)
/-- The n bytes from offset off on of a run list. -/
def sliceRuns : List Run → Nat → Nat → List Run
  | [], _, _ => []
  | r :: rs, off, n =>
    if n = 0 then []
    else if r.len ≤ off then sliceRuns rs (off - r.len) n
    else
      let m := min n (r.len - off)
      { r with va := r.va + off, place := shiftPlace r.place off, len := m } :: sliceRuns rs 0 (n - m)
/-- Who asks for a translation: partition, die, privilege, the buffer of its unit, and the access kind of a fault. -/
structure Asker where
  part : Nat
  die  : Nat
  priv : Nat
  unit : Option Nat
  acc  : Nat
  deriving DecidableEq, Repr
/-- A page's part of an extent: a run, what stops it with the rank of its condition in R110, or what it waits for. -/
inductive Chunk where
  | run (r : Run)
  | stop (rank : Nat) (f : FaultInfo) (a : Word)
  | moving
  | lease (page : Nat) (a : Word)
  deriving DecidableEq, Repr
/-- The asker's buffer holds the translation of an address. -/
def askHeld (s : State) (k : Asker) (va : Word) : Option Walk := k.unit.bind fun u => heldLeaf s u k.part (bits va 0 57)
/-- The translation of an address: the asker's buffer, else a walk. -/
def askWalk (s : State) (k : Asker) (va : Word) : Walk :=
  if !canonical va then .fault cPageNp 0 7
  else match askHeld s k va with
    | some w => w
    | none => walk s k.die k.part (bits va 0 57)
/-- The stack's check of what the walks of an extent's pages read (R61). -/
def checkExtent (s : State) (k : Asker) (va : Word) (len : Nat) : State :=
  (List.range ((va.toNat % 65536 + len + 65535) / 65536)).foldl (fun s i =>
    let a := w64 (va.toNat / 65536 * 65536 + 65536 * i)
    if !canonical a || inWindow s k.part a || (askHeld s k a).isSome then s else checkWalk s k.die k.part (bits a 0 57)) s
/-- What a leaf and a place refuse to an extent (R110, R396, R438, R447). The key slot comes after the conditions of R110 for a copy
(R395), and within step 4 of R299, before the class of the page, for a node. -/
def chunkStop (s : State) (k : Asker) (write : Bool) (t : TlbEnt) (p : Place) (va : Word) : Option Chunk :=
  let f := fun rank cause info => some (Chunk.stop rank (faultOf cause info k.acc) va)
  let keyed := fun (_ : Unit) =>
    if keyValid s (part s k.part) (leafKey t.leaf) then none else f 9 cPagePerm 7
  let rest := fun (_ : Unit) =>
    match p with
    | .mem pa => if isRemote s pa && !leaseUsable s (pa / 65536) then some (Chunk.lease (pa / 65536) va) else keyed ()
    | .spad c _ => if c / 8 ≠ k.die then f 2 cPagePerm 8 else keyed ()
    | _ => none
  match p with
  | .row _ _ => f 2 cPagePerm 15
  | .reg _ => f 2 cPagePerm 14
  | _ =>
    match permFault k.priv (if write then .write else .read) t.leaf with
    | some i => f (if write then 3 else 2) cPagePerm i
    | none =>
      let sealed := write && 2 ≤ leafClass t.leaf
      if k.acc = 3 && sealed then (keyed ()).orElse fun _ => f 4 cSealed 0
      else if sealed then f 4 cSealed 0 else rest ()
/-- A part of an extent that lies in one 64 KiB page and crosses no edge of an area. -/
def chunkOf (s : State) (k : Asker) (write : Bool) (va : Word) (n : Nat) : Chunk :=
  if canonical va && inWindow s k.part va then
    let c := windowCluster s k.part va
    if (clustersOf (part s k.part)).contains c && c / 8 == k.die then
      .run ⟨va.toNat, .spad c (windowOffset s k.part va), n, 0⟩
    else .stop 2 (faultOf cPagePerm 8 k.acc) va
  else match askWalk s k va with
    | .moving => .moving
    | .fault c i l => .stop 1 ⟨c, i, 0, k.acc, l⟩ va
    | .leaf t =>
      let p := leafPlace t (bits va 0 57)
      (chunkStop s k write t p va).getD (.run ⟨va.toNat, p, n, leafKey t.leaf⟩)
/-- Bytes from an address to the end of its 64 KiB page or the next edge of an area there, at most len. -/
def chunkLen (s : State) (k : Asker) (va : Word) (len : Nat) : Nat :=
  let n := min len (65536 - va.toNat % 65536)
  match askWalk s k va with
  | .leaf t => match leafPlace t (bits va 0 57) with
    | .mem pa => toEdge (part s k.part) pa n
    | _ => n
  | _ => n
/-- An extent, part by part; fuel counts the pages and the edges. -/
def chunksFrom (s : State) (k : Asker) (write : Bool) : Nat → Word → Nat → List Chunk
  | 0, _, _ => []
  | fuel + 1, va, len =>
    if len = 0 then []
    else
      let n := chunkLen s k va len
      chunkOf s k write va n :: chunksFrom s k write fuel (va + w64 n) (len - n)
def chunks (s : State) (k : Asker) (write : Bool) (va : Word) (len : Nat) : List Chunk :=
  chunksFrom s k write ((va.toNat % 65536 + len + 65535) / 65536 + 13) va len
def runsOf (l : List Chunk) : List Run := l.filterMap fun c => match c with | .run r => some r | _ => none
/-- The condition met first: the lowest rank, and of those the first in the list. -/
def firstStop (rank : Nat → FaultInfo → Nat) (l : List Chunk) : Option (FaultInfo × Word) :=
  (l.foldl (fun (m : Option (Nat × FaultInfo × Word)) c =>
    match c with
    | .stop k f a =>
      let n := rank k f
      match m with
      | some x => if n < x.1 then some (n, f, a) else m
      | none => some (n, f, a)
    | _ => m) none).map fun x => x.2

/-! ### The shape of a command (R107, R112, R128) -/

/-- The operands of a data-moving command. -/
structure CopyArgs where
  kind  : CopyKind
  dst   : Word
  src   : Word
  base  : Word
  len   : Nat
  count : Nat
  ds    : Nat
  ss    : Nat
  esz   : Nat
  hint  : Hint
  deriving DecidableEq, Repr
/-- Rows, bytes of a row and the stride of the destination. -/
def dstShape (k : CopyKind) (len count ds esz : Nat) : Nat × Nat × Nat :=
  match k with
  | .cpy2 => (count, len, ds)
  | .cpyg => (count, 2 ^ esz, 2 ^ esz)
  | .scrub => (1, (len + 511) / 512, 0)
  | _ => (1, len, 0)
def spanOf (rows len stride : Nat) : Nat := if rows = 0 then 0 else (rows - 1) * stride + len
def argShape (a : CopyArgs) : Nat × Nat × Nat := dstShape a.kind a.len a.count a.ds a.esz
def dstSpan (a : CopyArgs) : Nat := let (r, n, d) := argShape a; spanOf r n d
/-- The extents that a command reads: its source, or the index table and the base of cpyg. -/
def srcSpans (a : CopyArgs) : List (Word × Nat) :=
  match a.kind with
  | .cpyz => []
  | .dzero => []
  | .cpy2 => [(a.src, spanOf a.count a.len a.ss)]
  | .cpyg => [(a.src, 4 * a.count), (a.base, a.len)]
  | _ => [(a.src, a.len)]
/-- An extent is empty (R110). -/
def emptyCopy (a : CopyArgs) : Bool :=
  a.len == 0 || ((a.kind == .cpy2 || a.kind == .cpyg) && a.count == 0)
/-- The first destination byte that lies in a source extent (R110): of several the lowest. -/
def overlapStop (a : CopyArgs) (k : Asker) : List Chunk :=
  let at_ := (srcSpans a).filterMap fun (v, n) =>
    if overlap a.dst.toNat (dstSpan a) v.toNat n then some (max v.toNat a.dst.toNat) else none
  match at_ with
  | [] => []
  | x :: l => [.stop 5 (faultOf cPagePerm 10 k.acc) (w64 (l.foldl min x))]
/-- The alignment of dclone, dzero, scrub and the element size of cpyg (R110). Where only the LEN of a scrub is wrong the fault address is
the source (DESIGN CHOICE, log 97: the table gives no offending byte for a length). -/
def shapeStop (a : CopyArgs) (k : Asker) : List Chunk :=
  let bad := fun rank (x : Word) => [Chunk.stop rank (faultOf cAlign 0 k.acc) x]
  match a.kind with
  | .dclone =>
    if a.dst.toNat % 2048 ≠ 0 then bad 6 a.dst
    else if a.src.toNat % 2048 ≠ 0 then bad 6 a.src else if a.len % 2048 ≠ 0 then bad 6 a.dst else []
  | .dzero => if a.dst.toNat % 2048 ≠ 0 || a.len % 2048 ≠ 0 then bad 6 a.dst else []
  | .scrub =>
    if a.src.toNat % 64 ≠ 0 || a.len % 64 ≠ 0 then bad 7 a.src else if a.dst.toNat % 8 ≠ 0 then bad 7 a.dst else []
  | .cpyg => if 6 < a.esz then bad 8 a.src else []
  | _ => []
/-- Bytes of a scrub's source outside flat stack memory (R110); the spec gives no INFO for them: a free value. -/
def scrubStop (s : State) (a : CopyArgs) (k : Asker) (src : List Run) : List Chunk :=
  if a.kind = .scrub then
    src.filterMap fun r =>
      let ok := match r.place with | .mem pa => flatRange (part s k.part) pa r.len | _ => false
      if ok then none
      else some (.stop 7 (faultOf cPagePerm (bits (Config.freeWord 0x110 s.count) 0 16) k.acc) (w64 r.va))
  else []

/-! ### Batches (R100 to R104, R114 to R118) -/

def batchNum (w : Word) : Nat := bits w 16 16
def batchOf (s : State) (r : RowId) (n : Nat) : Option Batch := s.batches.find? fun b => b.row == r && b.num == n
def putBatch (s : State) (b : Batch) : State :=
  if s.batches.any fun x => x.row == b.row && x.num == b.num then
    { s with batches := s.batches.map fun x => if x.row = b.row ∧ x.num = b.num then b else x }
  else { s with batches := s.batches ++ [b] }
def Batch.new (r : RowId) (n : Nat) : Batch := ⟨r, n, false, false, 0, 0, 0, 0, false, false⟩
def batchAt (s : State) (r : RowId) (n : Nat) : Batch := (batchOf s r n).getD (Batch.new r n)
/-- The slot of a batch (R103). -/
def batchSlot (s : State) (l : Loc) (n : Nat) : Option Nat :=
  (busySlots s l).find? fun i => slotKind s l i == 4 && slotAddr s l i == w64 n
/-- Batches that follow one another in number, counted back from the open one. -/
def batchAge (w : Word) (n : Nat) : Nat := (batchNum w + 2 ^ 16 - n) % 2 ^ 16
/-- The oldest outstanding batch of a row is reported: d12, its slot, its event (R100 to R103, R115). -/
def reportOne (s : State) (r : RowId) (b : Batch) : State :=
  let l := locate s r
  let d := locWord s l 12
  let d := putBits (putBits d 32 32 (bits d 32 32 + 1)) 8 8 (bits d 8 8 - 1)
  let s := arriveWord s r l 12 d
  let s := match batchSlot s l b.num with | some i => clearSlot s l i | none => s
  let s := if b.ev then arriveWord s r l 10 (locWord s l 10 ||| 1#64) else s
  let s := putBatch s { b with reported := true }
  { s with batches := s.batches.filter fun x => !(x.row == r && x.reported && decide (bits d 8 8 + 32 < batchAge d x.num)) }
/-- Every batch that is complete and whose older ones are reported is reported, in number order; fuel counts them. -/
def reportAll : Nat → State → RowId → State
  | 0, s, _ => s
  | n + 1, s, r =>
    let d := locWord s (locate s r) 12
    if bits d 8 8 = 0 then s
    else
      let k := (batchNum d + 2 ^ 16 - bits d 8 8) % 2 ^ 16
      match batchOf s r k with
      | some b => if b.closed && b.left == 0 && !b.reported then reportAll n (reportOne s r b) r else s
      | none => s
/-- BATCH_REPORT (R100, R102): the change reaches the row wherever it lies; a row in a transfer takes it afterwards. -/
def execBatchReport (r : RowId) (s : State) : Host.Outcome State Fault Refusal :=
  let l := locate s r
  .next (if l = .none then s
    else if inTransfer s l then send s (.batchReport r)
    else
      let s := reportAll 33 (noteArrival s l) r
      match locate s r with
      | .bank pr => wakeIfMet s pr
      | _ => s)
/-- The open batch closes and the next number opens (R100, R115). -/
def closeBatch (s : State) (ev : Bool) : State :=
  let r := curRow s
  let d := rowWord s s.cur 12
  let b := batchAt s r (batchNum d)
  let s := putBatch s { b with closed := true, ev := ev }
  let d := putBits (putBits (putBits d 16 16 (batchNum d + 1)) 8 8 (bits d 8 8 + 1)) 0 8 0
  let s := setRowWord s s.cur 12 d
  if b.left = 0 then send s (.batchReport r) else s
/-- An error of a command: the first one of its batch stands (R113, R114); a node keeps its own. -/
def copyError (s : State) (c : CopyCmd) (code at_ : Nat) : State × CopyCmd :=
  match c.node with
  | some _ => (s, if c.err = 0 then { c with err := code, errAt := at_ } else c)
  | none =>
    let b := batchAt s c.row c.batch
    (if b.err = 0 then putBatch s { b with err := code, errAt := at_ } else s, c)

/-! ### Issue (R110, R111) -/

/-- A copy instruction: rows of control executors have no copy engine (R382); the window check. -/
def copyChain (c : Ctl) (rd : Reg) (s : State) (body : State → State) : Host.Outcome State Fault Refusal :=
  memChain c s fun s =>
    if isCtl (curExec s) then fault s (faultOf cPagePerm 18 6) (pc s)
    else if rd.win = 3 then roFaultAs s 6
    else body s
/-- Register i of a triple (R106). -/
def tripleReg (ra : Reg) (i : Nat) : Reg := ⟨ra.win, ra.num + BitVec.ofNat 5 i⟩
/-- The operands in the triple and rb. -/
def copyArgs (s : State) (kind : CopyKind) (ra : Reg) (rb : Option Reg) (hint : Hint) : CopyArgs :=
  let l := readReg s (tripleReg ra 2)
  let b := (rb.map (readReg s)).getD 0
  ⟨kind, readReg s ra, readReg s (tripleReg ra 1), b, bits l 0 40, bits l 48 16, bits b 32 32, bits b 0 32, bits l 40 4, hint⟩
/-- Accesses of the row that are not made yet: stores and loads that wait for a fill, and requests whose replies have not come. The
command is sent to the engine after them (R119, R321, log 24). -/
def storesWait (s : State) : Bool :=
  (s.misses.any fun m => m.ops.any fun o => o.2.row == curRow s)
    || s.ops.any fun o => o.row == curRow s && o.reply.isNone && (o.req.isSome || o.access.isSome)
/-- Lines of a run list in stack or tier memory. -/
def runLines (l : List Run) : List Nat :=
  (l.flatMap fun r => match r.place with
    | .mem pa => (List.range ((pa % 128 + r.len + 127) / 128)).map fun i => lineOf pa + i
    | _ => []).dedup
/-- The destination runs from byte pos of a command on. -/
def pendingRuns (dst : List Run) (rows len stride pos : Nat) : List Run :=
  let j0 := pos / len
  (List.range (rows - j0)).flatMap fun j =>
    let i := if j = 0 then pos % len else 0
    sliceRuns dst ((j0 + j) * stride + i) (len - i)
def cmdShape (c : CopyCmd) : Nat × Nat × Nat := dstShape c.kind c.len c.count c.dstStride c.esz
def cmdTotal (c : CopyCmd) : Nat := let (r, n, _) := cmdShape c; r * n
def cmdPending (c : CopyCmd) (pos : Nat) : List Run := let (r, n, d) := cmdShape c; pendingRuns c.dst r n d pos
/-- An engine's request to register a destination line (R85). -/
def engReqOf (agent q id line key : Nat) : Req :=
  ⟨.engReg, agent, ownInc agent, q, ⟨q, 0⟩, 0, 8, 0, 0, 128 * line, 128, false, key, .norm, BitVec.allOnes 32, [], id⟩
def engReq (cl q id line key : Nat) : Req := engReqOf (0x20 + cl) q id line key
/-- A command enters an engine's queue: its destination lines are registered (R85, R111), and it starts. -/
def enqueueCopy (s : State) (cl q : Nat) (c : CopyCmd) : State :=
  let s := { s with copyNext := s.copyNext + 1 }
  let s := setCluster s cl { cluster s cl with cmds := (cluster s cl).cmds ++ [c] }
  let s := sendAll s ((runLines (cmdPending c 0)).map fun l => .registration (engReq cl q c.id l 0))
  send s (.copyStep cl c.id)
/-- R111: rd, CMDS, the batch and its slot, the queue. -/
def issueCopy (c : Ctl) (rd : Reg) (a : CopyArgs) (dst src idx : List Run) (empty : Bool) (s : State) : State :=
  let r := curRow s
  let d := rowWord s s.cur 12
  let n := batchNum d
  let s := setRowWord s s.cur 12 (putBits d 0 8 (min 255 (bits d 0 8 + 1)))
  let b := batchAt s r n
  let s := putBatch s (if empty then b else { b with left := b.left + 1 })
  let s := if empty then s
    else
      let cl := clusterOf (curExec s)
      enqueueCopy s cl (curPart s) ⟨s.copyNext, curExec s % 16, a.kind, r, n, none, dst, src, idx, a.len, a.count, a.ds, a.ss,
        a.esz, a.hint, 0, 0, 0, 0, s.regNext, none⟩
  advance c (writeReg s rd (w64 n))
/-- The entry of the executor's queue (R99). -/
def queueRoom (s : State) (cl queue limit : Nat) : Bool :=
  ((cluster s cl).cmds.filter fun x => x.queue == queue).length < limit
/-- A data-moving command (R110, R111). Where the destination and a source meet one condition of R110, the destination extent gives the
first such byte (DESIGN CHOICE, log 85: the table orders the conditions and not the extents). -/
def dataMoving (c : Ctl) (rd : Reg) (a : CopyArgs) (s : State) : State :=
  let e := curExec s
  let k : Asker := ⟨curPart s, dieOf e, priv s, some (unitOf e), 6⟩
  if emptyCopy a then issueCopy c rd a [] [] [] true s
  else if !queueRoom s (clusterOf e) (e % 16) 32 then setWait s .copyQueue
  else if storesWait s then setWait s .copyQueue
  else
    let s := ((a.dst, dstSpan a) :: srcSpans a).foldl (fun s (v, n) => checkExtent s k v n) s
    let dst := chunks s k true a.dst (dstSpan a)
    let srcs := (srcSpans a).map fun (v, n) => chunks s k false v n
    let all := dst ++ srcs.flatten
    match all.find? (fun x => match x with | .moving => true | .lease _ _ => true | _ => false) with
    | some (.lease page v) => setWait s (.lease page v 6 s.time)
    | some _ => setWait s .copyQueue
    | none =>
      let checks := all ++ overlapStop a k ++ shapeStop a k ++ scrubStop s a k (runsOf srcs.flatten)
      match firstStop (fun n _ => n) checks with
      | some (f, v) => fault s f v
      | none =>
        let n := batchNum (rowWord s s.cur 12)
        let src := runsOf (if a.kind = .cpyg then srcs.getD 1 [] else srcs.getD 0 [])
        let idx := if a.kind = .cpyg then runsOf (srcs.getD 0 []) else []
        match batchSlot s (.bank s.cur) n with
        | some _ => issueCopy c rd a (runsOf dst) src idx false s
        | none => withSlot s fun s i =>
            issueCopy c rd a (runsOf dst) src idx false (openSlot s i 0 0 1 4 (w64 n) (blankOp s i))
/-- cpy (R112). -/
def execCpy (c : Ctl) (rd ra : Reg) (hint : Hint) (s : State) : Host.Outcome State Fault Refusal :=
  copyChain c rd s fun s => dataMoving c rd (copyArgs s .cpy ra none hint) s
/-- cpyz (R112). -/
def execCpyz (c : Ctl) (rd ra : Reg) (hint : Hint) (s : State) : Host.Outcome State Fault Refusal :=
  copyChain c rd s fun s => dataMoving c rd (copyArgs s .cpyz ra none hint) s
/-- cpy2 (R112). -/
def execCpy2 (c : Ctl) (rd ra rb : Reg) (hint : Hint) (s : State) : Host.Outcome State Fault Refusal :=
  copyChain c rd s fun s => dataMoving c rd (copyArgs s .cpy2 ra (some rb) hint) s
/-- cpyg (R112). -/
def execCpyg (c : Ctl) (rd ra rb : Reg) (hint : Hint) (s : State) : Host.Outcome State Fault Refusal :=
  copyChain c rd s fun s => dataMoving c rd (copyArgs s .cpyg ra (some rb) hint) s
/-- dclone (R124). -/
def execDclone (c : Ctl) (rd ra : Reg) (s : State) : Host.Outcome State Fault Refusal :=
  copyChain c rd s fun s => dataMoving c rd (copyArgs s .dclone ra none .norm) s
/-- dzero (R126). -/
def execDzero (c : Ctl) (rd ra : Reg) (s : State) : Host.Outcome State Fault Refusal :=
  copyChain c rd s fun s => dataMoving c rd (copyArgs s .dzero ra none .norm) s
/-- scrub needs supervisor privilege (R105, R128). -/
def execScrub (c : Ctl) (rd ra : Reg) (s : State) : Host.Outcome State Fault Refusal :=
  copyChain c rd s fun s =>
    if priv s = 0 then fault s (faultOf cPriv 0 6) (pc s) else dataMoving c rd (copyArgs s .scrub ra none .norm) s

/-! ### cpyc, cpyw, cpyq (R114 to R118) -/

/-- cpyc (R115); at 32 outstanding batches it does not issue (R104). -/
def execCpyc (c : Ctl) (rd : Reg) (ev : Bool) (s : State) : Host.Outcome State Fault Refusal :=
  copyChain c rd s fun s =>
    let d := rowWord s s.cur 12
    if 32 ≤ bits d 8 8 then setWait s .batchFull
    else advance c (writeReg (closeBatch s ev) rd (w64 (batchNum d)))
/-- The oldest reported batch with an error that no cpyw has reported (R117). -/
def badBatch (s : State) : Option Batch :=
  s.batches.find? fun b => b.row == curRow s && b.reported && b.err != 0 && !b.rep
/-- The fault of a batch's error (R117, R402). -/
def batchFault (b : Batch) : FaultInfo :=
  match b.err with
  | 2 => faultOf cPagePerm 11 6
  | 1 => faultOf cCheck 3 6
  | 3 => faultOf cCheck 4 6
  | _ => faultOf cCheck 5 6
/-- The end of a cpyw's wait (R116, R117). -/
def endCpyw (c : Ctl) (rd : Reg) (s : State) : State :=
  match badBatch s with
  | some b => fault (putBatch s { b with rep := true }) (batchFault b) (w64 b.errAt)
  | none => advance c (writeReg (observeCopies (completeWait s) (curRow s)) rd (w64 (bits (rowWord s s.cur 12) 8 8)))
/-- cpyw (R116): the second time it closes no batch. -/
def execCpyw (c : Ctl) (rd : Reg) (n : BitVec 5) (ev : Bool) (s : State) : Host.Outcome State Fault Refusal :=
  copyChain c rd s fun s =>
    let w := WaitFor.cpyw n.toNat
    let again := hadWaited s w
    if !again && 32 ≤ bits (rowWord s s.cur 12) 8 8 then setWait s .batchFull
    else
      let s := if again then s else closeBatch s ev
      if bits (rowWord s s.cur 12) 8 8 ≤ n.toNat then endCpyw c rd s else setWait s (.instruction w)
/-- The status word of a batch (R118). -/
def batchStatus (s : State) (n : Nat) : Word :=
  let d := rowWord s s.cur 12
  let age := batchAge d n
  let outst := bits d 8 8
  let word := fun (b : Batch) st => w64 (at_ n 48 + at_ b.corr 32 + at_ b.err 4 + at_ (num b.rep) 2 + st)
  if age = 0 then word (batchAt s (curRow s) n) 0
  else match batchOf s (curRow s) n with
    | some b => if age ≤ outst then word b 1 else if age ≤ outst + 32 then word b 2 else w64 (at_ n 48 + 3)
    | none => w64 (at_ n 48 + 3)
/-- cpyq (R118). -/
def execCpyq (c : Ctl) (rd ra : Reg) (s : State) : Host.Outcome State Fault Refusal :=
  copyChain c rd s fun s =>
    let v := batchStatus s (bits (readReg s ra) 0 16)
    advance c (writeReg (if bits v 0 2 = 2 then observeCopies s (curRow s) else s) rd v)

/-! ### What an engine reads -/

/-- A source byte: its value, none where the destination keeps its own, and the address that failed, if any. -/
structure SrcByte where
  val : Option Byte
  bad : Option Nat
  deriving DecidableEq, Repr
/-- A read by an engine or the hub: a tier sector is brought into its unit, and the blocks read from the stack are checked (R61,
R71); nothing is allocated for it (log 32). -/
def checkBlocks (s : State) (q pa n : Nat) : State :=
  let units := (List.range ((pa % 2048 + n + 2047) / 2048)).map fun i => pa / 2048 * 2048 + 2048 * i
  checkRange (units.foldl (fun s u => tierEnsure s q u) s) q pa n
/-- The bytes of a run as an agent reads them: memory as a read at device scope returns it, poisoned or keyed otherwise marked, the
latter logged (R62, R66, R113); an uncorrectable scratchpad word is marked too; a host-port error likewise (R447). -/
def readRun (s : State) (q agent : Nat) (r : Run) : State × List SrcByte :=
  match r.place with
  | .mem pa =>
    let s := logKeys (checkBlocks s q pa r.len) q agent pa r.len r.key
    (s, (readNow s pa r.len).zipIdx.map fun (b, i) =>
      ⟨some b, if delivery s (pa + i) r.key = 0 then none else some (r.va + i)⟩)
  | .spad c off =>
    let bad := spadError s
    (spadRead s c, (spadBytes s c off r.len).zipIdx.map fun (b, i) => ⟨some b, if bad then some (r.va + i) else none⟩)
  | .host a =>
    let (s, f) := draw s 0x447
    (s, (List.range r.len).map fun i =>
      ⟨some (Config.hostByte s.count (a + i)), if bit f 0 then some (r.va + i) else none⟩)
  | _ => (s, List.replicate r.len ⟨some 0, none⟩)
def readRuns (s : State) (q agent : Nat) (l : List Run) : State × List SrcByte :=
  l.foldl (fun (s, out) r => let (s, bs) := readRun s q agent r; (s, out ++ bs)) (s, [])
/-- A block of the stack's copy as the base-die logic reads it (R125): P is that copy's, and a wide error that escapes detection is
delivered as read (R61). -/
def stackBlock (s : State) (q pa : Nat) : State × List Byte :=
  if held s (lineOf pa) then
    let n := s.count
    let (s, e) := checkCopy s q pa
    (s, if e = .undetected then freeBlock (n + 1) else homeBytes s pa 64)
  else
    let s := stackCheck s q pa
    (s, homeBytes s pa 64)
/-- The blocks that an in-stack path reads (R125); a block whose stored KEY is another is cloned poisoned, as cpy writes it (R66, R124;
DESIGN CHOICE, log 100: R125 decrypts it under its stored KEY, but the result is the same on every path). -/
def readStack (s : State) (q agent : Nat) (r : Run) : State × List SrcByte :=
  match r.place with
  | .mem pa =>
    let (s, out) := (List.range ((pa % 64 + r.len + 63) / 64)).foldl (fun (s, out) i =>
      let a := pa / 64 * 64 + 64 * i
      let (s, bs) := stackBlock s q a
      let bad := stackP s a || (block s a).key.toNat != r.key
      (s, out ++ bs.zipIdx.map fun (b, j) => ⟨some b, if bad then some (r.va + (a + j - pa)) else none⟩))
      (logKeys s q agent pa r.len r.key, ([] : List SrcByte))
    (s, (out.drop (pa % 64)).take r.len)
  | _ => readRun s q agent r
def readStacks (s : State) (q agent : Nat) (l : List Run) : State × List SrcByte :=
  l.foldl (fun (s, out) r => let (s, bs) := readStack s q agent r; (s, out ++ bs)) (s, [])
/-- The address of the first byte of the memory block that holds an address of a run list (R113). -/
def blockStart (l : List Run) (a : Nat) : Nat :=
  match l.find? fun r => inRange a r.va r.len with
  | some r => match r.place with
    | .mem pa => a - (pa + (a - r.va)) % 64
    | _ => a
  | none => a
/-- The index of element j of a gather (R112, R113), or none and the error for which it is skipped: RANGE, or POISON of its entry. -/
def gatherIndex (s : State) (q agent : Nat) (c : CopyCmd) (j : Nat) : State × Option Nat × List (Nat × Nat) :=
  let slots := sliceRuns c.idx (4 * j) 4
  let (s, ix) := readRuns s q agent slots
  match ix.findSome? (·.bad) with
  | some a => (s, none, [(1, blockStart slots a)])
  | none =>
    let k := leNat (ix.map fun b => b.val.getD 0)
    if c.len < (k + 1) * 2 ^ c.esz then (s, none, [(2, (slots.head?.map (·.va)).getD 0)]) else (s, some k, [])
/-- Bytes i to i + m − 1 of element j of a gather. The index is read once for an element, also where steps of the engine divide it
(R112). -/
def gatherElem (s : State) (q agent : Nat) (c : CopyCmd) (j i m : Nat) : State × CopyCmd × List SrcByte × List (Nat × Nat) :=
  let (s, k, errs) := match c.elem.filter fun x => x.1 == j with
    | some x => (s, x.2, [])
    | none => gatherIndex s q agent c j
  let c := { c with elem := some (j, k) }
  match k with
  | none => (s, c, List.replicate m ⟨none, none⟩, errs)
  | some k =>
    let (s, bs) := readRuns s q agent (sliceRuns c.src (k * 2 ^ c.esz + i) m)
    (s, c, bs, errs ++ (bs.findSome? (·.bad)).toList.map fun a => (1, a))
/-- A block of a scrub (R128): the stack controller reads the stack's copy; a corrected error is written back and counted, an
uncorrectable one sets P in that copy. Answers whether it was corrected. -/
def scrubBlock (s : State) (q pa : Nat) : State × Bool :=
  let (s, e) := checkCopy s q pa
  (s, e == .corrected)
/-- The address in stack memory of byte o of a scrub's source. -/
def scrubPa (c : CopyCmd) (o : Nat) : Nat :=
  match (sliceRuns c.src o 1).head?.map fun r : Run => r.place with
  | some (Place.mem pa) => pa
  | _ => 0
/-- A byte of a scrub's bitmap, and the blocks corrected for it. -/
def scrubByte (s : State) (q : Nat) (c : CopyCmd) (t : Nat) : State × SrcByte × Nat :=
  let (s, v, n) := (List.range 8).foldl (fun (s, v, n) k =>
    let o := 64 * (8 * t + k)
    if o < c.len then
      let pa := scrubPa c o
      let (s, fixed) := scrubBlock s q pa
      (s, (if stackP s pa then v + 2 ^ k else v), if fixed then n + 1 else n)
    else (s, v, n)) (s, 0, 0)
  (s, ⟨some (BitVec.ofNat 8 v), none⟩, n)
/-- CORR of a scrub, saturating (R118). -/
def addCorr (s : State) (c : CopyCmd) (n : Nat) : State :=
  let b := batchAt s c.row c.batch
  if n = 0 then s else putBatch s { b with corr := min 65535 (b.corr + n) }
/-- The bytes t to t + n − 1 of a command, and its errors; fuel counts the rows and elements that they touch. A clone on an in-stack path
reads the stack's copies (R125). -/
def copySource (agent : Nat) (stack : Bool) : Nat → State → Nat → CopyCmd → Nat → Nat →
    State × CopyCmd × List SrcByte × List (Nat × Nat)
  | 0, s, _, c, _, _ => (s, c, [], [])
  | fuel + 1, s, q, c, t, n =>
    if n = 0 then (s, c, [], [])
    else
      let (_, len, _) := cmdShape c
      let i := t % len
      let m := min n (len - i)
      let (s, c, bs, err) : State × CopyCmd × List SrcByte × List (Nat × Nat) :=
        match c.kind with
        | .cpyz => (s, c, List.replicate m ⟨some 0, none⟩, [])
        | .dzero => (s, c, List.replicate m ⟨some 0, none⟩, [])
        | .cpyg => gatherElem s q agent c (t / len) i m
        | .scrub =>
          (List.range m).foldl (fun (s, c, bs, e) k =>
            let (s, b, fixed) := scrubByte s q c (t + k)
            (addCorr s c fixed, c, bs ++ [b], e)) (s, c, [], [])
        | _ =>
          let src := sliceRuns c.src (t / len * c.srcStride + i) m
          let (s, bs) := if stack then readStacks s q agent src else readRuns s q agent src
          (s, c, bs, (bs.findSome? (·.bad)).toList.map fun a => (1, a))
      let (s, c, bs', err') := copySource agent stack fuel s q c (t + m) (n - m)
      (s, c, bs ++ bs', err ++ err')

/-! ### What an engine writes -/

/-- Bytes written into one block (R66, R113): a part of a block with another KEY is refused (error KEY); P is set where a
source was bad. -/
def writeBlockPart (s : State) (pa key va : Nat) (bs : List SrcByte) : State × Option (Nat × Nat) :=
  let whole := pa % 64 = 0 && bs.length = 64 && bs.all fun b => b.val.isSome
  if bs.all fun b => b.val.isNone then (s, none)
  else if !whole && (block s pa).key.toNat ≠ key then (s, some (3, va + (indexOf? (fun b : SrcByte => b.val.isSome) bs 0).getD 0))
  else
    let s := if whole then mergeBlock s pa (bs.map fun b => b.val.getD 0) key
      else bs.zipIdx.foldl (fun s (b, i) => match b.val with | some v => mergeBlock s (pa + i) [v] key | none => s) s
    (if bs.any fun b => b.bad.isSome then poisonBlock s pa else s, none)
/-- Bytes written at a place that lies within one line (R71, R75, R108): the line is prepared and is dirty afterwards; a write to the
host range leaves the machine, and may meet a host-port error (R447). -/
def writePiece (s : State) (q : Nat) (p : Place) (key va : Nat) (h : Hint) (bs : List SrcByte) : State × List (Nat × Nat) :=
  match p with
  | .mem pa =>
    let n := 64 - pa % 64
    let s := fetchArray (tierEnsure s q pa) q pa bs.length h
    let (s, e1) := writeBlockPart s pa key va (bs.take n)
    let (s, e2) := writeBlockPart s (pa + n) key (va + n) (bs.drop n)
    (tierDirty (markDirty s (lineOf pa)) q pa bs.length, e1.toList ++ e2.toList)
  | .spad c off =>
    (bs.zipIdx.foldl (fun s (b, i) => match b.val with | some v => spadStore s c (off + i) [v] | none => s) s, [])
  | .host _ =>
    let (s, f) := draw s 0x447
    (s, if bit f 0 then [(1, va)] else [])
  | _ => (s, [])

/-! ### Steps (R99, R119, R120) -/

/-- A request to register a line for a command has not been performed. -/
def engWaits (s : State) (id : Nat) (line : Option Nat) : Bool :=
  let mine := fun r : Req => r.op == .engReg && r.id == id && (line.all fun l => lineOf r.pa == l)
  (s.agenda.any fun m => match m with | .registration r => mine r | _ => false)
    || s.homes.any (fun (_, h) => h.waiting.any mine || h.txn.any fun t => mine t.req)
    || s.tierMiss.any fun x => x.2.2.any mine
/-- The command holds a line under ENG, or writes it through to another module (R97). -/
def holdsEng (s : State) (cl id line : Nat) : Bool :=
  let g := (hline s line).reg
  isRemote s (128 * line) || g.eng && g.ownA.toNat == 0x20 + cl && !engWaits s id (some line)
/-- A source line under ENG is waited for, unless it is held by this or a later command of the same queue (R85, R119). -/
def sourceFree (s : State) (cl : Nat) (c : CopyCmd) (line : Nat) : Bool :=
  let g := (hline s line).reg
  !g.eng || (g.ownA.toNat == 0x20 + cl && (cluster s cl).cmds.any fun w =>
    w.queue == c.queue && decide (c.id ≤ w.id) && (runLines w.dst).contains line && holdsEng s cl w.id line)
/-- Two run lists share a line of memory, or bytes of a scratchpad. -/
def runsMeet (a b : List Run) : Bool :=
  a.any fun x => b.any fun y =>
    match x.place, y.place with
    | .mem p, .mem r => overlap (p / 128 * 128) (p % 128 + x.len) (r / 128 * 128) (r % 128 + y.len)
    | .spad c o, .spad d u => c == d && overlap o x.len u y.len
    | _, _ => false
/-- The command may take a step: its cluster is not halted, the cluster's earlier registrations have come home, and no
earlier command of its queue conflicts with it (R119, R459, log 24). -/
def copyReady (s : State) (cl : Nat) (c : CopyCmd) : Bool :=
  !(cluster s cl).halted && !(s.regs.any fun p => p.agent == cl && decide (p.id < c.snap) && c.node.isNone)
    && ((cluster s cl).cmds ++ (cluster s cl).heldCmds).all fun y => y.queue != c.queue || decide (c.id ≤ y.id)
        || (!engWaits s y.id none && !runsMeet c.dst (y.dst ++ y.src ++ y.idx) && !runsMeet (c.src ++ c.idx) y.dst)
/-- Bytes that the next piece of a command covers: within one row of the destination (rows that follow one another
without a gap are one), one run and one line. No step cuts a piece, so that a block which a command covers is written whole. -/
def pieceLen (c : CopyCmd) : Nat :=
  let (rows, len, stride) := cmdShape c
  let left := if stride = len then rows * len - c.pos else if rows * len ≤ c.pos then 0 else len - c.pos % len
  match (sliceRuns c.dst (c.pos / len * stride + c.pos % len) left).head? with
  | some r =>
    let edge := match r.place with | .mem pa => 128 - pa % 128 | .spad _ o => 128 - o % 128 | _ => 128
    min (min r.len edge) (if c.kind = .scrub then 4 else 128)
  | none => 0
/-- The next piece can be done now: its destination line is held, its scratchpad takes accesses, its source lines are
free, and the tier units of both too (R72). -/
def pieceFree (s : State) (cl : Nat) (c : CopyCmd) (dst : Run) (n : Nat) : Bool :=
  let (_, len, _) := cmdShape c
  let srcs := match c.kind with
    | .cpyg => c.src ++ c.idx
    | .scrub => []
    | _ => sliceRuns c.src (c.pos / len * c.srcStride + c.pos % len) n
  (match dst.place with
    | .mem pa => holdsEng s cl c.id (lineOf pa) && tierTakes s pa
    | .spad t _ => !routerRefuses s t
    | _ => true)
  && (srcs.all fun r => match r.place with | .spad t _ => !routerRefuses s t | _ => true)
  && (runLines srcs).all fun l => sourceFree s cl c l && tierTakes s (128 * l)
/-- The in-stack path (R123 to R127): both places in flat stack memory of one stack. -/
def inStackPath (s : State) (q : Nat) (c : CopyCmd) (dst : Run) : Bool :=
  let p := part s q
  let stackAt := fun (pl : Place) => match pl with | .mem pa => if isFlat p pa then some (stackOf (homeOf p pa)) else none | _ => none
  let d := stackAt dst.place
  match c.kind with
  | .dzero => d.isSome
  | .dclone => d.isSome && d == ((sliceRuns c.src c.pos 1).head?.bind fun r => stackAt r.place)
  | _ => false
/-- Before an in-stack read (R127 step 1): the registrations of a source line are recalled, and a dirty line is written to the
stack. -/
def beforeInStack (s : State) (line : Nat) : State := writeBackLine (recallAll s line (BitVec.allOnes 32)) line
/-- After an in-stack write (R125, R127 step 3): D, V and TAG are zero, and the line leaves the data array. -/
def afterInStack (s : State) (pa n : Nat) : State :=
  let s := (List.range ((pa % 64 + n + 63) / 64)).foldl (fun s i =>
    let a := pa / 64 * 64 + 64 * i
    setBlock s a { block s a with d := false, v := false, tag := 0 }) s
  discardData s (lineOf pa)
/-- One piece of a step. -/
def copyPiece (s : State) (cl q : Nat) (c : CopyCmd) (dst : Run) (n : Nat) : State × CopyCmd :=
  let stack := inStackPath s q c dst
  let s := if stack && c.kind = .dclone then (runLines (sliceRuns c.src c.pos n)).foldl beforeInStack s else s
  let (s, c, bs, errs) := copySource (0x20 + cl) stack (n + 1) s q c c.pos n
  let (s, werrs) := writePiece s q dst.place dst.key dst.va (if stack then .noal else c.hint) bs
  let (s, c) := (errs ++ werrs).foldl (fun (s, c) e => copyError s c e.1 e.2) (s, c)
  let s := match dst.place with | .mem pa => if stack then afterInStack s pa n else s | _ => s
  (s, { c with pos := c.pos + n })
/-- Pieces until the budget of a step is spent or one has to wait. -/
def copyLoop : Nat → Nat → State → Nat → Nat → CopyCmd → State × CopyCmd
  | 0, _, s, _, _, c => (s, c)
  | fuel + 1, budget, s, cl, q, c =>
    let n := pieceLen c
    let (_, len, stride) := cmdShape c
    match (sliceRuns c.dst (c.pos / len * stride + c.pos % len) n).head? with
    | some d =>
      if n = 0 || budget < n || !pieceFree s cl c d n then (s, c)
      else
        let (s, c) := copyPiece s cl q c d n
        copyLoop fuel (budget - n) s cl q c
    | none => (s, c)
/-- The words of a line that a run list covers. -/
def lineWords (l : List Run) (line : Nat) : BitVec 32 :=
  l.foldl (fun m r => match r.place with
    | .mem pa =>
      let lo := max pa (128 * line)
      let hi := min (pa + r.len) (128 * line + 128)
      if lo < hi then m ||| wordMask lo (hi - lo) else m
    | _ => m) 0
/-- The engine's write of a line has come in full: its keepers are invalidated with the words written, the line of an in-stack path
leaves the cluster caches (its request says so in the field of a load's sign), then ENG and owner A clear (R85, R89, R127). -/
def releaseEng (s : State) (agent q id line : Nat) (mask : BitVec 32) (stack : Bool) : State :=
  engineArrive s { engReqOf agent q id line 0 with op := .engWrite, mask := mask, signed := stack }
/-- Engine writes of a command or node whose keepers have not all answered. -/
def engPending (s : State) (agent id : Nat) (lines : List Nat) : Bool :=
  lines.any fun l => (txnOf s l).any fun t => t.req.op == .engWrite && t.req.agent == agent && t.req.id == id
/-- Lines whose last byte a step has written. -/
def finishedLines (c c' : CopyCmd) : List Nat :=
  let rest := runLines (cmdPending c' c'.pos)
  (runLines (cmdPending c c.pos)).filter fun l => !rest.contains l
/-- Words of a range leave a cluster cache, and fills on their way deliver none (R121). -/
def dropDest (s : State) (cl : Nat) (l : List Run) : State :=
  let s := l.foldl (fun s r => match r.place with | .mem pa => dropRange s cl pa r.len | _ => s) s
  clearFills s cl (runLines l)
/-- A command has left its batch; a closed batch without commands is reported. -/
def leaveBatch (s : State) (c : CopyCmd) : State :=
  let b := batchAt s c.row c.batch
  let b := { b with left := b.left - 1 }
  let s := putBatch s b
  if b.closed && b.left = 0 then send s (.batchReport c.row) else s
/-- The command is complete (R100, R113, R121, R309). -/
def completeCopy (s : State) (cl : Nat) (c : CopyCmd) : State :=
  let s := setCluster s cl { cluster s cl with cmds := (cluster s cl).cmds.filter fun x => x.id != c.id }
  let s := dropDest s cl c.dst
  match c.node with
  | some (part, rec') =>
    let die := cl / 8
    if c.err = 0 then send s (.nodeDone die part rec')
    else send s (.nodeFault die part rec' (if c.err = 2 then cPagePerm else cCheck) (w64 c.errAt))
  | none => leaveBatch s c
/-- A command whose bytes are all written is complete once every engine write of it stands in co and its lines' keepers have
answered (R121, R127); until then it is looked at again. -/
def endCopy (s : State) (cl : Nat) (c : CopyCmd) : State :=
  if c.pos = cmdTotal c && !engPending s (0x20 + cl) c.id (runLines c.dst) then completeCopy s cl c else send s (.copyStep cl c.id)
/-- A step of up to 2 KiB (R99). A scrub's step reads 2 KiB of its source. -/
def runCopy (s : State) (cl : Nat) (c : CopyCmd) : State :=
  let q := c.row.part
  if c.pos = cmdTotal c || !copyReady s cl c then endCopy s cl c
  else
    let (s, c') := copyLoop 2048 (if c.kind = .scrub then 4 else 2048) s cl q c
    let s := setCluster s cl { cluster s cl with cmds := (cluster s cl).cmds.map fun x => if x.id = c.id then c' else x }
    let s := (finishedLines c c').foldl (fun s l =>
      releaseEng s (0x20 + cl) q c.id l (lineWords (cmdPending c 0) l) (inStackPath s q c ⟨0, .mem (128 * l), 128, 0⟩)) s
    endCopy s cl c'
/-- COPY_STEP. -/
def execCopyStep (cl id : Nat) (s : State) : Host.Outcome State Fault Refusal :=
  .next (match (cluster s cl).cmds.find? fun c => c.id == id with
    | some c => runCopy s cl c
    | none => s)

/-! ### A dead engine; INIT with zero -/

/-- The hypervisor declares an agent dead (R93); a copy engine's commands, held ones too, are lost: ERR LOST, and their batches
are reported (R113). The first failing byte is the first byte of the command's destination (DESIGN CHOICE, log 76: the rule names
none). -/
def execAgentDead (agent : Nat) (s : State) : Host.Outcome State Fault Refusal :=
  let s := agentDeath s agent
  .next (if 0x20 ≤ agent ∧ agent < 0x40 then
      let cl := agent - 0x20
      let lost := (cluster s cl).cmds ++ (cluster s cl).heldCmds
      let s := setCluster s cl { cluster s cl with cmds := [], heldCmds := [] }
      lost.foldl (fun s c =>
        match c.node with
        | some (part, rec') => send s (.nodeFault (cl / 8) part rec' cCheck 0)
        | none =>
          let (s, _) := copyError s c 4 ((c.dst.head?.map (·.va)).getD 0)
          leaveBatch s c) s
    else s)
/-- The blocks of a range are written as zero under a key index, in the stack (R126, R127, R138). -/
def zeroRange (s : State) (q pa n key : Nat) : State :=
  let s := (List.range (n / 128)).foldl (fun s i =>
    let line := lineOf pa + i
    if (mapGet? s.homes line).isNone then s
    else replaceKeepers (recallAll s line (BitVec.allOnes 32)) q line) s
  (List.range (n / 64)).foldl (fun s i =>
    let a := pa + 64 * i
    dropClusters (afterInStack (mergeBlock s a (List.replicate 64 0) key) a 64) q (lineOf a)) s
/-- CASK_CTL INIT with zero (R138): the page is written as zero under the partition's key slot A (log 25), once its lines are free and no
other module has a lease of it (R96). -/
def execCaskInitZero (q page : Nat) (s : State) : Host.Outcome State Fault Refusal :=
  .next (if !caskPlace (part s q) page then caskAnswer s q 2
    else if teState (tailEntry s q page) ≠ 0 then caskAnswer s q 1
    else whenFree s 0x85 [(65536 * page, 65536)] (.caskInitZero q page) fun s =>
      caskAnswer (openCask (zeroRange s q (65536 * page) 65536 (bits (part s q).pdef1 0 6)) q page) q 0)

end Sys2Proof.Machine
end

