-- ==== Sys2Proof/Machine/Nodes.lean ====
section
/-!
DEFINITION. Task records, the task hubs and the tile engines: post and tqry, the checks of a node, the directory, the
ready pool, the node kinds, completion and faults (R291 to R315, R350, R352, R385 to R388, R408).
-/

namespace Sys2Proof.Machine

/-! ### The task record (R293 to R298) -/

def nWord (n : Node) (i : Nat) : Word := nth n.words i 0
def nKind (n : Node) : Nat := bits (nWord n 0) 0 4
def nSys (n : Node) : Bool := bit (nWord n 0) 8
def nEndb (n : Node) : Bool := bit (nWord n 0) 9
def nPreds (n : Node) : Nat := bits (nWord n 0) 48 16
/-- Base, stride and rows of extent A, B or C (0, 1, 2) (R296). -/
def nBase (n : Node) (x : Nat) : Word := nWord n (2 + 2 * x)
def nStride (n : Node) (x : Nat) : Nat := bits (nWord n (3 + 2 * x)) 32 32
def nRows (n : Node) (x : Nat) : Nat := bits (nWord n (3 + 2 * x)) 0 32
def nM (n : Node) : Nat := bits (nWord n 8) 32 16
def nK (n : Node) : Nat := bits (nWord n 8) 0 32
def nOsc (n : Node) : Nat := bits (nWord n 9) 56 8
def nAcc (n : Node) : Bool := bit (nWord n 9) 48
def nSlot (n : Node) : Nat := bits (nWord n 9) 32 5
def nFc (n : Node) : Nat := bits (nWord n 9) 8 4
def nFb (n : Node) : Nat := bits (nWord n 9) 4 4
def nFa (n : Node) : Nat := bits (nWord n 9) 0 4
def nCtr (n : Node) : Word := nWord n 10
/-- The nonzero successor addresses, in order. -/
def nSuccs (n : Node) : List Word := ((List.range 5).map fun i => nWord n (11 + i)).filter (· != 0)
/-- WLOAD, MMAZ, MMA and CSTORE (R301). -/
def boundKind (k : Nat) : Bool := 1 ≤ k && k ≤ 4
/-- The kinds that a tile engine carries out. -/
def tileKind (k : Nat) : Bool := 1 ≤ k && k ≤ 5
/-- The extents that a kind uses (R298): A, B, C. -/
def usedExtents (k : Nat) : List Nat :=
  match k with
  | 1 => [0]
  | 2 => [0]
  | 3 => [1]
  | 4 => [2]
  | 5 => [0, 2]
  | 6 => [0, 2]
  | _ => []
def nFmt (code : Nat) : Fmt := (fmtOf code).getD .f32
/-- Bytes of an output row of so many elements (R298). -/
def outBytes (code elems : Nat) : Nat := (elems + blockCount (nFmt code) - 1) / blockCount (nFmt code) * 64

/-! ### Steps 1 and 2 of R299 -/

/-- The zero fields of the header, the sizes and the formats dword (R294, R297). -/
def zeroFields (n : Node) : Bool :=
  bits (nWord n 0) 18 30 == 0 && bits (nWord n 0) 10 6 == 0 && bits (nWord n 0) 4 4 == 0 && bits (nWord n 8) 48 16 == 0
    && bits (nWord n 9) 49 7 == 0 && bits (nWord n 9) 37 11 == 0 && bits (nWord n 9) 12 20 == 0
def inLimit (v lo hi : Nat) : Bool := lo ≤ v && v ≤ hi
/-- The fields that a kind uses lie in their limits (R298). -/
def kindLimits (n : Node) : Bool :=
  let m := nM n
  let k := nK n
  match nKind n with
  | 1 => nRows n 0 == m && inLimit m 1 2048 && 1 ≤ k && nFa n ≤ 6
  | 2 => nRows n 0 == m && inLimit m 1 2048 && 1 ≤ k && nFa n ≤ 6
  | 3 => inLimit (nRows n 1) 1 240 && inLimit k 1 1048576 && nFb n ≤ 6
  | 4 => nRows n 2 == m && inLimit m 1 2048 && nFc n ≤ 6 && outBytes (nFc n) 240 ≤ nStride n 2
  | 5 => nRows n 0 == m && nRows n 2 == k && inLimit m 1 2048 && inLimit k 1 2048 && nFa n ≤ 6 && nFc n ≤ 6
      && outBytes (nFc n) m ≤ nStride n 2 && !nAcc n
  | 6 => nRows n 0 == m && nRows n 2 == m && inLimit m 1 65535 && 1 ≤ k
  | 7 => (nBase n 0).toNat % 1024 == 0
  | 8 => true
  | _ => false
/-- Step 1: what makes a record ILLEGAL. -/
def recordLegal (n : Node) : Bool :=
  zeroFields n && kindLimits n
    && (!tileKind (nKind n) || (usedExtents (nKind n)).all fun x => 64 ≤ nStride n x)
    && (nCtr n).toNat % 8 == 0 && (nSuccs n).all fun a => a.toNat % 64 == 0
/-- Step 2: a base of a tile kind that is misaligned, or the record address for a stride. -/
def recordMisaligned (n : Node) : Option Word :=
  if !tileKind (nKind n) then none
  else
    let xs := usedExtents (nKind n)
    match xs.find? fun x => (nBase n x).toNat % 64 != 0 with
    | some x => some (nBase n x)
    | none => if xs.any fun x => nStride n x % 64 != 0 then some (w64 n.record) else none
/-- Cause and fault address of steps 1 and 2. -/
def recordFault (n : Node) : Option (Nat × Word) :=
  if !recordLegal n then some (cIllegal, w64 n.record)
  else (recordMisaligned n).map fun a => (cAlign, a)

/-! ### Translation: steps 3 to 5 (R299, R310, R386) -/

/-- The translations of a node are asked with the posting row's privilege (log 27). -/
def nodeAsker (n : Node) : Asker := ⟨n.part, n.die, n.priv, none, 3⟩
/-- Only COPY nodes admit the host range (R447). -/
def noHost (k : Asker) (l : List Chunk) : List Chunk :=
  l.map fun c => match c with
    | .run r => (match r.place with | .host _ => .stop 2 (faultOf cPagePerm 6 k.acc) (w64 r.va) | _ => c)
    | _ => c
/-- The target of a ROW node: it must translate to row space, with what a store at user privilege needs (R310). -/
def rowTarget (s : State) (n : Node) : Chunk :=
  let k := nodeAsker n
  let a := nBase n 0
  if canonical a && inWindow s n.part a then .stop 2 (faultOf cPagePerm 15 k.acc) a
  else match askWalk s k a with
    | .moving => .moving
    | .fault c i l => .stop 1 ⟨c, i, 0, k.acc, l⟩ a
    | .leaf t =>
      match leafPlace t (bits a 0 57) with
      | .row r off =>
        (match permFault 0 .write t.leaf with
        | some i => .stop 3 (faultOf cPagePerm i k.acc) a
        | none => .run ⟨a.toNat, .row r off, 8, 0⟩)
      | _ => .stop 2 (faultOf cPagePerm 15 k.acc) a
/-- The extent x of a node as bytes (R296): ROWS × STRIDE, and for a COPY as many as its rows take when these overlap (R309,
log 61). -/
def extentChunks (s : State) (n : Node) (x : Nat) : List Chunk :=
  let k := nodeAsker n
  let whole := nRows n x * nStride n x
  if nKind n = 6 then chunks s k (x == 2) (nBase n x) (max whole (spanOf (nM n) (nK n) (nStride n x)))
  else noHost k (chunks s k (x == 2) (nBase n x) whole)
/-- A, B, C and the counter. -/
def nodeChunks (s : State) (n : Node) : List Chunk × List Chunk × List Chunk × List Chunk :=
  let xs := usedExtents (nKind n)
  let of_ := fun x => if xs.contains x then extentChunks s n x else []
  let a := if nKind n = 7 then [rowTarget s n] else of_ 0
  let c := if nCtr n = 0 then [] else noHost (nodeAsker n) (chunks s (nodeAsker n) true (nCtr n) 8)
  (a, of_ 1, of_ 2, c)
/-- R110's overlap rule on the extents of a COPY node. -/
def copyOverlap (n : Node) : List Chunk :=
  if nKind n = 6 then
    overlapStop ⟨.cpy2, nBase n 2, nBase n 0, 0, nK n, nM n, nStride n 2, nStride n 0, 0, .norm⟩ (nodeAsker n)
  else []
/-- Steps 3, 4 and 5, then the overlap. -/
def nodeRank (_ : Nat) (f : FaultInfo) : Nat :=
  if f.cause = cPageNp then 3 else if f.cause = cSealed then 5 else if f.info = 10 then 6 else 4
/-- How a translation ends: the node with its runs, a fault, or a wait for a page or for free runs. -/
inductive NodeXl where
  | ok (n : Node)
  | fault (cause : Nat) (addr : Word)
  | wait
  deriving DecidableEq, Repr
/-- Runs that the nodes of a holder have, of its 65,536 (R386). -/
def runsHeld (h : Hub) : Nat :=
  (h.nodes.filter (·.xlated)).foldl (fun k n => k + n.runsA.length + n.runsB.length + n.runsC.length + n.ctr.length) 0
/-- The extents of a node, as addresses and lengths, whose pages its translation walks. -/
def nodeExtents (n : Node) : List (Word × Nat) :=
  ((usedExtents (nKind n)).map fun x =>
    (nBase n x, if nKind n = 6 then max (nRows n x * nStride n x) (spanOf (nM n) (nK n) (nStride n x)) else nRows n x * nStride n x))
    ++ (if nKind n = 7 then [(nBase n 0, 8)] else []) ++ (if nCtr n = 0 then [] else [(nCtr n, 8)])
def translateNode (s : State) (n : Node) : NodeXl :=
  let (a, b, c, k) := nodeChunks s n
  let all := a ++ b ++ c ++ k
  match firstStop nodeRank (all ++ copyOverlap n) with
  | some (f, x) => .fault f.cause x
  | none =>
    if (all.any fun x => match x with | .run _ => false | _ => true) || 65536 < runsHeld (hub s n.die) + all.length then .wait
    else .ok { n with xlated := true, runsA := runsOf a, runsB := runsOf b, runsC := runsOf c, ctr := runsOf k }

/-! ### The nodes of a hub -/

/-- The agent of the task hubs' writes: a hub-die unit (R4; which one, DESIGN CHOICE, log 68). -/
def taskHub : Nat := 0x85
def findNode (s : State) (die q rec' : Nat) : Option Node :=
  (hub s die).nodes.find? fun n => n.part == q && n.record == rec'
def putNode (s : State) (n : Node) : State :=
  let h := hub s n.die
  setHub s n.die { h with nodes := h.nodes.map fun x => if x.part = n.part ∧ x.record = n.record then n else x }
def removeNode (s : State) (n : Node) : State :=
  let h := hub s n.die
  setHub s n.die { h with nodes := h.nodes.filter fun x => !(x.part == n.part && x.record == n.record) }
/-- The status dword (R295). -/
def statusWord (n : Node) : Word :=
  w64 (at_ n.left 48 + at_ n.cause 32 + at_ (num n.bound) 31 + at_ (if n.bound then n.engine else 0) 24 + n.state)
/-- Where the status dword of a node lies. -/
def statusRange (n : Node) : List (Nat × Nat) :=
  match (sliceRuns n.recPa 8 8).head? with
  | some r => (match r.place with | .mem pa => [(pa, 8)] | _ => [])
  | none => []
/-- The status dword is written into the record (R385). -/
def writeStatus (s : State) (n : Node) : State :=
  match (sliceRuns n.recPa 8 8).head? with
  | some r => (match r.place with | .mem pa => hubWriteDword s n.part taskHub pa (statusWord n) r.key | _ => s)
  | none => s
/-- The tile group agent that reports for a node, for a COPY that of its engine's cluster;
without an engine, that of the partition's lowest cluster on the die
(R406, log 28). -/
def nodeAgent (s : State) (n : Node) : Nat :=
  0x40 + match n.unit with
    | some u => if nKind n = 6 then u else u / 4
    | none => (((clustersOf (part s n.part)).filter fun c => c / 8 == n.die).head?).getD (8 * n.die)
/-- A message about a node. -/
def postNode (s : State) (n : Node) (kind cause : Nat) (a b c : Word) : State :=
  postMsg s n.die (if kind = 6 then .mbox n.part else .fault n.part) ⟨msgHead kind cause (nodeAgent s n) n.priv n.poster, a, b, c⟩
def setTile (s : State) (e : Nat) (t : Tile) : State := { s with tiles := mapSet s.tiles e t }
/-- The key of an engine's state in a partition's save area. -/
def tileKey (q e : Nat) : Nat := 128 * q + e
def countUp (t : Tile) (up : Bool) : Tile := { t with resv := if up then t.resv + 1 else t.resv - 1 }
/-- The reservation count that a partition has on an engine rises or falls (R301); while the partition is evicted the count stands in
its save area. -/
def reserve (s : State) (q e : Nat) (up : Bool) : State :=
  match mapGet? s.saves (tileKey q e) with
  | some x => { s with saves := mapSet s.saves (tileKey q e) { x with tile := countUp x.tile up } }
  | none => setTile s e (countUp (tile s e) up)
/-- A node of a bound kind that is not bound is bound to an engine (R301). -/
def bindNode (s : State) (n : Node) (g : Option Nat) : State × Node :=
  match g with
  | some e => if boundKind (nKind n) && !n.bound then (reserve s n.part e true, { n with bound := true, engine := e }) else (s, n)
  | none => (s, n)

/-! ### Faults of nodes (R299, R300, R408) -/

/-- The directory entry of a record (R385), on the hub that keeps it. -/
def dirFind (s : State) (q rec' : Nat) : Option (Nat × DirEnt) :=
  s.hubs.findSome? fun (d, h) => (h.dir.find? fun e => e.part == q && e.record == rec').map fun e => (d, e)
def dirDrop (s : State) (q rec' : Nat) : State :=
  { s with hubs := s.hubs.map fun (d, h) => (d, { h with dir := h.dir.filter fun e => !(e.part == q && e.record == rec') }) }
def dirPut (s : State) (d : Nat) (e : DirEnt) : State :=
  let s := dirDrop s e.part e.record
  setHub s d { hub s d with dir := (hub s d).dir ++ [e] }
/-- The lowest-numbered die that holds clusters of a partition: its leader (R379). -/
def leader (s : State) (q : Nat) : Nat := ((clustersOf (part s q)).head?.map (· / 8)).getD 0
/-- The die of the home slice of a record's first line (R385). -/
def dirDie (s : State) (q rec' : Nat) : Nat :=
  match walk s (leader s q) q (rec' % 2 ^ 57) with
  | .leaf t => (match leafPlace t (rec' % 2 ^ 57) with | .mem pa => homeOf (part s q) pa / 64 | _ => leader s q)
  | _ => leader s q
/-- The engine that a node holds is free, and what it has written stands (R250, R313). -/
def freeEngine (s : State) (n : Node) : State :=
  let s := settleTorn s fun b => b.node == some (n.part, n.record)
  match n.unit with
  | some u => if tileKind (nKind n) then setTile s u { tile s u with busy := none, parked := none } else s
  | none => s
/-- d13 of the poster changes as an arrival through the row table; a poster that is not live drops it (R383). -/
def countNode (s : State) (n : Node) (fault : Bool) : State :=
  let l := locate s n.poster
  if l = .none then s
  else
    let s := noteArrival s l
    let d := locWord s l 13
    arriveWord s n.poster l 13 (if fault then putBits d 16 16 (bits d 16 16 + 1) else putBits d 32 32 (bits d 32 32 + 1))
/-- A node becomes FAULT: its status, one message, FLT, its reservation, its directory entry; it is kept (R299, R300,
R383, R385, R408). -/
def faultNode (s : State) (n : Node) (cause : Nat) (addr : Word) : State :=
  let s := freeEngine s n
  let s := if n.bound then reserve s n.part n.engine false else s
  let n := { n with state := 5, cause := cause, xlated := false, prog := 0, checks := [], work := NodeWork.init }
  let s := writeStatus s n
  let s := postNode s n 2 cause addr (w64 n.record) (statusWord n)
  let s := dirDrop (countNode (removeNode s n) n true) n.part n.record
  let h := hub s n.die
  let kept := h.kept ++ [n]
  if 256 < kept.length then
    let old := nth kept 0 n
    traceCoh (setHub s n.die { h with kept := kept.drop 1 }) old.part 7 3 taskHub old.record
  else setHub s n.die { h with kept := kept }
/-- A node that has become READY: it is translated and checked (R386); one that has to wait is translated later, and the time since which
it waits is kept (R95). What the walks read is checked (R61). -/
def settleNode (s : State) (n : Node) : State :=
  let s := (nodeExtents n).foldl (fun s x => checkExtent s (nodeAsker n) x.1 x.2) s
  match translateNode s n with
  | .ok n => putNode s { n with stuck := none }
  | .fault c a => faultNode s n c a
  | .wait => putNode s { n with stuck := some (n.stuck.getD s.time) }
/-- The node stands in the pool with its LEFT and state written; at 0 it is READY (R385). -/
def enterPool (s : State) (n : Node) : State :=
  let n := { n with state := if n.left = 0 then 2 else 1, since := s.time }
  let s := writeStatus (putNode s n) n
  if n.left = 0 then settleNode s n else s

/-! ### post and tqry (R350, R352) -/

/-- Where a record or a launch descriptor lies: R180 steps 3 to 6, 8; row space and the window are refused. -/
def recordSite (s : State) (a : Word) : Site :=
  let inRow := match lookup s a with
    | .leaf t => (match leafPlace t (bits a 0 57) with | .row _ _ => true | _ => false)
    | _ => false
  match siteOf s ⟨true, false, 8, false⟩ a with
  | .stop f x => if f.cause = cPageNp ∧ f.lvl = 7 ∧ inRow = true then .stop (faultOf cPagePerm 15 8) x else .stop f x
  | .walk => .walk
  | .at_ p t =>
    match p with
    | .spad _ _ => .stop (faultOf cPagePerm 17 8) a
    | .row _ _ => .stop (faultOf cPagePerm 15 8) a
    | _ => .at_ p t
/-- The runs of a record's 64-byte blocks, each checked; the first one that does not pass decides, with the record's address (R350). -/
def withRecord (s : State) (rec' : Word) (n : Nat) : Nat → Word → List Run → (State → List Run → State) → State
  | 0, _, l, body => body s l
  | k + 1, a, l, body =>
    match recordSite s a with
    | .stop f _ => fault s f rec'
    | .walk => startWalk s a
    | .at_ p t =>
      match p with
      | .mem pa => underLease s pa a 8 fun s => withRecord s rec' n k (a + w64 n) (l ++ [⟨a.toNat, .mem pa, n, leafKey t.leaf⟩]) body
      | _ => fault s (faultOf cPagePerm 15 8) rec'
/-- The checks that post and fork share, the release, the slot. -/
def handOver (s : State) (a : Word) (blocks : Nat) (body : State → List Run → Nat → State) : State :=
  if a.toNat % 64 ≠ 0 then fault s (faultOf cAlign 0 8) a
  else withRecord s a 64 blocks a [] fun s l => afterRelease s (some .dev) fun s => withSlot s fun s i => body s l i
/-- The hub that a row's posts and forks go to: its die's, or the leader for a control executor's row (R350). -/
def hubOf (s : State) (q e : Nat) : Nat := if isCtl e then leader s q else dieOf e
def postOf (s : State) (i : Nat) (a : Word) (l : List Run) : PostReq :=
  ⟨curRow s, curExec s, i, slotTag s (.bank s.cur) i, priv s, a.toNat, l⟩
/-- post (R350): the row goes on. -/
def execPost (c : Ctl) (ra : Reg) (s : State) : Host.Outcome State Fault Refusal :=
  memChain c s fun s =>
    let a := readReg s ra
    handOver s a 2 fun s l i =>
      let s := takeSlot s (.bank s.cur) i 128 0 2 0x0B a
      let p := postOf s i a l
      advance c (send (setOpRec s { blankOp s i with post := some p }) (.postReceive p))
/-- tqry (R352): the status as the hub of the row's die holds it, or all ones. -/
def execTqry (c : Ctl) (rd ra : Reg) (s : State) : Host.Outcome State Fault Refusal :=
  memChain c s fun s =>
    let a := readReg s ra
    if rd.win = 3 then roFaultAs s 8
    else if a.toNat % 64 ≠ 0 then fault s (faultOf cAlign 0 8) a
    else withRecord s a 64 2 a [] fun s _ =>
      let h := hub s (hubOf s (curPart s) (curExec s))
      let v := match (h.nodes ++ h.kept).find? fun n => n.part == curPart s && n.record == a.toNat with
        | some n => statusWord n
        | none => BitVec.allOnes 64
      advance c (writeReg s rd v)

/-! ### Receipt of a post (R350, R385, R386) -/

/-- A post or fork is answered: its slot is freed, or its result delivered. -/
def answerPost (s : State) (p : PostReq) (v : Word) : State :=
  send s (.resultArrival ⟨p.row, p.exec, p.slot, p.tag, v, 0, 0, 0⟩)
/-- The recorded result of a post or fork (R423). -/
def hubDone (s : State) (p : PostReq) : Option Word :=
  s.hubs.findSome? fun (_, h) => (h.done.find? fun d => d.row == p.row && d.tag == p.tag).map (·.result)
/-- The hub enters a key with its result. -/
def hubRecord (s : State) (d : Nat) (p : PostReq) (v : Word) : State :=
  setHub s d { hub s d with done := ⟨p.row, p.tag, 3, v, p.va⟩ :: (hub s d).done }
def hubFull (s : State) (d : Nat) : Bool := 4096 ≤ (hub s d).done.length
/-- The bytes in memory of a run list. -/
def memRanges (l : List Run) : List (Nat × Nat) := l.filterMap fun r => match r.place with | .mem pa => some (pa, r.len) | _ => none
/-- The holder keeps 4,096 nodes in states other than DONE and FAULT (R386). -/
def poolFull (h : Hub) : Bool := 4096 ≤ (h.nodes.filter fun n => n.state != 4).length
/-- Records of releases under way that need a new entry of a hub's directory (R385). -/
def newEntries (s : State) (d : Nat) : List Msg :=
  s.agenda.filter fun m => match m with | .nodeRelease q a _ => (dirFind s q a).isNone && dirDie s q a == d | _ => false
/-- A hub's directory has room for so many new entries more (R385). -/
def dirRoom (s : State) (d n : Nat) : Bool := (hub s d).dir.length + (newEntries s d).length + n ≤ 4096
/-- A record or descriptor is read: its bytes, and whether a block of it was delivered bad. -/
def readRecord (s : State) (q : Nat) (l : List Run) : State × List Byte × Bool :=
  let (s, bs) := readRuns s q taskHub l
  (s, bs.map fun b => b.val.getD 0, bs.any fun b => b.bad.isSome)
/-- A post that is refused reports to the fault queue (R350): KIND 4. -/
def refusePost (s : State) (n : Node) (cause : Nat) : State := postNode s n 4 cause (w64 n.record) 0 0
/-- The node of a post as it is read. -/
def newNode (d : Nat) (p : PostReq) (ws : List Word) : Node :=
  ⟨d, p.row.part, p.va, p.row, p.priv, ws, p.runs, 0, 0, 0, false, 0, bits (nth ws 0 0) 16 2, 0, false, [], [], [], [],
    none, 0, [], NodeWork.init, none⟩
/-- The directory step of a post (R385): credits are taken, the entry is HELD, an engine it held binds the node. -/
def takeCredits (s : State) (n : Node) (d : Nat) : State × Node :=
  let e := dirFind s n.part n.record
  let c := match e with | some (_, x) => (if x.held.isNone then x.credit else 0) | none => 0
  let g := e.bind fun x => x.2.engine
  let (s, n) := match g with
    | some g => if boundKind (nKind n) then (s, { n with bound := true, engine := g }) else (reserve s n.part g false, n)
    | none => (s, n)
  let s := if nPreds n < c then traceCoh s n.part 6 3 taskHub n.record else s
  let s := dirPut s ((e.map (·.1)).getD d) ⟨n.part, n.record, some n.die, 0, none⟩
  (s, { n with left := nPreds n - c })
/-- The record has been read and its status is 0: the node is made, checked, and enters the pool. -/
def makeNode (s : State) (n : Node) (dd : Nat) : State :=
  let (s, n) := takeCredits s n dd
  let s := setHub s n.die { hub s n.die with nodes := (hub s n.die).nodes ++ [n] }
  match recordFault n with
  | some (c, a) => faultNode s n c a
  | none => enterPool s n
/-- POST_RECEIVE: at most once for a tag; it is held while the pool, the directory or the done table has no room, and while a line of the
record is held under ENG or being changed (R85). -/
def execPostReceive (p : PostReq) (s : State) : Host.Outcome State Fault Refusal :=
  let q := p.row.part
  let d := hubOf s q p.exec
  let dd := dirDie s q p.va
  .next (if (part s q).rst then traceCoh s q 7 3 taskHub p.va
    else if (hubDone s p).isSome then answerPost s p 0
    else if hubFull s d || poolFull (hub s d) || ((dirFind s q p.va).isNone && !dirRoom s dd 1) ||
        (findNode s d q p.va).any (·.state == 4) || !linesQuiet s taskHub (memRanges p.runs) then
      send s (.postReceive p)
    else whenFree s taskHub (statusRange (newNode d p [])) (.postReceive p) fun s =>
      let (s, bs, bad) := readRecord s q p.runs
      let n := newNode d p (dwords 16 bs)
      let s := answerPost (hubRecord s d p 0) p 0
      if bad then refusePost s n cCheck
      else if nWord n 1 ≠ 0 then refusePost s n cIllegal
      else makeNode s n dd)

/-! ### Releases and ageing (R385, R387) -/

/-- A release reaches the holder of a node; it is applied when the status dword can be written. -/
def releaseHeld (s : State) (d q rec' : Nat) (g : Option Nat) : State :=
  match findNode s d q rec' with
  | some n =>
    if n.state ≠ 1 then traceCoh s q 6 3 taskHub rec'
    else whenFree s taskHub (statusRange n) (.nodeRelease q rec' g) fun s =>
      let (s, n) := bindNode s n g
      enterPool s { n with left := n.left - 1 }
  | none => traceCoh s q 6 3 taskHub rec'
/-- NODE_RELEASE (R385): a HELD entry passes it on; else the credit rises, in a new entry when there is none. -/
def execNodeRelease (part rec' : Nat) (engine : Option Nat) (s : State) : Host.Outcome State Fault Refusal :=
  .next (match dirFind s part rec' with
    | some (d, e) =>
      match e.held with
      | some h => releaseHeld s h part rec' engine
      | none =>
        let s := match engine, e.engine with | some g, none => reserve s part g true | _, _ => s
        dirPut s d { e with credit := e.credit + 1, engine := match e.engine with | some x => some x | none => engine }
    | none =>
      let d := dirDie s part rec'
      if 4096 ≤ (hub s d).dir.length then send s (.nodeRelease part rec' engine)
      else
        let s := match engine with | some g => reserve s part g true | none => s
        dirPut s d ⟨part, rec', none, 1, engine⟩)
/-- A node READY for 65,536 fabric cycles, 32,768 ns, moves up one priority (R387), but none above 3. -/
def execNodeAging (die part rec' : Nat) (s : State) : Host.Outcome State Fault Refusal :=
  .next (match findNode s die part rec' with
    | some n =>
      if n.state = 2 ∧ n.prio < 3 ∧ n.since + 32768 ≤ s.time then putNode s { n with prio := n.prio + 1, since := s.time } else s
    | none => s)

/-! ### What an engine decodes (R245, R247 to R249, R302, R312) -/

/-- A block as the array sees it: all-zero or not, and its elements. -/
structure TBlock where
  zero : Bool
  vals : List Num
  deriving DecidableEq, Repr
/-- How the reading of an array row ends: its blocks, bytes past its extent row, or a reserved code at an address. -/
inductive RowRead where
  | ok (l : List TBlock)
  | short
  | reserved (va : Nat)
  deriving DecidableEq, Repr
/-- The tile group agent of an engine (R4). -/
def tileAgent (e : Nat) : Nat := 0x40 + e / 4
/-- The agent that reads for a node. -/
def nodeReader (n : Node) : Nat := (n.unit.map tileAgent).getD taskHub
/-- A block that fails R247 step 1 or 2 is reported once per node (R249, R312). -/
def noteBlock (s : State) (n : Node) (va : Nat) : State × Node :=
  if n.checks.contains va then (s, n)
  else (postNode s n 3 cCheck (w64 va) (w64 n.record) 0, { n with checks := n.checks ++ [va] })
/-- The blocks at a place that a node may see in part (R250): not those of its own, nor of commands that its poster issued before. -/
def tornAt (s : State) (n : Node) (l : List Run) : List TornBlock :=
  s.torn.filter fun b => l.map (·.place) == [b.place] && (if b.node.isSome then b.node != some (n.part, n.record) else b.row != n.poster)
/-- One block of a run list at an offset: its bytes and how it decodes. -/
def tileBlock (s : State) (n : Node) (l : List Run) (off : Nat) (f : Fmt) : State × Node × List Byte × BlockRead :=
  let rs := sliceRuns l off 64
  let va := (rs.head?.map (·.va)).getD 0
  let (s, bs) := readRuns s n.part (nodeReader n) rs
  let (s, raw) := readTorn s (tornAt s n rs) (bs.map fun b => b.val.getD 0)
  let r := if bs.any fun b => b.bad.isSome then .bad else readBlock raw f
  if r = .bad then
    let (s, n) := noteBlock s n va
    (s, n, raw, r)
  else (s, n, raw, r)
def isZeroBlock (raw : List Byte) : Bool := raw.getD 0 0 == 0x1F
/-- The next block of a row: one that the engine read before it parked, else the block in memory, which a row in progress keeps
until it is complete (R311). -/
def nextBlock (s : State) (n : Node) (l : List Run) (off : Nat) (f : Fmt) (had : List (Bool × List Byte)) :
    State × Node × List Byte × BlockRead :=
  match had with
  | (bad, raw) :: _ => (s, n, raw, if bad then .bad else readBlock raw f)
  | [] =>
    let (s, n, raw, r) := tileBlock s n l off f
    if r = .reserved then (s, n, raw, r)
    else (s, { n with work := { n.work with raws := n.work.raws ++ [(r == .bad, raw)] } }, raw, r)
/-- A row is read from an offset until its blocks have supplied k elements; fuel counts the blocks. Each block comes with
what WLOAD stores of it (R302). -/
def readTileRow : Nat → State → Node → List Run → Nat → Nat → Fmt → Nat → List (Bool × List Byte) →
    State × Node × RowRead × WColumn
  | 0, s, n, _, _, _, _, _, _ => (s, n, .ok [], [])
  | fuel + 1, s, n, l, off, room, f, k, had =>
    if k = 0 then (s, n, .ok [], [])
    else if room < 64 then (s, n, .short, [])
    else
      let (s, n, raw, r) := nextBlock s n l off f had
      let go := fun (b : TBlock) (w : Option (Bool × List Byte)) =>
        let (s, n, rest, ws) := readTileRow fuel s n l (off + 64) (room - 64) f (k - b.vals.length) (had.drop 1)
        match rest with
        | .ok bs => (s, n, RowRead.ok ({ b with vals := b.vals.take k } :: bs), w :: ws)
        | x => (s, n, x, w :: ws)
      match r with
      | .bad => go ⟨false, List.replicate (blockCount f) .nan⟩ (some (true, raw))
      | .reserved => (s, n, .reserved (((sliceRuns l off 1).head?.map (·.va)).getD 0), [])
      | .good _ vals => if isZeroBlock raw then go ⟨true, vals⟩ none else go ⟨false, vals⟩ (some (false, raw))
/-- Row r of an extent read for k elements. A row that parks keeps the blocks that it has read; another is finished with them. -/
def readExtentRow (s : State) (n : Node) (l : List Run) (x r : Nat) (f : Fmt) (k : Nat) :
    State × Node × RowRead × WColumn :=
  let (s, n, e, c) := readTileRow k s n l (r * nStride n x) (nStride n x) f k n.work.raws
  match e with
  | .reserved _ => (s, n, e, c)
  | _ => (s, { n with work := { n.work with raws := [] } }, e, c)
/-- How the work of an engine ends. -/
inductive TileEnd where
  | done
  | park
  | fail (cause : Nat) (addr : Word)
  deriving DecidableEq, Repr
/-- The end that a row which cannot be read gives: a fault at the first byte past its extent row, or PARKED with its
message (R248, R299 step 8, R311). -/
def rowEnd (s : State) (n : Node) (x r : Nat) (e : RowRead) : State × TileEnd :=
  match e with
  | .ok _ => (s, .done)
  | .short => (s, .fail cPagePerm (nBase n x + w64 ((r + 1) * nStride n x)))
  | .reserved va => (postNode s n 6 cFmt (w64 va) (w64 n.record) 0, .park)

/-! ### WLOAD (R302, R303) -/

/-- Bytes of a compressed block. -/
def packedSize (b : List Byte) : Nat := 12 + (((b.drop 4).filter (· != 0)).length + 3) / 4 * 4
/-- Space of a column: its index, and its stored blocks. -/
def columnSize (c : WColumn) : Nat :=
  4 * ((c.length + 31) / 32) + c.foldl (fun z b => match b with | some (_, x) => z + packedSize x | none => z) 0
def loadSize (cols : List WColumn) : Nat := 64 + cols.foldl (fun z c => z + columnSize c) 0
/-- Slots that columns take, with the header (R302). -/
def slotsFor (cols : List WColumn) : Nat := (loadSize cols + 65535) / 65536
/-- The columns of B that the node has not read yet, up to column N − 1; fuel counts them. What has been read must fit the slots before
what is read next is looked at (R299 step 7). -/
def readColumns : Nat → State → Node → State × Node × TileEnd
  | 0, s, n => (s, n, .done)
  | fuel + 1, s, n =>
    let j := n.work.cols.length
    if nRows n 1 ≤ j then (s, n, .done)
    else
      let (s, n, r, w) := readExtentRow s n n.runsB 1 j (nFmt (nFb n)) (nK n)
      if 32 < nSlot n + slotsFor (n.work.cols ++ [w]) then
        (s, { n with work := { n.work with cols := n.work.cols ++ [w] } }, .fail cIllegal (w64 n.record))
      else match r with
      | .ok _ => readColumns fuel s { n with work := { n.work with cols := n.work.cols ++ [w] } }
      | x =>
        let (s, e) := rowEnd s n 1 j x
        (s, n, e)
/-- VALID of slots is cleared. -/
def clearSlots (t : Tile) (l : List Nat) : Tile :=
  l.foldl (fun t i => { t with wbuf := mapSet t.wbuf i { mapGet t.wbuf i WSlot.init with valid := false } }) t
/-- Slots k to k + used − 1 have been written: every load that has bytes there is overwritten in part (R303). -/
def hurtSlots (t : Tile) (k used : Nat) : Tile :=
  { t with wbuf := t.wbuf.map fun (h, x) => (h, if overlap h (max 1 x.used) k used then { x with hurt := true } else x) }
/-- WLOAD (R302). A load that does not end well leaves what it has written in its slots. -/
def runWload (s : State) (n : Node) (e : Nat) : State × Node × TileEnd :=
  let (s, n, r) := readColumns (nRows n 1) s n
  let cols := n.work.cols
  let used := if r ≠ .done && cols.isEmpty then 0 else slotsFor cols
  let k := nSlot n
  let t := hurtSlots (tile s e) k (min used (32 - k))
  if 32 < k + used then (setTile s e (clearSlots t [k]), n, .fail cIllegal (w64 n.record))
  else if r ≠ .done then (setTile s e t, n, r)
  else
    let t := clearSlots t ((List.range (used - 1)).map (k + 1 + ·))
    (setTile s e { t with wbuf := mapSet t.wbuf k ⟨true, nK n, nRows n 1, nFb n, used, cols, false⟩ }, n, .done)

/-! ### MMAZ and MMA (R304, R305) -/

/-- The blocks of a stored column, decoded as WLOAD read them. -/
def columnBlocks (fb : Nat) (c : WColumn) : List TBlock :=
  c.map fun b =>
    match b with
    | none => ⟨true, List.replicate (blockCount (nFmt fb)) (.zero false)⟩
    | some (true, _) => ⟨false, List.replicate (blockCount (nFmt fb)) .nan⟩
    | some (false, raw) => (match readBlock raw (nFmt fb) with | .good _ v => ⟨false, v⟩ | _ => ⟨false, []⟩)
/-- The exact sum of products of a segment. -/
def dot (a b : List Num) : Num :=
  match List.zipWith mulNum a b with
  | [] => .zero false
  | x :: xs => xs.foldl (addNum .rne) x
/-- The segments of an A row against a B column, in increasing K; fuel counts the blocks of both. -/
def accumulateRow : Nat → List TBlock → List TBlock → Num → Num
  | 0, _, _, z => z
  | fuel + 1, a, b, z =>
    match a, b with
    | x :: xs, y :: ys =>
      let m := min x.vals.length y.vals.length
      let z := if x.zero || y.zero then z
        else roundNum .f32 .rne (addNum .rne z (roundNum .f32 .rne (dot (x.vals.take m) (y.vals.take m))))
      accumulateRow fuel
        (if x.vals.length ≤ m then xs else { x with vals := x.vals.drop m } :: xs)
        (if y.vals.length ≤ m then ys else { y with vals := y.vals.drop m } :: ys) z
    | _, _ => z
def accKey (i j : Nat) : Nat := 240 * i + j
def accWord (t : Tile) (i j : Nat) : W32 := mapGet t.acc (accKey i j) 0
def setAccRow (t : Tile) (i : Nat) (ws : List W32) : Tile :=
  { t with acc := ws.zipIdx.foldl (fun m p => mapSet m (accKey i p.2) p.1) t.acc }
def f32Word (x : Num) : W32 := BitVec.ofNat 32 (roundTo .f32 .rne false x)
def f32Num (w : W32) : Num := decodeNum .f32 w.toNat
/-- Row i of the product is added to row i of the store. -/
def mmaRow (t : Tile) (x : WSlot) (i : Nat) (a : List TBlock) : Tile :=
  setAccRow t i ((List.range 240).map fun j =>
    match x.cols[j]? with
    | some c =>
      let b := columnBlocks x.fb c
      f32Word (accumulateRow (a.length + b.length) a b (f32Num (accWord t i j)))
    | none => accWord t i j)
/-- Row i after a product with a load that was overwritten in part: the spec does not say where a load's columns lie in its slots, so
the sums of every column of the load are free values (log 26); the columns past N read as zero, and all-zero blocks of A are skipped. -/
def hurtRow (s : State) (e : Nat) (x : WSlot) (i : Nat) (a : List TBlock) : State :=
  let t := tile s e
  if a.all (·.zero) then s
  else setTile { s with count := s.count + 240 } e (setAccRow t i ((List.range 240).map fun j =>
    if j < x.n then (Config.freeWord 0x303 (s.count + j)).setWidth 32 else accWord t i j))
/-- Rows prog to M − 1; fuel counts them. -/
def mmaRows : Nat → State → Node → Nat → WSlot → State × Node × TileEnd
  | 0, s, n, _, _ => (s, n, .done)
  | fuel + 1, s, n, e, x =>
    if nM n ≤ n.prog then (s, n, .done)
    else
      let (s, n, r, _) := readExtentRow s n n.runsA 0 n.prog (nFmt (nFa n)) (nK n)
      match r with
      | .ok a =>
        let s := if x.hurt then hurtRow s e x n.prog a else setTile s e (mmaRow (tile s e) x n.prog a)
        mmaRows fuel s { n with prog := n.prog + 1 } e x
      | y =>
        let (s, z) := rowEnd s n 0 n.prog y
        (s, n, z)
def runMma (s : State) (n : Node) (e : Nat) : State × Node × TileEnd :=
  let x := mapGet (tile s e).wbuf (nSlot n) WSlot.init
  if !x.valid || x.k < nK n then (s, n, .fail cIllegal (w64 n.record))
  else
    let s := if nKind n = 2 ∧ n.prog = 0 then
        setTile s e ((List.range (nM n)).foldl (fun t i => setAccRow t i (List.replicate 240 0)) (tile s e))
      else s
    mmaRows (nM n) s n e x

/-! ### CSTORE and TRANS (R307, R308) -/

/-- The bytes of output rows 0 to m − 1 of C. -/
def outputRuns (n : Node) (m : Nat) : List Run :=
  let len := outBytes (nFc n) (if nKind n = 5 then nM n else 240)
  (List.range m).flatMap fun i => sliceRuns n.runsC (i * nStride n 2) len
/-- The destination lines that a CSTORE or TRANS registers (R85, R313). -/
def destLines (n : Node) : List Nat :=
  if nKind n = 4 then runLines (outputRuns n (nM n)) else if nKind n = 5 then runLines (outputRuns n (nK n)) else []
/-- The lines are registered in full at dispatch (R85): every owner is recalled, and ENG is set with the engine's agent. -/
def holdLines (s : State) (n : Node) (e : Nat) : State :=
  (destLines n).foldl (fun s l =>
    finishEngReg (recallAll s l (BitVec.allOnes 32)) (engReqOf (tileAgent e) n.part e l 0)) s
/-- The engine's writes of its lines have come in: their keepers are invalidated with the words written, and ENG clears (R85, R299). -/
def releaseLines (s : State) (n : Node) (e rows : Nat) : State :=
  (destLines n).foldl (fun s l => releaseEng s (tileAgent e) n.part e l (lineWords (outputRuns n rows) l) false) s
/-- The bytes at a place. -/
def placeBytes (s : State) (p : Place) (n : Nat) : List Byte :=
  match p with
  | .mem pa => homeBytes s pa n
  | .spad c o => spadBytes s c o n
  | _ => []
/-- Blocks written at an offset of a run list; each is one 64-byte access (R250), into a line that the engine holds. -/
def writeTileBlock (s : State) (n : Node) (off : Nat) (bs : List Byte) : State :=
  match (sliceRuns n.runsC off 64).head? with
  | some r =>
    let s := { s with torn := s.torn ++ [⟨r.place, placeBytes s r.place 64, n.poster, 0, some (n.part, n.record)⟩] }
    (match r.place with
    | .mem pa => arrayWrite (tierEnsure s n.part pa) n.part pa bs r.key .norm
    | .spad c o => spadStore s c o bs
    | _ => s)
  | none => s
/-- The values of an output row, block by block, the last one filled with zeros; fuel counts the blocks. -/
def writeOutRow : Nat → State → Node → Nat → List Num → State
  | 0, s, _, _, _ => s
  | fuel + 1, s, n, off, vals =>
    if vals = [] then s
    else
      let f := nFmt (nFc n)
      let m := blockCount f
      let v := vals.take m
      let s := writeTileBlock s n off (writeBlock f (nOsc n) (v ++ List.replicate (m - v.length) (.zero false)))
      writeOutRow fuel s n (off + 64) (vals.drop m)
/-- The old elements of a row of C, for ACC. -/
def oldRow (s : State) (n : Node) : State × Node × RowRead :=
  let (s, n, r, _) := readExtentRow s n n.runsC 2 n.prog (nFmt (nFc n)) 240
  (s, n, r)
/-- Rows prog to M − 1 of a CSTORE; fuel counts them. -/
def cstoreRows : Nat → State → Node → Nat → State × Node × TileEnd
  | 0, s, n, _ => (s, n, .done)
  | fuel + 1, s, n, e =>
    if nM n ≤ n.prog then (s, n, .done)
    else
      let xs := (List.range 240).map fun j => f32Num (accWord (tile s e) n.prog j)
      let (s, n, r) := if nAcc n then oldRow s n else (s, n, .ok [])
      match r with
      | .ok old =>
        let ys := if nAcc n then
            List.zipWith (fun x o => roundNum .f32 .rne (addNum .rne x o)) xs (old.flatMap (·.vals))
          else xs
        let s := writeOutRow 240 s n (n.prog * nStride n 2) ys
        cstoreRows fuel s { n with prog := n.prog + 1 } e
      | y =>
        let (s, z) := rowEnd s n 2 n.prog y
        (s, n, z)
/-- The rows of A for TRANS that the node has not read yet, each element rounded to binary32; fuel counts them. -/
def readMatrix : Nat → State → Node → State × Node × TileEnd
  | 0, s, n => (s, n, .done)
  | fuel + 1, s, n =>
    let i := n.work.mat.length
    if nM n ≤ i then (s, n, .done)
    else
      let (s, n, r, _) := readExtentRow s n n.runsA 0 i (nFmt (nFa n)) (nK n)
      match r with
      | .ok a =>
        readMatrix fuel s { n with work := { n.work with mat := n.work.mat ++ [a.flatMap fun b => b.vals.map f32Word] } }
      | x =>
        let (s, e) := rowEnd s n 0 i x
        (s, n, e)
/-- TRANS: each output row passes through the staging buffer. -/
def runTrans (s : State) (n : Node) (e : Nat) : State × Node × TileEnd :=
  let (s, n, r) := readMatrix (nM n) s n
  if r ≠ .done then (s, n, r)
  else
    let s := (List.range (nK n)).foldl (fun s k =>
      let s := setTile s e { tile s e with staging := n.work.mat.map fun row => nth row k 0 }
      writeOutRow (nM n) s n (k * nStride n 2) ((tile s e).staging.map f32Num)) s
    (s, { n with prog := nK n }, .done)

/-! ### Dispatch (R301, R387) -/

/-- The cluster whose scratchpad holds A. -/
def clusterOfA (n : Node) : Option Nat :=
  match n.runsA.head?.map fun r : Run => r.place with
  | some (.spad c _) => some c
  | _ => none
/-- Clusters of the partition on the holder's die to which work is dispatched (R428, R459). -/
def workClusters (s : State) (n : Node) : List Nat :=
  (clustersOf (part s n.part)).filter fun c =>
    let x := cluster s c
    c / 8 == n.die && !x.halted && !x.evicted.contains n.part && !(x.pre.any fun p => p.part == n.part && p.stage == 3)
/-- The units that can take a node, in increasing number: tile engines, or clusters for a COPY. -/
def eligible (s : State) (n : Node) : List Nat :=
  if nKind n = 6 then (workClusters s n).filter fun c => queueRoom s c 16 8
  else
    ((workClusters s n).flatMap fun c => [4 * c, 4 * c + 1, 4 * c + 2, 4 * c + 3]).filter fun e =>
      (tile s e).busy.isNone && (tile s e).parked.isNone &&
        (nKind n == 5 || if n.bound then n.engine == e else (tile s e).resv == 0)
/-- The unit for a node: one in the cluster whose scratchpad holds A, else the lowest. -/
def chooseUnit (s : State) (n : Node) : Option Nat :=
  let l := eligible s n
  let c := fun u => if nKind n = 6 then u else u / 4
  match l.find? fun u => clusterOfA n == some (c u) with
  | some u => some u
  | none => l.head?
/-- A node that no unit needs to be found for, or that has one. -/
def hasUnit (s : State) (n : Node) : Bool :=
  !(part s n.part).rst && (nKind n == 7 || nKind n == 8 || (chooseUnit s n).isSome)
/-- a comes before b in the ready pool. -/
def readyBefore (a b : Node) : Bool := b.prio < a.prio || (a.prio == b.prio && a.since < b.since)
/-- The first node of the ready pool whose kind has an eligible unit. -/
def firstReady (s : State) (die : Nat) : Option Node :=
  ((hub s die).nodes.filter fun n => n.state == 2 && hasUnit s n).foldl (fun (m : Option Node) n =>
    match m with
    | some x => if readyBefore n x then some n else m
    | none => some n) none
/-- The lines and scratchpads of a node's extents take its accesses at once: a line that a parked node's engine holds is its own. -/
def extentsFree (s : State) (n : Node) : Bool :=
  let l := n.runsA ++ n.runsB ++ n.runsC
  let own := if n.state = 6 then destLines n else []
  ((runLines l).all fun x =>
    let h := hline s x
    (own.contains x && h.reg.eng && n.unit.any fun e => h.reg.ownA.toNat == tileAgent e)
      || (!h.reg.eng && h.txn.isNone && h.waiting.isEmpty && tierTakes s (128 * x))) &&
    l.all fun r => match r.place with
      | .spad c _ => !routerRefuses s c
      | .mem pa => !isRemote s pa || leaseUsable s (pa / 65536)
      | _ => true
/-- What the engine's work comes to: the node is DONE, PARKED with its engine, or FAULT (R311). A node that stops releases its lines
with the data they hold (R299). -/
def afterWork (s : State) (n : Node) (e : Nat) (r : TileEnd) : State :=
  match r with
  | .done => send (putNode (releaseLines s n e n.prog) n) (.nodeDone n.die n.part n.record)
  | .fail c a => send (putNode (releaseLines s n e n.prog) n) (.nodeFault n.die n.part n.record c a)
  | .park =>
    let n := { n with state := 6 }
    writeStatus (setTile (putNode s n) e { tile s e with busy := none, parked := some (n.part, n.record) }) n
/-- The lines of memory to which the engine of a node makes requests. -/
def nodeLines (n : Node) : List Nat := runLines (n.runsA ++ n.runsB ++ n.runsC)
/-- The agent of an engine has been declared dead and the node needs memory: what the engine sends carries the old incarnation and is
discarded, so the node runs on without an end (R92, R93). -/
def engineLost (s : State) (n : Node) (e : Nat) : Bool := staleInc s (tileAgent e) (ownInc (tileAgent e)) && !(nodeLines n).isEmpty
/-- The requests of such an engine are logged. -/
def loseWork (s : State) (n : Node) (e : Nat) : State :=
  (nodeLines n).foldl (fun s l => logStale s n.part (tileAgent e) (ownInc (tileAgent e)) (128 * l))
    (putNode (setTile s e { tile s e with busy := some (n.part, n.record), parked := none }) n)
/-- The work of a tile kind, whole within the step that dispatches or resumes it (log 29). -/
def runTile (s : State) (n : Node) (e : Nat) : State :=
  let s := setTile s e { tile s e with busy := some (n.part, n.record), parked := none }
  let (s, n, r) := match nKind n with
    | 3 => runWload s n e
    | 4 => cstoreRows (nM n) s n e
    | 5 => runTrans s n e
    | _ => runMma s n e
  afterWork s n e r
/-- A COPY node enters the hub queue of a copy engine (R309). -/
def startCopy (s : State) (n : Node) (cl : Nat) : State :=
  enqueueCopy s cl n.part ⟨s.copyNext, 16, .cpy2, n.poster, 0, some (n.part, n.record), n.runsC, n.runsA, [], nK n, nM n,
    nStride n 2, nStride n 0, 0, .norm, 0, 0, 0, 0, 0, none⟩
/-- A ROW node stores a START into the d0 of its target at user privilege (R310). -/
def startRow (s : State) (n : Node) : State :=
  match n.runsA.head?.map fun r : Run => r.place with
  | some (.row r _) =>
    let v := w64 (at_ 1 56 + bits (nBase n 2) 0 48)
    let s := arriveAccess s ⟨r, 0, .store 8 v, 0, n.poster, 0, 8, 0, (nBase n 0).toNat⟩
    send s (.nodeDone n.die n.part n.record)
  | _ => send s (.nodeDone n.die n.part n.record)
/-- The target of a ROW node is in a transfer: the store has not arrived (R202). -/
def rowBusy (s : State) (n : Node) : Bool :=
  nKind n == 7 && match n.runsA.head?.map fun r : Run => r.place with
    | some (.row r _) => inTransfer s (locate s r)
    | _ => false
/-- The node runs on its unit. -/
def runNode (s : State) (n : Node) : State :=
  let n := { n with state := 3, unit := chooseUnit s n }
  let s := writeStatus (putNode s n) n
  match nKind n, n.unit with
  | 6, some cl => startCopy s n cl
  | 7, _ => startRow s n
  | 8, _ => send s (.nodeDone n.die n.part n.record)
  | _, some e => if engineLost s n e then loseWork s n e else runTile (holdLines s n e) n e
  | _, none => s
/-- NODE_DISPATCH: the first node of the pool that a unit can take; one whose translation was dropped is translated
again first, and one whose lines, target or lease are not free waits at the head (log 29). -/
def execNodeDispatch (die : Nat) (s : State) : Host.Outcome State Fault Refusal :=
  .next (match firstReady s die with
    | none => s
    | some n =>
      if !n.xlated then settleNode s n
      else if rowBusy s n || (tileKind (nKind n) && !extentsFree s n) then s
      else if !rangesFree s taskHub (statusRange n) then askRanges s (statusRange n)
      else runNode s n)

/-! ### DONE and FAULT (R313, R383, R388) -/

/-- An amo.add of 1 at a translated counter, at a scope (R313, R384); a block delivered bad keeps its contents (R183). -/
def bumpCounter (s : State) (q scope : Nat) (r : Run) : State :=
  match r.place with
  | .mem pa =>
    let s := logKeys (checkBlocks s q pa 8) q taskHub pa 8 r.key
    if deliveryRange s pa 8 r.key ≠ 0 then s
    else traceCoh (hubWriteDword s q taskHub pa (dwordNow s pa + 1) r.key) q 4 scope taskHub pa
  | .spad c o => spadStore s c o (leBytes 8 (leNat (spadBytes s c o 8) + 1))
  | _ => s
/-- A write of the node's engine whose keepers have not all answered: the node is not DONE yet (R313). -/
def writesPending (s : State) (n : Node) : Bool :=
  n.unit.any fun e => tileKind (nKind n) && engPending s (tileAgent e) e (destLines n)
/-- The engine that a node's releases carry (R301). -/
def carriedEngine (n : Node) : Option Nat := if boundKind (nKind n) && !nEndb n then n.unit else none
/-- The node is DONE (R388): status, counter, d13, in that order; its directory entry goes. -/
def nodeEnds (s : State) (n : Node) : State :=
  let n := { n with state := 4, xlated := false }
  let s := writeStatus (freeEngine s n) n
  let s := if n.bound then reserve s n.part n.engine false else s
  let s := n.ctr.foldl (fun s r => bumpCounter s n.part (if nSys n then 4 else 3) r) s
  dirDrop (putNode (countNode s n false) n) n.part n.record
/-- The directories have room for the releases of a node (R385). -/
def releasesFit (s : State) (n : Node) : Bool :=
  let new := ((nSuccs n).map (·.toNat)).dedup.filter fun a => (dirFind s n.part a).isNone
  new.all fun a => dirRoom s (dirDie s n.part a) ((new.filter fun b => dirDie s n.part b == dirDie s n.part a).length)
/-- The releases are sent, after the counter's increment, and the node is retired; while a directory is full the node waits with them
(R385). -/
def sendReleases (s : State) (n : Node) : State :=
  if releasesFit s n then
    removeNode (sendAll s ((nSuccs n).map fun a => .nodeRelease n.part a.toNat (carriedEngine n))) n
  else send s (.nodeDone n.die n.part n.record)
/-- NODE_DONE: status, counter, d13, releases, in that order; the node is retired. -/
def execNodeDone (die part rec' : Nat) (s : State) : Host.Outcome State Fault Refusal :=
  .next (match findNode s die part rec' with
    | none => s
    | some n =>
      if n.state = 4 then sendReleases s n
      else if n.state ≠ 3 then s
      else if writesPending s n || inTransfer s (locate s n.poster) then send s (.nodeDone die part rec')
      else whenFree s taskHub (statusRange n ++ memRanges n.ctr) (.nodeDone die part rec') fun s =>
        sendReleases (nodeEnds s n) { n with state := 4, xlated := false })
/-- NODE_FAULT. -/
def execNodeFault (die part rec' cause : Nat) (addr : Word) (s : State) : Host.Outcome State Fault Refusal :=
  .next (match findNode s die part rec' with
    | none => s
    | some n =>
      if writesPending s n || inTransfer s (locate s n.poster) then send s (.nodeFault die part rec' cause addr)
      else whenFree s taskHub (statusRange n) (.nodeFault die part rec' cause addr) fun s => faultNode s n cause addr)

/-! ### NPARK and NRETRY (R311, R408) -/

/-- The node parked on an engine. -/
def parkedNode (s : State) (e : Nat) : Option Node :=
  match (tile s e).parked with
  | some (q, r) => (s.hubs.findSome? fun (_, h) => h.nodes.find? fun n => n.part == q && n.record == r)
  | none => none
/-- NPARK resume: the parking block is read again. -/
def execNparkResume (engine : Nat) (s : State) : Host.Outcome State Fault Refusal :=
  .next (match parkedNode s engine with
    | some n =>
      if extentsFree s n && rangesFree s taskHub (statusRange n) then
        let n := { n with state := 3 }
        let s := writeStatus (putNode s n) n
        if engineLost s n engine then loseWork s n engine else runTile s n engine
      else send (askRanges s (statusRange n)) (.nparkResume engine)
    | none => s)
/-- NPARK fail: the node is FAULT with FMT_RESERVED; its lines are released with the data they hold (R299). -/
def execNparkFail (engine : Nat) (s : State) : Host.Outcome State Fault Refusal :=
  .next (match parkedNode s engine with
    | some n => whenFree s taskHub (statusRange n) (.nparkFail engine) fun s =>
      faultNode (releaseLines s n engine n.prog) n cFmt (w64 n.record)
    | none => s)
/-- The kept FAULT node of a partition with a record. -/
def keptNode (s : State) (q rec' : Nat) : Option Node :=
  s.hubs.findSome? fun (_, h) => h.kept.find? fun n => n.part == q && n.record == rec'
def dropKept (s : State) (n : Node) : State :=
  setHub s n.die { hub s n.die with kept := (hub s n.die).kept.filter fun x => !(x.part == n.part && x.record == n.record) }
def nretryAnswer (s : State) (q res : Nat) : State :=
  setPart s q { part s q with nretryBusy := false, nretryRes := BitVec.ofNat 2 res }
/-- NRETRY retry: the record is read again, but not its status; it is checked again and READY. -/
def retryNode (s : State) (n : Node) : State :=
  let (s, bs, bad) := readRecord s n.part n.recPa
  let n := { n with words := dwords 16 bs, left := 0, cause := 0, state := 2, unit := none, prog := 0, checks := [], work := NodeWork.init,
                    prio := bits (nth (dwords 16 bs) 0 0) 16 2, xlated := false }
  let s := dropKept s n
  let s := if n.bound then reserve s n.part n.engine true else s
  let s := dirPut s (dirDie s n.part n.record) ⟨n.part, n.record, some n.die, 0, none⟩
  let s := setHub s n.die { hub s n.die with nodes := (hub s n.die).nodes ++ [n] }
  if bad then faultNode s n cCheck (w64 n.record)
  else match recordFault n with
    | some (c, a) => faultNode s n c a
    | none => enterPool s n
/-- NRETRY retry: it waits while the holder or the directory has no room (R385, R386). -/
def execNodeRetry (q rec' : Nat) (s : State) : Host.Outcome State Fault Refusal :=
  .next (match keptNode s q rec' with
    | some n =>
      if poolFull (hub s n.die) || !dirRoom s (dirDie s q rec') 1 || !linesQuiet s taskHub (memRanges n.recPa) then
        send s (.nodeRetry q rec')
      else whenFree s taskHub (statusRange n) (.nodeRetry q rec') fun s => retryNode (nretryAnswer s q 0) n
    | none => nretryAnswer s q 1)
/-- NRETRY drop: the holder forgets the node. -/
def execNodeDrop (q rec' : Nat) (s : State) : Host.Outcome State Fault Refusal :=
  .next (match keptNode s q rec' with
    | some n => dropKept (nretryAnswer s q 0) n
    | none => nretryAnswer s q 1)

end Sys2Proof.Machine
end

