-- ==== Sys2Proof/Machine/Launch.lean ====
section
/-!
DEFINITION. fork, launch queues, descriptors, the creation and placing of rows, and the completion of launches
(R335, R343, R344, R351, R375 to R384).
-/

namespace Sys2Proof.Machine

/-! ### Launch descriptors (R375 to R377) -/

def dRows (d : List Word) : Nat := (nth d 2 0).toNat
def dN1 (d : List Word) : Nat := bits (nth d 3 0) 0 16
def dN2 (d : List Word) : Nat := bits (nth d 3 0) 16 16
def dN3 (d : List Word) : Nat := bits (nth d 3 0) 32 16
def dArgs (d : List Word) : Word := nth d 4 0
def dCtl (d : List Word) : Word := nth d 5 0
def dPrio (d : List Word) : Nat := bits (dCtl d) 0 2
def dQuant (d : List Word) : Nat := bits (dCtl d) 8 8
def dSlots (d : List Word) : Nat := bits (dCtl d) 16 3
def dGang (d : List Word) : Bool := bit (dCtl d) 24
def dImage (d : List Word) : Bool := bit (dCtl d) 25
def dCtrl (d : List Word) : Bool := bit (dCtl d) 26
def dCounter (d : List Word) : Word := nth d 6 0
/-- Level-1 and level-2 domains of a launch (R343). -/
def level1 (rows n1 : Nat) : Nat := (rows + n1 - 1) / n1
def level2 (rows n1 n2 : Nat) : Nat := (level1 rows n1 + n2 - 1) / n2
/-- The zero fields, and the fields of R375 and R376 in their limits. -/
def fieldsLegal (d : List Word) (host : Bool) (priv : Nat) : Bool :=
  (nth d 0 0).toNat % 65536 == 0 && bits (nth d 1 0) 32 32 == 0 && (nth d 1 0).toNat % 4 == 0
    && bits (nth d 3 0) 48 16 == 0 && inLimit (dN1 d) 1 32768 && inLimit (dN2 d) 1 65535 && inLimit (dN3 d) 1 65535
    && (dArgs d).toNat % 8 == 0 && bits (dCtl d) 27 37 == 0 && bits (dCtl d) 19 5 == 0 && bits (dCtl d) 2 6 == 0
    && inLimit (dSlots d) 1 4 && 1 ≤ dQuant d && (dCounter d).toNat % 8 == 0 && nth d 7 0 == 0
    && !(dCtrl d && (host || priv == 0)) && !(dImage d && (dArgs d).toNat % 1024 != 0)
/-- The leader asks for a launch's translations with the launch's privilege (R382, R384). -/
def launchAsker (s : State) (q priv acc : Nat) : Asker := ⟨q, leader s q, priv, none, acc⟩
/-- A counter address translates to a writable 8-byte place outside row space and cask pages (R377). -/
def counterRun (s : State) (q priv : Nat) (a : Word) : Option Run :=
  let k := launchAsker s q priv 3
  match noHost k (chunks s k true a 8) with
  | [.run r] => some r
  | _ => none
/-- The row images of a launch with IMAGE, or none when one cannot be read (R382), the host range among others (R447); fuel counts the
rows. -/
def readImages (s : State) (q priv : Nat) : Nat → Word → State × Option (List (List Word))
  | 0, _ => (s, some [])
  | n + 1, a =>
    let k := launchAsker s q priv 2
    let s := checkExtent s k a 1024
    let l := noHost k (chunks s k false a 1024)
    if l.any fun c => match c with | .run _ => false | _ => true then (s, none)
    else
      let (s, bs, bad) := readRecord s q (runsOf l)
      if bad then (s, none)
      else
        let (s, rest) := readImages s q priv n (a + 1024)
        (s, rest.map fun r => dwords 128 bs :: r)

/-! ### Identifiers and places (R380, R382) -/

/-- Logical identifiers in use: those of launches and of live rows, as intervals. -/
def idsTaken (s : State) (q : Nat) : List (Nat × Nat) :=
  (launchList s q).map (fun x => (x.base, x.rows)) ++ (liveRows s q).map fun r => (r.lrow, 1)
/-- The lowest run of n free identifiers. -/
def freeIds (s : State) (q n : Nat) : Option Nat :=
  let t := idsTaken s q
  let ok := fun b => b + n ≤ 2 ^ 24 && t.all fun x => !overlap b n x.1 x.2
  ((0 :: t.map fun x => x.1 + x.2).filter ok).foldl (fun m b => match m with | some x => some (min x b) | none => some b) none
/-- The lowest free launch identifier. -/
def freeLaunch (s : State) (q : Nat) : Nat :=
  (((List.range 1025).map (· + 1)).find? fun i => !(launchList s q).any fun x => x.id == i).getD 1
/-- Executors of the rows of level-1 domains j on, with the fill pointers (R380); fuel counts the domains. -/
def placeRows (s : State) (q n1 n2 : Nat) : Nat → Nat → Nat → State × List Nat
  | 0, _, _ => (s, [])
  | fuel + 1, j, left =>
    let cs := clustersOf (part s q)
    let dies := (cs.map (· / 8)).dedup
    let die := nth dies (j / n2 % dies.length) 0
    let here := cs.filter fun c => c / 8 == die
    let c := nth here (j % n2 % here.length) 0
    let n := min n1 left
    let f := (cluster s c).fill
    let mine := (List.range n).map fun a => 16 * c + (f + a) % 16
    let s := setCluster s c { cluster s c with fill := (f + n) % 16 }
    let (s, rest) := placeRows s q n1 n2 fuel (j + 1) (left - n)
    (s, mine ++ rest)
/-- Control executors of the rows of a CTRL launch (R382). -/
def placeCtrl (s : State) (q rows : Nat) : List Nat :=
  let xs := ctlOf (part s q)
  (List.range rows).map fun i => 512 + nth xs (i % xs.length) 0

/-! ### Retiring (R335, R384, R423) -/

/-- Rows of a partition are retired: bank rows and cellar images are freed, LIVE is cleared, and with them go the done-table
entries, the claims and every side record of them. -/
def retireRows (s : State) (q : Nat) (gone : RowId → Bool) : State :=
  let s := ((liveRows s q).filter gone).foldl (fun s r =>
    let s := dropWatchAt s (locate s r)
    let s := match locate s r with | .bank pr => dropRow s pr | _ => s
    setRowEntry s r 0) s
  let keep := fun r : RowId => !(r.part == q && gone r)
  let p := part s q
  let s := setPart s q { p with parked := p.parked.filter keep }
  { s with
    ops := s.ops.filter fun o => keep o.row
    late := s.late.filter fun x => keep x.1
    waitFor := s.waitFor.filter fun x => keep x.1
    owed := s.owed.filter fun x => keep x.1
    stalls := s.stalls.filter fun x => keep x.1
    stores := s.stores.filter fun x => keep x.row
    batches := s.batches.filter fun b => keep b.row
    done := s.done.map fun (k, l) => (k, l.filter fun d => keep d.row)
    hubs := s.hubs.map fun (k, h) => (k, { h with done := h.done.filter fun d => keep d.row })
    execs := s.execs.map fun (e, x) => (e, { x with hold := x.hold.filter fun p => keep p.row })
    pools := s.pools.map fun (k, x) => (k, { x with claims := x.claims.filter (fun c => keep c.row),
                                                    waiting := x.waiting.filter fun w => keep w.1 }) }
/-- The vector of a launch queue (R378, R445). -/
def queueVector (s : State) (q n : Nat) : State := if bit (lq s q n).cfg 4 then raiseVector s (q + 1) (n + 1) else s
/-- Steps 1 and 2 of R384: the increment is at device scope, at system scope for a gang. -/
def reportLaunch (s : State) (q : Nat) (gang : Bool) (counter : Option Run) (src : Source) : State :=
  let s := match counter with | some r => bumpCounter s q (if gang then 4 else 3) r | none => s
  match src with
  | .queue n => queueVector (setLq s q n { lq s q n with done := (lq s q n).done + 1 }) q n
  | .fork _ => s
/-- LAUNCH_COMPLETE: no row is left that is not DONE (R335, R384). -/
def execLaunchComplete (q launch : Nat) (s : State) : Host.Outcome State Fault Refusal :=
  .next (match findLaunch s q launch with
    | none => s
    | some x =>
      if x.finished.length ≠ x.rows then s
      else whenFree s taskHub (memRanges x.counter.toList) (.launchComplete q launch) fun s =>
        let s := reportLaunch s q x.gang x.counter x.source
        let s := retireRows s q fun r => x.base ≤ r.lrow && r.lrow < x.base + x.rows
        let s := { s with
          domains := s.domains.filter fun u => !(u.part == q && u.launch == launch)
          meetings := s.meetings.filter fun m => !(m.part == q && m.launch == launch)
          meetWait := s.meetWait.filter fun m => !(m.part == q && m.launch == launch) }
        setLaunchList s q ((launchList s q).filter fun y => y.id != launch))

/-! ### fork (R351) -/

/-- fork: the row waits at the instruction for the reply. -/
def execFork (c : Ctl) (rd ra : Reg) (s : State) : Host.Outcome State Fault Refusal :=
  memChain c s fun s =>
    let a := readReg s ra
    if rd.win = 3 then roFaultAs s 8
    else handOver s a 1 fun s l i =>
      let s := takeSlot s (.bank s.cur) i 64 (destOf rd) 2 0x0B a
      let p := postOf s i a l
      let s := setOpRec s { blankOp s i with na := nextPc c s, blocking := true, post := some p }
      send (countChain s) (.forkRequest p)
/-- A launch came from the fork of a row's tag. -/
def sameFork (src : Source) (p : PostReq) : Bool :=
  match src with
  | .fork x => x.row == p.row && x.tag == p.tag
  | .queue _ => false
/-- FORK_REQUEST: a fork reaches the leader once for a tag (R351, R379, R423). -/
def execForkRequest (p : PostReq) (s : State) : Host.Outcome State Fault Refusal :=
  let q := p.row.part
  let x := part s q
  .next (match hubDone s p with
    | some v => answerPost s p v
    | none =>
      if x.rst then traceCoh s q 7 3 taskHub p.va
      else if x.taken.any fun t => sameFork t.src p then
        setPart s q { x with taken := x.taken.map fun t => { t with src := .fork p } }
      else if x.forks.any fun f => f.post.row == p.row && f.post.tag == p.tag then
        setPart s q { x with forks := x.forks.map fun f => if f.post.row = p.row ∧ f.post.tag = p.tag then { f with post := p } else f }
      else setPart s q { x with forks := x.forks ++ [⟨p, x.arrivals⟩], arrivals := x.arrivals + 1 })

/-! ### Taking launches (R377 to R380) -/

/-- What the leader can take next: where it stands, its arrival, its descriptor, none when it cannot be read. -/
structure Candidate where
  src : Source
  at_ : Nat
  desc : Option (List Word)
  deriving DecidableEq, Repr
/-- The physical address of an entry of a launch queue (R378). -/
def entryAt (x : LaunchQ) : Nat := bits x.cfg 12 52 * 4096 + 64 * (x.head.toNat % 2 ^ bits x.cfg 0 4)
/-- The head entry of queue n: it cannot be read where the ring leaves the partition's flat stack memory, or where its block is delivered
bad under the key slot A (R66, R377, R378). -/
def queueCandidate (s : State) (q n : Nat) : Option Candidate :=
  let x := lq s q n
  if bits x.cfg 0 4 = 0 || x.head = x.tail then none
  else
    let a := entryAt x
    let d := if flatRange (part s q) a 64 && deliveryRange s a 64 (keyA s q) = 0 then some (dwords 8 (readNow s a 64)) else none
    some ⟨.queue n, (x.rung.head?.map (·.2)).getD 0, d⟩
def forkCandidate (s : State) (f : Fork) : Candidate :=
  let (_, bs, bad) := readRecord s f.post.row.part f.post.runs
  ⟨.fork f.post, f.at_, if bad then none else some (dwords 8 bs)⟩
/-- PRIO of a candidate; one that cannot be read has the lowest (log 30). -/
def candPrio (c : Candidate) : Nat := (c.desc.map dPrio).getD 0
/-- The candidate that the leader takes: highest PRIO, then oldest (R379). -/
def nextCandidate (s : State) (q : Nat) : Option Candidate :=
  let l := ([0, 1, 2, 3].filterMap fun n => queueCandidate s q n) ++ (part s q).forks.map (forkCandidate s)
  l.foldl (fun m c => match m with
    | some x => if candPrio x < candPrio c || (candPrio x == candPrio c && c.at_ < x.at_) then some c else m
    | none => some c) none
/-- A candidate has been accepted or rejected (reason 0: accepted): its queue's HEAD moves past it, or its fork is
answered (R351, R378). -/
def settleCandidate (s : State) (q : Nat) (src : Source) (reason id : Nat) : State :=
  match src with
  | .queue n =>
    let x := lq s q n
    let head := x.head + 1
    let rung := x.rung.dropWhile fun r => r.1 == head && r.1 != x.tail
    let x' := { x with head := head, rung := if head = x.tail then [] else rung }
    if reason = 0 then setLq s q n x'
    else queueVector (setLq s q n { x' with ridx := BitVec.ofNat 24 x.head.toNat, err := BitVec.ofNat 4 reason }) q n
  | .fork p =>
    let v := if reason = 0 then w64 id else w64 (2 ^ 63 + reason)
    let y := part s q
    let s := setPart s q { y with forks := y.forks.filter fun f => !(f.post.row == p.row && f.post.tag == p.tag) }
    answerPost (hubRecord s (leader s q) p v) p v
/-- The privilege that a launch asks with. -/
def sourcePriv : Source → Nat
  | .queue _ => 0
  | .fork p => p.priv
def fromHost : Source → Bool
  | .queue _ => true
  | .fork _ => false
/-- The launch that has been accepted gets its identifiers and places; while no run of identifiers is free it waits, and the launches
behind it too (R380). -/
def startLaunch (s : State) (q : Nat) (t : TakenLaunch) : State :=
  let d := t.desc
  let r := dRows d
  match freeIds s q r with
  | none => s
  | some base =>
    let id := freeLaunch s q
    let (s, place) := if dCtrl d then (s, placeCtrl s q r) else placeRows s q (dN1 d) (dN2 d) (level1 r (dN1 d)) 0 r
    let n3 := max (dN3 d) (level2 r (dN1 d) (dN2 d))
    let x : Launch := ⟨id, base, r, dN1 d, dN2 d, n3, nth d 0 0 + nth d 1 0, dArgs d, dQuant d, dSlots d,
      if dCtrl d then 1 else sourcePriv t.src, dCtrl d, dGang d, t.images, place, [], t.counter, t.src, [], []⟩
    let s := setPart s q { part s q with taken := none }
    let s := setLaunchList s q (launchList s q ++ [x])
    let s := match t.src with | .fork p => answerPost (hubRecord s (leader s q) p (w64 id)) p (w64 id) | .queue _ => s
    sendAll s ((place.map dieOf).dedup.map fun die => .rowCreate q id die)
/-- A launch is accepted: its queue's HEAD moves past it, or it is no longer among the forks (R378, R380). -/
def acceptLaunch (s : State) (q : Nat) (c : Candidate) (d : List Word) (images : List (List Word)) (ctr : Option Run) : State :=
  let s := match c.src with
    | .queue _ => settleCandidate s q c.src 0 0
    | .fork p => setPart s q { part s q with forks := (part s q).forks.filter fun f => !(f.post.row == p.row && f.post.tag == p.tag) }
  let t : TakenLaunch := ⟨c.src, d, images, ctr⟩
  startLaunch (setPart s q { part s q with taken := some t }) q t
/-- A page that the counter or an image lies in is being moved or has no lease: the launch waits (R95, R398). -/
def launchWaits (s : State) (q priv : Nat) (d : List Word) : Bool :=
  let k := launchAsker s q priv 2
  let l := (if dImage d then chunks s k false (dArgs d) (1024 * dRows d) else [])
    ++ if dCounter d = 0 then [] else chunks s k true (dCounter d) 8
  l.any fun c => match c with | .moving => true | .lease _ _ => true | _ => false
/-- The counter of a launch that is complete at once can be written now. -/
def counterFree (s : State) (q : Nat) (c : Candidate) (d : List Word) : Bool :=
  dRows d % 2 ^ 25 ≠ 0 || dCounter d = 0 ||
    rangesFree s taskHub (memRanges (counterRun s q (sourcePriv c.src) (dCounter d)).toList)
/-- The checks of R377 in their order. -/
def takeLaunch (s : State) (q : Nat) (c : Candidate) : State :=
  let no := fun (s : State) reason => settleCandidate s q c.src reason 0
  match c.desc with
  | none => no s 3
  | some d =>
    if 2 ^ 24 < dRows d % 2 ^ 25 then no s 1
    else if dRows d % 2 ^ 25 = 0 then
      let ctr := if dCounter d = 0 then none else counterRun s q (sourcePriv c.src) (dCounter d)
      let id := freeLaunch s q
      reportLaunch (settleCandidate s q c.src 0 id) q (dGang d) ctr c.src
    else if 2 ^ 25 ≤ dRows d || !fieldsLegal d (fromHost c.src) (sourcePriv c.src) then no s 2
    else
      let (s, images) := if dImage d then readImages s q (sourcePriv c.src) (dRows d) (dArgs d) else (s, some [])
      let ctr := if dCounter d = 0 then none else counterRun s q (sourcePriv c.src) (dCounter d)
      match images with
      | none => no s 2
      | some im =>
        if dCounter d ≠ 0 && ctr.isNone then no s 2
        else if 65535 < level2 (dRows d) (dN1 d) (dN2 d) then no s 1
        else acceptLaunch s q c d im ctr
/-- The queues that have an entry for the leader to read in the partition's flat stack memory. -/
def readableEntries (s : State) (q : Nat) : List Nat :=
  ([0, 1, 2, 3].map (lq s q)).filterMap fun x =>
    if bits x.cfg 0 4 = 0 || x.head = x.tail || !flatRange (part s q) (entryAt x) 64 then none else some (entryAt x)
/-- The blocks of the queue entries that the leader reads are checked, and a mismatch is logged (R61, R66). -/
def checkQueues (s : State) (q : Nat) : State :=
  (readableEntries s q).foldl (fun s a => logKeys (checkBlocks s q a 64) q taskHub a 64 (keyA s q)) s
/-- The lines of the descriptors that the leader reads are not held under ENG and not being changed (R85). -/
def entriesQuiet (s : State) (q : Nat) : Bool :=
  linesQuiet s taskHub ((readableEntries s q).map (·, 64)) &&
    (part s q).forks.all fun f => linesQuiet s taskHub (memRanges f.post.runs)
/-- What reading a candidate's descriptor leaves: the walks of its counter's page are checked too (R61). -/
def afterReading (s : State) (q : Nat) (c : Candidate) : State :=
  let s := match c.src with
    | .queue _ => s
    | .fork p => (readRecord s p.row.part p.runs).1
  match c.desc with
  | some d => if dCounter d = 0 then s else checkExtent s (launchAsker s q (sourcePriv c.src) 3) (dCounter d) 8
  | none => s
/-- LAUNCH_TAKE: nothing while a reset is in progress, 1,024 launches live, an accepted launch waits, or the done table has no room for a
fork. -/
def execLaunchTake (q : Nat) (s : State) : Host.Outcome State Fault Refusal :=
  let p := part s q
  .next (if p.rst || !p.en || 1024 ≤ (launchList s q).length then s
    else match p.taken with
    | some t => startLaunch s q t
    | none =>
      if !entriesQuiet s q then s
      else
        let r := checkQueues s q
        match nextCandidate r q with
        | none => s
        | some c =>
          if (!fromHost c.src && hubFull s (leader s q)) || c.desc.any (launchWaits s q (sourcePriv c.src))
            || !c.desc.all (counterFree s q c) then s
          else takeLaunch (afterReading r q c) q c)

/-! ### Creating rows (R381, R382, R446) -/

/-- d3 and d4 of row i of a launch (R192, R343, R344). -/
def identityWord (q : Nat) (x : Launch) (i : Nat) : Word := w64 (at_ q 40 + at_ x.id 24 + (x.base + i))
def domainWord (x : Launch) (i : Nat) : Word :=
  let memb := if x.ctrl then 4 else if x.gang then 15 else 7
  let j := i / x.n1
  w64 (at_ memb 60 + at_ (j / x.n2) 31 + at_ (j % x.n2) 15 + i % x.n1)
/-- The image of row i as the hub writes it. -/
def newImage (q : Nat) (x : Launch) (i : Nat) : Image :=
  let im := x.images[i]?
  let base := match im with
    | none => Image.init
    | some ws => (List.range 128).foldl (fun (m : Image) k =>
        if k = 8 ∨ 33 ≤ k then imgSet m k (nth ws k 0) else m) Image.init
  let pc := match im with | some ws => if nth ws 1 0 = 0 then x.entry else nth ws 1 0 | none => x.entry
  let preds := match im with | some ws => bits (nth ws 2 0) 0 16 | none => 0
  imgSet (imgSet (imgSet (imgSet base 1 pc) 2 (w64 (at_ x.priv 16 + preds))) 3 (identityWord q x i)) 4 (domainWord x i)
/-- A row enters the bank of its executor READY, or the cellar PARKED (R381); none when neither has room. -/
def placeRow (s : State) (r : RowId) (e : Nat) (im : Image) : Option State :=
  match (if bankTakes s r.part e then freeRow s e else none), freeCell s r.part with
  | some pr, _ =>
    let s := setRowEntry { s with rows := mapSet s.rows pr im } r (bankEntry pr)
    some (makeReady (notePreempt s pr) pr)
  | none, some k =>
    let im := imgSet (imgSet im 0 (w64 (at_ stParked 48))) 15 (w64 (at_ stReady 44))
    let s := storeImage s r.part (cellBase (part s r.part) + 1024 * k) im
    some (noteParked (setRowEntry s r (cellEntry k (2048 * e))) r true)
  | none, none => none
/-- The clearing before the first row of a host-queued launch on a cluster (R446). -/
def clearForHost (s : State) (x : Launch) (e : Nat) : State × Launch :=
  if fromHost x.source && !isCtl e && !x.cleared.contains (clusterOf e) then
    (acquireClear s (clusterOf e) false fun _ => false, { x with cleared := clusterOf e :: x.cleared })
  else (s, x)
/-- The next row of a launch that a die is to create: the lowest index that is not made. -/
def nextRow (x : Launch) (die : Nat) : Option Nat :=
  (List.range x.rows).find? fun i => dieOf (nth x.place i 0) == die && !x.made.contains i
/-- ROW_CREATE: one row; while neither bank nor cellar has room, creation stops until one frees. -/
def execRowCreate (q launch die : Nat) (s : State) : Host.Outcome State Fault Refusal :=
  .next (match findLaunch s q launch with
    | none => s
    | some x =>
      match nextRow x die with
      | none => s
      | some i =>
        let e := nth x.place i 0
        let (s, x) := clearForHost s x e
        match placeRow s ⟨q, x.base + i⟩ e (newImage q x i) with
        | some s => send (putLaunch s q { x with made := i :: x.made }) (.rowCreate q launch die)
        | none => send (putLaunch s q x) (.rowCreate q launch die))

end Sys2Proof.Machine
end

