-- ==== Sys2Proof/Machine/Moves.lean ====
section
/-!
DEFINITION. The operations of PG_CTL: pins, migration, RETIRE and SPUNMAP (R77, R410 to R413).
-/

namespace Sys2Proof.Machine

/-- PG_CTL's operation ends (R410). -/
def pageAnswer (s : State) (q res : Nat) : State :=
  setPart s q { part s q with pgBusy := false, pgRes := BitVec.ofNat 2 res }
/-- PAGE lies in the partition's memory. -/
def ownPage (s : State) (q page : Nat) : Bool := isFlat (part s q) (65536 * page) || inTier (part s q) (65536 * page)
def pageLines (page : Nat) : List Nat := (List.range 512).map (512 * page + ·)
def dline (s : State) (line : Nat) : DLine := mapGet s.dlines line DLine.init
def isPinned (s : State) (line : Nat) : Bool := (mapGet? s.dlines line).any fun d => d.pin != 0

/-! ### Pins (R77, R410) -/

/-- Pinned ways of the set of a line in its home slice, lines of a page counted as pinned. -/
def pinnedWays (s : State) (page line : Nat) : Nat :=
  (s.dlines.filter fun x => x.2.pin != 0 && x.1 / 512 != page && sameSet s 0 x.1 line).length +
    ((pageLines page).filter fun l => sameSet s 0 l line).length
/-- A line is allocated at its home, as a normal read does, and pinned. -/
def pinLine (s : State) (q line kind : Nat) : State :=
  let s := readArray (tierEnsure s q (128 * line)) q (128 * line) 128 .norm
  { s with dlines := mapSet s.dlines line { dline s line with pin := kind } }
/-- PIN and PINP: all 512 lines, or none when a set would pass 8 pinned ways; a unit of the tier that is being filled is waited for
(R72). -/
def pinPage (s : State) (q page kind : Nat) (again : Msg) : State :=
  if !ownPage s q page then pageAnswer s q 2
  else if (pageLines page).any fun l => 8 < pinnedWays s page l then pageAnswer s q 1
  else if !(pageLines page).all fun l => tierTakes s (128 * l) then sendAgain s again
  else pageAnswer ((pageLines page).foldl (fun s l => pinLine s q l kind) s) q 0
def execPin (q page : Nat) (s : State) : Host.Outcome State Fault Refusal := .next (pinPage s q page 1 (.pin q page))
def execPinp (q page : Nat) (s : State) : Host.Outcome State Fault Refusal := .next (pinPage s q page 2 (.pinp q page))
/-- UNPIN releases both kinds. -/
def execUnpin (q page : Nat) (s : State) : Host.Outcome State Fault Refusal :=
  .next (if !ownPage s q page then pageAnswer s q 2
    else pageAnswer { s with dlines := (s.dlines.map fun (l, d) => (l, if l / 512 = page then { d with pin := 0 } else d)).filter fun x =>
        !(x.2.gone && x.2.pin == 0) } q 0)

/-! ### What holds a physical extent -/

/-- A run list has bytes at places that a test names. -/
def runsHit (p : Place → Nat → Bool) (l : List Run) : Bool := l.any fun r => p r.place r.len
/-- Queued copy commands and running nodes whose extents a test names (R411, R413). -/
def extentsHeld (s : State) (p : Place → Nat → Bool) : Bool :=
  (s.clusters.any fun (_, x) => (x.cmds ++ x.heldCmds).any fun c => runsHit p (c.dst ++ c.src ++ c.idx)) ||
    s.hubs.any fun (_, h) => h.nodes.any fun n =>
      (n.state == 3 || n.state == 6) && runsHit p (n.runsA ++ n.runsB ++ n.runsC ++ n.ctr)
def inPage (page : Nat) (p : Place) (n : Nat) : Bool :=
  match p with
  | .mem pa => overlap pa n (65536 * page) 65536
  | _ => false
def inSpadPage (c off : Nat) (p : Place) (n : Nat) : Bool :=
  match p with
  | .spad k o => k == c && overlap o n off 65536
  | _ => false

/-! ### MIGRATE and RETIRE (R411, R412) -/

/-- Where the leaf that PG_PTE names lies, and the leaf. -/
def leafAddr (s : State) (q : Nat) : Nat := (part s q).pgPte.toNat
def pgLeaf (s : State) (q : Nat) : Word := dwordNow s (leafAddr s q)
/-- PAGE and the leaf lie in the partition's own memory (R410). -/
def pageValid (s : State) (q page : Nat) : Bool := ownPage s q page && ownPage s q (leafAddr s q / 65536)
/-- The leaf maps PAGE: V, LEAF, its FRAME, and SPM as the operation needs. -/
def leafMatches (e : Word) (page : Nat) (spm : Bool) : Bool :=
  bit e 63 && bit e 62 && leafFrame e == 65536 * page && leafSpm e == spm
/-- The page holds the counter of a launch that has not completed. -/
def holdsCounter (s : State) (page : Nat) : Bool :=
  s.launches.any fun (_, l) => l.any fun x => runsHit (inPage page) x.counter.toList
/-- What MIGRATE is refused for with BUSY (R411): a pin, a cask class (R134), a counter. -/
def migrationBusy (s : State) (q page : Nat) : Bool :=
  ((pageLines page).any fun l => isPinned s l) || caskPage s page
    || (leafMatches (pgLeaf s q) page false && 2 ≤ leafClass (pgLeaf s q)) || holdsCounter s page
/-- The translations that a leaf entry gave are invalidated as by tlbinv (R370). -/
def dropLeaf (s : State) (q pte : Nat) : State := invalidateRange s q false fun t => t.pte == pte
def writeLeaf (s : State) (q pte : Nat) (e : Word) : State := hubWriteDword s q taskHub pte e (block s pte).key.toNat
/-- Cells of a memory moved from one range to another. -/
def moveCells (m : Memory) (src dst n : Nat) : Memory :=
  (m.filter fun c => inRange c.1 src n).foldl (fun m c => memWrite m (c.1 - src + dst) c.2)
    (m.filter fun c => !inRange c.1 dst n)
/-- The lines of a page leave the data array without a write to the stack. -/
def forgetLines (s : State) (page : Nat) : State :=
  { s with dlines := s.dlines.filterMap fun (l, d) => if l / 512 = page then (emptied d).map fun d => (l, d) else some (l, d) }
/-- Step 5: the page's bytes and its blocks' KEY and P, read at the old homes and written to the stack. -/
def copyPage (s : State) (q src dst : Nat) : State :=
  let s := checkRange s q src 65536
  let s := (List.range 1024).foldl (fun s i =>
    let s := settle s (src + 64 * i)
    setBlock s (dst + 64 * i) { block s (src + 64 * i) with d := false, v := false, tag := 0 }) s
  forgetLines (forgetLines { s with mem := moveCells s.mem src dst 65536 } (src / 65536)) (dst / 65536)
/-- Step 4: the done-table entries of the page go to the destination's home slices. -/
def moveDone (s : State) (q page dst : Nat) : State :=
  let mine := fun d : DoneEnt => inRange d.addr (65536 * page) 65536 && (d.row.part == q)
  let all := s.done.flatMap fun (k, l) => if k < 256 then l.filter mine else []
  let s := { s with done := s.done.map fun (k, l) => (k, if k < 256 then l.filter fun d => !mine d else l) }
  all.foldl (fun s d =>
    let a := d.addr - 65536 * page + dst
    doneAdd s (homeOf (part s q) a) { d with addr := a }) s
/-- Steps 4 to 6. -/
def finishMigration (s : State) (m : Migration) : State :=
  let q := m.part
  let dst := 65536 * m.dst
  let s := moveDone (quiesce s q m.page) q m.page dst
  let s := { s with rehomed := (m.page, m.dst) :: s.rehomed, moves := s.moves.filter fun m => m.part != q }
  let s := copyPage (quiesce s q m.dst) q (65536 * m.page) dst
  pageAnswer (writeLeaf s q m.pte (putBits (putBits (dwordNow s m.pte) 49 1 0) 16 30 m.dst)) q 0
/-- MIGRATE: refusals, MV and the invalidation; then, once nothing holds the page, the move itself. The leaf is read when its line is
free (R85). -/
def execMigrate (q page : Nat) (s : State) : Host.Outcome State Fault Refusal :=
  let again := Msg.migrate q page
  .next (match s.moves.find? fun m => m.part == q && m.page == page with
    | some m =>
      if extentsHeld s (inPage page) || !pageQuiet s page then send s again
      else whenFree s taskHub [(m.pte, 8), (65536 * m.dst, 65536)] again fun s => finishMigration s m
    | none =>
      if !pageValid s q page then pageAnswer s q 2
      else whenFree s taskHub [(leafAddr s q, 8)] again fun s =>
        let pte := leafAddr s q
        let dst := (part s q).pgDst.toNat / 65536
        if migrationBusy s q page then pageAnswer s q 1
        else if !leafMatches (pgLeaf s q) page false || !inFlat (part s q) (65536 * dst) 65536 then pageAnswer s q 2
        else
          let s := dropLeaf (writeLeaf s q pte (putBits (pgLeaf s q) 49 1 1)) q pte
          send { s with moves := s.moves ++ [⟨q, page, dst, pte⟩] } again)
/-- RETIRE: the old frame no longer refuses with REHOME. -/
def execRetire (q page : Nat) (s : State) : Host.Outcome State Fault Refusal :=
  .next (if ownPage s q page && s.rehomed.any fun x => x.1 == page then
      pageAnswer { s with rehomed := s.rehomed.filter fun x => x.1 != page } q 0
    else pageAnswer s q 2)

/-! ### SPUNMAP (R413) -/

/-- Where a leaf with SPM places its page: cluster and offset. -/
def spadPlace (e : Word) : Nat × Nat := (bits e 11 5, 65536 * bits e 4 7)
/-- SPUNMAP: V is cleared and the translations invalidated; once the accesses that were translated have been made, the
64 KiB go back to the frame. -/
def execSpunmap (q page : Nat) (s : State) : Host.Outcome State Fault Refusal :=
  let again := Msg.spunmap q page
  .next (match s.unmaps.find? fun u => u.part == q && u.page == page with
    | some u =>
      let (c, off) := spadPlace u.leaf
      if extentsHeld s (inSpadPage c off) || !pageQuiet s page then send s again
      else whenFree s taskHub [(65536 * page, 65536)] again fun s =>
        let s := hubWrite s q taskHub (65536 * page) (spadBytes s c off 65536) (leafKey u.leaf)
        pageAnswer { s with unmaps := s.unmaps.filter (· != u) } q 0
    | none =>
      if !pageValid s q page then pageAnswer s q 2
      else whenFree s taskHub [(leafAddr s q, 8)] again fun s =>
        let e := pgLeaf s q
        let pte := leafAddr s q
        if !leafMatches e page true then pageAnswer s q 2
        else
          let s := dropLeaf (writeLeaf s q pte (putBits e 63 1 0)) q pte
          send { s with unmaps := s.unmaps ++ [⟨q, page, e⟩] } again)

end Sys2Proof.Machine
end

