-- ==== Sys2Proof/Machine/Preempt.lean ====
section
/-!
DEFINITION. Pre-emption: requests, the forced freeze, streaming out, restoring, REMOVE and ADD, and the slice table
(R389, R390, R416 to R418, R427 to R432).
-/

namespace Sys2Proof.Machine

/-! ### Requests (R416, R417) -/

def execsOf (c : Nat) : List Nat := (List.range 16).map (16 * c + ·)
/-- The bank rows of a partition on a cluster, in increasing physical row number. -/
def rowsOn (s : State) (q c : Nat) : List Nat :=
  (s.rows.filter fun x => execOf x.1 / 16 == c && x.1 < 512 * 2048 && (rowId s x.1).part == q).map (·.1)
/-- A pre-emption request on cluster c for partition q; a second one merges with the first (R417, R433). Answers whether
it stands: a request for another partition is waited for. -/
def raiseRequest (s : State) (q c : Nat) (remove slice : Bool) : State × Bool :=
  let x := cluster s c
  match x.pre with
  | some p => if p.part = q then (setCluster s c { x with pre := some { p with remove := p.remove || remove } }, true)
              else (s, false)
  | none =>
    let s := setCluster s c { x with pre := some ⟨q, 1, [], remove, slice⟩ }
    let s := (execsOf c).foldl (fun s e => setExec s e { exec' s e with preCyc := 0 }) s
    ((rowsOn s q c).foldl (fun s pr => arriveWord s (rowId s pr) (.bank pr) 10 (rowWord s pr 10 ||| 8#64)) s, true)
/-- STAGE of PRE_CTL: that of the cluster of CMASK which is least advanced. -/
def stageNow (s : State) : Nat :=
  (setBits 32 s.hub.preMask.toNat).foldl (fun m c => match (cluster s c).pre with
    | some x => if x.part = s.hub.prePart.toNat then min m (if x.stage = 4 then 1 else x.stage) else m
    | none => m) 3
/-- A cluster of CMASK still has the request. -/
def requestsStand (s : State) : Bool :=
  (setBits 32 s.hub.preMask.toNat).any fun c => (cluster s c).pre.any fun x => x.part == s.hub.prePart.toNat
/-- PRE_CTL after a cluster has gone on: BUSY ends when EVICT or REMOVE is complete on every cluster of CMASK. -/
def preProgress (s : State) : State :=
  if s.hub.preBusy && (s.hub.preOp == 1 || s.hub.preOp == 3) then
    if requestsStand s || s.agenda.any (fun m => match m with | .evict _ _ => true | .remove _ _ => true | _ => false) then
      { s with hub := { s.hub with preStage := BitVec.ofNat 3 (stageNow s) } }
    else { s with hub := { s.hub with preBusy := false, preStage := 0 } }
  else s
/-- The command of PRE_CTL with OP 2 or 4 is complete. -/
def preDone (s : State) (op : BitVec 3) : State :=
  if s.hub.preBusy && s.hub.preOp == op then { s with hub := { s.hub with preBusy := false, preStage := 0 } } else s
/-- RESTORE of PRE_CTL is complete: none of the clusters of CMASK waits for it (R416). -/
def restoreDone (s : State) : State :=
  if s.agenda.any fun m => match m with | .restore q m => q == s.hub.prePart.toNat && m &&& s.hub.preMask != 0 | _ => false then s
  else preDone s 2
/-- Requests on every cluster of a mask; those that have to wait come again. -/
def requestAll (s : State) (q : Nat) (cmask : BitVec 32) (rm : Bool) (again : BitVec 32 → Msg) : State :=
  let (s, left) := (setBits 32 cmask.toNat).foldl (fun (s, left) c =>
    let (s, ok) := raiseRequest s q c rm false
    (s, if ok then left else left + 2 ^ c)) (s, 0)
  preProgress (if left = 0 then s else send s (again (BitVec.ofNat 32 left)))
/-- EVICT (R428). -/
def execEvict (q : Nat) (cmask : BitVec 32) (s : State) : Host.Outcome State Fault Refusal :=
  .next (requestAll s q cmask false fun m => .evict q m)
/-- REMOVE: an eviction that takes the further steps of R432. -/
def execRemove (q : Nat) (cmask : BitVec 32) (s : State) : Host.Outcome State Fault Refusal :=
  .next (requestAll s q cmask true fun m => .remove q m)
def tilesOf (c : Nat) : List Nat := [4 * c, 4 * c + 1, 4 * c + 2, 4 * c + 3]
/-- An engine whose reservation count stayed with the partition when its cluster left goes on with it (R301, R432); its stores stay in
the save slot, for q's kernel to read. -/
def rejoinTile (s : State) (q e : Nat) : State :=
  match mapGet? s.saves (tileKey q e) with
  | some x => setTile { s with saves := mapDel s.saves (tileKey q e) } e
      { tile s e with resv := x.tile.resv, parked := x.tile.parked }
  | none => s
/-- ADD (R432): free clusters join the partition, once no sector of it is being read from the tier (R72). -/
def execAddCluster (q : Nat) (cmask : BitVec 32) (s : State) : Host.Outcome State Fault Refusal :=
  let p := part s q
  .next (if tierBusy s q then send s (.addCluster q cmask)
    else
      let s := setPart s q { p with pdef0 := p.pdef0 ||| w64 (at_ cmask.toNat 32) }
      preDone (((setBits 32 cmask.toNat).flatMap tilesOf).foldl (fun s e => rejoinTile s q e) s) 4)

/-! ### The forced freeze (R418) -/

def setPre (s : State) (c : Nat) (x : PreReq) : State := setCluster s c { cluster s c with pre := some x }
/-- The cooperative phase of a request is over: no row of q there is OPEN, READY or SWITCHWAIT, or PYIELD cycles have
passed. -/
def phaseOver (s : State) (q c : Nat) : Bool :=
  ((rowsOn s q c).all fun pr => let st := rowState s pr; st != stOpen && st != stReady && st != stWait)
    || (execsOf c).any fun e => decide ((part s q).pyield.toNat ≤ (exec' s e).preCyc)
/-- Every row of q in the banks of c is FROZEN, or PARKED and waits for a cellar image. -/
def allFrozen (s : State) (q c : Nat) : Bool :=
  (rowsOn s q c).all fun pr => rowState s pr == stFrozen || rowState s pr == stParked
/-- FREEZE reaches each row that still goes on; one in a transfer takes it when the transfer ends (R202), and all of them once no sector
is being read from the tier (R72). -/
def freezeRows (s : State) (q c : Nat) : State :=
  (rowsOn s q c).foldl (fun s pr =>
    if rowState s pr = stFrozen || rowState s pr = stParked || inTransfer s (.bank pr) || tierBusy s q then s
    else freezeFor s (rowId s pr) c) s
/-- FORCED_FREEZE: stage 4 while rows are being frozen, then 2, once no sector is being read from the tier (R72). -/
def execForcedFreeze (cl : Nat) (s : State) : Host.Outcome State Fault Refusal :=
  .next (match (cluster s cl).pre with
    | some x =>
      if x.stage = 4 || (x.stage = 1 && phaseOver s x.part cl) then
        let s := freezeRows (setPre s cl { x with stage := 4 }) x.part cl
        if allFrozen s x.part cl && !tierBusy s x.part then
          match (cluster s cl).pre with
          | some y => preProgress (setPre s cl { y with stage := 2 })
          | none => s
        else s
      else s
    | none => s)

/-! ### The save area (R427, log 12) -/

def saveSlot (s : State) (q c : Nat) : Nat := saveBase (part s q) + 2 ^ 25 * c
def evictList (s : State) (q c : Nat) : Nat := saveSlot s q c + 24 * 2 ^ 20
def listCount (s : State) (q c : Nat) : Nat := (memWord s (evictList s q c)).toNat
def listWord (s : State) (q c i : Nat) : Nat := leNat (homeBytes s (evictList s q c + 64 + 4 * i) 4)
/-- A row's word is appended to the eviction list: LROW, and bit 31 when the eviction's FREEZE froze it. -/
def appendList (s : State) (q c lrow : Nat) (mine : Bool) : State :=
  let a := evictList s q c
  let n := listCount s q c
  setMemWord (ownStore s (a + 64 + 4 * n) (leBytes 4 (lrow + if mine then 2 ^ 31 else 0))) a (w64 (n + 1))
/-- Cells of one memory placed in another at a range. -/
def placeCells (m src : Memory) (lo dst n : Nat) : Memory :=
  (src.filter fun c => inRange c.1 lo n).foldl (fun m c => memWrite m (c.1 - lo + dst) c.2)
    (m.filter fun c => !inRange c.1 dst n)
/-- Whole blocks of a save slot are written with cells of another memory, under key slot A (R65, R427, log 67). -/
def writeSaved (s : State) (q : Nat) (src : Memory) (dst n : Nat) : State :=
  let k := BitVec.ofNat 6 (keyA s q)
  let b := { Block.init with key := k, gen := keyGen s k }
  let lo := dst / 64
  let new := if b = Block.init then [] else (List.range (n / 64)).map fun i => (lo + i, b)
  { s with mem := placeCells s.mem src 0 dst n,
           blocks := (s.blocks.filter fun x => x.1 < lo) ++ new ++ s.blocks.filter fun x => lo + n / 64 ≤ x.1 }
/-- A block of a save slot was written under an earlier key of its slot (R67). -/
def staleSaved (s : State) (lo n : Nat) : Bool :=
  let mine := s.blocks.filter fun x => inRange x.1 (lo / 64) (n / 64)
  (mine.any fun x => x.2.gen != keyGen s x.2.key) || (keyGen s 0 != 0 && decide (mine.length < n / 64))
/-- What a save slot reads as: its cells, when none of its blocks is stale; the range begins at lo. -/
def savedCells (s : State) (lo n : Nat) : Memory :=
  if staleSaved s lo n then memStore [] lo (homeBytes s lo n) else s.mem
def saveSpad (s : State) (q c : Nat) : State := writeSaved s q (spad s c) (saveSlot s q c) (2 ^ 23)
def loadSpad (s : State) (q c : Nat) : State :=
  let s := checkBulk s q (saveSlot s q c) (2 ^ 23)
  setSpad s c (placeCells (spad s c) (savedCells s (saveSlot s q c) (2 ^ 23)) (saveSlot s q c) 0 (2 ^ 23))
/-- Where an engine's weight buffer is saved; its accumulator store follows 2 MiB on (R427). -/
def tileSlot (s : State) (q e : Nat) : Nat := saveSlot s q (e / 4) + 2 ^ 23 + 2 ^ 22 * (e % 4)
/-- The bytes of one weight load: R302 does not say where in its slots a load keeps its parts, so they are free values (log 26). -/
def weightBytes (seed h : Nat) (x : WSlot) : List Byte :=
  (List.range (loadSize x.cols / 8)).flatMap fun i => leBytes 8 (Config.freeWord 0x302 (seed + 8192 * h + i)).toNat
/-- The bytes of a weight buffer's loads. -/
def weightCells (seed : Nat) (t : Tile) : Memory :=
  t.wbuf.foldl (fun m (h, x) => memStore m (65536 * h) (weightBytes seed h x)) []
/-- A weight buffer read back from cells at lo: a load whose bytes are no longer those that were saved holds values that nothing gives
(log 26). -/
def weightsFrom (m : Memory) (lo seed : Nat) (l : NMap WSlot) : NMap WSlot :=
  l.map fun (h, x) =>
    let b := weightBytes seed h x
    (h, { x with hurt := x.hurt || decide (memBytes m (lo + 65536 * h) b.length ≠ b) })
/-- The bytes of an accumulator store: element (i, j) in bytes 4 × (240 × i + j) to + 3 (R304). -/
def accCells (t : Tile) : Memory :=
  t.acc.flatMap fun (k, w) => ((wordBytes w).zipIdx.filter fun b => b.1 != memDefault).map fun b => (4 * k + b.2, b.1)
def accFrom (m : Memory) (lo : Nat) : NMap W32 :=
  (m.filter fun c => inRange c.1 lo (2 ^ 21)).foldl (fun a c =>
    let k := (c.1 - lo) / 4
    mapSet a k (mapGet a k 0 ||| BitVec.ofNat 32 (c.2.toNat * 2 ^ (8 * ((c.1 - lo) % 4))))) []
/-- Step 4 for the engines: each leaves its reservation count with the partition, and one with a nonzero count or a parked node
its stores too (R428). A partition that is evicted already has left its count there. -/
def saveTile (s : State) (q e : Nat) : State :=
  if (mapGet? s.saves (tileKey q e)).isSome then s else
  let t := tile s e
  let full := t.resv != 0 || t.parked.isSome
  let seed := s.count
  let s := if full then
      let s := writeSaved s q (weightCells s.count t) (tileSlot s q e) (2 ^ 21)
      writeSaved { s with count := s.count + 2 ^ 18 } q (accCells t) (tileSlot s q e + 2 ^ 21) (2 ^ 21)
    else s
  setTile { s with saves := mapSet s.saves (tileKey q e) ⟨full, t, seed⟩ } e { t with resv := 0, parked := none }
def saveTiles (s : State) (q c : Nat) : State := (tilesOf c).foldl (fun s e => saveTile s q e) s
/-- Step 1 of R430 for an engine. -/
def loadTile (s : State) (q e : Nat) : State :=
  match mapGet? s.saves (tileKey q e) with
  | some x =>
    let lo := tileSlot s q e
    let s := if x.full then checkBulk s q lo (2 ^ 22) else s
    let t := if x.full then
        { x.tile with wbuf := weightsFrom (savedCells s lo (2 ^ 21)) lo x.seed x.tile.wbuf,
                      acc := accFrom (savedCells s (lo + 2 ^ 21) (2 ^ 21)) (lo + 2 ^ 21) }
      else { tile s e with resv := x.tile.resv, parked := x.tile.parked }
    setTile { s with saves := mapDel s.saves (tileKey q e) } e t
  | none => s
def loadTiles (s : State) (q c : Nat) : State := (tilesOf c).foldl (fun s e => loadTile s q e) s

/-! ### Streaming out (R428) -/

/-- What the steps of R428 wait for: q's RUNNING nodes on the cluster's engines, its copy engine among them, the commands of q's claims,
registrations of the cluster cache on their way, part stores and atomics that wait for a line, and sectors that are being read from the
tier (R72). -/
def streamReady (s : State) (q c : Nat) : Bool :=
  !(s.hubs.any fun (_, h) => h.nodes.any fun n =>
      n.part == q && n.state == 3 && n.unit.any fun e => if tileKind (nKind n) then e / 4 == c else nKind n == 6 && e == c)
    && ([2 * c, 2 * c + 1].all fun p => (pool s p).claims.all fun x => x.row.part != q || x.cmds.isEmpty)
    && !(s.regs.any fun p => p.agent == c)
    && !(s.misses.any fun m => m.agent == c && m.ops.any fun o => o.1 || isAtomic o) && !tierBusy s q
/-- Step 2 for the lane pools: LANES 0 and RECL 1 in each claim of q. -/
def reclaimAll (s : State) (q c : Nat) : State :=
  [2 * c, 2 * c + 1].foldl (fun s p =>
    ((pool s p).claims.filter fun x => x.row.part == q).foldl (fun s x => reclaim s p x) s) s
/-- A run list has bytes in a cluster's scratchpad. -/
def inSpad (c : Nat) (l : List Run) : Bool := runsHit (inSpadRange c) l
where
  inSpadRange (c : Nat) (p : Place) (_ : Nat) : Bool := match p with | .spad k _ => k == c | _ => false
/-- The held-command records of the save slot: 64 bytes each, of which R427 does not give the contents (free values, log 12). Sixteen
queues of 32 entries fill the 512 places (R99). -/
def saveHeldCmds (s : State) (q c n : Nat) : State :=
  let cells := memStore [] 0 ((List.range n).flatMap fun i => freeBlock (s.count + 8 * i))
  writeSaved { s with count := s.count + 8 * n } q cells (evictList s q c + 192 * 2 ^ 10) (64 * n)
/-- Step 3: q's commands with an extent in the scratchpad stop at their step boundary; what remains of each goes into the held-command
records (R427). -/
def holdCommands (s : State) (q c : Nat) : State :=
  let x := cluster s c
  let mine := fun k : CopyCmd => k.row.part == q && inSpad c (k.dst ++ k.src ++ k.idx)
  let stopped := x.heldCmds ++ x.cmds.filter mine
  let s := setCluster s c { x with cmds := x.cmds.filter (fun k => !mine k), heldCmds := stopped }
  saveHeldCmds s q c (stopped.filter fun k => k.row.part == q).length
/-- Step 5 for one row: its image goes to the cellar, and its identifier into the list; none when no image is free. -/
def streamRow (s : State) (q c pr : Nat) : Option State :=
  (freeCell s q).map fun k =>
    let r := rowId s pr
    let froze := (cluster s c).pre.any fun x => x.froze.contains r
    let s := if rowState s pr = stFrozen && !froze then setLocBits s (.bank pr) 15 33 1 1 else s
    let s := leaveBank (setRowState s pr stParked) pr
    appendList (noteParked (toCellar s r pr k (execOf pr)) r true) q c r.lrow froze
/-- Step 5: rows in increasing physical row number, as long as the cellar has room. -/
def streamRows (s : State) (q c : Nat) : State :=
  (rowsOn s q c).foldl (fun (s : State × Bool) pr =>
    if s.2 then (match streamRow s.1 q c pr with | some t => (t, true) | none => (s.1, false)) else s) (s, true) |>.1
/-- Step 6: every registered word goes home and every line leaves the cluster cache. -/
def emptyCache (s : State) (c : Nat) : State :=
  let s := (s.caches.filter fun (k, _) => k / 2 ^ 40 == c).foldl (fun s (k, _) =>
    dropCline (recallNow s (k % 2 ^ 40) c (BitVec.allOnes 32)) c (k % 2 ^ 40)) s
  { s with misses := s.misses.map fun m => if m.agent = c then { m with cleared := true } else m }

/-! ### REMOVE and the slice table -/

/-- Steps 1 and 2 of R432: the streamed rows are named to executors of the remaining clusters in turn; the cluster is
released. -/
def removeCluster (s : State) (q c : Nat) : State :=
  let gone := (setBits 32 s.hub.preMask.toNat) ++ [c]
  let es := ((clustersOf (part s q)).filter fun k => !gone.contains k).flatMap execsOf
  let s := (List.range (listCount s q c)).foldl (fun s i =>
    let r : RowId := ⟨q, listWord s q c i % 2 ^ 24⟩
    match locate s r, es[i % es.length]? with
    | .cellar pa, some e => setRowEntry (owe s r (.cellar pa) (16 * c) e) r (cellEntry (bits (rowEntry s r) 32 24) (2048 * e))
    | _, _ => s) s
  let p := part s q
  let s := setPart s q { p with pdef0 := p.pdef0 &&& ~~~(w64 (2 ^ (32 + c))) }
  setCluster s c { cluster s c with evicted := (cluster s c).evicted.filter (· != q) }
/-- The partition resident on a cluster: the one restored there last, else the first enabled one that it is assigned to
and has not been evicted from. -/
def residentOn (s : State) (c : Nat) : Option Nat :=
  match (cluster s c).resident with
  | some q => if (clustersOf (part s q)).contains c then some q else none
  | none => (s.parts.find? fun (q, p) => p.en && (clustersOf p).contains c && !(cluster s c).evicted.contains q).map (·.1)
/-- The partition of PSET that comes to a cluster. -/
def incoming (s : State) (pset : BitVec 32) (c : Nat) : Option Nat :=
  (setBits 32 pset.toNat).find? fun q => (clustersOf (part s q)).contains c
/-- PSET of the entry acted on last. -/
def lastPset (s : State) : BitVec 32 := (mapGet s.hub.gsTab ((s.hub.gsRidx - 1).toNat) ⟨0, 0⟩).pset
/-- The next entry is pending and its instant has come (log 33). -/
def entryDue (s : State) : Bool :=
  (s.hub.gsRidx != s.hub.gsWidx || s.hub.gsFull) && decide ((mapGet s.hub.gsTab s.hub.gsRidx.toNat ⟨0, 0⟩).inst.toNat ≤ s.time)
/-- A slice entry's evictions have ended on every cluster: BUSY clears; an entry whose instant came meanwhile is counted
late (R390, R464). -/
def sliceProgress (s : State) : State :=
  if s.hub.gsBusy && s.hub.gsWait.isEmpty && !(s.clusters.any fun (_, x) => x.pre.any (·.slice)) then
    let s := { s with hub := { s.hub with gsBusy := false } }
    if s.hub.gsEn && entryDue s then ltAdd s 0x201 1 else s
  else s
/-- An entry on a cluster whose resident partition is outside PSET, and for which a partition of PSET comes: the request is raised; where
another partition's stands, it is waited for (R390). -/
def sliceOn (s : State) (pset : BitVec 32) (c : Nat) : State :=
  match residentOn s c, incoming s pset c with
  | some q, some _ =>
    if pset.getLsbD q then s
    else
      let (s, ok) := raiseRequest s q c false true
      if ok then
        let s := setCluster s c { cluster s c with pre := (cluster s c).pre.map fun x => { x with slice := true } }
        { s with hub := { s.hub with gsBusy := true } }
      else { s with hub := { s.hub with gsBusy := true, gsWait := s.hub.gsWait ++ [c] } }
  | _, _ => s
/-- A slice entry that waited for the eviction of a cluster takes its turn there. -/
def sliceNext (s : State) (c : Nat) : State :=
  if s.hub.gsWait.contains c then
    sliceOn { s with hub := { s.hub with gsWait := s.hub.gsWait.filter (· != c) } } (lastPset s) c
  else s
/-- Step 7: the cluster is free for its next partition; a halted one is halted no longer (R459, log 37); the incoming
partition of a slice entry is brought in (R390). -/
def endEviction (s : State) (c : Nat) (x : PreReq) : State :=
  let y := cluster s c
  let s := setCluster s c { y with pre := none, evicted := x.part :: y.evicted.filter (· != x.part), resident := none,
                                   halted := false, stepping := false }
  let s := if x.remove then removeCluster s x.part c else s
  let waited := s.hub.gsWait.contains c
  let s := sliceNext s c
  let s := if (x.slice || waited) && (cluster s c).pre.isNone then
      (match incoming s (lastPset s) c with
        | some q => send s (.restore q (BitVec.ofNat 32 (2 ^ c)))
        | none => s)
    else s
  sliceProgress (preProgress s)
/-- EVICTION_STREAMING: the steps of R428 with STAGE 3; what has to wait goes on at the next. -/
def execEvictionStreaming (cl : Nat) (s : State) : Host.Outcome State Fault Refusal :=
  .next (match (cluster s cl).pre with
    | some x =>
      if x.stage = 2 then
        let s := setMemWord s (evictList s x.part cl) 0
        preProgress (setPre s cl { x with stage := 3 })
      else if x.stage = 3 && streamReady s x.part cl then
        let q := x.part
        let s := saveTiles (saveSpad (holdCommands (reclaimAll s q cl) q cl) q cl) q cl
        let s := streamRows s q cl
        if (rowsOn s q cl).isEmpty then endEviction (emptyCache s cl) cl x else s
      else s
    | none => s)

/-! ### Restoring (R430) -/

/-- Step 2: the held commands of q resume in their queues. -/
def releaseHeldCmds (s : State) (q c : Nat) : State :=
  let x := cluster s c
  let mine := x.heldCmds.filter fun k => k.row.part == q
  let s := setCluster s c { x with heldCmds := x.heldCmds.filter (fun k => k.row.part != q), cmds := x.cmds ++ mine }
  sendAll s (mine.map fun k => .copyStep c k.id)
/-- Step 3 for a word of the list: a row that the row table still assigns to the cluster comes into its bank and resumes,
or is FROZEN when the eviction had found it so. Answers whether it need not wait for a free bank row. -/
def restoreRow (s : State) (q c w : Nat) : State × Bool :=
  let r : RowId := ⟨q, w % 2 ^ 24⟩
  let e := execOf (entryRow (rowEntry s r))
  match locate s r with
  | .cellar pa =>
    if e / 16 ≠ c || isCtl e then (s, true)
    else match freeRow s e with
      | none => (s, false)
      | some pr =>
        let s := cellarToBank s r pr pa
        if w < 2 ^ 31 then (comeBack (setLocBits s (.bank pr) 15 33 1 1) r pr, true)
        else
          let s := noteParked (dropRetries (setLocBits s (.bank pr) 15 33 1 0) r) r false
          (thawState (resumeSlots s pr) pr, true)
  | _ => (s, true)
/-- The steps of R430 on a cluster; steps 1 and 2 are taken once, step 3 goes on later for rows that find no free bank row. -/
def restoreCluster (s : State) (q c : Nat) : State × Bool :=
  let first := (cluster s c).evicted.contains q || (cluster s c).resident != some q
  let s := if first then releaseHeldCmds (loadTiles (loadSpad s q c) q c) q c else s
  let s := setCluster s c { cluster s c with evicted := (cluster s c).evicted.filter (· != q), resident := some q }
  (List.range (listCount s q c)).foldl (fun (s, ok) i =>
    let (s, o) := restoreRow s q c (listWord s q c i)
    (s, ok && o)) (s, true)
/-- RESTORE: a cluster on which a request stands is waited for. -/
def execRestore (q : Nat) (cmask : BitVec 32) (s : State) : Host.Outcome State Fault Refusal :=
  let (s, left) := (setBits 32 cmask.toNat).foldl (fun (s, left) c =>
    if (cluster s c).pre.isSome then (s, left + 2 ^ c)
    else
      let (s, ok) := restoreCluster s q c
      (s, if ok then left else left + 2 ^ c)) (s, 0)
  .next (if left = 0 then restoreDone s else send s (.restore q (BitVec.ofNat 32 left)))

/-! ### The slice table (R389, R390) -/

/-- SLICE_ENTRY: the next entry acts when its instant has come and no earlier one is BUSY. -/
def execSliceEntry (s : State) : Host.Outcome State Fault Refusal :=
  .next (if s.hub.gsEn && !s.hub.gsBusy && entryDue s then
      let pset := (mapGet s.hub.gsTab s.hub.gsRidx.toNat ⟨0, 0⟩).pset
      let s := { s with hub := { s.hub with gsRidx := s.hub.gsRidx + 1, gsFull := false } }
      (List.range 32).foldl (fun s c => sliceOn s pset c) s
    else s)

end Sys2Proof.Machine
end

