-- ==== Sys2Proof/Machine/Notation.lean ====
section
/-!
DEFINITION. The verbose notation that the device's translator reads (R455): symbols, numbers and expressions
(R9 to R11), registers and operands (R12, R13), mnemonics with their suffixes (R16 to R18), and the chain of words that a
line stands for (R14, R19 to R21).
-/

namespace Sys2Proof.Machine

/-! ### Characters and pieces of a line (R9, R10) -/

/-- Source text, one character a byte. -/
abbrev Chars := List Char
def isBlank (c : Char) : Bool := c == ' ' || c == '\t' || c == '\r'
def isSymStart (c : Char) : Bool := c.isAlpha || c == '_' || c == '.'
def isSymChar (c : Char) : Bool := c.isAlphanum || c == '_' || c == '.'
def trimChars (l : Chars) : Chars := ((l.dropWhile isBlank).reverse.dropWhile isBlank).reverse
/-- The pieces between characters of a kind. -/
def splitChars (p : Char → Bool) : Chars → List Chars
  | [] => [[]]
  | c :: l =>
    if p c then [] :: splitChars p l
    else match splitChars p l with
      | w :: r => (c :: w) :: r
      | [] => [[c]]
/-- Operands: the pieces between commas outside parentheses; none at all for blank text. -/
def splitArgs (l : Chars) : List Chars :=
  if (trimChars l).isEmpty then [] else (splitChars (· == ',') l).map trimChars
/-- The first word of a text and what follows it. -/
def firstWord (l : Chars) : String × Chars :=
  let l := trimChars l
  (String.ofList (l.takeWhile fun c => !isBlank c), trimChars (l.dropWhile fun c => !isBlank c))
/-- A statement without its comment. -/
def uncomment (l : Chars) : Chars := l.takeWhile (· != ';')
/-- The label of a line, if it has one, and the rest. -/
def splitLabel (l : Chars) : Option String × Chars :=
  let l := trimChars l
  let w := l.takeWhile isSymChar
  match w, l.drop w.length with
  | c :: _, ':' :: r => if isSymStart c then (some (String.ofList w), trimChars r) else (none, l)
  | _, _ => (none, l)

/-! ### Numbers and expressions (R11) -/

/-- The digits of a number in a base, none when one is out of place. -/
def digitsIn (base : Nat) (l : Chars) : Option Nat :=
  if l.isEmpty then none
  else l.foldl (fun n c =>
    let d := if c.isDigit then c.toNat - 48 else if 'a' ≤ c && c ≤ 'f' then c.toNat - 87
      else if 'A' ≤ c && c ≤ 'F' then c.toNat - 55 else 99
    n.bind fun n => if d < base then some (n * base + d) else none) (some 0)
/-- An integer literal without its sign; more than 64 bits are no literal (log 80). -/
def natLiteral (l : Chars) : Option Nat :=
  let v := match l with
    | '0' :: 'x' :: r => digitsIn 16 r
    | '0' :: 'b' :: r => digitsIn 2 r
    | _ => digitsIn 10 l
  v.bind fun n => if n < 2 ^ 64 then some n else none
/-- The tokens of an expression. -/
inductive ExTok where
  | num (n : Nat)
  | sym (s : String)
  | op (c : Char)
  deriving DecidableEq, Repr
/-- The tokens of a text; << and >> stand as the operators < and >. Fuel counts the characters. -/
def exTokens : Nat → Chars → Option (List ExTok)
  | 0, l => if l.isEmpty then some [] else none
  | _ + 1, [] => some []
  | f + 1, c :: l =>
    if isBlank c then exTokens f l
    else if isSymStart c then
      (exTokens f (l.dropWhile isSymChar)).map (.sym (String.ofList (c :: l.takeWhile isSymChar)) :: ·)
    else if c.isDigit then
      (natLiteral (c :: l.takeWhile isSymChar)).bind fun n => (exTokens f (l.dropWhile isSymChar)).map (.num n :: ·)
    else if c == '<' || c == '>' then
      match l with
      | d :: r => if d == c then (exTokens f r).map (.op c :: ·) else none
      | [] => none
    else if "+-*/&^|~()".toList.contains c then (exTokens f l).map (.op c :: ·)
    else none
/-- A value of 64-bit two's complement, and whether every part of it has a value. -/
structure ExVal where
  v  : Int
  ok : Bool
  deriving DecidableEq, Repr
/-- A number taken to 64-bit two's complement. -/
def wrap64 (v : Int) : Int := (BitVec.ofInt 64 v).toInt
/-- A value shifted by a count; a count outside 0 to 63 gives a free value (log 80). -/
def shiftLeft64 (a b : Int) : Int :=
  if 0 ≤ b && b ≤ 63 then wrap64 (a * (2 ^ b.toNat : Nat)) else (Config.freeWord 0x11 (BitVec.ofInt 64 b ++ BitVec.ofInt 64 a).toNat).toInt
/-- A right shift keeps the sign (log 80). -/
def shiftRight64 (a b : Int) : Int :=
  if 0 ≤ b && b ≤ 63 then Int.fdiv a (2 ^ b.toNat : Nat) else (Config.freeWord 0x12 (BitVec.ofInt 64 b ++ BitVec.ofInt 64 a).toNat).toInt
/-- A bitwise operation of two numbers. -/
def bitwise64 (f : Word → Word → Word) (a b : Int) : Int := (f (BitVec.ofInt 64 a) (BitVec.ofInt 64 b)).toInt
/-- The binary operator of a token at a level of precedence, | lowest (R11). Division by zero has no value. -/
def exBinary (level : Nat) (t : ExTok) : Option (ExVal → ExVal → ExVal) :=
  let both := fun (g : Int → Int → Int) (a b : ExVal) => (⟨wrap64 (g a.v b.v), a.ok && b.ok⟩ : ExVal)
  match level, t with
  | 0, .op '|' => some (both (bitwise64 (· ||| ·)))
  | 1, .op '^' => some (both (bitwise64 (· ^^^ ·)))
  | 2, .op '&' => some (both (bitwise64 (· &&& ·)))
  | 3, .op '<' => some (both shiftLeft64)
  | 3, .op '>' => some (both shiftRight64)
  | 4, .op '+' => some (both (· + ·))
  | 4, .op '-' => some (both (· - ·))
  | 5, .op '*' => some (both (· * ·))
  | 5, .op '/' => some fun a b => ⟨wrap64 (Int.tdiv a.v b.v), a.ok && b.ok && b.v != 0⟩
  | _, _ => none
/-- An expression from a level of precedence on: its value and the tokens after it. With a value given, the operators of the
level go on from it. Fuel bounds the depth. -/
def exParse (env : String → Option Int) : Nat → Nat → Option ExVal → List ExTok → Option (ExVal × List ExTok)
  | 0, _, _, _ => none
  | f + 1, k, some v, ts =>
    match ts with
    | [] => some (v, [])
    | t :: r =>
      match exBinary k t with
      | none => some (v, ts)
      | some g => (exParse env f (k + 1) none r).bind fun (w, r) => exParse env f k (some (g v w)) r
  | f + 1, k, none, ts =>
    if k < 6 then (exParse env f (k + 1) none ts).bind fun (v, r) => exParse env f k (some v) r
    else match ts with
      | .num n :: r => some (⟨wrap64 n, true⟩, r)
      | .sym s :: r => some ((match env s with | some v => ⟨wrap64 v, true⟩ | none => ⟨0, false⟩), r)
      | .op '-' :: r => (exParse env f 6 none r).map fun (v, r) => (⟨wrap64 (-v.v), v.ok⟩, r)
      | .op '~' :: r => (exParse env f 6 none r).map fun (v, r) => (⟨wrap64 (-v.v - 1), v.ok⟩, r)
      | .op '(' :: r =>
        (exParse env f 0 none r).bind fun (v, r) => match r with | .op ')' :: r => some (v, r) | _ => none
      | _ => none
/-- The value of an expression; none when the text is none. -/
def exValue (env : String → Option Int) (l : Chars) : Option ExVal :=
  (exTokens (l.length + 1) l).bind fun ts =>
    match exParse env (16 * (ts.length + 2)) 0 none ts with
    | some (v, []) => some v
    | _ => none

/-! ### Registers and operands (R12, R13) -/

/-- A decimal number below a limit, written without leading zeros. -/
def smallNum (limit : Nat) (l : Chars) : Option Nat :=
  match l with
  | ['0'] => some 0
  | '0' :: _ => none
  | _ => (digitsIn 10 l).bind fun n => if n < limit then some n else none
/-- A register name: g0 to g31, or d0 to d127 by its window (R12). -/
def regNamed (s : String) : Option Reg :=
  match s.toList with
  | 'g' :: r => (smallNum 32 r).map fun n => ⟨0, BitVec.ofNat 5 n⟩
  | 'd' :: r => (smallNum 128 r).map fun n =>
    ⟨if n < 32 then 3 else if n < 64 then 0 else if n < 96 then 1 else 2, BitVec.ofNat 5 n⟩
  | _ => none
/-- A predicate or mask name. -/
def flagNamed (letter : Char) (s : String) : Option (BitVec 4) :=
  match s.toList with
  | c :: r => if c = letter then (smallNum 16 r).map (BitVec.ofNat 4) else none
  | [] => none
/-- The special registers of R210 and their numbers. -/
def specialNames : List (String × Nat) :=
  [("ROWID", 0x000), ("ROWPHYS", 0x001), ("ROWADDR", 0x002), ("LAUNCH", 0x003), ("DOMA", 0x004), ("DOMB", 0x005),
   ("DOMC", 0x006), ("DOMSIZE", 0x007), ("CLUSTER", 0x008), ("EXEC", 0x009), ("DIE", 0x00A), ("PART", 0x00B), ("TIME", 0x00C),
   ("CYCLE", 0x00D), ("LANES", 0x00E), ("SPWIN", 0x00F), ("ARGS", 0x010), ("RSVBASE", 0x100), ("PQUANT", 0x101),
   ("PSLOTS", 0x102), ("PYIELD", 0x103), ("FQBASE", 0x104), ("FQHEAD", 0x105), ("FQTAIL", 0x106), ("THERM", 0x107),
   ("PSEL", 0x200)]
/-- What an operand of an instruction is: a destination or source register, a predicate, one of g0 to g15, memory with or
without an offset, a value, the distance to an address, a special register. -/
inductive OpKind where
  | dst | src | pred | low | mem | addr | val | rel | special
  deriving DecidableEq, Repr
/-- An operand as read. -/
inductive Opd where
  | reg (r : Reg)
  | flag (n : BitVec 4)
  | mem (base : Reg) (off : Int)
  | val (v : Int)
  deriving DecidableEq, Repr
/-- The inside of brackets. -/
def bracketed (l : Chars) : Option Chars :=
  match l, l.reverse with
  | '[' :: r, ']' :: _ => some (trimChars (r.take (r.length - 1)))
  | _, _ => none
/-- An operand of a kind at the address of its chain, and whether its value is known. A destination names no head word (R12);
verbose notation writes the offset of a memory operand, but for format A (R16); [base-e] subtracts the whole expression e (R13). -/
def readOpd (env : String → Option Int) (here : Int) (k : OpKind) (l : Chars) : Option (Opd × Bool) :=
  let s := String.ofList l
  match k with
  | .dst => (regNamed s).bind fun r => if r.win = 3 then none else some (.reg r, true)
  | .src => (regNamed s).map fun r => (.reg r, true)
  | .pred => (flagNamed 'p' s).map fun n => (.flag n, true)
  | .low => (regNamed s).bind fun r => if r.win = 0 && r.num.toNat < 16 then some (.flag (BitVec.ofNat 4 r.num.toNat), true) else none
  | .addr => (bracketed l).bind fun b => (regNamed (String.ofList b)).map fun r => (.mem r 0, true)
  | .mem =>
    (bracketed l).bind fun b =>
      (regNamed (String.ofList (b.takeWhile isSymChar))).bind fun r =>
        match trimChars (b.dropWhile isSymChar) with
        | '+' :: e => (exValue env e).map fun v => (.mem r v.v, v.ok)
        | '-' :: e => (exValue env e).map fun v => (.mem r (wrap64 (-v.v)), v.ok)
        | _ => none
  | .val => (exValue env l).map fun v => (.val v.v, v.ok)
  | .rel => (exValue env l).map fun v => (.val (wrap64 (v.v - here)), v.ok)
  | .special =>
    match specialNames.find? fun p => p.1 == s with
    | some p => some (.val p.2, true)
    | none => (exValue env l).bind fun v => if 0 ≤ v.v && v.v < 1024 then some (.val v.v, v.ok) else none

/-! ### Suffixes (R17, R109, R141, R255, R277) -/

def scopeTok (s : String) : Option Scope :=
  ([("row", .row), ("clu", .clu), ("die", .die), ("dev", .dev), ("sys", .sys)] : List (String × Scope)).lookup s
def orderTok (s : String) : Option Order :=
  ([("plain", .plain), ("acq", .acq), ("rel", .rel), ("acqrel", .acqrel)] : List (String × Order)).lookup s
def hintTok (s : String) : Option Hint := ([("norm", .norm), ("noal", .noal), ("strm", .strm)] : List (String × Hint)).lookup s
def rndTok (s : String) : Option Rnd :=
  ([("rne", .rne), ("rtz", .rtz), ("rdn", .rdn), ("rup", .rup), ("rna", .rna)] : List (String × Rnd)).lookup s
def fmtTok (s : String) : Option Fmt :=
  ([("f32", .f32), ("f16", .f16), ("t16", .t16), ("t8", .t8), ("t6", .t6), ("s8", .s8), ("z8", .z8), ("s16", .s16),
    ("s32", .s32), ("s64", .s64), ("z16", .z16), ("z32", .z32)] : List (String × Fmt)).lookup s
def condTok (s : String) : Option Cond :=
  ([("eq", .eq), ("ne", .ne), ("lt", .lt), ("le", .le), ("gt", .gt), ("ge", .ge), ("ltz", .ltz), ("lez", .lez), ("gtz", .gtz),
    ("gez", .gez)] : List (String × Cond)).lookup s
def fcondTok (s : String) : Option FCond :=
  ([("eq", .eq), ("ne", .ne), ("lt", .lt), ("le", .le), ("gt", .gt), ("ge", .ge), ("un", .un), ("ord", .ord)]
    : List (String × FCond)).lookup s
def fcondCode (c : FCond) : Nat :=
  match c with | .eq => 0 | .ne => 1 | .lt => 2 | .le => 3 | .gt => 4 | .ge => 5 | .un => 6 | .ord => 7
def ldTok (s : String) : Option (LdType × Nat) :=
  ([("s8", .s8, 1), ("z8", .z8, 1), ("s16", .s16, 2), ("z16", .z16, 2), ("s32", .s32, 4), ("z32", .z32, 4), ("d64", .d64, 8)]
    : List (String × LdType × Nat)).lookup s
def stTok (s : String) : Option (StType × Nat) :=
  ([("b8", .b8, 1), ("h16", .h16, 2), ("w32", .w32, 4), ("d64", .d64, 8)] : List (String × StType × Nat)).lookup s
def amoTok (s : String) : Option AmoOp :=
  ([("add", .add), ("min", .min), ("max", .max), ("minz", .minz), ("maxz", .maxz), ("and", .and), ("or", .or), ("xor", .xor),
    ("swap", .swap), ("cas", .cas), ("inc", .inc), ("fadd", .fadd)] : List (String × AmoOp)).lookup s
/-- sc1 to sc255. -/
def scaleTok (s : String) : Option (BitVec 8) :=
  match s.toList with
  | 's' :: 'c' :: r => (smallNum 256 r).bind fun n => if n = 0 then none else some (BitVec.ofNat 8 n)
  | _ => none
/-- Order, scope and hint. -/
def memSfx (w32 : Bool) (l : List String) : Option MemMod :=
  match l with
  | [o, c, h] => do some ⟨w32, ← hintTok h, ← orderTok o, ← scopeTok c⟩
  | _ => none
/-- Destination format, source format, rounding. -/
def fSfx (l : List String) : Option FMod :=
  match l with
  | [d, s, r] => do some ⟨← fmtTok d, ← fmtTok s, ← rndTok r⟩
  | _ => none
/-- Destination and, after ds, scale. -/
def destSfx (l : List String) : Option (Bool × BitVec 8) :=
  match l with
  | ["pl"] => some (false, 0)
  | ["ds", "auto"] => some (true, 0)
  | ["ds", s] => (scaleTok s).map fun n => (true, n)
  | _ => none
/-- The suffixes of a vector command. -/
def vSfx (l : List String) : Option VMod :=
  match l with
  | r :: t => do
    let (dd, osc) ← destSfx t
    some ⟨osc, dd, 0, ← rndTok r⟩
  | [] => none
/-- vcnt, vfnld and vfnst take the rounding alone; vcmp the condition too. -/
def vBareSfx (l : List String) : Option VMod :=
  match l with
  | [r] => do some ⟨0, false, 0, ← rndTok r⟩
  | _ => none
def vCmpSfx (l : List String) : Option VMod :=
  match l with
  | [r, c] => do some ⟨0, false, BitVec.ofNat 4 (fcondCode (← fcondTok c)), ← rndTok r⟩
  | _ => none
def vScanSfx (l : List String) : Option VMod :=
  match l with
  | r :: k :: t => do
    let (dd, osc) ← destSfx t
    let sub ← ([("inc", 0), ("exc", 1)] : List (String × BitVec 4)).lookup k
    some ⟨osc, dd, sub, ← rndTok r⟩
  | _ => none
def evSfx (l : List String) : Option Bool :=
  match l with
  | ["noev"] => some false
  | ["ev"] => some true
  | _ => none

/-! ### Mnemonics -/

/-- What a row of the mnemonic table makes of a chain's control part, its suffixes and its operands. -/
abbrev MakeInstr := Ctl → List String → List Opd → Option Instr
/-- A mnemonic: its name, its operands, and its instruction. -/
structure Mnemonic where
  name : String
  ops  : List OpKind
  make : MakeInstr

def mk0 (f : Ctl → Instr) : MakeInstr
  | c, [], [] => some (f c)
  | _, _, _ => none
def mk1 (f : Ctl → Reg → Instr) : MakeInstr
  | c, [], [.reg a] => some (f c a)
  | _, _, _ => none
def mk2 (f : Ctl → Reg → Reg → Instr) : MakeInstr
  | c, [], [.reg d, .reg a] => some (f c d a)
  | _, _, _ => none
def mk3 (f : Ctl → Reg → Reg → Reg → Instr) : MakeInstr
  | c, [], [.reg d, .reg a, .reg b] => some (f c d a b)
  | _, _, _ => none
def mkImm (f : Ctl → Reg → Reg → Int → Instr) : MakeInstr
  | c, [], [.reg d, .reg a, .val v] => some (f c d a v)
  | _, _, _ => none
def mkImm1 (f : Ctl → Reg → Int → Instr) : MakeInstr
  | c, [], [.reg d, .val v] => some (f c d v)
  | _, _, _ => none
def mkFlags1 (f : Ctl → BitVec 4 → Instr) : MakeInstr
  | c, [], [.flag d] => some (f c d)
  | _, _, _ => none
def mkFlags2 (f : Ctl → BitVec 4 → BitVec 4 → Instr) : MakeInstr
  | c, [], [.flag d, .flag a] => some (f c d a)
  | _, _, _ => none
def mkFlags3 (f : Ctl → BitVec 4 → BitVec 4 → BitVec 4 → Instr) : MakeInstr
  | c, [], [.flag d, .flag a, .flag b] => some (f c d a b)
  | _, _, _ => none
/-- A literal below a limit. -/
def mkLit (limit : Nat) (f : Ctl → Nat → Instr) : MakeInstr
  | c, [], [.val v] => if 0 ≤ v && v < limit then some (f c v.toNat) else none
  | _, _, _ => none
/-- A distance in words of a branch field of n bits (R223). -/
def wordsAway (n : Nat) (v : Int) : Option (BitVec n) :=
  if v % 4 = 0 && WF.fits n (v / 4) then some (BitVec.ofInt n (v / 4)) else none
def mkBranch (f : Ctl → BitVec 19 → Instr) : MakeInstr
  | c, [], [.val v] => (wordsAway 19 v).map (f c)
  | _, _, _ => none
def mkSpecial (f : Ctl → Reg → BitVec 10 → Instr) : MakeInstr
  | c, [], [.reg r, .val v] => some (f c r (BitVec.ofInt 10 v))
  | _, _, _ => none
/-- A load or store: its type, and its offset in units of the access size (R13). -/
def mkMem {T : Type} (tok : String → Option (T × Nat)) (f : Ctl → Reg → Reg → T → Int → MemMod → Instr) : MakeInstr
  | c, t :: sfx, [.reg d, .mem a off] => do
    let (ty, n) ← tok t
    let m ← memSfx false sfx
    if off % n = 0 then some (f c d a ty (off / n) m) else none
  | _, _, _ => none
def mkF2 (f : Ctl → Reg → Reg → FMod → Instr) : MakeInstr
  | c, sfx, [.reg d, .reg a] => (fSfx sfx).map (f c d a)
  | _, _, _ => none
def mkF3 (f : Ctl → Reg → Reg → Reg → FMod → Instr) : MakeInstr
  | c, sfx, [.reg d, .reg a, .reg b] => (fSfx sfx).map (f c d a b)
  | _, _, _ => none
def mkV (sfx : List String → Option VMod) (f : Ctl → Reg → Reg → Reg → VMod → Instr) : MakeInstr
  | c, l, [.reg d, .reg a, .reg b] => (sfx l).map (f c d a b)
  | _, _, _ => none
def mkCopy2 (f : Ctl → Reg → Reg → Hint → Instr) : MakeInstr
  | c, [h], [.reg d, .reg a] => (hintTok h).map (f c d a)
  | _, _, _ => none
def mkCopy3 (f : Ctl → Reg → Reg → Reg → Hint → Instr) : MakeInstr
  | c, [h], [.reg d, .reg a, .reg b] => (hintTok h).map (f c d a b)
  | _, _, _ => none
/-- Size (app: d64, w32, h16, b8) and order (plain, rel) of an append (R141). -/
def caskSize (s : String) : Option (BitVec 2) :=
  ([("d64", 0), ("w32", 1), ("h16", 2), ("b8", 3)] : List (String × BitVec 2)).lookup s
def caskOrder (s : String) : Option Bool := ([("plain", false), ("rel", true)] : List (String × Bool)).lookup s
def mkApp : MakeInstr
  | c, [z, o], [.reg d, .reg a, .reg b] => do some (.app c d a b ⟨← caskOrder o, ← caskSize z⟩)
  | _, _, _ => none
def mkAppl : MakeInstr
  | c, [o], [.reg d, .reg a, .reg b] => (caskOrder o).map fun r => .appl c d a b ⟨r, 0⟩
  | _, _, _ => none
def mkCmp : MakeInstr
  | c, [k], [.flag p, .reg a, .reg b] => (condTok k).map fun cc => .cmp c p cc a b
  | _, _, _ => none
def mkCmpi : MakeInstr
  | c, [k], [.flag p, .reg a, .val v] => (condTok k).map fun cc => .cmpi c p cc a v
  | _, _, _ => none
def mkFcmp : MakeInstr
  | c, [k, f], [.flag p, .reg a, .reg b] => do some (.fcmp c p (← fcondTok k) a b (← fmtTok f))
  | _, _, _ => none
def mkFclass : MakeInstr
  | c, [f], [.reg d, .reg a] => (fmtTok f).map (.fclass c d a)
  | _, _, _ => none
def mkAmo : MakeInstr
  | c, op :: w :: sfx, [.reg d, .mem a _, .reg b] => do
    let o ← amoTok op
    let w32 ← ([("w64", false), ("w32", true)] : List (String × Bool)).lookup w
    some (.amo c d a b o (← memSfx w32 sfx))
  | _, _, _ => none
def mkFence : MakeInstr
  | c, [o, k], [] => do some (.fence c ⟨false, .norm, ← orderTok o, ← scopeTok k⟩)
  | _, _, _ => none
def mkPf : MakeInstr
  | c, [k, h], [.mem a _] => do some (.pf c a ⟨false, ← hintTok h, .plain, ← scopeTok k⟩)
  | _, _, _ => none
def mkDbnz : MakeInstr
  | c, [], [.reg d, .val v] => (wordsAway 14 v).map (.dbnz c d)
  | _, _, _ => none
def mkCpyc : MakeInstr
  | c, sfx, [.reg d] => (evSfx sfx).map (.cpyc c d)
  | _, _, _ => none
def mkCpyw : MakeInstr
  | c, sfx, [.reg d, .val v] => (evSfx sfx).bind fun e => if 0 ≤ v && v < 32 then some (.cpyw c d (BitVec.ofInt 5 v) e) else none
  | _, _, _ => none
def mkBar : MakeInstr
  | c, [], [.reg d, .val l, .val k] =>
    if 0 ≤ l && l < 32 && 0 ≤ k && k < 32 then some (.bar c d (BitVec.ofInt 5 l) (BitVec.ofInt 5 k)) else none
  | _, _, _ => none

/-- SYS, special registers and system instructions (R205, R209, R348). -/
def sysMnemonics : List Mnemonic :=
  [⟨"ill", [], mk0 .ill⟩, ⟨"nop", [], mk0 .nop⟩, ⟨"stop", [], mk0 .stop⟩, ⟨"yield", [], mk0 .yield⟩, ⟨"brk", [], mk0 .brk⟩,
   ⟨"ifence", [], mk0 .ifence⟩, ⟨"sget", [.dst, .special], mkSpecial .sget⟩, ⟨"sset", [.src, .special], mkSpecial .sset⟩,
   ⟨"trap", [.val], mkLit 1024 fun c n => .trap c (BitVec.ofNat 10 n)⟩,
   ⟨"hcall", [.val], mkLit 1024 fun c n => .hcall c (BitVec.ofNat 10 n)⟩,
   ⟨"xret", [.src, .src], mk2 .xret⟩, ⟨"tlbinv", [.src, .src], mk2 .tlbinv⟩, ⟨"rowctl", [.dst, .src, .src], mk3 .rowctl⟩,
   ⟨"mbox", [.dst, .src, .src], mk3 .mbox⟩, ⟨"post", [.src], mk1 .post⟩, ⟨"await", [.dst, .src, .src], mk3 .await⟩,
   ⟨"tqry", [.dst, .src], mk2 .tqry⟩, ⟨"fork", [.dst, .src], mk2 .fork⟩, ⟨"rdv", [.dst, .src, .src], mk3 .rdv⟩,
   ⟨"bar", [.dst, .val, .val], mkBar⟩, ⟨"arrive", [.val], mkLit 32 fun c n => .arrive c (BitVec.ofNat 5 n)⟩,
   ⟨"wait", [.dst, .src, .src], mk3 .wait⟩, ⟨"park", [], mk0 .park⟩, ⟨"evset", [.src, .src], mk2 .evset⟩,
   ⟨"evret", [], mk0 fun c => .evret c ⟨0, 0⟩⟩, ⟨"evret", [.src], mk1 .evret⟩, ⟨"evmask", [.dst, .src, .src], mk3 .evmask⟩]
/-- ALU, MUL and BIT (R214). -/
def intMnemonics : List Mnemonic :=
  ([("add", .add), ("sub", .sub), ("and", .and), ("or", .or), ("xor", .xor), ("andn", .andn), ("orn", .orn), ("nor", .nor),
    ("shl", .shl), ("shr", .shr), ("sra", .sra), ("rol", .rol), ("min", .min), ("max", .max), ("minz", .minz), ("maxz", .maxz),
    ("mul", .mul), ("mulh", .mulh), ("mulhz", .mulhz), ("div", .div), ("divz", .divz), ("rem", .rem), ("remz", .remz),
    ("bfx", .bfx), ("bfxz", .bfxz), ("bfi", .bfi)] : List (String × (Ctl → Reg → Reg → Reg → Instr))).map
      (fun p => ⟨p.1, [.dst, .src, .src], mk3 p.2⟩) ++
  ([("abs", .abs), ("neg", .neg), ("clz", .clz), ("ctz", .ctz), ("popc", .popc), ("bswap", .bswap), ("sxb", .sxb), ("sxh", .sxh),
    ("sxw", .sxw), ("zxb", .zxb), ("zxh", .zxh), ("zxw", .zxw)] : List (String × (Ctl → Reg → Reg → Instr))).map
      (fun p => ⟨p.1, [.dst, .src], mk2 p.2⟩)
/-- Compares, predicates, immediates and control flow (R218 to R223). -/
def flowMnemonics : List Mnemonic :=
  [⟨"cmp", [.pred, .src, .src], mkCmp⟩, ⟨"cmpi", [.pred, .src, .val], mkCmpi⟩,
   ⟨"pand", [.pred, .pred, .pred], mkFlags3 .pand⟩, ⟨"por", [.pred, .pred, .pred], mkFlags3 .por⟩,
   ⟨"pxor", [.pred, .pred, .pred], mkFlags3 .pxor⟩, ⟨"pandn", [.pred, .pred, .pred], mkFlags3 .pandn⟩,
   ⟨"pnot", [.pred, .pred], mkFlags2 .pnot⟩, ⟨"pmov", [.pred, .pred], mkFlags2 .pmov⟩, ⟨"pset", [.pred], mkFlags1 .pset⟩,
   ⟨"pclr", [.pred], mkFlags1 .pclr⟩, ⟨"pget", [.low], mkFlags1 .pget⟩, ⟨"pput", [.low], mkFlags1 .pput⟩,
   ⟨"movi", [.dst, .val], mkImm1 .movi⟩, ⟨"adr", [.dst, .rel], mkImm1 .adr⟩, ⟨"br", [.rel], mkBranch .br⟩,
   ⟨"bl", [.rel], mkBranch .bl⟩, ⟨"jr", [.src], mk1 .jr⟩, ⟨"jlr", [.dst, .src], mk2 .jlr⟩, ⟨"dbnz", [.dst, .rel], mkDbnz⟩] ++
  ([("addi", .addi), ("andi", .andi), ("ori", .ori), ("xori", .xori), ("shli", .shli), ("shri", .shri), ("srai", .srai),
    ("muli", .muli)] : List (String × (Ctl → Reg → Reg → Int → Instr))).map (fun p => ⟨p.1, [.dst, .src, .val], mkImm p.2⟩)
/-- Memory and cask instructions (R139, R177, R182, R186, R187). -/
def memMnemonics : List Mnemonic :=
  [⟨"ld", [.dst, .mem], mkMem ldTok .ld⟩, ⟨"st", [.src, .mem], mkMem stTok .st⟩, ⟨"ldl", [.dst, .mem], mkMem ldTok .ldl⟩,
   ⟨"stl", [.src, .mem], mkMem stTok .stl⟩, ⟨"amo", [.dst, .addr, .src], mkAmo⟩, ⟨"fence", [], mkFence⟩, ⟨"pf", [.addr], mkPf⟩,
   ⟨"app", [.dst, .src, .src], mkApp⟩, ⟨"appl", [.dst, .src, .src], mkAppl⟩, ⟨"seal", [.dst, .src], mk2 .seal⟩,
   ⟨"tail", [.dst, .src], mk2 .tail⟩]
/-- Floating point (R256). -/
def floatMnemonics : List Mnemonic :=
  ([("fadd", .fadd), ("fsub", .fsub), ("fmul", .fmul), ("fdiv", .fdiv), ("fmin", .fmin), ("fmax", .fmax), ("fcpys", .fcpys),
    ("fma", .fma), ("fms", .fms), ("fnma", .fnma), ("fnms", .fnms)] : List (String × (Ctl → Reg → Reg → Reg → FMod → Instr))).map
      (fun p => ⟨p.1, [.dst, .src, .src], mkF3 p.2⟩) ++
  ([("fsqrt", .fsqrt), ("fabs", .fabs), ("fneg", .fneg), ("fcvt", .fcvt), ("fcvti", .fcvti), ("fcvtf", .fcvtf)]
    : List (String × (Ctl → Reg → Reg → FMod → Instr))).map (fun p => ⟨p.1, [.dst, .src], mkF2 p.2⟩) ++
  [⟨"fclass", [.dst, .src], mkFclass⟩, ⟨"fcmp", [.pred, .src, .src], mkFcmp⟩]
/-- Claims and vector commands (R268, R275, R277). -/
def vecMnemonics : List Mnemonic :=
  [⟨"vclaim", [.dst, .src], mk2 .vclaim⟩, ⟨"vfree", [.dst], mk1 .vfree⟩, ⟨"vwait", [.dst, .src], mk2 .vwait⟩,
   ⟨"vstat", [.dst, .src], mk2 .vstat⟩, ⟨"vscan", [.dst, .src, .src], mkV vScanSfx .vscan⟩,
   ⟨"vcmp", [.dst, .src, .src], mkV vCmpSfx .vcmp⟩, ⟨"vcnt", [.dst, .src, .src], mkV vBareSfx .vcnt⟩,
   ⟨"vfnld", [.dst, .src, .src], mkV vBareSfx .vfnld⟩, ⟨"vfnst", [.dst, .src, .src], mkV vBareSfx .vfnst⟩] ++
  ([("vadd", .vadd), ("vsub", .vsub), ("vmul", .vmul), ("vmin", .vmin), ("vmax", .vmax), ("vdiv", .vdiv), ("vand", .vand),
    ("vor", .vor), ("vxor", .vxor), ("vshl", .vshl), ("vshr", .vshr), ("vsra", .vsra), ("vabsd", .vabsd), ("vfma", .vfma),
    ("vfms", .vfms), ("vneg", .vneg), ("vabs", .vabs), ("vsqrt", .vsqrt), ("vrsq", .vrsq), ("vrcp", .vrcp), ("vexp2", .vexp2),
    ("vlog2", .vlog2), ("vcvt", .vcvt), ("vmov", .vmov), ("vfill", .vfill), ("vclamp", .vclamp), ("viota", .viota),
    ("vsel", .vsel), ("vredsum", .vredsum), ("vredmax", .vredmax), ("vredmin", .vredmin), ("vgat", .vgat), ("vsct", .vsct),
    ("vpack", .vpack), ("vfn", .vfn)] : List (String × (Ctl → Reg → Reg → Reg → VMod → Instr))).map
      (fun p => ⟨p.1, [.dst, .src, .src], mkV vSfx p.2⟩)
/-- The copy group (R105, R109). -/
def copyMnemonics : List Mnemonic :=
  [⟨"cpy", [.dst, .src], mkCopy2 .cpy⟩, ⟨"cpyz", [.dst, .src], mkCopy2 .cpyz⟩, ⟨"cpy2", [.dst, .src, .src], mkCopy3 .cpy2⟩,
   ⟨"cpyg", [.dst, .src, .src], mkCopy3 .cpyg⟩, ⟨"cpyc", [.dst], mkCpyc⟩, ⟨"cpyw", [.dst, .val], mkCpyw⟩,
   ⟨"dclone", [.dst, .src], mk2 .dclone⟩, ⟨"dzero", [.dst, .src], mk2 .dzero⟩, ⟨"scrub", [.dst, .src], mk2 .scrub⟩,
   ⟨"cpyq", [.dst, .src], mk2 .cpyq⟩]
def allMnemonics : List Mnemonic :=
  sysMnemonics ++ intMnemonics ++ flowMnemonics ++ memMnemonics ++ floatMnemonics ++ vecMnemonics ++ copyMnemonics
/-- The vector majors take a mask as their guard (R37, R268). -/
def guardedByMask (name : String) : Bool :=
  vecMnemonics.any (fun m => m.name == name) && !(["vclaim", "vfree", "vwait", "vstat"] : List String).contains name

/-- Names that a symbol may not spell (R10): registers, mnemonics, suffixes, special registers. -/
def reservedName (s : String) : Bool :=
  (regNamed s).isSome || (flagNamed 'p' s).isSome || (flagNamed 'm' s).isSome || specialNames.any (fun p => p.1 == s)
    || allMnemonics.any (fun m => m.name == s) || ["li", "la", "mov", "not", "b", "ret", "call", "px.i", "px.r", "px.o"].contains s
    || (scopeTok s).isSome || (orderTok s).isSome || (hintTok s).isSome || (rndTok s).isSome || (fmtTok s).isSome
    || (condTok s).isSome || (fcondTok s).isSome || (stTok s).isSome || (scaleTok s).isSome
    || ["w64", "w32", "inc", "exc", "pl", "ds", "auto", "noev", "ev"].contains s
    || (match splitChars (· == '.') s.toList with
        | [a, b] => String.ofList a == "amo" && (amoTok (String.ofList b)).isSome
        | _ => false)
/-- A symbol (R10). -/
def isSymbol (s : String) : Bool :=
  (match s.toList with | c :: r => isSymStart c && r.all isSymChar | [] => false) && s != "." && !reservedName s

/-! ### A chain (R14, R16, R18 to R21) -/

/-- A prefix line as written (R19). -/
inductive PrefixLine where
  | i (v : Nat)
  | r (wd wa wb : Nat)
  | o (page m : Nat)
  deriving DecidableEq, Repr
/-- The word of a prefix line. -/
def PrefixLine.word : PrefixLine → W32
  | .i v => pxiWord (BitVec.ofNat 19 v)
  | .r wd wa wb => pxrWord (BitVec.ofNat 6 (16 * wb + 4 * wa + wd))
  | .o page m => BitVec.ofNat 32 (0x3E * 2 ^ 19 + page * 2 ^ 16 + m)
def PrefixLine.isI : PrefixLine → Bool
  | .i _ => true
  | _ => false
def PrefixLine.isR : PrefixLine → Bool
  | .r _ _ _ => true
  | _ => false
/-- A prefix line: its operands in their limits (R19). -/
def readPrefix (env : String → Option Int) (name : String) (args : List Chars) : Option (PrefixLine × Bool) :=
  let vals := args.map (exValue env)
  let small := fun (v : ExVal) (n : Nat) => decide (0 ≤ v.v) && decide (v.v < n)
  match name, vals with
  | "px.i", [some v] => if small v (2 ^ 19) then some (.i v.v.toNat, v.ok) else none
  | "px.r", [some a, some b, some c] =>
    if small a 4 && small b 4 && small c 4 then some (.r a.v.toNat b.v.toNat c.v.toNat, a.ok && b.ok && c.ok) else none
  | "px.o", [some p, some m] => if small p 8 && small m 65536 then some (.o p.v.toNat m.v.toNat, p.ok && m.ok) else none
  | _, _ => none
/-- The fewest px.i words with which a value fits a field of w bits; five when none will do (R14). -/
def payloadCount (w : Nat) (v : Int) : Nat := ((List.range 5).find? fun k => WF.fits (19 * k + w) v).getD 5
/-- The prefix words that a line derives: px.o, px.r, and px.i from the most significant payload down (R12, R14, R18). -/
def derivedPrefixes (i : Instr) (u : Uses) : Option W32 × Option W32 × List W32 :=
  (if u.needO then some (pxoWord i.m16) else none, if u.needR then some (pxrWord i.windows) else none,
   match u.imm with | some (w, v) => (pxiPayloads w v (payloadCount w v)).map pxiWord | none => [])
/-- The prefix words of a chain in order: the written lines, checked against the derived words, with the missing ones
supplied (R21); none when a line disagrees. -/
def placePrefixes (written : List PrefixLine) (o r : Option W32) (i : List W32) : Option (List W32) :=
  let wi := (written.filter (·.isI)).map (·.word)
  let wr := (written.filter (·.isR)).map (·.word)
  let wo := (written.filter fun p => !p.isI && !p.isR).map (·.word)
  let agrees := fun (l : List W32) (d : Option W32) => l.isEmpty || (l.length == 1 && l.head? == d)
  if !agrees wo o || !agrees wr r || wi.length > i.length || i.take wi.length != wi then none
  else
    let front := (if wo.isEmpty then o.toList else []) ++ if wr.isEmpty then r.toList else []
    let rest := i.drop wi.length
    let n := if wi.isEmpty then written.length else written.length - (written.reverse.takeWhile fun p => !p.isI).length
    let w := written.map (·.word)
    some (front ++ w.take n ++ rest ++ w.drop n)
/-- The switch field of a line (R16). -/
def switchField (s : String) : Option Bool := ([("sw0", false), ("sw1", true)] : List (String × Bool)).lookup s
/-- The guard field of a line: if:all, or a predicate or mask with its sense; the mask of a vector command (R15, R16). -/
def guardField (s : String) (mask : Bool) : Option (Option Guard) :=
  match s.toList with
  | ['i', 'f', ':', 'a', 'l', 'l'] => some none
  | 'i' :: 'f' :: ':' :: c :: r =>
    if c == '+' || c == '-' then (flagNamed (if mask then 'm' else 'p') (String.ofList r)).map fun n => some ⟨n, c == '-'⟩ else none
  | _ => none
/-- The words of an instruction line under its written prefix lines, and whether its values are known; none when the line is
not verbose notation or has no encoding. -/
def readInstruction (env : String → Option Int) (here : Int) (written : List PrefixLine) (l : Chars) : Option (List W32 × Bool) := do
  let (f1, l) := firstWord l
  let (f2, l) := firstWord l
  let (f3, l) := firstWord l
  let sw ← switchField f1
  let parts := (splitChars (· == '.') f3.toList).map String.ofList
  let name := parts.headD ""
  let guard ← guardField f2 (guardedByMask name)
  let args := splitArgs l
  let m ← allMnemonics.find? fun m => m.name == name && m.ops.length == args.length
  let opds := (m.ops.zip args).map fun p => readOpd env here p.1 p.2
  if opds.any (·.isNone) then none
  else
    let ops := opds.filterMap id
    let make := fun n => m.make ⟨sw, guard, n⟩ (parts.drop 1) (ops.map (·.1))
    let i ← make 0
    let u ← i.uses
    let (o, r, ps) := derivedPrefixes i u
    let i ← make (o.toList.length + r.toList.length + ps.length)
    if !i.wellFormed then none
    else
      let pre ← placePrefixes written o r ps
      some (pre ++ [← i.base], ops.all (·.2))

end Sys2Proof.Machine
end

