-- ==== Sys2Proof/Machine/Assembler.lean ====
section
/-!
DEFINITION. The translator's assembler: sections and directives (R25), described blocks (R26), row images (R27), task
records (R29), and the passes over a module's text that settle its addresses.
-/

namespace Sys2Proof.Machine

/-! ### Sections (R25) -/

inductive Section where
  | text | rodata | data | cask
  deriving DecidableEq, Repr
/-- Bytes of a section, newest first, and their count. -/
structure SecBuf where
  rev : List Byte
  len : Nat
  deriving DecidableEq, Repr
/-- A block that waits for its .end: a row image with the place where data goes, or a task record. -/
inductive OpenBlock where
  | none
  | image (bytes : List Byte) (pos : Nat)
  | task (tr : List Word)
  deriving DecidableEq, Repr
/-- What a pass knows: the section selected, the bytes of each, the symbols defined in this pass and those of the pass before, the
addresses of the sections, prefix lines that wait for their base word, an open block, the entry, and whether a line was refused. -/
structure Asm where
  sec    : Section
  text   : SecBuf
  rodata : SecBuf
  data   : SecBuf
  cask   : SecBuf
  syms   : List (String × Int)
  old    : List (String × Int)
  bases  : List Nat
  pend   : List PrefixLine
  blk    : OpenBlock
  entry  : Option Int
  bad    : Bool
  deriving DecidableEq, Repr

def asmFail (a : Asm) : Asm := { a with bad := true }
def asmNote (a : Asm) (ok : Bool) : Asm := if ok then a else asmFail a
def secBuf (a : Asm) : SecBuf := match a.sec with | .text => a.text | .rodata => a.rodata | .data => a.data | .cask => a.cask
def setSecBuf (a : Asm) (b : SecBuf) : Asm :=
  match a.sec with
  | .text => { a with text := b }
  | .rodata => { a with rodata := b }
  | .data => { a with data := b }
  | .cask => { a with cask := b }
def secIndex : Section → Nat
  | .text => 0
  | .rodata => 1
  | .data => 2
  | .cask => 3
/-- The address of the current location: of the section, or of the image's place in it. -/
def asmHere (a : Asm) : Nat :=
  a.bases.getD (secIndex a.sec) 0 + (secBuf a).len + match a.blk with | .image _ pos => pos | _ => 0
def asmEmit (a : Asm) (bs : List Byte) : Asm := setSecBuf a ⟨bs.reverse ++ (secBuf a).rev, (secBuf a).len + bs.length⟩
/-- Data at the current location: in a row image it must not pass byte 1,023 (R27). -/
def asmPlace (a : Asm) (bs : List Byte) : Asm :=
  match a.blk with
  | .none => asmEmit a bs
  | .image im pos =>
    if 1024 < pos + bs.length then asmFail a
    else { a with blk := .image (im.take pos ++ bs ++ im.drop (pos + bs.length)) (pos + bs.length) }
  | .task _ => asmFail a
/-- Symbols: those of this pass, then those of the pass before; "." is the current location. -/
def asmEnv (a : Asm) (s : String) : Option Int :=
  if s = "." then some (asmHere a)
  else match a.syms.lookup s with
    | some v => some v
    | none => a.old.lookup s
/-- A name is defined; a second definition is an error (R25, R28). -/
def asmDefine (a : Asm) (s : String) (v : Int) : Asm :=
  if isSymbol s && (a.syms.lookup s).isNone then { a with syms := a.syms ++ [(s, v)] } else asmFail a
/-- The value of an expression; 0, and a refused line, when it has none. -/
def asmValue (a : Asm) (l : Chars) : Asm × Int :=
  match exValue (asmEnv a) l with
  | some v => (asmNote a v.ok, v.v)
  | none => (asmFail a, 0)
/-- A value within limits. -/
def asmInRange (a : Asm) (l : Chars) (lo hi : Int) : Asm × Int :=
  let (a, v) := asmValue a l
  if lo ≤ v && v ≤ hi then (a, v) else (asmFail a, 0)
/-- The nop word that fills the code section (R25, R205). -/
def nopBytes : List Byte := [1, 0, 0, 0]
/-- Advances to a multiple of n: zeros, or nop words from the first word boundary on (R25). -/
def asmAlign (a : Asm) (n : Nat) (nops : Bool) : Asm :=
  let k := (n - asmHere a % n) % n
  if nops then
    let z := min k ((4 - asmHere a % 4) % 4)
    asmPlace a (List.replicate z 0 ++ (List.replicate ((k - z) / 4) nopBytes).flatten ++ List.replicate ((k - z) % 4) 0)
  else asmPlace a (List.replicate k 0)

/-! ### Described blocks (R26) -/

/-- Digits before something else. -/
def digitRun (l : Chars) : Chars × Chars := (l.takeWhile (·.isDigit), l.dropWhile (·.isDigit))
/-- A decimal exponent, and that nothing follows it. -/
def tenPower (l : Chars) : Option Int :=
  match l with
  | [] => some 0
  | c :: r =>
    if c == 'e' || c == 'E' then
      match r with
      | '-' :: d => (digitsIn 10 d).map fun n => -(n : Int)
      | '+' :: d => (digitsIn 10 d).map fun n => (n : Int)
      | d => (digitsIn 10 d).map fun n => (n : Int)
    else none
/-- A number m × 10^k. -/
def decimalNum (neg : Bool) (m : Nat) (k : Int) : Num :=
  if m = 0 then .zero false else if 0 ≤ k then .fin neg (m * 10 ^ k.toNat) 1 0 else .fin neg m (10 ^ (-k).toNat) 0
/-- A decimal number without its sign, real or integer: digits stand on both sides of a point, the exponent is written with e or E and
with either sign, and a zero has no sign (DESIGN CHOICE, log 80: R11 gives examples only). -/
def unsignedReal (neg : Bool) (l : Chars) : Option Num :=
  let (w, r) := digitRun l
  if w.isEmpty then none
  else match r with
    | '.' :: r =>
      let (f, r) := digitRun r
      if f.isEmpty then none
      else do some (decimalNum neg (← digitsIn 10 (w ++ f)) ((← tenPower r) - (f.length : Int)))
    | r => do some (decimalNum neg (← digitsIn 10 w) (← tenPower r))
/-- A real literal (R11). -/
def realLiteral (l : Chars) : Option Num :=
  match l with
  | '-' :: r => unsignedReal true r
  | r => unsignedReal false r
/-- A value of .block: nr, a real literal, or an expression. -/
def blockValue (a : Asm) (l : Chars) : Option (Num × Bool) :=
  if String.ofList l = "nr" then some (.nan, true)
  else match realLiteral l with
    | some x => some (x, true)
    | none => (exValue (asmEnv a) l).map fun v => (ofInt v.v, v.ok)
/-- A value is an integer in an integer format's range once scaled (R26). -/
def integerFits (f : Fmt) (sc : Nat) (x : Num) : Bool :=
  match scaleNum x (128 - (sc : Int)) with
  | .fin neg n d e =>
    let (p, q) := scaleRatio n d e
    let v : Int := if neg then -((p / q : Nat) : Int) else ((p / q : Nat) : Int)
    p % q == 0 && intMin f ≤ v && v ≤ intMax f
  | .zero _ => true
  | _ => false
/-- The all-zero block (R244). -/
def zeroBlock : List Byte := writeBlock .f32 0 []
/-- .block (R26). -/
def asmBlock (a : Asm) (args : List Chars) : Asm :=
  let a := asmAlign a 64 false
  match args with
  | [z] => if String.ofList z = "zero" then asmPlace a zeroBlock else asmFail a
  | f :: sc :: vals =>
    (match (fmtTok (String.ofList f)).filter fun f => blockCount f != 0 with
    | none => asmFail a
    | some f =>
      let (a, osc) := if String.ofList sc = "auto" then (a, 0)
        else
          let (a, e) := asmInRange a sc (-127) 127
          (a, (e + 128).toNat)
      let xs := vals.map (blockValue a)
      let nums := xs.filterMap fun x => x.map (·.1)
      let good := xs.all (fun x => x.any (·.2)) && vals.length ≤ blockCount f
        && (isTapered f || nums.all (· != .nan))
        && (!isInteger f || nums.all (integerFits f (chooseScale f osc nums)))
      asmPlace (asmNote a good) (writeBlock f osc (nums ++ List.replicate (blockCount f - nums.length) (.zero false))))
  | _ => asmFail a

/-! ### Task records (R29, R293 to R297) -/

/-- Bits of a dword of a record. -/
def setField (tr : List Word) (i lo n : Nat) (v : Int) : List Word :=
  setNth tr i (putBits (tr.getD i 0) lo n (v % (2 ^ n : Nat)).toNat)
def kindCode (s : String) : Option Nat :=
  ([("MMA", 1), ("MMAZ", 2), ("WLOAD", 3), ("CSTORE", 4), ("TRANS", 5), ("COPY", 6), ("ROW", 7), ("NOTE", 8)] : List (String × Nat)).lookup s
/-- An extent: base, rows and stride. -/
def asmExtent (a : Asm) (tr : List Word) (i : Nat) (args : List Chars) : Asm × List Word :=
  match args with
  | [b, r, t] =>
    let (a, b) := asmValue a b
    let (a, r) := asmInRange a r 0 (2 ^ 32 - 1)
    let (a, t) := asmInRange a t 0 (2 ^ 32 - 1)
    (a, setField (setField (setField tr i 0 64 b) (i + 1) 0 32 r) (i + 1) 32 32 t)
  | _ => (asmFail a, tr)
/-- One number in a field. -/
def asmField (a : Asm) (tr : List Word) (i lo n : Nat) (hi : Int) (args : List Chars) : Asm × List Word :=
  match args with
  | [v] =>
    let (a, v) := asmInRange a v 0 hi
    (a, setField tr i lo n v)
  | _ => (asmFail a, tr)
/-- The output scale of .fmt: auto or an exponent. -/
def asmScale (a : Asm) (tr : List Word) (l : Chars) : Asm × List Word :=
  if String.ofList l = "auto" then (a, setField tr 9 56 8 0)
  else
    let (a, e) := asmInRange a l (-127) 127
    (a, setField tr 9 56 8 (e + 128))
/-- .fmt fa, fb, fc[, scale][, acc]. -/
def asmFormats (a : Asm) (tr : List Word) (args : List Chars) : Asm × List Word :=
  match args with
  | fa :: fb :: fc :: rest =>
    (match fmtTok (String.ofList fa), fmtTok (String.ofList fb), fmtTok (String.ofList fc) with
    | some fa, some fb, some fc =>
      let tr := setField (setField (setField tr 9 0 4 (fmtCode fa)) 9 4 4 (fmtCode fb)) 9 8 4 (fmtCode fc)
      (match rest with
      | [] => (a, tr)
      | [x] => if String.ofList x = "acc" then (a, setField tr 9 48 1 1) else asmScale a tr x
      | [x, y] => if String.ofList y = "acc" then asmScale a (setField tr 9 48 1 1) x else (asmFail a, tr)
      | _ => (asmFail a, tr))
    | _, _, _ => (asmFail a, tr))
  | _ => (asmFail a, tr)
/-- .succ: at most five addresses. -/
def asmSuccessors (a : Asm) (tr : List Word) (args : List Chars) : Asm × List Word :=
  if args.isEmpty || 5 < args.length then (asmFail a, tr)
  else args.zipIdx.foldl (fun (a, tr) (l, i) =>
    let (a, v) := asmValue a l
    (a, setField tr (11 + i) 0 64 v)) (a, tr)
/-- A statement of a task record. -/
def asmTaskLine (a : Asm) (tr : List Word) (d : String) (args : List Chars) : Asm :=
  let (a, tr) := match d with
    | ".kind" => (match args.map fun k => kindCode (String.ofList k) with
      | [some k] => (a, setField tr 0 0 4 k)
      | _ => (asmFail a, tr))
    | ".prio" => asmField a tr 0 16 2 3 args
    | ".preds" => asmField a tr 0 48 16 65535 args
    | ".a" => asmExtent a tr 2 args
    | ".b" => asmExtent a tr 4 args
    | ".c" => asmExtent a tr 6 args
    | ".mk" => (match args with
      | [m, k] =>
        let (a, tr) := asmField a tr 8 32 16 65535 [m]
        asmField a tr 8 0 32 (2 ^ 32 - 1) [k]
      | _ => (asmFail a, tr))
    | ".fmt" => asmFormats a tr args
    | ".slot" => asmField a tr 9 32 5 31 args
    | ".ctr" => (match args with
      | [v] => let (a, v) := asmValue a v
               (a, setField tr 10 0 64 v)
      | _ => (asmFail a, tr))
    | ".succ" => asmSuccessors a tr args
    | _ => (asmFail a, tr)
  { a with blk := .task tr }

/-! ### Directives -/

/-- .byte, .half, .word and .dword: values of n bytes each, in the signed or unsigned range (R25). -/
def asmData (a : Asm) (n : Nat) (args : List Chars) : Asm :=
  if args.isEmpty then asmFail a
  else
    let (a, bs) := args.foldl (fun (a, bs) l =>
      let (a, v) := asmInRange a l (-(2 ^ (8 * n - 1) : Nat)) ((2 ^ (8 * n) : Nat) - 1)
      (a, bs ++ leBytes n (v % (2 ^ (8 * n) : Nat)).toNat)) (a, [])
    asmPlace a bs
/-- .space n[, fill]. -/
def asmSpace (a : Asm) (args : List Chars) : Asm :=
  match args with
  | [n] =>
    let (a, n) := asmInRange a n 0 (2 ^ 30)
    asmPlace a (List.replicate n.toNat 0)
  | [n, f] =>
    let (a, n) := asmInRange a n 0 (2 ^ 30)
    let (a, f) := asmInRange a f 0 255
    asmPlace (asmNote a (a.sec != .cask)) (List.replicate n.toNat (BitVec.ofInt 8 f))
  | _ => asmFail a
/-- .align n. -/
def asmAlignLine (a : Asm) (args : List Chars) : Asm :=
  match args with
  | [n] =>
    let (a, n) := asmInRange a n 1 65536
    if (List.range 17).any fun k => n == (2 ^ k : Nat) then asmAlign a n.toNat (a.sec == .text) else asmFail a
  | _ => asmFail a
/-- The data directives; none for another one. -/
def asmDataLine (a : Asm) (d : String) (args : List Chars) : Option Asm :=
  match d with
  | ".byte" => some (asmData a 1 args)
  | ".half" => some (asmData a 2 args)
  | ".word" => some (asmData a 4 args)
  | ".dword" => some (asmData a 8 args)
  | ".space" => some (asmSpace a args)
  | ".block" => some (asmBlock a args)
  | ".align" => some (asmAlignLine a args)
  | _ => none
/-- A block opens in the current data section, aligned, and its name is the address of its first byte (R27 to R29). -/
def asmOpen (a : Asm) (args : List Chars) (n : Nat) (b : OpenBlock) : Asm :=
  match args with
  | [name] =>
    if a.sec = .data || a.sec = .rodata then
      let a := asmAlign a n false
      { asmDefine a (String.ofList name) (asmHere a) with blk := b }
    else asmFail a
  | _ => asmFail a
/-- A directive outside a block. Cask space takes only .page, .align and .space without fill (R25); .equ, .global and .entry, which
place nothing, stand there too (DESIGN CHOICE, log 80). -/
def asmDirective (a : Asm) (d : String) (args : List Chars) : Asm :=
  let select := fun s => if args.isEmpty then { a with sec := s } else asmFail a
  match d with
  | ".text" => select .text
  | ".rodata" => select .rodata
  | ".data" => select .data
  | ".cask" => select .cask
  | ".page" => if args.isEmpty then asmAlign a 65536 false else asmFail a
  | ".equ" => (match args with
    | [n, e] =>
      let (a, v) := asmValue a e
      asmDefine a (String.ofList n) v
    | _ => asmFail a)
  | ".global" => asmNote a (!args.isEmpty && args.all fun n => isSymbol (String.ofList n))
  | ".entry" => (match args with
    | [l] =>
      let (a, v) := asmValue a l
      { a with entry := some v }
    | _ => asmFail a)
  | ".rowimage" => asmOpen a args 1024 (.image (List.replicate 1024 0) 512)
  | ".taskrec" => asmOpen a args 64 (.task (List.replicate 16 0))
  | _ =>
    if a.sec = .cask && d != ".align" && d != ".space" then asmFail a
    else (asmDataLine a d args).getD (asmFail a)
/-- A row word of an image (R27). -/
def imageWord (a : Asm) (im : List Byte) (pos n : Nat) (v : Int) : Asm :=
  { a with blk := .image (im.take (8 * n) ++ leBytes 8 (v % (2 ^ 64 : Nat)).toNat ++ im.drop (8 * n + 8)) pos }
/-- gn or dn with a value: g1 to g31 and d64 to d127 (R27). -/
def imageRegister (s : String) : Option Nat :=
  match s.toList with
  | 'g' :: r => (smallNum 32 r).bind fun n => if n = 0 then none else some (32 + n)
  | 'd' :: r => (smallNum 128 r).bind fun n => if n < 64 then none else some n
  | _ => none
/-- A statement inside a row image (R27). -/
def asmImageLine (a : Asm) (im : List Byte) (pos : Nat) (l : Chars) : Asm :=
  let (d, rest) := firstWord l
  let word := fun (n : Nat) (hi : Option Int) (e : Chars) =>
    let (a, v) := match hi with | some h => asmInRange a e 0 h | none => asmValue a e
    imageWord a im pos n v
  match d with
  | ".pc" => word 1 none rest
  | ".pred" => word 2 (some 65535) rest
  | ".handler" => word 8 none rest
  | _ =>
    match asmDataLine a d (splitArgs rest) with
    | some a => a
    | none =>
      match splitChars (· == '=') l with
      | [r, e] => (match imageRegister (String.ofList (trimChars r)) with
        | some n => word n none e
        | none => asmFail a)
      | _ => asmFail a
/-- .end: the block takes its place. -/
def asmEnd (a : Asm) : Asm :=
  match a.blk with
  | .none => asmFail a
  | .image im _ => asmEmit { a with blk := .none } im
  | .task tr => asmEmit { a with blk := .none } (tr.flatMap fun w => leBytes 8 w.toNat)

/-! ### Lines and passes -/

/-- An instruction line with the prefix lines above it; cask space takes none, and the code section is aligned (R25). -/
def asmInstruction (a : Asm) (l : Chars) : Asm :=
  let a := asmNote a (a.sec != .cask && (a.sec != .text || (secBuf a).len % 4 == 0))
  match readInstruction (asmEnv a) (asmHere a) a.pend l with
  | some (ws, ok) => asmEmit { asmNote a ok with pend := [] } (ws.flatMap wordBytes)
  | none => asmEmit { asmFail a with pend := [] } (List.replicate (4 * (a.pend.length + 1)) 0)
/-- One line of source (R9). Prefix lines stand directly above their instruction, and only the first may have a label (R19, R21).
Lines of a row image or a task record carry no label (DESIGN CHOICE, log 80: R27 and R29 list statements only). -/
def asmLine (a : Asm) (line : Chars) : Asm :=
  let (label, l) := splitLabel (uncomment line)
  let (d, rest) := firstWord l
  let isPrefix := (["px.i", "px.r", "px.o"] : List String).contains d
  let a := match label with
    | some s => asmNote (asmDefine a s (asmHere a)) (a.blk == .none && (a.pend.isEmpty || !isPrefix))
    | none => a
  if l.isEmpty then a
  else match a.blk with
    | .image im pos => if d = ".end" then asmNote (asmEnd a) rest.isEmpty else asmImageLine a im pos l
    | .task tr => if d = ".end" then asmNote (asmEnd a) rest.isEmpty else asmTaskLine a tr d (splitArgs rest)
    | .none =>
      if isPrefix then
        match readPrefix (asmEnv a) d (splitArgs rest) with
        | some (p, ok) => { asmNote a ok with pend := a.pend ++ [p] }
        | none => asmFail a
      else if d.toList.head? = some '.' then asmDirective (asmNote { a with pend := [] } a.pend.isEmpty) d (splitArgs rest)
      else asmInstruction a l
/-- Nothing is left open. -/
def asmClose (a : Asm) : Asm := asmNote { a with pend := [], blk := .none } (a.pend.isEmpty && a.blk == .none)
def asmLines (a : Asm) (src : List Byte) : Asm :=
  asmClose ((splitChars (· == '\n') (src.map fun b => Char.ofNat b.toNat)).foldl asmLine a)
/-- The lengths of the sections. -/
def asmSizes (a : Asm) : List Nat := [a.text.len, a.rodata.len, a.data.len, a.cask.len]
/-- The first multiple of n from a number on. -/
def roundUp (n v : Nat) : Nat := (v + n - 1) / n * n
/-- Where the sections of given lengths begin in the body, each on a 64 KiB boundary, and where the body ends: an empty section takes
no place (log 81). -/
def sectionStarts (sizes : List Nat) : List Nat × Nat :=
  sizes.foldl (fun (l, e) n => (l ++ [roundUp 65536 e], if n = 0 then e else roundUp 65536 e + n)) ([], 0)
def bodyEnd (sizes : List Nat) : Nat := roundUp 64 (sectionStarts sizes).2
/-- The start of a pass, after one with given symbols and lengths; the code section is selected first (log 80). -/
def asmStart (base : Nat) (old : List (String × Int)) (sizes : List Nat) : Asm :=
  { sec := .text, text := ⟨[], 0⟩, rodata := ⟨[], 0⟩, data := ⟨[], 0⟩, cask := ⟨[], 0⟩, syms := [], old := old,
    bases := (sectionStarts sizes).1.map (base + ·), pend := [], blk := .none, entry := none, bad := false }
/-- Passes until symbols and lengths no longer change; fuel counts them, and text that does not settle is refused. -/
def asmSettle (pass : List (String × Int) → List Nat → Asm) : Nat → List (String × Int) → List Nat → Asm
  | 0, old, sizes => asmFail (pass old sizes)
  | n + 1, old, sizes =>
    let a := pass old sizes
    if a.syms = old && asmSizes a = sizes then a else asmSettle pass n a.syms (asmSizes a)
/-- The body of an image: the sections in order at their starts. -/
def asmBody (a : Asm) : List Byte :=
  let starts := (sectionStarts (asmSizes a)).1
  let bs := [a.text, a.rodata, a.data, a.cask].zip starts |>.foldl (fun (bs : List Byte) (b, s) =>
    if b.len = 0 then bs else bs ++ List.replicate (s - bs.length) 0 ++ b.rev.reverse) []
  bs ++ List.replicate (bodyEnd (asmSizes a) - bs.length) 0

end Sys2Proof.Machine
end

