-- ==== Sys2Proof/Machine/Translate.lean ====
section
/-!
DEFINITION. The translation of a portable module into a type-4 image: its header and sections, its text and graph
assembled, and its planned transfers as COPY nodes (R451, R455).
-/

namespace Sys2Proof.Machine

def le4 (bs : List Byte) (o : Nat) : Nat := leNat ((bs.drop o).take 4)
def le8 (bs : List Byte) (o : Nat) : Nat := leNat ((bs.drop o).take 8)

/-! ### The module (R455) -/

/-- The offset of a section: 0 the text, 1 the graph, 2 the plan. -/
def moduleOffset (m : List Byte) (k : Nat) : Nat := le8 m (24 + 8 * k)
/-- A section reaches to the next one or to the end of the module; of two at one offset the first is empty (log 81). -/
def moduleSection (m : List Byte) (k : Nat) : List Byte :=
  let o := moduleOffset m k
  let e := [0, 1, 2].foldl (fun e j =>
    let x := moduleOffset m j
    if (o < x || (o == x && k < j)) && x < e then x else e) m.length
  (m.drop o).take (e - o)
/-- A planned transfer: clusters by planned number, scratchpad offsets, length. -/
structure Transfer where
  src : Nat
  dst : Nat
  srcOff : Nat
  dstOff : Nat
  len : Nat
  deriving DecidableEq, Repr
/-- The transfer entries of a plan, 32 bytes each; fuel counts them. -/
def planEntries : Nat → List Byte → List Transfer
  | 0, _ => []
  | n + 1, bs => if bs.length < 32 then [] else
    ⟨le4 bs 0, le4 bs 4, le8 bs 8, le8 bs 16, le4 bs 24⟩ :: planEntries n (bs.drop 32)
def modulePlan (m : List Byte) : List Transfer :=
  let bs := moduleSection m 2
  planEntries (bs.length / 32) bs

/-! ### Planned transfers (R455) -/

/-- Where a translation places things: the address of the image's body, the partition's scratchpad window and its clusters. -/
structure Placement where
  base     : Nat
  spwin    : Nat
  clusters : List Nat
  deriving DecidableEq, Repr
/-- The cluster of the partition that a planned cluster maps to. -/
def mappedCluster (p : Placement) (i : Nat) : Nat := p.clusters.getD (i % p.clusters.length) 0
/-- An address in the scratchpad window (R162). -/
def windowAddr (p : Placement) (c off : Nat) : Nat := p.spwin + 2 ^ 23 * c + off
/-- A COPY record of one row of len bytes (R293 to R297, R309), with its predecessor count and successor. -/
def copyRecord (src dst len preds succ : Nat) : List Byte :=
  let shape := w64 (at_ len 32 + 1)
  [w64 (at_ preds 48 + 6), 0, w64 src, shape, 0, 0, w64 dst, shape, w64 (at_ 1 32 + len), 0, 0, w64 succ, 0, 0, 0, 0].flatMap
    fun w => leBytes 8 w.toNat
/-- A transfer becomes one COPY node when both clusters lie on one die, else two through a staging buffer, the second a
successor of the first. -/
def asmTransfer (p : Placement) (a : Asm) (t : Transfer) (staging : Nat) : Asm :=
  let (cs, cd) := (mappedCluster p t.src, mappedCluster p t.dst)
  let (src, dst) := (windowAddr p cs t.srcOff, windowAddr p cd t.dstOff)
  let a := asmAlign { a with sec := .data } 64 false
  if cs / 8 = cd / 8 then asmEmit a (copyRecord src dst t.len 0 0)
  else asmEmit a (copyRecord src staging t.len 0 (asmHere a + 128) ++ copyRecord staging dst t.len 1 0)
/-- Bytes of staging buffer that a transfer takes, in whole lines of 64 bytes. -/
def stagingLen (p : Placement) (t : Transfer) : Nat :=
  if mappedCluster p t.src / 8 = mappedCluster p t.dst / 8 then 0 else roundUp 64 t.len
/-- The transfers of a plan in order, their staging buffers one after another from an address on. -/
def asmPlan (p : Placement) (a : Asm) (plan : List Transfer) (staging : Nat) : Asm :=
  (plan.foldl (fun (a, st) t => (asmTransfer p a t st, st + stagingLen p t)) (a, staging)).1
/-- A pass over a module: the text, the graph, the plan; the staging buffers follow the body (log 81). -/
def modulePass (p : Placement) (m : List Byte) (old : List (String × Int)) (sizes : List Nat) : Asm :=
  let a := asmLines (asmStart p.base old sizes) (moduleSection m 0)
  let a := asmLines { a with sec := .data } (moduleSection m 1)
  asmPlan p a (modulePlan m) (p.base + bodyEnd sizes)

/-! ### The image (R451) -/

/-- A type-4 image with a version, an entry and a body. -/
def typeFour (version entry : Nat) (body : List Byte) : List Byte :=
  leBytes 4 0x4E475137 ++ leBytes 4 4 ++ leBytes 8 version ++ leBytes 8 body.length ++ leBytes 8 entry ++ leBytes 8 7
    ++ List.replicate 24 0 ++ body
/-- The sections lie in the module, and the plan is whole entries. -/
def moduleWhole (m : List Byte) : Bool :=
  ([0, 1, 2].all fun k => moduleOffset m k ≤ m.length) && (moduleSection m 2).length % 32 == 0
/-- The translation of a module: its image and the length of its staging buffers; none when a line is not verbose notation. -/
def translateModule (p : Placement) (m : List Byte) : Option (List Byte × Nat) :=
  if !moduleWhole m then none
  else
    let a := asmSettle (modulePass p m) (4 * m.length + 8) [] [0, 0, 0, 0]
    let entry := match a.entry with | some e => e - p.base | none => 0
    let body := asmBody a
    if a.bad || entry < 0 || entry % 4 ≠ 0 || (body.length : Int) ≤ entry && body.length ≠ 0 || 2 ^ 30 < body.length then none
    else some (typeFour (le4 m 4) entry.toNat body, ((modulePlan m).map (stagingLen p)).sum)

end Sys2Proof.Machine
end

