-- ==== Sys2Proof/Machine/Boot.lean ====
section
/-!
DEFINITION. Images and their checks, the boot ROM, resets of the device, PCTL's operations on a partition, and the
hypervisor's services (R440, R442, R451 to R457, R464, R468).
-/

namespace Sys2Proof.Machine

/-! ### Images (R451) -/

def sigBytes : Nat := 1772
def imgType (h : List Byte) : Nat := le4 h 4
def imgVersion (h : List Byte) : Nat := le8 h 8
def imgLength (h : List Byte) : Nat := le8 h 16
def imgEntry (h : List Byte) : Nat := le8 h 24
def imgPart (h : List Byte) : Nat := le8 h 32
/-- Bytes of an image with its signature and key. -/
def imgWhole (h : List Byte) : Nat := 64 + imgLength h + sigBytes + 56
/-- The header is one of R451. -/
def headGood (h : List Byte) : Bool :=
  h.length == 64 && le4 h 0 == 0x4E475137 && 1 ≤ imgType h && imgType h ≤ 4 && imgLength h % 64 == 0
    && imgLength h ≤ 2 ^ 30 && imgEntry h % 4 == 0 && (h.drop 40).all (· == 0)
/-- The header and the body, which the signature covers. -/
def imgSigned (im : List Byte) : List Byte := im.take (64 + imgLength (im.take 64))
def imgSignature (im : List Byte) : List Byte := (im.drop (64 + imgLength (im.take 64))).take sigBytes
def imgKey (im : List Byte) : List Byte := (im.drop (64 + imgLength (im.take 64) + sigBytes)).take 56
/-- The check of an image for a type and a key hash, as IMG of PSTAT codes it (R441, R453): header, type and part,
signature, key hash (log 34). -/
def imgCheck (im : List Byte) (type : Nat) (hash : BitVec 256) : Nat :=
  let h := im.take 64
  if !headGood h then 1
  else if imgType h ≠ type || imgPart h ≠ 7 then 4
  else if im.length < imgWhole h || !Config.lmsVerify (imgSigned im) (imgSignature im) (imgKey im) then 2
  else if Config.sha256 (imgKey im) ≠ hash then 3
  else 0
/-- An image in memory at a physical address: the blocks that are read are checked by the stack controller (R61). -/
def readImage (s : State) (q pa : Nat) : State × List Byte :=
  let s := checkBulk s q pa 64
  let h := readNow s pa 64
  if headGood h then
    let s := checkBulk s q pa (imgWhole h)
    (s, readNow s pa (imgWhole h))
  else (s, h)
/-- No line of an image in memory is being changed or held under ENG (R85). -/
def imageQuiet (s : State) (pa : Nat) : Bool :=
  let h := readNow s pa 64
  linesQuiet s 0x80 [(pa, 64)] && (!headGood h || linesQuiet s 0x80 [(pa, imgWhole h)])
/-- PKEYH as one number (R439). -/
def keyHash (p : Part) : BitVec 256 :=
  BitVec.ofNat 256 (p.pkeyh.zipIdx.foldl (fun n (w, i) => n + w.toNat * 2 ^ (64 * i)) 0)
/-- A hash as its 32 bytes. -/
def hashBytes (h : BitVec 256) : List Byte := leBytes 32 h.toNat

/-! ### Boot and device resets (R452, R464, R468) -/

/-- What a device reset leaves: the lifetime store, global time, the key generations (log 6), the model's own counters and
what left the device; the boot ROM is about to run. -/
def deviceReset (s : State) : State :=
  let keys := s.hub.keys.map fun (k, x) => (k, { KeySlot.init with gen := x.gen + 1 })
  { State.reset with
    count := s.count, turns := s.turns, time := s.time, vectors := s.vectors, reads := s.reads
    hub := { HubDie.init with lt := s.hub.lt, ltNv := s.hub.ltNv, keys := keys, trans := s.hub.trans, tmax := s.hub.tmax,
                              thr := s.hub.thr, pwrCur := if s.hub.thr then 3 else 0 } }
/-- The code with which the boot ends (R452): self-test, no image, header, signature, version (log 8). -/
def bootCode (s : State) : Nat :=
  let im := Config.firmwareImage
  if !Config.selfTestPasses then 5
  else if im.length < 64 then 1
  else match imgCheck im 1 Config.romKeyHash with
    | 0 => if imgVersion im < mapGet s.hub.lt 0x204 0 then 4 else 0
    | 1 => 2
    | 4 => 2
    | _ => 3
/-- The management executor's row: bank row 0 of executor 544, at hypervisor privilege. -/
def managementRow (pc : Word) : Image :=
  imgSet (imgSet (imgSet Image.init 1 pc) 2 (w64 (at_ 2 16))) 3 (w64 (at_ mgmtPart 40))
/-- The place in stack memory to which the ROM loads the firmware: a free value (log 8). -/
def firmwareBase (s : State) : State × Nat :=
  let (s, f) := draw s 0x452
  (s, f.toNat % (stackTop / 2 ^ 31) * 2 ^ 31)
/-- BOOT (R452): the firmware is loaded and started, or the management executor halts (R445, R464). -/
def execBoot (s : State) : Host.Outcome State Fault Refusal :=
  let im := Config.firmwareImage
  let code := bootCode s
  let s := ltAdd s 0x205 1
  let s := { s with hub := { s.hub with bootCode := BitVec.ofNat 8 code, bootDone := true, bootFail := Config.failedStacks } }
  let s := if code ≠ 0 then raiseVector (ltAdd { s with hub := { s.hub with mgmtHalted := true } } 0x202 1) 0 2
    else
      let (s, base) := firmwareBase s
      let s := merge s base im (keyA s mgmtPart)
      let h := { s.hub with
        bootVersion := BitVec.ofNat 32 (imgVersion im), bootPver := Config.portableVersion
        fwHash := Config.sha256 (imgSigned im), mgmtHalted := false }
      let pr := 544 * 2048
      makeReady { s with hub := h, rows := mapSet s.rows pr (managementRow (w64 (base + 64 + imgEntry im))) } pr
  .next (raiseVector s 0 4)
/-- WARM_RESET (R468): the lifetime store stays; stack contents, key slots and partitions are lost. -/
def execWarmReset (s : State) : Host.Outcome State Fault Refusal := .next (deviceReset s)
/-- POWER_LOSS (R464): counts since the last flush are lost. -/
def execPowerLoss (s : State) : Host.Outcome State Fault Refusal :=
  let t := deviceReset s
  .next { t with hub := { t.hub with lt := s.hub.ltNv, thr := false, pwrCur := 0 } }
/-- ORDERLY_SHUTDOWN (R464). -/
def execOrderlyShutdown (s : State) : Host.Outcome State Fault Refusal :=
  .next { s with hub := { s.hub with ltNv := s.hub.lt } }

/-! ### ENABLE and DISABLE (R440, R453) -/

def pctlDone (s : State) (q : Nat) (bad : Bool) : State :=
  let p := part s q
  setPart s q { p with pctlBusy := false, badcfg := p.badcfg || bad }
def keysOf (p : Part) : List Nat :=
  (if bit p.pdef1 7 then [bits p.pdef1 0 6] else []) ++ if bit p.pdef1 15 then [bits p.pdef1 8 6] else []
def meets (a b : List Nat) : Bool := a.any fun x => b.contains x
/-- A partition's units collide with those of another that is enabled. -/
def collides (p o : Part) : Bool :=
  meets (clustersOf p) (clustersOf o) || meets (ctlOf p) (ctlOf o) || meets (slicesOf p) (slicesOf o) || meets (keysOf p) (keysOf o)
/-- The stack ranges of two partitions overlap, enabled or not (R440). -/
def rangesMeet (p o : Part) : Bool := overlap (pbase p) (stackLen p) (pbase o) (stackLen o)
/-- What ENABLE requires, but for the image. -/
def mayEnable (s : State) (q : Nat) : Bool :=
  let p := part s q
  s.hub.bootCode == 0 && !(clustersOf p).isEmpty && !(ctlOf p).isEmpty && !(slicesOf p).isEmpty
    && decide (pbase p + stackLen p ≤ stackTop) && bit p.pdef1 7 && ((keysOf p).all fun k => (keySlot s k).valid)
    && ((slicesOf p).all fun k => !s.hub.bootFail.getLsbD (stackOf k))
    && s.parts.all fun (k, o) => k == q || !(rangesMeet p o || (o.en && collides p o))
/-- The kernel's row (R453): on the lowest control executor, at supervisor privilege, PC at the entry, g1 the image. -/
def kernelImage (q lrow : Nat) (p : Part) (entry : Nat) : Image :=
  let im := imgSet (imgSet Image.init 1 (p.pimg + w64 (64 + entry))) 2 (w64 (at_ 1 16))
  imgSet (imgSet im 3 (w64 (at_ q 40 + lrow))) 33 p.pimg
/-- The image is started: one row; none while there is no room for it. -/
def startImage (s : State) (q : Nat) : Option State :=
  let p := part s q
  match ctlOf p, freeIds s q 1 with
  | x :: _, some lrow =>
    placeRow s ⟨q, lrow⟩ (512 + x) (kernelImage q lrow p (imgEntry (readNow s p.pimg.toNat 64)))
  | _, _ => none
/-- The check of the system image, recorded in IMG. -/
def checkSystemImage (s : State) (q : Nat) : State × Bool :=
  let (s, im) := readImage s q (part s q).pimg.toNat
  let p := part s q
  let r := imgCheck im 2 (keyHash p)
  let s := setPart s q { p with img := BitVec.ofNat 4 r, sysHash := if r = 0 then Config.sha256 (imgSigned im) else p.sysHash }
  (s, r == 0)
/-- The scratchpad window that the hypervisor sets for a partition (R162): a multiple of 256 MiB. No rule says by which register or when;
the model takes a free value at ENABLE (DESIGN CHOICE, log 102). -/
def setWindow (s : State) (q : Nat) : State :=
  let (s, f) := draw s 0x162
  setPart s q { part s q with spwin := field f 28 29 }
/-- ENABLE; it stays BUSY while the kernel's row has no room, or an engine holds a line of the image (R85). -/
def execEnable (q : Nat) (s : State) : Host.Outcome State Fault Refusal :=
  .next (if !mayEnable s q then pctlDone s q true
    else if !imageQuiet s (part s q).pimg.toNat then send s (.enable q)
    else
      let (s, good) := checkSystemImage s q
      if !good then pctlDone s q true
      else match startImage s q with
        | some s => pctlDone (setWindow (setPart s q { part s q with en := true }) q) q false
        | none => send s (.enable q))
/-- DISABLE needs RUN to be 0. -/
def execDisable (q : Nat) (s : State) : Host.Outcome State Fault Refusal :=
  .next (if running s q then pctlDone s q true else pctlDone (setPart s q { part s q with en := false }) q false)

/-! ### RESET (R442) -/

/-- Bank rows of a partition, those of its control executors too. -/
def bankRows (s : State) (q : Nat) : List Nat := (s.rows.filter fun x => (rowId s x.1).part == q).map (·.1)
/-- Step 2: FREEZE reaches every row. -/
def freezeAll (s : State) (q : Nat) : State :=
  (bankRows s q).foldl (fun s pr =>
    if rowState s pr = stFrozen || rowState s pr = stParked || inTransfer s (.bank pr) || tierBusy s q then s
    else commandFreeze s (rowId s pr)) s
/-- What step 2 waits for: copy commands, RUNNING nodes, lane commands that are not parked, tier misses, and accesses of q's rows
and registrations on their way. -/
def resetReady (s : State) (q : Nat) : Bool :=
  ((bankRows s q).all fun pr => rowState s pr == stFrozen || rowState s pr == stParked)
    && !(s.clusters.any fun (_, x) => x.cmds.any fun k => k.row.part == q)
    && !(s.hubs.any fun (_, h) => h.nodes.any fun n => n.part == q && n.state == 3)
    && !(s.pools.any fun (_, x) => x.claims.any fun c => c.row.part == q && !c.cmds.isEmpty && c.parked.isNone)
    && !tierBusy s q
    && !(s.regs.any fun p => p.part == q) && !(s.misses.any fun m => m.ops.any fun o => o.2.part == q)
/-- Messages of a partition's launches, nodes and arrivals that are on their way. -/
def discarded (q : Nat) (m : Msg) : Bool :=
  match m with
  | .postReceive p => p.row.part == q
  | .forkRequest p => p.row.part == q
  | .nodeRelease p _ _ => p == q
  | .rowCreate p _ _ => p == q
  | .launchComplete p _ => p == q
  | .barrierArrival a => a.row.part == q
  | .rdvArrival a _ _ => a.row.part == q
  | .syncCompletion r _ _ _ _ => r.part == q
  | .resultArrival p => p.row.part == q
  | .commit _ r _ => r.part == q
  | .parkCommand r => r.part == q
  | .unpark r => r.part == q
  | .move r _ => r.part == q
  | _ => false
/-- Step 3: rows, nodes, launches, claims, domain counts, meeting points, done-table and directory entries are gone. -/
def discardWork (s : State) (q : Nat) : State :=
  let s := retireRows s q fun _ => true
  let mine := (clustersOf (part s q)).flatMap tilesOf
  let s := setPart s q { part s q with forks := [], taken := none }
  { s with
    agenda := s.agenda.filter fun m => !discarded q m
    hubs := s.hubs.map fun (d, h) => (d, { h with
      nodes := h.nodes.filter (fun n => n.part != q), kept := h.kept.filter (fun n => n.part != q),
      dir := h.dir.filter (fun e => e.part != q), done := h.done.filter fun d => d.row.part != q })
    tiles := s.tiles.map fun (e, t) => (e, if mine.contains e then { t with resv := 0, busy := none, parked := none } else t)
    saves := s.saves.filter fun (k, _) => k / 128 != q
    torn := s.torn.filter fun b => b.row.part != q
    clusters := s.clusters.map fun (c, x) => (c, { x with heldCmds := x.heldCmds.filter fun k => k.row.part != q })
    launches := mapDel s.launches q
    domains := s.domains.filter fun u => u.part != q
    meetings := s.meetings.filter fun m => m.part != q
    meetWait := s.meetWait.filter fun m => m.part != q
    done := s.done.map fun (k, l) => (k, l.filter fun d => d.row.part != q) }
/-- Lines of the partition that a discarded command or node held under ENG are released (R85, R442). -/
def freeEngines (s : State) (q : Nat) : State :=
  (s.homes.filter fun (line, h) => h.reg.eng && ownerPart s (128 * line) == q).foldl (fun s (line, h) =>
    releaseEng s h.reg.ownA.toNat q 0 line 0 false) s
/-- An address is a partition's own memory. -/
def ownedBy (p : Part) (pa : Nat) : Bool := inStack p pa || inTier p pa
/-- Other modules hold leases of a partition's pages. -/
def leasedOut (s : State) (q : Nat) : Bool := s.leases.any fun l => l.isHome && ownedBy (part s q) (65536 * l.page)
/-- Step 4: registered words go home, the partition's lines and those on their way leave the caches, its leases are revoked,
HEAD := TAIL. -/
def flushPartition (s : State) (q : Nat) : State :=
  let p := part s q
  let agents := clustersOf p ++ (ctlOf p).map (0x60 + ·)
  let owned := ownedBy p
  let s := freeEngines s q
  let s := (s.caches.filter fun (k, _) => agents.contains (k / 2 ^ 40) && owned (128 * (k % 2 ^ 40))).foldl (fun s (k, _) =>
    dropCline (recallNow s (k % 2 ^ 40) (k / 2 ^ 40) (BitVec.allOnes 32)) (k / 2 ^ 40) (k % 2 ^ 40)) s
  let s := { s with
    misses := s.misses.map fun m => if agents.contains m.agent && owned (128 * m.line) then { m with cleared := true } else m
    leases := s.leases.map fun l => if l.isHome && owned (65536 * l.page) then { l with revoking := true } else l }
  setPart s q { part s q with lq := (part s q).lq.map fun x => { x with head := x.tail, rung := [] } }
/-- RESET: RST is set and every row frozen; once its work has ended the partition is emptied; when its leases have been revoked (R96),
RST clears, vector 7 is raised and, when q is enabled, the image is started again. -/
def execReset (q : Nat) (s : State) : Host.Outcome State Fault Refusal :=
  .next (
    let s := freezeAll (setPart s q { part s q with rst := true }) q
    if !resetReady s q then send s (.reset q)
    else
      let s := flushPartition (discardWork s q) q
      if leasedOut s q then send s (.reset q)
      else
        let s := raiseVector (setPart s q { part s q with rst := false }) (q + 1) 7
        if !(part s q).en then pctlDone s q false
        else
          let (s, good) := checkSystemImage s q
          if good then pctlDone ((startImage s q).getD s) q false else pctlDone s q true)

/-! ### The hypervisor's services (R454, R455, R457) -/

/-- Row r stands FAULTED at an hcall: its bank row and n. -/
def calling (s : State) (r : RowId) : Option (Nat × Nat) :=
  match locate s r with
  | .bank pr =>
    let d5 := rowWord s pr 5
    if rowState s pr = stFaulted && bits d5 0 8 = cTrap && bit d5 47 then some (pr, bits d5 32 10) else none
  | _ => none
/-- The service returns: g1 the status, g2 a length, and the row goes on after the call. -/
def hcallReturn (s : State) (pr status : Nat) (len : Option Nat) : State :=
  let s := setRowWord s pr 33 (w64 status)
  let s := match len with | some n => setRowWord s pr 34 (w64 n) | none => s
  makeReady s pr
def callArg (s : State) (pr i : Nat) : Nat := (rowWord s pr (32 + i)).toNat
/-- A byte range of the partition's flat stack memory. -/
def inFlatRange (s : State) (q a n : Nat) : Bool := inFlat (part s q) a n
/-- Serves hcall n; a number that names no service returns status 1. -/
def serve (s : State) (r : RowId) (n : Nat) (body : State → Nat → State) : State :=
  match calling s r with
  | some (pr, k) =>
    if k = n then body s pr
    else if k = 16 || k = 17 || k = 18 then s
    else hcallReturn s pr 1 none
  | none => s
/-- Status of a module's header (R455): magic and length, then the version window. -/
def moduleStatus (s : State) (m : List Byte) : Nat :=
  let v := le4 m 4
  let top := s.hub.bootPver.toNat
  if m.length < 48 || le4 m 0 ≠ 0x594C5631 || le8 m 8 ≠ m.length then 1
  else if top < v || v + 4 < top then 3
  else 0
/-- Where an image translated into an output area will run: the address at which the kernel maps its body, which nothing gives, is a
free value (log 81). -/
def translationPlace (s : State) (q out : Nat) : Placement :=
  ⟨bits (Config.freeWord 0x455 out) 16 40 * 65536, (part s q).spwin.toNat, clustersOf (part s q)⟩
/-- hcall 16: the module is translated into the output area, which holds the image and then its staging buffers. -/
def translateBody (r : RowId) (s : State) (pr : Nat) : State :=
  let q := r.part
  let (a, n, out, room) := (callArg s pr 1, callArg s pr 2, callArg s pr 3, callArg s pr 4)
  if !inFlatRange s q a n || !inFlatRange s q out room then hcallReturn s pr 6 none
  else if !linesQuiet s 0x80 [(a, n)] then send s (.translatePortableModule r)
  else
    let s := checkBulk s q a n
    let m := readNow s a n
    match moduleStatus s m with
    | 0 =>
      (match translateModule (translationPlace s q out) m with
      | none => hcallReturn s pr 1 none
      | some (im, staging) =>
        if room < im.length + staging then hcallReturn s pr 4 none
        else whenFree s 0x80 [(out, im.length)] (.translatePortableModule r) fun s =>
          let s := hubWrite s q 0x80 out im (keyA s q)
          let s := setPart s q { part s q with transHash := Config.sha256 im }
          hcallReturn s pr 0 (some im.length))
    | c => hcallReturn s pr c none
def execTranslatePortableModule (r : RowId) (s : State) : Host.Outcome State Fault Refusal :=
  .next (serve s r 16 (translateBody r))
/-- hcall 17: type 3, part 0x0007 and PKEYH; a line of the image under ENG is waited for, here and by the other services (R85). -/
def verifyBody (r : RowId) (s : State) (pr : Nat) : State :=
  let q := r.part
  let a := callArg s pr 1
  if !inFlatRange s q a 64 then hcallReturn s pr 6 none
  else if !imageQuiet s a then send s (.verifyNativeImage r)
  else
    let (s, im) := readImage s q a
    if headGood (im.take 64) && !inFlatRange s q a (imgWhole (im.take 64)) then hcallReturn s pr 6 none
    else match imgCheck im 3 (keyHash (part s q)) with
      | 0 => hcallReturn s pr 0 none
      | 1 => hcallReturn s pr 1 none
      | 4 => hcallReturn s pr 1 none
      | _ => hcallReturn s pr 2 none
def execVerifyNativeImage (r : RowId) (s : State) : Host.Outcome State Fault Refusal :=
  .next (serve s r 17 (verifyBody r))
/-- Bytes 0 to 175 of an attestation report (R457). -/
def reportHead (s : State) (q leaf : Nat) (nonce : List Byte) : List Byte :=
  leBytes 4 0x4E474154 ++ leBytes 4 leaf ++ hashBytes Config.deviceKeyHash ++ leBytes 8 s.hub.bootVersion.toNat
    ++ hashBytes s.hub.fwHash ++ hashBytes (part s q).sysHash ++ hashBytes (part s q).transHash ++ nonce
/-- The signature, whose first 4 bytes hold the leaf index as RFC 8554 writes it. -/
def reportSignature (leaf : Nat) (msg : List Byte) : List Byte :=
  (leBytes 4 leaf).reverse ++ ((Config.lmsSign leaf msg).drop 4 ++ List.replicate sigBytes 0).take (sigBytes - 4)
/-- hcall 18: the next leaf is taken, its index written through, and the report signed with it. -/
def attestBody (r : RowId) (s : State) (pr : Nat) : State :=
  let q := r.part
  let (a, out) := (callArg s pr 1, callArg s pr 2)
  let leaf := mapGet s.hub.lt 0x203 0
  if !inFlatRange s q a 32 || !inFlatRange s q out 1948 then hcallReturn s pr 6 none
  else if 2 ^ 20 ≤ leaf then hcallReturn s pr 5 none
  else if !linesQuiet s 0x80 [(a, 32)] then send s (.attest r)
  else whenFree s 0x80 [(out, 1948)] (.attest r) fun s =>
    let s := checkBulk s q a 32
    let h := s.hub
    let s := { s with hub := { h with lt := mapSet h.lt 0x203 (leaf + 1), ltNv := mapSet h.ltNv 0x203 (leaf + 1) } }
    let msg := reportHead s q leaf (readNow s a 32)
    let s := hubWrite s q 0x80 out (msg ++ reportSignature leaf msg) (keyA s q)
    hcallReturn s pr 0 (some 1948)
def execAttest (r : RowId) (s : State) : Host.Outcome State Fault Refusal := .next (serve s r 18 (attestBody r))

end Sys2Proof.Machine
end

