-- ==== Sys2Proof/Machine/Ports.lean ====
section
/-!
DEFINITION. The host port, the storage port and the peer ports (R429, R444 to R450).
-/

namespace Sys2Proof.Machine

/-! ### The host port (R444, R446) -/

/-- What a function's BAR leads to. -/
inductive BarPlace where
  | none
  | regs (base : Nat)
  | stack (q : Nat)
  deriving DecidableEq, Repr
/-- Function 0 is the physical function; function q + 1 belongs to partition q and answers only while EN is 1. -/
def barPlace (s : State) (fn bar : Nat) : BarPlace :=
  if fn = 0 then (if bar = 0 then .regs hubBase else .none)
  else if 32 < fn || !(part s (fn - 1)).en then .none
  else if bar = 0 then .regs (windowBase + 65536 * (fn - 1))
  else if bar = 2 then .stack (fn - 1)
  else .none
/-- The size of a register space. -/
def regSpan (base : Nat) : Nat := if base = hubBase then 2 ^ 20 else 65536
/-- Whole aligned dwords of an access, as offset and place in its bytes (log 35). -/
def dwordsIn (off n : Nat) : List (Nat × Nat) :=
  let first := (off + 7) / 8 * 8
  (List.range ((off + n - first) / 8)).map fun i => (first + 8 * i, first + 8 * i - off)
/-- A posted write to registers: each whole aligned dword, in order. -/
def hostRegWrite (s : State) (base : Nat) (a : HostAccess) : State :=
  (dwordsIn a.off a.data.length).foldl (fun s (o, i) =>
    if o < regSpan base then regWrite s (base + o) (w64 (le8 a.data i)) else s) s
/-- A write of an agent of the hub die to stack memory under key slot A: part of a block with another KEY is refused and
logged (R66, R84). -/
def portWrite (s : State) (q agent pa : Nat) (bs : List Byte) : State := hubWrite s q agent pa bs (keyA s q)
/-- The bytes of a BAR 2 access that lie in the partition's range. -/
def inBar (s : State) (q : Nat) (a : HostAccess) : Nat := min a.data.length (stackLen (part s q) - a.off)
/-- The memory that a posted write goes to. -/
def hostRanges (s : State) (a : HostAccess) : List (Nat × Nat) :=
  match barPlace s a.fn a.bar with
  | .stack q => [(pbase (part s q) + a.off, inBar s q a)]
  | _ => []
/-- A posted write performed. -/
def hostWrite (s : State) (a : HostAccess) : State :=
  match barPlace s a.fn a.bar with
  | .none => s
  | .regs b => hostRegWrite s b a
  | .stack q => portWrite s q 0x81 (pbase (part s q) + a.off) (a.data.take (inBar s q a))
/-- Posted writes of a function that wait, oldest first. -/
def postedOf (s : State) (fn : Nat) : List HostAccess := s.posted.filter fun a => a.fn == fn
def postedAgain (s : State) (fn : Nat) : Bool :=
  s.agenda.any fun m => match m with | .hostPostedWrite a => a.fn == fn | _ => false
/-- The oldest posted write of a function is performed, and the next one is due; one to a line that is busy, or to a page that
another module has a lease of (R96), comes again. -/
def postNext (s : State) (fn : Nat) : State :=
  match postedOf s fn with
  | [] => s
  | a :: rest =>
    if !rangesFree s 0x81 (hostRanges s a) then send (askRanges s (hostRanges s a)) (.hostPostedWrite a)
    else
      let s := hostWrite s a
      let s := { s with posted := dropFirst (· == a) s.posted }
      match rest with
      | [] => s
      | b :: _ => send s (.hostPostedWrite b)
/-- HOST_POSTED_WRITE: writes of a function are performed in their order (R446). -/
def execHostPostedWrite (a : HostAccess) (s : State) : Host.Outcome State Fault Refusal :=
  .next (match postedOf s a.fn with
    | [] => postNext { s with posted := s.posted ++ [a] } a.fn
    | b :: _ =>
      if postedAgain s a.fn then { s with posted := s.posted ++ [a] }
      else if a = b then postNext s a.fn
      else postNext { s with posted := s.posted ++ [a] } a.fn)
/-- All ones. -/
def onesBytes (n : Nat) : List Byte := List.replicate n (BitVec.allOnes 8)
/-- The bytes of registers: each dword that the access touches is read once, in order. -/
def hostRegRead (s : State) (base off n : Nat) : State × List Byte :=
  let (s, bs) := (List.range ((off % 8 + n + 7) / 8)).foldl (fun (s, bs) i =>
    let o := off / 8 * 8 + 8 * i
    if o < regSpan base then
      let (s, v) := regRead s (base + o)
      (s, bs ++ leBytes 8 v.toNat)
    else (s, bs ++ leBytes 8 0)) (s, [])
  (s, (bs.drop (off % 8)).take n)
/-- A byte of stack memory under key slot A; in a block that is delivered bad it is a free value (log 5). -/
def barByte (s : State) (key pa : Nat) (b : Byte) (i : Nat) : Byte :=
  if delivery s pa key = 0 then b else (Config.freeWord 0x444 (s.count + i)).extractLsb' 0 8
/-- A read by a unit of the hub die: the blocks are checked (R61), and those that it may not decrypt logged (R66). -/
def barRead (s : State) (q agent pa n : Nat) : State × List Byte :=
  let s := logKeys (checkBlocks s q pa n) q agent pa n (keyA s q)
  let bs := (readNow s pa n).zipIdx.map fun (b, i) => barByte s (keyA s q) (pa + i) b i
  ({ s with count := s.count + n }, bs)
/-- HOST_BAR_READ (R444): after the function's earlier posted writes; the answer leaves the device. -/
def execHostBarRead (a : HostAccess) (s : State) : Host.Outcome State Fault Refusal :=
  let n := a.data.length
  let answer := fun (x : State × List Byte) => { x.1 with reads := x.1.reads ++ [(a, x.2)] }
  .next (if !(postedOf s a.fn).isEmpty then send s (.hostBarRead a)
    else match barPlace s a.fn a.bar with
      | .none => answer (s, onesBytes n)
      | .regs b => answer (hostRegRead s b a.off n)
      | .stack q =>
        let pa := pbase (part s q) + a.off
        let k := inBar s q a
        if !linesQuiet s 0x81 [(pa, k)] then send s (.hostBarRead a)
        else
          let (s, bs) := barRead s q 0x81 pa k
          answer (s, bs ++ onesBytes (n - k)))

/-! ### The storage port (R450) -/

/-- The storage port as an engine: its agent, 0x82, is 0x20 and this. -/
def storageEngine : Nat := 0x62
/-- Fields of a submission entry, its eight dwords. -/
def nvOpcode (e : List Word) : Nat := bits (nth e 0 0) 0 8
def nvSgl (e : List Word) : Bool := bits (nth e 0 0) 14 2 != 0
def nvCid (e : List Word) : Nat := bits (nth e 0 0) 16 16
def nvNsid (e : List Word) : Nat := bits (nth e 0 0) 32 32
def nvPrp1 (e : List Word) : Nat := (nth e 3 0).toNat
def nvPrp2 (e : List Word) : Nat := (nth e 4 0).toNat
/-- Bytes that a command moves: blocks of a Read or Write, ranges of a Dataset Management command. -/
def nvLength (e : List Word) : Nat :=
  match nvOpcode e with
  | 1 => (bits (nth e 6 0) 0 16 + 1) * Config.blockSize (nvNsid e)
  | 2 => (bits (nth e 6 0) 0 16 + 1) * Config.blockSize (nvNsid e)
  | 9 => (bits (nth e 5 0) 0 8 + 1) * 16
  | _ => 0
/-- The device's statuses: success 0; the generic codes of the checks (R450). -/
def nvBadOpcode : Nat := 0x01
def nvBadField : Nat := 0x02
def nvBadSpace : Nat := 0x0B
/-- A PRP range admitted to a partition (R450 step 3). -/
def prpPlace (p : Part) (a n : Nat) : Bool :=
  inFlat p a n && !hitsCell p a n && !hitsTail p a n && !hitsRack p a n && !overlap a n (saveBase p) (2 ^ 30)
/-- The ranges of a PRP list from entry a on for n bytes, and of the list itself (4 KiB pages, log 36): the last entry of a
list page leads on when more is left; fuel counts the entries. -/
def prpList (s : State) : Nat → Nat → Nat → List (Nat × Nat) × List (Nat × Nat)
  | 0, _, _ => ([], [])
  | fuel + 1, a, n =>
    if n = 0 then ([], [])
    else
      let e := (dwordNow s a).toNat
      if a % 4096 = 4088 && 4096 < n then
        let (ds, ls) := prpList s fuel e n
        (ds, (a, 8) :: ls)
      else
        let m := min n 4096
        let (ds, ls) := prpList s fuel (a + 8) (n - m)
        ((e, m) :: ds, (a, 8) :: ls)
/-- The data ranges of a command in order, and the ranges of its PRP list. -/
def prpRanges (s : State) (e : List Word) : List (Nat × Nat) × List (Nat × Nat) :=
  let n := nvLength e
  if n = 0 then ([], [])
  else
    let m := min n (4096 - nvPrp1 e % 4096)
    let rest := n - m
    if rest = 0 then ([(nvPrp1 e, m)], [])
    else if rest ≤ 4096 then ([(nvPrp1 e, m), (nvPrp2 e, rest)], [])
    else
      let (ds, ls) := prpList s (rest / 2048 + 2) (nvPrp2 e) rest
      ((nvPrp1 e, m) :: ds, ls)
/-- The checks of R450 in their order: 0, or the status. -/
def nvCheck (s : State) (q : Nat) (e : List Word) : Nat :=
  let p := part s q
  let n := nvNsid e
  if !([0, 1, 2, 8, 9] : List Nat).contains (nvOpcode e) then nvBadOpcode
  else if n = 0 || 64 < n || !bit p.pns (n - 1) then nvBadSpace
  else if nvSgl e then nvBadField
  else
    let (ds, ls) := prpRanges s e
    if (ds ++ ls).all fun r => prpPlace p r.1 r.2 then 0 else nvBadField
def runsOfRanges (l : List (Nat × Nat)) : List Run := l.map fun r => ⟨r.1, .mem r.1, r.2, 0⟩
/-- Entries between two ring positions of 2^logn entries: counted modulo 2^32, or as indices (log 36). -/
def ringDist (tail head : W32) (logn : Nat) : Nat :=
  let d := (tail - head).toNat
  if d ≤ 2 ^ logn then d else d % 2 ^ logn
/-- Where the i-th entry from SQHEAD on lies. -/
def sqPlace (x : StorQ) (i : Nat) : Nat := bits x.nsq 12 52 * 4096 + 64 * ((x.sqHead.toNat + i) % 2 ^ bits x.nsq 0 4)
/-- The lines of n new entries and of their PRP lists take the hub's reads now (R72, R85). -/
def entriesReady (s : State) (q k n : Nat) : Bool :=
  (List.range n).all fun i =>
    let a := sqPlace (stor s q k) i
    linesQuiet s 0x82 ((a, 64) :: (prpRanges s (dwords 8 (readNow s a 64))).2)
/-- The hub reads a new entry and checks it: a good Read registers its destination lines at its start (R85); a failed
check completes the command. An open command keeps its entry, its status (0 while it runs, else 1 more) and its number. -/
def startCommand (s : State) (q k : Nat) : State :=
  let x := stor s q k
  let (s, bs) := barRead s q 0x82 (sqPlace x 0) 64
  let e := dwords 8 bs
  let s := (prpRanges s e).2.foldl (fun s r => logKeys (checkBlocks s q r.1 r.2) q 0x82 r.1 r.2 (keyA s q)) s
  let st := nvCheck s q e
  let id := s.copyNext
  let s := { s with copyNext := id + 1 }
  let s := setStor s q k { x with sqHead := x.sqHead + 1,
                                  open_ := x.open_ ++ [e ++ [w64 (if st = 0 then 0 else st + 1), w64 id]] }
  if st ≠ 0 then send s (.storageCompletion q k (nvCid e) st [])
  else if nvOpcode e = 2 then
    sendAll s ((runLines (runsOfRanges (prpRanges s e).1)).map fun l => .registration (engReq storageEngine q id l (keyA s q)))
  else s
/-- STORAGE_DOORBELL: SQTAIL has changed. Pairs whose LOGN differ ignore the ring (R450). An entry whose line an engine holds is waited
for (R85). -/
def execStorageDoorbell (q k : Nat) (v : Word) (s : State) : Host.Outcome State Fault Refusal :=
  let x := stor s q k
  let logn := bits x.nsq 0 4
  let tail := BitVec.ofNat 32 (bits v 0 32)
  .next (if logn ≠ bits x.ncq 0 4 then setBadcfg (traceCoh s q 7 3 0x82 0) q
    else if logn = 0 then s
    else if !entriesReady s q k (ringDist tail x.sqHead logn) then sendAgain s (.storageDoorbell q k v)
    else
      let n := ringDist tail x.sqHead logn
      let s := setStor s q k { x with sqTail := tail }
      let s := (List.range n).foldl (fun s _ => startCommand s q k) s
      setStor s q k { stor s q k with sqHead := tail })
/-- Room for a completion entry. -/
def cqRoom (x : StorQ) : Bool := ringDist x.cqTail x.cqHead (bits x.ncq 0 4) + 1 < 2 ^ bits x.ncq 0 4
/-- Where the next completion entry is written. -/
def cqPlace (x : StorQ) : Nat := bits x.ncq 12 52 * 4096 + 16 * (x.cqTail.toNat % 2 ^ bits x.ncq 0 4)
/-- The completion entry: one write of 16 bytes, the phase bit in it, then vector 6 (R445, R450). -/
def writeCompletion (s : State) (q k cid status : Nat) : State :=
  let x := stor s q k
  let logn := bits x.ncq 0 4
  let i := x.cqTail.toNat % 2 ^ logn
  let d := leBytes 8 0 ++ leBytes 2 (x.sqHead.toNat % 2 ^ logn) ++ leBytes 2 (k + 1) ++ leBytes 2 cid
    ++ leBytes 2 (num x.phase + 2 * status)
  let s := portWrite s q 0x82 (cqPlace x) d
  let s := setStor s q k { stor s q k with cqTail := x.cqTail + 1, phase := if i + 1 = 2 ^ logn then !x.phase else x.phase }
  if bit x.ncq 4 then raiseVector s (q + 1) 6 else s
/-- Read data goes to its ranges in order, and the lines registered for the command are released (R85). -/
def writeReadData (s : State) (q id : Nat) (ranges : List (Nat × Nat)) (data : List Byte) : State :=
  let (s, _) := ranges.foldl (fun (s, d) r => (portWrite s q 0x82 r.1 (d.take r.2), d.drop r.2)) (s, data)
  (runLines (runsOfRanges ranges)).foldl (fun s l =>
    if holdsEng s storageEngine id l then releaseEng s 0x82 q id l (lineWords (runsOfRanges ranges) l) false else s) s
/-- The command can complete: the ring has room, and a Read holds its lines. -/
def completionReady (s : State) (q k : Nat) (e : List Word) : Bool :=
  cqRoom (stor s q k) && (nth e 8 0 != 0 || nvOpcode e != 2 ||
    (runLines (runsOfRanges (prpRanges s e).1)).all fun l => holdsEng s storageEngine (nth e 9 0).toNat l)
/-- The memory that a completion writes: its entry, and the data of a Read. -/
def completionRanges (s : State) (q k n : Nat) (e : List Word) : List (Nat × Nat) :=
  (cqPlace (stor s q k), 16) :: if n = 0 then [] else (prpRanges s e).1
/-- STORAGE_COMPLETION: the status is the controller's, but for a failed check; a successful Read brings as many bytes as it
moves. A failed check waits for room, and each completion until its lines are free and no other module has a lease of their pages
(R96). -/
def execStorageCompletion (q k cid status : Nat) (data : List Byte) (s : State) : Host.Outcome State Fault Refusal :=
  let x := stor s q k
  .next (match x.open_.find? fun e => nvCid e == cid && (nth e 8 0 == 0 || (nth e 8 0).toNat == status + 1) with
    | none => s
    | some e =>
      let failed := nth e 8 0 != 0
      let n := if failed || status % 2 ^ 15 ≠ 0 || nvOpcode e ≠ 2 then 0 else nvLength e
      if !completionReady s q k e then (if failed then send s (.storageCompletion q k cid status data) else s)
      else if data.length ≠ n then s
      else whenFree s 0x82 (completionRanges s q k n e) (.storageCompletion q k cid status data) fun s =>
        let s := setStor s q k { x with open_ := dropFirst (· == e) x.open_ }
        let s := if nvOpcode e = 2 && !failed then
            writeReadData s q (nth e 9 0).toNat (prpRanges s e).1 data else s
        writeCompletion s q k cid (status % 2 ^ 15))

/-! ### Peer ports (R429, R449) -/

/-- PEER_LINK_UP: training ends. -/
def execPeerLinkUp (port : Nat) (rmod : BitVec 16) (s : State) : Host.Outcome State Fault Refusal :=
  let x := peer s port
  .next (if port < 12 && x.en && x.state == 1 then setPeer s port { x with state := 2, rmod := rmod } else s)
/-- A partition's traffic still has a port that is up. -/
def linked (s : State) (q : Nat) : Bool := s.peers.any fun (_, x) => x.en && x.state == 2 && x.chmask.getLsbD q
/-- The leases held through a port have lapsed, and with them the lines of their pages (R95, R449): those of the partitions of the
port's CHMASK to which no other port is open. -/
def lapseLeases (s : State) (chmask : BitVec 32) : State :=
  let gone := fun l : Lease => !l.isHome && (let q := ownerPart s (65536 * l.page); chmask.getLsbD q && !linked s q)
  (s.leases.filter gone).foldl (fun s l => dropPage s l.page) { s with leases := s.leases.filter fun l => !gone l }
/-- PEER_PORT_FAILURE: STATE 3, the count, the kept flits discarded, and the leases lapse. -/
def execPeerPortFailure (port : Nat) (s : State) : Host.Outcome State Fault Refusal :=
  let x := peer s port
  .next (if port < 12 && x.en && x.state != 3 then
      let s := { s with agenda := s.agenda.filter fun m => match m with | .peerFlitReceive f => f.port != port | _ => true }
      lapseLeases (ltAdd (setPeer s port { x with state := 3, kept := [] }) (0x206 + port) 1) x.chmask
    else s)
/-- A partition is frozen by a slice entry (R390, R429): the eviction has frozen its rows on a cluster, or has taken them away and the
partition has not come back. -/
def sliceFrozen (s : State) (q : Nat) : Bool :=
  s.clusters.any fun (_, x) => (x.pre.any fun y => y.slice && y.part == q && 2 ≤ y.stage)
    || (s.hub.gsEn && !(lastPset s).getLsbD q && x.evicted.contains q)
/-- The router of a row's cluster streams a partition out (R428 step 1). -/
def routerEvicts (s : State) (l : Loc) : Bool :=
  match l with
  | .bank pr => !isCtl (execOf pr) && (cluster s (clusterOf (execOf pr))).pre.any fun x => x.stage == 3
  | _ => false
/-- The delivery of a flit is refused with a retry. -/
def flitRefused (s : State) (f : Flit) : Bool :=
  inTransfer s (locate s f.acc.target) || routerEvicts s (locate s f.acc.target) || sliceFrozen s f.part
/-- Kept flits of a channel are delivered in sequence order until one is refused; fuel counts them. -/
def deliverKept : Nat → State → Nat → Nat → State
  | 0, s, _, _ => s
  | fuel + 1, s, port, q =>
    let x := peer s port
    let seq := mapGet x.next q 0
    match x.kept.find? fun f => f.part == q && f.seq == seq with
    | none => s
    | some f =>
      if flitRefused s f then s
      else
        let s := setPeer s port { x with kept := x.kept.filter (· != f), next := mapSet x.next q ((seq + 1) % 65536) }
        deliverKept fuel (arriveAccess s f.acc) port q
/-- A kept flit whose delivery is refused is tried again. -/
def retryKept (s : State) (port q : Nat) : State :=
  let x := peer s port
  match x.kept.find? fun f => f.part == q && f.seq == mapGet x.next q 0 with
  | some f => if s.agenda.contains (.peerFlitReceive f) then s else send s (.peerFlitReceive f)
  | none => s
/-- PEER_FLIT_RECEIVE: a flit of a channel that may use the port is kept once, if the channel's 64 KiB have room, and what
can be delivered is. -/
def execPeerFlitReceive (f : Flit) (s : State) : Host.Outcome State Fault Refusal :=
  let x := peer s f.port
  let f := { f with seq := f.seq % 65536 }
  let old := 32768 ≤ (f.seq + 65536 - mapGet x.next f.part 0) % 65536
  let mine := x.kept.filter fun g => g.part == f.part
  .next (if !(x.en && x.state == 2 && x.chmask.getLsbD f.part) then s
    else
      let s := if old || mine.any (fun g => g.seq == f.seq) || 256 ≤ mine.length then s
        else setPeer s f.port { x with kept := x.kept ++ [f] }
      retryKept (deliverKept 257 s f.port f.part) f.port f.part)

end Sys2Proof.Machine
end

