-- ==== Sys2Proof/Machine/Care.lean ====
section
/-!
DEFINITION. Sensors, the emergency throttle, the lifetime store's flush and the halt of the management executor (R434,
R464 to R467).
-/

namespace Sys2Proof.Machine

/-! ### Thermal notices (R434) -/

/-- Temperatures in units of 1/16 °C. -/
def celsius (t : Nat) : Nat := 16 * t
/-- The enabled partition that an executor belongs to. -/
def partOfExec (s : State) (e : Nat) : Option Nat :=
  (s.parts.find? fun (_, p) => p.en && (clustersOf p).contains (clusterOf e)).map (·.1)
/-- TMAX as the sensors last told it. -/
def noteHot (s : State) (temp : BitVec 16) : State :=
  { s with hub := { s.hub with tmax := if s.hub.tmax < temp then temp else s.hub.tmax } }
/-- THERMAL_NOTICE: past 95 °C an armed sensor sets THERM, sends one message of KIND 7 and is counted. -/
def execThermalNotice (e : Nat) (temp : BitVec 16) (s : State) : Host.Outcome State Fault Refusal :=
  let x := exec' s e
  .next (if e < 512 && x.armed && celsius 95 < temp.toNat then
      let s := ltAdd (noteHot (setExec s e { x with armed := false }) temp) (0x1000 + e) 1
      match partOfExec s e with
      | some q =>
        let p := part s q
        let s := setPart s q { p with therm := p.therm ||| (1#512 <<< e) }
        postMsg s (dieOf e) (.mbox q) ⟨msgHead 7 0 (agentOf e) 0 ⟨q, 0⟩, w64 e, w64 temp.toNat, 0⟩
      | none => s
    else s)
/-- SENSOR_FALLEN_BELOW_90C: the next rise sends a notice again; the hottest junction now is a free value (log 5). -/
def execSensorFallenBelow90c (e : Nat) (s : State) : Host.Outcome State Fault Refusal :=
  .next (if e < 512 then
      let (s, f) := draw s 0x465
      let s := { s with hub := { s.hub with tmax := f.extractLsb' 0 16 } }
      setExec s e { exec' s e with armed := true }
    else s)

/-! ### The emergency throttle (R465, R466) -/

/-- The vectors of a throttle's start and end (R445). -/
def throttleVectors (s : State) : State :=
  raiseVector ((s.parts.filter fun (_, p) => p.en).foldl (fun s (q, _) => raiseVector s (q + 1) 7) s) 0 3
/-- A change of the state in force: one transition, after which executors stand still for 2 us. -/
def forceState (s : State) (v : BitVec 3) : State :=
  if v = s.hub.pwrCur then s
  else { s with hub := { s.hub with pwrCur := v, pwrNext := some s.hub.pwrCtl, changing := true, trans := s.hub.trans + 1 } }
/-- THROTTLE_START: at 105 °C state max(PWR_CTL, 3) is in force at once. -/
def execThrottleStart (temp : BitVec 16) (s : State) : Host.Outcome State Fault Refusal :=
  .next (if !s.hub.thr && celsius 105 ≤ temp.toNat then
      let s := ltAdd (noteHot { s with hub := { s.hub with thr := true } } temp) 0x200 1
      throttleVectors (forceState s (maxState s s.hub.pwrCtl))
    else s)
/-- THROTTLE_END: the device returns to PWR_CTL. -/
def execThrottleEnd (s : State) : Host.Outcome State Fault Refusal :=
  .next (if s.hub.thr then
      let t := BitVec.ofNat 16 (celsius 100 - 1)
      let s := { s with hub := { s.hub with thr := false, tmax := if t < s.hub.tmax then t else s.hub.tmax } }
      throttleVectors (forceState s s.hub.pwrCtl)
    else s)

/-! ### The lifetime store and the management executor (R464, R467) -/

/-- The histogram's bins: a second of each die in the bin of its hottest junction, a free value (log 5). -/
def countSecond (s : State) : State :=
  [0, 1, 2, 3].foldl (fun s d =>
    let (s, f) := draw s 0x464
    ltAdd s (0x300 + 16 * d + bits f 0 4) 1) s
/-- LIFETIME_FLUSH: the counters go to the nonvolatile array. -/
def execLifetimeFlush (s : State) : Host.Outcome State Fault Refusal :=
  let s := countSecond s
  .next { s with hub := { s.hub with ltNv := s.hub.lt } }
/-- MANAGEMENT_HALT: counted, MGMT set, physical vector 2. -/
def execManagementHalt (s : State) : Host.Outcome State Fault Refusal :=
  .next (if s.hub.mgmtHalted then s
    else raiseVector (ltAdd { s with hub := { s.hub with mgmtHalted := true } } 0x202 1) 0 2)

end Sys2Proof.Machine
end

