-- ==== Sys2Proof/Machine/Casks.lean ====
section
/-!
DEFINITION. The cask instructions app, appl, seal and tail (R139 to R150): their checks, and the request that the tail
slice serves.
-/

namespace Sys2Proof.Machine

/-- The page base that a cask instruction names: its address with bits 15..0 zero (R142). -/
def caskBase (a : Word) : Word := a &&& ~~~0xFFFF#64
/-- INFO of a page of class ORDINARY or READ-ONLY (R142): 16; of a register page 14 (R438), of a host page 6 (R447). -/
def caskClassInfo (t : TlbEnt) : Nat :=
  match leafPlace t 0 with
  | .reg _ => 14
  | .host _ => 6
  | _ => 16
/-- What decides a cask instruction after the page is present (R142): class, permission, a sealed page, the source of
appl, then the key slot. -/
def caskStop (s : State) (t : TlbEnt) (need : Need) (append : Bool) (src : Option Word) : Option (FaultInfo × Option Word) :=
  let f := fun c i => faultOf c i 5
  if leafClass t.leaf < 2 then some (f cPagePerm (caskClassInfo t), none)
  else if isRemote s (leafFrame t.leaf) then some (f cPagePerm 17, none)
  else match permFault (priv s) need t.leaf with
    | some i => some (f cPagePerm i, none)
    | none =>
      if append && leafClass t.leaf = clsSealed then some (f cSealed 0, none)
      else if src.any fun b => bits b 0 6 != 0 || bits b 23 41 != 0 then some (f cAlign 0, src)
      else if !keyValid s (part s (curPart s)) (leafKey t.leaf) then some (f cPagePerm 7, none)
      else none
/-- The body on the page of a cask instruction, after the checks of R142; SEALED_WRITE of an append may go to the row's event
handler (R147). -/
def withCask (s : State) (a : Word) (need : Need) (append : Bool) (src : Option Word) (body : State → TlbEnt → State) :
    State :=
  let base := caskBase a
  if inWindow s (curPart s) a then fault s (faultOf cPagePerm 17 5) base
  else match lookup s base with
    | .miss => startWalk s base
    | .fault c i l => fault s ⟨c, i, 0, 5, l⟩ base
    | .leaf t =>
      match caskStop s t need append src with
      | some (f, where') => if f.cause = cSealed then caskFault s s.cur f base else fault s f (where'.getD base)
      | none => body s t
/-- The request goes to the tail slice; the row waits at the instruction for its reply, which moves the PC on (R143). -/
def sendCask (c : Ctl) (rd : Reg) (a : Word) (kind cls size : Nat) (op : HomeOp) (data : List Byte) (t : TlbEnt)
    (s : State) (i : Nat) : State :=
  let base := caskBase a
  let s := takeSlot s (.bank s.cur) i size (destOf rd) cls kind base
  let pa := leafFrame t.leaf + base.toNat % pageSize t.lvl
  let r := { requestOf s op i base pa size false t .norm data with id := if kind = 7 then t.pte else 0 }
  let s := setOpRec s { blankOp s i with na := nextPc c s, blocking := true, req := some r }
  send (countChain s) (reqMsg kind r)
/-- A cask instruction: its window check, the checks of its page, and its slot. -/
def caskChain (rd : Reg) (a : Word) (need : Need) (append : Bool) (src : Option Word) (s : State)
    (body : State → TlbEnt → Nat → State) : State :=
  if rd.win = 3 then fault s (faultOf cRowword 0 5) (pc s)
  else withCask s a need append src fun s t => withSlot s fun s i => body s t i
/-- The release of an append with REL (R150). -/
def appendRelease (m : CaskMod) : Option Scope := if m.rel then some .dev else none
/-- Size in bytes of app. -/
def appSize (m : CaskMod) : Nat := 8 / 2 ^ m.sz.toNat

/-- app (R144). -/
def execApp (c : Ctl) (rd ra rb : Reg) (m : CaskMod) (s : State) : Host.Outcome State Fault Refusal :=
  memChain c s fun s =>
    caskChain rd (readReg s ra) .write true none s fun s t i =>
      afterRelease s (appendRelease m) fun s =>
        sendCask c rd (readReg s ra) 5 2 (appSize m) (.append 0 true) (leBytes (appSize m) (readReg s rb).toNat) t s i
/-- appl (R142, R144): its 64 bytes are read from the cluster's scratchpad at issue; a control executor's row has none
(R382). -/
def execAppl (c : Ctl) (rd ra rb : Reg) (m : CaskMod) (s : State) : Host.Outcome State Fault Refusal :=
  memChain c s fun s =>
    if isCtl (curExec s) then fault s (faultOf cPagePerm 18 5) (pc s)
    else
      let src := readReg s rb
      caskChain rd (readReg s ra) .write true (some src) s fun s t i =>
        afterRelease s (appendRelease m) fun s =>
          if spadError s then fault s (faultOf cCheck 2 5) src
          else
            let cl := clusterOf (curExec s)
            let data := spadBytes s cl src.toNat 64
            sendCask c rd (readReg s ra) 6 2 64 (.append 0 true) data t (spadRead s cl) i
/-- seal (R145). -/
def execSeal (c : Ctl) (rd ra : Reg) (s : State) : Host.Outcome State Fault Refusal :=
  memChain c s fun s =>
    caskChain rd (readReg s ra) .write false none s fun s t i =>
      sendCask c rd (readReg s ra) 7 2 8 .reg [] t s i
/-- tail (R146). -/
def execTail (c : Ctl) (rd ra : Reg) (s : State) : Host.Outcome State Fault Refusal :=
  memChain c s fun s =>
    caskChain rd (readReg s ra) .read false none s fun s t i =>
      sendCask c rd (readReg s ra) 8 0 8 (.read .word) [] t s i

end Sys2Proof.Machine
end

