-- ==== Sys2Proof/Machine/Float.lean ====
section
/-!
DEFINITION. The meanings of the scalar floating-point and conversion instructions (R253 to R264).
-/

namespace Sys2Proof.Machine

/-- An arithmetic chain of two sources: the exact result rounded once into dfmt (R257). -/
def floatChain (c : Ctl) (rd ra rb : Reg) (m : FMod) (s : State) (op : Num → Num → Num) :
    Host.Outcome State Fault Refusal :=
  resultChain c rd s fun s => roundWord m.dfmt m.rnd (op (fmtValue m.sfmt (readReg s ra)) (fmtValue m.sfmt (readReg s rb)))
/-- A fused chain: the addend is read from rd in dfmt (R257). -/
def fusedChain (c : Ctl) (rd ra rb : Reg) (m : FMod) (s : State) (op : Num → Num → Num) :
    Host.Outcome State Fault Refusal :=
  resultChain c rd s fun s =>
    roundWord m.dfmt m.rnd (op (mulNum (fmtValue m.sfmt (readReg s ra)) (fmtValue m.sfmt (readReg s rb)))
      (fmtValue m.dfmt (readReg s rd)))
/-- A chain after which the row issues nothing for a number of cycles (R203, R253). -/
def slowChain (c : Ctl) (rd : Reg) (n : Nat) (s : State) (v : State → Word) : Host.Outcome State Fault Refusal :=
  chain c s fun s => if rd.win = 3 then roFault s else stall (advance c (writeReg s rd (v s))) n
/-- A sign operation on a code (R260). -/
def signChain (c : Ctl) (rd ra : Reg) (m : FMod) (s : State) (f : Bool → Bool) : Host.Outcome State Fault Refusal :=
  resultChain c rd s fun s => fmtWord m.sfmt (signOp m.sfmt (fmtCodeOf m.sfmt (readReg s ra)) f)
/-- A conversion from sfmt into dfmt (R263). -/
def convertWord (m : FMod) (w : Word) : Word := roundWord m.dfmt m.rnd (fmtValue m.sfmt w)

/-- fadd (R257). -/
def execFadd (c : Ctl) (rd ra rb : Reg) (m : FMod) (s : State) : Host.Outcome State Fault Refusal :=
  floatChain c rd ra rb m s (addNum m.rnd)
/-- fsub (R257). -/
def execFsub (c : Ctl) (rd ra rb : Reg) (m : FMod) (s : State) : Host.Outcome State Fault Refusal :=
  floatChain c rd ra rb m s (subNum m.rnd)
/-- fmul (R257). -/
def execFmul (c : Ctl) (rd ra rb : Reg) (m : FMod) (s : State) : Host.Outcome State Fault Refusal :=
  floatChain c rd ra rb m s mulNum
/-- fdiv (R253, R257): the row issues nothing for 24 cycles. -/
def execFdiv (c : Ctl) (rd ra rb : Reg) (m : FMod) (s : State) : Host.Outcome State Fault Refusal :=
  slowChain c rd 24 s fun s =>
    roundWord m.dfmt m.rnd (divNum (fmtValue m.sfmt (readReg s ra)) (fmtValue m.sfmt (readReg s rb)))
/-- fsqrt (R253, R257, R258). -/
def execFsqrt (c : Ctl) (rd ra : Reg) (m : FMod) (s : State) : Host.Outcome State Fault Refusal :=
  slowChain c rd 24 s fun s => roundWord m.dfmt m.rnd (sqrtNum (fmtValue m.sfmt (readReg s ra)))
/-- fmin (R259). -/
def execFmin (c : Ctl) (rd ra rb : Reg) (m : FMod) (s : State) : Host.Outcome State Fault Refusal :=
  floatChain c rd ra rb m s minNum
/-- fmax (R259). -/
def execFmax (c : Ctl) (rd ra rb : Reg) (m : FMod) (s : State) : Host.Outcome State Fault Refusal :=
  floatChain c rd ra rb m s maxNum
/-- fabs (R260). -/
def execFabs (c : Ctl) (rd ra : Reg) (m : FMod) (s : State) : Host.Outcome State Fault Refusal :=
  signChain c rd ra m s fun _ => false
/-- fneg (R260). -/
def execFneg (c : Ctl) (rd ra : Reg) (m : FMod) (s : State) : Host.Outcome State Fault Refusal :=
  signChain c rd ra m s fun b => !b
/-- fclass (R261). -/
def execFclass (c : Ctl) (rd ra : Reg) (sfmt : Fmt) (s : State) : Host.Outcome State Fault Refusal :=
  resultChain c rd s fun s => w64 (classMask sfmt (fmtCodeOf sfmt (readReg s ra)))
/-- fcpys (R260). -/
def execFcpys (c : Ctl) (rd ra rb : Reg) (m : FMod) (s : State) : Host.Outcome State Fault Refusal :=
  resultChain c rd s fun s =>
    fmtWord m.sfmt (signOp m.sfmt (fmtCodeOf m.sfmt (readReg s ra)) fun _ => bit (readReg s rb) (fmtWidth m.sfmt - 1))
/-- fma (R257): a × b + c. -/
def execFma (c : Ctl) (rd ra rb : Reg) (m : FMod) (s : State) : Host.Outcome State Fault Refusal :=
  fusedChain c rd ra rb m s (addNum m.rnd)
/-- fms (R257): a × b − c. -/
def execFms (c : Ctl) (rd ra rb : Reg) (m : FMod) (s : State) : Host.Outcome State Fault Refusal :=
  fusedChain c rd ra rb m s (subNum m.rnd)
/-- fnma (R257): −(a × b) + c. -/
def execFnma (c : Ctl) (rd ra rb : Reg) (m : FMod) (s : State) : Host.Outcome State Fault Refusal :=
  fusedChain c rd ra rb m s fun p x => addNum m.rnd (negNum p) x
/-- fnms (R257): −(a × b) − c. -/
def execFnms (c : Ctl) (rd ra rb : Reg) (m : FMod) (s : State) : Host.Outcome State Fault Refusal :=
  fusedChain c rd ra rb m s fun p x => subNum m.rnd (negNum p) x
/-- fcmp (R262). -/
def execFcmp (c : Ctl) (pd : BitVec 4) (cond : FCond) (ra rb : Reg) (sfmt : Fmt) (s : State) :
    Host.Outcome State Fault Refusal :=
  predChain c pd s fun s => fcmpHolds cond (fmtValue sfmt (readReg s ra)) (fmtValue sfmt (readReg s rb))
/-- fcvt (R263). -/
def execFcvt (c : Ctl) (rd ra : Reg) (m : FMod) (s : State) : Host.Outcome State Fault Refusal :=
  resultChain c rd s fun s => convertWord m (readReg s ra)
/-- fcvti (R236, R263). -/
def execFcvti (c : Ctl) (rd ra : Reg) (m : FMod) (s : State) : Host.Outcome State Fault Refusal :=
  resultChain c rd s fun s => convertWord m (readReg s ra)
/-- fcvtf (R263). -/
def execFcvtf (c : Ctl) (rd ra : Reg) (m : FMod) (s : State) : Host.Outcome State Fault Refusal :=
  resultChain c rd s fun s => convertWord m (readReg s ra)

end Sys2Proof.Machine
end

