-- ==== Sys2Proof/Machine/Scalar.lean ====
section
/-!
DEFINITION. The meanings of the scalar integer, bit, immediate, predicate and control-flow instructions, and of ill,
nop and ifence (R203 to R226).
-/

namespace Sys2Proof.Machine

/-- The row's fetched words are dropped: no later chain sees an old one (R224). -/
def clearStale (s : State) : State := dropStaleCode s (agentOf (curExec s)) (curRow s)

/-- add (R215). -/
def execAdd (c : Ctl) (rd ra rb : Reg) (s : State) : Host.Outcome State Fault Refusal :=
  resultChain c rd s fun s => readReg s ra + readReg s rb

/-- sub (R215). -/
def execSub (c : Ctl) (rd ra rb : Reg) (s : State) : Host.Outcome State Fault Refusal :=
  resultChain c rd s fun s => readReg s ra - readReg s rb

/-- and (R215). -/
def execAnd (c : Ctl) (rd ra rb : Reg) (s : State) : Host.Outcome State Fault Refusal :=
  resultChain c rd s fun s => readReg s ra &&& readReg s rb

/-- or (R215). -/
def execOr (c : Ctl) (rd ra rb : Reg) (s : State) : Host.Outcome State Fault Refusal :=
  resultChain c rd s fun s => readReg s ra ||| readReg s rb

/-- xor (R215). -/
def execXor (c : Ctl) (rd ra rb : Reg) (s : State) : Host.Outcome State Fault Refusal :=
  resultChain c rd s fun s => readReg s ra ^^^ readReg s rb

/-- andn (R215). -/
def execAndn (c : Ctl) (rd ra rb : Reg) (s : State) : Host.Outcome State Fault Refusal :=
  resultChain c rd s fun s => readReg s ra &&& ~~~(readReg s rb)

/-- orn (R215). -/
def execOrn (c : Ctl) (rd ra rb : Reg) (s : State) : Host.Outcome State Fault Refusal :=
  resultChain c rd s fun s => readReg s ra ||| ~~~(readReg s rb)

/-- nor (R215). -/
def execNor (c : Ctl) (rd ra rb : Reg) (s : State) : Host.Outcome State Fault Refusal :=
  resultChain c rd s fun s => ~~~(readReg s ra ||| readReg s rb)

/-- shl (R215): the amount is b mod 64. -/
def execShl (c : Ctl) (rd ra rb : Reg) (s : State) : Host.Outcome State Fault Refusal :=
  resultChain c rd s fun s => readReg s ra <<< (bits (readReg s rb) 0 6)

/-- shr (R215). -/
def execShr (c : Ctl) (rd ra rb : Reg) (s : State) : Host.Outcome State Fault Refusal :=
  resultChain c rd s fun s => readReg s ra >>> (bits (readReg s rb) 0 6)

/-- sra (R215). -/
def execSra (c : Ctl) (rd ra rb : Reg) (s : State) : Host.Outcome State Fault Refusal :=
  resultChain c rd s fun s => (readReg s ra).sshiftRight (bits (readReg s rb) 0 6)

/-- rol (R215). -/
def execRol (c : Ctl) (rd ra rb : Reg) (s : State) : Host.Outcome State Fault Refusal :=
  resultChain c rd s fun s => (readReg s ra).rotateLeft (bits (readReg s rb) 0 6)

/-- min (R215), signed. -/
def execMin (c : Ctl) (rd ra rb : Reg) (s : State) : Host.Outcome State Fault Refusal :=
  resultChain c rd s fun s => if (readReg s ra).sle (readReg s rb) then readReg s ra else readReg s rb

/-- max (R215), signed. -/
def execMax (c : Ctl) (rd ra rb : Reg) (s : State) : Host.Outcome State Fault Refusal :=
  resultChain c rd s fun s => if (readReg s ra).sle (readReg s rb) then readReg s rb else readReg s ra

/-- minz (R215), unsigned. -/
def execMinz (c : Ctl) (rd ra rb : Reg) (s : State) : Host.Outcome State Fault Refusal :=
  resultChain c rd s fun s => if (readReg s ra).ule (readReg s rb) then readReg s ra else readReg s rb

/-- maxz (R215), unsigned. -/
def execMaxz (c : Ctl) (rd ra rb : Reg) (s : State) : Host.Outcome State Fault Refusal :=
  resultChain c rd s fun s => if (readReg s ra).ule (readReg s rb) then readReg s rb else readReg s ra

/-- mul (R216). -/
def execMul (c : Ctl) (rd ra rb : Reg) (s : State) : Host.Outcome State Fault Refusal :=
  resultChain c rd s fun s => readReg s ra * readReg s rb

/-- mulh (R216). -/
def execMulh (c : Ctl) (rd ra rb : Reg) (s : State) : Host.Outcome State Fault Refusal :=
  resultChain c rd s fun s => mulHigh (readReg s ra) (readReg s rb)

/-- mulhz (R216). -/
def execMulhz (c : Ctl) (rd ra rb : Reg) (s : State) : Host.Outcome State Fault Refusal :=
  resultChain c rd s fun s => mulHighU (readReg s ra) (readReg s rb)

/-- div (R203, R216): no fault, and the row issues nothing for 18 cycles. -/
def execDiv (c : Ctl) (rd ra rb : Reg) (s : State) : Host.Outcome State Fault Refusal :=
  slowChain c rd 18 s fun s => divSigned (readReg s ra) (readReg s rb)

/-- divz (R203, R216): no fault, and the row issues nothing for 18 cycles. -/
def execDivz (c : Ctl) (rd ra rb : Reg) (s : State) : Host.Outcome State Fault Refusal :=
  slowChain c rd 18 s fun s => divUnsigned (readReg s ra) (readReg s rb)

/-- rem (R203, R216): no fault, and the row issues nothing for 18 cycles. -/
def execRem (c : Ctl) (rd ra rb : Reg) (s : State) : Host.Outcome State Fault Refusal :=
  slowChain c rd 18 s fun s => remSigned (readReg s ra) (readReg s rb)

/-- remz (R203, R216): no fault, and the row issues nothing for 18 cycles. -/
def execRemz (c : Ctl) (rd ra rb : Reg) (s : State) : Host.Outcome State Fault Refusal :=
  slowChain c rd 18 s fun s => remUnsigned (readReg s ra) (readReg s rb)

/-- abs (R216). -/
def execAbs (c : Ctl) (rd ra : Reg) (s : State) : Host.Outcome State Fault Refusal :=
  resultChain c rd s fun s => if (readReg s ra).slt 0 then -(readReg s ra) else readReg s ra

/-- neg (R216). -/
def execNeg (c : Ctl) (rd ra : Reg) (s : State) : Host.Outcome State Fault Refusal :=
  resultChain c rd s fun s => -(readReg s ra)

/-- clz (R216). -/
def execClz (c : Ctl) (rd ra : Reg) (s : State) : Host.Outcome State Fault Refusal :=
  resultChain c rd s fun s => w64 (leadingZeros (readReg s ra))

/-- ctz (R216). -/
def execCtz (c : Ctl) (rd ra : Reg) (s : State) : Host.Outcome State Fault Refusal :=
  resultChain c rd s fun s => w64 (trailingZeros (readReg s ra))

/-- popc (R216). -/
def execPopc (c : Ctl) (rd ra : Reg) (s : State) : Host.Outcome State Fault Refusal :=
  resultChain c rd s fun s => w64 (onesCount (readReg s ra))

/-- bswap (R216). -/
def execBswap (c : Ctl) (rd ra : Reg) (s : State) : Host.Outcome State Fault Refusal :=
  resultChain c rd s fun s => byteSwap (readReg s ra)

/-- bfx (R217). -/
def execBfx (c : Ctl) (rd ra rb : Reg) (s : State) : Host.Outcome State Fault Refusal :=
  resultChain c rd s fun s => extractSigned (readReg s ra) (readReg s rb)

/-- bfxz (R217). -/
def execBfxz (c : Ctl) (rd ra rb : Reg) (s : State) : Host.Outcome State Fault Refusal :=
  resultChain c rd s fun s => extractUnsigned (readReg s ra) (readReg s rb)

/-- bfi (R217): an empty field leaves the destination. -/
def execBfi (c : Ctl) (rd ra rb : Reg) (s : State) : Host.Outcome State Fault Refusal :=
  resultChain c rd s fun s => insertField (readReg s rd) (readReg s ra) (readReg s rb)

/-- sxb (R217). -/
def execSxb (c : Ctl) (rd ra : Reg) (s : State) : Host.Outcome State Fault Refusal :=
  resultChain c rd s fun s => sextBytes 1 (readReg s ra).toNat

/-- sxh (R217). -/
def execSxh (c : Ctl) (rd ra : Reg) (s : State) : Host.Outcome State Fault Refusal :=
  resultChain c rd s fun s => sextBytes 2 (readReg s ra).toNat

/-- sxw (R217). -/
def execSxw (c : Ctl) (rd ra : Reg) (s : State) : Host.Outcome State Fault Refusal :=
  resultChain c rd s fun s => sextBytes 4 (readReg s ra).toNat

/-- zxb (R217). -/
def execZxb (c : Ctl) (rd ra : Reg) (s : State) : Host.Outcome State Fault Refusal :=
  resultChain c rd s fun s => zextBytes 1 (readReg s ra).toNat

/-- zxh (R217). -/
def execZxh (c : Ctl) (rd ra : Reg) (s : State) : Host.Outcome State Fault Refusal :=
  resultChain c rd s fun s => zextBytes 2 (readReg s ra).toNat

/-- zxw (R217). -/
def execZxw (c : Ctl) (rd ra : Reg) (s : State) : Host.Outcome State Fault Refusal :=
  resultChain c rd s fun s => zextBytes 4 (readReg s ra).toNat

/-- cmp (R220). -/
def execCmp (c : Ctl) (pd : BitVec 4) (cond : Cond) (ra rb : Reg) (s : State) : Host.Outcome State Fault Refusal :=
  predChain c pd s fun s => condHolds cond (readReg s ra) (readReg s rb)

/-- cmpi (R220). -/
def execCmpi (c : Ctl) (pd : BitVec 4) (cond : Cond) (ra : Reg) (imm : Int) (s : State) : Host.Outcome State Fault Refusal :=
  predChain c pd s fun s => condHolds cond (readReg s ra) (immWord imm)

/-- pand (R221). -/
def execPand (c : Ctl) (pd pa pb : BitVec 4) (s : State) : Host.Outcome State Fault Refusal :=
  predChain c pd s fun s => pred s pa && pred s pb

/-- por (R221). -/
def execPor (c : Ctl) (pd pa pb : BitVec 4) (s : State) : Host.Outcome State Fault Refusal :=
  predChain c pd s fun s => pred s pa || pred s pb

/-- pxor (R221). -/
def execPxor (c : Ctl) (pd pa pb : BitVec 4) (s : State) : Host.Outcome State Fault Refusal :=
  predChain c pd s fun s => pred s pa != pred s pb

/-- pandn (R221). -/
def execPandn (c : Ctl) (pd pa pb : BitVec 4) (s : State) : Host.Outcome State Fault Refusal :=
  predChain c pd s fun s => pred s pa && !pred s pb

/-- pnot (R221). -/
def execPnot (c : Ctl) (pd pa : BitVec 4) (s : State) : Host.Outcome State Fault Refusal :=
  predChain c pd s fun s => !pred s pa

/-- pmov (R221). -/
def execPmov (c : Ctl) (pd pa : BitVec 4) (s : State) : Host.Outcome State Fault Refusal :=
  predChain c pd s fun s => pred s pa

/-- pset (R221). -/
def execPset (c : Ctl) (pd : BitVec 4) (s : State) : Host.Outcome State Fault Refusal :=
  predChain c pd s fun _ => true

/-- pclr (R221). -/
def execPclr (c : Ctl) (pd : BitVec 4) (s : State) : Host.Outcome State Fault Refusal :=
  predChain c pd s fun _ => false

/-- pget (R221): all 16 predicates into a register g0 to g15. -/
def execPget (c : Ctl) (gd : BitVec 4) (s : State) : Host.Outcome State Fault Refusal :=
  resultChain c (gReg gd.toNat) s fun s => (preds s).setWidth 64

/-- pput (R221): all 16 predicates from a register g0 to g15. -/
def execPput (c : Ctl) (ga : BitVec 4) (s : State) : Host.Outcome State Fault Refusal :=
  chain c s fun s => advance c (setPreds s ((readReg s (gReg ga.toNat)).extractLsb' 0 16))

/-- addi (R218). -/
def execAddi (c : Ctl) (rd ra : Reg) (imm : Int) (s : State) : Host.Outcome State Fault Refusal :=
  resultChain c rd s fun s => readReg s ra + immWord imm

/-- andi (R218). -/
def execAndi (c : Ctl) (rd ra : Reg) (imm : Int) (s : State) : Host.Outcome State Fault Refusal :=
  resultChain c rd s fun s => readReg s ra &&& immWord imm

/-- ori (R218). -/
def execOri (c : Ctl) (rd ra : Reg) (imm : Int) (s : State) : Host.Outcome State Fault Refusal :=
  resultChain c rd s fun s => readReg s ra ||| immWord imm

/-- xori (R218). -/
def execXori (c : Ctl) (rd ra : Reg) (imm : Int) (s : State) : Host.Outcome State Fault Refusal :=
  resultChain c rd s fun s => readReg s ra ^^^ immWord imm

/-- shli (R218). -/
def execShli (c : Ctl) (rd ra : Reg) (imm : Int) (s : State) : Host.Outcome State Fault Refusal :=
  resultChain c rd s fun s => readReg s ra <<< (bits (immWord imm) 0 6)

/-- shri (R218). -/
def execShri (c : Ctl) (rd ra : Reg) (imm : Int) (s : State) : Host.Outcome State Fault Refusal :=
  resultChain c rd s fun s => readReg s ra >>> (bits (immWord imm) 0 6)

/-- srai (R218). -/
def execSrai (c : Ctl) (rd ra : Reg) (imm : Int) (s : State) : Host.Outcome State Fault Refusal :=
  resultChain c rd s fun s => (readReg s ra).sshiftRight (bits (immWord imm) 0 6)

/-- muli (R218). -/
def execMuli (c : Ctl) (rd ra : Reg) (imm : Int) (s : State) : Host.Outcome State Fault Refusal :=
  resultChain c rd s fun s => readReg s ra * immWord imm

/-- movi (R219). -/
def execMovi (c : Ctl) (rd : Reg) (imm : Int) (s : State) : Host.Outcome State Fault Refusal :=
  resultChain c rd s fun _ => immWord imm

/-- adr (R219): a byte distance from the instruction address. -/
def execAdr (c : Ctl) (rd : Reg) (imm : Int) (s : State) : Host.Outcome State Fault Refusal :=
  resultChain c rd s fun s => pc s + immWord imm

/-- br (R223). -/
def execBr (c : Ctl) (off : BitVec 19) (s : State) : Host.Outcome State Fault Refusal :=
  chain c s fun s => jump (branchTarget s off) s

/-- bl (R223): the link goes to g31. -/
def execBl (c : Ctl) (off : BitVec 19) (s : State) : Host.Outcome State Fault Refusal :=
  chain c s fun s => jump (branchTarget s off) (writeReg s (gReg 31) (nextPc c s))

/-- jr (R223). -/
def execJr (c : Ctl) (ra : Reg) (s : State) : Host.Outcome State Fault Refusal :=
  chain c s fun s => jump (readReg s ra) s

/-- jlr (R204, R223): the target is read before the link is written. -/
def execJlr (c : Ctl) (rd ra : Reg) (s : State) : Host.Outcome State Fault Refusal :=
  chain c s fun s => if rd.win = 3 then roFault s else jump (readReg s ra) (writeReg s rd (nextPc c s))

/-- dbnz (R223). With rd = g0 the result is discarded (R226) and the branch tests g0 as it reads then, 0 (DESIGN CHOICE, log 94). -/
def execDbnz (c : Ctl) (rd : Reg) (off : BitVec 14) (s : State) : Host.Outcome State Fault Refusal :=
  chain c s fun s =>
    let v := readReg s rd - 1
    if rd.win = 3 then roFault s
    else jump (if (if isG0 rd then 0 else v) ≠ 0 then branchTarget s off else nextPc c s) (writeReg s rd v)

/-- ill (R205): ILLEGAL whatever the guard; the base word decides (R53). -/
def execIll (c : Ctl) (s : State) : Host.Outcome State Fault Refusal :=
  .next (fault s ⟨cIllegal, 0, c.len, 0, 7⟩ (pc s))

/-- nop (R205). -/
def execNop (c : Ctl) (s : State) : Host.Outcome State Fault Refusal :=
  chain c s fun s => advance c s

/-- ifence (R224): the row's fetched words are discarded, and 3 cycles pass without issue. -/
def execIfence (c : Ctl) (s : State) : Host.Outcome State Fault Refusal :=
  chain c s fun s => stall (advance c (clearStale s)) 3

end Sys2Proof.Machine
end

