-- ==== Sys2Proof/Machine/Vector.lean ====
section
/-!
DEFINITION. The vector commands (R275 to R286, R289): each issues to its row's claim; what it does to the scratchpad
is in VecUnit.
-/

namespace Sys2Proof.Machine

/-- Vector add command. (R285) -/
def execVadd (c : Ctl) (rd ra rb : Reg) (m : VMod) (s : State) : Host.Outcome State Fault Refusal :=
  vectorChain c (.vadd c rd ra rb m) rd ra rb s
/-- Vector subtract command. (R285) -/
def execVsub (c : Ctl) (rd ra rb : Reg) (m : VMod) (s : State) : Host.Outcome State Fault Refusal :=
  vectorChain c (.vsub c rd ra rb m) rd ra rb s
/-- Vector multiply command. (R285) -/
def execVmul (c : Ctl) (rd ra rb : Reg) (m : VMod) (s : State) : Host.Outcome State Fault Refusal :=
  vectorChain c (.vmul c rd ra rb m) rd ra rb s
/-- Vector minimum command. (R285) -/
def execVmin (c : Ctl) (rd ra rb : Reg) (m : VMod) (s : State) : Host.Outcome State Fault Refusal :=
  vectorChain c (.vmin c rd ra rb m) rd ra rb s
/-- Vector maximum command. (R285) -/
def execVmax (c : Ctl) (rd ra rb : Reg) (m : VMod) (s : State) : Host.Outcome State Fault Refusal :=
  vectorChain c (.vmax c rd ra rb m) rd ra rb s
/-- Vector divide command. (R285) -/
def execVdiv (c : Ctl) (rd ra rb : Reg) (m : VMod) (s : State) : Host.Outcome State Fault Refusal :=
  vectorChain c (.vdiv c rd ra rb m) rd ra rb s
/-- Vector bitwise and command. (R285) -/
def execVand (c : Ctl) (rd ra rb : Reg) (m : VMod) (s : State) : Host.Outcome State Fault Refusal :=
  vectorChain c (.vand c rd ra rb m) rd ra rb s
/-- Vector bitwise or command. (R285) -/
def execVor (c : Ctl) (rd ra rb : Reg) (m : VMod) (s : State) : Host.Outcome State Fault Refusal :=
  vectorChain c (.vor c rd ra rb m) rd ra rb s
/-- Vector bitwise exclusive or command. (R285) -/
def execVxor (c : Ctl) (rd ra rb : Reg) (m : VMod) (s : State) : Host.Outcome State Fault Refusal :=
  vectorChain c (.vxor c rd ra rb m) rd ra rb s
/-- Vector shift left command. (R285) -/
def execVshl (c : Ctl) (rd ra rb : Reg) (m : VMod) (s : State) : Host.Outcome State Fault Refusal :=
  vectorChain c (.vshl c rd ra rb m) rd ra rb s
/-- Vector logical shift right command. (R285) -/
def execVshr (c : Ctl) (rd ra rb : Reg) (m : VMod) (s : State) : Host.Outcome State Fault Refusal :=
  vectorChain c (.vshr c rd ra rb m) rd ra rb s
/-- Vector arithmetic shift right command. (R285) -/
def execVsra (c : Ctl) (rd ra rb : Reg) (m : VMod) (s : State) : Host.Outcome State Fault Refusal :=
  vectorChain c (.vsra c rd ra rb m) rd ra rb s
/-- Vector absolute difference command. (R285) -/
def execVabsd (c : Ctl) (rd ra rb : Reg) (m : VMod) (s : State) : Host.Outcome State Fault Refusal :=
  vectorChain c (.vabsd c rd ra rb m) rd ra rb s
/-- Vector fused multiply-add command. (R285) -/
def execVfma (c : Ctl) (rd ra rb : Reg) (m : VMod) (s : State) : Host.Outcome State Fault Refusal :=
  vectorChain c (.vfma c rd ra rb m) rd ra rb s
/-- Vector fused multiply-subtract command. (R285) -/
def execVfms (c : Ctl) (rd ra rb : Reg) (m : VMod) (s : State) : Host.Outcome State Fault Refusal :=
  vectorChain c (.vfms c rd ra rb m) rd ra rb s
/-- Vector negate command. (R285) -/
def execVneg (c : Ctl) (rd ra rb : Reg) (m : VMod) (s : State) : Host.Outcome State Fault Refusal :=
  vectorChain c (.vneg c rd ra rb m) rd ra rb s
/-- Vector absolute value command. (R285) -/
def execVabs (c : Ctl) (rd ra rb : Reg) (m : VMod) (s : State) : Host.Outcome State Fault Refusal :=
  vectorChain c (.vabs c rd ra rb m) rd ra rb s
/-- Vector square root command. (R285) -/
def execVsqrt (c : Ctl) (rd ra rb : Reg) (m : VMod) (s : State) : Host.Outcome State Fault Refusal :=
  vectorChain c (.vsqrt c rd ra rb m) rd ra rb s
/-- Vector reciprocal square root command. (R285) -/
def execVrsq (c : Ctl) (rd ra rb : Reg) (m : VMod) (s : State) : Host.Outcome State Fault Refusal :=
  vectorChain c (.vrsq c rd ra rb m) rd ra rb s
/-- Vector reciprocal command. (R285) -/
def execVrcp (c : Ctl) (rd ra rb : Reg) (m : VMod) (s : State) : Host.Outcome State Fault Refusal :=
  vectorChain c (.vrcp c rd ra rb m) rd ra rb s
/-- Vector base-2 exponential command. (R285) -/
def execVexp2 (c : Ctl) (rd ra rb : Reg) (m : VMod) (s : State) : Host.Outcome State Fault Refusal :=
  vectorChain c (.vexp2 c rd ra rb m) rd ra rb s
/-- Vector base-2 logarithm command. (R285) -/
def execVlog2 (c : Ctl) (rd ra rb : Reg) (m : VMod) (s : State) : Host.Outcome State Fault Refusal :=
  vectorChain c (.vlog2 c rd ra rb m) rd ra rb s
/-- Vector conversion command. (R285) -/
def execVcvt (c : Ctl) (rd ra rb : Reg) (m : VMod) (s : State) : Host.Outcome State Fault Refusal :=
  vectorChain c (.vcvt c rd ra rb m) rd ra rb s
/-- Vector code copy command. (R285) -/
def execVmov (c : Ctl) (rd ra rb : Reg) (m : VMod) (s : State) : Host.Outcome State Fault Refusal :=
  vectorChain c (.vmov c rd ra rb m) rd ra rb s
/-- Vector fill with the scalar. (R285) -/
def execVfill (c : Ctl) (rd ra rb : Reg) (m : VMod) (s : State) : Host.Outcome State Fault Refusal :=
  vectorChain c (.vfill c rd ra rb m) rd ra rb s
/-- Vector clamp between two binary16 bounds. (R285) -/
def execVclamp (c : Ctl) (rd ra rb : Reg) (m : VMod) (s : State) : Host.Outcome State Fault Refusal :=
  vectorChain c (.vclamp c rd ra rb m) rd ra rb s
/-- Vector index ramp from the scalar. (R285) -/
def execViota (c : Ctl) (rd ra rb : Reg) (m : VMod) (s : State) : Host.Outcome State Fault Refusal :=
  vectorChain c (.viota c rd ra rb m) rd ra rb s
/-- Vector select by mask. (R285) -/
def execVsel (c : Ctl) (rd ra rb : Reg) (m : VMod) (s : State) : Host.Outcome State Fault Refusal :=
  vectorChain c (.vsel c rd ra rb m) rd ra rb s
/-- Vector sum reduction. (R286) -/
def execVredsum (c : Ctl) (rd ra rb : Reg) (m : VMod) (s : State) : Host.Outcome State Fault Refusal :=
  vectorChain c (.vredsum c rd ra rb m) rd ra rb s
/-- Vector maximum reduction. (R286) -/
def execVredmax (c : Ctl) (rd ra rb : Reg) (m : VMod) (s : State) : Host.Outcome State Fault Refusal :=
  vectorChain c (.vredmax c rd ra rb m) rd ra rb s
/-- Vector minimum reduction. (R286) -/
def execVredmin (c : Ctl) (rd ra rb : Reg) (m : VMod) (s : State) : Host.Outcome State Fault Refusal :=
  vectorChain c (.vredmin c rd ra rb m) rd ra rb s
/-- Vector inclusive or exclusive scan. (R286) -/
def execVscan (c : Ctl) (rd ra rb : Reg) (m : VMod) (s : State) : Host.Outcome State Fault Refusal :=
  vectorChain c (.vscan c rd ra rb m) rd ra rb s
/-- Vector gather through an index array. (R285) -/
def execVgat (c : Ctl) (rd ra rb : Reg) (m : VMod) (s : State) : Host.Outcome State Fault Refusal :=
  vectorChain c (.vgat c rd ra rb m) rd ra rb s
/-- Vector scatter through an index array. (R285) -/
def execVsct (c : Ctl) (rd ra rb : Reg) (m : VMod) (s : State) : Host.Outcome State Fault Refusal :=
  vectorChain c (.vsct c rd ra rb m) rd ra rb s
/-- Vector compare into a bit array. (R285) -/
def execVcmp (c : Ctl) (rd ra rb : Reg) (m : VMod) (s : State) : Host.Outcome State Fault Refusal :=
  vectorChain c (.vcmp c rd ra rb m) rd ra rb s
/-- Vector pack of active elements. (R285) -/
def execVpack (c : Ctl) (rd ra rb : Reg) (m : VMod) (s : State) : Host.Outcome State Fault Refusal :=
  vectorChain c (.vpack c rd ra rb m) rd ra rb s
/-- Counts active elements. (R285) -/
def execVcnt (c : Ctl) (rd ra rb : Reg) (m : VMod) (s : State) : Host.Outcome State Fault Refusal :=
  vectorChain c (.vcnt c rd ra rb m) rd ra rb s
/-- Loads the claim's function table. (R289) -/
def execVfnld (c : Ctl) (rd ra rb : Reg) (m : VMod) (s : State) : Host.Outcome State Fault Refusal :=
  vectorChain c (.vfnld c rd ra rb m) rd ra rb s
/-- Evaluates the piecewise cubic on each element. (R289) -/
def execVfn (c : Ctl) (rd ra rb : Reg) (m : VMod) (s : State) : Host.Outcome State Fault Refusal :=
  vectorChain c (.vfn c rd ra rb m) rd ra rb s
/-- Writes the function table to the scratchpad. (R289) -/
def execVfnst (c : Ctl) (rd ra rb : Reg) (m : VMod) (s : State) : Host.Outcome State Fault Refusal :=
  vectorChain c (.vfnst c rd ra rb m) rd ra rb s

end Sys2Proof.Machine
end

