-- ==== Sys2Proof/Machine/Dispatch.lean ====
section
/-!
DEFINITION. One arm per instruction and device step: a direct call of its meaning.
-/

namespace Sys2Proof.Machine

def exec (i : Instr) (s : State) : Host.Outcome State Fault Refusal :=
  match i with
  | .ill c => Sys2Proof.Machine.execIll c s
  | .nop c => Sys2Proof.Machine.execNop c s
  | .stop c => Sys2Proof.Machine.execStop c s
  | .yield c => Sys2Proof.Machine.execYield c s
  | .brk c => Sys2Proof.Machine.execBrk c s
  | .ifence c => Sys2Proof.Machine.execIfence c s
  | .sget c r num => Sys2Proof.Machine.execSget c r num s
  | .sset c r num => Sys2Proof.Machine.execSset c r num s
  | .trap c n => Sys2Proof.Machine.execTrap c n s
  | .hcall c n => Sys2Proof.Machine.execHcall c n s
  | .xret c ra rb => Sys2Proof.Machine.execXret c ra rb s
  | .tlbinv c ra rb => Sys2Proof.Machine.execTlbinv c ra rb s
  | .rowctl c rd ra rb => Sys2Proof.Machine.execRowctl c rd ra rb s
  | .mbox c rd ra rb => Sys2Proof.Machine.execMbox c rd ra rb s
  | .add c rd ra rb => Sys2Proof.Machine.execAdd c rd ra rb s
  | .sub c rd ra rb => Sys2Proof.Machine.execSub c rd ra rb s
  | .and c rd ra rb => Sys2Proof.Machine.execAnd c rd ra rb s
  | .or c rd ra rb => Sys2Proof.Machine.execOr c rd ra rb s
  | .xor c rd ra rb => Sys2Proof.Machine.execXor c rd ra rb s
  | .andn c rd ra rb => Sys2Proof.Machine.execAndn c rd ra rb s
  | .orn c rd ra rb => Sys2Proof.Machine.execOrn c rd ra rb s
  | .nor c rd ra rb => Sys2Proof.Machine.execNor c rd ra rb s
  | .shl c rd ra rb => Sys2Proof.Machine.execShl c rd ra rb s
  | .shr c rd ra rb => Sys2Proof.Machine.execShr c rd ra rb s
  | .sra c rd ra rb => Sys2Proof.Machine.execSra c rd ra rb s
  | .rol c rd ra rb => Sys2Proof.Machine.execRol c rd ra rb s
  | .min c rd ra rb => Sys2Proof.Machine.execMin c rd ra rb s
  | .max c rd ra rb => Sys2Proof.Machine.execMax c rd ra rb s
  | .minz c rd ra rb => Sys2Proof.Machine.execMinz c rd ra rb s
  | .maxz c rd ra rb => Sys2Proof.Machine.execMaxz c rd ra rb s
  | .mul c rd ra rb => Sys2Proof.Machine.execMul c rd ra rb s
  | .mulh c rd ra rb => Sys2Proof.Machine.execMulh c rd ra rb s
  | .mulhz c rd ra rb => Sys2Proof.Machine.execMulhz c rd ra rb s
  | .div c rd ra rb => Sys2Proof.Machine.execDiv c rd ra rb s
  | .divz c rd ra rb => Sys2Proof.Machine.execDivz c rd ra rb s
  | .rem c rd ra rb => Sys2Proof.Machine.execRem c rd ra rb s
  | .remz c rd ra rb => Sys2Proof.Machine.execRemz c rd ra rb s
  | .abs c rd ra => Sys2Proof.Machine.execAbs c rd ra s
  | .neg c rd ra => Sys2Proof.Machine.execNeg c rd ra s
  | .clz c rd ra => Sys2Proof.Machine.execClz c rd ra s
  | .ctz c rd ra => Sys2Proof.Machine.execCtz c rd ra s
  | .popc c rd ra => Sys2Proof.Machine.execPopc c rd ra s
  | .bswap c rd ra => Sys2Proof.Machine.execBswap c rd ra s
  | .bfx c rd ra rb => Sys2Proof.Machine.execBfx c rd ra rb s
  | .bfxz c rd ra rb => Sys2Proof.Machine.execBfxz c rd ra rb s
  | .bfi c rd ra rb => Sys2Proof.Machine.execBfi c rd ra rb s
  | .sxb c rd ra => Sys2Proof.Machine.execSxb c rd ra s
  | .sxh c rd ra => Sys2Proof.Machine.execSxh c rd ra s
  | .sxw c rd ra => Sys2Proof.Machine.execSxw c rd ra s
  | .zxb c rd ra => Sys2Proof.Machine.execZxb c rd ra s
  | .zxh c rd ra => Sys2Proof.Machine.execZxh c rd ra s
  | .zxw c rd ra => Sys2Proof.Machine.execZxw c rd ra s
  | .cmp c pd cond ra rb => Sys2Proof.Machine.execCmp c pd cond ra rb s
  | .cmpi c pd cond ra imm => Sys2Proof.Machine.execCmpi c pd cond ra imm s
  | .pand c pd pa pb => Sys2Proof.Machine.execPand c pd pa pb s
  | .por c pd pa pb => Sys2Proof.Machine.execPor c pd pa pb s
  | .pxor c pd pa pb => Sys2Proof.Machine.execPxor c pd pa pb s
  | .pandn c pd pa pb => Sys2Proof.Machine.execPandn c pd pa pb s
  | .pnot c pd pa => Sys2Proof.Machine.execPnot c pd pa s
  | .pmov c pd pa => Sys2Proof.Machine.execPmov c pd pa s
  | .pset c pd => Sys2Proof.Machine.execPset c pd s
  | .pclr c pd => Sys2Proof.Machine.execPclr c pd s
  | .pget c gd => Sys2Proof.Machine.execPget c gd s
  | .pput c ga => Sys2Proof.Machine.execPput c ga s
  | .addi c rd ra imm => Sys2Proof.Machine.execAddi c rd ra imm s
  | .andi c rd ra imm => Sys2Proof.Machine.execAndi c rd ra imm s
  | .ori c rd ra imm => Sys2Proof.Machine.execOri c rd ra imm s
  | .xori c rd ra imm => Sys2Proof.Machine.execXori c rd ra imm s
  | .shli c rd ra imm => Sys2Proof.Machine.execShli c rd ra imm s
  | .shri c rd ra imm => Sys2Proof.Machine.execShri c rd ra imm s
  | .srai c rd ra imm => Sys2Proof.Machine.execSrai c rd ra imm s
  | .muli c rd ra imm => Sys2Proof.Machine.execMuli c rd ra imm s
  | .movi c rd imm => Sys2Proof.Machine.execMovi c rd imm s
  | .adr c rd imm => Sys2Proof.Machine.execAdr c rd imm s
  | .br c off => Sys2Proof.Machine.execBr c off s
  | .bl c off => Sys2Proof.Machine.execBl c off s
  | .jr c ra => Sys2Proof.Machine.execJr c ra s
  | .jlr c rd ra => Sys2Proof.Machine.execJlr c rd ra s
  | .dbnz c rd off => Sys2Proof.Machine.execDbnz c rd off s
  | .ld c rd ra t off m => Sys2Proof.Machine.execLd c rd ra t off m s
  | .st c rd ra t off m => Sys2Proof.Machine.execSt c rd ra t off m s
  | .ldl c rd ra t off m => Sys2Proof.Machine.execLdl c rd ra t off m s
  | .stl c rd ra t off m => Sys2Proof.Machine.execStl c rd ra t off m s
  | .amo c rd ra rb op m => Sys2Proof.Machine.execAmo c rd ra rb op m s
  | .fence c m => Sys2Proof.Machine.execFence c m s
  | .pf c ra m => Sys2Proof.Machine.execPf c ra m s
  | .app c rd ra rb m => Sys2Proof.Machine.execApp c rd ra rb m s
  | .appl c rd ra rb m => Sys2Proof.Machine.execAppl c rd ra rb m s
  | .seal c rd ra => Sys2Proof.Machine.execSeal c rd ra s
  | .tail c rd ra => Sys2Proof.Machine.execTail c rd ra s
  | .fadd c rd ra rb m => Sys2Proof.Machine.execFadd c rd ra rb m s
  | .fsub c rd ra rb m => Sys2Proof.Machine.execFsub c rd ra rb m s
  | .fmul c rd ra rb m => Sys2Proof.Machine.execFmul c rd ra rb m s
  | .fdiv c rd ra rb m => Sys2Proof.Machine.execFdiv c rd ra rb m s
  | .fsqrt c rd ra m => Sys2Proof.Machine.execFsqrt c rd ra m s
  | .fmin c rd ra rb m => Sys2Proof.Machine.execFmin c rd ra rb m s
  | .fmax c rd ra rb m => Sys2Proof.Machine.execFmax c rd ra rb m s
  | .fabs c rd ra m => Sys2Proof.Machine.execFabs c rd ra m s
  | .fneg c rd ra m => Sys2Proof.Machine.execFneg c rd ra m s
  | .fclass c rd ra sfmt => Sys2Proof.Machine.execFclass c rd ra sfmt s
  | .fcpys c rd ra rb m => Sys2Proof.Machine.execFcpys c rd ra rb m s
  | .fma c rd ra rb m => Sys2Proof.Machine.execFma c rd ra rb m s
  | .fms c rd ra rb m => Sys2Proof.Machine.execFms c rd ra rb m s
  | .fnma c rd ra rb m => Sys2Proof.Machine.execFnma c rd ra rb m s
  | .fnms c rd ra rb m => Sys2Proof.Machine.execFnms c rd ra rb m s
  | .fcmp c pd cond ra rb sfmt => Sys2Proof.Machine.execFcmp c pd cond ra rb sfmt s
  | .fcvt c rd ra m => Sys2Proof.Machine.execFcvt c rd ra m s
  | .fcvti c rd ra m => Sys2Proof.Machine.execFcvti c rd ra m s
  | .fcvtf c rd ra m => Sys2Proof.Machine.execFcvtf c rd ra m s
  | .vclaim c rd ra => Sys2Proof.Machine.execVclaim c rd ra s
  | .vfree c rd => Sys2Proof.Machine.execVfree c rd s
  | .vwait c rd ra => Sys2Proof.Machine.execVwait c rd ra s
  | .vstat c rd ra => Sys2Proof.Machine.execVstat c rd ra s
  | .vadd c rd ra rb m => Sys2Proof.Machine.execVadd c rd ra rb m s
  | .vsub c rd ra rb m => Sys2Proof.Machine.execVsub c rd ra rb m s
  | .vmul c rd ra rb m => Sys2Proof.Machine.execVmul c rd ra rb m s
  | .vmin c rd ra rb m => Sys2Proof.Machine.execVmin c rd ra rb m s
  | .vmax c rd ra rb m => Sys2Proof.Machine.execVmax c rd ra rb m s
  | .vdiv c rd ra rb m => Sys2Proof.Machine.execVdiv c rd ra rb m s
  | .vand c rd ra rb m => Sys2Proof.Machine.execVand c rd ra rb m s
  | .vor c rd ra rb m => Sys2Proof.Machine.execVor c rd ra rb m s
  | .vxor c rd ra rb m => Sys2Proof.Machine.execVxor c rd ra rb m s
  | .vshl c rd ra rb m => Sys2Proof.Machine.execVshl c rd ra rb m s
  | .vshr c rd ra rb m => Sys2Proof.Machine.execVshr c rd ra rb m s
  | .vsra c rd ra rb m => Sys2Proof.Machine.execVsra c rd ra rb m s
  | .vabsd c rd ra rb m => Sys2Proof.Machine.execVabsd c rd ra rb m s
  | .vfma c rd ra rb m => Sys2Proof.Machine.execVfma c rd ra rb m s
  | .vfms c rd ra rb m => Sys2Proof.Machine.execVfms c rd ra rb m s
  | .vneg c rd ra rb m => Sys2Proof.Machine.execVneg c rd ra rb m s
  | .vabs c rd ra rb m => Sys2Proof.Machine.execVabs c rd ra rb m s
  | .vsqrt c rd ra rb m => Sys2Proof.Machine.execVsqrt c rd ra rb m s
  | .vrsq c rd ra rb m => Sys2Proof.Machine.execVrsq c rd ra rb m s
  | .vrcp c rd ra rb m => Sys2Proof.Machine.execVrcp c rd ra rb m s
  | .vexp2 c rd ra rb m => Sys2Proof.Machine.execVexp2 c rd ra rb m s
  | .vlog2 c rd ra rb m => Sys2Proof.Machine.execVlog2 c rd ra rb m s
  | .vcvt c rd ra rb m => Sys2Proof.Machine.execVcvt c rd ra rb m s
  | .vmov c rd ra rb m => Sys2Proof.Machine.execVmov c rd ra rb m s
  | .vfill c rd ra rb m => Sys2Proof.Machine.execVfill c rd ra rb m s
  | .vclamp c rd ra rb m => Sys2Proof.Machine.execVclamp c rd ra rb m s
  | .viota c rd ra rb m => Sys2Proof.Machine.execViota c rd ra rb m s
  | .vsel c rd ra rb m => Sys2Proof.Machine.execVsel c rd ra rb m s
  | .vredsum c rd ra rb m => Sys2Proof.Machine.execVredsum c rd ra rb m s
  | .vredmax c rd ra rb m => Sys2Proof.Machine.execVredmax c rd ra rb m s
  | .vredmin c rd ra rb m => Sys2Proof.Machine.execVredmin c rd ra rb m s
  | .vscan c rd ra rb m => Sys2Proof.Machine.execVscan c rd ra rb m s
  | .vgat c rd ra rb m => Sys2Proof.Machine.execVgat c rd ra rb m s
  | .vsct c rd ra rb m => Sys2Proof.Machine.execVsct c rd ra rb m s
  | .vcmp c rd ra rb m => Sys2Proof.Machine.execVcmp c rd ra rb m s
  | .vpack c rd ra rb m => Sys2Proof.Machine.execVpack c rd ra rb m s
  | .vcnt c rd ra rb m => Sys2Proof.Machine.execVcnt c rd ra rb m s
  | .vfnld c rd ra rb m => Sys2Proof.Machine.execVfnld c rd ra rb m s
  | .vfn c rd ra rb m => Sys2Proof.Machine.execVfn c rd ra rb m s
  | .vfnst c rd ra rb m => Sys2Proof.Machine.execVfnst c rd ra rb m s
  | .cpy c rd ra hint => Sys2Proof.Machine.execCpy c rd ra hint s
  | .cpyz c rd ra hint => Sys2Proof.Machine.execCpyz c rd ra hint s
  | .cpy2 c rd ra rb hint => Sys2Proof.Machine.execCpy2 c rd ra rb hint s
  | .cpyg c rd ra rb hint => Sys2Proof.Machine.execCpyg c rd ra rb hint s
  | .cpyc c rd ev => Sys2Proof.Machine.execCpyc c rd ev s
  | .cpyw c rd n ev => Sys2Proof.Machine.execCpyw c rd n ev s
  | .dclone c rd ra => Sys2Proof.Machine.execDclone c rd ra s
  | .dzero c rd ra => Sys2Proof.Machine.execDzero c rd ra s
  | .scrub c rd ra => Sys2Proof.Machine.execScrub c rd ra s
  | .cpyq c rd ra => Sys2Proof.Machine.execCpyq c rd ra s
  | .post c ra => Sys2Proof.Machine.execPost c ra s
  | .await c rd ra rb => Sys2Proof.Machine.execAwait c rd ra rb s
  | .tqry c rd ra => Sys2Proof.Machine.execTqry c rd ra s
  | .fork c rd ra => Sys2Proof.Machine.execFork c rd ra s
  | .rdv c rd ra rb => Sys2Proof.Machine.execRdv c rd ra rb s
  | .bar c rd level k => Sys2Proof.Machine.execBar c rd level k s
  | .arrive c level => Sys2Proof.Machine.execArrive c level s
  | .wait c rd ra rb => Sys2Proof.Machine.execWait c rd ra rb s
  | .park c => Sys2Proof.Machine.execPark c s
  | .evset c ra rb => Sys2Proof.Machine.execEvset c ra rb s
  | .evret c ra => Sys2Proof.Machine.execEvret c ra s
  | .evmask c rd ra rb => Sys2Proof.Machine.execEvmask c rd ra rb s
  | .start r op => Sys2Proof.Machine.execStart r op s
  | .stopCommand r => Sys2Proof.Machine.execStopCommand r s
  | .redirect r op => Sys2Proof.Machine.execRedirect r op s
  | .wake r => Sys2Proof.Machine.execWake r s
  | .freeze r => Sys2Proof.Machine.execFreeze r s
  | .thaw r => Sys2Proof.Machine.execThaw r s
  | .parkCommand r => Sys2Proof.Machine.execParkCommand r s
  | .unpark r => Sys2Proof.Machine.execUnpark r s
  | .move r op => Sys2Proof.Machine.execMove r op s
  | .quantumClosing e k => Sys2Proof.Machine.execQuantumClosing e k s
  | .switchMarkerClosing e k => Sys2Proof.Machine.execSwitchMarkerClosing e k s
  | .waitingInstructionClosing e k => Sys2Proof.Machine.execWaitingInstructionClosing e k s
  | .limitClosing e k => Sys2Proof.Machine.execLimitClosing e k s
  | .waitConditionMet r => Sys2Proof.Machine.execWaitConditionMet r s
  | .closingDone e k => Sys2Proof.Machine.execClosingDone e k s
  | .opening e => Sys2Proof.Machine.execOpening e s
  | .openingDone e k => Sys2Proof.Machine.execOpeningDone e k s
  | .openInPlace e k => Sys2Proof.Machine.execOpenInPlace e k s
  | .bringIn e => Sys2Proof.Machine.execBringIn e s
  | .outsideRowAccess a => Sys2Proof.Machine.execOutsideRowAccess a s
  | .resultArrival p => Sys2Proof.Machine.execResultArrival p s
  | .lateCheck r => Sys2Proof.Machine.execLateCheck r s
  | .vlate r => Sys2Proof.Machine.execVlate r s
  | .eventDelivery r => Sys2Proof.Machine.execEventDelivery r s
  | .lineFill agent line data poison keymiss => Sys2Proof.Machine.execLineFill agent line data poison keymiss s
  | .registrationAck agent id refused => Sys2Proof.Machine.execRegistrationAck agent id refused s
  | .recall agent line mask => Sys2Proof.Machine.execRecall agent line mask s
  | .forward agent line mask => Sys2Proof.Machine.execForward agent line mask s
  | .invalidation agent line mask replace => Sys2Proof.Machine.execInvalidation agent line mask replace s
  | .registration r => Sys2Proof.Machine.execRegistration r s
  | .recallWriteback agent inc line mask data => Sys2Proof.Machine.execRecallWriteback agent inc line mask data s
  | .evictionWriteback agent inc line mask data => Sys2Proof.Machine.execEvictionWriteback agent inc line mask data s
  | .forwardReply agent inc line mask data => Sys2Proof.Machine.execForwardReply agent inc line mask data s
  | .lineRead r => Sys2Proof.Machine.execLineRead r s
  | .homeAtomic r => Sys2Proof.Machine.execHomeAtomic r s
  | .writeThrough r => Sys2Proof.Machine.execWriteThrough r s
  | .engineLineWrite r => Sys2Proof.Machine.execEngineLineWrite r s
  | .invalidationAck agent inc line kept => Sys2Proof.Machine.execInvalidationAck agent inc line kept s
  | .evictionNotice agent inc line => Sys2Proof.Machine.execEvictionNotice agent inc line s
  | .tierFill unit => Sys2Proof.Machine.execTierFill unit s
  | .refresh slice pc => Sys2Proof.Machine.execRefresh slice pc s
  | .refreshLimit slice pc => Sys2Proof.Machine.execRefreshLimit slice pc s
  | .agentTimeout agent => Sys2Proof.Machine.execAgentTimeout agent s
  | .agentDead agent => Sys2Proof.Machine.execAgentDead agent s
  | .leaseRenewal part page granted expiry => Sys2Proof.Machine.execLeaseRenewal part page granted expiry s
  | .leaseLost r => Sys2Proof.Machine.execLeaseLost r s
  | .leaseExpiry page holder => Sys2Proof.Machine.execLeaseExpiry page holder s
  | .revoke page => Sys2Proof.Machine.execRevoke page s
  | .revokeAck page holder => Sys2Proof.Machine.execRevokeAck page holder s
  | .homeHandover page => Sys2Proof.Machine.execHomeHandover page s
  | .commit slice r tag => Sys2Proof.Machine.execCommit slice r tag s
  | .rehomeReissue r => Sys2Proof.Machine.execRehomeReissue r s
  | .copyStep cl id => Sys2Proof.Machine.execCopyStep cl id s
  | .batchReport r => Sys2Proof.Machine.execBatchReport r s
  | .appendGrant r => Sys2Proof.Machine.execAppendGrant r s
  | .appendWrite r => Sys2Proof.Machine.execAppendWrite r s
  | .sealArrival r => Sys2Proof.Machine.execSealArrival r s
  | .sealEntryWrite page => Sys2Proof.Machine.execSealEntryWrite page s
  | .tailRequest r => Sys2Proof.Machine.execTailRequest r s
  | .rackRequest die page gen => Sys2Proof.Machine.execRackRequest die page gen s
  | .rackPushLine die page gen line data => Sys2Proof.Machine.execRackPushLine die page gen line data s
  | .rackDrop die page => Sys2Proof.Machine.execRackDrop die page s
  | .caskInit q page => Sys2Proof.Machine.execCaskInit q page s
  | .caskInitZero q page => Sys2Proof.Machine.execCaskInitZero q page s
  | .caskFree q page => Sys2Proof.Machine.execCaskFree q page s
  | .reclaimSweepEnd page => Sys2Proof.Machine.execReclaimSweepEnd page s
  | .vectorExecute pool claim => Sys2Proof.Machine.execVectorExecute pool claim s
  | .claimGrant pool r => Sys2Proof.Machine.execClaimGrant pool r s
  | .vparkResume pool claim => Sys2Proof.Machine.execVparkResume pool claim s
  | .vparkDiscard pool claim => Sys2Proof.Machine.execVparkDiscard pool claim s
  | .postReceive p => Sys2Proof.Machine.execPostReceive p s
  | .nodeRelease part rec engine => Sys2Proof.Machine.execNodeRelease part rec engine s
  | .nodeDispatch die => Sys2Proof.Machine.execNodeDispatch die s
  | .nodeAging die part rec => Sys2Proof.Machine.execNodeAging die part rec s
  | .nodeDone die part rec => Sys2Proof.Machine.execNodeDone die part rec s
  | .nodeFault die part rec cause addr => Sys2Proof.Machine.execNodeFault die part rec cause addr s
  | .nparkResume engine => Sys2Proof.Machine.execNparkResume engine s
  | .nparkFail engine => Sys2Proof.Machine.execNparkFail engine s
  | .nodeRetry q rec => Sys2Proof.Machine.execNodeRetry q rec s
  | .nodeDrop q rec => Sys2Proof.Machine.execNodeDrop q rec s
  | .launchQueueRing q n tail => Sys2Proof.Machine.execLaunchQueueRing q n tail s
  | .forkRequest p => Sys2Proof.Machine.execForkRequest p s
  | .launchTake q => Sys2Proof.Machine.execLaunchTake q s
  | .rowCreate q launch die => Sys2Proof.Machine.execRowCreate q launch die s
  | .launchComplete q launch => Sys2Proof.Machine.execLaunchComplete q launch s
  | .barrierArrival a => Sys2Proof.Machine.execBarrierArrival a s
  | .syncCompletion r slot tag value refused => Sys2Proof.Machine.execSyncCompletion r slot tag value refused s
  | .rdvArrival a meet count => Sys2Proof.Machine.execRdvArrival a meet count s
  | .watchReply r slot tag value met => Sys2Proof.Machine.execWatchReply r slot tag value met s
  | .ringMessageWrite ring die => Sys2Proof.Machine.execRingMessageWrite ring die s
  | .mboxDrain e => Sys2Proof.Machine.execMboxDrain e s
  | .pageWalk unit part va => Sys2Proof.Machine.execPageWalk unit part va s
  | .ptRootWrite q v => Sys2Proof.Machine.execPtRootWrite q v s
  | .pmemCfgWrite q v => Sys2Proof.Machine.execPmemCfgWrite q v s
  | .pcaskCfgWrite q v => Sys2Proof.Machine.execPcaskCfgWrite q v s
  | .prowCfgWrite q v => Sys2Proof.Machine.execProwCfgWrite q v s
  | .psaveCfgWrite q v => Sys2Proof.Machine.execPsaveCfgWrite q v s
  | .keyLoad k => Sys2Proof.Machine.execKeyLoad k s
  | .keyClear k => Sys2Proof.Machine.execKeyClear k s
  | .pin q page => Sys2Proof.Machine.execPin q page s
  | .pinp q page => Sys2Proof.Machine.execPinp q page s
  | .unpin q page => Sys2Proof.Machine.execUnpin q page s
  | .migrate q page => Sys2Proof.Machine.execMigrate q page s
  | .retire q page => Sys2Proof.Machine.execRetire q page s
  | .spunmap q page => Sys2Proof.Machine.execSpunmap q page s
  | .hptCandRead die => Sys2Proof.Machine.execHptCandRead die s
  | .hptSkipRead die => Sys2Proof.Machine.execHptSkipRead die s
  | .evict q cmask => Sys2Proof.Machine.execEvict q cmask s
  | .forcedFreeze cl => Sys2Proof.Machine.execForcedFreeze cl s
  | .evictionStreaming cl => Sys2Proof.Machine.execEvictionStreaming cl s
  | .restore q cmask => Sys2Proof.Machine.execRestore q cmask s
  | .remove q cmask => Sys2Proof.Machine.execRemove q cmask s
  | .addCluster q cmask => Sys2Proof.Machine.execAddCluster q cmask s
  | .gsEntryWrite v => Sys2Proof.Machine.execGsEntryWrite v s
  | .sliceEntry => Sys2Proof.Machine.execSliceEntry s
  | .enable q => Sys2Proof.Machine.execEnable q s
  | .disable q => Sys2Proof.Machine.execDisable q s
  | .reset q => Sys2Proof.Machine.execReset q s
  | .badcfgClear q => Sys2Proof.Machine.execBadcfgClear q s
  | .pbwWrite q v => Sys2Proof.Machine.execPbwWrite q v s
  | .bwStallRead q => Sys2Proof.Machine.execBwStallRead q s
  | .hostPostedWrite a => Sys2Proof.Machine.execHostPostedWrite a s
  | .hostBarRead a => Sys2Proof.Machine.execHostBarRead a s
  | .storageDoorbell q k v => Sys2Proof.Machine.execStorageDoorbell q k v s
  | .storageCompletion q k cid status data => Sys2Proof.Machine.execStorageCompletion q k cid status data s
  | .peerFlitReceive f => Sys2Proof.Machine.execPeerFlitReceive f s
  | .peerLinkUp port rmod => Sys2Proof.Machine.execPeerLinkUp port rmod s
  | .peerPortFailure port => Sys2Proof.Machine.execPeerPortFailure port s
  | .boot => Sys2Proof.Machine.execBoot s
  | .warmReset => Sys2Proof.Machine.execWarmReset s
  | .translatePortableModule r => Sys2Proof.Machine.execTranslatePortableModule r s
  | .verifyNativeImage r => Sys2Proof.Machine.execVerifyNativeImage r s
  | .attest r => Sys2Proof.Machine.execAttest r s
  | .halt cl => Sys2Proof.Machine.execHalt cl s
  | .resume cl => Sys2Proof.Machine.execResume cl s
  | .step cl => Sys2Proof.Machine.execStep cl s
  | .breakpointMatch e k => Sys2Proof.Machine.execBreakpointMatch e k s
  | .trcCtlWrite q v => Sys2Proof.Machine.execTrcCtlWrite q v s
  | .traceTimeRecord e => Sys2Proof.Machine.execTraceTimeRecord e s
  | .lifetimeFlush => Sys2Proof.Machine.execLifetimeFlush s
  | .rollbackFloorWrite v => Sys2Proof.Machine.execRollbackFloorWrite v s
  | .pwrCtlWrite v => Sys2Proof.Machine.execPwrCtlWrite v s
  | .clockChangeDone => Sys2Proof.Machine.execClockChangeDone s
  | .thermalNotice e temp => Sys2Proof.Machine.execThermalNotice e temp s
  | .throttleStart temp => Sys2Proof.Machine.execThrottleStart temp s
  | .throttleEnd => Sys2Proof.Machine.execThrottleEnd s
  | .managementHalt => Sys2Proof.Machine.execManagementHalt s
  | .registerWrite q off v => Sys2Proof.Machine.execRegisterWrite q off v s
  | .reservedEncoding word => Sys2Proof.Machine.execReservedEncoding word s
  | .fetchFault word cause info lvl => Sys2Proof.Machine.execFetchFault word cause info lvl s
  | .sensorFallenBelow90c e => Sys2Proof.Machine.execSensorFallenBelow90c e s
  | .powerLoss => Sys2Proof.Machine.execPowerLoss s
  | .orderlyShutdown => Sys2Proof.Machine.execOrderlyShutdown s

end Sys2Proof.Machine
end

