-- ==== Sys2Proof/Machine/Messages.lean ====
section
/-!
DEFINITION. What a message does when it is delivered: the meaning of its device step, by a direct call. StandsFor in
Safety.lean names that device step.
-/

namespace Sys2Proof.Machine

/-- A message delivered or an event that comes about. -/
def runMsg (m : Msg) (s : State) : Host.Outcome State Fault Refusal :=
  match m with
  | .start r op => Sys2Proof.Machine.execStart r op s
  | .stopCommand r => Sys2Proof.Machine.execStopCommand r s
  | .redirect r op => Sys2Proof.Machine.execRedirect r op s
  | .wake r => Sys2Proof.Machine.execWake r s
  | .freeze r => Sys2Proof.Machine.execFreeze r s
  | .thaw r => Sys2Proof.Machine.execThaw r s
  | .parkCommand r => Sys2Proof.Machine.execParkCommand r s
  | .unpark r => Sys2Proof.Machine.execUnpark r s
  | .move r op => Sys2Proof.Machine.execMove r op s
  | .quantumClosing e k => Sys2Proof.Machine.execQuantumClosing e k s
  | .switchMarkerClosing e k => Sys2Proof.Machine.execSwitchMarkerClosing e k s
  | .waitingInstructionClosing e k => Sys2Proof.Machine.execWaitingInstructionClosing e k s
  | .limitClosing e k => Sys2Proof.Machine.execLimitClosing e k s
  | .waitConditionMet r => Sys2Proof.Machine.execWaitConditionMet r s
  | .closingDone e k => Sys2Proof.Machine.execClosingDone e k s
  | .opening e => Sys2Proof.Machine.execOpening e s
  | .openingDone e k => Sys2Proof.Machine.execOpeningDone e k s
  | .openInPlace e k => Sys2Proof.Machine.execOpenInPlace e k s
  | .bringIn e => Sys2Proof.Machine.execBringIn e s
  | .outsideRowAccess a => Sys2Proof.Machine.execOutsideRowAccess a s
  | .resultArrival p => Sys2Proof.Machine.execResultArrival p s
  | .lateCheck r => Sys2Proof.Machine.execLateCheck r s
  | .vlate r => Sys2Proof.Machine.execVlate r s
  | .eventDelivery r => Sys2Proof.Machine.execEventDelivery r s
  | .lineFill agent line data poison keymiss => Sys2Proof.Machine.execLineFill agent line data poison keymiss s
  | .registrationAck agent id refused => Sys2Proof.Machine.execRegistrationAck agent id refused s
  | .recall agent line mask => Sys2Proof.Machine.execRecall agent line mask s
  | .forward agent line mask => Sys2Proof.Machine.execForward agent line mask s
  | .invalidation agent line mask replace => Sys2Proof.Machine.execInvalidation agent line mask replace s
  | .registration r => Sys2Proof.Machine.execRegistration r s
  | .recallWriteback agent inc line mask data => Sys2Proof.Machine.execRecallWriteback agent inc line mask data s
  | .evictionWriteback agent inc line mask data => Sys2Proof.Machine.execEvictionWriteback agent inc line mask data s
  | .forwardReply agent inc line mask data => Sys2Proof.Machine.execForwardReply agent inc line mask data s
  | .lineRead r => Sys2Proof.Machine.execLineRead r s
  | .homeAtomic r => Sys2Proof.Machine.execHomeAtomic r s
  | .writeThrough r => Sys2Proof.Machine.execWriteThrough r s
  | .engineLineWrite r => Sys2Proof.Machine.execEngineLineWrite r s
  | .invalidationAck agent inc line kept => Sys2Proof.Machine.execInvalidationAck agent inc line kept s
  | .evictionNotice agent inc line => Sys2Proof.Machine.execEvictionNotice agent inc line s
  | .tierFill unit => Sys2Proof.Machine.execTierFill unit s
  | .refresh slice pc => Sys2Proof.Machine.execRefresh slice pc s
  | .refreshLimit slice pc => Sys2Proof.Machine.execRefreshLimit slice pc s
  | .agentTimeout agent => Sys2Proof.Machine.execAgentTimeout agent s
  | .agentDead agent => Sys2Proof.Machine.execAgentDead agent s
  | .leaseRenewal part page granted expiry => Sys2Proof.Machine.execLeaseRenewal part page granted expiry s
  | .leaseLost r => Sys2Proof.Machine.execLeaseLost r s
  | .leaseExpiry page holder => Sys2Proof.Machine.execLeaseExpiry page holder s
  | .revoke page => Sys2Proof.Machine.execRevoke page s
  | .revokeAck page holder => Sys2Proof.Machine.execRevokeAck page holder s
  | .homeHandover page => Sys2Proof.Machine.execHomeHandover page s
  | .commit slice r tag => Sys2Proof.Machine.execCommit slice r tag s
  | .rehomeReissue r => Sys2Proof.Machine.execRehomeReissue r s
  | .copyStep cl id => Sys2Proof.Machine.execCopyStep cl id s
  | .batchReport r => Sys2Proof.Machine.execBatchReport r s
  | .appendGrant r => Sys2Proof.Machine.execAppendGrant r s
  | .appendWrite r => Sys2Proof.Machine.execAppendWrite r s
  | .sealArrival r => Sys2Proof.Machine.execSealArrival r s
  | .sealEntryWrite page => Sys2Proof.Machine.execSealEntryWrite page s
  | .tailRequest r => Sys2Proof.Machine.execTailRequest r s
  | .rackRequest die page gen => Sys2Proof.Machine.execRackRequest die page gen s
  | .rackPushLine die page gen line data => Sys2Proof.Machine.execRackPushLine die page gen line data s
  | .rackDrop die page => Sys2Proof.Machine.execRackDrop die page s
  | .caskInit q page => Sys2Proof.Machine.execCaskInit q page s
  | .caskInitZero q page => Sys2Proof.Machine.execCaskInitZero q page s
  | .caskFree q page => Sys2Proof.Machine.execCaskFree q page s
  | .reclaimSweepEnd page => Sys2Proof.Machine.execReclaimSweepEnd page s
  | .vectorExecute pool claim => Sys2Proof.Machine.execVectorExecute pool claim s
  | .claimGrant pool r => Sys2Proof.Machine.execClaimGrant pool r s
  | .vparkResume pool claim => Sys2Proof.Machine.execVparkResume pool claim s
  | .vparkDiscard pool claim => Sys2Proof.Machine.execVparkDiscard pool claim s
  | .postReceive p => Sys2Proof.Machine.execPostReceive p s
  | .nodeRelease part rec engine => Sys2Proof.Machine.execNodeRelease part rec engine s
  | .nodeDispatch die => Sys2Proof.Machine.execNodeDispatch die s
  | .nodeAging die part rec => Sys2Proof.Machine.execNodeAging die part rec s
  | .nodeDone die part rec => Sys2Proof.Machine.execNodeDone die part rec s
  | .nodeFault die part rec cause addr => Sys2Proof.Machine.execNodeFault die part rec cause addr s
  | .nparkResume engine => Sys2Proof.Machine.execNparkResume engine s
  | .nparkFail engine => Sys2Proof.Machine.execNparkFail engine s
  | .nodeRetry q rec => Sys2Proof.Machine.execNodeRetry q rec s
  | .nodeDrop q rec => Sys2Proof.Machine.execNodeDrop q rec s
  | .launchQueueRing q n tail => Sys2Proof.Machine.execLaunchQueueRing q n tail s
  | .forkRequest p => Sys2Proof.Machine.execForkRequest p s
  | .launchTake q => Sys2Proof.Machine.execLaunchTake q s
  | .rowCreate q launch die => Sys2Proof.Machine.execRowCreate q launch die s
  | .launchComplete q launch => Sys2Proof.Machine.execLaunchComplete q launch s
  | .barrierArrival a => Sys2Proof.Machine.execBarrierArrival a s
  | .syncCompletion r slot tag value refused => Sys2Proof.Machine.execSyncCompletion r slot tag value refused s
  | .rdvArrival a meet count => Sys2Proof.Machine.execRdvArrival a meet count s
  | .watchReply r slot tag value met => Sys2Proof.Machine.execWatchReply r slot tag value met s
  | .ringMessageWrite ring die => Sys2Proof.Machine.execRingMessageWrite ring die s
  | .mboxDrain e => Sys2Proof.Machine.execMboxDrain e s
  | .pageWalk unit part va => Sys2Proof.Machine.execPageWalk unit part va s
  | .ptRootWrite q v => Sys2Proof.Machine.execPtRootWrite q v s
  | .pmemCfgWrite q v => Sys2Proof.Machine.execPmemCfgWrite q v s
  | .pcaskCfgWrite q v => Sys2Proof.Machine.execPcaskCfgWrite q v s
  | .prowCfgWrite q v => Sys2Proof.Machine.execProwCfgWrite q v s
  | .psaveCfgWrite q v => Sys2Proof.Machine.execPsaveCfgWrite q v s
  | .keyLoad k => Sys2Proof.Machine.execKeyLoad k s
  | .keyClear k => Sys2Proof.Machine.execKeyClear k s
  | .pin q page => Sys2Proof.Machine.execPin q page s
  | .pinp q page => Sys2Proof.Machine.execPinp q page s
  | .unpin q page => Sys2Proof.Machine.execUnpin q page s
  | .migrate q page => Sys2Proof.Machine.execMigrate q page s
  | .retire q page => Sys2Proof.Machine.execRetire q page s
  | .spunmap q page => Sys2Proof.Machine.execSpunmap q page s
  | .hptCandRead die => Sys2Proof.Machine.execHptCandRead die s
  | .hptSkipRead die => Sys2Proof.Machine.execHptSkipRead die s
  | .evict q cmask => Sys2Proof.Machine.execEvict q cmask s
  | .forcedFreeze cl => Sys2Proof.Machine.execForcedFreeze cl s
  | .evictionStreaming cl => Sys2Proof.Machine.execEvictionStreaming cl s
  | .restore q cmask => Sys2Proof.Machine.execRestore q cmask s
  | .remove q cmask => Sys2Proof.Machine.execRemove q cmask s
  | .addCluster q cmask => Sys2Proof.Machine.execAddCluster q cmask s
  | .gsEntryWrite v => Sys2Proof.Machine.execGsEntryWrite v s
  | .sliceEntry => Sys2Proof.Machine.execSliceEntry s
  | .enable q => Sys2Proof.Machine.execEnable q s
  | .disable q => Sys2Proof.Machine.execDisable q s
  | .reset q => Sys2Proof.Machine.execReset q s
  | .badcfgClear q => Sys2Proof.Machine.execBadcfgClear q s
  | .pbwWrite q v => Sys2Proof.Machine.execPbwWrite q v s
  | .bwStallRead q => Sys2Proof.Machine.execBwStallRead q s
  | .hostPostedWrite a => Sys2Proof.Machine.execHostPostedWrite a s
  | .hostBarRead a => Sys2Proof.Machine.execHostBarRead a s
  | .storageDoorbell q k v => Sys2Proof.Machine.execStorageDoorbell q k v s
  | .storageCompletion q k cid status data => Sys2Proof.Machine.execStorageCompletion q k cid status data s
  | .peerFlitReceive f => Sys2Proof.Machine.execPeerFlitReceive f s
  | .peerLinkUp port rmod => Sys2Proof.Machine.execPeerLinkUp port rmod s
  | .peerPortFailure port => Sys2Proof.Machine.execPeerPortFailure port s
  | .boot => Sys2Proof.Machine.execBoot s
  | .warmReset => Sys2Proof.Machine.execWarmReset s
  | .translatePortableModule r => Sys2Proof.Machine.execTranslatePortableModule r s
  | .verifyNativeImage r => Sys2Proof.Machine.execVerifyNativeImage r s
  | .attest r => Sys2Proof.Machine.execAttest r s
  | .halt cl => Sys2Proof.Machine.execHalt cl s
  | .resume cl => Sys2Proof.Machine.execResume cl s
  | .step cl => Sys2Proof.Machine.execStep cl s
  | .breakpointMatch e k => Sys2Proof.Machine.execBreakpointMatch e k s
  | .trcCtlWrite q v => Sys2Proof.Machine.execTrcCtlWrite q v s
  | .traceTimeRecord e => Sys2Proof.Machine.execTraceTimeRecord e s
  | .lifetimeFlush => Sys2Proof.Machine.execLifetimeFlush s
  | .rollbackFloorWrite v => Sys2Proof.Machine.execRollbackFloorWrite v s
  | .pwrCtlWrite v => Sys2Proof.Machine.execPwrCtlWrite v s
  | .clockChangeDone => Sys2Proof.Machine.execClockChangeDone s
  | .thermalNotice e temp => Sys2Proof.Machine.execThermalNotice e temp s
  | .throttleStart temp => Sys2Proof.Machine.execThrottleStart temp s
  | .throttleEnd => Sys2Proof.Machine.execThrottleEnd s
  | .managementHalt => Sys2Proof.Machine.execManagementHalt s
  | .registerWrite q off v => Sys2Proof.Machine.execRegisterWrite q off v s
  | .reservedEncoding word => Sys2Proof.Machine.execReservedEncoding word s
  | .fetchFault word cause info lvl => Sys2Proof.Machine.execFetchFault word cause info lvl s
  | .sensorFallenBelow90c e => Sys2Proof.Machine.execSensorFallenBelow90c e s
  | .powerLoss => Sys2Proof.Machine.execPowerLoss s
  | .orderlyShutdown => Sys2Proof.Machine.execOrderlyShutdown s

end Sys2Proof.Machine
end

