-- ==== Sys2Proof/Machine/Spontaneous.lean ====
section
/-!
DEFINITION. Which device steps come about by themselves: acts of the outside world and of timers, and choices of the
units that the spec leaves open (log 1). Each checks in its own meaning whether it is due.
-/

namespace Sys2Proof.Machine

/-- A READY node has waited 1 ms for the lease of a page of its extents (R95, R299). -/
def leaseStuck (s : State) (die q rec' : Nat) (addr : Word) : Bool :=
  match findNode s die q rec' with
  | some n =>
    let (a, b, c, k) := nodeChunks s n
    n.state == 2 && n.stuck.any (fun t => decide (t + 1000000 ≤ s.time)) &&
      (a ++ b ++ c ++ k).any fun x => match x with | .lease _ v => v == addr | _ => false
  | none => false
/-- A read of a line by a peer proxy whose module holds a lease of the page (R94 to R96). -/
def peerRead (s : State) (r : Req) : Bool :=
  0xC0 ≤ r.agent && r.agent < 0x100 && r.op == .read .fill && r.slot == 8 && r.pa % 128 == 0 && r.size == 128
    && s.leases.any fun l => l.isHome && l.page == r.pa / 65536 && l.holder == r.agent && !l.revoking
/-- A device step that no message carries. -/
def spontaneous (s : State) (m : Msg) : Bool :=
  match m with
  -- the outside world: host, storage, peers, power
  | .hostPostedWrite _ => true
  | .hostBarRead _ => true
  | .storageCompletion _ _ _ _ _ => true
  | .peerFlitReceive _ => true
  | .peerLinkUp _ _ => true
  | .peerPortFailure _ => true
  | .powerLoss => true
  | .orderlyShutdown => true
  -- sensors and timers
  | .thermalNotice _ _ => true
  | .throttleStart _ => true
  | .throttleEnd => true
  | .sensorFallenBelow90c _ => true
  | .lifetimeFlush => true
  | .refresh _ _ => true
  | .refreshLimit _ _ => true
  | .clockChangeDone => true
  | .traceTimeRecord _ => true
  | .nodeAging _ _ _ => true
  | .agentTimeout _ => true
  | .agentDead a => s.deadSeen.contains a
  -- leases and other modules
  | .leaseRenewal _ _ _ _ => true
  | .leaseExpiry _ _ => true
  | .leaseLost _ => true
  | .revoke _ => true
  | .revokeAck _ _ => true
  | .homeHandover _ => true
  | .nodeFault die q rec' cause addr => cause == cLease && leaseStuck s die q rec' addr
  | .lineRead r => peerRead s r
  -- replacements in the homes' keeper arrays and the rack maps
  | .invalidation _ _ _ replace => replace
  | .rackDrop _ _ => true
  -- units that take up work when they can
  | .claimGrant _ _ => true
  | .nodeDispatch _ => true
  | .launchTake _ => true
  | .forcedFreeze _ => true
  | .evictionStreaming _ => true
  | .sliceEntry => true
  -- the hypervisor's services for a row that has called it
  | .translatePortableModule _ => true
  | .verifyNativeImage _ => true
  | .attest _ => true
  | _ => false

end Sys2Proof.Machine
end

