-- ==== Sys2Proof/Machine/Step.lean ====
section
/-!
DEFINITION. One step: the turn that moves next (log 1), and where an instruction word is placed so that the next step
fetches and runs it.
-/

namespace Sys2Proof.Machine

/-- The next turn: the first one listed, else the free choice (log 1). -/
def nextTurn (s : State) : Turn × State :=
  match s.turns with
  | t :: ts => (t, { s with turns := ts })
  | [] => (Config.freeTurn s.count, { s with count := s.count + 1 })

/-- A chain that names d12 observes the batches that it shows complete (R121, R225). -/
def seeBatches (i : Instr) (s : State) : State := if (regWords i).contains 12 then observeCopies s (curRow s) else s
/-- The cycle's issue runs: the meaning of the chain, or of its fault at decoding or fetching. -/
def runIssue (e k pr : Nat) (f : Fetched) (s : State) : Host.Outcome State Fault Refusal :=
  match f with
  | .chain i n => exec i (seeBatches i (beginChain s e k pr n))
  | .reserved w => execReservedEncoding w (beginChain s e k pr (w + 1))
  | .fault w c i l => execFetchFault w c i l (beginChain s e k pr 1)
  | .walk _ => .next s
  | .lease _ _ => .next s
  | .line _ _ _ => .next s

/-- An arithmetic cycle of an executor: an event that is due there comes first; else the cycle goes to a slot. -/
def runCycle (e : Nat) (s : State) : Host.Outcome State Fault Refusal :=
  match dueEvent s e with
  | some m => runMsg m s
  | none =>
    match pick s e with
    | .idle => .next (passCycle s e)
    | .issue k pr f => runIssue e k pr f s
    | .marker k => .next (setSlot s e k { slot s e k with wait := .marker, begun := false })
    | .fetch k pr f =>
      let x := slot s e k
      .next (awaitFetch (setSlot { s with cur := pr } e k { x with wait := .none, begun := x.begun && x.wait != .none }) f)

/-- One step of the machine. -/
def step (s : State) : Host.Outcome State Fault Refusal :=
  match nextTurn s with
  | (.cycle e, s) => runCycle e s
  | (.deliver k, s) =>
    match toDeliver s k with
    | some m => runMsg m (takeMsg s m)
    | none => .next s
  | (.event m, s) => if spontaneous s m then runMsg m s else .next s
  | (.elapse ns, s) => .next { s with time := s.time + ns }

/-! ### Placing an instruction -/

/-- The physical place that withFetchWord uses, flat stack memory outside every area of the partition, and the virtual address, right
after the scratchpad window. -/
def fetchPlace : Nat := 0x80000000
def fetchPc (s : State) (q : Nat) : Word := (part s q).spwin + 0x10000000
/-- The partition with home slice 0, its areas where they are at reset, and key slot 0. -/
def fetchPart (p : Part) : Part :=
  { p with pdef1 := putBits p.pdef1 0 8 0x80 &&& ~~~(0xFF#64 <<< 56), pslice := [1, 0, 0, 0],
           pmem := 0, pcask := 0, prow := 0, psave := 0 }
/-- The leaf that maps the page fetched from: R, W, X and U, key slot 0. -/
def fetchLeaf (s : State) (q : Nat) : TlbEnt :=
  ⟨q, bits (fetchPc s q) 0 57 / 65536 * 65536, 4, w64 (2 ^ 63 + 2 ^ 62 + at_ 15 50 + fetchPlace), 0⟩
/-- The row image of bank row 0 made OPEN at that address, with no result outstanding and no event pending. -/
def fetchImage (im : Image) (v : Word) : Image :=
  let im := imgSet im 0 (putBits (imgWord im 0) 48 8 stOpen)
  let im := imgSet (imgSet im 1 v) 2 (putBits (imgWord im 2) 18 14 0)
  let im := imgSet (imgSet im 10 0) 15 (putBits (imgWord im 15) 34 6 0)
  [17, 19, 21, 23, 25, 27, 29, 31].foldl (fun im i => imgSet im i 0) im
/-- The state in which the next step fetches and runs the instruction with the given bits: executor 0 takes a cycle, its
slot 0 holds bank row 0 OPEN, the translation buffer and the cluster cache hold the page and the words (log 21). -/
def State.withFetchWord (s : State) (nbits w : Nat) : State :=
  let im := rowImage s 0
  let q := bits (imgWord im 3) 40 6
  let r : RowId := ⟨q, bits (imgWord im 3) 0 24⟩
  let v := w % 2 ^ nbits
  let line := lineOf fetchPlace
  let ws := [0, 1, 2, 3, 4].map fun i => BitVec.ofNat 32 (v / 2 ^ (32 * i))
  let x := (cline s 0 line)
  let p := part s q
  let ks := keySlot s 0
  let open_ : Slot := ⟨.opened, 0, 0, 0, .none, true, false, 0, false⟩
  let e := { exec' s 0 with
    rr := 3, queue := [], entered := [], xfer := [], asked := [], slots := #v[open_, Slot.init, Slot.init, Slot.init] }
  { s with
    turns := .cycle 0 :: s.turns
    rows := mapSet s.rows 0 (fetchImage im (fetchPc s q))
    execs := mapSet s.execs 0 e
    mem := memStore s.mem fetchPlace (ws.flatMap wordBytes)
    caches := mapSet s.caches (lineKey 0 line) { putWords x 0x1F ws with v := x.v ||| 0x1F }
    tlbs := mapSet s.tlbs 0 (fetchLeaf s q :: mapGet s.tlbs 0 [])
    parts := mapSet s.parts q (fetchPart p)
    clusters := mapSet s.clusters 0 { cluster s 0 with halted := false }
    hub := { s.hub with changing := false, keys := mapSet s.hub.keys 0 { ks with valid := true } }
    stale := s.stale.filter fun w => !(w.agent == 0 && inRange w.addr fetchPlace 20)
    late := s.late.filter fun y => y.1 != r
    ops := s.ops.filter fun o => o.row != r }

end Sys2Proof.Machine
end

