-- ==== Sys2Proof/Safety.lean ====
section
/-!
DEFINITION. The terms in which statements about the machine are made: what stays as it was, what a chain with one result
leaves, what a fault leaves, and the invariant of memory.
-/

namespace Sys2Proof.Machine

/-! ### What stays as it was -/

/-- Every byte of memory reads as before. -/
def SameMemory (s t : State) : Prop := ∀ a, memRead t.mem a = memRead s.mem a
/-- Every byte of every scratchpad reads as before. -/
def SamePads (s t : State) : Prop := ∀ c a, memRead (spad t c) a = memRead (spad s c) a
/-- Nothing but the bank rows has changed: memory, scratchpads, caches, executors, registers of partitions and of the hub
die, and every queue are as before. -/
def OnlyRows (s t : State) : Prop := t = { s with rows := t.rows }
/-- Every word of every other bank row, and every word of the executing row but those listed, is as before. -/
def WordsKept (s t : State) (ws : List Nat) : Prop :=
  ∀ pr k, (pr ≠ s.cur ∨ k ∉ ws) → rowWord t pr k = rowWord s pr k
/-- The chain was counted: QCNT of d2 rose by one, to at most 255, and the other bits of d2 are as before (R192). -/
def Counted (s t : State) : Prop :=
  bits (rowWord t s.cur 2) 24 8 = min 255 (bits (rowWord s s.cur 2) 24 8 + 1) ∧
    ∀ b, b < 24 ∨ 32 ≤ b → (rowWord t s.cur 2).getLsbD b = (rowWord s s.cur 2).getLsbD b

/-! ### What instructions leave -/

/-- The instruction or device step completes on s: it answers a next state, of which P holds. -/
def Runs (i : Instr) (s : State) (P : State → Prop) : Prop := ∃ t, exec i s = .next t ∧ P t
/-- A chain has completed (R52, R192): the PC is at the target, the chain is counted, and every word of every row but d1,
d2 and those listed is as before. -/
structure ChainDone (s t : State) (target : Word) (ws : List Nat) : Prop where
  next  : rowWord t s.cur 1 = target
  count : Counted s t
  words : WordsKept s t (1 :: 2 :: ws)
/-- The row words that a result in rd writes: none for g0 (R46, R190). -/
def resultWords (rd : Reg) : List Nat := if isG0 rd then [] else [regIndex rd]
/-- A chain has completed with one register result (R52, R203, R204): the value is in rd unless rd is g0, the PC is at the
next chain, the chain is counted, and every other word of every row is as before. -/
structure ResultIs (c : Ctl) (rd : Reg) (s t : State) (v : Word) : Prop where
  value : isG0 rd = false → rowWord t s.cur (regIndex rd) = v
  done  : ChainDone s t (nextPc c s) (resultWords rd)

/-- The instruction completes on every state in which its guard passes, with this register result and nothing else
changed. -/
def Gives (i : Instr) (c : Ctl) (rd : Reg) (v : State → Word) : Prop :=
  ∀ s, guardPasses c s = true → rd.win ≠ 3 → Runs i s fun t => ResultIs c rd s t (v s) ∧ OnlyRows s t

/-- The same, after which the row issues nothing for n cycles (R203, R253). -/
def GivesSlowly (i : Instr) (c : Ctl) (rd : Reg) (n : Nat) (v : State → Word) : Prop :=
  ∀ s k, guardPasses c s = true → rd.win ≠ 3 → slotOf s s.cur = some k →
    Runs i s fun t => ResultIs c rd s t (v s) ∧ (slot t (curExec s) k).stall = n ∧ SameMemory s t ∧ SamePads s t

/-- The instruction completes with this predicate value: no other predicate, no other bit of d2 but QCNT, and no other
word changes (R219, R220, R221). -/
def GivesPred (i : Instr) (c : Ctl) (pd : BitVec 4) (v : State → Bool) : Prop :=
  ∀ s, guardPasses c s = true → Runs i s fun t => OnlyRows s t ∧ WordsKept s t [1, 2] ∧
    rowWord t s.cur 1 = nextPc c s ∧
    (∀ n : BitVec 4, pred t n = if n = pd then v s else pred s n) ∧
    ∀ b, (16 ≤ b ∧ b < 24) ∨ 32 ≤ b → (rowWord t s.cur 2).getLsbD b = (rowWord s s.cur 2).getLsbD b

/-- A function of two registers, with its result for the next chain (R203, R214). -/
def Gives2 (op : Ctl → Reg → Reg → Reg → Instr) (f : Word → Word → Word) : Prop :=
  ∀ c rd ra rb, Gives (op c rd ra rb) c rd fun s => f (readReg s ra) (readReg s rb)
/-- A function of one register. -/
def Gives1 (op : Ctl → Reg → Reg → Instr) (f : Word → Word) : Prop :=
  ∀ c rd ra, Gives (op c rd ra) c rd fun s => f (readReg s ra)
/-- A function of a register and an immediate (R218). -/
def GivesImm (op : Ctl → Reg → Reg → Int → Instr) (f : Word → Int → Word) : Prop :=
  ∀ c rd ra imm, Gives (op c rd ra imm) c rd fun s => f (readReg s ra) imm
/-- A function of two registers after which the row issues nothing for n cycles. -/
def GivesSlowly2 (op : Ctl → Reg → Reg → Reg → Instr) (n : Nat) (f : Word → Word → Word) : Prop :=
  ∀ c rd ra rb, GivesSlowly (op c rd ra rb) c rd n fun s => f (readReg s ra) (readReg s rb)

/-- A row has taken a fault (R400, R403): d5 and d6 are written, STATE is FAULTED, and every other word of every row is as
before; memory is as before unless a state-change record was traced (R462). -/
structure FaultIs (s t : State) (f : FaultInfo) (a : Word) : Prop where
  d5    : rowWord t s.cur 5 = faultWord f false
  d6    : rowWord t s.cur 6 = a
  state : rowState t s.cur = stFaulted
  words : WordsKept s t [0, 5, 6]
  low   : ∀ b, b < 48 ∨ 56 ≤ b → (rowWord t s.cur 0).getLsbD b = (rowWord s s.cur 0).getLsbD b
  mem   : bit (part s (curPart s)).trcCtl 4 = false → t.mem = s.mem
  pads  : t.spads = s.spads

/-- The instruction faults on s with this cause and address. -/
def Faults (i : Instr) (s : State) (f : FaultInfo) (a : Word) : Prop := Runs i s fun t => FaultIs s t f a

/-- A call to the kernel or the hypervisor has been taken (R368): d1 is past the call, d6 its address, cause TRAP. -/
structure CallIs (c : Ctl) (s t : State) (info : Nat) : Prop where
  d1    : rowWord t s.cur 1 = nextPc c s
  d5    : rowWord t s.cur 5 = faultWord (faultOf cTrap info 0) false
  d6    : rowWord t s.cur 6 = pc s
  state : rowState t s.cur = stFaulted
  count : Counted s t
  words : WordsKept s t [0, 1, 2, 5, 6]

/-! ### Memory instructions -/

/-- A memory instruction of the executing row can go on at once: no acquire of the row is pending, and none is owed since
its last move (R179, log 39). -/
def MemReady (s : State) : Prop :=
  acquirePending s = false ∧ storesBehind s = false ∧ (s.owed.any fun x => x.1 == curRow s) = false
/-- The release of an access, if it has one, is complete (R172). -/
def ReleaseReady (s : State) (rel : Option Scope) : Prop := ∀ sc, rel = some sc → releaseMet s sc (releaseSnap s) = true
/-- No load or atomic of the executing row that is still out will write this row word (R174). -/
def WordReady (s : State) (w : Nat) : Prop :=
  ∀ j, j < 8 → slotState s (.bank s.cur) j ≠ 0 → slotKind s (.bank s.cur) j = 1 ∨ slotKind s (.bank s.cur) j = 3 →
    slotDest s (.bank s.cur) j = w → w = 0
/-- The executing row watches no dword: none of its slots is that of a wait or await (R354). -/
def NoWatch (s : State) : Prop := ∀ j, j < 8 → slotState s (.bank s.cur) j ≠ 0 → slotKind s (.bank s.cur) j ≠ 0x0A
/-- A page can be used here: it is homed in this module, or a lease of it is held (R94). -/
def LeaseReady (s : State) (pa : Nat) : Prop := isRemote s pa = true → leaseUsable s (pa / 65536) = true
/-- No byte of memory or of a scratchpad has changed. -/
def SameBytes (s t : State) : Prop := SameMemory s t ∧ SamePads s t
/-- A request is that of slot i of the executing row: its operation, place and size are as given (R174). -/
def RequestIs (s t : State) (i : Nat) (q : Req) (op : HomeOp) (pa size : Nat) : Prop :=
  q.op = op ∧ q.pa = pa ∧ q.size = size ∧ q.row = curRow s ∧ q.slot = i ∧ q.tag = slotTag t (.bank s.cur) i
/-- A chain has issued an operation under flight-record slot i, which was FREE (R174, R196): the slot is ISSUED with these
fields, OUTS counts the slots that are not FREE, the PC is at the target, and every word of every row but d1, d2 and the
slot's two is as before. -/
structure Issued (target : Word) (s t : State) (i size dest cls kind : Nat) (a : Word) : Prop where
  state : slotState t (.bank s.cur) i = 1
  size  : bits (slotWord t (.bank s.cur) i) 50 8 = size
  dest  : slotDest t (.bank s.cur) i = dest
  cls   : slotClass t (.bank s.cur) i = cls
  kind  : slotKind t (.bank s.cur) i = kind
  addr  : slotAddr t (.bank s.cur) i = a
  outs  : bits (rowWord t s.cur 2) 18 6 = (busySlots t (.bank s.cur)).length
  next  : rowWord t s.cur 1 = target
  words : WordsKept s t [1, 2, 16 + 2 * i, 17 + 2 * i]
/-- A slot of the executing row is ISSUED with this destination, class, kind and address. -/
def SlotIs (s t : State) (i dest cls kind : Nat) (a : Word) : Prop :=
  slotState t (.bank s.cur) i = 1 ∧ slotDest t (.bank s.cur) i = dest ∧ slotClass t (.bank s.cur) i = cls ∧
    slotKind t (.bank s.cur) i = kind ∧ slotAddr t (.bank s.cur) i = a
/-- The executing row leaves OPEN for a state (R334, R338): the PC is at the target, the chain is counted, and every word of
every row but d0, d1, d2 and those listed is as before; no byte of memory or of a scratchpad changes, unless a state-change
record is traced (R462). -/
structure RowLeaves (s t : State) (st : Nat) (target : Word) (ws : List Nat) : Prop where
  state : rowState t s.cur = st
  next  : rowWord t s.cur 1 = target
  count : bits (rowWord t s.cur 2) 24 8 = min 255 (bits (rowWord s s.cur 2) 24 8 + 1)
  words : WordsKept s t (0 :: 1 :: 2 :: ws)
  bytes : bit (part s (curPart s)).trcCtl 4 = false → SameBytes s t
/-- The row is BLOCKED with this reason (R334). -/
def BlockedFor (s t : State) (reason : Nat) : Prop := bits (rowWord t s.cur 15) 41 3 = reason
/-- A reply with a value is on its way to slot i of the executing row, under the tag that the slot holds. -/
def Replies (s t : State) (i : Nat) (v : Word) : Prop :=
  ∃ p, Msg.resultArrival p ∈ t.agenda ∧ p.row = curRow s ∧ p.slot = i ∧ p.tag = slotTag t (.bank s.cur) i ∧ p.value = v ∧
    p.poison = 0 ∧ p.refuse = 0
/-- An access to another row's image is on its way (R202), under the tag of slot i. -/
def AccessSent (s t : State) (i : Nat) (r : RowId) (off : Nat) (op : RowOp) : Prop :=
  ∃ x, Msg.outsideRowAccess x ∈ t.agenda ∧ x.target = r ∧ x.off = off ∧ x.op = op ∧ x.priv = priv s ∧ x.row = curRow s ∧
    x.slot = i ∧ x.tag = slotTag t (.bank s.cur) i
/-- The bytes of one scratchpad from an offset on are these; every other byte of every scratchpad is as before. -/
def PadStored (s t : State) (c off : Nat) (data : List Byte) : Prop :=
  ∀ k a, memRead (spad t k) a =
    if k = c ∧ off ≤ a ∧ a < off + data.length then nth data (a - off) 0 else memRead (spad s k) a
/-- The executing row's slot waits at its instruction, and no word of any row changes. -/
def WaitsAt (s t : State) (k : Nat) (w : Wait) : Prop := (slot t (curExec s) k).wait = w ∧ t.rows = s.rows

/-! ### What a device step leaves at a row -/

/-- Every word of every other bank row, and every word of this one but those listed, is as before. -/
def RowKept (s t : State) (pr : Nat) (ws : List Nat) : Prop := ∀ q k, q ≠ pr ∨ k ∉ ws → rowWord t q k = rowWord s q k
/-- A bank row is READY and in the queue of its bank (R342). -/
def Queued (t : State) (pr : Nat) : Prop := rowState t pr = stReady ∧ pr ∈ (exec' t (execOf pr)).queue
/-- A bank row has taken a fault with this d5 and d6 (R400, R403); d1 and every other word are as before. -/
structure RowFaulted (s t : State) (pr : Nat) (f : FaultInfo) (late : Bool) (a : Word) (ws : List Nat) : Prop where
  d5    : rowWord t pr 5 = faultWord f late
  d6    : rowWord t pr 6 = a
  state : rowState t pr = stFaulted
  words : RowKept s t pr (0 :: 5 :: 6 :: ws)
/-- The slot of a bank row is FREE, and OUTS counts those that are not (R196). -/
def SlotFreed (t : State) (pr i : Nat) : Prop :=
  slotState t (.bank pr) i = 0 ∧ bits (rowWord t pr 2) 18 6 = (busySlots t (.bank pr)).length

/-! ### What a home slice needs to perform a request at once -/

/-- A request that its home performs on arrival (R4, R80, R85, R92, R97, R188, R412, R423): its agent is none that the device refuses,
its incarnation the agent's present one, the page has neither moved nor left, its key is new and has room in the done table, its
line is in flat memory, free, and waited for by none, and it does not come behind stores that its row has left in another cluster. -/
structure HomeReady (s : State) (r : Req) : Prop where
  inc   : staleInc s r.agent r.inc = false
  frame : (s.rehomed.any fun x => x.1 == r.pa / 65536) = false
  key   : doneAnswer s r = none
  room  : doneFull s r = false
  own   : reservedAgent r.agent = false
  here  : handedOver s r = false
  flat  : inTier (part s r.part) r.pa = false
  idle  : lineBusy s r = false
  first : (hline s (lineOf r.pa)).waiting = []
  after : behindStores s r = false
/-- No word of the line is registered, no engine holds it, no agent of this module keeps it, no other module has a lease of its
page, and no change of it is in progress. -/
structure LineQuiet (s : State) (line : Nat) : Prop where
  owned : owners (hline s line).reg = []
  eng   : (hline s line).reg.eng = false
  kept  : (hline s line).keep = KeepEntry.init
  lent  : leased s (line / 512) = false
  idle  : (hline s line).txn = none
/-- The hardware's own write of the line is made at once: besides, its tier unit has no miss entry, and its sector is cached or a miss
entry is free for it (R72, R85, R96). -/
def LineOpen (s : State) (line : Nat) : Prop := LineQuiet s line ∧ tierTakes s (128 * line) = true
/-- A keeper of the line finds a place: its line has an entry, or fewer lines have one than a set of the array holds (R75). -/
def KeeperRoom (s : State) (line : Nat) : Prop :=
  keepsNone (hline s line).keep = false ∨ (s.homes.filter fun x => !keepsNone x.2.keep).length < 8
/-- n bytes that lie in one 64-byte block. -/
def OneBlock (pa n : Nat) : Prop := 0 < n ∧ pa % 64 + n ≤ 64
/-- The partition traces no coherence record (R463). -/
def CohQuiet (s : State) (q : Nat) : Prop := bit (part s q).trcCtl 5 = false
/-- A tail entry's fields (R135): state, PEND and TAIL. -/
def TailIs (t : State) (q page st pend tl : Nat) : Prop :=
  teState (tailEntry t q page) = st ∧ tePend (tailEntry t q page) = pend ∧ teTail (tailEntry t q page) = tl
/-- A partition's CASK_CTL has answered (R138). -/
def CaskAnswers (t : State) (q res : Nat) : Prop := (part t q).caskBusy = false ∧ (part t q).caskRes.toNat = res

/-- PG_CTL has answered (R410). -/
def PageAnswers (t : State) (q res : Nat) : Prop := (part t q).pgBusy = false ∧ (part t q).pgRes.toNat = res
/-- A partition's definition was refused: BADCFG is set and nothing else changes (R69, R441). -/
def RefusesConfig (q : Nat) (s t : State) : Prop := t = setPart s q { part s q with badcfg := true }

/-! ### Nodes -/

/-- The status dword of a record lies in flat memory in a block of the record's KEY, in a line that nobody holds, apart from the
row-table entry of its poster. -/
def StatusApart (s : State) (n : Node) : Prop :=
  ∀ r pa, (sliceRuns n.recPa 8 8).head? = some r → r.place = .mem pa →
    pa % 8 = 0 ∧ LineOpen s (lineOf pa) ∧ lineOf pa ≠ lineOf (entryAddr s n.poster) ∧ (block s pa).key.toNat = r.key ∧
      inTier (part s n.part) pa = false
/-- The status dword of a record is this one (R295). -/
def StatusIs (t : State) (n : Node) (v : Word) : Prop :=
  ∀ r pa, (sliceRuns n.recPa 8 8).head? = some r → r.place = .mem pa → memWord t pa = v
/-- An engine has worked on a node (R301, R311, R388): it is busy with it while the node's end is on its way, or parked with it. -/
def Worked (t : State) (e : Nat) (n : Node) : Prop :=
  ((tile t e).busy = some (n.part, n.record) ∧ (Msg.nodeDone n.die n.part n.record ∈ t.agenda ∨
    ∃ c a, Msg.nodeFault n.die n.part n.record c a ∈ t.agenda)) ∨ (tile t e).parked = some (n.part, n.record)
/-- A node is kept as FAULT (R300, R408) and is no longer in its pool. -/
def KeptFault (t : State) (n : Node) (cause : Nat) : Prop :=
  findNode t n.die n.part n.record = none ∧
    ∃ y ∈ (hub t n.die).kept, y.part = n.part ∧ y.record = n.record ∧ y.state = 5 ∧ y.cause = cause

/-! ### Messages and device steps -/

/-- The device step that a message or an event stands for. -/
def StandsFor (m : Msg) (i : Instr) : Prop :=
  match m with
  | .start r op => i = .start r op
  | .stopCommand r => i = .stopCommand r
  | .redirect r op => i = .redirect r op
  | .wake r => i = .wake r
  | .freeze r => i = .freeze r
  | .thaw r => i = .thaw r
  | .parkCommand r => i = .parkCommand r
  | .unpark r => i = .unpark r
  | .move r op => i = .move r op
  | .quantumClosing e k => i = .quantumClosing e k
  | .switchMarkerClosing e k => i = .switchMarkerClosing e k
  | .waitingInstructionClosing e k => i = .waitingInstructionClosing e k
  | .limitClosing e k => i = .limitClosing e k
  | .waitConditionMet r => i = .waitConditionMet r
  | .closingDone e k => i = .closingDone e k
  | .opening e => i = .opening e
  | .openingDone e k => i = .openingDone e k
  | .openInPlace e k => i = .openInPlace e k
  | .bringIn e => i = .bringIn e
  | .outsideRowAccess a => i = .outsideRowAccess a
  | .resultArrival p => i = .resultArrival p
  | .lateCheck r => i = .lateCheck r
  | .vlate r => i = .vlate r
  | .eventDelivery r => i = .eventDelivery r
  | .lineFill agent line data poison keymiss => i = .lineFill agent line data poison keymiss
  | .registrationAck agent id refused => i = .registrationAck agent id refused
  | .recall agent line mask => i = .recall agent line mask
  | .forward agent line mask => i = .forward agent line mask
  | .invalidation agent line mask replace => i = .invalidation agent line mask replace
  | .registration r => i = .registration r
  | .recallWriteback agent inc line mask data => i = .recallWriteback agent inc line mask data
  | .evictionWriteback agent inc line mask data => i = .evictionWriteback agent inc line mask data
  | .forwardReply agent inc line mask data => i = .forwardReply agent inc line mask data
  | .lineRead r => i = .lineRead r
  | .homeAtomic r => i = .homeAtomic r
  | .writeThrough r => i = .writeThrough r
  | .engineLineWrite r => i = .engineLineWrite r
  | .invalidationAck agent inc line kept => i = .invalidationAck agent inc line kept
  | .evictionNotice agent inc line => i = .evictionNotice agent inc line
  | .tierFill unit => i = .tierFill unit
  | .refresh slice pc => i = .refresh slice pc
  | .refreshLimit slice pc => i = .refreshLimit slice pc
  | .agentTimeout agent => i = .agentTimeout agent
  | .agentDead agent => i = .agentDead agent
  | .leaseRenewal part page granted expiry => i = .leaseRenewal part page granted expiry
  | .leaseLost r => i = .leaseLost r
  | .leaseExpiry page holder => i = .leaseExpiry page holder
  | .revoke page => i = .revoke page
  | .revokeAck page holder => i = .revokeAck page holder
  | .homeHandover page => i = .homeHandover page
  | .commit slice r tag => i = .commit slice r tag
  | .rehomeReissue r => i = .rehomeReissue r
  | .copyStep cl id => i = .copyStep cl id
  | .batchReport r => i = .batchReport r
  | .appendGrant r => i = .appendGrant r
  | .appendWrite r => i = .appendWrite r
  | .sealArrival r => i = .sealArrival r
  | .sealEntryWrite page => i = .sealEntryWrite page
  | .tailRequest r => i = .tailRequest r
  | .rackRequest die page gen => i = .rackRequest die page gen
  | .rackPushLine die page gen line data => i = .rackPushLine die page gen line data
  | .rackDrop die page => i = .rackDrop die page
  | .caskInit q page => i = .caskInit q page
  | .caskInitZero q page => i = .caskInitZero q page
  | .caskFree q page => i = .caskFree q page
  | .reclaimSweepEnd page => i = .reclaimSweepEnd page
  | .vectorExecute pool claim => i = .vectorExecute pool claim
  | .claimGrant pool r => i = .claimGrant pool r
  | .vparkResume pool claim => i = .vparkResume pool claim
  | .vparkDiscard pool claim => i = .vparkDiscard pool claim
  | .postReceive p => i = .postReceive p
  | .nodeRelease part rec engine => i = .nodeRelease part rec engine
  | .nodeDispatch die => i = .nodeDispatch die
  | .nodeAging die part rec => i = .nodeAging die part rec
  | .nodeDone die part rec => i = .nodeDone die part rec
  | .nodeFault die part rec cause addr => i = .nodeFault die part rec cause addr
  | .nparkResume engine => i = .nparkResume engine
  | .nparkFail engine => i = .nparkFail engine
  | .nodeRetry q rec => i = .nodeRetry q rec
  | .nodeDrop q rec => i = .nodeDrop q rec
  | .launchQueueRing q n tail => i = .launchQueueRing q n tail
  | .forkRequest p => i = .forkRequest p
  | .launchTake q => i = .launchTake q
  | .rowCreate q launch die => i = .rowCreate q launch die
  | .launchComplete q launch => i = .launchComplete q launch
  | .barrierArrival a => i = .barrierArrival a
  | .syncCompletion r slot tag value refused => i = .syncCompletion r slot tag value refused
  | .rdvArrival a meet count => i = .rdvArrival a meet count
  | .watchReply r slot tag value met => i = .watchReply r slot tag value met
  | .ringMessageWrite ring die => i = .ringMessageWrite ring die
  | .mboxDrain e => i = .mboxDrain e
  | .pageWalk unit part va => i = .pageWalk unit part va
  | .ptRootWrite q v => i = .ptRootWrite q v
  | .pmemCfgWrite q v => i = .pmemCfgWrite q v
  | .pcaskCfgWrite q v => i = .pcaskCfgWrite q v
  | .prowCfgWrite q v => i = .prowCfgWrite q v
  | .psaveCfgWrite q v => i = .psaveCfgWrite q v
  | .keyLoad k => i = .keyLoad k
  | .keyClear k => i = .keyClear k
  | .pin q page => i = .pin q page
  | .pinp q page => i = .pinp q page
  | .unpin q page => i = .unpin q page
  | .migrate q page => i = .migrate q page
  | .retire q page => i = .retire q page
  | .spunmap q page => i = .spunmap q page
  | .hptCandRead die => i = .hptCandRead die
  | .hptSkipRead die => i = .hptSkipRead die
  | .evict q cmask => i = .evict q cmask
  | .forcedFreeze cl => i = .forcedFreeze cl
  | .evictionStreaming cl => i = .evictionStreaming cl
  | .restore q cmask => i = .restore q cmask
  | .remove q cmask => i = .remove q cmask
  | .addCluster q cmask => i = .addCluster q cmask
  | .gsEntryWrite v => i = .gsEntryWrite v
  | .sliceEntry => i = .sliceEntry
  | .enable q => i = .enable q
  | .disable q => i = .disable q
  | .reset q => i = .reset q
  | .badcfgClear q => i = .badcfgClear q
  | .pbwWrite q v => i = .pbwWrite q v
  | .bwStallRead q => i = .bwStallRead q
  | .hostPostedWrite a => i = .hostPostedWrite a
  | .hostBarRead a => i = .hostBarRead a
  | .storageDoorbell q k v => i = .storageDoorbell q k v
  | .storageCompletion q k cid status data => i = .storageCompletion q k cid status data
  | .peerFlitReceive f => i = .peerFlitReceive f
  | .peerLinkUp port rmod => i = .peerLinkUp port rmod
  | .peerPortFailure port => i = .peerPortFailure port
  | .boot => i = .boot
  | .warmReset => i = .warmReset
  | .translatePortableModule r => i = .translatePortableModule r
  | .verifyNativeImage r => i = .verifyNativeImage r
  | .attest r => i = .attest r
  | .halt cl => i = .halt cl
  | .resume cl => i = .resume cl
  | .step cl => i = .step cl
  | .breakpointMatch e k => i = .breakpointMatch e k
  | .trcCtlWrite q v => i = .trcCtlWrite q v
  | .traceTimeRecord e => i = .traceTimeRecord e
  | .lifetimeFlush => i = .lifetimeFlush
  | .rollbackFloorWrite v => i = .rollbackFloorWrite v
  | .pwrCtlWrite v => i = .pwrCtlWrite v
  | .clockChangeDone => i = .clockChangeDone
  | .thermalNotice e temp => i = .thermalNotice e temp
  | .throttleStart temp => i = .throttleStart temp
  | .throttleEnd => i = .throttleEnd
  | .managementHalt => i = .managementHalt
  | .registerWrite q off v => i = .registerWrite q off v
  | .reservedEncoding word => i = .reservedEncoding word
  | .fetchFault word cause info lvl => i = .fetchFault word cause info lvl
  | .sensorFallenBelow90c e => i = .sensorFallenBelow90c e
  | .powerLoss => i = .powerLoss
  | .orderlyShutdown => i = .orderlyShutdown

/-! ### The invariant of memory -/

/-- Memory and every scratchpad are in canonical form, so that equal contents are equal data. -/
def MemoryCanonical (s : State) : Prop := s.mem.wf = true ∧ ∀ x ∈ s.spads, x.2.wf = true

end Sys2Proof.Machine
end

