-- ==== Sys2Proof/Certificates/Slice0/Obligations.lean ====
section
/-!
DEFINITION. The statements about the machine, each a proposition, for the provers. Each docstring names the rules of the spec that
a statement rests on.
-/

open Sys2Proof Sys2Proof.Machine

/-! ### Scalar instructions -/

/-- R36: an instruction of any major opcode but those of the vector commands whose guard fails has no effect on any row
word, memory location, claim, queue or counter of the machine; the PC advances past the chain, and QCNT counts it (R192).
ill faults whatever its guard (R39) and is not meant. -/
def Obligations.FailedGuardOnlyAdvances : Prop :=
  ∀ (i : Instr) (u : Uses) (s : State), i.uses = some u → vopOf i = none → i ≠ .ill u.ctl →
    guardPasses u.ctl s = false →
    Runs i s fun t => OnlyRows s t ∧ ChainDone s t (nextPc u.ctl s) []

/-- R215: each ALU function sets g[rd] as its table gives, for every destination but one in window 3, and changes nothing
else but the PC and QCNT. -/
def Obligations.AluResults : Prop :=
  Gives2 .add (fun a b => BitVec.ofNat 64 (a.toNat + b.toNat)) ∧
  Gives2 .sub (fun a b => BitVec.ofInt 64 ((a.toNat : Int) - b.toNat)) ∧
  Gives2 .and (fun a b => a &&& b) ∧
  Gives2 .or (fun a b => a ||| b) ∧
  Gives2 .xor (fun a b => a ^^^ b) ∧
  Gives2 .andn (fun a b => a &&& ~~~b) ∧
  Gives2 .orn (fun a b => a ||| ~~~b) ∧
  Gives2 .nor (fun a b => ~~~(a ||| b)) ∧
  Gives2 .shl (fun a b => BitVec.ofNat 64 (a.toNat * 2 ^ (b.toNat % 64))) ∧
  Gives2 .shr (fun a b => BitVec.ofNat 64 (a.toNat / 2 ^ (b.toNat % 64))) ∧
  Gives2 .sra (fun a b => BitVec.ofInt 64 (Int.fdiv a.toInt (2 ^ (b.toNat % 64) : Nat))) ∧
  Gives2 .rol (fun a b => if b.toNat % 64 = 0 then a else
    BitVec.ofNat 64 (a.toNat * 2 ^ (b.toNat % 64)) ||| BitVec.ofNat 64 (a.toNat / 2 ^ (64 - b.toNat % 64))) ∧
  Gives2 .min (fun a b => if a.toInt < b.toInt then a else b) ∧
  Gives2 .max (fun a b => if a.toInt > b.toInt then a else b) ∧
  Gives2 .minz (fun a b => if a.toNat < b.toNat then a else b) ∧
  Gives2 .maxz (fun a b => if a.toNat > b.toNat then a else b)

/-- R216, R203: the MUL functions: products, divisions that never fault and hold the row for 18 cycles, and the unary
functions. -/
def Obligations.MulAndDivResults : Prop :=
  (Gives2 .mul (fun a b => BitVec.ofNat 64 (a.toNat * b.toNat)) ∧
   Gives2 .mulh (fun a b => BitVec.ofInt 64 (Int.fdiv (a.toInt * b.toInt) (2 ^ 64))) ∧
   Gives2 .mulhz (fun a b => BitVec.ofNat 64 (a.toNat * b.toNat / 2 ^ 64)) ∧
   Gives1 .abs (fun a => BitVec.ofNat 64 a.toInt.natAbs) ∧
   Gives1 .neg (fun a => BitVec.ofInt 64 (0 - (a.toNat : Int))) ∧
   Gives1 .clz (fun a => BitVec.ofNat 64 ((List.range 64).takeWhile fun i => !a.getLsbD (63 - i)).length) ∧
   Gives1 .ctz (fun a => BitVec.ofNat 64 ((List.range 64).takeWhile fun i => !a.getLsbD i).length) ∧
   Gives1 .popc (fun a => BitVec.ofNat 64 ((List.range 64).countP fun i => a.getLsbD i)) ∧
   Gives1 .bswap (fun a => (List.range 8).foldl (fun v k => v ||| (((a >>> (8 * k)) &&& 255#64) <<< (56 - 8 * k))) 0#64)) ∧
  (GivesSlowly2 .div 18 (fun a b => if b = 0 then BitVec.ofNat 64 (2 ^ 64 - 1)
     else if a.toInt = -2 ^ 63 ∧ b.toInt = -1 then BitVec.ofNat 64 (2 ^ 63)
     else BitVec.ofInt 64 (Int.tdiv a.toInt b.toInt)) ∧
   GivesSlowly2 .divz 18 (fun a b => if b = 0 then BitVec.ofNat 64 (2 ^ 64 - 1) else BitVec.ofNat 64 (a.toNat / b.toNat)) ∧
   GivesSlowly2 .rem 18 (fun a b => if b = 0 then a
     else if a.toInt = -2 ^ 63 ∧ b.toInt = -1 then 0
     else BitVec.ofInt 64 (a.toInt - b.toInt * Int.tdiv a.toInt b.toInt)) ∧
   GivesSlowly2 .remz 18 (fun a b => if b = 0 then a else BitVec.ofNat 64 (a.toNat - b.toNat * (a.toNat / b.toNat))))

/-- R217: fields clipped at bit 63, their extraction with either extension, their insertion, and the six extensions. -/
def Obligations.BitFieldResults : Prop :=
  Gives2 .bfx (fun a b =>
    let pos := b.toNat % 64
    let k := min (b.toNat / 256 % 256) (64 - pos)
    if k = 0 then 0 else ((a >>> pos).setWidth k).signExtend 64) ∧
  Gives2 .bfxz (fun a b =>
    let pos := b.toNat % 64
    let k := min (b.toNat / 256 % 256) (64 - pos)
    if k = 0 then 0 else ((a >>> pos).setWidth k).setWidth 64) ∧
  (∀ c rd ra rb, Gives (.bfi c rd ra rb) c rd fun s =>
    let pos := (readReg s rb).toNat % 64
    let k := min ((readReg s rb).toNat / 256 % 256) (64 - pos)
    let mask := BitVec.ofNat 64 (2 ^ k - 1) <<< pos
    (readReg s rd &&& ~~~mask) ||| ((readReg s ra <<< pos) &&& mask)) ∧
  Gives1 .sxb (fun a => (a.setWidth 8).signExtend 64) ∧
  Gives1 .sxh (fun a => (a.setWidth 16).signExtend 64) ∧
  Gives1 .sxw (fun a => (a.setWidth 32).signExtend 64) ∧
  Gives1 .zxb (fun a => (a.setWidth 8).setWidth 64) ∧
  Gives1 .zxh (fun a => (a.setWidth 16).setWidth 64) ∧
  Gives1 .zxw (fun a => (a.setWidth 32).setWidth 64)

/-- R218 and R219: the immediate forms act as the register forms with b the sign-extended immediate; movi and adr. A shift
amount is one that the instruction admits, 0 to 63. -/
def Obligations.ImmediateResults : Prop :=
  GivesImm .addi (fun a imm => BitVec.ofInt 64 (a.toInt + imm)) ∧
  GivesImm .andi (fun a imm => a &&& BitVec.ofInt 64 imm) ∧
  GivesImm .ori (fun a imm => a ||| BitVec.ofInt 64 imm) ∧
  GivesImm .xori (fun a imm => a ^^^ BitVec.ofInt 64 imm) ∧
  (∀ (c : Ctl) (rd ra : Reg) (n : Nat), n < 64 →
    Gives (.shli c rd ra n) c rd (fun s => BitVec.ofNat 64 ((readReg s ra).toNat * 2 ^ n)) ∧
    Gives (.shri c rd ra n) c rd (fun s => BitVec.ofNat 64 ((readReg s ra).toNat / 2 ^ n)) ∧
    Gives (.srai c rd ra n) c rd (fun s => BitVec.ofInt 64 (Int.fdiv (readReg s ra).toInt (2 ^ n : Nat)))) ∧
  GivesImm .muli (fun a imm => BitVec.ofInt 64 (a.toInt * imm)) ∧
  ∀ (c : Ctl) (rd : Reg) (imm : Int),
    Gives (.movi c rd imm) c rd (fun _ => BitVec.ofInt 64 imm) ∧
    Gives (.adr c rd imm) c rd (fun s => BitVec.ofInt 64 ((pc s).toNat + imm))

/-- R220: cmp and cmpi set p[pd] to their condition and leave every other bit of d2 but QCNT unchanged. R221: the
predicate functions; pget reads all 16 predicates into a register, pput writes all 16 at once. -/
def Obligations.CompareAndPredicateResults : Prop :=
  (∀ (c : Ctl) (pd : BitVec 4) (cond : Cond) (ra rb : Reg) (imm : Int),
     let holds := fun (x y : Word) => match cond with
       | .eq => decide (x = y)
       | .ne => decide (x ≠ y)
       | .lt => decide (x.toInt < y.toInt)
       | .le => decide (x.toInt ≤ y.toInt)
       | .gt => decide (x.toInt > y.toInt)
       | .ge => decide (x.toInt ≥ y.toInt)
       | .ltz => decide (x.toNat < y.toNat)
       | .lez => decide (x.toNat ≤ y.toNat)
       | .gtz => decide (x.toNat > y.toNat)
       | .gez => decide (x.toNat ≥ y.toNat)
     GivesPred (.cmp c pd cond ra rb) c pd (fun s => holds (readReg s ra) (readReg s rb)) ∧
     GivesPred (.cmpi c pd cond ra imm) c pd (fun s => holds (readReg s ra) (BitVec.ofInt 64 imm))) ∧
  (∀ (c : Ctl) (pd pa pb : BitVec 4),
     GivesPred (.pand c pd pa pb) c pd (fun s => pred s pa && pred s pb) ∧
     GivesPred (.por c pd pa pb) c pd (fun s => pred s pa || pred s pb) ∧
     GivesPred (.pxor c pd pa pb) c pd (fun s => xor (pred s pa) (pred s pb)) ∧
     GivesPred (.pandn c pd pa pb) c pd (fun s => pred s pa && !pred s pb) ∧
     GivesPred (.pnot c pd pa) c pd (fun s => !pred s pa) ∧
     GivesPred (.pmov c pd pa) c pd (fun s => pred s pa) ∧
     GivesPred (.pset c pd) c pd (fun _ => true) ∧
     GivesPred (.pclr c pd) c pd (fun _ => false) ∧
     Gives (.pget c pd) c (gReg pd.toNat) (fun s => BitVec.ofNat 64 ((rowWord s s.cur 2).toNat % 2 ^ 16)) ∧
     ∀ s, guardPasses c s = true → Runs (.pput c pa) s fun t => OnlyRows s t ∧ WordsKept s t [1, 2] ∧
       rowWord t s.cur 1 = nextPc c s ∧ (∀ n : BitVec 4, pred t n = (readReg s (gReg pa.toNat)).getLsbD n.toNat) ∧
       ∀ b, (16 ≤ b ∧ b < 24) ∨ 32 ≤ b → (rowWord t s.cur 2).getLsbD b = (rowWord s s.cur 2).getLsbD b)

/-- R223: targets, the link in g31 or rd, and the decremented counter; a destination g0 keeps nothing, and dbnz through it
counts 0. R205 and R224: nop only moves on; ifence discards the row's fetched words and occupies 3 further cycles of it.
The model's own choices in it: log 94. -/
def Obligations.ControlFlow : Prop :=
  (∀ (c : Ctl) (rd ra : Reg) (off : BitVec 19) (o14 : BitVec 14) (s : State), guardPasses c s = true →
     let ia := pc s
     let na := ia + BitVec.ofNat 64 (4 * (c.len + 1))
     let dec := readReg s rd - 1
     Runs (.br c off) s (fun t => OnlyRows s t ∧ ChainDone s t (ia + BitVec.ofInt 64 (4 * off.toInt)) []) ∧
     Runs (.bl c off) s (fun t => OnlyRows s t ∧ ChainDone s t (ia + BitVec.ofInt 64 (4 * off.toInt)) [63] ∧
       rowWord t s.cur 63 = na) ∧
     Runs (.jr c ra) s (fun t => OnlyRows s t ∧ ChainDone s t (readReg s ra) []) ∧
     (rd.win ≠ 3 → Runs (.jlr c rd ra) s fun t => OnlyRows s t ∧ ChainDone s t (readReg s ra) (resultWords rd) ∧
       (isG0 rd = false → rowWord t s.cur (regIndex rd) = na)) ∧
     (rd.win ≠ 3 → isG0 rd = false → Runs (.dbnz c rd o14) s fun t => OnlyRows s t ∧
       rowWord t s.cur (regIndex rd) = dec ∧
       ChainDone s t (if dec ≠ 0 then ia + BitVec.ofInt 64 (4 * o14.toInt) else na) [regIndex rd]) ∧
     (isG0 rd = true → Runs (.dbnz c rd o14) s fun t => OnlyRows s t ∧ ChainDone s t na [])) ∧
  (∀ (c : Ctl) (s : State), guardPasses c s = true →
     Runs (.nop c) s (fun t => OnlyRows s t ∧ ChainDone s t (nextPc c s) []) ∧
     ∀ k, slotOf s s.cur = some k → Runs (.ifence c) s fun t => ChainDone s t (nextPc c s) [] ∧
       (∀ a, staleAt t (agentOf (curExec s)) (curRow s) a = []) ∧ (slot t (curExec s) k).stall = 3 ∧ SameMemory s t ∧ SamePads s t)

/-- R46 and R203: a scalar result through window 3 faults ROWWORD_RO (cause 0x06) with the instruction address, and no
word but d0, d5 and d6 changes. The model's own choices in it: log 54. -/
def Obligations.WindowThreeFaults : Prop :=
  ∀ (c : Ctl) (rd ra rb : Reg) (imm : Int) (o14 : BitVec 14) (m : FMod) (s : State), guardPasses c s = true →
    rd.win = 3 →
    (∀ op ∈ [Instr.add, .sub, .and, .or, .xor, .andn, .orn, .nor, .shl, .shr, .sra, .rol, .min, .max, .minz, .maxz, .mul,
      .mulh, .mulhz, .div, .divz, .rem, .remz, .bfx, .bfxz, .bfi], Faults (op c rd ra rb) s (faultOf 6 0 0) (pc s)) ∧
    (∀ op ∈ [Instr.abs, .neg, .clz, .ctz, .popc, .bswap, .sxb, .sxh, .sxw, .zxb, .zxh, .zxw, .jlr],
      Faults (op c rd ra) s (faultOf 6 0 0) (pc s)) ∧
    (∀ op ∈ [Instr.addi, .andi, .ori, .xori, .shli, .shri, .srai, .muli],
      Faults (op c rd ra imm) s (faultOf 6 0 0) (pc s)) ∧
    (∀ op ∈ [Instr.movi, .adr], Faults (op c rd imm) s (faultOf 6 0 0) (pc s)) ∧
    Faults (.dbnz c rd o14) s (faultOf 6 0 0) (pc s) ∧
    (∀ op ∈ [Instr.fadd, .fsub, .fmul, .fdiv, .fmin, .fmax, .fcpys, .fma, .fms, .fnma, .fnms],
      Faults (op c rd ra rb m) s (faultOf 6 0 0) (pc s)) ∧
    ∀ op ∈ [Instr.fsqrt, .fabs, .fneg, .fcvt, .fcvti, .fcvtf], Faults (op c rd ra m) s (faultOf 6 0 0) (pc s)

/-! ### Floating point -/

/-- R257, R259: each arithmetic and fused instruction reads its sources in sfmt, the fused ones their addend from rd in
dfmt, forms one exact result and rounds it once into dfmt; fdiv and fsqrt hold the row for 24 cycles (R253). R260 to R263:
the sign operations on a code, the class mask, the floating compare and the conversions. For a binary format fabs, fneg
and fcpys change the sign bit and no other; a tapered 0 or NR is copied. -/
def Obligations.FloatResults : Prop :=
  (∀ m : FMod,
     let v := fmtValue m.sfmt
     let r := roundWord m.dfmt m.rnd
     let fused := fun (op : Ctl → Reg → Reg → Reg → FMod → Instr) (f : Machine.Num → Machine.Num → Machine.Num) =>
       ∀ c rd ra rb, Gives (op c rd ra rb m) c rd fun s =>
         r (f (mulNum (v (readReg s ra)) (v (readReg s rb))) (fmtValue m.dfmt (readReg s rd)))
     Gives2 (Instr.fadd · · · · m) (fun a b => r (addNum m.rnd (v a) (v b))) ∧
     Gives2 (Instr.fsub · · · · m) (fun a b => r (addNum m.rnd (v a) (negNum (v b)))) ∧
     Gives2 (Instr.fmul · · · · m) (fun a b => r (mulNum (v a) (v b))) ∧
     GivesSlowly2 (Instr.fdiv · · · · m) 24 (fun a b => r (divNum (v a) (v b))) ∧
     (∀ c rd ra, GivesSlowly (.fsqrt c rd ra m) c rd 24 fun s => r (sqrtNum (v (readReg s ra)))) ∧
     Gives2 (Instr.fmin · · · · m) (fun a b => r (minNum (v a) (v b))) ∧
     Gives2 (Instr.fmax · · · · m) (fun a b => r (maxNum (v a) (v b))) ∧
     fused .fma (addNum m.rnd) ∧
     fused .fms (fun p d => addNum m.rnd p (negNum d)) ∧
     fused .fnma (fun p d => addNum m.rnd (negNum p) d) ∧
     fused .fnms (fun p d => addNum m.rnd (negNum p) (negNum d))) ∧
  (∀ m : FMod,
     let top := 2 ^ (fmtWidth m.sfmt - 1)
     let x := fun (a : Word) => a.toNat % 2 ^ fmtWidth m.sfmt
     let signed := fun (neg : Bool) (a : Word) => fmtWord m.sfmt
       (if isTapered m.sfmt && x a % top == 0 then x a else x a % top + (if neg then top else 0))
     let converted := fun (a : Word) => roundWord m.dfmt m.rnd (fmtValue m.sfmt a)
     Gives1 (Instr.fabs · · · m) (signed false) ∧
     Gives1 (Instr.fneg · · · m) (fun a => signed (decide (x a < top)) a) ∧
     Gives2 (Instr.fcpys · · · · m) (fun a b => signed (b.getLsbD (fmtWidth m.sfmt - 1)) a) ∧
     Gives1 (Instr.fcvt · · · m) converted ∧
     Gives1 (Instr.fcvti · · · m) converted ∧
     Gives1 (Instr.fcvtf · · · m) converted ∧
     (∀ f, Gives1 (Instr.fclass · · · f) fun a => w64 (classMask f (a.toNat % 2 ^ fmtWidth f))) ∧
     ∀ c pd cond ra rb f, GivesPred (.fcmp c pd cond ra rb f) c pd
       fun s => fcmpHolds cond (fmtValue f (readReg s ra)) (fmtValue f (readReg s rb)))

/-! ### Encoding and steps -/

/-- R34 to R58: words that the encoding tables of the spec give bit by bit decode to the instructions they stand for; a
part of a chain decides nothing; a base word of major opcode 0x3F, or with a guard number but no guard, is illegal. R9 to
R21, R455: the verbose listing of R24 is translated to the words that R58 derives from the encoding; a pseudo-instruction,
a line without one of its four parts, an offset missing or written where there is none, a prefix value past its limit, and
.launch are refused. The model's own choices in it: log 26, 80. -/
def Obligations.PrintedWordsDecode : Prop :=
  let u : Ctl := ⟨false, none, 0⟩
  let g := fun n : Nat => (⟨0, BitVec.ofNat 5 n⟩ : Reg)
  decode [0x00084431] = .ok (.sub u (g 1) (g 2) (g 3)) 1 ∧
  decode [0x00114C73] = .ok (.div u (g 5) (g 6) (g 7)) 1 ∧
  decode [0x00109209] = .ok (.clz u (g 2) (g 9)) 1 ∧
  decode [0x00190A62] = .ok (.bfi u (g 4) (g 5) (g 6)) 1 ∧
  decode [0x0040C7FF] = .ok (.addi u (g 3) (g 3) (-1)) 1 ∧
  decode [0x44410801] = .ok (.addi ⟨false, some ⟨1, false⟩, 0⟩ (g 4) (g 4) 1) 1 ∧
  decode [0x00814064] = .ok (.movi u (g 5) 100) 1 ∧
  decode [0x002190A4] = .ok (.cmp u 3 .lt (g 4) (g 5)) 1 ∧
  decode [0x00290CBB] = .ok (.cmpi u 2 .lt (g 3) (-5)) 1 ∧
  decode [0x00320900] = .ok (.pand u 4 1 2) 1 ∧
  decode [0x0097FFFD] = .ok (.br u (-3)) 1 ∧
  decode [0x00A93FFC] = .ok (.dbnz u (g 4) (-4)) 1 ∧
  decode [0x000140C6] = .ok (.sget u (g 5) 0x00C) 1 ∧
  decode [0x00C14380] = .ok (.ld u (g 5) (g 1) .d64 0 ⟨false, .norm, .plain, .row⟩) 1 ∧
  decode [0x80000001] = .ok (.nop ⟨true, none, 0⟩) 1 ∧
  decode [0x01900401] = .ok (.arrive u 2) 1 ∧
  decode [0x01F00012] = .short ∧
  decode [0x01F00012, 0x00E80000] = .ok (.fence ⟨false, none, 1⟩ ⟨false, .norm, .rel, .die⟩) 2 ∧
  decode [0x01F80000] = .illegal 0 ∧
  decode [0x04000000] = .illegal 0 ∧
  (let text := fun (ls : List String) => ls.foldl (fun a l => asmLine a l.toList) (asmStart 0 [] [0, 0, 0, 0])
   let ws : List W32 := [0x00004006, 0x01E00004, 0x0080A345, 0x80C0C302, 0x01F0000A, 0x00C14C40, 0x01E80021, 0x48098640, 0x4AE10220,
     0x00A03E00]
   let a := text ["start:", "        sw0 if:all sget g1, ROWID", "        px.i 0x4", "        sw0 if:all movi g2, 0x12345",
     "        sw1 if:all ld.s32.plain.row.norm g3, [g1+8]", "        px.o 0, 0x000A",
     "        sw0 if:all ld.z8.acq.die.norm g5, [g6+0]", "        px.r 1, 0, 2", "        sw0 if:+p2 add d70, g3, d100",
     "        sw0 if:-p2 amo.add.w64.plain.dev.norm g4, [g1], g2", "        sw0 if:all jr g31 ; ret"]
   a.bad = false ∧ a.text.rev.reverse = ws.flatMap wordBytes ∧ a.syms = [("start", 0)] ∧
   ∀ l ∈ ["sw0 if:all li g2, 5", "sw0 if:all ret", "sw0 sget g1, ROWID", "if:all sget g1, ROWID",
     "sw0 if:all ld.z8.acq.die g5, [g6+0]", "sw0 if:all ld.z8.acq.die.norm g5, [g6]",
     "sw0 if:all amo.add.w64.plain.dev.norm g4, [g1+0], g2", "px.i 0x80000", ".launch main"], (text [l]).bad = true)

/-- Every instruction of the opcode table that has an encoding, with its operands, guard and prefixes at any values that
its encoding admits, has words, and those words decode to exactly it: no bit of an encoding is dropped. A part of the
words decides nothing. -/
def Obligations.DecodeOfEncode : Prop :=
  ∀ (i : Instr) (u : Uses), i.uses = some u → i.wellFormed = true →
    ∃ ws, encode i = some ws ∧ decode ws = .ok i ws.length ∧ ∀ n, n < ws.length → decode (ws.take n) = .short

/-- A step runs the decoded instruction (R44, R55, R336): when the words at the PC of a row can be fetched and decode to
an instruction, after none of them decided alone, the fetch gives that chain; a PC that is no multiple of 4 faults ALIGN.
When a cycle is given to an executor at which no event is due, and the first slot after the pointer that can use it,
number d after it, holds a row whose words are those of an instruction that neither stands at a switch marker nor names an
outstanding result, the step is exec of that instruction at the state in which the chain begins. There the row executes,
and, when nothing is due between the cycles of its words (R338 to R341), every row and memory are as before and the
chain's cycles have passed. The model's own choices in it: log 1, 20, 26, 89. -/
def Obligations.StepRunsDecoded : Prop :=
  let wordsAre := fun (s : State) (pr : Nat) (ws : List W32) (i : Instr) => (rowWord s pr 1).toNat % 4 = 0 ∧ 0 < ws.length ∧
    ws.length ≤ 5 ∧ (∀ n, n < ws.length → fetchWord s pr n = .inl (nth ws n 0)) ∧
    (∀ n, n < ws.length → decode (ws.take n) = .short) ∧ decode ws = .ok i ws.length
  (∀ (s : State) (pr : Nat) (ws : List W32) (i : Instr),
     (wordsAre s pr ws i → fetch s pr = .chain i ws.length) ∧
     ((rowWord s pr 1).toNat % 4 ≠ 0 → fetch s pr = .fault 0 cAlign 0 7)) ∧
  ∀ (s u : State) (e d pr n : Nat) (i : Instr),
    let k := ((exec' u e).rr + d) % 4
    let v := { u with waited := (slot u e k).wait }
    nextTurn s = (.cycle e, u) → dueEvent u e = none → 1 ≤ d → d ≤ 4 →
    (∀ j, 1 ≤ j → j < d → pickSlot u e (((exec' u e).rr + j) % 4) = none) → mayIssue u e k = some pr →
    (fetch v pr = .chain i n ∨ ∃ ws, wordsAre v pr ws i ∧ ws.length = n) →
    atMarker u pr i = false → interlocked u pr i = false →
    let b := beginChain u e k pr n
    let quiet := ∀ j, 1 ≤ j → j < n → betweenCycles ((fun x => passCycle x e)^[j] u) e k = none
    step s = exec i (seeBatches i b) ∧ b.cur = pr ∧ (exec' b e).rr = k ∧
      (∃ l, seeBatches i b = { b with stale := l }) ∧
      (quiet → b.waited = (slot u e k).wait ∧ b.rows = u.rows ∧ b.mem = u.mem ∧ b.spads = u.spads ∧
        (executorRuns u e = true → (exec' b e).cycle = (exec' u e).cycle + BitVec.ofNat 64 n))

/-- The other turns of a step: a message that is delivered leaves the agenda and runs as its device step; an event of the
outside world, of a timer or of a unit runs as its device step; in the last kind of turn only time passes. The model's own
choices in it: log 1, 17, 63, 64. -/
def Obligations.StepDeliversMessages : Prop :=
  (∀ m : Msg, ∃ i, StandsFor m i) ∧ ∀ (s u : State),
    (∀ n m i, nextTurn s = (.deliver n, u) → toDeliver u n = some m → StandsFor m i → step s = exec i (takeMsg u m)) ∧
    (∀ m i, nextTurn s = (.event m, u) → spontaneous u m = true → StandsFor m i → step s = exec i u) ∧
    (∀ e m i, nextTurn s = (.cycle e, u) → dueEvent u e = some m → StandsFor m i → step s = exec i u) ∧
    ∀ ns, nextTurn s = (.elapse ns, u) → step s = .next { u with time := u.time + ns }

/-- No instruction, no device step and no step of the machine ends a run: each answers a next state, in every state. The
model's own choices in it: log 1, 4. -/
def Obligations.EveryStepAnswers : Prop :=
  (∀ (i : Instr) (s : State), ∃ t, exec i s = .next t) ∧ ∀ s : State, ∃ t, step s = .next t

/-- The reset values that the spec's register tables give (R67, R69, R137, R138, R198, R210, R378, R389, R392, R405, R410,
R427, R439, R442, R443, R461): every partition, every hub-die register and every executor's CYCLE. The invariant of memory
holds at reset. The model's own choices in it: log 2, 3. -/
def Obligations.ResetState : Prop :=
  (let s := State.reset
   (∀ q, (part s q).pquant = 64 ∧ (part s q).pslots = 4 ∧ (part s q).pyield = 65536 ∧ (part s q).rsvBase = 0 ∧
     (part s q).fq.base = 0 ∧ (part s q).fq.head = 0 ∧ (part s q).fq.tail = 0 ∧ (part s q).mb.base = 0 ∧
     (part s q).therm = 0 ∧ (part s q).ptRoot = 0 ∧ (part s q).pdef0 = 0 ∧ (part s q).pdef1 = 0 ∧ (part s q).pmem = 0 ∧
     (part s q).pmemT = 0 ∧ (part s q).pcask = 0 ∧ (part s q).prow = 0 ∧ (part s q).psave = 0 ∧ (part s q).pbw = 0 ∧
     (part s q).en = false ∧ (part s q).trcCtl = 0 ∧ ∀ n, (lq s q n).cfg = 0 ∧ (lq s q n).head = (lq s q n).tail) ∧
   (∀ e, (exec' s e).cycle = 0) ∧ (∀ k, (keySlot s k).valid = false) ∧ s.hub.psel = 0 ∧ s.hub.gsEn = false ∧
   s.hub.hfq.base = 0 ∧ s.hub.hmb.base = 0 ∧ s.hub.preBusy = false ∧ s.hub.keyBusy = false ∧ s.time = 0) ∧
  (MemoryCanonical State.reset ∧ State.reset.mem = [])

/-- Every step keeps memory and every scratchpad in canonical form, from every state in which they are: an instruction, a
device step and a whole step. The model's own choices in it: log 3. -/
def Obligations.CanonicalKept : Prop :=
  (∀ (i : Instr) (s t : State), MemoryCanonical s → exec i s = .next t → MemoryCanonical t) ∧
  ∀ s t : State, MemoryCanonical s → step s = .next t → MemoryCanonical t

/-- Memory reads back what was written, and nothing else changes; a memory in canonical form stays so, and two such
memories that read alike are equal. R46, R190: g0 reads zero in every state, and a write to it changes nothing. A write to
any other register through windows 0 to 2 is read back there, and changes no other register. The model's own choices in
it: log 3. -/
def Obligations.StorageLaws : Prop :=
  ((∀ (m : Memory) (a b : Nat) (bs : List Byte), m.wf = true →
     (memStore m a bs).wf = true ∧
     memRead (memStore m a bs) b = if a ≤ b ∧ b < a + bs.length then nth bs (b - a) 0 else memRead m b) ∧
   (∀ m m' : Memory, m.wf = true → m'.wf = true → (∀ a, memRead m a = memRead m' a) → m = m') ∧
   ∀ n v : Nat, leNat (leBytes n v) = v % 256 ^ n) ∧
  (∀ (s : State) (r q : Reg) (v : Word),
     (isG0 r = true → readReg s r = 0 ∧ writeReg s r v = s) ∧
     (isG0 r = false → readReg (writeReg s r v) r = v) ∧
     (q ≠ r → readReg (writeReg s r v) q = readReg s q))

/-! ### System instructions -/

/-- R205, R39, R53, R55, R208, R403: ill whatever its guard, a reserved encoding and the fetch of a chain's word fault
with d1 at the chain; brk faults BRK with its own address, but where breakpoint capture is enabled its cluster halts.
R403, R404, R406: one message reports a fault, to the partition's fault queue for a user row and to the hypervisor's for a
supervisor row, with its header, d6, d5 and d1, when the ring is enabled and has room; the management executor halts
instead. An hcall goes to the hypervisor from either. Said of ill, of a chain that faults ALIGN at its fetch, and of
hcall. The model's own choices in it: log 55. -/
def Obligations.FaultsAndReports : Prop :=
  (∀ s : State,
     (∀ c, Faults (.ill c) s ⟨0x01, 0, c.len, 0, 7⟩ (pc s)) ∧
     (∀ w, Faults (.reservedEncoding w) s ⟨0x01, 0, w, 0, 7⟩ (pc s)) ∧
     (∀ w cause info lvl,
       Faults (.fetchFault w cause info lvl) s ⟨cause, info, 0, 1, lvl⟩ (pc s + BitVec.ofNat 64 (4 * w))) ∧
     ∀ c, guardPasses c s = true →
       (isCtl (curExec s) = true ∨ (cluster s (clusterOf (curExec s))).brkcap = false →
         Faults (.brk c) s ⟨0x0E, 0, 0, 0, 7⟩ (pc s)) ∧
       (isCtl (curExec s) = false → (cluster s (clusterOf (curExec s))).brkcap = true →
         Runs (.brk c) s fun t => t.rows = s.rows ∧ (cluster t (clusterOf (curExec s))).halted = true)) ∧
  (∀ s : State,
     let e := curExec s
     let head := fun cause => BitVec.ofNat 64
       (2 ^ 56 + cause * 2 ^ 48 + agentOf e * 2 ^ 40 + priv s * 2 ^ 38 + curPart s * 2 ^ 24 + (curRow s).lrow)
     let open_ := fun ring => bits (ringRegs s ring).base 0 4 ≠ 0 ∧
       ((ringRegs s ring).tail - (ringRegs s ring).head).toNat < 2 ^ bits (ringRegs s ring).base 0 4
     let told := fun (t : State) ring msg =>
       t.heldMsgs = s.heldMsgs ++ [⟨dieOf e, ring, msg⟩] ∧ Msg.ringMessageWrite ring (dieOf e) ∈ t.agenda
     let ring := if priv s = 0 then Ring.fault (curPart s) else Ring.hfault
     (e ≠ 544 → open_ ring →
       (∀ c, Runs (.ill c) s fun t => told t ring ⟨head 0x01, pc s, rowWord t s.cur 5, pc s⟩) ∧
       Runs (.fetchFault 0 0x03 0 7) s fun t => told t ring ⟨head 0x03, pc s, rowWord t s.cur 5, pc s⟩) ∧
     (e ≠ 544 → open_ Ring.hfault → ∀ c n, guardPasses c s = true → 1 ≤ priv s →
       Runs (.hcall c n) s fun t => told t Ring.hfault ⟨head 0x0D, pc s, rowWord t s.cur 5, nextPc c s⟩) ∧
     (e = 544 → ∀ c, Runs (.ill c) s fun t => Msg.managementHalt ∈ t.agenda))

/-- R368: trap reports its number with d1 past the call and d6 its address; hcall reports its number with bit 15 set.
R369: xret sets the privilege and jumps; the predicates and the rest of d2 but QCNT stay. -/
def Obligations.CallsAndReturns : Prop :=
  (∀ (c : Ctl) (n : BitVec 10) (s : State), guardPasses c s = true →
     Runs (.trap c n) s (fun t => CallIs c s t n.toNat) ∧
     (1 ≤ priv s → Runs (.hcall c n) s fun t => CallIs c s t (0x8000 + n.toNat))) ∧
  (∀ (c : Ctl) (ra rb : Reg) (s : State), guardPasses c s = true → 1 ≤ priv s →
     (readReg s rb).toNat ≤ priv s → (readReg s rb).toNat ≠ 3 →
     Runs (.xret c ra rb) s fun t => OnlyRows s t ∧ WordsKept s t [1, 2] ∧ rowWord t s.cur 1 = readReg s ra ∧
       priv t = (readReg s rb).toNat ∧
       ∀ b, b < 16 ∨ (18 ≤ b ∧ b < 24) ∨ 32 ≤ b → (rowWord t s.cur 2).getLsbD b = (rowWord s s.cur 2).getLsbD b)

/-- R210, R211, R213: what sget returns, and that nothing but its destination changes; a read of THERM clears the bits
that it returns. The numbers of a launch are those that the hub holds. The model's own choices in it: log 5. -/
def Obligations.SpecialRegisterReads : Prop :=
  ∀ (c : Ctl) (r : Reg) (s : State), guardPasses c s = true → r.win ≠ 3 →
    let e := curExec s
    let d3 := (rowWord s s.cur 3).toNat
    let d4 := (rowWord s s.cur 4).toNat
    let d11 := (rowWord s s.cur 11).toNat
    let p := part s (regPart s)
    let reads := fun (l : List (Nat × Nat)) => ∀ x ∈ l, Runs (.sget c r (BitVec.ofNat 10 x.1)) s fun t =>
      OnlyRows s t ∧ ResultIs c r s t (BitVec.ofNat 64 x.2)
    reads [(0x000, d3 % 2 ^ 24), (0x003, d3 / 2 ^ 24 % 2 ^ 16), (0x004, d4 % 2 ^ 15), (0x005, d4 / 2 ^ 15 % 2 ^ 16),
      (0x006, d4 / 2 ^ 31 % 2 ^ 16), (0x00B, d3 / 2 ^ 40 % 2 ^ 6), (0x00C, s.time), (0x00D, (exec' s e).cycle.toNat),
      (0x00E, if d11 % 2 = 1 then d11 / 2 ^ 12 % 2 ^ 9 else 0), (0x00F, (part s (curPart s)).spwin.toNat),
      (0x002, (part s (curPart s)).rsvBase.toNat + 1024 * (d3 % 2 ^ 24))] ∧
    (e ≠ 544 → reads [(0x001, if s.cur < 2 ^ 20 then s.cur else 2 ^ 20 + (s.cur - 2 ^ 20)), (0x009, e),
      (0x008, if e < 512 then e / 16 else 32 + (e - 512) / 16), (0x00A, if e < 512 then e / 128 else 4)]) ∧
    (∀ x, curLaunch s = some x → reads [(0x010, x.args.toNat),
      (0x007, x.n3 % 2 ^ 16 * 2 ^ 32 + x.n2 % 2 ^ 16 * 2 ^ 16 + x.n1 % 2 ^ 16)]) ∧
    (1 ≤ priv s → reads [(0x100, p.rsvBase.toNat), (0x101, p.pquant.toNat), (0x102, p.pslots.toNat),
      (0x103, p.pyield.toNat), (0x104, p.fq.base.toNat), (0x105, p.fq.head.toNat),
      (0x106, p.fq.drop.toNat * 2 ^ 32 + p.fq.tail.toNat)]) ∧
    (1 ≤ priv s → ∀ k, k < 8 → Runs (.sget c r (BitVec.ofNat 10 (0x107 + k))) s fun t =>
      ChainDone s t (nextPc c s) (resultWords r) ∧
      (isG0 r = false → ∀ b, b < 64 → (rowWord t s.cur (regIndex r)).getLsbD b =
        (p.therm.getLsbD (64 * k + b) && (clustersOf p).contains ((64 * k + b) / 16))) ∧
      ∀ b, b < 512 → (part t (regPart s)).therm.getLsbD b = (p.therm.getLsbD b && b / 64 != k)) ∧
    (priv s = 2 → reads [(0x200, s.hub.psel.toNat)])

/-- R210, R212, R405: sset writes its register, or nothing when the value lies outside the register's range; no other
register of any partition changes. -/
def Obligations.SpecialRegisterWrites : Prop :=
  ∀ (c : Ctl) (r : Reg) (s : State), guardPasses c s = true → 1 ≤ priv s →
    let q := regPart s
    let p := part s q
    let v := readReg s r
    let sets := fun (n : Nat) (p' : Part) => Runs (.sset c r (BitVec.ofNat 10 n)) s fun t =>
      ChainDone s t (nextPc c s) [] ∧ SameMemory s t ∧ SamePads s t ∧ t.hub = s.hub ∧
      ∀ k, part t k = if k = q then p' else part s k
    sets 0x100 { p with rsvBase := v } ∧
    sets 0x101 (if 1 ≤ v.toNat ∧ v.toNat ≤ 255 then { p with pquant := v } else p) ∧
    sets 0x102 (if 1 ≤ v.toNat ∧ v.toNat ≤ 4 then { p with pslots := v } else p) ∧
    sets 0x103 (if 1 ≤ v.toNat ∧ v.toNat < 2 ^ 32 then { p with pyield := v } else p) ∧
    sets 0x104 (if 12 < v.toNat % 16 then p else { p with fq := { p.fq with base := v &&& ~~~(0xFE0#64) } }) ∧
    sets 0x105 { p with fq := { p.fq with head := v.setWidth 32 } } ∧
    (priv s = 2 → Runs (.sset c r 0x200) s fun t => ChainDone s t (nextPc c s) [] ∧
      t.hub = { s.hub with psel := if v.toNat ≤ 31 then v else s.hub.psel } ∧ t.parts = s.parts)

/-- R58, R105, R212, R348, R369, R371: a privileged instruction at too low a privilege faults PRIV with the instruction
address and changes nothing but the words of the fault. -/
def Obligations.PrivilegeFaults : Prop :=
  ∀ (c : Ctl) (rd ra rb : Reg) (n : BitVec 10) (s : State), guardPasses c s = true →
    let stops := fun (i : Instr) (acc : Nat) => Faults i s ⟨0x02, 0, 0, acc, 7⟩ (pc s)
    (priv s = 0 → stops (.hcall c n) 0 ∧ stops (.xret c ra rb) 0 ∧ stops (.tlbinv c ra rb) 0 ∧
      stops (.rowctl c rd ra rb) 10 ∧ (0x100 ≤ n.toNat → stops (.sget c rd n) 0 ∧ stops (.sset c rd n) 0) ∧
      (MemReady s → isCtl (curExec s) = false → rd.win ≠ 3 → stops (.scrub c rd ra) 6)) ∧
    (priv s ≤ 1 → 0x200 ≤ n.toNat → stops (.sget c rd n) 0 ∧ stops (.sset c rd n) 0) ∧
    (1 ≤ priv s → priv s < (readReg s rb).toNat → stops (.xret c ra rb) 0) ∧
    (priv s = 1 → rd.win ≠ 3 → (readReg s ra).toNat / 2 ^ 24 % 64 ≠ 0 → (readReg s ra).toNat / 2 ^ 24 % 64 ≠ curPart s →
      stops (.rowctl c rd ra rb) 10)

/-- R370: tlbinv waits until its release is complete; then no buffer holds a leaf of the partition that the selector
names, leaves of other partitions stay, and no cluster cache of the partition holds an unregistered word of a line in the
range as valid: of a frame that a translation in it has named, or of any line when the selector names the whole partition.
The model's own choices in it: log 18, 83. -/
def Obligations.TranslationInvalidation : Prop :=
  ∀ (c : Ctl) (ra rb : Reg) (s : State), guardPasses c s = true → 1 ≤ priv s →
    (releaseMet s .dev (releaseSnap s) = true → Runs (.tlbinv c ra rb) s fun t =>
      ChainDone s t (nextPc c s) [] ∧ SameMemory s t ∧ SamePads s t ∧
      (∀ u x, x ∈ mapGet t.tlbs u [] ∨ x ∈ mapGet t.llbs u [] → x.part = curPart s →
        tlbRange (readReg s ra) (readReg s rb) x = false) ∧
      (∀ u x, x ∈ mapGet s.tlbs u [] → x.part ≠ curPart s → x ∈ mapGet t.tlbs u []) ∧
      ∀ cl line, (clustersOf (part s (curPart s))).contains cl = true → line < 2 ^ 40 →
        ((readReg s rb).toNat % 4 ≠ 0 ∨ (readReg s rb).toNat / 4 % 4 = 3 ∨ ∃ x ∈ s.mapped, x.part = curPart s ∧
          tlbRange (readReg s ra) (readReg s rb) x = true ∧ leafFrame x.leaf < 128 * line + 128 ∧
          128 * line < leafFrame x.leaf + pageSize x.lvl) →
        (cline t cl line).v &&& ~~~(cline t cl line).rg = 0) ∧
    (releaseMet s .dev (releaseSnap s) = false → ∀ k, slotOf s s.cur = some k →
      Runs (.tlbinv c ra rb) s fun t => WaitsAt s t k (.release .dev (releaseSnap s)))

/-- R371: rowctl returns all ones for a row that is not live; START at an IDLE row of a bank makes it READY at the
operand, and rd takes the target's d0 as it then stands. R372: mbox puts its message into the executor's buffer and
answers 0; a full buffer answers 1, a bad selector or the hypervisor's mailbox from a user row 2. The model's own choices
in it: log 41. -/
def Obligations.RowctlAndMbox : Prop :=
  (∀ (c : Ctl) (rd ra rb : Reg) (s : State), guardPasses c s = true → 1 ≤ priv s → rd.win ≠ 3 →
     let q := (readReg s ra).toNat
     let t0 : RowId := ⟨if priv s = 2 then q / 2 ^ 24 % 64 else curPart s, q % 2 ^ 24⟩
     (priv s = 2 ∨ q / 2 ^ 24 % 64 = 0 ∨ q / 2 ^ 24 % 64 = curPart s) →
     (2 ^ 30 ≤ q ∨ isLive s t0 = false → Runs (.rowctl c rd ra rb) s fun t =>
       OnlyRows s t ∧ ResultIs c rd s t (BitVec.allOnes 64)) ∧
     ∀ pr, q < 2 ^ 30 → isLive s t0 = true → t0 ≠ curRow s → locate s t0 = .bank pr → pr ≠ s.cur →
       rowState s pr = stIdle → inTransfer s (.bank pr) = false → accessesOpen s t0 = false →
       (readReg s rb).toNat / 2 ^ 56 = 0x01 → rowId s pr = t0 → bit (part s t0.part).trcCtl 4 = false →
       locate s (curRow s) = .bank s.cur → Runs (.rowctl c rd ra rb) s fun t => rowState t pr = stReady ∧
         rowWord t pr 1 = ((readReg s rb).setWidth 48).signExtend 64 ∧ rowWord t s.cur 1 = nextPc c s ∧ Counted s t ∧
         (isG0 rd = false → rowWord t s.cur (regIndex rd) =
           BitVec.ofNat 64 (2 ^ 48 + (readReg s rb).toNat % 2 ^ 48)) ∧ SameMemory s t ∧ SamePads s t) ∧
  (∀ (c : Ctl) (rd ra rb : Reg) (s : State), guardPasses c s = true → rd.win ≠ 3 →
     let sel := (readReg s rd).toNat
     let e := curExec s
     let good := sel = 0 ∨ (sel = 1 ∧ 1 ≤ priv s)
     (good → (exec' s e).outbox.length < 4 → Runs (.mbox c rd ra rb) s fun t => ResultIs c rd s t 0 ∧
       (exec' t e).outbox = (exec' s e).outbox ++ [⟨curRow s, priv s, sel, readReg s ra, readReg s rb⟩] ∧
       Msg.mboxDrain e ∈ t.agenda ∧ SameMemory s t ∧ SamePads s t) ∧
     (good → 4 ≤ (exec' s e).outbox.length → Runs (.mbox c rd ra rb) s fun t => OnlyRows s t ∧ ResultIs c rd s t 1) ∧
     (¬ good → Runs (.mbox c rd ra rb) s fun t => OnlyRows s t ∧ ResultIs c rd s t 2))

/-! ### Memory instructions -/

/-- R46, R179, R180, R181, R382: what stops a load, a store or an atomic before it has any effect, in order: a destination
in window 3, the alignment, a non-canonical address, the scratchpad window, and the page. The model's own choices in it:
log 54, 87. -/
def Obligations.MemoryFaults : Prop :=
  ∀ (c : Ctl) (rd ra rb : Reg) (ty : LdType) (sy : StType) (off : Int) (op : AmoOp) (m : MemMod) (s : State) (x : TlbEnt),
    guardPasses c s = true → MemReady s →
    let la := memAddr s ra (ldSize ty) off
    let sa := memAddr s ra (stSize sy) off
    let ld := Faults (.ld c rd ra ty off m) s
    let st := Faults (.st c rd ra sy off m) s
    let amo := Faults (.amo c rd ra rb op m) s
    let page := fun a pa => curExec s ≠ 544 ∧ canonical a = true ∧ inWindow s (curPart s) a = false ∧ lookup s a = .leaf x ∧
      leafPlace x (bits a 0 57) = .mem pa
    (rd.win = 3 → ld (faultOf 6 0 2) la ∧ amo (faultOf 6 0 4) (readReg s ra) ∧
      (isCtl (curExec s) = false → Faults (.ldl c rd ra ty off m) s (faultOf 6 0 2) la)) ∧
    (rd.win ≠ 3 → la.toNat % ldSize ty ≠ 0 → ld (faultOf 3 0 2) la) ∧
    (sa.toNat % stSize sy ≠ 0 → st (faultOf 3 0 3) sa) ∧
    (rd.win ≠ 3 → (readReg s ra).toNat % amoSize m ≠ 0 → amo (faultOf 3 0 4) (readReg s ra)) ∧
    (rd.win ≠ 3 → la.toNat % ldSize ty = 0 → curExec s ≠ 544 →
      (canonical la = false → ld (faultOf 4 0 2) la) ∧
      (canonical la = true → inWindow s (curPart s) la = true →
        reachable s (curPart s) (curExec s) (windowCluster s (curPart s) la) = false → ld (faultOf 5 8 2) la)) ∧
    (rd.win ≠ 3 → la.toNat % ldSize ty = 0 → ∀ pa, page la pa →
      (priv s = 0 → leafU x.leaf = false → ld (faultOf 5 1 2) la) ∧
      (1 ≤ priv s → leafR x.leaf = false → ld (faultOf 5 2 2) la) ∧
      (1 ≤ priv s → leafR x.leaf = true → keyValid s (part s (curPart s)) (leafKey x.leaf) = false → ld (faultOf 5 7 2) la)) ∧
    (sa.toNat % stSize sy = 0 → ∀ pa, page sa pa → 1 ≤ priv s →
      (leafW x.leaf = false → leafClass x.leaf < 2 → st (faultOf 5 3 3) sa) ∧
      (leafW x.leaf = true → leafClass x.leaf = clsSealed → st (faultOf 7 0 3) sa)) ∧
    (isCtl (curExec s) = true → Faults (.ldl c rd ra ty off m) s (faultOf 5 18 2) (pc s) ∧
      Faults (.stl c rd ra sy off m) s (faultOf 5 18 3) (pc s)) ∧
    (isCtl (curExec s) = false →
      (rd.win ≠ 3 → la.toNat % ldSize ty ≠ 0 → Faults (.ldl c rd ra ty off m) s (faultOf 3 0 2) la) ∧
      (rd.win ≠ 3 → la.toNat % ldSize ty = 0 → 2 ^ 23 ≤ la.toNat → Faults (.ldl c rd ra ty off m) s (faultOf 5 0 2) la) ∧
      (sa.toNat % stSize sy ≠ 0 → Faults (.stl c rd ra sy off m) s (faultOf 3 0 3) sa) ∧
      (sa.toNat % stSize sy = 0 → 2 ^ 23 ≤ sa.toNat → Faults (.stl c rd ra sy off m) s (faultOf 5 0 3) sa))

/-- R179, R174, R176, R166, R169, R202: ld of the row's own image is complete within the instruction; every other ld takes
the lowest free slot, with its destination and address, and its value is on its way: from the place itself, from the
cluster cache, or after a request to the home or for the line; R153: a load without allocation of a sealed page reads the
die's replica. No load changes a byte of memory. The model's own choices in it: log 5, 39, 40, 51, 70, 86. -/
def Obligations.LoadResults : Prop :=
  ∀ (c : Ctl) (rd ra : Reg) (ty : LdType) (off : Int) (m : MemMod) (s : State) (x : TlbEnt),
    guardPasses c s = true → MemReady s → rd.win ≠ 3 →
    let n := ldSize ty
    let a := memAddr s ra n off
    let v := extend (ldSigned ty) n
    let site := siteOf s ⟨true, false, 2, n == 8⟩ a
    let ld := Instr.ld c rd ra ty off m
    a.toNat % n = 0 →
    (∀ o, site = .at_ (.row (curRow s) o) x → WordReady s (o / 8) →
      Runs ld s fun t => ResultIs c rd s t (v (imageBytes s (.bank s.cur) o n)) ∧ SameBytes s t) ∧
    (∀ k pa, site = .at_ (.mem pa) x → LeaseReady s pa → earlierAccess s pa n = none →
      freeSlot s (.bank s.cur) = none → slotOf s s.cur = some k → Runs ld s fun t => WaitsAt s t k .slotFull) ∧
    (∀ k j, slotOf s s.cur = some k →
      (∀ pa, site = .at_ (.mem pa) x → LeaseReady s pa → earlierAccess s pa n = some j →
          Runs ld s fun t => WaitsAt s t k (.reply j)) ∧
      (∀ pa, site = .at_ (.reg pa) x → rereading s = some j → Runs ld s fun t => WaitsAt s t k (.reply j))) ∧
    ∀ i, freeSlot s (.bank s.cur) = some i →
      let runs := fun P => Runs ld s fun t => Issued (nextPc c s) s t i n (destOf rd) 0 1 a ∧ SameBytes s t ∧ P t
      (∀ r o, site = .at_ (.row r o) x → r ≠ curRow s → runs fun t => AccessSent s t i r o (.load n (ldSigned ty))) ∧
      (∀ cl o, site = .at_ (.spad cl o) x → routerRefuses s cl = false → Runs ld s fun t =>
        (spadError s = false → Issued (nextPc c s) s t i n (destOf rd) 0 1 a ∧ SameBytes s t ∧
          Replies s t i (v (leNat (spadBytes s cl o n)))) ∧
        (spadError s = true → FaultIs s t (faultOf 0x0A 2 2) a)) ∧
      (∀ pa, site = .at_ (.reg pa) x → rereading s = none → let u := (regRead s pa).1
        Runs ld s fun t => Issued (nextPc c u) u t i n (destOf rd) 0 1 a ∧ SameBytes u t ∧ Replies u t i (regRead s pa).2) ∧
      ∀ pa, site = .at_ (.mem pa) x → LeaseReady s pa → earlierAccess s pa n = none →
        let r := requestOf s (.read .fill) i a pa n (ldSigned ty) x m.hint []
        let cask := leafClass x.leaf
        (cask ≠ clsOpen → hits s r = true → runs fun t => Replies s t i (lineValue (cline s r.agent (lineOf pa)) r)) ∧
        let none' := (cline s r.agent (lineOf pa)).v &&& wordMask pa n = 0
        let frame := if cask = clsSealed then (rackLook s (dieOf r.exec) r.part pa).2 else none
        (cask = clsOpen ∨ (m.hint = .noal ∧ hits s r = false ∧ none') → frame = none → runs fun t =>
          ∃ q, Msg.lineRead q ∈ t.agenda ∧ RequestIs s t i q (.read .word) pa n) ∧
        let replica := fun u P => Runs ld s fun t =>
          Issued (nextPc c s) s t i n (destOf rd) 0 1 a ∧ t.mem = State.mem u ∧ SamePads s t ∧ P t
        (∀ f, m.hint = .noal → hits s r = false → none' → frame = some f → CohQuiet s r.part →
          let u := checkRange s r.part (f + pa % 128) n
          delivery u (f + pa % 128) r.key = 0 → replica u fun t => Replies s t i (v (leNat (homeBytes u (f + pa % 128) n)))) ∧
        (cask ≠ clsOpen → ¬ (m.hint = .noal ∧ none') → hits s r = false → missRoom s r.agent (lineOf pa) = true →
          let asked := fun t : State => ∃ y q, y ∈ t.misses ∧ y.agent = r.agent ∧ y.line = lineOf pa ∧ y.cleared = false ∧
            (false, q) ∈ y.ops ∧ RequestIs s t i q (.read .fill) pa n
          let new := missOf s r.agent (lineOf pa) = none
          (¬ new ∨ frame = none → runs fun t => asked t ∧ (new → ∃ q, Msg.lineRead q ∈ t.agenda ∧ q.op = .read .fill ∧
            q.pa = 128 * lineOf pa ∧ q.size = 128 ∧ q.agent = r.agent)) ∧
          ∀ f, new → frame = some f → CohQuiet s r.part → replica (checkRange s r.part (f / 128 * 128) 128) fun t => asked t ∧
            ∃ ws p k, Msg.lineFill r.agent (lineOf pa) ws p k ∈ t.agenda)

/-- R179, R176, R193, R167, R194, R202: where st stores, and that it stores nowhere else. A store of the row's own image
is complete within the instruction; every other st takes the lowest free slot: a scratchpad is written at once, a cluster
cache takes the bytes and registers the words, the hub die writes through, and another row is sent the store. The model's
own choices in it: log 39, 40, 51, 70, 71. -/
def Obligations.StoreResults : Prop :=
  ∀ (c : Ctl) (rd ra : Reg) (sy : StType) (off : Int) (m : MemMod) (s : State) (x : TlbEnt),
    guardPasses c s = true → MemReady s →
    let n := stSize sy
    let a := memAddr s ra n off
    let v := readReg s rd
    let data := leBytes n v.toNat
    let site := siteOf s ⟨false, true, 3, n == 8⟩ a
    let st := Instr.st c rd ra sy off m
    a.toNat % n = 0 →
    (∀ k sc p, site = .at_ p x → releaseOf m = some sc → releaseMet s sc (releaseSnap s) = false → slotOf s s.cur = some k →
      Runs st s fun t => WaitsAt s t k (.release sc (releaseSnap s))) ∧
    (ReleaseReady s (releaseOf m) →
      (∀ o, site = .at_ (.row (curRow s) o) x → WordReady s (o / 8) →
        let w := o / 8
        (w = 8 ∨ (32 < w ∧ w < 128) → (∀ j, j < 8 → slotState s (.bank s.cur) j ≠ 0 → slotKind s (.bank s.cur) j ≠ 0x0A) →
          Runs st s fun t => OnlyRows s t ∧ ChainDone s t (nextPc c s) [w] ∧
            rowWord t s.cur w = putBits (rowWord s s.cur w) (8 * (o % 8)) (8 * n) v.toNat) ∧
        (w = 32 → Runs st s fun t => OnlyRows s t ∧ ChainDone s t (nextPc c s) []) ∧
        (w = 10 → Runs st s fun t => OnlyRows s t ∧ ChainDone s t (nextPc c s) [10] ∧ rowWord t s.cur 10 =
          putBits (putBits (rowWord s s.cur 10) (8 * (o % 8)) (8 * n) v.toNat &&& 0xFFFF001FFFFF001F#64) 0 32
            (bits (rowWord s s.cur 10) 0 32)) ∧
        ((1 ≤ w ∧ w < 32 ∧ w ≠ 8 ∧ w ≠ 10) ∨ (w = 0 ∧ n ≠ 8) → Faults st s (faultOf 6 0 3) a) ∧
        (w = 0 → n = 8 → priv s = 0 → 0x10 ≤ v.toNat / 2 ^ 56 → v.toNat / 2 ^ 56 ≤ 0x14 → Faults st s (faultOf 2 0 3) a) ∧
        (w = 0 → n = 8 → (1 ≤ priv s ∨ v.toNat / 2 ^ 56 < 0x10 ∨ 0x14 < v.toNat / 2 ^ 56) →
          (v.toNat / 2 ^ 56 ≠ 0x10 ∨ tierBusy s (curPart s) = false →
            Runs st s fun t => t = applyCommand (advance c s) (curRow s) v) ∧
          ∀ k, v.toNat / 2 ^ 56 = 0x10 → tierBusy s (curPart s) = true → slotOf s s.cur = some k →
            Runs st s fun t => WaitsAt s t k .answer)) ∧
      (∀ r o cause, site = .at_ (.row r o) x → r ≠ curRow s → outsideStoreFault s n o v = some cause →
        Faults st s (faultOf cause 0 3) a) ∧
      ∀ i, freeSlot s (.bank s.cur) = some i →
        let runs := fun P => Runs st s fun t => Issued (nextPc c s) s t i n 0 1 2 a ∧ SameMemory s t ∧ P t
        (∀ r o, site = .at_ (.row r o) x → r ≠ curRow s → outsideStoreFault s n o v = none →
          runs fun t => SamePads s t ∧ AccessSent s t i r o (.store n v)) ∧
        (∀ cl o, site = .at_ (.spad cl o) x → routerRefuses s cl = false →
          runs fun t => (MemoryCanonical s → PadStored s t cl o data) ∧ Replies s t i 0) ∧
        (∀ pa, site = .at_ (.reg pa) x → rereading s = none → let u := regWrite s pa v
          Runs st s fun t => Issued (nextPc c u) u t i n 0 1 2 a ∧ SameBytes u t ∧ Replies u t i 0) ∧
        ∀ pa, site = .at_ (.mem pa) x → pa % n = 0 → LeaseReady s pa →
          let r := requestOf s .reg i a pa n false x m.hint data
          let through := writesThrough r.agent || isRemote s pa
          earlierAccess s pa n = none →
          (through = true → Runs st s fun t => ∃ q, Msg.writeThrough q ∈ t.agenda ∧ q.op = .write ∧ q.pa = pa ∧ q.size = n ∧
            q.row = curRow s ∧ q.slot = i ∧ q.data = data ∧
                (writesThrough r.agent = false ∨ watching s r.agent (lineOf pa) = false →
              Issued (nextPc c s) s t i n 0 1 2 a ∧ SameBytes s t ∧ RequestIs s t i q .write pa n)) ∧
          (through = false → needsFill s r = false → Runs st s fun t =>
            let y := cline t r.agent (lineOf pa)
            (watching s r.agent (lineOf pa) = false → Issued (nextPc c s) s t i n 0 1 2 a ∧ SameBytes s t) ∧
            lineRange y (pa % 128) n = data ∧ y.v &&& wordMask pa n = wordMask pa n ∧ y.rg &&& wordMask pa n = wordMask pa n ∧
            (wordMask pa n &&& ~~~(cline s r.agent (lineOf pa)).rg ≠ 0 → ∃ q, Msg.registration q ∈ t.agenda ∧
              q.pa = pa ∧ q.agent = r.agent ∧ q.mask &&& wordMask pa n = q.mask ∧ q.mask ≠ 0)) ∧
          (through = false → needsFill s r = true → missRoom s r.agent (lineOf pa) = true → runs fun t => SamePads s t ∧
            ∃ y q, y ∈ t.misses ∧ y.agent = r.agent ∧ y.line = lineOf pa ∧ (true, q) ∈ y.ops ∧ RequestIs s t i q .reg pa n ∧
              q.data = data))

/-- R181, R164: ldl and stl access the scratchpad of the row's cluster and are complete within the instruction. The
model's own choices in it: log 5. -/
def Obligations.ScratchpadResults : Prop :=
  ∀ (c : Ctl) (rd ra : Reg) (ty : LdType) (sy : StType) (off : Int) (m : MemMod) (s : State),
    guardPasses c s = true → MemReady s → isCtl (curExec s) = false →
    let cl := clusterOf (curExec s)
    let la := memAddr s ra (ldSize ty) off
    let sa := memAddr s ra (stSize sy) off
    (rd.win ≠ 3 → la.toNat % ldSize ty = 0 → la.toNat < 2 ^ 23 →
      Runs (.ldl c rd ra ty off m) s fun t =>
        (spadError s = false → SameBytes s t ∧
          ResultIs c rd s t (extend (ldSigned ty) (ldSize ty) (leNat (spadBytes s cl la.toNat (ldSize ty))))) ∧
        (spadError s = true → FaultIs s t (faultOf 0x0A 2 2) la)) ∧
    (sa.toNat % stSize sy = 0 → sa.toNat < 2 ^ 23 → ReleaseReady s (releaseOf m) →
      Runs (.stl c rd ra sy off m) s fun t => ChainDone s t (nextPc c s) [] ∧ SameMemory s t ∧
        (MemoryCanonical s → PadStored s t cl sa.toNat (leBytes (stSize sy) (readReg s rd).toNat)))

/-- R182 to R185: an atomic returns the old value, zero-extended, and writes the new one; cas only when its comparand
agrees. In the row's own image it is complete within the instruction; a scratchpad is changed at once; at row or cluster
scope the cluster cache is, when it has the words; else the home is sent the atomic. Row words below d32 and registers
admit none. The model's own choices in it: log 5, 39, 40, 70. -/
def Obligations.AtomicResults : Prop :=
  ∀ (c : Ctl) (rd ra rb : Reg) (op : AmoOp) (m : MemMod) (s : State) (x : TlbEnt),
    guardPasses c s = true → MemReady s → rd.win ≠ 3 → ReleaseReady s (releaseOf m) →
    let n := amoSize m
    let a := readReg s ra
    let b := (readReg s rb).toNat % 256 ^ n
    let cmp := (readReg s rd).toNat % 256 ^ n
    let site := siteOf s ⟨true, true, 4, false⟩ a
    let amo := Instr.amo c rd ra rb op m
    a.toNat % n = 0 →
    (∀ r o, site = .at_ (.row r o) x → o / 8 < 32 → Faults amo s (faultOf 6 0 4) a) ∧
    (∀ pa, curExec s ≠ 544 → canonical a = true → inWindow s (curPart s) a = false → lookup s a = .leaf x →
      leafPlace x (bits a 0 57) = .reg pa → 1 ≤ priv s → leafR x.leaf = true → leafW x.leaf = true →
      leafClass x.leaf = clsOrdinary → Faults amo s (faultOf 5 14 4) a) ∧
    (∀ o, site = .at_ (.row (curRow s) o) x → 32 ≤ o / 8 → o / 8 < 128 → WordReady s (o / 8) →
      (∀ j, j < 8 → slotState s (.bank s.cur) j ≠ 0 → slotKind s (.bank s.cur) j ≠ 0x0A) →
      let old := imageBytes s (.bank s.cur) o n
      Runs amo s fun t => SameBytes s t ∧ ChainDone s t (nextPc c s) (o / 8 :: resultWords rd) ∧
        (isG0 rd = false → rowWord t s.cur (regIndex rd) = BitVec.ofNat 64 (old % 256 ^ n)) ∧
        (isG0 rd = true ∨ regIndex rd ≠ o / 8 → rowWord t s.cur (o / 8) = if amoWrites op old cmp = true ∧ o / 8 ≠ 32 then
          putBits (rowWord s s.cur (o / 8)) (8 * (o % 8)) (8 * n) (amoNew op n old b) else rowWord s s.cur (o / 8))) ∧
    ∀ i, freeSlot s (.bank s.cur) = some i →
      let runs := fun P => Runs amo s fun t => Issued (nextPc c s) s t i n (destOf rd) 2 3 a ∧ SameMemory s t ∧ P t
      (∀ r o, site = .at_ (.row r o) x → r ≠ curRow s → 32 ≤ o / 8 →
        runs fun t => SamePads s t ∧ AccessSent s t i r o (.amo n op (readReg s rb) (readReg s rd))) ∧
      (∀ cl o, site = .at_ (.spad cl o) x → routerRefuses s cl = false →
        let old := leNat (spadBytes s cl o n)
        Runs amo s fun t =>
          (spadError s = false → Issued (nextPc c s) s t i n (destOf rd) 2 3 a ∧ SameMemory s t ∧
            Replies s t i (BitVec.ofNat 64 (old % 256 ^ n)) ∧
            (MemoryCanonical s → PadStored s t cl o (if amoWrites op old cmp then leBytes n (amoNew op n old b) else []))) ∧
          (spadError s = true → Issued (nextPc c s) s t i n (destOf rd) 2 3 a ∧ SameBytes s t ∧
              ∃ p, Msg.resultArrival p ∈ t.agenda ∧
            p.row = curRow s ∧ p.slot = i ∧ p.tag = slotTag t (.bank s.cur) i ∧ p.poison = 3)) ∧
      ∀ pa, site = .at_ (.mem pa) x → pa % n = 0 → LeaseReady s pa → earlierAccess s pa n = none →
        let r := requestOf s (.atomic op (readReg s rb) (readReg s rd)) i a pa n false x m.hint []
        let old := leNat (lineRange (cline s r.agent (lineOf pa)) (pa % 128) n)
        (atHome s pa m = true → runs fun t => SamePads s t ∧
          ∃ q, Msg.homeAtomic q ∈ t.agenda ∧ RequestIs s t i q (.atomic op (readReg s rb) (readReg s rd)) pa n) ∧
        (atHome s pa m = false → hits s r = true → Runs amo s fun t =>
          (watching s r.agent (lineOf pa) = false → Issued (nextPc c s) s t i n (destOf rd) 2 3 a ∧ SameBytes s t) ∧
          Replies s t i (BitVec.ofNat 64 (old % 256 ^ n)) ∧
          lineRange (cline t r.agent (lineOf pa)) (pa % 128) n =
            if amoWrites op old cmp then leBytes n (amoNew op n old b) else lineRange (cline s r.agent (lineOf pa)) (pa % 128) n) ∧
        (atHome s pa m = false → hits s r = false → missRoom s r.agent (lineOf pa) = true → runs fun t => SamePads s t ∧
          ∃ y q, y ∈ t.misses ∧ y.agent = r.agent ∧ y.line = lineOf pa ∧ (false, q) ∈ y.ops ∧
            RequestIs s t i q (.atomic op (readReg s rb) (readReg s rd)) pa n)

/-- R186, R172, R170, R187: a fence whose conditions hold makes its clearing, of unregistered words of lines whose ST is
0, and moves on; until then it waits. pf asks for the line, or does nothing; it never faults and writes nothing. The
model's own choices in it: log 17, 39, 70. -/
def Obligations.FenceAndPrefetch : Prop :=
  ∀ (c : Ctl) (ra : Reg) (m : MemMod) (s : State), guardPasses c s = true →
    (ReleaseReady s (releaseOf m) → (acquireOf m = none ∨ (loadOut s = none ∧ acquirePending s = false)) →
      Runs (.fence c m) s fun t => ChainDone s t (nextPc c s) [] ∧ SameBytes s t ∧
        (isCtl (curExec s) = false → acquireOf m = some .die ∨ acquireOf m = some .dev →
          ∀ line y, line < 2 ^ 40 → cline? t (agentOf (curExec s)) line = some y → y.st = false → y.v &&& ~~~y.rg = 0)) ∧
    (∀ k sc, releaseOf m = some sc → releaseMet s sc (releaseSnap s) = false → slotOf s s.cur = some k →
      Runs (.fence c m) s fun t => WaitsAt s t k (.release sc (releaseSnap s))) ∧
    (∀ k i, ReleaseReady s (releaseOf m) → acquireOf m ≠ none → loadOut s = some i → slotOf s s.cur = some k →
      Runs (.fence c m) s fun t => WaitsAt s t k (.reply i)) ∧
    (MemReady s →
      let a := readReg s ra
      let site := siteOf s ⟨true, false, 2, false⟩ a
      let runs := fun P => Runs (.pf c ra m) s fun t => ChainDone s t (nextPc c s) [] ∧ SameBytes s t ∧ P t
      (∀ f b, site = .stop f b → runs fun t => OnlyRows s t) ∧
      (∀ p x, site = .at_ p x → m.hint = .noal → runs fun t => OnlyRows s t) ∧
      (∀ p x, site = .at_ p x → m.hint ≠ .noal → (∀ pa, p ≠ .mem pa) → runs fun t => OnlyRows s t) ∧
      ∀ pa x, site = .at_ (.mem pa) x → m.hint ≠ .noal →
        let me := agentOf (curExec s)
        let full := (cline s me (lineOf pa)).v = BitVec.allOnes 32
        (m.scope ≠ .clu → runs fun t => ∃ q, Msg.lineRead q ∈ t.agenda ∧ q.op = .read .touch ∧ q.pa = pa) ∧
        (∀ k, m.scope = .clu → missRoom s me (lineOf pa) = false → slotOf s s.cur = some k → Runs (.pf c ra m) s fun t =>
          WaitsAt s t k .lines) ∧
        (m.scope = .clu → missRoom s me (lineOf pa) = true → leafClass x.leaf = clsOpen ∨ full ∨ ¬ LeaseReady s pa →
          runs fun t => OnlyRows s t) ∧
        (m.scope = .clu → missRoom s me (lineOf pa) = true → leafClass x.leaf ≠ clsOpen → ¬ full → LeaseReady s pa →
          let asked := fun t : State => ∃ y ∈ t.misses, y.agent = me ∧ y.line = lineOf pa
          let q := (requestOf s (.read .touch) 8 a pa 1 false x m.hint []).part
          let frame := if leafClass x.leaf = clsSealed ∧ missOf s me (lineOf pa) = none then (rackLook s (dieOf (curExec s)) q pa).2
            else none
          (frame = none → runs asked) ∧
          ∀ f, frame = some f → CohQuiet s q → Runs (.pf c ra m) s fun t => ChainDone s t (nextPc c s) [] ∧ SamePads s t ∧
            t.mem = (checkRange s q (f / 128 * 128) 128).mem ∧ asked t))

/-! ### Closing instructions, watches, domains and events -/

/-- R206, R207, R356: stop waits for its slots and commands, then frees the claim and is DONE, its launch counted; yield
makes the row READY at the tail of its queue, or FROZEN on a cluster that is asked for, once no sector is being read from
the tier (R72); park consumes a token or blocks. R353, R354: wait and await fault at what cannot be watched. A watch on
memory asks the home and blocks the row; one on the row's own image is compared at once: when it is met rd takes the value
and the row is READY, else it blocks. wait's chain lies behind it, await is executed again. The model's own choices in it:
log 38, 53, 99. -/
def Obligations.ClosingsAndWatches : Prop :=
  (∀ (c : Ctl) (s : State), guardPasses c s = true →
     let outs := bits (rowWord s s.cur 2) 18 6
     let claim := ownClaim s s.cur
     (∀ k, outs ≠ 0 → slotOf s s.cur = some k → Runs (.stop c) s fun t => WaitsAt s t k (.instruction .stop)) ∧
     (∀ k p x, outs = 0 → claim = some (p, x) → x.cmds ≠ [] → slotOf s s.cur = some k →
       Runs (.stop c) s fun t => WaitsAt s t k (.instruction (.vwait (bits (rowWord s s.cur 2) 32 32)))) ∧
     (outs = 0 → (∀ p x, claim = some (p, x) → x.cmds = []) → Runs (.stop c) s fun t =>
       RowLeaves s t stDone (nextPc c s) [11, 15] ∧ bits (rowWord t s.cur 15) 34 6 = 0 ∧ (rowWord t s.cur 11).getLsbD 0 = false ∧
       ∀ x, launchAt s (.bank s.cur) = some x → x.finished.length + 1 = x.rows →
         x.finished.contains ((curRow s).lrow - x.base) = false → Msg.launchComplete (curPart s) x.id ∈ t.agenda) ∧
     (preempted s s.cur = false → Runs (.yield c) s fun t => rowState t s.cur = stReady ∧ rowWord t s.cur 1 = nextPc c s ∧
       s.cur ∈ (exec' t (curExec s)).queue ∧ (claim = none → RowLeaves s t stReady (nextPc c s) [])) ∧
     (preempted s s.cur = true → locate s (curRow s) = .bank s.cur → rowState s s.cur = stOpen →
       (tierBusy s (curPart s) = false →
         Runs (.yield c) s fun t => rowState t s.cur = stFrozen ∧ rowWord t s.cur 1 = nextPc c s) ∧
       ∀ k, tierBusy s (curPart s) = true → slotOf s s.cur = some k → Runs (.yield c) s fun t => WaitsAt s t k .answer) ∧
     (bit (rowWord s s.cur 15) 40 = true → Runs (.park c) s fun t => rowState t s.cur = stReady ∧
       rowWord t s.cur 1 = nextPc c s ∧ bit (rowWord t s.cur 15) 40 = false ∧
           (claim = none → RowLeaves s t stReady (nextPc c s) [15])) ∧
     (bit (rowWord s s.cur 15) 40 = false → Runs (.park c) s fun t => rowState t s.cur = stBlocked ∧ BlockedFor s t 4 ∧
       rowWord t s.cur 1 = nextPc c s ∧ (claim = none → RowLeaves s t stBlocked (nextPc c s) [15]))) ∧
  (∀ (c : Ctl) (rd ra rb : Reg) (s : State) (x : TlbEnt), guardPasses c s = true → MemReady s →
     let a := readReg s ra
     let y := readReg s rb
     let site := siteOf s ⟨true, false, 7, true⟩ a
     let runs := fun (isAwait : Bool) => Runs (if isAwait then Instr.await c rd ra rb else Instr.wait c rd ra rb) s
     let faults := fun (f : FaultInfo) (b : Word) => ∀ isAwait, runs isAwait fun t => FaultIs s t f b
     (rd.win = 3 → faults (faultOf 6 0 7) (pc s)) ∧
     (rd.win ≠ 3 → a.toNat % 8 ≠ 0 → faults (faultOf 3 0 7) a) ∧
     (rd.win ≠ 3 → a.toNat % 8 = 0 → curExec s ≠ 544 → canonical a = true → inWindow s (curPart s) a = true →
       faults (faultOf 5 17 7) a) ∧
     (rd.win ≠ 3 → a.toNat % 8 = 0 → (curExec s = 544 ∨ canonical a = false ∨ inWindow s (curPart s) a = false) →
       (∀ r o, site = .at_ (.row r o) x → r ≠ curRow s → faults (faultOf 5 15 7) a) ∧
       (∀ pa, site = .at_ (.reg pa) x → faults (faultOf 5 14 7) a) ∧
       (∀ pa, site = .at_ (.mem pa) x → isRemote s pa = true → faults (faultOf 5 17 7) a) ∧
       ∀ i isAwait, freeSlot s (.bank s.cur) = some i →
         let target := if isAwait then pc s else nextPc c s
         let reason := if isAwait then 5 else 2
         let mark := a ||| (if isAwait then 2#64 else 1#64)
         (∀ o, site = .at_ (.row (curRow s) o) x →
           let v := BitVec.ofNat 64 (imageBytes s (.bank s.cur) o 8)
           let met := if isAwait then y.toNat ≤ v.toNat else v ≠ y
           (met → runs isAwait fun t => RowLeaves s t stReady (nextPc c s) (resultWords rd) ∧
             (isG0 rd = false → rowWord t s.cur (regIndex rd) = v)) ∧
           (¬ met → runs isAwait fun t => BlockedFor s t reason ∧ rowWord t s.cur 14 = mark ∧ SlotIs s t i (destOf rd) 0 0x0A a ∧
             RowLeaves s t stBlocked target ([14, 15, 16 + 2 * i, 17 + 2 * i] ++ if isAwait then [] else resultWords rd))) ∧
         ∀ pa, site = .at_ (.mem pa) x → isRemote s pa = false →
           (∀ j k, earlierAccess s pa 8 = some j → slotOf s s.cur = some k → runs isAwait fun t => WaitsAt s t k (.reply j)) ∧
           (earlierAccess s pa 8 = none → runs isAwait fun t => BlockedFor s t reason ∧
           rowWord t s.cur 14 = mark ∧ SlotIs s t i (destOf rd) 0 0x0A a ∧
           RowLeaves s t stBlocked target [14, 15, 16 + 2 * i, 17 + 2 * i] ∧
           (∃ q, Msg.lineRead q ∈ t.agenda ∧ RequestIs s t i q (.read (.watch isAwait y)) pa 8) ∧
           (curRow s, i, pa) ∈ (cluster t (agentOf (curExec s))).watches)))

/-- R334, R357, R358: an arrival needs membership and the release of its domain; arrive goes on, bar blocks until its
phase is complete, or, as the last arrival of its phase, goes straight to READY with the phase number while every other
arrival is completed; a bar with its flag finishes an arrival made before or returns all ones when none is open. R359: rdv
faults DOMAIN at a bad selector or count and at a level that the row is no member of; else it sends its arrival with the
meeting number and the count, and blocks. The model's own choices in it: log 54. -/
def Obligations.BarriersAndRendezvous : Prop :=
  (∀ (c : Ctl) (rd : Reg) (level k : BitVec 5) (s : State), guardPasses c s = true →
     let l := level.toNat
     let lw := BitVec.ofNat 64 l
     let sc := domainScope s l (.bank s.cur)
     let sent := fun (t : State) i => SlotIs s t i 0 3 9 lw ∧ ∃ a, Msg.barrierArrival a ∈ t.agenda ∧ a.row = curRow s ∧ a.slot = i ∧
       a.level = l ∧ a.tag = slotTag t (.bank s.cur) i
     (memberOf s s.cur l = false → Faults (.arrive c level) s (faultOf 0x10 l 9) lw ∧
       (rd.win ≠ 3 → Faults (.bar c rd level k) s (faultOf 0x10 l 9) lw)) ∧
     (rd.win = 3 → Faults (.bar c rd level k) s (faultOf 6 0 9) (pc s)) ∧
     (memberOf s s.cur l = true →
       (∀ i j, arrivalSlot s l = some i → slotOf s s.cur = some j →
         Runs (.arrive c level) s (fun t => WaitsAt s t j (.reply i)) ∧
         (rd.win ≠ 3 → k = 0 → Runs (.bar c rd level k) s fun t => WaitsAt s t j (.reply i))) ∧
       (∀ i, arrivalSlot s l = none → releaseMet s sc (releaseSnap s) = true → freeSlot s (.bank s.cur) = some i →
         Runs (.arrive c level) s (fun t => Issued (nextPc c s) s t i 0 0 3 9 lw ∧ sent t i ∧ SameBytes s t) ∧
         (rd.win ≠ 3 → k = 0 → ownClaim s s.cur = none →
           let u := openSlot s i 0 (destOf rd) 3 9 lw (blankOp s i)
           let a := arrivalOf u l i
           let d := domUnit u a.row.part a.launch a.level a.domain
           (lastArrival u a = false → Runs (.bar c rd level k) s fun t => BlockedFor s t 1 ∧
             SlotIs s t i (destOf rd) 3 9 lw ∧ RowLeaves s t stBlocked (nextPc c s) [15, 16 + 2 * i, 17 + 2 * i] ∧
             ∃ a, Msg.barrierArrival a ∈ t.agenda ∧ a.row = curRow s ∧ a.slot = i ∧ a.level = l) ∧
           (lastArrival u a = true → Runs (.bar c rd level k) s fun t => slotState t (.bank s.cur) i = 0 ∧
             RowLeaves s t stReady (nextPc c s) ([16 + 2 * i, 17 + 2 * i] ++ resultWords rd) ∧
             (isG0 rd = false → rowWord t s.cur (regIndex rd) = w64 d.phase.toNat) ∧
             ∀ b ∈ d.arrived, Msg.syncCompletion b.row b.slot b.tag (w64 d.phase.toNat) false ∈ t.agenda))) ∧
       (rd.win ≠ 3 → k ≠ 0 → ownClaim s s.cur = none →
         (∀ i, arrivalSlot s l = some i → Runs (.bar c rd level k) s fun t => BlockedFor s t 1 ∧
           slotDest t (.bank s.cur) i = destOf rd ∧ RowLeaves s t stBlocked (nextPc c s) [15, 17 + 2 * i]) ∧
         (arrivalSlot s l = none → Runs (.bar c rd level k) s fun t => RowLeaves s t stReady (nextPc c s) (resultWords rd) ∧
           (isG0 rd = false → rowWord t s.cur (regIndex rd) = BitVec.allOnes 64))))) ∧
  (∀ (c : Ctl) (rd ra rb : Reg) (s : State), guardPasses c s = true →
     let q := readReg s ra
     let n := (readReg s rb).toNat
     let l := q.toNat / 2 ^ 32 % 8
     let id := q.toNat % 2 ^ 16
     let good := q.toNat / 2 ^ 35 = 0 ∧ q.toNat / 2 ^ 16 % 2 ^ 16 = 0 ∧ 1 ≤ l ∧ l ≤ 4 ∧ 1 ≤ n ∧ n < 2 ^ 24
     (rd.win = 3 → Faults (.rdv c rd ra rb) s (faultOf 6 0 9) (pc s)) ∧
     (rd.win ≠ 3 → ¬ good → Faults (.rdv c rd ra rb) s (faultOf 0x10 0 9) q) ∧
     (rd.win ≠ 3 → good → memberOf s s.cur l = false → Faults (.rdv c rd ra rb) s (faultOf 0x10 l 9) q) ∧
     ∀ i, rd.win ≠ 3 → good → memberOf s s.cur l = true → releaseMet s (domainScope s l (.bank s.cur)) (releaseSnap s) = true →
       freeSlot s (.bank s.cur) = some i → Runs (.rdv c rd ra rb) s fun t => BlockedFor s t 3 ∧
         SlotIs s t i (destOf rd) 3 9 (BitVec.ofNat 64 (256 * id + 8 + l)) ∧
         RowLeaves s t stBlocked (nextPc c s) [15, 16 + 2 * i, 17 + 2 * i] ∧
         ∃ a, Msg.rdvArrival a id n ∈ t.agenda ∧ a.row = curRow s ∧ a.slot = i ∧ a.level = l ∧ a.tag = slotTag t (.bank s.cur) i)

/-- R362, R364 to R367: evmask exchanges the enables, those of reserved events reading zero, and clears bits; evret
returns from a handler, and faults outside one; evset sets user events of the row itself or of another row. -/
def Obligations.EventInstructions : Prop :=
  ∀ (c : Ctl) (rd ra rb : Reg) (s : State) (x : TlbEnt), guardPasses c s = true →
    let d9 := rowWord s s.cur 9
    let d10 := rowWord s s.cur 10
    let b := (readReg s rb).extractLsb' 16 16
    let site := siteOf s ⟨false, true, 10, true⟩ (readReg s ra)
    (rd.win = 3 → Faults (.evmask c rd ra rb) s (faultOf 6 0 10) (pc s)) ∧
    (rd.win ≠ 3 → Runs (.evmask c rd ra rb) s fun t => OnlyRows s t ∧ ChainDone s t (nextPc c s) (10 :: resultWords rd) ∧
      (isG0 rd = false → rowWord t s.cur (regIndex rd) = d10) ∧
      rowWord t s.cur 10 = ((readReg s ra <<< 32) ||| (d10 &&& ~~~(readReg s rb) &&& 0xFFFFFFFF#64)) &&& 0xFFFF001FFFFF001F#64) ∧
    (d9.getLsbD 17 = false → Faults (.evret c ra) s ⟨0x01, 0, c.len, 10, 7⟩ (pc s)) ∧
    (d9.getLsbD 17 = true → Runs (.evret c ra) s fun t => OnlyRows s t ∧ WordsKept s t [1, 2, 9] ∧
      rowWord t s.cur 1 = (if isG0 ra then (BitVec.ofNat 48 (d9.toNat / 2 ^ 18 * 4)).signExtend 64 else readReg s ra) ∧
      (∀ n, n < 16 → (rowWord t s.cur 2).getLsbD n = d9.getLsbD n) ∧
      ∀ n, (rowWord t s.cur 9).getLsbD n = (d9.getLsbD n && decide (n ≠ 17))) ∧
    ((readReg s ra).toNat % 1024 ≠ 0 → Faults (.evset c ra rb) s (faultOf 3 0 10) (readReg s ra)) ∧
    ((readReg s ra).toNat % 1024 = 0 →
      (curExec s = 544 ∨ canonical (readReg s ra) = false ∨ inWindow s (curPart s) (readReg s ra) = false) →
      (∀ o, site = .at_ (.row (curRow s) o) x → Runs (.evset c ra rb) s fun t => OnlyRows s t ∧
        ChainDone s t (nextPc c s) [10] ∧ rowWord t s.cur 10 = d10 ||| (b.setWidth 64 <<< 16)) ∧
      (∀ r o i, site = .at_ (.row r o) x → r ≠ curRow s → freeSlot s (.bank s.cur) = some i →
        Runs (.evset c ra rb) s fun t => Issued (nextPc c s) s t i 8 0 1 2 (readReg s ra + 80) ∧
          AccessSent s t i r 80 (.evset b) ∧ SameBytes s t) ∧
      ∀ pa, site = .at_ (.mem pa) x → Faults (.evset c ra rb) s (faultOf 5 15 10) (readReg s ra))

/-! ### Casks, copies, posts and forks -/

/-- R139 to R147, R438, R447: the checks of a cask instruction, and its request to the tail slice, at which the row waits
at the instruction: the PC moves only with the reply. An append to a sealed page faults, or runs the handler of its event.
The model's own choices in it: log 5. -/
def Obligations.CaskInstructions : Prop :=
  ∀ (c : Ctl) (rd ra rb : Reg) (m : CaskMod) (s : State) (x : TlbEnt), guardPasses c s = true → MemReady s → rd.win ≠ 3 →
    inWindow s (curPart s) (readReg s ra) = false →
    let base := readReg s ra &&& ~~~0xFFFF#64
    let pa := leafFrame x.leaf + base.toNat % pageSize x.lvl
    let stopsAll := fun f => Faults (.app c rd ra rb m) s f base ∧ Faults (.seal c rd ra) s f base ∧
        Faults (.tail c rd ra) s f base ∧
      (isCtl (curExec s) = false → Faults (.appl c rd ra rb m) s f base)
    lookup s base = .leaf x →
    (leafClass x.leaf < 2 → stopsAll (faultOf 5 (match leafPlace x 0 with | .reg _ => 14 | .host _ => 6 | _ => 16) 5)) ∧
    (2 ≤ leafClass x.leaf → isRemote s (leafFrame x.leaf) = true → stopsAll (faultOf 5 17 5)) ∧
    (leafClass x.leaf = clsSealed → isRemote s (leafFrame x.leaf) = false → permFault (priv s) .write x.leaf = none →
      let d10 := rowWord s s.cur 10
      let handled := d10.getLsbD 33 = true ∧ eventOpen s s.cur = true ∧ rowState s s.cur = stOpen
      let refused := fun (i : Instr) =>
        (¬ handled → Faults i s (faultOf 7 0 5) base) ∧
        (handled → Runs i s fun t => OnlyRows s t ∧ rowWord t s.cur 1 = rowWord s s.cur 8 ∧
          rowWord t s.cur 5 = faultWord (faultOf 7 0 5) false ∧ rowWord t s.cur 6 = base ∧ rowWord t s.cur 10 = d10 ||| 2#64 ∧
          rowWord t s.cur 9 = w64 (at_ (bits (rowWord s s.cur 1) 2 46) 18 + 2 ^ 17 + bits (rowWord s s.cur 2) 0 16) ∧
          WordsKept s t [1, 5, 6, 9, 10])
      refused (.app c rd ra rb m) ∧ (isCtl (curExec s) = false → refused (.appl c rd ra rb m))) ∧
    (isCtl (curExec s) = true → Faults (.appl c rd ra rb m) s (faultOf 5 18 5) (pc s)) ∧
    ∀ i, freeSlot s (.bank s.cur) = some i →
      let asked := fun (t : State) size cls kind (msg : Req → Msg) (op : HomeOp) data =>
        Issued (pc s) s t i size (destOf rd) cls kind base ∧ SameBytes s t ∧
        (∃ q, msg q ∈ t.agenda ∧ RequestIs s t i q op pa size ∧ q.data = data) ∧
        ∃ o ∈ t.ops, o.row = curRow s ∧ o.slot = i ∧ o.blocking = true ∧ o.na = nextPc c s
      let asks := fun (inst : Instr) size cls kind msg op data => Runs inst s fun t => asked t size cls kind msg op data
      let n := 8 / 2 ^ m.sz.toNat
      (ReleaseReady s (if m.rel then some .dev else none) → caskStop s x .write true none = none →
        asks (.app c rd ra rb m) n 2 5 .appendGrant (.append 0 true) (leBytes n (readReg s rb).toNat)) ∧
      (ReleaseReady s (if m.rel then some .dev else none) → caskStop s x .write true (some (readReg s rb)) = none →
        isCtl (curExec s) = false → Runs (.appl c rd ra rb m) s fun t =>
        (spadError s = false → asked t 64 2 6 .appendGrant (.append 0 true)
          (spadBytes s (clusterOf (curExec s)) (readReg s rb).toNat 64)) ∧
        (spadError s = true → FaultIs s t (faultOf 0x0A 2 5) (readReg s rb))) ∧
      (caskStop s x .write false none = none → asks (.seal c rd ra) 8 2 7 .sealArrival .reg []) ∧
      (caskStop s x .read false none = none → asks (.tail c rd ra) 8 0 8 .tailRequest (.read .word) [])

/-- R105, R110, R111, R112, R124, R126, R128: a data-moving command whose extents pass their checks returns the number of
the row's open batch, counts in d12, and enters the queue of its executor in its cluster's engine; one that moves nothing
is only counted. The row goes on. u is the state after the walks of its extents, whose entries the stack checks (R61).
R114 to R118: cpyc closes the open batch and returns its number; cpyw waits until at most n batches are outstanding and
returns how many are; cpyq returns the status word of a batch. The model's own choices in it: log 5, 24, 85, 97. -/
def Obligations.CopyInstructions : Prop :=
  (∀ (c : Ctl) (rd ra rb : Reg) (hint : Hint) (s : State), guardPasses c s = true → MemReady s → isCtl (curExec s) = false →
     rd.win ≠ 3 →
     let d12 := rowWord s s.cur 12
     let cl := clusterOf (curExec s)
     let issued := fun (u t : State) => rowWord t s.cur 1 = nextPc c s ∧ SameBytes u t ∧
       bits (rowWord t s.cur 12) 0 8 = min 255 (bits d12 0 8 + 1) ∧
       (isG0 rd = false → rowWord t s.cur (regIndex rd) = BitVec.ofNat 64 (batchNum d12))
     let moves := fun (i : Instr) (a : CopyArgs) =>
       let k : Asker := ⟨curPart s, dieOf (curExec s), priv s, some (unitOf (curExec s)), 6⟩
       let u := ((a.dst, dstSpan a) :: srcSpans a).foldl (fun s (v, n) => checkExtent s k v n) s
       let dst := chunks u k true a.dst (dstSpan a)
       let srcs := (srcSpans a).map fun (v, n) => chunks u k false v n
       let all := dst ++ srcs.flatten
       (emptyCopy a = true → Runs i s fun t => issued s t ∧ OnlyRows { s with batches := t.batches } t) ∧
       (emptyCopy a = false → queueRoom s cl (curExec s % 16) 32 = true → storesWait s = false →
         all.find? (fun x => match x with | .moving => true | .lease _ _ => true | _ => false) = none →
         firstStop (fun n _ => n) (all ++ overlapStop a k ++ shapeStop a k ++ scrubStop u a k (runsOf srcs.flatten)) = none →
         batchSlot s (.bank s.cur) (batchNum d12) ≠ none ∨ freeSlot s (.bank s.cur) ≠ none →
         Runs i s fun t => issued u t ∧ ∃ y, (cluster t cl).cmds = (cluster s cl).cmds ++ [y] ∧ y.kind = a.kind ∧ y.row = curRow s ∧
           y.queue = curExec s % 16 ∧ y.batch = batchNum d12 ∧ y.dst = runsOf dst ∧ Msg.copyStep cl y.id ∈ t.agenda)
     moves (.cpy c rd ra hint) (copyArgs s .cpy ra none hint) ∧
     moves (.cpyz c rd ra hint) (copyArgs s .cpyz ra none hint) ∧
     moves (.cpy2 c rd ra rb hint) (copyArgs s .cpy2 ra (some rb) hint) ∧
     moves (.cpyg c rd ra rb hint) (copyArgs s .cpyg ra (some rb) hint) ∧
     moves (.dclone c rd ra) (copyArgs s .dclone ra none .norm) ∧
     moves (.dzero c rd ra) (copyArgs s .dzero ra none .norm) ∧
     (1 ≤ priv s → moves (.scrub c rd ra) (copyArgs s .scrub ra none .norm))) ∧
  (∀ (c : Ctl) (rd ra : Reg) (n : BitVec 5) (ev : Bool) (s : State), guardPasses c s = true → MemReady s →
     isCtl (curExec s) = false → rd.win ≠ 3 →
     let d12 := rowWord s s.cur 12
     let u := closeBatch s ev
     (bits d12 8 8 < 32 → Runs (.cpyc c rd ev) s fun t => rowWord t s.cur 1 = nextPc c s ∧ SameBytes s t ∧
       batchNum (rowWord t s.cur 12) = (batchNum d12 + 1) % 2 ^ 16 ∧
       (isG0 rd = false → rowWord t s.cur (regIndex rd) = BitVec.ofNat 64 (batchNum d12))) ∧
     (∀ k, 32 ≤ bits d12 8 8 → slotOf s s.cur = some k → Runs (.cpyc c rd ev) s fun t => WaitsAt s t k .batchFull) ∧
     (hadWaited s (.cpyw n.toNat) = true → bits d12 8 8 ≤ n.toNat → badBatch s = none → Runs (.cpyw c rd n ev) s fun t =>
       OnlyRows { s with stale := t.stale } t ∧ ChainDone s t (nextPc c s) (15 :: resultWords rd) ∧
       (isG0 rd = false → rowWord t s.cur (regIndex rd) = BitVec.ofNat 64 (bits d12 8 8))) ∧
     (hadWaited s (.cpyw n.toNat) = false → bits d12 8 8 < 32 → badBatch u = none → bits (rowWord u s.cur 12) 8 8 ≤ n.toNat →
       Runs (.cpyw c rd n ev) s fun t => rowWord t s.cur 1 = nextPc c s ∧ SameBytes s t ∧
         (isG0 rd = false → rowWord t s.cur (regIndex rd) = BitVec.ofNat 64 (bits (rowWord u s.cur 12) 8 8))) ∧
     (∀ b, hadWaited s (.cpyw n.toNat) = true → bits d12 8 8 ≤ n.toNat → badBatch s = some b → Runs (.cpyw c rd n ev) s fun t =>
       FaultIs s t (batchFault b) (BitVec.ofNat 64 b.errAt)) ∧
     (∀ k, hadWaited s (.cpyw n.toNat) = true → n.toNat < bits d12 8 8 → slotOf s s.cur = some k →
       Runs (.cpyw c rd n ev) s fun t => WaitsAt s t k (.instruction (.cpyw n.toNat))) ∧
     Runs (.cpyq c rd ra) s fun t => OnlyRows { s with stale := t.stale } t ∧
         ResultIs c rd s t (batchStatus s ((readReg s ra).toNat % 2 ^ 16)))

/-- R350 to R352: post and fork check their record and need a release at device scope; post hands the record to its hub
and goes on, fork waits at the instruction for its reply, tqry returns the status that the hub of the row's die holds. The
model's own choices in it: log 56, 62. -/
def Obligations.PostForkQuery : Prop :=
  ∀ (c : Ctl) (rd ra : Reg) (s : State) (pa pb : Nat) (x y : TlbEnt), guardPasses c s = true → MemReady s →
    let a := readReg s ra
    (a.toNat % 64 ≠ 0 → Faults (.post c ra) s (faultOf 3 0 8) a ∧
      (rd.win ≠ 3 → Faults (.fork c rd ra) s (faultOf 3 0 8) a ∧ Faults (.tqry c rd ra) s (faultOf 3 0 8) a)) ∧
    (rd.win = 3 → Faults (.fork c rd ra) s (faultOf 6 0 8) (pc s) ∧ Faults (.tqry c rd ra) s (faultOf 6 0 8) (pc s)) ∧
    (a.toNat % 64 = 0 → recordSite s a = .at_ (.mem pa) x → LeaseReady s pa →
      (∀ i, releaseMet s .dev (releaseSnap s) = true → freeSlot s (.bank s.cur) = some i →
        (recordSite s (a + 64) = .at_ (.mem pb) y → LeaseReady s pb → Runs (.post c ra) s fun t =>
          Issued (nextPc c s) s t i 128 0 2 0x0B a ∧ SameBytes s t ∧
          ∃ p, Msg.postReceive p ∈ t.agenda ∧ p.row = curRow s ∧ p.slot = i ∧ p.tag = slotTag t (.bank s.cur) i ∧ p.va = a.toNat ∧
            p.priv = priv s ∧ p.runs = [⟨a.toNat, .mem pa, 64, leafKey x.leaf⟩, ⟨(a + 64).toNat, .mem pb, 64, leafKey y.leaf⟩]) ∧
        (rd.win ≠ 3 → Runs (.fork c rd ra) s fun t => Issued (pc s) s t i 64 (destOf rd) 2 0x0B a ∧ SameBytes s t ∧
          ∃ p, Msg.forkRequest p ∈ t.agenda ∧ p.row = curRow s ∧ p.slot = i ∧ p.tag = slotTag t (.bank s.cur) i ∧
            p.va = a.toNat ∧ p.priv = priv s ∧ p.runs = [⟨a.toNat, .mem pa, 64, leafKey x.leaf⟩])) ∧
      (rd.win ≠ 3 → recordSite s (a + 64) = .at_ (.mem pb) y → LeaseReady s pb → let h := hub s (hubOf s (curPart s) (curExec s))
        Runs (.tqry c rd ra) s fun t => OnlyRows s t ∧ ResultIs c rd s t
          (match (h.nodes ++ h.kept).find? fun n => n.part == curPart s && n.record == a.toNat with
            | some n => statusWord n
            | none => BitVec.allOnes 64)))

/-! ### Claims and vector commands -/

/-- R267 to R274: vclaim without a claim takes lanes or waits for them, with one it re-negotiates; vfree frees it once its
commands are complete; vwait waits for a sequence number; vstat returns the claim's record. R278: a vector command always
issues: it takes the next sequence number, which rd and VSEQ receive, and enters its row's claim with the PC and its two
operands; the first one makes the pool begin. Without a valid claim it faults LANES. Memory and scratchpads are as before.
R179, R271: a vector command waits for the clearing of an acquire; it, vclaim and vwait wait while commands of the claim
are outstanding in a pool that the row has left. The model's own choices in it: log 54. -/
def Obligations.VectorInstructions : Prop :=
  (∀ (c : Ctl) (rd ra : Reg) (s : State), guardPasses c s = true →
     let q := readReg s ra
     let d11 := rowWord s s.cur 11
     let p := poolOf (curExec s)
     let want := (q.toNat % 512 + 31) / 32 * 32
     let free := freeLanes (pool s p)
     let here := locate s (curRow s) = .bank s.cur
     let n := q.toNat % 2 ^ 32
     let value := fun (t : State) (v : Nat) => isG0 rd = false → rowWord t s.cur (regIndex rd) = BitVec.ofNat 64 v
     (isCtl (curExec s) = true ∨ badRequest q d11 = true → Faults (.vclaim c rd ra) s (faultOf 0x0C 0 0) (pc s)) ∧
     (rd.win = 3 → (isCtl (curExec s) = false → badRequest q d11 = false → Faults (.vclaim c rd ra) s (faultOf 6 0 0) (pc s)) ∧
       Faults (.vfree c rd) s (faultOf 6 0 0) (pc s) ∧ Faults (.vwait c rd ra) s (faultOf 6 0 0) (pc s) ∧
       Faults (.vstat c rd ra) s (faultOf 6 0 0) (pc s)) ∧
     (rd.win ≠ 3 →
       (isCtl (curExec s) = false → badRequest q d11 = false → d11Valid d11 = false → canGrant (pool s p) = true →
           here → NoWatch s →
         Runs (.vclaim c rd ra) s fun t => let w := rowWord t s.cur 11
           ChainDone s t (nextPc c s) ([11, 15] ++ resultWords rd) ∧ SameBytes s t ∧ d11Valid w = true ∧ d11Recl w = false ∧
           d11Pool w = p ∧ d11Want w = want ∧ d11Lanes w = min want (free / 32 * 32) ∧ d11Marea w = q.toNat / 2 ^ 16 % 128 ∧
           value t (d11Lanes w)) ∧
       (∀ k, isCtl (curExec s) = false → badRequest q d11 = false → d11Valid d11 = false → canGrant (pool s p) = false →
         slotOf s s.cur = some k → Runs (.vclaim c rd ra) s fun t => (slot t (curExec s) k).wait = .instruction .vclaim ∧
           ((pool s p).waiting.any (fun w => w.1 == curRow s) = false →
               (curRow s, want, q.toNat / 2 ^ 16 % 128) ∈ (pool t p).waiting)) ∧
       (∀ p' x, isCtl (curExec s) = false → badRequest q d11 = false → ownClaim s s.cur = some (p', x) → stranded s s.cur = false →
         x.row = curRow s → here → NoWatch s →
         Runs (.vclaim c rd ra) s fun t => ChainDone s t (nextPc c s) ([11, 15] ++ resultWords rd) ∧ SameBytes s t ∧
           value t (d11Lanes (rowWord t s.cur 11))) ∧
       (∀ k, stranded s s.cur = true → slotOf s s.cur = some k →
         (isCtl (curExec s) = false → badRequest q d11 = false → Runs (.vclaim c rd ra) s fun t =>
           WaitsAt s t k (.instruction .vclaim)) ∧
         Runs (.vwait c rd ra) s fun t => WaitsAt s t k (.instruction (.vwait n))) ∧
       (d11Valid d11 = false →
         Runs (.vfree c rd) s (fun t => OnlyRows s t ∧ ResultIs c rd s t 0) ∧
         Runs (.vwait c rd ra) s fun t => OnlyRows s t ∧ ResultIs c rd s t (BitVec.ofNat 64 (bits (rowWord s s.cur 2) 32 32))) ∧
       (∀ p' x, ownClaim s s.cur = some (p', x) →
         (x.cmds = [] → Runs (.vfree c rd) s fun t => ChainDone s t (nextPc c s) ([11, 15] ++ resultWords rd) ∧ SameBytes s t ∧
           rowWord t s.cur 11 = 0 ∧ value t x.last ∧ claimIn t p' x.num = none) ∧
         (∀ k, x.cmds ≠ [] → slotOf s s.cur = some k → Runs (.vfree c rd) s fun t =>
           WaitsAt s t k (.instruction (.vwait (bits (rowWord s s.cur 2) 32 32)))) ∧
         (x.row = curRow s → here → NoWatch s → waitForMet s s.cur (.vwait n) = true → Runs (.vwait c rd ra) s fun t =>
           ChainDone s t (nextPc c s) ([11, 15] ++ resultWords rd) ∧ SameBytes s t ∧ value t x.last) ∧
         (∀ k, waitForMet s s.cur (.vwait n) = false → slotOf s s.cur = some k → Runs (.vwait c rd ra) s fun t =>
           WaitsAt s t k (.instruction (.vwait n))) ∧
         (q.toNat % 4 = 0 → Runs (.vstat c rd ra) s fun t => OnlyRows s t ∧ ResultIs c rd s t (BitVec.ofNat 64
           (x.last * 2 ^ 32 + x.cmds.length * 2 ^ 24 + (if x.parked.isSome then 2 ^ 23 else 0) + x.lanes))) ∧
         ∀ e, (x.ring.find? fun e => e.seq == q.toNat / 2 ^ 32) = some e →
           (q.toNat % 4 = 1 → Runs (.vstat c rd ra) s fun t => OnlyRows s t ∧
               ResultIs c rd s t (e.pc ||| BitVec.ofNat 64 e.state)) ∧
           (q.toNat % 4 = 2 → Runs (.vstat c rd ra) s fun t => OnlyRows s t ∧ ResultIs c rd s t e.x) ∧
           (q.toNat % 4 = 3 → Runs (.vstat c rd ra) s fun t => OnlyRows s t ∧ ResultIs c rd s t e.y)))) ∧
  (∀ (c : Ctl) (rd ra rb : Reg) (m : VMod) (s : State), ∀ op ∈ [Instr.vadd, .vsub, .vmul, .vmin, .vmax, .vdiv, .vand, .vor, .vxor,
       .vshl, .vshr, .vsra, .vabsd, .vfma, .vfms, .vneg, .vabs, .vsqrt, .vrsq, .vrcp, .vexp2, .vlog2, .vcvt, .vmov, .vfill, .vclamp,
       .viota, .vsel, .vredsum, .vredmax, .vredmin, .vscan, .vgat, .vsct, .vcmp, .vpack, .vcnt, .vfnld, .vfn, .vfnst],
     let i := op c rd ra rb m
     let d11 := rowWord s s.cur 11
     let seq := (bits (rowWord s s.cur 2) 32 32 + 1) % 2 ^ 32
     (d11Valid d11 = false → Faults i s (faultOf 0x0C 0 0) (pc s)) ∧
     (d11Valid d11 = true → rd.win = 3 → Faults i s (faultOf 6 0 0) (pc s)) ∧
     (∀ k, d11Valid d11 = true → rd.win ≠ 3 → slotOf s s.cur = some k →
       (acquirePending s = true → Runs i s fun t => WaitsAt s t k .acquire) ∧
       (acquirePending s = false → stranded s s.cur = true → Runs i s fun t => WaitsAt s t k .commands)) ∧
     ∀ p x, ownClaim s s.cur = some (p, x) → acquirePending s = false → stranded s s.cur = false → rd.win ≠ 3 →
       (∀ k, 32 ≤ x.cmds.length → x.lanes ≠ 0 → slotOf s s.cur = some k → Runs i s fun t => WaitsAt s t k .commands) ∧
       (x.cmds.length < 32 → x.lanes ≠ 0 → Runs i s fun t => SameBytes s t ∧ WordsKept s t ([1, 2] ++ resultWords rd) ∧
         rowWord t s.cur 1 = nextPc c s ∧ bits (rowWord t s.cur 2) 32 32 = seq ∧
         (isG0 rd = false → rowWord t s.cur (regIndex rd) = BitVec.ofNat 64 seq) ∧
         (∃ y, claimIn t p x.num = some y ∧ y.cmds = x.cmds ++ [⟨seq, i, pc s, readReg s ra, readReg s rb⟩]) ∧
         (x.cmds = [] → Msg.vectorExecute p x.num ∈ t.agenda)))

/-- Where stop, yield, park, wait, await, the claim instructions and the vector commands complete. R206: stop with no
result outstanding and no command of its claim outstanding ends DONE. R207: yield ends READY at the next chain, in the
queue of its bank. R356: park ends READY when a wake is pending, else BLOCKED. R354: wait and await on a word of the row's
own image whose condition holds give its value. R269, R272 to R274: vclaim with lanes free gives the lanes granted, vfree
with no command outstanding and vwait with its commands complete give the last completed number, vstat 0 the claim's
state. R278, R279, R287: a vector command gets its number and enters its claim; when the claim had no other, the pool's
next visit runs it, and the scratchpad then holds what the lane unit leaves. R250: where blocks that others write are not
ordered before it, it may have read words of different writes. The model's own choices in it: log 22, 38, 54, 103. -/
def Obligations.ClosingsClaimsAndCommandsComplete : Prop :=
  (∀ (c : Ctl) (s : State), guardPasses c s = true →
     (bits (rowWord s s.cur 2) 18 6 = 0 → (∀ p x, ownClaim s s.cur = some (p, x) → x.cmds = []) →
       Runs (.stop c) s fun t => RowLeaves s t stDone (nextPc c s) [11, 15]) ∧
     (preempted s s.cur = false → Runs (.yield c) s fun t => rowState t s.cur = stReady ∧ rowWord t s.cur 1 = nextPc c s ∧
       s.cur ∈ (exec' t (curExec s)).queue) ∧
     Runs (.park c) s fun t => rowWord t s.cur 1 = nextPc c s ∧
       rowState t s.cur = if bit (rowWord s s.cur 15) 40 then stReady else stBlocked) ∧
  (∀ (c : Ctl) (rd ra rb : Reg) (s : State) (x : TlbEnt) (o i : Nat), guardPasses c s = true → MemReady s → rd.win ≠ 3 →
     let a := readReg s ra
     let y := readReg s rb
     let v := BitVec.ofNat 64 (imageBytes s (.bank s.cur) o 8)
     let gives := fun (t : State) => RowLeaves s t stReady (nextPc c s) (resultWords rd) ∧
       (isG0 rd = false → rowWord t s.cur (regIndex rd) = v)
     a.toNat % 8 = 0 → (curExec s = 544 ∨ canonical a = false ∨ inWindow s (curPart s) a = false) →
     siteOf s ⟨true, false, 7, true⟩ a = .at_ (.row (curRow s) o) x → freeSlot s (.bank s.cur) = some i →
     (v ≠ y → Runs (.wait c rd ra rb) s gives) ∧ (y.toNat ≤ v.toNat → Runs (.await c rd ra rb) s gives)) ∧
  (∀ (c : Ctl) (rd ra : Reg) (s : State), guardPasses c s = true → rd.win ≠ 3 →
     let q := readReg s ra
     let d11 := rowWord s s.cur 11
     let gives := fun (t : State) (v : Nat) => ChainDone s t (nextPc c s) ([11, 15] ++ resultWords rd) ∧ SameBytes s t ∧
       (isG0 rd = false → rowWord t s.cur (regIndex rd) = BitVec.ofNat 64 v)
     (isCtl (curExec s) = false → badRequest q d11 = false → d11Valid d11 = false → canGrant (pool s (poolOf (curExec s))) = true →
       locate s (curRow s) = .bank s.cur → NoWatch s → Runs (.vclaim c rd ra) s fun t =>
         d11Valid (rowWord t s.cur 11) = true ∧ gives t (d11Lanes (rowWord t s.cur 11))) ∧
     ∀ p x, ownClaim s s.cur = some (p, x) →
       (x.cmds = [] → Runs (.vfree c rd) s fun t => rowWord t s.cur 11 = 0 ∧ gives t x.last) ∧
       (x.row = curRow s → locate s (curRow s) = .bank s.cur → NoWatch s → stranded s s.cur = false →
         waitForMet s s.cur (.vwait (q.toNat % 2 ^ 32)) = true → Runs (.vwait c rd ra) s (gives · x.last)) ∧
       (q.toNat % 4 = 0 → Runs (.vstat c rd ra) s (gives ·
         (x.last * 2 ^ 32 + x.cmds.length * 2 ^ 24 + (if x.parked.isSome then 2 ^ 23 else 0) + x.lanes)))) ∧
  ∀ (c : Ctl) (rd ra rb : Reg) (m : VMod) (s : State) (p : Nat) (x : Claim), ∀ f ∈ [Instr.vadd, .vsub, .vmul, .vmin, .vmax, .vdiv,
      .vand, .vor, .vxor, .vshl, .vshr, .vsra, .vabsd, .vfma, .vfms, .vneg, .vabs, .vsqrt, .vrsq, .vrcp, .vexp2,
          .vlog2, .vcvt, .vmov,
      .vfill, .vclamp, .viota, .vsel, .vredsum, .vredmax, .vredmin, .vscan, .vgat, .vsct, .vcmp, .vpack, .vcnt,
          .vfnld, .vfn, .vfnst],
    ownClaim s s.cur = some (p, x) → acquirePending s = false → stranded s s.cur = false → rd.win ≠ 3 → x.lanes ≠ 0 →
    x.cmds.length < 32 →
    let seq := (bits (rowWord s s.cur 2) 32 32 + 1) % 2 ^ 32
    let pad := spad s (p / 2)
    Runs (f c rd ra rb m) s fun t => rowWord t s.cur 1 = nextPc c s ∧ bits (rowWord t s.cur 2) 32 32 = seq ∧
      (isG0 rd = false → rowWord t s.cur (regIndex rd) = BitVec.ofNat 64 seq) ∧
      ∀ op u m', x.cmds = [] → x.parked = none → vopOf (f c rd ra rb m) = some (op, u, m') →
        let k : VCtx := ⟨op, u.guard, m', x.marea, readReg s ra, readReg s rb, x.fn⟩
        let torn := tornFor s p x k
        let e := k.runCmd ⟨k.start, (seenPad t p torn).2⟩
        (op ≠ .fnld → op ≠ .fnst → e.stop = none → Runs (.vectorExecute p x.num) t fun v =>
          spad v (p / 2) = if torn = [] then (k.runCmd ⟨k.start, pad⟩).work.mem else afterSeen t p torn e.work.mem) ∧
        (op = .fnld → k.tableCheck = none → Runs (.vectorExecute p x.num) t fun v => spad v (p / 2) = pad) ∧
        (op = .fnst → k.tableCheck = none → Runs (.vectorExecute p x.num) t fun v =>
          spad v (p / 2) = memStore pad k.doff ((k.table.getD []).flatMap wordBytes))

/-! ### Device steps: rows -/

/-- R195 to R200, R334, R342: the nine commands of the control word at a row in a bank, and of unpark at a row in the
cellar. Where a command does not apply no row word changes. R197, R208: THAW lets a row BLOCKED in wait and a FAULTED row
run again from its d1. R72: FREEZE waits while a sector is read from the tier. R61, R199, R197: a row in the cellar comes
back into the lowest free bank row of its executor: FROZEN when FRZ is set, else in the state that it was parked in, with
the PC of its image. The model's own choices in it: log 31, 44, 75, 77, 78, 83, 88, 90. -/
def Obligations.RowCommands : Prop :=
  (∀ (s : State) (r : RowId) (op : BitVec 48) (pr : Nat), locate s r = .bank pr → rowId s pr = r → r.part ≠ 63 →
     let st := rowState s pr
     let blk := bits (rowWord s pr 15) 41 3
     let quiet := busySlots s (.bank pr) = [] ∧ ∀ p ∈ (exec' s (execOf pr)).hold, p.row ≠ r
     let queued := fun (t : State) => rowState t pr = stReady ∧ pr ∈ (exec' t (execOf pr)).queue
     let unqueued := fun (t : State) => pr ∉ (exec' t (execOf pr)).queue
     let ignores := fun (i : Instr) => Runs i s fun t => t.rows = s.rows
     (st = stIdle ∨ st = stDone → Runs (.start r op) s fun t => queued t ∧ rowWord t pr 1 = op.signExtend 64) ∧
     (st ≠ stIdle → st ≠ stDone → ignores (.start r op)) ∧
     (1 ≤ st → st ≤ 5 → Runs (.stopCommand r) s fun t => rowState t pr = stIdle ∧ unqueued t ∧
       bits (rowWord t pr 15) 34 6 = 0) ∧
     (st = 0 ∨ 5 < st → ignores (.stopCommand r)) ∧
     (st ≠ stFaulted → st ≠ stParked → Runs (.redirect r op) s fun t => rowWord t pr 1 = op.signExtend 64 ∧
       (st = stWait ∨ st = stBlocked → queued t) ∧ (st ≠ stWait → st ≠ stBlocked → rowState t pr = st)) ∧
     (st = stFaulted ∨ st = stParked → ignores (.redirect r op)) ∧
     (st ≤ 3 ∨ (st = stBlocked ∧ blk ≠ 4) → Runs (.wake r) s fun t => bit (rowWord t pr 15) 40 = true ∧ rowState t pr = st ∧
       WordsKept { s with cur := pr } t [15]) ∧
     (st = stBlocked → blk = 4 → Runs (.wake r) s fun t => queued t ∧ bits (rowWord t pr 15) 41 3 = 0) ∧
     (tierBusy s r.part = true → Runs (.freeze r) s fun t => t = { s with agenda := s.agenda ++ [.freeze r] }) ∧
     (st ≠ stFrozen → st ≠ stParked → tierBusy s r.part = false →
         Runs (.freeze r) s fun t => rowState t pr = stFrozen ∧ unqueued t ∧
       bits (rowWord t pr 15) 44 4 = (if st = stOpen ∨ st = stWait ∨ (st = stBlocked ∧ blk = 5) then stReady else st % 16) ∧
       bits (rowWord t pr 15) 48 16 = (bits (rowWord s pr 15) 48 16 + 1) % 2 ^ 16) ∧
     (st = stFrozen ∨ st = stParked → ignores (.freeze r)) ∧
     (st = stFrozen → quiet → bits (rowWord s pr 15) 44 4 = stReady → Runs (.thaw r) s fun t => queued t) ∧
     (∀ k, st = stFrozen → quiet → bits (rowWord s pr 15) 44 4 = stBlocked → blk = k → Runs (.thaw r) s fun t =>
       if k = 2 then queued t else rowState t pr = stBlocked) ∧
     (st = stFaulted → Runs (.thaw r) s fun t => queued t ∧ rowWord t pr 1 = rowWord s pr 1) ∧
     (st ≠ stFrozen → st ≠ stFaulted → ignores (.thaw r)) ∧
     (∀ k, st ≠ stParked → ownClaim s pr = none → bit (part s r.part).trcCtl 4 = false → freeCell s r.part = some k →
       MemoryCanonical s → k < 2 ^ 24 → Runs (.parkCommand r) s fun t =>
         locate t r = .cellar (cellBase (part s r.part) + 1024 * k) ∧ r ∈ (part t r.part).parked) ∧
     (∀ pr', st = stFrozen → quiet → op.toNat < 512 → (clustersOf (part s r.part)).contains (op.toNat / 16) = true →
       bankTakes s r.part op.toNat = true → freeRow s op.toNat = some pr' → Runs (.move r op) s fun t =>
         execOf pr' = op.toNat ∧ rowState t pr' = stFrozen ∧
         (∀ k, k ≠ 10 → k ≠ 11 → rowWord t pr' k = rowWord s pr k) ∧ (MemoryCanonical s → locate t r = .bank pr'))) ∧
  (∀ (s : State) (r : RowId) (pa e pr : Nat), locate s r = .cellar pa → execOf (entryRow (rowEntry s r)) = e →
     bringsIn s r.part e = true → freeRow s e = some pr →
     let im := loadImage (checkRange s r.part pa 1024) pa
     let back := fun (t : State) => rowWord t pr 1 = imgWord im 1 ∧
       (bit (imgWord im 15) 33 = true → rowState t pr = stFrozen) ∧
       (bit (imgWord im 15) 33 = false → bits (imgWord im 15) 44 4 = stReady →
         rowState t pr = stReady ∧ pr ∈ (exec' t (execOf pr)).queue) ∧
       (bit (imgWord im 15) 33 = false → bits (imgWord im 15) 44 4 = stBlocked → rowState t pr = stBlocked)
     (∀ i, i < 8 → bits (imgWord im (17 + 2 * i)) 58 6 = 0) →
     (∀ p ∈ (exec' s e).hold, p.row ≠ ⟨bits (imgWord im 3) 40 6, bits (imgWord im 3) 0 24⟩) →
     Runs (.unpark r) s back ∧ (bringable s e = some r → Runs (.bringIn e) s back))

/-- R337 to R342: how a row leaves an executor's slot and how one takes it; a write-back that the bank can begin is
CLOSING from the next cycle on. The model's own choices in it: log 38, 88. -/
def Obligations.BankSteps : Prop :=
  ∀ (s : State) (e k : Nat), k < 4 →
    let x := slot s e k
    let pr := x.row
    let closes := fun (t : State) => closingAsked (exec' t e) k = true
    let ready := fun (t : State) => rowState t pr = stReady ∧ pr ∈ (exec' t e).queue ∧ rowWord t pr 1 = rowWord s pr 1
    (execOf pr = e → slotOf s pr = some k →
      (quantumDue s e k = true → Runs (.quantumClosing e k) s fun t => closes t ∧ ready t) ∧
      (limitDue s e k = true → Runs (.limitClosing e k) s fun t => closes t ∧ ready t) ∧
      (markerDue s e k = true → Runs (.switchMarkerClosing e k) s fun t => closes t ∧ rowState t pr = stWait ∧
        rowWord t pr 1 = rowWord s pr 1) ∧
      (waitingDue s e k = true → Runs (.waitingInstructionClosing e k) s fun t => closes t ∧ rowState t pr = stWait ∧
        bit (rowWord t pr 15) 39 = true ∧ rowWord t pr 1 = rowWord s pr 1)) ∧
    (quantumDue s e k = false → Runs (.quantumClosing e k) s fun t => t = s) ∧
    (limitDue s e k = false → Runs (.limitClosing e k) s fun t => t = s) ∧
    (transferDone s e k false = true → pr ≠ noRow → Runs (.closingDone e k) s fun t => (slot t e k).st = .retained ∧
      (slot t e k).row = pr ∧ (exec' t e).xfer = (exec' s e).xfer.drop 1 ∧ t.rows = s.rows) ∧
    (transferDone s e k true = true → Runs (.openingDone e k) s fun t => (slot t e k).st = .opened ∧ t.rows = s.rows) ∧
    (∀ q, openingDue s e = some (q, k) → execOf q = e → Runs (.opening e) s fun t => (slot t e k).st = .opening ∧
      (slot t e k).row = q ∧ (slot t e k).left = 8 ∧ rowState t q = stOpen ∧ q ∉ (exec' t e).queue ∧
      bits (rowWord t q 2) 24 8 = 0 ∧ (true, k) ∈ (exec' t e).xfer) ∧
    (placeDue s e k = true → execOf pr = e → Runs (.openInPlace e k) s fun t => (slot t e k).st = .opened ∧ (slot t e k).row = pr ∧
      rowState t pr = stOpen ∧ pr ∉ (exec' t e).queue ∧ bits (rowWord t pr 2) 24 8 = 0) ∧
    (∀ r q, locate s r = .bank q → rowState s q = stWait → switchMet s q = true → Runs (.waitConditionMet r) s fun t =>
      rowState t q = stReady ∧ q ∈ (exec' t (execOf q)).queue) ∧
    (∀ r q, locate s r = .bank q → switchMet s q = false → Runs (.waitConditionMet r) s fun t => t = s) ∧
    ((exec' s e).xfer = [] → (exec' s e).asked = [k] → x.st = .opened →
      (slot (passCycle s e) e k).st = .closing ∧ (slot (passCycle s e) e k).left = 3 ∧
          (exec' (passCycle s e) e).xfer = [(false, k)])

/-! ### Device steps: what arrives at a row -/

/-- R194, R201, R202, R367: an outside access at a row image in a bank. The registers and the words above d32 take stores
from anyone; of the head words only d1, d2 (its predicates) and d5 to d10 do, from a privileged writer while the row
stands still, and their undefined bits stay zero; d32 discards; an access whose row is gone answers zero. R174, R175,
R420, R421, R425: a reply at its row in a bank; that of a register load issued again has the register's present value. The
model's own choices in it: log 50, 62, 68, 75. -/
def Obligations.ArrivalsAtRows : Prop :=
  (∀ (s : State) (a : RowAccess), inTransfer s (locate s a.target) = true ∨ accessWaits s a = true →
     Runs (.outsideRowAccess a) s fun t => t = { s with agenda := .outsideRowAccess a :: s.agenda }) ∧
  (∀ (s : State) (a : RowAccess), inTransfer s (locate s a.target) = false → accessWaits s a = false → a.off < 1024 →
     let l := locate s a.target
     let w := a.off / 8
     let gives := fun (v : Word) (P : State → Prop) => Runs (.outsideRowAccess a) s fun t => P t ∧
       (a.slot < 8 → Msg.resultArrival ⟨a.row, a.exec, a.slot, a.tag, v, 0, 0, 0⟩ ∈ t.agenda)
     let kept := fun (t : State) => t.rows = s.rows
     (l = .none → gives 0 kept) ∧
     ∀ pr, l = .bank pr → (∀ i ∈ busySlots s l, slotKind s l i ≠ 10) →
       let st := rowState s pr
       let writes := fun (k : Nat) (v : Word) (more : List Nat) => fun (t : State) =>
         rowWord t pr k = v ∧ RowKept s t pr (k :: more)
       (∀ n sg, a.op = .load n sg → gives (extend sg n (imageBytes s l a.off n)) kept) ∧
       (∀ n v, a.op = .store n v →
         let new := patchWord (rowWord s pr w) (a.off % 8) n v.toNat
         (33 ≤ w → gives 0 (writes w new [])) ∧
         (w = 32 → gives 0 kept) ∧
         (a.priv ≠ 0 → st = stIdle ∨ stFaulted ≤ st →
           (5 ≤ w → w ≤ 10 → gives 0 (writes w (new &&& pwBits w) [])) ∧
           (w = 1 → gives 0 (writes 1 new [15])) ∧
           (w = 2 → gives 0 (writes 2 (putBits (rowWord s pr 2) 0 16 (bits new 0 16)) []))) ∧
         (1 ≤ w → w < 32 → isPw w = false ∨ a.priv = 0 ∨ (1 ≤ st ∧ st ≤ 4) → gives 0 kept)) ∧
       (∀ b, a.op = .evset b → gives 0 (writes 10 (rowWord s pr 10 ||| (b.setWidth 64 <<< 16)) [])) ∧
       ∀ n op b cmp, a.op = .amo n op b cmp → 33 ≤ w →
         let old := imageBytes s l a.off n
         (∀ d, doneFind s 264 a.row a.tag = some d → gives d.result kept) ∧
         (doneFind s 264 a.row a.tag = none → gives (zextBytes n old) (writes w
           (if amoWrites op old (cmp.toNat % 256 ^ n) then
             patchWord (rowWord s pr w) (a.off % 8) n (amoNew op n old (b.toNat % 256 ^ n)) else rowWord s pr w) []))) ∧
  (∀ (s : State) (p : Reply) (pr : Nat), locate s p.row = .bank pr → rowId s pr = p.row → p.slot < 8 →
     let l := Loc.bank pr
     let d := slotDest s l p.slot
     let cls := slotClass s l p.slot
     let sw := 17 + 2 * p.slot
     let runs := Runs (.resultArrival p) s
     let still := rowState s pr = stFrozen ∨ rowState s pr = stParked
     let x := exec' s (execOf pr)
     (slotHas s l p.slot p.tag = false → runs fun t => t.rows = s.rows) ∧
     (slotHas s l p.slot p.tag = true → inTransfer s l = true → runs fun t =>
       t = { s with agenda := .resultArrival p :: s.agenda }) ∧
     (∀ o pa n sg, slotHas s l p.slot p.tag = true → inTransfer s l = false → opRec s p.row p.slot = some o → o.reply = none →
       o.more = some (.place (.reg pa) n sg) →
       let f := freshReply s p
       f.2 = { p with value := extend sg n (regRead s pa).2.toNat } ∧ runs fun t => arriveReply f.1 f.2 = t) ∧
     (slotHas s l p.slot p.tag = true → inTransfer s l = false → slotState s l p.slot = 1 → cls = 1 ∨ execOf pr = p.exec →
       freshReply s p = (s, p) → (∀ i ∈ busySlots s l, slotKind s l i ≠ 10) → p.refuse = 0 →
           (((opRec s p.row p.slot).bind fun o => o.req).all fun q => !watching s q.agent (lineOf q.pa)) = true →
       (¬ still ∨ (cls ≠ 0 ∧ cls ≠ 2) → rowState s pr ≠ stWait → slotKind s l p.slot ≠ 2 → 32 < d →
         let done := fun (ws : List Nat) (t : State) => SlotFreed t pr p.slot ∧ RowKept s t pr (1 :: 2 :: sw :: ws) ∧
           rowWord t pr 1 = (match opRec s p.row p.slot with
             | some o => if o.blocking then o.na else rowWord s pr 1
             | none => rowWord s pr 1)
         (p.poison = 0 → runs fun t => done [d] t ∧ rowWord t pr d = p.value) ∧
         (p.poison ≠ 0 → runs fun t => done [] t ∧
           (p.row, 16 * accOfKind (slotKind s l p.slot) + (p.poison - 1), slotAddr s l p.slot) ∈ t.late)) ∧
       (still → cls = 0 ∨ cls = 2 →
         (x.hold.length < 64 → runs fun t => (exec' t (execOf pr)).hold = x.hold ++ [p] ∧ slotState t l p.slot = 2 ∧
           RowKept s t pr [2, sw]) ∧
         (64 ≤ x.hold.length → runs fun t => (exec' t (execOf pr)).hold = x.hold ∧ slotState t l p.slot = 3 ∧
           RowKept s t pr [2, sw]))))

/-- R175, R288, R95, R364, R460: what comes about at a boundary of an OPEN row: a late CHECK, VLATE, LEASE_LOST, an event,
a breakpoint. R354, R355, R358, R359, R360: the replies of watches, barriers and rendezvous at a row in a bank. The
model's own choices in it: log 50, 53, 93, 99. -/
def Obligations.RowBoundariesAndWaits : Prop :=
  (∀ (s : State) (r : RowId) (pr : Nat), openRow s r = some pr →
     (∀ code a, lateDue s r = some (code, a) → Runs (.lateCheck r) s fun t =>
       RowFaulted s t pr ⟨cCheck, code % 16, 0, code / 16, 7⟩ true a []) ∧
     (∀ a, vlateDue s r = some a → Runs (.vlate r) s fun t =>
       RowFaulted s t pr (faultOf cVlate 0 0) true a [7] ∧ rowWord t pr 7 = putBits (rowWord s pr 7) 23 1 0) ∧
     (∀ k page a acc since, slotOf s pr = some k → (slot s (execOf pr) k).wait = .lease page a acc since →
       (since + 1000000 ≤ s.time → Runs (.leaseLost r) s fun t => RowFaulted s t pr (faultOf cLease 0 acc) false a []) ∧
       (s.time < since + 1000000 → Runs (.leaseLost r) s fun t => t = s)) ∧
     (eventDue s pr = true → Runs (.eventDelivery r) s fun t =>
       rowWord t pr 9 = w64 (at_ (bits (rowWord s pr 1) 2 46) 18 + 2 ^ 17 + bits (rowWord s pr 2) 0 16) ∧
       rowWord t pr 1 = rowWord s pr 8 ∧ RowKept s t pr [1, 9]) ∧
     (eventDue s pr = false → Runs (.eventDelivery r) s fun t => t = s) ∧
     ∀ e k, breakDue s e k = true → Runs (.breakpointMatch e k) s fun t =>
       (cluster t (clusterOf e)).halted = true ∧ (slot t e k).bpPass = true ∧ t.rows = s.rows ∧
       ((cluster s (clusterOf e)).halted = false → (cluster t (clusterOf e)).dbgCause = 2)) ∧
  (∀ (s : State) (r : RowId) (pr i tag : Nat) (v : Word), locate s r = .bank pr → rowId s pr = r → i < 8 →
     let l := Loc.bank pr
     let d := slotDest s l i
     let blk := bits (rowWord s pr 15) 41 3
     let a := (slotAddr s l i).toNat
     let wakes := fun (t : State) => SlotFreed t pr i ∧ Queued t pr ∧ bits (rowWord t pr 15) 41 3 = 0
     (slotHas s l i tag = false → (∀ met, Runs (.watchReply r i tag v met) s fun t => t.rows = s.rows) ∧
       ∀ no, Runs (.syncCompletion r i tag v no) s fun t => t.rows = s.rows) ∧
     (slotHas s l i tag = true → inTransfer s l = true → (∀ met, Runs (.watchReply r i tag v met) s fun t =>
         t = { s with agenda := .watchReply r i tag v met :: s.agenda }) ∧
       ∀ no, Runs (.syncCompletion r i tag v no) s fun t => t = { s with agenda := .syncCompletion r i tag v no :: s.agenda }) ∧
     (slotHas s l i tag = true → inTransfer s l = false → 32 < d →
       let woken := ∃ o, opRec s r i = some o ∧ o.more = some .woken
       (bits (rowWord s pr 14) 0 2 = 1 → ¬ woken → Runs (.watchReply r i tag v false) s fun t =>
         rowWord t pr d = v ∧ RowKept s t pr [d]) ∧
       (bits (rowWord s pr 14) 0 2 = 2 → ¬ woken → Runs (.watchReply r i tag v false) s fun t => t.rows = s.rows) ∧
       (woken → rowState s pr = stBlocked → blk = 2 ∨ blk = 5 → Runs (.watchReply r i tag v false) s fun t =>
         wakes t ∧ rowWord t pr 14 = 0 ∧ RowKept s t pr [0, 2, 14, 15, 17 + 2 * i, d] ∧
         (bits (rowWord s pr 14) 0 2 = 1 → rowWord t pr d = v)) ∧
       (rowState s pr = stBlocked → blk = 2 ∨ blk = 5 → Runs (.watchReply r i tag v true) s fun t =>
         wakes t ∧ rowWord t pr d = v ∧ rowWord t pr 14 = 0 ∧ RowKept s t pr [0, 1, 2, 14, 15, 17 + 2 * i, d] ∧
         (bits (rowWord s pr 14) 0 2 = 1 → rowWord t pr 1 = rowWord s pr 1) ∧
         ∀ o, bits (rowWord s pr 14) 0 2 = 2 → opRec s r i = some o → rowWord t pr 1 = o.na) ∧
       (∀ o, opRec s r i = some o → a < 8 → o.bar = true → rowState s pr = stBlocked → blk = 1 →
         Runs (.syncCompletion r i tag v false) s fun t => wakes t ∧ rowWord t pr d = v ∧
           RowKept s t pr [0, 2, 15, 17 + 2 * i, d]) ∧
       (8 ≤ a → rowState s pr = stBlocked → blk = 3 → Runs (.syncCompletion r i tag v false) s fun t =>
         wakes t ∧ rowWord t pr d = v ∧ RowKept s t pr [0, 2, 15, 17 + 2 * i, d]) ∧
       (∀ o, opRec s r i = some o → a < 8 → o.bar = false → Runs (.syncCompletion r i tag v false) s fun t =>
         SlotFreed t pr i ∧ rowWord t pr d = v ∧ (rowState s pr ≠ stWait → RowKept s t pr [2, 17 + 2 * i, d]) ∧
         (rowState s pr = stWait → switchMet (clearSlot s l i) pr = true → Queued t pr))) ∧
     (slotHas s l i tag = true → inTransfer s l = false → ∀ o, opRec s r i = some o → rowState s pr = stBlocked → blk = 3 →
       Runs (.syncCompletion r i tag v true) s fun t => SlotFreed t pr i ∧ rowWord t pr 1 = o.na ∧
         RowFaulted s t pr (faultOf cDomain 0 9) false
           (w64 (at_ (bits (slotAddr s l i) 0 8 - 8) 32 + bits (slotAddr s l i) 8 16)) [1, 2, 15, 17 + 2 * i]))

/-- R357, R359: a domain's unit counts an arrival once; the arrival that completes a phase sends the phase to every row
counted in it; a meeting point gives each of its arrivals its own index, and refuses an arrival with another count; a unit
takes 256 meetings of a partition. The model's own choices in it: log 23. -/
def Obligations.UnitsCount : Prop :=
  ∀ (s : State) (a : Arrival),
    let u := domUnit s a.row.part a.launch a.level a.domain
    let need := participants s a.row.part a.launch a.level a.domain
    let now := fun (t : State) => domUnit t a.row.part a.launch a.level a.domain
    let all := u.arrived ++ [a]
    ((u.seen.any fun x => x.1 == a.row && x.2.1 == a.tag) = false →
      (all.length < need → Runs (.barrierArrival a) s fun t =>
        (now t).arrived = all ∧ (now t).phase = u.phase ∧ t.agenda = s.agenda ∧ t.rows = s.rows) ∧
      (need ≤ all.length → a.level ≠ 4 → Runs (.barrierArrival a) s fun t =>
        (now t).arrived = [] ∧ (now t).phase = u.phase + 1 ∧ t.rows = s.rows ∧
        ∀ b ∈ all, Msg.syncCompletion b.row b.slot b.tag (w64 u.phase.toNat) false ∈ t.agenda)) ∧
    ((u.seen.any fun x => x.1 == a.row && x.2.1 == a.tag) = true → u.arrived.length < need →
      Runs (.barrierArrival a) s fun t => t = s) ∧
    ∀ meet count,
      let m : Meeting := ⟨a.row.part, a.launch, a.level, a.domain, meet, count, [a]⟩
      (s.meetings.find? (fun m => sameMeeting m a meet) = none → a.level < 4 →
        ((unitMeetings s m).length < 256 → count ≠ 1 →
          Runs (.rdvArrival a meet count) s fun t => t = { s with meetings := s.meetings ++ [m] }) ∧
        (256 ≤ (unitMeetings s m).length →
          Runs (.rdvArrival a meet count) s fun t => t = { s with meetWait := s.meetWait ++ [m] })) ∧
      (s.meetings.find? (fun m => sameMeeting m a meet) = none → a.level = 4 → (unitMeetings s m).length < 256 → 1 < count →
        Runs (.rdvArrival a meet count) s fun t => t.rows = s.rows ∧ ((∃ y ∈ t.meetings, y.meet = meet ∧ a ∈ y.arrived ∧
          y.arrived.length < count) ∨ t.meetings = s.meetings)) ∧
      ∀ m, s.meetings.find? (fun m => sameMeeting m a meet) = some m →
        (m.arrived.any fun b => b.row == a.row && b.tag == a.tag) = false →
        (m.count ≠ count → Runs (.rdvArrival a meet count) s fun t =>
          t = { s with agenda := s.agenda ++ [.syncCompletion a.row a.slot a.tag 0 true] }) ∧
        (m.count = count → m.arrived.length + 1 ≠ count → Runs (.rdvArrival a meet count) s fun t =>
          (m.level < 4 → t.agenda = s.agenda) ∧ { m with arrived := m.arrived ++ [a] } ∈ t.meetings) ∧
        (m.count = count → m.arrived.length + 1 = count → Runs (.rdvArrival a meet count) s fun t =>
          { m with arrived := m.arrived ++ [a] } ∉ t.meetings ∧
          ∀ j b, (m.arrived ++ [a])[j]? = some b → b.row.part < 32 →
            Msg.syncCompletion b.row b.slot b.tag (w64 j) false ∈ t.agenda)

/-! ### Device steps: cluster caches and home slices -/

/-- R166 to R168, R81, R89 to R91, R175, R323, R424: what a cluster cache does with the messages that reach it. The
model's own choices in it: log 17, 69, 70, 71, 99. -/
def Obligations.CacheMessages : Prop :=
  (∀ (s : State) (agent line : Nat) (data : List W32) (m : Miss),
    s.misses.find? (fun m => m.agent == agent && m.line == line) = some m →
    (m.evicted = false → m.cleared = false →
      let s1 := allocLine { s with misses := dropFirst (fun x => x.agent == agent && x.line == line) s.misses } agent line m.hint
      let x := cline s1 agent line
      let filled := fun (t : State) => t.rows = s.rows ∧ t.mem = s.mem ∧
        (cline t agent line).v = x.v ||| ~~~x.rg ∧ (cline t agent line).rg = x.rg ∧
        ∀ i, i < 32 → cword (cline t agent line) i = if x.rg.getLsbD i then cword x i else nth data i 0
      (m.ops = [] → Runs (.lineFill agent line data 0 0) s fun t => filled t ∧ t.agenda = s1.agenda) ∧
      ∀ r why, m.ops = [(false, r)] → r.op = .read why →
        (Runs (.lineFill agent line data 0 0) s fun t => filled t ∧
          t.agenda = s1.agenda ++ [replyTo r (lineValue (cline t agent line) r) 0]) ∧
        ∀ poison keymiss, OneBlock r.pa r.size → blockMark poison keymiss r.pa ≠ 0 → bytesMask r &&& ~~~x.v ≠ 0 →
          Runs (.lineFill agent line data poison keymiss) s fun t => t.rows = s.rows ∧ t.mem = s.mem ∧
            t.agenda = s1.agenda ++ [replyTo r 0 (blockMark poison keymiss r.pa)]) ∧
    ∀ b r, m.evicted = true → m.ops.head? = some (b, r) → ∀ poison keymiss,
      Runs (.lineFill agent line data poison keymiss) s fun t => t.caches = s.caches ∧ t.rows = s.rows ∧ t.mem = s.mem ∧
        t.agenda = s.agenda ++ [.lineRead { r with op := .read .fill, pa := 128 * line, size := 128, slot := 8 }]) ∧
  (∀ (s : State) (agent line : Nat) (mask : BitVec 32),
    let x := cline s agent line
    let m := x.rg &&& mask &&& ~~~pendingMask s agent line
    Runs (.recall agent line mask) s (fun t => t.rows = s.rows ∧ t.mem = s.mem ∧
      (cline t agent line).rg = x.rg &&& ~~~m ∧ (cline t agent line).v = x.v ∧
      t.agenda = s.agenda ++ [.recallWriteback agent (ownInc agent) line m x.words.toList]) ∧
    Runs (.forward agent line mask) s (fun t =>
      t = { s with agenda := s.agenda ++ [.forwardReply agent (ownInc agent) line m x.words.toList] }) ∧
    ((cluster s agent).watches = [] → Runs (.invalidation agent line mask false) s fun t =>
      t.rows = s.rows ∧ t.mem = s.mem ∧ t.agenda = s.agenda ++ [.invalidationAck agent (ownInc agent) line false] ∧
      t.caches = if writesThrough agent then mapDel s.caches (lineKey agent line) else s.caches) ∧
    (Runs (.invalidation agent line mask true) s fun t => (hline t line).keep = KeepEntry.init ∧
      ((∀ k, (cluster s k).watches = []) → t.mem = s.mem)) ∧
    ∀ r i pa, (cluster s agent).watches = [(r, i, pa)] → lineOf pa = line → agent < 0x20 →
      (wordMask pa 8 &&& mask = 0 → Runs (.invalidation agent line mask false) s fun t =>
        t.rows = s.rows ∧ t.agenda = s.agenda ++ [.invalidationAck agent (ownInc agent) line true]) ∧
      (∀ o, wordMask pa 8 &&& mask ≠ 0 → opRec s r i = some o → o.more = some .asked →
        Runs (.invalidation agent line mask false) s fun t => t.rows = s.rows ∧ opRec t r i = some { o with more := some .woken } ∧
          Msg.invalidationAck agent (ownInc agent) line false ∈ t.agenda) ∧
      (∀ pr, wordMask pa 8 &&& mask ≠ 0 → (∀ o, opRec s r i = some o → o.more ≠ some .asked ∧ o.more ≠ some .woken) →
        locate s r = .bank pr → rowState s pr = stBlocked → i < 8 →
        bits (rowWord s pr 15) 41 3 = 2 ∨ bits (rowWord s pr 15) 41 3 = 5 →
        Runs (.invalidation agent line mask false) s fun t => Queued t pr ∧ SlotFreed t pr i ∧ rowWord t pr 14 = 0 ∧
          Msg.invalidationAck agent (ownInc agent) line false ∈ t.agenda)) ∧
  ∀ (s : State) (agent id : Nat) (refused : BitVec 32) (p : PendReg),
    s.regs.find? (fun p => p.id == id && p.agent == agent) = some p →
    let acked := fun (t : State) => (∀ x ∈ t.regs, x.id ≠ id) ∧
      Msg.commit (homeOf (part s p.part) (128 * p.line)) p.row p.tag ∈ t.agenda ∧
      (cline t agent p.line).v = (cline s agent p.line).v &&& ~~~refused ∧
      (cline t agent p.line).rg = (cline s agent p.line).rg &&& ~~~refused
    ((∀ w ∈ s.stores, w.ids.contains id = false ∧ w.ids ≠ []) → Runs (.registrationAck agent id refused) s fun t =>
      acked t ∧ t.stores = s.stores ∧ t.rows = s.rows ∧ t.mem = s.mem) ∧
    ∀ w pr, s.stores = [w] → w.ids = [id] → locate s w.row = .bank pr → rowId s pr = w.row → w.slot < 8 →
      slotHas s (.bank pr) w.slot w.tag = true → slotState s (.bank pr) w.slot = 1 → slotClass s (.bank pr) w.slot = 1 →
      slotKind s (.bank pr) w.slot = 2 → inTransfer s (.bank pr) = false → rowState s pr ≠ stWait → w.bad = false →
      opRec s w.row w.slot = none →
      Runs (.registrationAck agent id refused) s fun t => acked t ∧ t.stores = [] ∧ SlotFreed t pr w.slot ∧
        RowKept s t pr [2, 17 + 2 * w.slot] ∧
        t.late = if refused = 0 then s.late else s.late ++ [(w.row, 16 * 3 + 1, slotAddr s (.bank pr) w.slot)]

/-- R61, R66, R76, R80, R82, R84, R85, R144, R183, R184, R423: a request that its home slice performs on arrival, and the
recalls and forwards that come first when a word of it is registered. u is the state after the home has read what the
request needs: a line that its array does not hold comes from the stack, where errors may be found. The model's own
choices in it: log 5, 17, 32, 63, 67. -/
def Obligations.HomeRequests : Prop :=
  ∀ (s : State) (r : Req), MemoryCanonical s → HomeReady s r →
    let line := lineOf r.pa
    let g := (hline s line).reg
    let u := readFor s r
    (held s line = true → r.op = .read .fill ∨ OneBlock r.pa r.size → u = { s with dlines := u.dlines }) ∧
    (owners g = [] → (r.op = .read .fill → Runs (.lineRead r) s fun t => (KeeperRoom s line → t.rows = s.rows) ∧
        ∃ p k, Msg.lineFill r.agent line (answerWords u line []) p k ∈ t.agenda) ∧
      (r.op = .read .word → Runs (.lineRead r) s fun t => (KeeperRoom s line → t.rows = s.rows) ∧
        replyTo r (extend r.signed r.size
          (leNat ((((answerWords u line []).flatMap wordBytes).drop (r.pa % 128)).take r.size))) (delivery u r.pa r.key) ∈ t.agenda)) ∧
    (∀ a, owners g = [a] → a ≠ r.agent →
      (r.op = .read .fill → ownMask g a ≠ 0 → Runs (.lineRead r) s fun t =>
        Msg.forward a line (ownMask g a) ∈ t.agenda ∧ txnOf t line = some ⟨r, false, [a], [], []⟩) ∧
      (r.op = .reg → ownMask g a &&& r.mask ≠ 0 → Runs (.registration r) s fun t =>
        Msg.recall a line (ownMask g a &&& r.mask) ∈ t.agenda ∧ txnOf t line = some ⟨r, false, [a], [], []⟩)) ∧
    (LineQuiet s line →
      (r.op = .reg → Runs (.registration r) s fun t => let m := r.mask &&& ~~~refusedWords s r
        (hline t line).reg = (if m = 0 then g else register g r.agent m) ∧
        Msg.registrationAck r.agent r.id (refusedWords s r) ∈ t.agenda ∧ txnOf t line = none ∧
        doneFind t (homeOf (part s r.part) r.pa) r.row r.tag = some ⟨r.row, r.tag, 0, 0, r.pa⟩) ∧
      (∀ op b cmp, r.op = .atomic op b cmp → r.id ≠ 1 → OneBlock r.pa r.size → CohQuiet s r.part → Runs (.homeAtomic r) s fun t =>
          let old := leNat (homeBytes u r.pa r.size)
          let d := delivery u r.pa r.key
          let writes := amoWrites op old (cmp.toNat % 256 ^ r.size)
          replyTo r (zextBytes r.size old) d ∈ t.agenda ∧
            (d = 0 → writes = true →
              memBytes t.mem r.pa r.size = leBytes r.size (amoNew op r.size old (b.toNat % 256 ^ r.size))) ∧
            (d ≠ 0 ∨ writes = false → SameMemory u t)) ∧
      (r.id = 1 → Runs (.homeAtomic r) s fun t => t = cacheAtomic s r) ∧
      (r.op = .write → OneBlock r.pa r.size → r.data.length = r.size →
        (foreignPart s r.pa r.size r.key = false → Runs (.writeThrough r) s fun t =>
          memBytes t.mem r.pa r.size = r.data ∧ replyTo r 0 0 ∈ t.agenda ∧
          ∀ a, a / 128 ≠ line ∨ (a / 64 ≠ r.pa / 64 ∧ (held s line = true ∨ r.hint = .noal)) → memRead t.mem a = memRead s.mem a) ∧
        (foreignPart s r.pa r.size r.key = true → CohQuiet s r.part →
          Runs (.writeThrough r) s fun t => SameMemory s t ∧ replyTo r 0 2 ∈ t.agenda)) ∧
      (∀ next, r.op = .append next true → OneBlock r.pa r.size → r.size ≤ r.data.length → r.mask = 0 →
        entryPlace s r.part (r.pa / 65536) / 128 ≠ line → s.tailCache.length < 512 → (∀ x ∈ s.tails, x.page ≠ r.pa / 65536) →
        foreignPart s r.pa r.size r.key = false → Runs (.appendWrite r) s fun t =>
          memBytes t.mem r.pa r.size = r.data.take r.size ∧ caskReply r (w64 r.id) 0 0 0 ∈ t.agenda ∧
          tePend (tailEntry t r.part (r.pa / 65536)) = tePend (tailEntry s r.part (r.pa / 65536)) - 1))

/-- R81, R82, R85, R89, R90, R92, R412, R423: the answers that a home slice waits for, an engine's write of its line,
commits, and requests that a page's move sends again. R71, R73, R74, R93, R113: tier sectors, refresh and dead agents. The
model's own choices in it: log 5, 17, 63, 69, 72, 76. -/
def Obligations.HomeAnswers : Prop :=
  ((∀ (s : State) (r : Req), MemoryCanonical s → staleInc s r.agent r.inc = false →
     let h := hline s (lineOf r.pa)
     h.reg.eng = true → h.reg.ownA.toNat = r.agent → h.txn = none → h.keep = KeepEntry.init → h.waiting = [] →
     leased s (r.pa / 65536) = false → OneBlock r.pa r.data.length → foreignPart s r.pa r.data.length r.key = false →
     Runs (.engineLineWrite r) s fun t => memBytes t.mem r.pa r.data.length = r.data ∧
       (hline t (lineOf r.pa)).reg = RegEntry.init) ∧
   (∀ (s : State) (agent line : Nat) (mask : BitVec 32) (data : List W32),
     let inc := incOf s agent
     let h := hline s line
     let m := ownMask h.reg agent &&& mask
     let got := (setBits 32 mask.toNat).map fun i => (i, nth data i 0)
     let flat := inTier (part s (ownerPart s (128 * line))) (128 * line) = false
     (MemoryCanonical s → flat → h.txn = none →
       let merged := fun (t : State) => (hline t line).reg = unregister h.reg agent m ∧ t.rows = s.rows ∧
         ∀ i, i < 32 → m.getLsbD i = true → memBytes t.mem (128 * line + 4 * i) 4 = wordBytes (nth data i 0)
       Runs (.recallWriteback agent inc line mask data) s merged ∧ Runs (.evictionWriteback agent inc line mask data) s merged) ∧
     (tierTakes s (128 * line) = false →
       (Runs (.recallWriteback agent inc line mask data) s fun t =>
         t = { s with agenda := .recallWriteback agent inc line mask data :: s.agenda }) ∧
       Runs (.evictionWriteback agent inc line mask data) s fun t =>
         t = { s with agenda := .evictionWriteback agent inc line mask data :: s.agenda }) ∧
     (∀ old, old ≠ inc →
       let dropped := fun (t : State) => t.homes = s.homes ∧ t.rows = s.rows
       Runs (.recallWriteback agent old line mask data) s dropped ∧ Runs (.evictionWriteback agent old line mask data) s dropped ∧
         Runs (.forwardReply agent old line mask data) s dropped ∧ Runs (.invalidationAck agent old line true) s dropped ∧
         Runs (.evictionNotice agent old line) s dropped) ∧
     (∀ x, h.txn = some x →
       let left := x.awaiting.filter (· != agent)
       (x.inval = false → x.awaiting.contains agent = true → wasEarly s line agent = false →
         (left ≠ [] → Runs (.forwardReply agent inc line mask data) s fun t =>
           txnOf t line = some { x with got := got ++ x.got, awaiting := left }) ∧
         (left = [] → x.req.op = .read .fill → lineOf x.req.pa = line → h.waiting = [] →
           Runs (.forwardReply agent inc line mask data) s fun t => txnOf t line = none ∧
             ∃ p k, Msg.lineFill x.req.agent line (answerWords s line (got ++ x.got)) p k ∈ t.agenda) ∧
         (left ≠ [] → flat → lineOf x.req.pa = line → ownMask h.reg agent &&& ~~~mask = 0 →
           Runs (.evictionWriteback agent inc line mask data) s fun t =>
             txnOf t line = some { x with awaiting := left } ∧ wasEarly t line agent = true)) ∧
       (x.inval = true ∨ x.awaiting.contains agent = false → wasEarly s line agent = false →
         Runs (.forwardReply agent inc line mask data) s fun t => t = s) ∧
       (x.inval = true → ∀ kept, left ≠ [] → Runs (.invalidationAck agent inc line kept) s fun t =>
         txnOf t line = some { x with awaiting := left, kept := if kept then x.kept ++ [agent] else x.kept }) ∧
       (x.inval = true → ∀ kept, left = [] → x.req.op = .reg → lineOf x.req.pa = line → h.waiting = [] →
         Runs (.invalidationAck agent inc line kept) s fun t => txnOf t line = none ∧
           (let w := x.req.mask &&& ~~~refusedWords s x.req
            (hline t line).reg = if w = 0 then h.reg else register h.reg x.req.agent w) ∧
           Msg.registrationAck x.req.agent x.req.id (refusedWords s x.req) ∈ t.agenda)) ∧
     (wasEarly s line agent = true → Runs (.forwardReply agent inc line mask data) s fun t =>
       txnOf t line = h.txn ∧ (hline t line).early = dropFirst (· == agent) h.early) ∧
     (h.keep.co = false → (h.txn.any fun x => x.inval) = false → Runs (.evictionNotice agent inc line) s fun t =>
       (hline t line).keep.ptrs = h.keep.ptrs.filter (· != BitVec.ofNat 8 agent))) ∧
   ∀ (s : State) (k : Nat) (r : RowId) (tag : Nat) (q : Req),
     (k < 256 ∨ 264 ≤ k → Runs (.commit k r tag) s fun t =>
       ∀ d ∈ mapGet t.done k [], ¬ (d.row = r ∧ d.tag = tag)) ∧
     (256 ≤ k → k < 264 → Runs (.commit k r tag) s fun t => ∀ x ∈ t.hubs, ∀ d ∈ x.2.done, ¬ (d.row = r ∧ d.tag = tag)) ∧
     (∀ l pa, walk s (dieOf q.exec) q.part q.va = .leaf l → leafPlace l q.va = .mem pa → q.op ≠ .reg →
       let moved : Req → Req := fun r => { r with pa := 65536 * (pa / 65536) + r.pa % 65536, key := leafKey l.leaf }
       (q.op ≠ .read .fill → Runs (.rehomeReissue q) s fun t => t = { s with agenda := s.agenda ++ [reqMsg 0 (moved q)] }) ∧
       (q.op = .read .fill → Runs (.rehomeReissue q) s fun t => t = { s with
         agenda := s.agenda ++ [.lineRead (moved q)]
         misses := s.misses.map fun m => if m.agent = q.agent ∧ m.line = lineOf q.pa then { m with
           line := lineOf (moved q).pa, key := leafKey l.leaf, ops := m.ops.map fun o => (o.1, moved o.2) } else m })) ∧
     ((∀ l, walk s (dieOf q.exec) q.part q.va ≠ .leaf l) → Runs (.rehomeReissue q) s fun t =>
       t = { s with agenda := s.agenda ++ [.rehomeReissue q] })) ∧
  (∀ (s : State),
     (∀ unit u tag rs, s.tierMiss.find? (fun m => m.1 == unit) = some (u, tag, rs) →
       let f := fillUnit { s with tierMiss := s.tierMiss.filter fun m => m.1 != unit } (ownerPart s (2048 * unit)) unit tag
       (∀ i, i < 32 → (block f (2048 * unit + 64 * i)).v = true ∧ (block f (2048 * unit + 64 * i)).d = false ∧
         (block f (2048 * unit + 64 * i)).tag = BitVec.ofNat 15 tag) ∧
       Runs (.tierFill unit) s fun t => t = rs.foldl homeArrive f) ∧
     (∀ slice pc, mapGet s.postponed (6 * slice + pc) 0 ≤ 8 → Runs (.refresh slice pc) s fun t =>
       mapGet t.postponed (6 * slice + pc) 0 ≤ 8 ∧ t.mem = s.mem ∧ t.rows = s.rows) ∧
     (∀ slice pc, 8 ≤ mapGet s.postponed (6 * slice + pc) 0 → Runs (.refreshLimit slice pc) s fun t =>
       mapGet t.postponed (6 * slice + pc) 0 = 0 ∧ t.mem = s.mem ∧ t.rows = s.rows) ∧
     (∀ agent, (awaitedAt s agent = none ∨ agent ∈ s.deadSeen → Runs (.agentTimeout agent) s fun t => t = s) ∧
       ∀ line, awaitedAt s agent = some line → agent ∉ s.deadSeen → Runs (.agentTimeout agent) s fun t =>
         t.deadSeen = s.deadSeen ++ [agent] ∧ t.homes = s.homes ∧ t.rows = s.rows ∧
         (ringLogn s.hub.hfq ≠ 0 → ringRoom s.hub.hfq = true → let d := lineHome s line / 64
           Msg.ringMessageWrite .hfault d ∈ t.agenda ∧ t.heldMsgs = s.heldMsgs ++
             [⟨d, .hfault, ⟨msgHead 3 0 agent 0 ⟨ownerPart s (128 * line), 0⟩, w64 (128 * line), 0, 0⟩⟩])) ∧
     (∀ agent, (s.homes.map fun x => x.1).Nodup → (∀ line, (hline s line).txn = none ∧ (hline s line).waiting = []) →
       agent < 0x20 ∨ 0x40 ≤ agent → Runs (.agentDead agent) s fun t =>
         mapGet t.incs agent 0 = mapGet s.incs agent 0 + 1 ∧ agent ∉ t.deadSeen ∧
         ∀ line, let g := (hline s line).reg
           (g.eng = true → g.ownA.toNat = agent → (hline t line).reg = RegEntry.init ∧ (block t (128 * line)).p = true ∧
             (block t (128 * line + 64)).p = true) ∧
           (g.eng = false → (hline t line).reg = unregister g agent (ownMask g agent) ∧
             (ownMask g agent &&& 0xFFFF#32 ≠ 0 → (block t (128 * line)).p = true) ∧
             (ownMask g agent &&& 0xFFFF0000#32 ≠ 0 → (block t (128 * line + 64)).p = true))) ∧
     ∀ cl c, cl < 32 → s.homes = [] → (cluster s cl).cmds = [c] → c.node = none → (batchAt s c.row c.batch).err = 0 →
       Runs (.agentDead (0x20 + cl)) s fun t => (cluster t cl).cmds = [] ∧ (batchAt t c.row c.batch).err = 4 ∧
         (batchAt t c.row c.batch).left = (batchAt s c.row c.batch).left - 1)

/-! ### Device steps: leases, cask pages and rack maps -/

/-- R94 to R97, R134: leases of pages between modules, and the hand-over of a page's home; a cask page is never handed
over. R152 to R155: requests, pushes and drops of the rack maps. The model's own choices in it: log 64, 68, 69, 73, 74,
86. -/
def Obligations.LeasesAndRacks : Prop :=
  (∀ (s : State) (page holder : Nat),
     let dropped := fun (t : State) => t.mem = s.mem ∧ (∀ l ∈ t.leases, ¬ (l.isHome = false ∧ l.page = page)) ∧
       ∀ agent line, line / 512 = page → line < 2 ^ 40 →
         (cline t agent line).v = (cline s agent line).v &&& (cline s agent line).rg
     let quiet := ∀ line, ((txnOf s line).any fun x => x.awaiting.contains holder) = false
     let gone := fun (t : State) =>
       t = { s with leases := s.leases.filter fun l => !(l.isHome && l.page == page && l.holder == holder) }
     (∀ part expiry,
       let ends := if 10000 ≤ expiry - s.time ∧ expiry - s.time ≤ 10000000 then expiry else s.time + 100000
       (s.leaving.contains page = false → Runs (.leaseRenewal part page true expiry) s fun t =>
         (⟨page, 0xC0 + part % 64, true, s.time, ends, s.hub.trans, false⟩ : Lease) ∈ t.leases ∧ t.mem = s.mem) ∧
       (s.leaving.contains page = true →
         (Runs (.leaseRenewal part page true expiry) s fun t =>
           (⟨page, part, false, s.time, ends, s.hub.trans, false⟩ : Lease) ∈ t.leases ∧ t.mem = s.mem) ∧
         Runs (.leaseRenewal part page false expiry) s dropped)) ∧
     (∀ l, s.leases.find? (fun l => l.isHome && l.page == page && l.holder == holder) = some l →
       (l.expiry + guardBand l s.hub.trans < s.time → quiet → Runs (.leaseExpiry page holder) s gone) ∧
       (s.time ≤ l.expiry + guardBand l s.hub.trans → Runs (.leaseExpiry page holder) s fun t => t = s) ∧
       (l.revoking = true → quiet → Runs (.revokeAck page ⟨holder, incOf s holder⟩) s gone)) ∧
     (∀ inc, inc ≠ incOf s holder → Runs (.revokeAck page ⟨holder, inc⟩) s fun t => t.leases = s.leases ∧ t.homes = s.homes) ∧
     Runs (.revoke page) s dropped ∧
     (s.leaving.contains page = true → Runs (.homeHandover page) s fun t => t.leaving = s.leaving.filter (· != page) ∧
       ∀ line, line / 512 = page → (hline t line).reg = RegEntry.init ∧ (hline t line).keep = KeepEntry.init) ∧
     (s.leaving.contains page = false → pageQuiet s page = true → caskPage s page = false → Runs (.homeHandover page) s fun t =>
       t.leaving = page :: s.leaving) ∧
     (s.leaving.contains page = false → pageQuiet s page = false ∨ caskPage s page = true →
       Runs (.homeHandover page) s fun t => t = s)) ∧
  (∀ (s : State) (die page : Nat), MemoryCanonical s →
     (∀ gen,
       let q := ownerPart s (65536 * page)
       let e := tailEntry s q page
       (teState e = 2 → teGen e = gen → Runs (.rackRequest die page gen) s fun t =>
         teRacked (tailEntry t q page) = (teRacked e ||| 2 ^ die) % 16 ∧
         ∀ i, i < 512 → ∃ data, Msg.rackPushLine die page gen i data ∈ t.agenda ∧ data.length = 32) ∧
       (teState e ≠ 2 ∨ teGen e ≠ gen → Runs (.rackRequest die page gen) s fun t => t.mem = s.mem ∧
         t.agenda = s.agenda ∧ ∀ x ∈ t.racks, x.die = die → x.page = page → x.valid = true)) ∧
     (∀ x gen line (data : List W32), data.length = 32 →
       s.racks.find? (fun x => x.die == die && x.page == page && x.gen == gen && !x.valid) = some x →
       Runs (.rackPushLine die page gen line data) s fun t =>
         memBytes t.mem (frameLine (part s x.part) die x.frame line) 128 = data.flatMap wordBytes ∧
         { x with left := x.left - 1, valid := x.left == 1 } ∈ t.racks) ∧
     (∀ gen line data, s.racks.find? (fun x => x.die == die && x.page == page && x.gen == gen && !x.valid) = none →
       Runs (.rackPushLine die page gen line data) s fun t => t = s) ∧
     Runs (.rackDrop die page) s fun t => t.mem = s.mem ∧ ∀ x ∈ t.racks, ¬ (x.die = die ∧ x.page = page))

/-- R144 to R147, R159, R423: appends, seals and tails at the tail slice of a cask page, which serves a page's requests in
arrival order. R138, R156, R157: INIT, INIT with zero, FREE and the end of the reclaim sweep; a page that is not FREE is
never opened, so that a sealed one is unsealed by being freed alone. The model's own choices in it: log 5, 25, 67, 68. -/
def Obligations.CaskPageSteps : Prop :=
  ((∀ (s : State) (r : Req), MemoryCanonical s → incOf s r.agent = r.inc →
     let page := r.pa / 65536
     let e := tailEntry s r.part page
     let sz := r.data.length
     let o := (teTail e + sz - 1) / sz * sz
     let answers := fun (m : Msg) (t : State) => t = { s with agenda := s.agenda ++ [m] }
     let waits := fun (t : State) => t = { s with tails := s.tails ++ [⟨page, false, r⟩] }
     let turn := (s.tails.any fun t => t.page == page && !t.taken) = false
     ((∃ why, r.op = .read why) →
       (turn → Runs (.tailRequest r) s (answers (caskReply r e 0 0 0))) ∧ (¬ turn → Runs (.tailRequest r) s waits)) ∧
     ((∃ next last, r.op = .append next last) →
       (∀ d, tailDone s r = some d → Runs (.appendGrant r) s (answers (caskReply r d.result 0 0 0))) ∧
       (tailDone s r = none → (¬ turn → Runs (.appendGrant r) s waits) ∧
         (turn → 0 < sz → teState e = 1 → o + sz ≤ 65536 → tePend e = 255 → Runs (.appendGrant r) s waits) ∧
         (turn → 0 < sz → tePend e < 255 ∨ teState e ≠ 1 → tailFull s r = true → Runs (.appendGrant r) s fun t =>
           t = { s with agenda := .appendGrant r :: s.agenda }) ∧
         (turn → tailFull s r = false →
           (teState e ≠ 1 → Runs (.appendGrant r) s (answers (caskReply r 0 0 cSealed (w64 r.va)))) ∧
           (teState e = 1 → 0 < sz →
             (65536 < o + sz → Runs (.appendGrant r) s (answers (caskReply r 0 0 cFull (w64 (r.va + o))))) ∧
             (o + sz ≤ 65536 → tePend e < 255 → Runs (.appendGrant r) s fun t =>
               TailIs t r.part page 1 (tePend e + 1) (o + sz) ∧
               ∃ q, Msg.appendWrite q ∈ t.agenda ∧ q.id = o ∧ q.pa = 65536 * page + teTail e ∧
                 q.data = List.replicate (o - teTail e) 0 ++ r.data))))) ∧
     (r.op = .reg →
       (∀ d, tailDone s r = some d → Runs (.sealArrival r) s (answers (caskReply r d.result 0 0 0))) ∧
       (tailDone s r = none → (¬ turn → Runs (.sealArrival r) s waits) ∧
         (turn → tailFull s r = true → Runs (.sealArrival r) s fun t => t = { s with agenda := .sealArrival r :: s.agenda }) ∧
         (turn → tailFull s r = false →
           (teState e = 0 ∨ teState e = 3 → Runs (.sealArrival r) s (answers (caskReply r 0 0 cSealed (w64 r.va)))) ∧
           (teState e = 1 ∨ teState e = 2 → Runs (.sealArrival r) s fun t =>
             TailIs t r.part page 2 (tePend e) (teTail e) ∧ t.tails = s.tails ++ [⟨page, true, r⟩] ∧
             (tePend e = 0 → Msg.sealEntryWrite page ∈ t.agenda)))))) ∧
   ∀ (s : State) (r : Req) (page : Nat), MemoryCanonical s → s.tails = [⟨page, true, r⟩] → r.op = .reg →
     let e := tailEntry s r.part page
     tePend e = 0 →
       (r.id = 0 → Runs (.sealEntryWrite page) s fun t => t.tails = [] ∧ t.mem = s.mem ∧
         t.agenda = s.agenda ++ [caskReply r (w64 (teTail e)) 0 0 0]) ∧
       (r.id ≠ 0 → r.id % 8 = 0 → LineOpen s (lineOf r.id) → Runs (.sealEntryWrite page) s fun t => t.tails = [] ∧
         memWord t r.id = putBits (dwordNow s r.id) 60 2 3 ∧ caskReply r (w64 (teTail e)) 0 0 0 ∈ t.agenda) ∧
       (r.id ≠ 0 → rangesFree s tailUnit [(r.id, 8)] = false → Runs (.sealEntryWrite page) s fun t =>
         t.tails = s.tails ∧ t.mem = s.mem ∧ Msg.sealEntryWrite page ∈ t.agenda)) ∧
  (∀ (s : State) (q page : Nat), MemoryCanonical s →
     let e := tailEntry s q page
     (caskPlace (part s q) page = false → Runs (.caskInit q page) s (CaskAnswers · q 2) ∧
       Runs (.caskInitZero q page) s (CaskAnswers · q 2) ∧ Runs (.caskFree q page) s (CaskAnswers · q 2)) ∧
     (caskPlace (part s q) page = true →
       (teState e ≠ 0 → let kept := fun (t : State) => CaskAnswers t q 1 ∧ tailEntry t q page = e
         Runs (.caskInit q page) s kept ∧ Runs (.caskInitZero q page) s kept) ∧
       (teState e = 0 →
         (Runs (.caskInit q page) s fun t => CaskAnswers t q 0 ∧ TailIs t q page 1 0 0 ∧ teRacked (tailEntry t q page) = 0 ∧
           teGen (tailEntry t q page) = teGen e) ∧
         (rangesFree s 0x85 [(65536 * page, 65536)] = false → Runs (.caskInitZero q page) s fun t =>
           t.mem = s.mem ∧ t.parts = s.parts ∧ t.tailCache = s.tailCache ∧ t.agenda.head? = some (.caskInitZero q page)) ∧
         (rangesFree s 0x85 [(65536 * page, 65536)] = true → (∀ i, i < 512 → mapGet? s.homes (512 * page + i) = none) →
           Runs (.caskInitZero q page) s fun t =>
           CaskAnswers t q 0 ∧ TailIs t q page 1 0 0 ∧
           ∀ a, 65536 * page ≤ a → a < 65536 * page + 65536 → memRead t.mem a = 0)) ∧
       (teState e ≠ 1 → teState e ≠ 2 → Runs (.caskFree q page) s (CaskAnswers · q 1)) ∧
       (teState e = 1 ∨ teState e = 2 → Runs (.caskFree q page) s fun t =>
         TailIs t q page 3 (tePend e) (teTail e) ∧ ⟨q, page⟩ ∈ t.sweeps ∧ Msg.reclaimSweepEnd page ∈ t.agenda)) ∧
     ∀ x, s.sweeps.find? (fun x => x.page == page) = some x →
       let f := tailEntry s x.part page
       let leased := s.leases.any fun l => l.isHome && l.page == page
       (tePend f ≠ 0 ∨ leased = true → Runs (.reclaimSweepEnd page) s fun t =>
         t = { s with agenda := s.agenda ++ [.reclaimSweepEnd page] }) ∧
       (tePend f = 0 → leased = false → Runs (.reclaimSweepEnd page) s fun t => CaskAnswers t x.part 0 ∧
         tailEntry t x.part page = w64 (at_ ((teGen f + 1) % 2 ^ 16) 48) ∧ (∀ y ∈ t.racks, y.page ≠ page) ∧ x ∉ t.sweeps ∧
         ∀ c ∈ clustersOf (part s x.part), ∀ line, line / 512 = page → line < 2 ^ 40 → cline? t c line = none))

/-! ### Device steps: copy engines and lane pools -/

/-- R85, R99 to R102, R113, R119, R121: what a copy engine does: a command that must wait takes no step, and one whose
bytes are written leaves its batch only when the keepers of its lines have answered; a copy between scratchpads of up to
128 bytes and a zero of one block of a held line are done in one step and leave their batch; and the report of the oldest
batch. R249, R250, R269, R271, R278, R287 to R289: what a lane pool does with the first command of a claim, on the
scratchpad as it sees it: it completes, faults late, or parks; a parked one is resumed or discarded; and the grant of a
waiting request in the pool of the row's executor. The model's own choices in it: log 5, 22, 24, 92, 103. -/
def Obligations.CopyAndPoolSteps : Prop :=
  ((∀ (s : State) (cl id : Nat) (c : CopyCmd), MemoryCanonical s → (cluster s cl).cmds.find? (fun c => c.id == id) = some c →
     let left := fun (t : State) => (∀ x ∈ (cluster t cl).cmds, x.id ≠ id) ∧ t.rows = s.rows ∧
       (batchAt t c.row c.batch).left = (batchAt s c.row c.batch).left - 1
     let again := Runs (.copyStep cl id) s fun t => t = { s with agenda := s.agenda ++ [.copyStep cl id] }
     (c.pos ≠ cmdTotal c → copyReady s cl c = false → again) ∧
     (c.pos = cmdTotal c → (engPending s (0x20 + cl) id (runLines c.dst) = true → again) ∧
       (engPending s (0x20 + cl) id (runLines c.dst) = false → c.node = none → Runs (.copyStep cl id) s left)) ∧
     (copyReady s cl c = true → c.node = none → c.pos = 0 → c.len ≠ 0 →
       (∀ va ka d o vb kb k u, c.kind = .cpy → c.dst = [⟨va, .spad d o, c.len, ka⟩] → c.src = [⟨vb, .spad k u, c.len, kb⟩] →
         o % 128 + c.len ≤ 128 → routerRefuses s d = false → routerRefuses s k = false → Runs (.copyStep cl id) s fun t =>
           left t ∧ PadStored s t d o (spadBytes s k u c.len)) ∧
       (∀ va pa key, c.kind = .cpyz → c.src = [] → c.len = 64 → pa % 64 = 0 → c.dst = [⟨va, .mem pa, 64, key⟩] →
         holdsEng s cl c.id (lineOf pa) = true → tierTakes s pa = true → (hline s (lineOf pa)).keep = KeepEntry.init →
         (hline s (lineOf pa)).waiting = [] → (hline s (lineOf pa)).txn = none → leased s (lineOf pa / 512) = false →
         staleInc s (0x20 + cl) 0 = false → Runs (.copyStep cl id) s fun t => left t ∧
           memBytes t.mem pa 64 = List.replicate 64 0 ∧ (hline t (lineOf pa)).reg = RegEntry.init))) ∧
   ∀ (s : State) (r : RowId) (pr : Nat) (b : Batch), locate s r = .bank pr → rowId s pr = r → inTransfer s (.bank pr) = false →
     rowState s pr ≠ stWait → (∀ i ∈ busySlots s (.bank pr), slotKind s (.bank pr) i ≠ 10) →
     let d := rowWord s pr 12
     batchOf s r ((bits d 16 16 + 2 ^ 16 - bits d 8 8) % 2 ^ 16) = some b → bits d 8 8 ≠ 0 → b.reported = false →
     (b.closed = true → b.left = 0 → bits d 8 8 = 1 → Runs (.batchReport r) s fun t =>
       bits (rowWord t pr 12) 8 8 = 0 ∧ bits (rowWord t pr 12) 32 32 = (bits d 32 32 + 1) % 2 ^ 32 ∧
       bit (rowWord t pr 10) 0 = (b.ev || bit (rowWord s pr 10) 0) ∧
       (∀ i, batchSlot s (.bank pr) b.num = some i → slotState t (.bank pr) i = 0)) ∧
     (b.left ≠ 0 → Runs (.batchReport r) s fun t => t = { s with execs := t.execs })) ∧
  ((∀ (s : State) (p k pr : Nat) (x : Claim) (cmd : VCmd) (op : VOp) (ctl : Ctl) (m : VMod),
     claimIn s p k = some x → x.cmds.head? = some cmd → vopOf cmd.op = some (op, ctl, m) →
     locate s x.row = .bank pr → d11Pool (rowWord s pr 11) = poolOf (execOf pr) → rowState s pr ≠ stWait →
     let c : VCtx := ⟨op, ctl.guard, m, x.marea, cmd.x, cmd.y, x.fn⟩
     let pad := spad s (p / 2)
     let parts := tornFor s p x c
     let unwatched := ∀ i ∈ busySlots s (.bank pr), slotKind s (.bank pr) i ≠ 10
     let now := fun (t : State) (P : Claim → Prop) => ∃ y, claimIn t p k = some y ∧ P y
     let completes := fun (mem : Memory) (t : State) => spad t (p / 2) = mem ∧ t.rows = s.rows ∧
       now t fun y => y.cmds = x.cmds.drop 1 ∧ y.last = cmd.seq ∧ y.parked = none
     let late := fun (f n : Nat) (t : State) => rowWord t pr 7 = w64 (at_ cmd.seq 32 + at_ f 24 + 2 ^ 23 + n) ∧
       RowKept s t pr [7] ∧ (x.row, 256, cmd.pc) ∈ t.late ∧ now t fun y => y.cmds = []
     let ends := fun (i : Instr) (e : VEnd) =>
       let left := afterSeen s p parts e.work.mem
       (e.stop = none → Runs i s (completes left)) ∧
       (∀ f n, e.stop = some (.late f n) → unwatched → Runs i s fun t => spad t (p / 2) = left ∧ late f n t) ∧
       (∀ off, e.stop = some (.park off) → Runs i s fun t => spad t (p / 2) = left ∧ t.rows = s.rows ∧
         now t fun y => y.cmds = x.cmds ∧ y.parked.isSome = true)
     (parts = [] → seenPad s p parts = (s, pad)) ∧
     (op ≠ .fnld → op ≠ .fnst →
       (x.parked = none → ends (.vectorExecute p k) (c.runCmd ⟨c.start, (seenPad s p parts).2⟩)) ∧
       ∀ run, x.parked = some run → ends (.vparkResume p k) (c.runCmd ⟨run, (seenPad s p parts).2⟩)) ∧
     (op = .fnld ∨ op = .fnst → x.parked = none → ∀ f n, c.tableCheck = some (.late f n) → unwatched →
       Runs (.vectorExecute p k) s fun t => late f n t ∧
         spad t (p / 2) = if op = .fnld then pad else memStore pad c.doff (((c.table.getD []).take (5 * n)).flatMap wordBytes)) ∧
     (∀ run, x.parked = some run → Runs (.vparkDiscard p k) s (completes (c.flush ⟨run, pad⟩).mem)) ∧
     (op = .fnst → x.parked = none → c.tableCheck = none → Runs (.vectorExecute p k) s
       (completes (memStore pad c.doff ((c.table.getD []).flatMap wordBytes)))) ∧
     (op = .fnld → x.parked = none → c.tableCheck = none → unwatched → Runs (.vectorExecute p k) s fun t =>
       spad t (p / 2) = pad ∧ RowKept s t pr [11] ∧ bit (rowWord t pr 11) 63 = true ∧
       bits (rowWord t pr 11) 56 7 = c.count % 2 ^ 7 ∧ bits (rowWord t pr 11) 37 19 = c.aoff / 16 % 2 ^ 19 ∧
       now t fun y => y.fn = some (tableAt pad c.aoff c.count) ∧ y.cmds = x.cmds.drop 1)) ∧
   ∀ (s : State) (p pr want marea : Nat) (r r' : RowId), p < 64 → locate s r = .bank pr →
     (Machine.pool s p).waiting.find? (fun w => w.1 == r) = some (r', want, marea) →
     let x := Machine.pool s p
     (canGrant x = true → poolOf (execOf pr) = p → Runs (.claimGrant p r) s fun t =>
       d11Valid (rowWord t pr 11) = true ∧ d11Pool (rowWord t pr 11) = p ∧
       d11Lanes (rowWord t pr 11) = min want (down32 (freeLanes x)) ∧
       (∀ w ∈ (Machine.pool t p).waiting, w.1 ≠ r) ∧
       ∃ c ∈ (Machine.pool t p).claims, c.row = r ∧ c.lanes = min want (down32 (freeLanes x)) ∧
         d11Claim (rowWord t pr 11) = c.num) ∧
     (canGrant x = false ∨ poolOf (execOf pr) ≠ p → Runs (.claimGrant p r) s fun t => t = s))

/-! ### Device steps: task hubs and tile engines -/

/-- R85, R350, R385 to R387, R423: the receipt of a post, releases and ageing. R93, R301, R309 to R311, R387: the dispatch
of the first ready node, also on an engine that has been declared dead, and the node that is parked on an engine. The
model's own choices in it: log 27, 29, 62, 67, 68. -/
def Obligations.HubSteps : Prop :=
  ((∀ (s : State) (p : PostReq),
     let q := p.row.part
     let d := hubOf s q p.exec
     let dd := dirDie s q p.va
     let x := readRecord s q p.runs
     let n := newNode d p (dwords 16 x.2.1)
     let answer := Msg.resultArrival ⟨p.row, p.exec, p.slot, p.tag, 0, 0, 0, 0⟩
     ((part s q).rst = true → Runs (.postReceive p) s fun t => t.hubs = s.hubs ∧ t.agenda = s.agenda) ∧
     ((part s q).rst = false → (hubDone s p).isSome = true → Runs (.postReceive p) s fun t =>
       t = { s with agenda := s.agenda ++ [answer] }) ∧
     ((part s q).rst = false → hubDone s p = none → rangesFree s taskHub (statusRange n) = false ∨ poolFull (hub s d) = true ∨
         linesQuiet s taskHub (memRanges p.runs) = false ∨ (dirFind s q p.va = none ∧ dirRoom s dd 1 = false) →
       Runs (.postReceive p) s fun t => t.hubs = s.hubs ∧ Msg.postReceive p ∈ t.agenda) ∧
     ((part s q).rst = false → hubDone s p = none → hubFull s d = false → poolFull (hub s d) = false →
       dirFind s q p.va = none → dirRoom s dd 1 = true → findNode s d q p.va = none →
           linesQuiet s taskHub (memRanges p.runs) = true →
       rangesFree s taskHub (statusRange n) = true → Runs (.postReceive p) s fun t => answer ∈ t.agenda ∧
           (hubDone t p).isSome = true ∧
         (x.2.2 = true ∨ nWord n 1 ≠ 0 → findNode t d q p.va = none ∧ dirFind t q p.va = none) ∧
         (x.2.2 = false → nWord n 1 = 0 → recordFault n = none → nPreds n ≠ 0 →
           dirFind t q p.va = some (dd, ⟨q, p.va, some d, 0, none⟩) ∧
           ∃ y, findNode t d q p.va = some y ∧ y.state = 1 ∧ y.left = nPreds n))) ∧
   (∀ (s : State) (q rec' : Nat),
     (dirFind s q rec' = none → (hub s (dirDie s q rec')).dir.length < 4096 → Runs (.nodeRelease q rec' none) s fun t =>
       dirFind t q rec' = some (dirDie s q rec', ⟨q, rec', none, 1, none⟩)) ∧
     (∀ d e, dirFind s q rec' = some (d, e) → e.held = none → Runs (.nodeRelease q rec' none) s fun t =>
       dirFind t q rec' = some (d, { e with credit := e.credit + 1 })) ∧
     (∀ d e h n, dirFind s q rec' = some (d, e) → e.held = some h → findNode s h q rec' = some n → n.die = h → n.state = 1 →
       (2 ≤ n.left → MemoryCanonical s → StatusApart s n → Runs (.nodeRelease q rec' none) s fun t =>
         findNode t h q rec' = some { n with left := n.left - 1, state := 1, since := s.time } ∧
         StatusIs t n (statusWord { n with left := n.left - 1, state := 1, since := s.time })) ∧
       (rangesFree s taskHub (statusRange n) = false → Runs (.nodeRelease q rec' none) s fun t => t.hubs = s.hubs ∧
         Msg.nodeRelease q rec' none ∈ t.agenda) ∧
       (n.left = 1 → nKind n = 8 → nCtr n = 0 → (hub s h).nodes = [n] → n.xlated = false →
         rangesFree s taskHub (statusRange n) = true →
         Runs (.nodeRelease q rec' none) s fun t => ∃ y, findNode t h q rec' = some y ∧ y.state = 2 ∧ y.left = 0 ∧
           y.xlated = true))) ∧
   ∀ (s : State) (d q rec' : Nat) (n : Node), findNode s d q rec' = some n → n.die = d →
     (n.state = 2 → n.prio < 3 → n.since + 32768 ≤ s.time → Runs (.nodeAging d q rec') s fun t =>
       findNode t d q rec' = some { n with prio := n.prio + 1, since := s.time }) ∧
     (n.state ≠ 2 ∨ 3 ≤ n.prio ∨ s.time < n.since + 32768 → Runs (.nodeAging d q rec') s fun t => t = s)) ∧
  ((∀ (s : State) (d : Nat) (n : Node), firstReady s d = some n → n.die = d → findNode s d n.part n.record = some n →
     n.xlated = true → rowBusy s n = false →
     (tileKind (nKind n) = true → extentsFree s n = false → Runs (.nodeDispatch d) s fun t => t = s) ∧
     ((tileKind (nKind n) = true → extentsFree s n = true) → rangesFree s taskHub (statusRange n) = false →
       Runs (.nodeDispatch d) s fun t => t = askRanges s (statusRange n)) ∧
     (rangesFree s taskHub (statusRange n) = true →
     let n' := { n with state := 3, unit := chooseUnit s n }
     let s' := writeStatus (putNode s n') n'
     (nKind n = 8 → Runs (.nodeDispatch d) s fun t => findNode t d n.part n.record = some n' ∧
       Msg.nodeDone d n.part n.record ∈ t.agenda) ∧
     (∀ r off, nKind n = 7 → n.runsA.head?.map (fun r : Run => r.place) = some (.row r off) → Runs (.nodeDispatch d) s fun t =>
       let w := arriveAccess s' ⟨r, 0, .store 8 (w64 (at_ 1 56 + bits (nBase n 2) 0 48)), 0, n.poster, 0, 8, 0, (nBase n 0).toNat⟩
       t = { w with agenda := w.agenda ++ [.nodeDone d n.part n.record] }) ∧
     (∀ cl, nKind n = 6 → chooseUnit s n = some cl → Runs (.nodeDispatch d) s fun t =>
       findNode t d n.part n.record = some n' ∧ ∃ c ∈ (cluster t cl).cmds, c.node = some (n.part, n.record) ∧ c.queue = 16 ∧
         c.dst = n.runsC ∧ c.src = n.runsA ∧ Msg.copyStep cl c.id ∈ t.agenda) ∧
     (∀ e, tileKind (nKind n) = true → chooseUnit s n = some e → extentsFree s n = true →
       (engineLost s n e = false → Runs (.nodeDispatch d) s fun t => Worked t e n) ∧
       (engineLost s n e = true → Runs (.nodeDispatch d) s fun t => findNode t d n.part n.record = some n' ∧
         (tile t e).busy = some (n.part, n.record) ∧ Msg.nodeDone d n.part n.record ∉ t.agenda.drop s.agenda.length)))) ∧
   (∀ (s : State) (d : Nat), firstReady s d = none → Runs (.nodeDispatch d) s fun t => t = s) ∧
   ∀ (s : State) (e : Nat) (n : Node), parkedNode s e = some n → tileKind (nKind n) = true → n.unit = some e →
     let free := rangesFree s taskHub (statusRange n)
     let asked := askRanges s (statusRange n)
     (extentsFree s n = true → free = true → engineLost s n e = false → Runs (.nparkResume e) s fun t => Worked t e n) ∧
     (extentsFree s n = false ∨ free = false → Runs (.nparkResume e) s fun t =>
       t = { asked with agenda := s.agenda ++ [.nparkResume e] }) ∧
     (free = true → Runs (.nparkFail e) s fun t =>
       KeptFault t n cFmt ∧ (tile t e).busy = none ∧ (tile t e).parked = none) ∧
     (free = false → Runs (.nparkFail e) s fun t => t = { asked with agenda := .nparkFail e :: s.agenda }))

/-- R85, R299, R300, R313, R383, R385, R386, R388, R408: how a node ends, which waits with its releases while a directory
is full, and what NRETRY does with a kept one. The model's own choices in it: log 26, 28, 29, 56, 60, 68, 103. -/
def Obligations.NodesEnd : Prop :=
  (∀ (s : State) (d q rec' pr : Nat) (n : Node), MemoryCanonical s → findNode s d q rec' = some n → n.die = d →
    locate s n.poster = .bank pr → inTransfer s (.bank pr) = false → StatusApart s n →
    (∀ i ∈ busySlots s (.bank pr), slotKind s (.bank pr) i ≠ 10) →
    let d13 := rowWord s pr 13
    let ended := { n with state := 4, xlated := false }
    let fit := releasesFit (nodeEnds s n) ended
    (writesPending s n = true →
      (n.state = 3 → Runs (.nodeDone d q rec') s fun t => t = { s with agenda := s.agenda ++ [.nodeDone d q rec'] }) ∧
      ∀ cause a, Runs (.nodeFault d q rec' cause a) s fun t => t = { s with agenda := s.agenda ++ [.nodeFault d q rec' cause a] }) ∧
    (writesPending s n = false →
    (n.state = 3 → n.ctr = [] → Runs (.nodeDone d q rec') s fun t =>
      dirFind t q rec' = none ∧ StatusIs t n (statusWord { n with state := 4 }) ∧
      rowWord t pr 13 = putBits d13 32 32 (bits d13 32 32 + 1) ∧ RowKept s t pr [13] ∧
      (fit = true → findNode t d q rec' = none ∧ ∀ a ∈ nSuccs n, Msg.nodeRelease q a.toNat (carriedEngine n) ∈ t.agenda) ∧
      (fit = false → findNode t d q rec' = some ended ∧ Msg.nodeDone d q rec' ∈ t.agenda) ∧
      (∀ e, n.unit = some e → tileKind (nKind n) = true → (tile t e).busy = none)) ∧
    (∀ va c o len key, n.state = 3 → n.ctr = [⟨va, .spad c o, len, key⟩] → fit = true → Runs (.nodeDone d q rec') s fun t =>
      findNode t d q rec' = none ∧ PadStored s t c o (leBytes 8 (leNat (spadBytes s c o 8) + 1))) ∧
    (∀ cause a, Runs (.nodeFault d q rec' cause a) s fun t => KeptFault t n cause ∧ dirFind t q rec' = none ∧
      StatusIs t n (statusWord { n with state := 5, cause := cause }) ∧
      rowWord t pr 13 = putBits d13 16 16 (bits d13 16 16 + 1) ∧ RowKept s t pr [13] ∧
      (ringLogn (ringRegs s (.fault q)) ≠ 0 → ringRoom (ringRegs s (.fault q)) = true →
        Msg.ringMessageWrite (.fault q) d ∈ t.agenda)))) ∧
  (∀ (s : State) (d q rec' : Nat) (n : Node), findNode s d q rec' = some n → n.die = d → n.state = 4 →
    (releasesFit s n = true → Runs (.nodeDone d q rec') s fun t => findNode t d q rec' = none ∧
      t = { s with hubs := t.hubs, agenda := s.agenda ++ (nSuccs n).map fun a => .nodeRelease q a.toNat (carriedEngine n) }) ∧
    (releasesFit s n = false → Runs (.nodeDone d q rec') s fun t => t = { s with agenda := s.agenda ++ [.nodeDone d q rec'] })) ∧
  ∀ (s : State) (q rec' : Nat),
    let answers := fun (t : State) (res : Nat) => (part t q).nretryBusy = false ∧ (part t q).nretryRes.toNat = res
    (keptNode s q rec' = none → Runs (.nodeRetry q rec') s (answers · 1) ∧ Runs (.nodeDrop q rec') s (answers · 1)) ∧
    ∀ n, keptNode s q rec' = some n →
      (Runs (.nodeDrop q rec') s fun t => answers t 0 ∧ n ∉ (hub t n.die).kept) ∧
      let x := readRecord (nretryAnswer s q 0) n.part n.recPa
      let m := { n with words := dwords 16 x.2.1 }
      (rangesFree s taskHub (statusRange n) = false → Runs (.nodeRetry q rec') s fun t => t.hubs = s.hubs ∧
        Msg.nodeRetry q rec' ∈ t.agenda) ∧
      (poolFull (hub s n.die) = true ∨ dirRoom s (dirDie s q rec') 1 = false ∨ linesQuiet s taskHub (memRanges n.recPa) = false →
        Runs (.nodeRetry q rec') s fun t => t = { s with agenda := s.agenda ++ [.nodeRetry q rec'] }) ∧
      ((hub s n.die).nodes = [] → dirRoom s (dirDie s q rec') 1 = true → linesQuiet s taskHub (memRanges n.recPa) = true →
        rangesFree s taskHub (statusRange n) = true → Runs (.nodeRetry q rec') s fun t =>
        x.2.2 = false → recordFault m = none → nKind m = 8 → nCtr m = 0 → answers t 0 ∧ n ∉ (hub t n.die).kept ∧
          ∃ y, findNode t n.die q rec' = some y ∧ y.state = 2 ∧ y.left = 0 ∧ y.words = m.words)

/-! ### Device steps: launches, rings, walks -/

/-- R85, R351, R375 to R384, R446: launch queues, forks, what the leader takes, the accepted launch that waits for
identifiers, how a row is made, and how a launch ends. The model's own choices in it: log 30, 31, 59, 62, 68, 77. -/
def Obligations.LaunchSteps : Prop :=
  (∀ (s : State) (q n : Nat) (tail : W32), n < (part s q).lq.length → Runs (.launchQueueRing q n tail) s fun t =>
    lq t q n = { lq s q n with tail := tail, rung := (lq s q n).rung ++ [(tail, (part s q).arrivals)] } ∧
    (part t q).arrivals = (part s q).arrivals + 1 ∧ t = { s with parts := t.parts }) ∧
  (∀ (s : State) (p : PostReq),
    let q := p.row.part
    let x := part s q
    (∀ v, hubDone s p = some v → Runs (.forkRequest p) s fun t =>
      t = { s with agenda := s.agenda ++ [.resultArrival ⟨p.row, p.exec, p.slot, p.tag, v, 0, 0, 0⟩] }) ∧
    (hubDone s p = none → x.rst = true → Runs (.forkRequest p) s fun t =>
      (part t q).forks = x.forks ∧ t.agenda = s.agenda) ∧
    (hubDone s p = none → x.rst = false → (x.taken.any fun k => sameFork k.src p) = true → Runs (.forkRequest p) s fun t =>
      t = setPart s q { x with taken := x.taken.map fun k => { k with src := .fork p } }) ∧
    (hubDone s p = none → x.rst = false → (x.taken.any fun k => sameFork k.src p) = false →
        (x.forks.any fun f => f.post.row == p.row && f.post.tag == p.tag) = false →
      Runs (.forkRequest p) s fun t => (part t q).forks = x.forks ++ [⟨p, x.arrivals⟩] ∧
        (part t q).arrivals = x.arrivals + 1 ∧ t = { s with parts := t.parts })) ∧
  (∀ (s : State) (q : Nat) (c : Candidate), (part s q).rst = false → (part s q).en = true →
    (launchList s q).length < 1024 →
    let read := checkQueues s q
    let ids := freeIds (afterReading read q c) q
    (part s q).taken = none →
    (entriesQuiet s q = false → Runs (.launchTake q) s fun t => t = s) ∧
    (entriesQuiet s q = true → nextCandidate read q = some c →
    let takes := fun (t : State) (d : List Word) (base : Nat) => ∃ x ∈ launchList t q, x.id = freeLaunch s q ∧ x.base = base ∧
      x.rows = dRows d ∧ x.entry = nth d 0 0 + nth d 1 0 ∧ x.args = dArgs d ∧ x.priv = sourcePriv c.src ∧ x.made = [] ∧
      ∀ e ∈ x.place, Msg.rowCreate q x.id (dieOf e) ∈ t.agenda
    let plain := fun d : List Word => 1 ≤ dRows d ∧ dRows d ≤ 2 ^ 24 ∧ fieldsLegal d (fromHost c.src) (sourcePriv c.src) = true ∧
      dImage d = false ∧ dCtrl d = false ∧ dCounter d = 0 ∧ level2 (dRows d) (dN1 d) (dN2 d) ≤ 65535
    (∀ n, c.src = .queue n → n < (part s q).lq.length →
      let rejects := fun (e : Nat) (t : State) => (lq t q n).head = (lq s q n).head + 1 ∧ (lq t q n).err.toNat = e ∧
        (lq t q n).ridx = BitVec.ofNat 24 (lq s q n).head.toNat ∧ t.launches = s.launches ∧ t.rows = read.rows
      (c.desc = none → Runs (.launchTake q) s (rejects 3)) ∧
      ∀ d, c.desc = some d → launchWaits s q 0 d = false →
        (2 ^ 24 < dRows d → dRows d < 2 ^ 25 → Runs (.launchTake q) s (rejects 1)) ∧
        (1 ≤ dRows d → dRows d ≤ 2 ^ 24 → fieldsLegal d true 0 = false → Runs (.launchTake q) s (rejects 2)) ∧
        (plain d → Runs (.launchTake q) s fun t => (lq t q n).head = (lq s q n).head + 1 ∧
          (∀ base, ids (dRows d) = some base → takes t d base ∧ (part t q).taken = none) ∧
          (ids (dRows d) = none → (part t q).taken = some ⟨c.src, d, [], none⟩ ∧ t.launches = s.launches))) ∧
    ∀ p, c.src = .fork p → hubFull s (leader s q) = false → Runs (.launchTake q) s fun t => ∀ d base, c.desc = some d →
      launchWaits s q p.priv d = false → plain d → ids (dRows d) = some base → takes t d base ∧
        Msg.resultArrival ⟨p.row, p.exec, p.slot, p.tag, w64 (freeLaunch s q), 0, 0, 0⟩ ∈ t.agenda ∧
        (hubDone t p).isSome = true)) ∧
  (∀ (s : State) (q : Nat) (k : TakenLaunch), (part s q).rst = false → (part s q).en = true → (launchList s q).length < 1024 →
    (part s q).taken = some k →
    (freeIds s q (dRows k.desc) = none → Runs (.launchTake q) s fun t => t = s) ∧
    (∀ base, freeIds s q (dRows k.desc) = some base → Runs (.launchTake q) s fun t => (part t q).taken = none ∧
      ∃ x ∈ launchList t q, x.id = freeLaunch s q ∧ x.base = base ∧ x.rows = dRows k.desc ∧ x.images = k.images ∧
        x.counter = k.counter ∧ x.source = k.src ∧ x.made = [] ∧ ∀ e ∈ x.place, Msg.rowCreate q x.id (dieOf e) ∈ t.agenda)) ∧
  (∀ (s : State) (q launch die : Nat) (x : Launch) (i : Nat), q < 63 → bit (part s q).trcCtl 4 = false → MemoryCanonical s →
    findLaunch s q launch = some x → nextRow x die = some i → x.id < 2 ^ 16 → x.base + i < 2 ^ 24 → nth x.place i 0 < 544 →
    let e := nth x.place i 0
    let bank := if bankTakes s q e = true then freeRow s e else none
    (∀ pr, bank = some pr → x.images[i]? = none → Runs (.rowCreate q launch die) s fun t =>
      rowWord t pr 1 = x.entry ∧ rowWord t pr 2 = w64 (at_ x.priv 16) ∧ rowWord t pr 3 = identityWord q x i ∧
      rowWord t pr 4 = domainWord x i ∧ Queued t pr ∧ locate t ⟨q, x.base + i⟩ = .bank pr ∧
      ∃ y, findLaunch t q launch = some y ∧ i ∈ y.made) ∧
    (∀ k, bank = none → freeCell s q = some k → k < 2 ^ 24 → Runs (.rowCreate q launch die) s fun t =>
      locate t ⟨q, x.base + i⟩ = .cellar (cellBase (part s q) + 1024 * k) ∧ (⟨q, x.base + i⟩ : RowId) ∈ (part t q).parked ∧
      ∃ y, findLaunch t q launch = some y ∧ i ∈ y.made) ∧
    (bank = none → freeCell s q = none → Runs (.rowCreate q launch die) s fun t =>
      Msg.rowCreate q launch die ∈ t.agenda ∧ t.rows = s.rows ∧ t.mem = s.mem)) ∧
  ∀ (s : State) (q launch : Nat) (x : Launch), findLaunch s q launch = some x →
    (x.finished.length ≠ x.rows → Runs (.launchComplete q launch) s fun t => t = s) ∧
    (∀ c, x.finished.length = x.rows → x.counter = some c → rangesFree s taskHub (memRanges [c]) = false →
      Runs (.launchComplete q launch) s fun t =>
        t = { askRanges s (memRanges [c]) with agenda := .launchComplete q launch :: s.agenda }) ∧
    ∀ n, x.finished.length = x.rows → x.counter = none → x.source = .queue n → n < (part s q).lq.length →
      Runs (.launchComplete q launch) s fun t => (lq t q n).done = (lq s q n).done + 1 ∧ findLaunch t q launch = none ∧
        (bit (lq s q n).cfg 4 = true → (q + 1, n + 1) ∈ t.vectors)

/-- R372, R393 to R399, R404 to R407: ring entries, the mailbox buffer of an executor, and page walks. The model's own
choices in it: log 57, 67, 68, 96. -/
def Obligations.RingsAndWalks : Prop :=
  (∀ (s : State) (r : Ring) (die : Nat) (h : HeldMsg), (s.heldMsgs.find? fun h => h.die == die && h.ring == r) = some h →
    let x := ringRegs s r
    let a := bits x.base 12 52 * 4096 + 32 * (x.tail.toNat % 2 ^ ringLogn x)
    (ringLogn x = 0 → Runs (.ringMessageWrite r die) s fun t => (ringRegs t r).drop = satInc x.drop ∧
      t.heldMsgs = dropFirst (· == h) s.heldMsgs ∧ t.agenda = s.agenda ∧ t.mem = s.mem) ∧
    (ringLogn x ≠ 0 → ringRoom x = true → MemoryCanonical s → LineOpen s (lineOf a) → Runs (.ringMessageWrite r die) s fun t =>
      memWord t a = h.msg.head ∧ memWord t (a + 8) = h.msg.a ∧ memWord t (a + 16) = h.msg.b ∧ memWord t (a + 24) = h.msg.c ∧
      ringRegs t r = { x with tail := x.tail + 1, drop := (ringRegs t r).drop } ∧
      (ringRoom { x with tail := x.tail + 1 } = true → (ringRegs t r).drop = x.drop ∧ t.heldMsgs = dropFirst (· == h) s.heldMsgs) ∧
      (ringRoom { x with tail := x.tail + 1 } = false → ∀ k, k < 4 →
        (t.heldMsgs.filter fun y => y.die == k && y.ring == r).length ≤ 64) ∧
      (bit x.base 4 = true → ringVector r ∈ t.vectors)) ∧
    (ringLogn x ≠ 0 → ringRoom x = true → rangesFree s ringUnit [(a, 32)] = false → Runs (.ringMessageWrite r die) s fun t =>
      t = { askRanges s [(a, 32)] with agenda := .ringMessageWrite r die :: s.agenda }) ∧
    (ringLogn x ≠ 0 → ringRoom x = false → Runs (.ringMessageWrite r die) s fun t =>
      Msg.ringMessageWrite r die ∈ t.agenda ∧ t.mem = s.mem ∧ (ringRegs t r).tail = x.tail ∧
      (∀ k, k < 4 → (t.heldMsgs.filter fun y => y.die == k && y.ring == r) =
        (s.heldMsgs.filter fun y => y.die == k && y.ring == r).take 64) ∧
      (s.heldMsgs.length ≤ 64 → t.heldMsgs = s.heldMsgs ∧ ringRegs t r = x ∧ t.agenda = s.agenda ++ [.ringMessageWrite r die]))) ∧
  (∀ (s : State) (e : Nat),
    ((exec' s e).outbox = [] → Runs (.mboxDrain e) s fun t => t = s) ∧
    ∀ m ms, (exec' s e).outbox = m :: ms →
      let r := if m.sel = 1 then Ring.hmbox else Ring.mbox m.row.part
      let x := ringRegs s r
      (ringLogn x = 0 → Runs (.mboxDrain e) s fun t => (exec' t e).outbox = ms ∧ (ringRegs t r).drop = satInc x.drop ∧
        t.heldMsgs = s.heldMsgs) ∧
      (ringLogn x ≠ 0 → ringRoom x = true → Runs (.mboxDrain e) s fun t => (exec' t e).outbox = ms ∧
        t.heldMsgs = s.heldMsgs ++ [⟨dieOf e, r, ⟨msgHead 5 0 (agentOf e) m.priv m.row, m.a, m.b, 0⟩⟩] ∧
        Msg.ringMessageWrite r (dieOf e) ∈ t.agenda)) ∧
  ∀ (s : State) (unit q : Nat) (va : Word),
    let die := if unit < 32 then unit / 8 else 4
    let u := checkWalk s die q (bits va 0 57)
    (∀ l, walk u die q (bits va 0 57) = .leaf l → Runs (.pageWalk unit q va) s fun t =>
      (mapGet t.tlbs unit []).head? = some l ∧ (mapGet t.llbs die []).head? = some l ∧ t.rows = u.rows ∧ t.mem = u.mem ∧
      t.execs = u.execs) ∧
    (∀ c i l, walk u die q (bits va 0 57) = .fault c i l → Runs (.pageWalk unit q va) s fun t =>
      (∀ e ∈ unitExecs unit, ∀ k, k < 4 → slot t e k =
        if (slot u e k).wait = .walk q va then { slot u e k with wait := .walkFault q (bits va 0 57 / 65536) c i l }
        else slot u e k) ∧ t = { u with execs := t.execs }) ∧
    (walk u die q (bits va 0 57) = .moving → Runs (.pageWalk unit q va) s fun t =>
      t = { s with agenda := s.agenda ++ [.pageWalk unit q va] })

/-! ### Device steps: registers -/

/-- R69, R70, R137, R198, R378, R392, R427, R437, R440, R441, R443: what the writes of a partition's registers do. R67,
R389, R414, R437, R461, R462, R464, R465: keys, the slice table, the hot-page trackers, traces, the power state and the
rollback floor. The model's own choices in it: log 5, 6, 13, 19, 33, 52, 79, 84, 95. -/
def Obligations.RegisterSteps : Prop :=
  ((∀ (s : State) (q : Nat) (v : Word),
     Runs (.ptRootWrite q v) s fun t => (part t q).ptRoot = field v 14 32 ||| field v 0 1 ∧
       (∀ k, ∀ l ∈ mapGet t.tlbs k [], l.part ≠ q) ∧ (∀ k, ∀ l ∈ mapGet t.llbs k [], l.part ≠ q) ∧
       (∀ k, ∀ p ∈ mapGet t.walkers k [], p.part ≠ q) ∧ t.mem = s.mem ∧ t.rows = s.rows) ∧
   (∀ (s : State) (q : Nat) (v : Word),
     let p := part s q
     let c := (327680 - bits v 32 19) * 6 * hCount p
     let m := field v 63 1 ||| field v 32 19 ||| field v 0 32
     let caches := bits v 32 19 ≤ 327680 ∧ (bit v 63 = true → bits v 0 32 ≠ 0 → c ≠ 0 ∧ (bits v 0 32 - 1) / c < 2 ^ 15)
     (running s q = false → caches → Runs (.pmemCfgWrite q v) s fun t => t = setPart s q { p with pmem := m }) ∧
     (running s q = true ∨ ¬ caches → Runs (.pmemCfgWrite q v) s (RefusesConfig q s))) ∧
   (∀ (s : State) (q : Nat) (v : Word),
     let p := { part s q with pcask := field v 44 12 ||| field v 16 24 }
     let fits := inFlat p (tailBase p) (tailLen p) = true ∧ rackRows p ≤ flats p
     (running s q = false → fits → Runs (.pcaskCfgWrite q v) s fun t => t = setPart (flushTails s q) q p) ∧
     (running s q = true ∨ ¬ fits → Runs (.pcaskCfgWrite q v) s (RefusesConfig q s))) ∧
   (∀ (s : State) (q : Nat) (v : Word),
     let p := { part s q with prow := field v 44 20 ||| field v 16 24 }
     let fits := inFlat p (cellBase p) (cellLen p) = true ∧ hitsTail p (cellBase p) (cellLen p) = false ∧
       hitsRack p (cellBase p) (cellLen p) = false
     (running s q = false → fits → Runs (.prowCfgWrite q v) s fun t => t = setPart s q p) ∧
     (running s q = true ∨ ¬ fits → Runs (.prowCfgWrite q v) s (RefusesConfig q s))) ∧
   (∀ (s : State) (q : Nat) (v : Word),
     let p := { part s q with psave := field v 30 10 }
     let b := saveBase p
     let fits := inFlat p b (2 ^ 30) = true ∧ hitsCell p b (2 ^ 30) = false ∧ hitsTail p b (2 ^ 30) = false ∧
       hitsRack p b (2 ^ 30) = false
     (running s q = false → fits → Runs (.psaveCfgWrite q v) s fun t => t = setPart s q p) ∧
     (running s q = true ∨ ¬ fits → Runs (.psaveCfgWrite q v) s (RefusesConfig q s))) ∧
   (∀ (s : State) (q : Nat) (v : Word),
     let set := { part s q with pbw := field v 32 16 ||| field v 0 16, tokens := 1024 * bits v 32 16 }
     (bits (part s q).pbw 0 16 = 0 → Runs (.pbwWrite q v) s fun t => t = setPart s q set) ∧
     (bits (part s q).pbw 0 16 ≠ 0 → Runs (.pbwWrite q v) s fun t =>
       t = setPart { s with count := s.count + 1 } q { set with bwStall := (part t q).bwStall })) ∧
   (∀ (s : State) (q : Nat), (Runs (.bwStallRead q) s fun t => (part t q).bwStall = 0 ∧ t.rows = s.rows ∧ t.mem = s.mem) ∧
     Runs (.badcfgClear q) s fun t => t = setPart s q { part s q with badcfg := false }) ∧
   ∀ (s : State) (q : Nat) (v : Word),
     let p := part s q
     let w := fun off => Instr.registerWrite (some q) off v
     (Runs (w 8) s fun t => exec (.ptRootWrite q v) s = .next t) ∧ (Runs (w 0x180) s fun t => exec (.trcCtlWrite q v) s = .next t) ∧
     (bit v 3 = true → Runs (w 0) s fun t => (part t q).badcfg = false) ∧
     (∀ n, n < 4 → bits v 32 32 ≠ (lq s q n).tail.toNat → Runs (w (0x48 + 32 * n)) s fun t =>
       exec (.launchQueueRing q n (BitVec.ofNat 32 (bits v 32 32))) s = .next t) ∧
     (Runs (w 0x168) s fun t => (part t q).pgDst = field v 16 48) ∧ (Runs (w 0x170) s fun t => (part t q).pgPte = field v 3 61) ∧
     (Runs (w 0x310) s fun t => t = s) ∧
     (p.caskBusy = false → bits v 6 2 = 1 → Runs (w 0x140) s fun t => (part t q).caskBusy = true ∧
       Msg.caskInit q (bits v 16 48) ∈ t.agenda) ∧
     (p.pgBusy = false → bits v 13 3 = 4 → Runs (w 0x160) s fun t => (part t q).pgBusy = true ∧
       Msg.migrate q (bits v 16 48) ∈ t.agenda) ∧
     (q < 32 → p.pctlBusy = false → bits v 2 2 = 1 → Runs (.registerWrite none (256 * q + 0x60) v) s fun t =>
       (part t q).pctlBusy = true ∧ Msg.enable q ∈ t.agenda) ∧
     (q < 32 → (p.en = true ∨ s.hub.mgmtHalted = true → Runs (.registerWrite none (256 * q) v) s fun t => t = s) ∧
       (p.en = false → s.hub.mgmtHalted = false → Runs (.registerWrite none (256 * q) v) s fun t => (part t q).pdef0 = v))) ∧
  ((∀ (s : State) (k : Nat),
     (Runs (.keyLoad k) s fun t => keySlot t k = ⟨true, (keySlot s k).gen + 1, s.hub.keyData⟩ ∧
       t.hub.keyData = List.replicate 8 0 ∧ t.hub.keyBusy = false ∧ t = { s with hub := t.hub }) ∧
     Runs (.keyClear k) s fun t => keySlot t k = ⟨false, (keySlot s k).gen + 1, []⟩ ∧ t.hub.keyBusy = false ∧
       t = { s with hub := t.hub }) ∧
   (∀ (s : State) (v : BitVec 128), Runs (.gsEntryWrite v) s fun t =>
     mapGet t.hub.gsTab s.hub.gsWidx.toNat ⟨0, 0⟩ = ⟨v.extractLsb' 64 64, v.extractLsb' 0 32⟩ ∧
     t.hub.gsWidx = s.hub.gsWidx + 1 ∧ t.hub.gsFull = (s.hub.gsWidx + 1 == s.hub.gsRidx) ∧ t = { s with hub := t.hub }) ∧
   (∀ (s : State) (d : Nat),
     (Runs (.hptCandRead d) s fun t => t = { s with count := t.count, hubs := t.hubs } ∧ s.count < t.count ∧
       hub t d = { hub s d with hptSkip := (hub t d).hptSkip } ∧ (hub s d).hptSkip ≤ (hub t d).hptSkip ∧
       let page := bits (hptCandRead s d).2 16 48
       (hptCandRead s d).1 = t ∧ (page ≠ 0 → caskPage s page = false ∧ pinpPage s page = false)) ∧
     Runs (.hptSkipRead d) s fun t => hub t d = { hub s d with hptSkip := 0 } ∧ t = { s with hubs := t.hubs }) ∧
   (∀ (s : State) (q : Nat) (v : Word), Runs (.trcCtlWrite q v) s fun t => t.rows = s.rows ∧ t.spads = s.spads ∧
     (part t q).trcCtl = (if 10 < bits v 0 4 then field v 12 52 ||| field v 4 2 else field v 12 52 ||| field v 0 6) ∧
     (bits (part s q).trcCtl 0 4 ≠ 0 → t.mem = s.mem)) ∧
   (∀ (s : State) (q e : Nat) (p : Part), s.parts = [(q, p)] → MemoryCanonical s →
     (bit p.trcCtl 4 = true → bits p.trcCtl 0 4 ≠ 0 → (clustersOf p).contains (clusterOf e) = true →
       let a := bits p.trcCtl 12 52 * 4096 + 16 * (p.trcTail.toNat % (2 ^ bits p.trcCtl 0 4 * 65536))
       Runs (.traceTimeRecord e) s fun t => memWord t a = w64 (at_ 3 60 + at_ e 51) ∧ memWord t (a + 8) = w64 s.time ∧
         (part t q).trcTail = p.trcTail + 1) ∧
     (bit p.trcCtl 4 = false → Runs (.traceTimeRecord e) s fun t => t = s)) ∧
   (∀ (s : State) (v : Word),
     let n := BitVec.ofNat 3 (bits v 0 3)
     (5 ≤ bits v 0 3 → Runs (.pwrCtlWrite v) s fun t => t = s) ∧
     (bits v 0 3 < 5 → s.hub.changing = true → Runs (.pwrCtlWrite v) s fun t =>
       t = { s with hub := { s.hub with pwrCtl := n, pwrNext := some n } }) ∧
     (bits v 0 3 < 5 → s.hub.changing = false → maxState s n ≠ s.hub.pwrCur → Runs (.pwrCtlWrite v) s fun t =>
       t = { s with hub := { s.hub with pwrCtl := n, pwrNext := some n, changing := true, trans := s.hub.trans + 1 } })) ∧
   (∀ (s : State), (s.hub.changing = true → Runs .clockChangeDone s fun t => t.time = s.time + 2000 ∧
       t.hub.changing = false ∧ t.hub.pwrCur = maxState s (s.hub.pwrNext.getD s.hub.pwrCtl) ∧ t.hub.pwrNext = none ∧
       t = { s with time := t.time, hub := t.hub }) ∧
     (s.hub.changing = false → Runs .clockChangeDone s fun t => t = s)) ∧
   (∀ (s : State) (v : Word),
     let floor := mapGet s.hub.lt 0x204 0
     (s.hub.ltIdx.toNat = 0x204 → floor < v.toNat → Runs (.rollbackFloorWrite v) s fun t =>
       mapGet t.hub.lt 0x204 0 = v.toNat ∧ mapGet t.hub.ltNv 0x204 0 = v.toNat) ∧
     (s.hub.ltIdx.toNat ≠ 0x204 ∨ v.toNat ≤ floor → Runs (.rollbackFloorWrite v) s fun t => t = s)) ∧
   ∀ (s : State) (v : Word),
     let w := fun off => Instr.registerWrite none off v
     (Runs (w 0x2700) s fun t => t.hub.ltIdx.toNat = bits v 0 32) ∧
     (Runs (w 0x2500) s fun t => exec (.pwrCtlWrite v) s = .next t) ∧
     (Runs (w 0x2708) s fun t => exec (.rollbackFloorWrite v) s = .next t) ∧
     (Runs (w 0x2210) s fun t => exec (.gsEntryWrite (v ++ s.hub.gsLow)) s = .next t) ∧
     (bit v 0 = true → Runs (w 0x2800) s fun t => Msg.warmReset ∈ t.agenda) ∧
     (s.hub.keyBusy = false → s.hub.mgmtHalted = false → bits v 8 2 = 1 → Runs (w 0x2000) s fun t =>
       t.hub.keyBusy = true ∧ Msg.keyLoad (bits v 0 6) ∈ t.agenda))

/-! ### Device steps: pages -/

/-- R77, R410: PIN, PINP and UNPIN; R411, R412: RETIRE. R411, R412, R413: MIGRATE and SPUNMAP: what refuses them, what
starts them, what they wait for, and what they leave. A line that is pinned or moved and that no array holds is read from
the stack first, where errors may be found. The model's own choices in it: log 6, 32, 66, 67, 68. -/
def Obligations.PageSteps : Prop :=
  ((∀ (s : State) (q page : Nat),
     let pins := fun (i : Instr) (k : Nat) =>
       (ownPage s q page = false → Runs i s (PageAnswers · q 2)) ∧
       (ownPage s q page = true →
         ((∃ l, l / 512 = page ∧ 8 < pinnedWays s page l) → Runs i s fun t => PageAnswers t q 1 ∧
           t = { s with parts := t.parts }) ∧
         ((∀ l, l / 512 = page → pinnedWays s page l ≤ 8) → (∃ l, l / 512 = page ∧ tierTakes s (128 * l) = false) →
             Runs i s fun t =>
           t = { s with agenda := (if k = 1 then Msg.pin q page else Msg.pinp q page) :: s.agenda }) ∧
         ((∀ l, l / 512 = page → pinnedWays s page l ≤ 8 ∧ tierTakes s (128 * l) = true) →
             (s.dlines.map fun x => x.1).Nodup → Runs i s fun t =>
           PageAnswers t q 0 ∧ (∀ l, (dline t l).pin = if l / 512 = page then k else (dline s l).pin) ∧
           ((∀ l, l / 512 = page → inTier (part s q) (128 * l) = false) → t.rows = s.rows ∧ t.homes = s.homes ∧
             ((∀ l, l / 512 = page → held s l = true) → t = { s with dlines := t.dlines, parts := t.parts }))))
     pins (.pin q page) 1 ∧ pins (.pinp q page) 2) ∧
   (∀ (s : State) (q page : Nat),
     (ownPage s q page = false → Runs (.unpin q page) s (PageAnswers · q 2)) ∧
     (ownPage s q page = true → Runs (.unpin q page) s fun t => PageAnswers t q 0 ∧
       (∀ l, (dline t l).pin = if l / 512 = page then 0 else (dline s l).pin) ∧
       t = { s with dlines := t.dlines, parts := t.parts })) ∧
   ∀ (s : State) (q page : Nat),
     (ownPage s q page = true → (s.rehomed.any fun x => x.1 == page) = true → Runs (.retire q page) s fun t => PageAnswers t q 0 ∧
       t.rehomed = s.rehomed.filter fun x => x.1 != page) ∧
     (ownPage s q page = false ∨ (s.rehomed.any fun x => x.1 == page) = false → Runs (.retire q page) s fun t => PageAnswers t q 2 ∧
       t.rehomed = s.rehomed)) ∧
  ((∀ (s : State) (q page : Nat), MemoryCanonical s →
     let e := pgLeaf s q
     let pte := (part s q).pgPte.toNat
     let dst := (part s q).pgDst.toNat / 65536
     let valid := pageValid s q page
     let free := rangesFree s taskHub [(pte, 8)]
     let good := leafMatches e page false = true ∧ inFlat (part s q) (65536 * dst) 65536 = true
     let still := extentsHeld s (inPage page) = false ∧ pageQuiet s page = true
     let waits := fun t : State => t.mem = s.mem ∧ t.moves = s.moves ∧ Msg.migrate q page ∈ t.agenda
     let found := s.moves.find? fun m => m.part == q && m.page == page
     (found = none → valid = false → Runs (.migrate q page) s (PageAnswers · q 2)) ∧
     (found = none → valid = true → free = false → Runs (.migrate q page) s waits) ∧
     (found = none → valid = true → free = true → migrationBusy s q page = true → Runs (.migrate q page) s (PageAnswers · q 1)) ∧
     (found = none → valid = true → free = true → migrationBusy s q page = false → ¬ good →
       Runs (.migrate q page) s (PageAnswers · q 2)) ∧
     (found = none → valid = true → migrationBusy s q page = false → good → pte % 8 = 0 → LineOpen s (lineOf pte) →
       Runs (.migrate q page) s fun t =>
         memWord t pte = putBits e 49 1 1 ∧ (⟨q, page, dst, pte⟩ : Migration) ∈ t.moves ∧ Msg.migrate q page ∈ t.agenda ∧
         ∀ k, ∀ l ∈ mapGet t.tlbs k [], l.part = q → l.pte ≠ pte) ∧
     ∀ m, found = some m →
       (¬ still → Runs (.migrate q page) s fun t => t = { s with agenda := s.agenda ++ [.migrate q page] }) ∧
       (still → rangesFree s taskHub [(m.pte, 8), (65536 * m.dst, 65536)] = false → Runs (.migrate q page) s waits) ∧
       (still → rangesFree s taskHub [(m.pte, 8), (65536 * m.dst, 65536)] = true →
         (∀ i, i < 512 → mapGet? s.homes (512 * page + i) = none ∧ mapGet? s.homes (512 * m.dst + i) = none) →
         m.dst ≠ page → m.pte / 65536 ≠ m.dst → m.pte / 65536 ≠ page → m.pte % 8 = 0 → LineOpen s (lineOf m.pte) →
         let u := checkRange s q (65536 * page) 65536
         ((∀ i, i < 512 → held s (512 * page + i) = true) → u = s) ∧
         Runs (.migrate q page) s fun t => PageAnswers t q 0 ∧
           (page, m.dst) ∈ t.rehomed ∧ (t.moves.all fun m => m.part != q) = true ∧
           (∀ i, i < 65536 → memRead t.mem (65536 * m.dst + i) = homeByte u (65536 * page + i)) ∧
           memWord t m.pte = putBits (putBits (dwordNow s m.pte) 49 1 0) 16 30 m.dst)) ∧
   ∀ (s : State) (q page : Nat), MemoryCanonical s →
     let e := pgLeaf s q
     let pte := (part s q).pgPte.toNat
     let valid := pageValid s q page
     let free := rangesFree s taskHub [(pte, 8)]
     let found := s.unmaps.find? fun u => u.part == q && u.page == page
     let again := fun t : State => t.mem = s.mem ∧ t.unmaps = s.unmaps ∧ Msg.spunmap q page ∈ t.agenda
     (found = none → valid = false → Runs (.spunmap q page) s (PageAnswers · q 2)) ∧
     (found = none → valid = true → free = false → Runs (.spunmap q page) s again) ∧
     (found = none → valid = true → free = true → leafMatches e page true = false → Runs (.spunmap q page) s (PageAnswers · q 2)) ∧
     (found = none → valid = true → leafMatches e page true = true → pte % 8 = 0 → LineOpen s (lineOf pte) →
       Runs (.spunmap q page) s fun t =>
         memWord t pte = putBits e 63 1 0 ∧ (⟨q, page, e⟩ : Unmapping) ∈ t.unmaps ∧ Msg.spunmap q page ∈ t.agenda ∧
         ∀ k, ∀ l ∈ mapGet t.tlbs k [], l.part = q → l.pte ≠ pte) ∧
     ∀ u, found = some u →
       let c := bits u.leaf 11 5
       let off := 65536 * bits u.leaf 4 7
       let still := extentsHeld s (inSpadPage c off) = false ∧ pageQuiet s page = true
       (¬ still → Runs (.spunmap q page) s fun t => t = { s with agenda := s.agenda ++ [.spunmap q page] }) ∧
       (still → rangesFree s taskHub [(65536 * page, 65536)] = false → Runs (.spunmap q page) s again) ∧
       (still → rangesFree s taskHub [(65536 * page, 65536)] = true →
         Runs (.spunmap q page) s fun t => PageAnswers t q 0 ∧
           (∀ i, i < 65536 → memRead t.mem (65536 * page + i) = memRead (spad s c) (off + i)) ∧ t.spads = s.spads))

/-! ### Device steps: pre-emption -/

/-- R61, R72, R417, R418, R428, R432: requests on one cluster, the forced freeze, and the streaming out of a cluster.
R389, R390, R430: the restore of a cluster, and the slice table. The model's own choices in it: log 12, 31, 33, 37, 44,
45, 46, 67, 96. -/
def Obligations.Preemption : Prop :=
  ((∀ (s : State) (q c : Nat), c < 32 →
     let mask := BitVec.ofNat 32 (2 ^ c)
     let asks := fun (i : Instr) (m : Msg) (rm : Bool) =>
       ((cluster s c).pre = none → Runs i s fun t => (cluster t c).pre = some ⟨q, 1, [], rm, false⟩ ∧
         (∀ pr ∈ rowsOn s q c, bit (rowWord t pr 10) 3 = true) ∧
         ∀ e ∈ execsOf c, (exec' t e).preCyc = 0) ∧
       (∀ p, (cluster s c).pre = some p → p.part = q → Runs i s fun t =>
         (cluster t c).pre = some { p with remove := p.remove || rm } ∧ t.rows = s.rows) ∧
       (∀ p, (cluster s c).pre = some p → p.part ≠ q → Runs i s fun t =>
         (cluster t c).pre = some p ∧ m ∈ t.agenda ∧ t.rows = s.rows)
     asks (.evict q mask) (.evict q mask) false ∧ asks (.remove q mask) (.remove q mask) true) ∧
   (∀ (s : State) (q : Nat) (cmask : BitVec 32),
     (tierBusy s q = false → Runs (.addCluster q cmask) s fun t =>
       (part t q).pdef0 = (part s q).pdef0 ||| w64 (at_ cmask.toNat 32) ∧ t.mem = s.mem ∧ t.rows = s.rows) ∧
     (tierBusy s q = true → Runs (.addCluster q cmask) s fun t => t = { s with agenda := s.agenda ++ [.addCluster q cmask] })) ∧
   (∀ (s : State) (cl : Nat) (x : PreReq), (cluster s cl).pre = some x →
     let q := x.part
     let begins := x.stage = 4 ∨ (x.stage = 1 ∧ phaseOver s q cl = true)
     let next := if tierBusy s q then 4 else 2
     (¬ begins → Runs (.forcedFreeze cl) s fun t => t = s) ∧
     (begins → rowsOn s q cl = [] → Runs (.forcedFreeze cl) s fun t =>
       (cluster t cl).pre = some { x with stage := next } ∧ t.rows = s.rows) ∧
     ∀ pr, begins → rowsOn s q cl = [pr] → q ≠ 63 → locate s (rowId s pr) = .bank pr →
       rowState s pr ≠ stFrozen → rowState s pr ≠ stParked →
       (inTransfer s (.bank pr) = true ∨ tierBusy s q = true → Runs (.forcedFreeze cl) s fun t =>
         (cluster t cl).pre = some { x with stage := 4 } ∧ t.rows = s.rows) ∧
       (inTransfer s (.bank pr) = false → tierBusy s q = false → Runs (.forcedFreeze cl) s fun t => rowState t pr = stFrozen ∧
         (cluster t cl).pre = some { x with stage := 2, froze := x.froze ++ [rowId s pr] })) ∧
   ∀ (s : State) (cl : Nat) (x : PreReq), (cluster s cl).pre = some x → MemoryCanonical s →
     (x.stage = 2 → Runs (.evictionStreaming cl) s fun t => (cluster t cl).pre = some { x with stage := 3 } ∧
       listCount t x.part cl = 0 ∧ t.rows = s.rows) ∧
     (x.stage = 3 → streamReady s x.part cl = false → Runs (.evictionStreaming cl) s fun t => t = s) ∧
     (x.stage = 3 → streamReady s x.part cl = true → rowsOn s x.part cl = [] → x.remove = false → x.slice = false →
       s.hub.gsWait.contains cl = false → (Machine.pool s (2 * cl)).claims = [] → (Machine.pool s (2 * cl + 1)).claims = [] →
       (s.caches.all fun y => y.1 / 2 ^ 40 != cl) = true → Runs (.evictionStreaming cl) s fun t =>
         (cluster t cl).pre = none ∧ (cluster t cl).resident = none ∧ (cluster t cl).halted = false ∧
         x.part ∈ (cluster t cl).evicted ∧
         (∀ i, i < 2 ^ 23 → memRead t.mem (saveSlot s x.part cl + i) = memRead (spad s cl) i) ∧
         ∀ k ∈ (cluster s cl).cmds, k.row.part = x.part → inSpad cl (k.dst ++ k.src ++ k.idx) = true →
           k ∉ (cluster t cl).cmds ∧ k ∈ (cluster t cl).heldCmds)) ∧
  ((∀ (s : State) (q c : Nat), c < 32 → MemoryCanonical s →
     let mask := BitVec.ofNat 32 (2 ^ c)
     ((cluster s c).pre.isSome = true → Runs (.restore q mask) s fun t =>
       t = { s with agenda := s.agenda ++ [.restore q mask] }) ∧
     ((cluster s c).pre = none → (cluster s c).evicted.contains q = true → listCount s q c = 0 →
       let u := checkBulk s q (saveSlot s q c) (2 ^ 23)
       Runs (.restore q mask) s fun t =>
       (cluster t c).resident = some q ∧ q ∉ (cluster t c).evicted ∧ t.rows = s.rows ∧
       ((∀ e ∈ tilesOf c, ∀ x, mapGet? s.saves (tileKey q e) = some x → x.full = false) → t.mem = u.mem) ∧
       (∀ i, i < 2 ^ 23 → memRead (spad t c) i = if staleSaved u (saveSlot s q c) (2 ^ 23) then homeByte u (saveSlot s q c + i)
         else memRead u.mem (saveSlot s q c + i)) ∧
       ∀ k ∈ (cluster s c).heldCmds, k.row.part = q → k ∈ (cluster t c).cmds ∧ Msg.copyStep c k.id ∈ t.agenda)) ∧
   ∀ (s : State),
     let due := s.hub.gsEn = true ∧ s.hub.gsBusy = false ∧ entryDue s = true
     let pset := (mapGet s.hub.gsTab s.hub.gsRidx.toNat ⟨0, 0⟩).pset
     (¬ due → Runs .sliceEntry s fun t => t = s) ∧
     (due → Runs .sliceEntry s fun t => t.hub.gsRidx = s.hub.gsRidx + 1 ∧
       ∀ c q, c < 32 → residentOn s c = some q → (incoming s pset c).isSome = true → pset.getLsbD q = false →
         ((cluster s c).pre = none → (cluster t c).pre = some ⟨q, 1, [], false, true⟩ ∧ t.hub.gsBusy = true) ∧
         ∀ y, (cluster s c).pre = some y → y.part ≠ q → c ∈ t.hub.gsWait ∧ t.hub.gsBusy = true ∧ (cluster t c).pre = some y))

/-! ### Device steps: ENABLE, DISABLE, RESET -/

/-- R85, R96, R162, R440, R441, R442, R453: what the operations of PCTL do to a partition. The model's own choices in it:
log 34, 42, 43, 102. -/
def Obligations.PartitionControl : Prop :=
  (∀ (s : State) (q : Nat),
    let p := part s q
    let u := (readImage s q p.pimg.toNat).1
    let code := imgCheck (readImage s q p.pimg.toNat).2 2 (keyHash p)
    (mayEnable s q = false → Runs (.enable q) s fun t => t = setPart s q { p with pctlBusy := false, badcfg := true }) ∧
    (mayEnable s q = true → imageQuiet s p.pimg.toNat = false → Runs (.enable q) s fun t =>
      t = { s with agenda := s.agenda ++ [.enable q] }) ∧
    (∀ x xs l pr, q < 63 → mayEnable s q = true → imageQuiet s p.pimg.toNat = true → ctlOf p = x :: xs → freeIds u q 1 = some l →
      freeRow u (512 + x) = some pr → Runs (.enable q) s fun t => (part t q).img.toNat = code ∧ (part t q).pctlBusy = false ∧
        (code ≠ 0 → (part t q).badcfg = true ∧ (part t q).en = p.en ∧ t.rows = s.rows) ∧
        (code = 0 → (part t q).badcfg = p.badcfg ∧ (part t q).en = true ∧ Queued t pr ∧
          (part t q).spwin = field (part t q).spwin 28 29 ∧
          rowWord t pr 1 = p.pimg + w64 (64 + imgEntry (readNow u p.pimg.toNat 64)) ∧ rowWord t pr 2 = w64 (at_ 1 16) ∧
          rowWord t pr 33 = p.pimg))) ∧
  (∀ (s : State) (q : Nat),
    let p := part s q
    (running s q = true → Runs (.disable q) s fun t => t = setPart s q { p with pctlBusy := false, badcfg := true }) ∧
    (running s q = false → Runs (.disable q) s fun t => t = setPart s q { p with pctlBusy := false, en := false })) ∧
  ∀ (s : State) (q : Nat),
    let ready := resetReady (freezeAll (setPart s q { part s q with rst := true }) q) q
    (ready = false → Runs (.reset q) s fun t => (part t q).rst = true ∧ Msg.reset q ∈ t.agenda) ∧
    (ready = true → leasedOut s q = true → Runs (.reset q) s fun t => (part t q).rst = true ∧ Msg.reset q ∈ t.agenda ∧
      ∀ l ∈ t.leases, l.isHome = true → ownedBy (part s q) (65536 * l.page) = true → l.revoking = true) ∧
    (ready = true → leasedOut s q = false → (part s q).en = false →
        Runs (.reset q) s fun t => (part t q).rst = false ∧ (part t q).pctlBusy = false ∧
      (q + 1, 7) ∈ t.vectors ∧ (part t q).forks = [] ∧ (part t q).taken = none ∧ (∀ d, ∀ n ∈ (hub t d).nodes, n.part ≠ q) ∧
      (∀ d, ∀ n ∈ (hub t d).kept, n.part ≠ q) ∧ (∀ p, ∀ x ∈ (Machine.pool t p).claims, x.row.part ≠ q) ∧
      (∀ x ∈ (part t q).lq, x.head = x.tail) ∧ ∀ d, ∀ x ∈ (hub t d).dir, x.part ≠ q)

/-! ### Device steps: the host port, the storage port, the peer ports -/

/-- R61, R66, R85, R96, R444, R446: a posted write and a read of a function of the host port. R450: a ring of a submission
queue, and a completion. R429, R449: the peer ports: the end of training, a failure, and a flit. The model's own choices
in it: log 5, 35, 36, 64, 67, 68. -/
def Obligations.OutsidePorts : Prop :=
  ((∀ (s : State) (a : HostAccess), postedOf s a.fn = [] →
     (barPlace s a.fn a.bar = .none → Runs (.hostPostedWrite a) s fun t => t = s) ∧
     (∀ b, barPlace s a.fn a.bar = .regs b → a.off % 8 = 0 → a.off < regSpan b → a.data.length = 8 →
       Runs (.hostPostedWrite a) s fun t =>
         t = { regWrite { s with posted := s.posted ++ [a] } (b + a.off) (w64 (leNat a.data)) with posted := s.posted }) ∧
     ∀ q, barPlace s a.fn a.bar = .stack q →
       let pa := pbase (part s q) + a.off
       let n := inBar s q a
       (rangesFree s 0x81 [(pa, n)] = false → Runs (.hostPostedWrite a) s fun t =>
         t.posted = s.posted ++ [a] ∧ t.agenda = s.agenda ++ [.hostPostedWrite a] ∧ t.rows = s.rows ∧ t.mem = s.mem ∧
         ∀ l ∈ rangeLines pa n, ∀ x ∈ t.leases, x.isHome = true → x.page = l / 512 → x.revoking = true) ∧
       (MemoryCanonical s → OneBlock pa n → LineOpen s (lineOf pa) → inTier (part s q) pa = false →
         n = 64 ∨ (block s pa).key.toNat = keyA s q → Runs (.hostPostedWrite a) s fun t =>
           memBytes t.mem pa n = a.data.take n ∧ t.posted = s.posted ∧ t.rows = s.rows)) ∧
   ∀ (s : State) (a : HostAccess),
     (postedOf s a.fn ≠ [] → Runs (.hostBarRead a) s fun t => t = { s with agenda := s.agenda ++ [.hostBarRead a] }) ∧
     (postedOf s a.fn = [] →
       (barPlace s a.fn a.bar = .none → Runs (.hostBarRead a) s fun t =>
         t = { s with reads := s.reads ++ [(a, onesBytes a.data.length)] }) ∧
       (∀ b, barPlace s a.fn a.bar = .regs b → a.off % 8 = 0 → a.off < regSpan b → a.data.length = 8 →
         Runs (.hostBarRead a) s fun t => t.reads = s.reads ++ [(a, leBytes 8 (regRead s (b + a.off)).2.toNat)] ∧
           t.rows = s.rows) ∧
       ∀ q, barPlace s a.fn a.bar = .stack q →
         let pa := pbase (part s q) + a.off
         let n := inBar s q a
         let free := linesQuiet s 0x81 [(pa, n)]
         let u := logKeys (checkBlocks s q pa n) q 0x81 pa n (keyA s q)
         (free = true → Runs (.hostBarRead a) s fun t => ∃ bs, t.reads = u.reads ++ [(a, bs ++ onesBytes (a.data.length - n))] ∧
           bs.length = n ∧ t.rows = u.rows ∧ t.mem = u.mem ∧
           ∀ i, i < n → delivery u (pa + i) (keyA s q) = 0 → nth bs i 0 = nth (readNow u pa n) i 0) ∧
         (free = false → Runs (.hostBarRead a) s fun t => t = { s with agenda := s.agenda ++ [.hostBarRead a] }))) ∧
  ((∀ (s : State) (q k : Nat) (v : Word), k < (part s q).stor.length →
     let x := stor s q k
     let logn := bits x.nsq 0 4
     let tail := BitVec.ofNat 32 (bits v 0 32)
     (logn ≠ bits x.ncq 0 4 → Runs (.storageDoorbell q k v) s fun t => (part t q).badcfg = true ∧ stor t q k = x ∧
       t.agenda = s.agenda) ∧
     (logn = bits x.ncq 0 4 → logn = 0 → Runs (.storageDoorbell q k v) s fun t => t = s) ∧
     (logn = bits x.ncq 0 4 → logn ≠ 0 → entriesReady s q k (ringDist tail x.sqHead logn) = false →
         Runs (.storageDoorbell q k v) s fun t =>
       t = { s with agenda := .storageDoorbell q k v :: s.agenda }) ∧
     (logn = bits x.ncq 0 4 → logn ≠ 0 → ringDist tail x.sqHead logn = 1 → entriesReady s q k 1 = true →
       let got := barRead s q 0x82 (bits x.nsq 12 52 * 4096 + 64 * (x.sqHead.toNat % 2 ^ logn)) 64
       let e := dwords 8 got.2
       let u := (prpRanges got.1 e).2.foldl (fun u r => logKeys (checkBlocks u q r.1 r.2) q 0x82 r.1 r.2 (keyA u q)) got.1
       let st := nvCheck u q e
       Runs (.storageDoorbell q k v) s fun t => (stor t q k).sqTail = tail ∧ (stor t q k).sqHead = tail ∧
         (stor t q k).open_ = x.open_ ++ [e ++ [w64 (if st = 0 then 0 else st + 1), w64 s.copyNext]] ∧
         (st ≠ 0 → Msg.storageCompletion q k (nvCid e) st [] ∈ t.agenda))) ∧
   ∀ (s : State) (q k cid status : Nat) (data : List Byte), k < (part s q).stor.length →
     let x := stor s q k
     let mine := x.open_.find? fun e => nvCid e == cid && (nth e 8 0 == 0 || (nth e 8 0).toNat == status + 1)
     let logn := bits x.ncq 0 4
     let i := x.cqTail.toNat % 2 ^ logn
     let a := bits x.ncq 12 52 * 4096 + 16 * i
     (mine = none → Runs (.storageCompletion q k cid status data) s fun t => t = s) ∧
     ∀ e, mine = some e → nth e 8 0 = 0 → nvOpcode e ≠ 2 →
       (cqRoom x = false → Runs (.storageCompletion q k cid status data) s fun t => t = s) ∧
       (cqRoom x = true → data = [] → rangesFree s 0x82 [(a, 16)] = false → Runs (.storageCompletion q k cid status data) s fun t =>
         t = { askRanges s [(a, 16)] with agenda := .storageCompletion q k cid status data :: s.agenda }) ∧
       (cqRoom x = true → data = [] → MemoryCanonical s → LineOpen s (lineOf a) → inTier (part s q) a = false →
         (block s a).key.toNat = keyA s q → Runs (.storageCompletion q k cid status data) s fun t =>
           memBytes t.mem a 16 = leBytes 8 0 ++ leBytes 2 (x.sqHead.toNat % 2 ^ logn) ++ leBytes 2 (k + 1) ++ leBytes 2 cid ++
             leBytes 2 (num x.phase + 2 * (status % 2 ^ 15)) ∧
           (stor t q k).cqTail = x.cqTail + 1 ∧ (stor t q k).phase = (if i + 1 = 2 ^ logn then !x.phase else x.phase) ∧
           (stor t q k).open_ = dropFirst (· == e) x.open_ ∧ (bit x.ncq 4 = true → (q + 1, 6) ∈ t.vectors))) ∧
  ((∀ (s : State) (port : Nat) (rmod : BitVec 16),
     let x := peer s port
     (port < 12 → x.en = true → x.state = 1 → Runs (.peerLinkUp port rmod) s fun t =>
       t = setPeer s port { x with state := 2, rmod := rmod }) ∧
     (12 ≤ port ∨ x.en = false ∨ x.state ≠ 1 → Runs (.peerLinkUp port rmod) s fun t => t = s) ∧
     (port < 12 → x.en = true → x.state ≠ 3 → Runs (.peerPortFailure port) s fun t =>
       peer t port = { x with state := 3, kept := [] } ∧
       mapGet t.hub.lt (0x206 + port) 0 = mapGet s.hub.lt (0x206 + port) 0 + 1 ∧
       t = { s with hub := t.hub, peers := t.peers, leases := t.leases, caches := t.caches, agenda := t.agenda } ∧
       (∀ m, m ∈ t.agenda ↔ m ∈ s.agenda ∧ ∀ f, m = .peerFlitReceive f → f.port ≠ port) ∧
       ∀ l ∈ s.leases,
         let q := ownerPart s (65536 * l.page)
         let lapses := l.isHome = false ∧ x.chmask.getLsbD q = true ∧
           ∀ y ∈ t.peers, y.2.en = true → y.2.state = 2 → y.2.chmask.getLsbD q = false
         (¬ lapses → l ∈ t.leases) ∧
         (lapses → l ∉ t.leases ∧ ∀ a line, line < 2 ^ 40 → line / 512 = l.page →
           (cline t a line).v = (cline s a line).v &&& (cline s a line).rg)) ∧
     (12 ≤ port ∨ x.en = false ∨ x.state = 3 → Runs (.peerPortFailure port) s fun t => t = s)) ∧
   ∀ (s : State) (f : Flit), f.seq < 65536 →
     let x := peer s f.port
     let up := x.en = true ∧ x.state = 2 ∧ x.chmask.getLsbD f.part = true
     (¬ up → Runs (.peerFlitReceive f) s fun t => t = s) ∧
     (up → mapGet x.next f.part 0 = f.seq → (x.kept.any fun g => g.part == f.part) = false →
       (flitRefused s f = false → Runs (.peerFlitReceive f) s fun t => t = arriveAccess
         (setPeer (setPeer s f.port { x with kept := x.kept ++ [f] }) f.port
           { x with next := mapSet x.next f.part ((f.seq + 1) % 65536) }) f.acc) ∧
       (flitRefused s f = true → Runs (.peerFlitReceive f) s fun t =>
         t = { setPeer s f.port { x with kept := x.kept ++ [f] } with
           agenda := if .peerFlitReceive f ∈ s.agenda then s.agenda else s.agenda ++ [.peerFlitReceive f] })) ∧
     (up → mapGet x.next f.part 0 < 65536 → (x.kept.any fun g => g.part == f.part) = false →
       f.seq = (mapGet x.next f.part 0 + 1) % 65536 → Runs (.peerFlitReceive f) s fun t =>
         t = setPeer s f.port { x with kept := x.kept ++ [f] }))

/-! ### Device steps: boot, resets, the hypervisor's services -/

/-- R445, R452, R464, R468: what the boot ROM, a warm reset, a loss of power and an orderly shutdown leave. R61, R85,
R454, R455, R457: the services of hcall 16, 17 and 18, and a number that names none. The model's own choices in it: log 5,
7, 8, 9, 34, 48, 67, 81. -/
def Obligations.BootAndServices : Prop :=
  ((∀ s : State, Runs .boot s fun t => t.hub.bootDone = true ∧ t.hub.bootCode.toNat = bootCode s ∧ (0, 4) ∈ t.vectors ∧
     mapGet t.hub.lt 0x205 0 = mapGet s.hub.lt 0x205 0 + 1 ∧
     (bootCode s ≠ 0 → (0, 2) ∈ t.vectors ∧ mapGet t.hub.lt 0x202 0 = mapGet s.hub.lt 0x202 0 + 1 ∧
         t.hub.mgmtHalted = true ∧ t.rows = s.rows ∧ t.mem = s.mem) ∧
     (bootCode s = 0 → t.hub.mgmtHalted = false ∧ Queued t (544 * 2048) ∧ rowWord t (544 * 2048) 2 = w64 (at_ 2 16) ∧
       t.hub.bootVersion = BitVec.ofNat 32 (imgVersion Config.firmwareImage) ∧
       ∃ base, rowWord t (544 * 2048) 1 = w64 (base + 64 + imgEntry Config.firmwareImage) ∧
         (MemoryCanonical s → bit (part s 63).trcCtl 4 = false →
           memBytes t.mem base Config.firmwareImage.length = Config.firmwareImage))) ∧
   (∀ s : State,
     let blank := fun t : State => t.rows = [] ∧ t.mem = [] ∧ t.parts = [] ∧ t.spads = [] ∧ t.homes = [] ∧ t.launches = [] ∧
       t.agenda = [.boot] ∧ (∀ k, (keySlot t k).valid = false) ∧ t.hub.ltNv = s.hub.ltNv ∧ t.hub.bootDone = false ∧
       t.time = s.time
     (Runs .warmReset s fun t => blank t ∧ t.hub.lt = s.hub.lt) ∧ Runs .powerLoss s fun t => blank t ∧ t.hub.lt = s.hub.ltNv) ∧
   ∀ s : State, Runs .orderlyShutdown s fun t => t = { s with hub := { s.hub with ltNv := s.hub.lt } }) ∧
  ((∀ (s : State) (r : RowId), calling s r = none →
     (Runs (.translatePortableModule r) s fun t => t = s) ∧ (Runs (.verifyNativeImage r) s fun t => t = s) ∧
     Runs (.attest r) s fun t => t = s) ∧
   ∀ (s : State) (r : RowId) (pr n : Nat), calling s r = some (pr, n) →
     let q := r.part
     let arg := callArg s pr
     let returns := fun (t : State) (status : Nat) => rowWord t pr 33 = w64 status ∧ Queued t pr
     (n < 16 ∨ 18 < n → Runs (.translatePortableModule r) s fun t => returns t 1 ∧ t.hub = s.hub) ∧
     (n = 16 → inFlatRange s q (arg 1) (arg 2) = false ∨ inFlatRange s q (arg 3) (arg 4) = false →
       Runs (.translatePortableModule r) s (returns · 6)) ∧
     (n = 16 → inFlatRange s q (arg 1) (arg 2) = true → inFlatRange s q (arg 3) (arg 4) = true →
       linesQuiet s 0x80 [(arg 1, arg 2)] = false → Runs (.translatePortableModule r) s fun t =>
         t = { s with agenda := s.agenda ++ [.translatePortableModule r] }) ∧
     (n = 16 → inFlatRange s q (arg 1) (arg 2) = true → inFlatRange s q (arg 3) (arg 4) = true →
       linesQuiet s 0x80 [(arg 1, arg 2)] = true →
       let u := checkBulk s q (arg 1) (arg 2)
       let m := readNow u (arg 1) (arg 2)
       let out := translateModule (translationPlace s q (arg 3)) m
       Runs (.translatePortableModule r) s fun t =>
         (moduleStatus s m ≠ 0 → returns t (moduleStatus s m)) ∧
         (moduleStatus s m = 0 → (out = none → returns t 1) ∧ ∀ im staging, out = some (im, staging) →
           let free := rangesFree u 0x80 [(arg 3, im.length)]
           (arg 4 < im.length + staging → returns t 4) ∧
           (im.length + staging ≤ arg 4 → free = true → returns t 0 ∧ rowWord t pr 34 = w64 im.length ∧
             (part t q).transHash = Config.sha256 im ∧
             (MemoryCanonical s → bit (part s (rowId s pr).part).trcCtl 4 = false → im ≠ [] →
               foreignPart s (arg 3) im.length (keyA s q) = false →
               (∀ l ∈ rangeLines (arg 3) im.length, (hline s l).keep = KeepEntry.init) →
               (∀ i, i < im.length → inTier (part s q) (arg 3 + i) = false) → memBytes t.mem (arg 3) im.length = im)) ∧
           (im.length + staging ≤ arg 4 → free = false → t.rows = s.rows ∧ t.mem = u.mem ∧
             Msg.translatePortableModule r ∈ t.agenda))) ∧
     (n = 17 → inFlatRange s q (arg 1) 64 = false → Runs (.verifyNativeImage r) s (returns · 6)) ∧
     (n = 17 → inFlatRange s q (arg 1) 64 = true → imageQuiet s (arg 1) = false → Runs (.verifyNativeImage r) s fun t =>
       t = { s with agenda := s.agenda ++ [.verifyNativeImage r] }) ∧
     (n = 17 → inFlatRange s q (arg 1) 64 = true → imageQuiet s (arg 1) = true →
       let im := (readImage s q (arg 1)).2
       let code := imgCheck im 3 (keyHash (part s q))
       headGood (im.take 64) = false ∨ inFlatRange s q (arg 1) (imgWhole (im.take 64)) = true →
       Runs (.verifyNativeImage r) s fun t => t.hub = (readImage s q (arg 1)).1.hub ∧
         returns t (if code = 0 then 0 else if code = 1 ∨ code = 4 then 1 else 2)) ∧
     (n = 18 → inFlatRange s q (arg 1) 32 = false ∨ inFlatRange s q (arg 2) 1948 = false →
       Runs (.attest r) s (returns · 6)) ∧
     (n = 18 → inFlatRange s q (arg 1) 32 = true → inFlatRange s q (arg 2) 1948 = true →
       let leaf := mapGet s.hub.lt 0x203 0
       (2 ^ 20 ≤ leaf → Runs (.attest r) s fun t => returns t 5 ∧ t.hub = s.hub) ∧
       let free := linesQuiet s 0x80 [(arg 1, 32)] && rangesFree s 0x80 [(arg 2, 1948)]
       (leaf < 2 ^ 20 → free = false → Runs (.attest r) s fun t => t.rows = s.rows ∧
         t.hub = s.hub ∧ Msg.attest r ∈ t.agenda) ∧
       (leaf < 2 ^ 20 → free = true → Runs (.attest r) s fun t => returns t 0 ∧ rowWord t pr 34 = w64 1948 ∧
         mapGet t.hub.lt 0x203 0 = leaf + 1 ∧ mapGet t.hub.ltNv 0x203 0 = leaf + 1)))

/-! ### Device steps: debug, sensors, the throttle -/

/-- R459, R464 to R467, R434: halting, resuming and stepping a cluster; the lifetime flush; thermal notices; the throttle;
the halt of the management executor. The model's own choices in it: log 5, 47, 55, 82. -/
def Obligations.DebugAndCare : Prop :=
  (∀ (s : State) (cl : Nat),
    let x := cluster s cl
    (Runs (.halt cl) s fun t => (cluster t cl).halted = true ∧ t.rows = s.rows ∧ t.mem = s.mem ∧
      (x.halted = false → (cluster t cl).dbgCause = 1) ∧ (x.halted = true → (cluster t cl).dbgCause = x.dbgCause) ∧
      ∀ c ∈ setBits 32 x.xtgt.toNat, (cluster t c).halted = true) ∧
    (Runs (.resume cl) s fun t => t = setCluster s cl { x with halted := false, stepping := false }) ∧
    (∀ e k pr, e / 16 = cl → k < 4 → openIn s e k = some pr → (rowId s pr).lrow = x.dbgRow.toNat → x.halted = true →
      Runs (.step cl) s fun t => t = setCluster s cl { x with stepping := true }) ∧
    (x.halted = false → Runs (.step cl) s fun t => t = s)) ∧
  (∀ s : State, Runs .lifetimeFlush s fun t => t.hub.ltNv = t.hub.lt ∧ t = { s with hub := t.hub, count := t.count }) ∧
  (∀ (s : State) (e : Nat) (temp : BitVec 16),
    let x := exec' s e
    (e < 512 → x.armed = true → 1520 < temp.toNat → Runs (.thermalNotice e temp) s fun t => (exec' t e).armed = false ∧
      t.hub.tmax.toNat = max s.hub.tmax.toNat temp.toNat ∧
      mapGet t.hub.lt (0x1000 + e) 0 = mapGet s.hub.lt (0x1000 + e) 0 + 1 ∧
      ∀ q, partOfExec s e = some q → (part t q).therm = (part s q).therm ||| (1#512 <<< e) ∧
        (ringLogn (ringRegs s (.mbox q)) ≠ 0 → ringRoom (ringRegs s (.mbox q)) = true →
          Msg.ringMessageWrite (.mbox q) (dieOf e) ∈ t.agenda)) ∧
    (512 ≤ e ∨ x.armed = false ∨ temp.toNat ≤ 1520 → Runs (.thermalNotice e temp) s fun t => t = s) ∧
    (e < 512 → Runs (.sensorFallenBelow90c e) s fun t => exec' t e = { x with armed := true } ∧ t.rows = s.rows ∧
      t.mem = s.mem)) ∧
  (∀ (s : State) (temp : BitVec 16),
    let raised := fun t : State => (0, 3) ∈ t.vectors ∧ ∀ q p, (q, p) ∈ s.parts → p.en = true → (q + 1, 7) ∈ t.vectors
    (s.hub.thr = false → 1680 ≤ temp.toNat → Runs (.throttleStart temp) s fun t => t.hub.thr = true ∧ raised t ∧
      t.hub.pwrCur = (if s.hub.pwrCtl < 3 then 3 else s.hub.pwrCtl) ∧
      mapGet t.hub.lt 0x200 0 = mapGet s.hub.lt 0x200 0 + 1) ∧
    (s.hub.thr = true ∨ temp.toNat < 1680 → Runs (.throttleStart temp) s fun t => t = s) ∧
    (s.hub.thr = true → Runs .throttleEnd s fun t => t.hub.thr = false ∧ raised t ∧ t.hub.pwrCur = s.hub.pwrCtl) ∧
    (s.hub.thr = false → Runs .throttleEnd s fun t => t = s)) ∧
  ∀ s : State,
    (s.hub.mgmtHalted = false → Runs .managementHalt s fun t => t.hub.mgmtHalted = true ∧ (0, 2) ∈ t.vectors ∧
      mapGet t.hub.lt 0x202 0 = mapGet s.hub.lt 0x202 0 + 1 ∧ t.rows = s.rows) ∧
    (s.hub.mgmtHalted = true → Runs .managementHalt s fun t => t = s)
end

