-- ==== Sys2Proof/Laws/Memory.lean ====
section
/-!
SUPPORT. Byte memory and the sorted maps: reads after writes, and the canonical form that every write keeps.
-/

namespace Sys2Proof.Machine

/-! ### Sorted maps -/

@[simp] theorem mapGet?_mapSet_self {α : Type} (m : NMap α) (k : Nat) (v : α) : mapGet? (mapSet m k v) k = some v := by
  induction m with
  | nil => simp [mapSet, mapGet?]
  | cons p m ih =>
    obtain ⟨j, w⟩ := p
    by_cases h1 : k < j
    · simp [mapSet, h1, mapGet?]
    · by_cases h2 : k = j
      · simp [mapSet, h2, mapGet?]
      · simp [mapSet, h1, h2, mapGet?, ih]

theorem mapGet?_mapSet_ne {α : Type} (m : NMap α) {k i : Nat} (v : α) (h : i ≠ k) :
    mapGet? (mapSet m k v) i = mapGet? m i := by
  induction m with
  | nil => simp [mapSet, mapGet?, h]
  | cons p m ih =>
    obtain ⟨j, w⟩ := p
    by_cases h1 : k < j
    · simp [mapSet, h1, mapGet?, h]
    · by_cases h2 : k = j
      · subst h2; simp [mapSet, mapGet?, h]
      · simp [mapSet, h1, h2, mapGet?, ih]

@[simp] theorem mapGet_mapSet_self {α : Type} (m : NMap α) (k : Nat) (v d : α) : mapGet (mapSet m k v) k d = v := by
  simp [mapGet]

theorem mapGet_mapSet_ne {α : Type} (m : NMap α) {k i : Nat} (v d : α) (h : i ≠ k) :
    mapGet (mapSet m k v) i d = mapGet m i d := by
  simp [mapGet, mapGet?_mapSet_ne m v h]

/-- A map read after one entry is set. -/
theorem mapGet_mapSet {α : Type} (m : NMap α) (k i : Nat) (v d : α) :
    mapGet (mapSet m k v) i d = if i = k then v else mapGet m i d := by
  by_cases h : i = k
  · simp [h]
  · simp [h, mapGet_mapSet_ne m v d h]

/-! ### The canonical form -/

theorem memFormAbove_of_le {m : Memory} {lo hi : Option Nat} (h : memFormAbove hi m = true)
    (hl : ∀ a, lo = some a → ∃ b, hi = some b ∧ a ≤ b) : memFormAbove lo m = true := by
  cases m with
  | nil => rfl
  | cons c m =>
    obtain ⟨a, v⟩ := c
    cases lo with
    | none => cases hi <;> simp_all [memFormAbove]
    | some l =>
      obtain ⟨b, hb, hle⟩ := hl l rfl
      subst hb
      simp [memFormAbove] at h ⊢
      exact ⟨⟨by omega, h.1.2⟩, h.2⟩

theorem memFormAbove_none {m : Memory} {lo : Option Nat} (h : memFormAbove lo m = true) : Memory.wf m = true :=
  memFormAbove_of_le h (fun _ ha => nomatch ha)

/-- Below the bound a canonical memory lists nothing. -/
theorem memRead_below {m : Memory} {l a : Nat} (h : memFormAbove (some l) m = true) (ha : a ≤ l) :
    memRead m a = memDefault := by
  induction m generalizing l with
  | nil => rfl
  | cons c m ih =>
    obtain ⟨b, v⟩ := c
    simp [memFormAbove] at h
    have : a ≠ b := by omega
    simp [memRead, this]
    exact ih h.2 (by omega)

/-- A write keeps the canonical form above every bound below its address. -/
theorem memWrite_form {m : Memory} {lo : Option Nat} {a : Nat} {v : Byte} (h : memFormAbove lo m = true)
    (hlo : ∀ l, lo = some l → l < a) : memFormAbove lo (memWrite m a v) = true := by
  induction m generalizing lo with
  | nil =>
    by_cases hv : v = memDefault
    · simp [memWrite, hv, memFormAbove]
    · cases lo with
      | none => simp [memWrite, hv, memFormAbove]
      | some l => simp [memWrite, hv, memFormAbove, hlo l rfl]
  | cons c m ih =>
    obtain ⟨b, w⟩ := c
    by_cases h1 : a < b
    · by_cases hv : v = memDefault
      · simp [memWrite, h1, hv, h]
      · cases lo with
        | none => simp [memFormAbove] at h ⊢; simp [memWrite, h1, hv, memFormAbove, h]
        | some l => simp [memFormAbove] at h ⊢; simp [memWrite, h1, hv, memFormAbove, h, hlo l rfl]
    · by_cases h2 : a = b
      · subst h2
        by_cases hv : v = memDefault
        · cases lo with
          | none =>
            simp [memFormAbove] at h
            simp [memWrite, hv]
            exact memFormAbove_of_le h.2 (fun _ ha => nomatch ha)
          | some l =>
            simp [memFormAbove] at h
            simp [memWrite, hv]
            exact memFormAbove_of_le h.2 (fun x hx => ⟨a, rfl, by cases hx; omega⟩)
        · cases lo with
          | none => simp [memFormAbove] at h; simp [memWrite, hv, memFormAbove, h]
          | some l => simp [memFormAbove] at h; simp [memWrite, hv, memFormAbove, h]
      · have h3 : b < a := by omega
        cases lo with
        | none =>
          simp [memFormAbove] at h
          have := ih (lo := some b) h.2 (fun l hl => by cases hl; exact h3)
          simp [memWrite, h1, h2, memFormAbove, h.1, this]
        | some l =>
          simp [memFormAbove] at h
          have := ih (lo := some b) h.2 (fun l hl => by cases hl; exact h3)
          simp [memWrite, h1, h2, memFormAbove, h.1, this]

/-- A write keeps the canonical form. -/
theorem memWrite_wf {m : Memory} (a : Nat) (v : Byte) (h : m.wf = true) : (memWrite m a v).wf = true :=
  memWrite_form h (fun _ hl => nomatch hl)

/-- A store of bytes keeps the canonical form. -/
@[simp] theorem memStore_wf {m : Memory} (a : Nat) (bs : List Byte) (h : m.wf = true) : (memStore m a bs).wf = true := by
  induction bs generalizing m a with
  | nil => exact h
  | cons b bs ih => exact ih _ (memWrite_wf a b h)

/-! ### Reads after writes -/

theorem memRead_memWrite_form {m : Memory} {lo : Option Nat} (a b : Nat) (v : Byte) (h : memFormAbove lo m = true) :
    memRead (memWrite m a v) b = if b = a then v else memRead m b := by
  induction m generalizing lo with
  | nil =>
    by_cases hv : v = memDefault <;> by_cases hb : b = a <;> simp [memWrite, memRead, hv, hb]
  | cons c m ih =>
    obtain ⟨d, w⟩ := c
    have hm : memFormAbove (some d) m = true := by
      cases lo <;> simp [memFormAbove] at h <;> exact h.2
    by_cases h1 : a < d
    · by_cases hv : v = memDefault
      · by_cases hb : b = a
        · subst hb
          have : b ≠ d := by omega
          simp [memWrite, h1, hv, memRead, this, memRead_below hm (Nat.le_of_lt h1)]
        · simp [memWrite, h1, hv, hb]
      · by_cases hb : b = a <;> simp [memWrite, h1, hv, memRead, hb]
    · by_cases h2 : a = d
      · subst h2
        by_cases hv : v = memDefault
        · by_cases hb : b = a
          · subst hb; simp [memWrite, hv, memRead_below hm (Nat.le_refl _)]
          · simp [memWrite, hv, memRead, hb]
        · by_cases hb : b = a <;> simp [memWrite, hv, memRead, hb]
      · by_cases hb : b = d
        · subst hb
          have : b ≠ a := fun e => h2 e.symm
          simp [memWrite, h1, h2, memRead, this]
        · simp [memWrite, h1, h2, memRead, hb, ih hm]

/-- A byte read after a write of one byte. -/
theorem memRead_memWrite {m : Memory} (a b : Nat) (v : Byte) (h : m.wf = true) :
    memRead (memWrite m a v) b = if b = a then v else memRead m b := memRead_memWrite_form a b v h

/-- A store leaves every byte outside its range. -/
theorem memRead_memStore_outside {m : Memory} (a b : Nat) (bs : List Byte) (h : m.wf = true)
    (hb : b < a ∨ a + bs.length ≤ b) : memRead (memStore m a bs) b = memRead m b := by
  induction bs generalizing m a with
  | nil => rfl
  | cons v bs ih =>
    simp at hb
    have : b ≠ a := by omega
    simp [memStore]
    rw [ih (a + 1) (memWrite_wf a v h) (by omega), memRead_memWrite a b v h]
    simp [this]

/-- A store writes its bytes. -/
theorem memRead_memStore_inside {m : Memory} (a i : Nat) (bs : List Byte) (h : m.wf = true) (hi : i < bs.length) :
    memRead (memStore m a bs) (a + i) = bs[i] := by
  induction bs generalizing m a i with
  | nil => simp at hi
  | cons v bs ih =>
    cases i with
    | zero =>
      simp [memStore]
      rw [memRead_memStore_outside (a + 1) a bs (memWrite_wf a v h) (by omega), memRead_memWrite a a v h]
      simp
    | succ n =>
      simp at hi
      have := ih (a + 1) n (memWrite_wf a v h) hi
      simp [memStore]
      rw [show a + (n + 1) = a + 1 + n by omega, this]

@[simp] theorem memBytes_length (m : Memory) (a n : Nat) : (memBytes m a n).length = n := by
  induction n generalizing a with
  | zero => rfl
  | succ n ih => simp [memBytes, ih]

@[simp] theorem leBytes_length (n v : Nat) : (leBytes n v).length = n := by
  induction n generalizing v with
  | zero => rfl
  | succ n ih => simp [leBytes, ih]

/-- Bytes read back from a range that a store does not touch. -/
theorem memBytes_memStore_outside {m : Memory} (a b n : Nat) (bs : List Byte) (h : m.wf = true)
    (hb : b + n ≤ a ∨ a + bs.length ≤ b) : memBytes (memStore m a bs) b n = memBytes m b n := by
  induction n generalizing b with
  | zero => rfl
  | succ n ih =>
    simp [memBytes]
    exact ⟨memRead_memStore_outside a b bs h (by omega), ih (b + 1) (by omega)⟩

/-- Bytes read back where they were stored. -/
theorem memBytes_memStore_self {m : Memory} (a : Nat) (bs : List Byte) (h : m.wf = true) :
    memBytes (memStore m a bs) a bs.length = bs := by
  induction bs generalizing m a with
  | nil => rfl
  | cons v bs ih =>
    simp [memBytes, memStore]
    refine ⟨?_, ih (a + 1) (memWrite_wf a v h)⟩
    rw [memRead_memStore_outside (a + 1) a bs (memWrite_wf a v h) (by omega), memRead_memWrite a a v h]
    simp

/-- A number and its little-endian bytes (R5). -/
@[simp] theorem leNat_leBytes (n v : Nat) : leNat (leBytes n v) = v % 256 ^ n := by
  induction n generalizing v with
  | zero => simp [leBytes, leNat, Nat.mod_one]
  | succ n ih =>
    simp [leBytes, leNat, ih]
    rw [Nat.pow_succ, Nat.mul_comm (256 ^ n) 256, Nat.mod_mul]

end Sys2Proof.Machine
end

