-- ==== Sys2Proof/Laws/Blocks.lean ====
section
/-!
SUPPORT. What the operations on blocks of stack memory and on the data array of a home slice can do: each keeps memory in
canonical form, and each changes no more than its frame names.
-/

namespace Sys2Proof.Machine

/-! ### Frames -/

/-- Nothing but memory and the metadata of its blocks has changed. -/
def OnlyBlocks (s t : State) : Prop := t = { s with mem := t.mem, blocks := t.blocks }

theorem OnlyBlocks.trans {s t u : State} (h : OnlyBlocks s t) (k : OnlyBlocks t u) : OnlyBlocks s u := by
  unfold OnlyBlocks at *
  rw [k, h]
theorem settle_frame (s : State) (pa : Nat) : OnlyBlocks s (settle s pa) := rfl
theorem mergeBlock_frame (s : State) (pa : Nat) (data : List Byte) (key : Nat) : OnlyBlocks s (mergeBlock s pa data key) := by
  unfold mergeBlock
  split
  · exact rfl
  · exact rfl
theorem mergeFrom_frame (n : Nat) (s : State) (pa : Nat) (data : List Byte) (key : Nat) :
    OnlyBlocks s (mergeFrom n s pa data key) := by
  induction n generalizing s pa data with
  | zero => exact rfl
  | succ n ih => exact (mergeBlock_frame ..).trans (ih ..)
/-- A merge at the home changes memory and the metadata of its blocks, and nothing else. -/
theorem merge_frame (s : State) (pa : Nat) (data : List Byte) (key : Nat) : OnlyBlocks s (merge s pa data key) := by
  unfold merge
  split
  · exact rfl
  · exact mergeFrom_frame ..
theorem ownStore_frame (s : State) (pa : Nat) (data : List Byte) : OnlyBlocks s (ownStore s pa data) := rfl

/-! ### The canonical form -/

theorem settle_wf {s : State} (pa : Nat) (h : s.mem.wf = true) : (settle s pa).mem.wf = true := by
  unfold settle
  simp only
  split
  · exact h
  · exact memStore_wf _ _ h
theorem mergeBlock_wf {s : State} (pa : Nat) (data : List Byte) (key : Nat) (h : s.mem.wf = true) :
    (mergeBlock s pa data key).mem.wf = true := by
  unfold mergeBlock
  split
  · exact memStore_wf _ _ h
  · exact memStore_wf _ _ (settle_wf pa h)
theorem mergeFrom_wf (n : Nat) {s : State} (pa : Nat) (data : List Byte) (key : Nat) (h : s.mem.wf = true) :
    (mergeFrom n s pa data key).mem.wf = true := by
  induction n generalizing s pa data with
  | zero => exact h
  | succ n ih => exact ih _ _ (mergeBlock_wf pa _ key h)
theorem merge_wf {s : State} (pa : Nat) (data : List Byte) (key : Nat) (h : s.mem.wf = true) :
    (merge s pa data key).mem.wf = true := by
  unfold merge
  split
  · exact h
  · exact mergeFrom_wf _ _ _ _ h
theorem ownStore_wf {s : State} (pa : Nat) (data : List Byte) (h : s.mem.wf = true) : (ownStore s pa data).mem.wf = true :=
  memStore_wf _ _ (settle_wf _ (settle_wf pa h))
theorem setMemWord_wf {s : State} (pa : Nat) (v : Word) (h : s.mem.wf = true) : (setMemWord s pa v).mem.wf = true :=
  ownStore_wf _ _ h
theorem stackFound_wf {s : State} (q pa : Nat) (e : EccFound) (l : List Byte) (h : s.mem.wf = true) :
    (stackFound s q pa e l).mem.wf = true := by
  unfold stackFound
  simp only
  split
  · exact memStore_wf _ _ h
  · exact h
theorem stackCheck_wf {s : State} (q pa : Nat) (h : s.mem.wf = true) : (stackCheck s q pa).mem.wf = true :=
  stackFound_wf (s := { s with count := s.count + 9 }) q pa _ _ h
theorem evictData_mem (s : State) (line : Nat) : (evictData s line).mem = s.mem := by
  unfold evictData
  simp only
  split <;> split <;> rfl
theorem roomData_mem (s : State) (line : Nat) : (roomData s line).mem = s.mem := by
  unfold roomData
  split
  · rfl
  · simp only
    split
    · rfl
    · split
      · exact evictData_mem ..
      · rfl
theorem useData_mem (s : State) (line : Nat) : (useData s line).mem = s.mem := by
  unfold useData
  split <;> rfl
/-- An allocation in the data array moves no byte. -/
theorem allocData_mem (s : State) (line : Nat) (h : Hint) : (allocData s line h).mem = s.mem := by
  unfold allocData
  split
  · exact useData_mem ..
  · cases h
    · exact roomData_mem ..
    · rfl
    · exact roomData_mem ..
theorem foldl_wf {α : Type} {f : State → α → State} (step : ∀ s x, s.mem.wf = true → (f s x).mem.wf = true) (l : List α)
    {s : State} (h : s.mem.wf = true) : (l.foldl f s).mem.wf = true := by
  induction l generalizing s with
  | nil => exact h
  | cons x l ih => exact ih (step s x h)
theorem checkRange_wf {s : State} (q pa n : Nat) (h : s.mem.wf = true) : (checkRange s q pa n).mem.wf = true :=
  foldl_wf (fun s i hs => by
    simp only
    split
    · exact hs
    · exact stackCheck_wf _ _ hs) _ h
theorem readArray_wf {s : State} (q pa n : Nat) (hint : Hint) (h : s.mem.wf = true) :
    (readArray s q pa n hint).mem.wf = true := by
  unfold readArray
  simp only [allocData_mem]
  split <;> exact checkRange_wf _ _ _ h
theorem fetchArray_wf {s : State} (q pa n : Nat) (hint : Hint) (h : s.mem.wf = true) :
    (fetchArray s q pa n hint).mem.wf = true := by
  unfold fetchArray
  simp only [allocData_mem]
  refine foldl_wf (fun s i hs => ?_) _ h
  split
  · exact hs
  · exact stackCheck_wf _ _ hs
theorem markDirty_mem (s : State) (line : Nat) : (markDirty s line).mem = s.mem := by
  unfold markDirty
  split <;> rfl
theorem foldl_mem {α : Type} {f : State → α → State} (step : ∀ s x, (f s x).mem = s.mem) (l : List α) (s : State) :
    (l.foldl f s).mem = s.mem := by
  induction l generalizing s with
  | nil => rfl
  | cons x l ih => exact (ih _).trans (step s x)
theorem tierDirty_mem (s : State) (q pa n : Nat) : (tierDirty s q pa n).mem = s.mem := by
  unfold tierDirty
  simp only
  split
  · refine foldl_mem ?_ ..
    exact fun _ _ => rfl
  · rfl
/-- No block of a long range is read from the stack when the data array holds each. -/
theorem checkBulk_held {s : State} (q pa n : Nat) (h : ∀ i, 64 * i < n → held s (lineOf (pa + 64 * i)) = true) :
    checkBulk s q pa n = { s with count := s.count + 1 } := by
  have e : (Config.eccErrors s.count).filter (fun x => 64 * x.1 < n && !held s (lineOf (pa + 64 * x.1))) = [] := by
    refine List.filter_eq_nil_iff.mpr fun x _ hx => ?_
    simp only [Bool.and_eq_true, decide_eq_true_eq, Bool.not_eq_true'] at hx
    rw [h _ hx.1] at hx
    cases hx.2
  unfold checkBulk
  simp only [e, List.foldl_nil]
/-- The check of a long range keeps memory in canonical form, whatever errors it finds. -/
theorem checkBulk_wf {s : State} (q pa n : Nat) (h : s.mem.wf = true) : (checkBulk s q pa n).mem.wf = true :=
  foldl_wf (fun _ _ hs => stackFound_wf _ _ _ _ hs) _ h
/-- A write of one line at its home keeps memory in canonical form. -/
theorem arrayWrite_wf {s : State} (q pa : Nat) (data : List Byte) (key : Nat) (hint : Hint) (h : s.mem.wf = true) :
    (arrayWrite s q pa data key hint).mem.wf = true := by
  unfold arrayWrite
  simp only [tierDirty_mem, markDirty_mem]
  exact merge_wf _ _ _ (fetchArray_wf _ _ _ _ h)

end Sys2Proof.Machine
end

