-- ==== Sys2Proof/Laws/State.lean ====
section
/-!
SUPPORT. What each plain update of the state leaves unchanged, field by field; every lemma is true by rfl, or
is the lemma of the operation that the update is an instance of.
-/

namespace Sys2Proof.Machine

/-! ### setRowWord -/

@[simp] theorem setRowWord_count (s : State) (pr n : Nat) (v : Word) : (setRowWord s pr n v).count = s.count := rfl
@[simp] theorem setRowWord_turns (s : State) (pr n : Nat) (v : Word) : (setRowWord s pr n v).turns = s.turns := rfl
@[simp] theorem setRowWord_agenda (s : State) (pr n : Nat) (v : Word) : (setRowWord s pr n v).agenda = s.agenda := rfl
@[simp] theorem setRowWord_cur (s : State) (pr n : Nat) (v : Word) : (setRowWord s pr n v).cur = s.cur := rfl
@[simp] theorem setRowWord_waited (s : State) (pr n : Nat) (v : Word) : (setRowWord s pr n v).waited = s.waited := rfl
@[simp] theorem setRowWord_time (s : State) (pr n : Nat) (v : Word) : (setRowWord s pr n v).time = s.time := rfl
@[simp] theorem setRowWord_execs (s : State) (pr n : Nat) (v : Word) : (setRowWord s pr n v).execs = s.execs := rfl
@[simp] theorem setRowWord_spads (s : State) (pr n : Nat) (v : Word) : (setRowWord s pr n v).spads = s.spads := rfl
@[simp] theorem setRowWord_mem (s : State) (pr n : Nat) (v : Word) : (setRowWord s pr n v).mem = s.mem := rfl
@[simp] theorem setRowWord_blocks (s : State) (pr n : Nat) (v : Word) : (setRowWord s pr n v).blocks = s.blocks := rfl
@[simp] theorem setRowWord_caches (s : State) (pr n : Nat) (v : Word) : (setRowWord s pr n v).caches = s.caches := rfl
@[simp] theorem setRowWord_misses (s : State) (pr n : Nat) (v : Word) : (setRowWord s pr n v).misses = s.misses := rfl
@[simp] theorem setRowWord_stale (s : State) (pr n : Nat) (v : Word) : (setRowWord s pr n v).stale = s.stale := rfl
@[simp] theorem setRowWord_regs (s : State) (pr n : Nat) (v : Word) : (setRowWord s pr n v).regs = s.regs := rfl
@[simp] theorem setRowWord_regNext (s : State) (pr n : Nat) (v : Word) : (setRowWord s pr n v).regNext = s.regNext := rfl
@[simp] theorem setRowWord_stores (s : State) (pr n : Nat) (v : Word) : (setRowWord s pr n v).stores = s.stores := rfl
@[simp] theorem setRowWord_ops (s : State) (pr n : Nat) (v : Word) : (setRowWord s pr n v).ops = s.ops := rfl
@[simp] theorem setRowWord_late (s : State) (pr n : Nat) (v : Word) : (setRowWord s pr n v).late = s.late := rfl
@[simp] theorem setRowWord_waitFor (s : State) (pr n : Nat) (v : Word) : (setRowWord s pr n v).waitFor = s.waitFor := rfl
@[simp] theorem setRowWord_owed (s : State) (pr n : Nat) (v : Word) : (setRowWord s pr n v).owed = s.owed := rfl
@[simp] theorem setRowWord_stalls (s : State) (pr n : Nat) (v : Word) : (setRowWord s pr n v).stalls = s.stalls := rfl
@[simp] theorem setRowWord_homes (s : State) (pr n : Nat) (v : Word) : (setRowWord s pr n v).homes = s.homes := rfl
@[simp] theorem setRowWord_dlines (s : State) (pr n : Nat) (v : Word) : (setRowWord s pr n v).dlines = s.dlines := rfl
@[simp] theorem setRowWord_done (s : State) (pr n : Nat) (v : Word) : (setRowWord s pr n v).done = s.done := rfl
@[simp] theorem setRowWord_tierMiss (s : State) (pr n : Nat) (v : Word) : (setRowWord s pr n v).tierMiss = s.tierMiss := rfl
@[simp] theorem setRowWord_postponed (s : State) (pr n : Nat) (v : Word) : (setRowWord s pr n v).postponed = s.postponed := rfl
@[simp] theorem setRowWord_incs (s : State) (pr n : Nat) (v : Word) : (setRowWord s pr n v).incs = s.incs := rfl
@[simp] theorem setRowWord_deadSeen (s : State) (pr n : Nat) (v : Word) : (setRowWord s pr n v).deadSeen = s.deadSeen := rfl
@[simp] theorem setRowWord_tlbs (s : State) (pr n : Nat) (v : Word) : (setRowWord s pr n v).tlbs = s.tlbs := rfl
@[simp] theorem setRowWord_llbs (s : State) (pr n : Nat) (v : Word) : (setRowWord s pr n v).llbs = s.llbs := rfl
@[simp] theorem setRowWord_walkers (s : State) (pr n : Nat) (v : Word) : (setRowWord s pr n v).walkers = s.walkers := rfl
@[simp] theorem setRowWord_mapped (s : State) (pr n : Nat) (v : Word) : (setRowWord s pr n v).mapped = s.mapped := rfl
@[simp] theorem setRowWord_leases (s : State) (pr n : Nat) (v : Word) : (setRowWord s pr n v).leases = s.leases := rfl
@[simp] theorem setRowWord_rehomed (s : State) (pr n : Nat) (v : Word) : (setRowWord s pr n v).rehomed = s.rehomed := rfl
@[simp] theorem setRowWord_leaving (s : State) (pr n : Nat) (v : Word) : (setRowWord s pr n v).leaving = s.leaving := rfl
@[simp] theorem setRowWord_moves (s : State) (pr n : Nat) (v : Word) : (setRowWord s pr n v).moves = s.moves := rfl
@[simp] theorem setRowWord_unmaps (s : State) (pr n : Nat) (v : Word) : (setRowWord s pr n v).unmaps = s.unmaps := rfl
@[simp] theorem setRowWord_tails (s : State) (pr n : Nat) (v : Word) : (setRowWord s pr n v).tails = s.tails := rfl
@[simp] theorem setRowWord_tailCache (s : State) (pr n : Nat) (v : Word) : (setRowWord s pr n v).tailCache = s.tailCache := rfl
@[simp] theorem setRowWord_racks (s : State) (pr n : Nat) (v : Word) : (setRowWord s pr n v).racks = s.racks := rfl
@[simp] theorem setRowWord_sweeps (s : State) (pr n : Nat) (v : Word) : (setRowWord s pr n v).sweeps = s.sweeps := rfl
@[simp] theorem setRowWord_batches (s : State) (pr n : Nat) (v : Word) : (setRowWord s pr n v).batches = s.batches := rfl
@[simp] theorem setRowWord_copyNext (s : State) (pr n : Nat) (v : Word) : (setRowWord s pr n v).copyNext = s.copyNext := rfl
@[simp] theorem setRowWord_pools (s : State) (pr n : Nat) (v : Word) : (setRowWord s pr n v).pools = s.pools := rfl
@[simp] theorem setRowWord_torn (s : State) (pr n : Nat) (v : Word) : (setRowWord s pr n v).torn = s.torn := rfl
@[simp] theorem setRowWord_tiles (s : State) (pr n : Nat) (v : Word) : (setRowWord s pr n v).tiles = s.tiles := rfl
@[simp] theorem setRowWord_saves (s : State) (pr n : Nat) (v : Word) : (setRowWord s pr n v).saves = s.saves := rfl
@[simp] theorem setRowWord_hubs (s : State) (pr n : Nat) (v : Word) : (setRowWord s pr n v).hubs = s.hubs := rfl
@[simp] theorem setRowWord_launches (s : State) (pr n : Nat) (v : Word) : (setRowWord s pr n v).launches = s.launches := rfl
@[simp] theorem setRowWord_domains (s : State) (pr n : Nat) (v : Word) : (setRowWord s pr n v).domains = s.domains := rfl
@[simp] theorem setRowWord_meetings (s : State) (pr n : Nat) (v : Word) : (setRowWord s pr n v).meetings = s.meetings := rfl
@[simp] theorem setRowWord_meetWait (s : State) (pr n : Nat) (v : Word) : (setRowWord s pr n v).meetWait = s.meetWait := rfl
@[simp] theorem setRowWord_parts (s : State) (pr n : Nat) (v : Word) : (setRowWord s pr n v).parts = s.parts := rfl
@[simp] theorem setRowWord_clusters (s : State) (pr n : Nat) (v : Word) : (setRowWord s pr n v).clusters = s.clusters := rfl
@[simp] theorem setRowWord_hub (s : State) (pr n : Nat) (v : Word) : (setRowWord s pr n v).hub = s.hub := rfl
@[simp] theorem setRowWord_peers (s : State) (pr n : Nat) (v : Word) : (setRowWord s pr n v).peers = s.peers := rfl
@[simp] theorem setRowWord_heldMsgs (s : State) (pr n : Nat) (v : Word) : (setRowWord s pr n v).heldMsgs = s.heldMsgs := rfl
@[simp] theorem setRowWord_posted (s : State) (pr n : Nat) (v : Word) : (setRowWord s pr n v).posted = s.posted := rfl
@[simp] theorem setRowWord_reads (s : State) (pr n : Nat) (v : Word) : (setRowWord s pr n v).reads = s.reads := rfl
@[simp] theorem setRowWord_vectors (s : State) (pr n : Nat) (v : Word) : (setRowWord s pr n v).vectors = s.vectors := rfl

/-! ### setExec -/

@[simp] theorem setExec_count (s : State) (e : Nat) (x : Exec) : (setExec s e x).count = s.count := rfl
@[simp] theorem setExec_turns (s : State) (e : Nat) (x : Exec) : (setExec s e x).turns = s.turns := rfl
@[simp] theorem setExec_agenda (s : State) (e : Nat) (x : Exec) : (setExec s e x).agenda = s.agenda := rfl
@[simp] theorem setExec_cur (s : State) (e : Nat) (x : Exec) : (setExec s e x).cur = s.cur := rfl
@[simp] theorem setExec_waited (s : State) (e : Nat) (x : Exec) : (setExec s e x).waited = s.waited := rfl
@[simp] theorem setExec_time (s : State) (e : Nat) (x : Exec) : (setExec s e x).time = s.time := rfl
@[simp] theorem setExec_rows (s : State) (e : Nat) (x : Exec) : (setExec s e x).rows = s.rows := rfl
@[simp] theorem setExec_spads (s : State) (e : Nat) (x : Exec) : (setExec s e x).spads = s.spads := rfl
@[simp] theorem setExec_mem (s : State) (e : Nat) (x : Exec) : (setExec s e x).mem = s.mem := rfl
@[simp] theorem setExec_blocks (s : State) (e : Nat) (x : Exec) : (setExec s e x).blocks = s.blocks := rfl
@[simp] theorem setExec_caches (s : State) (e : Nat) (x : Exec) : (setExec s e x).caches = s.caches := rfl
@[simp] theorem setExec_misses (s : State) (e : Nat) (x : Exec) : (setExec s e x).misses = s.misses := rfl
@[simp] theorem setExec_stale (s : State) (e : Nat) (x : Exec) : (setExec s e x).stale = s.stale := rfl
@[simp] theorem setExec_regs (s : State) (e : Nat) (x : Exec) : (setExec s e x).regs = s.regs := rfl
@[simp] theorem setExec_regNext (s : State) (e : Nat) (x : Exec) : (setExec s e x).regNext = s.regNext := rfl
@[simp] theorem setExec_stores (s : State) (e : Nat) (x : Exec) : (setExec s e x).stores = s.stores := rfl
@[simp] theorem setExec_ops (s : State) (e : Nat) (x : Exec) : (setExec s e x).ops = s.ops := rfl
@[simp] theorem setExec_late (s : State) (e : Nat) (x : Exec) : (setExec s e x).late = s.late := rfl
@[simp] theorem setExec_waitFor (s : State) (e : Nat) (x : Exec) : (setExec s e x).waitFor = s.waitFor := rfl
@[simp] theorem setExec_owed (s : State) (e : Nat) (x : Exec) : (setExec s e x).owed = s.owed := rfl
@[simp] theorem setExec_stalls (s : State) (e : Nat) (x : Exec) : (setExec s e x).stalls = s.stalls := rfl
@[simp] theorem setExec_homes (s : State) (e : Nat) (x : Exec) : (setExec s e x).homes = s.homes := rfl
@[simp] theorem setExec_dlines (s : State) (e : Nat) (x : Exec) : (setExec s e x).dlines = s.dlines := rfl
@[simp] theorem setExec_done (s : State) (e : Nat) (x : Exec) : (setExec s e x).done = s.done := rfl
@[simp] theorem setExec_tierMiss (s : State) (e : Nat) (x : Exec) : (setExec s e x).tierMiss = s.tierMiss := rfl
@[simp] theorem setExec_postponed (s : State) (e : Nat) (x : Exec) : (setExec s e x).postponed = s.postponed := rfl
@[simp] theorem setExec_incs (s : State) (e : Nat) (x : Exec) : (setExec s e x).incs = s.incs := rfl
@[simp] theorem setExec_deadSeen (s : State) (e : Nat) (x : Exec) : (setExec s e x).deadSeen = s.deadSeen := rfl
@[simp] theorem setExec_tlbs (s : State) (e : Nat) (x : Exec) : (setExec s e x).tlbs = s.tlbs := rfl
@[simp] theorem setExec_llbs (s : State) (e : Nat) (x : Exec) : (setExec s e x).llbs = s.llbs := rfl
@[simp] theorem setExec_walkers (s : State) (e : Nat) (x : Exec) : (setExec s e x).walkers = s.walkers := rfl
@[simp] theorem setExec_mapped (s : State) (e : Nat) (x : Exec) : (setExec s e x).mapped = s.mapped := rfl
@[simp] theorem setExec_leases (s : State) (e : Nat) (x : Exec) : (setExec s e x).leases = s.leases := rfl
@[simp] theorem setExec_rehomed (s : State) (e : Nat) (x : Exec) : (setExec s e x).rehomed = s.rehomed := rfl
@[simp] theorem setExec_leaving (s : State) (e : Nat) (x : Exec) : (setExec s e x).leaving = s.leaving := rfl
@[simp] theorem setExec_moves (s : State) (e : Nat) (x : Exec) : (setExec s e x).moves = s.moves := rfl
@[simp] theorem setExec_unmaps (s : State) (e : Nat) (x : Exec) : (setExec s e x).unmaps = s.unmaps := rfl
@[simp] theorem setExec_tails (s : State) (e : Nat) (x : Exec) : (setExec s e x).tails = s.tails := rfl
@[simp] theorem setExec_tailCache (s : State) (e : Nat) (x : Exec) : (setExec s e x).tailCache = s.tailCache := rfl
@[simp] theorem setExec_racks (s : State) (e : Nat) (x : Exec) : (setExec s e x).racks = s.racks := rfl
@[simp] theorem setExec_sweeps (s : State) (e : Nat) (x : Exec) : (setExec s e x).sweeps = s.sweeps := rfl
@[simp] theorem setExec_batches (s : State) (e : Nat) (x : Exec) : (setExec s e x).batches = s.batches := rfl
@[simp] theorem setExec_copyNext (s : State) (e : Nat) (x : Exec) : (setExec s e x).copyNext = s.copyNext := rfl
@[simp] theorem setExec_pools (s : State) (e : Nat) (x : Exec) : (setExec s e x).pools = s.pools := rfl
@[simp] theorem setExec_torn (s : State) (e : Nat) (x : Exec) : (setExec s e x).torn = s.torn := rfl
@[simp] theorem setExec_tiles (s : State) (e : Nat) (x : Exec) : (setExec s e x).tiles = s.tiles := rfl
@[simp] theorem setExec_saves (s : State) (e : Nat) (x : Exec) : (setExec s e x).saves = s.saves := rfl
@[simp] theorem setExec_hubs (s : State) (e : Nat) (x : Exec) : (setExec s e x).hubs = s.hubs := rfl
@[simp] theorem setExec_launches (s : State) (e : Nat) (x : Exec) : (setExec s e x).launches = s.launches := rfl
@[simp] theorem setExec_domains (s : State) (e : Nat) (x : Exec) : (setExec s e x).domains = s.domains := rfl
@[simp] theorem setExec_meetings (s : State) (e : Nat) (x : Exec) : (setExec s e x).meetings = s.meetings := rfl
@[simp] theorem setExec_meetWait (s : State) (e : Nat) (x : Exec) : (setExec s e x).meetWait = s.meetWait := rfl
@[simp] theorem setExec_parts (s : State) (e : Nat) (x : Exec) : (setExec s e x).parts = s.parts := rfl
@[simp] theorem setExec_clusters (s : State) (e : Nat) (x : Exec) : (setExec s e x).clusters = s.clusters := rfl
@[simp] theorem setExec_hub (s : State) (e : Nat) (x : Exec) : (setExec s e x).hub = s.hub := rfl
@[simp] theorem setExec_peers (s : State) (e : Nat) (x : Exec) : (setExec s e x).peers = s.peers := rfl
@[simp] theorem setExec_heldMsgs (s : State) (e : Nat) (x : Exec) : (setExec s e x).heldMsgs = s.heldMsgs := rfl
@[simp] theorem setExec_posted (s : State) (e : Nat) (x : Exec) : (setExec s e x).posted = s.posted := rfl
@[simp] theorem setExec_reads (s : State) (e : Nat) (x : Exec) : (setExec s e x).reads = s.reads := rfl
@[simp] theorem setExec_vectors (s : State) (e : Nat) (x : Exec) : (setExec s e x).vectors = s.vectors := rfl

/-! ### send -/

@[simp] theorem send_count (s : State) (m : Msg) : (send s m).count = s.count := rfl
@[simp] theorem send_turns (s : State) (m : Msg) : (send s m).turns = s.turns := rfl
@[simp] theorem send_cur (s : State) (m : Msg) : (send s m).cur = s.cur := rfl
@[simp] theorem send_waited (s : State) (m : Msg) : (send s m).waited = s.waited := rfl
@[simp] theorem send_time (s : State) (m : Msg) : (send s m).time = s.time := rfl
@[simp] theorem send_rows (s : State) (m : Msg) : (send s m).rows = s.rows := rfl
@[simp] theorem send_execs (s : State) (m : Msg) : (send s m).execs = s.execs := rfl
@[simp] theorem send_spads (s : State) (m : Msg) : (send s m).spads = s.spads := rfl
@[simp] theorem send_mem (s : State) (m : Msg) : (send s m).mem = s.mem := rfl
@[simp] theorem send_blocks (s : State) (m : Msg) : (send s m).blocks = s.blocks := rfl
@[simp] theorem send_caches (s : State) (m : Msg) : (send s m).caches = s.caches := rfl
@[simp] theorem send_misses (s : State) (m : Msg) : (send s m).misses = s.misses := rfl
@[simp] theorem send_stale (s : State) (m : Msg) : (send s m).stale = s.stale := rfl
@[simp] theorem send_regs (s : State) (m : Msg) : (send s m).regs = s.regs := rfl
@[simp] theorem send_regNext (s : State) (m : Msg) : (send s m).regNext = s.regNext := rfl
@[simp] theorem send_stores (s : State) (m : Msg) : (send s m).stores = s.stores := rfl
@[simp] theorem send_ops (s : State) (m : Msg) : (send s m).ops = s.ops := rfl
@[simp] theorem send_late (s : State) (m : Msg) : (send s m).late = s.late := rfl
@[simp] theorem send_waitFor (s : State) (m : Msg) : (send s m).waitFor = s.waitFor := rfl
@[simp] theorem send_owed (s : State) (m : Msg) : (send s m).owed = s.owed := rfl
@[simp] theorem send_stalls (s : State) (m : Msg) : (send s m).stalls = s.stalls := rfl
@[simp] theorem send_homes (s : State) (m : Msg) : (send s m).homes = s.homes := rfl
@[simp] theorem send_dlines (s : State) (m : Msg) : (send s m).dlines = s.dlines := rfl
@[simp] theorem send_done (s : State) (m : Msg) : (send s m).done = s.done := rfl
@[simp] theorem send_tierMiss (s : State) (m : Msg) : (send s m).tierMiss = s.tierMiss := rfl
@[simp] theorem send_postponed (s : State) (m : Msg) : (send s m).postponed = s.postponed := rfl
@[simp] theorem send_incs (s : State) (m : Msg) : (send s m).incs = s.incs := rfl
@[simp] theorem send_deadSeen (s : State) (m : Msg) : (send s m).deadSeen = s.deadSeen := rfl
@[simp] theorem send_tlbs (s : State) (m : Msg) : (send s m).tlbs = s.tlbs := rfl
@[simp] theorem send_llbs (s : State) (m : Msg) : (send s m).llbs = s.llbs := rfl
@[simp] theorem send_walkers (s : State) (m : Msg) : (send s m).walkers = s.walkers := rfl
@[simp] theorem send_mapped (s : State) (m : Msg) : (send s m).mapped = s.mapped := rfl
@[simp] theorem send_leases (s : State) (m : Msg) : (send s m).leases = s.leases := rfl
@[simp] theorem send_rehomed (s : State) (m : Msg) : (send s m).rehomed = s.rehomed := rfl
@[simp] theorem send_leaving (s : State) (m : Msg) : (send s m).leaving = s.leaving := rfl
@[simp] theorem send_moves (s : State) (m : Msg) : (send s m).moves = s.moves := rfl
@[simp] theorem send_unmaps (s : State) (m : Msg) : (send s m).unmaps = s.unmaps := rfl
@[simp] theorem send_tails (s : State) (m : Msg) : (send s m).tails = s.tails := rfl
@[simp] theorem send_tailCache (s : State) (m : Msg) : (send s m).tailCache = s.tailCache := rfl
@[simp] theorem send_racks (s : State) (m : Msg) : (send s m).racks = s.racks := rfl
@[simp] theorem send_sweeps (s : State) (m : Msg) : (send s m).sweeps = s.sweeps := rfl
@[simp] theorem send_batches (s : State) (m : Msg) : (send s m).batches = s.batches := rfl
@[simp] theorem send_copyNext (s : State) (m : Msg) : (send s m).copyNext = s.copyNext := rfl
@[simp] theorem send_pools (s : State) (m : Msg) : (send s m).pools = s.pools := rfl
@[simp] theorem send_torn (s : State) (m : Msg) : (send s m).torn = s.torn := rfl
@[simp] theorem send_tiles (s : State) (m : Msg) : (send s m).tiles = s.tiles := rfl
@[simp] theorem send_saves (s : State) (m : Msg) : (send s m).saves = s.saves := rfl
@[simp] theorem send_hubs (s : State) (m : Msg) : (send s m).hubs = s.hubs := rfl
@[simp] theorem send_launches (s : State) (m : Msg) : (send s m).launches = s.launches := rfl
@[simp] theorem send_domains (s : State) (m : Msg) : (send s m).domains = s.domains := rfl
@[simp] theorem send_meetings (s : State) (m : Msg) : (send s m).meetings = s.meetings := rfl
@[simp] theorem send_meetWait (s : State) (m : Msg) : (send s m).meetWait = s.meetWait := rfl
@[simp] theorem send_parts (s : State) (m : Msg) : (send s m).parts = s.parts := rfl
@[simp] theorem send_clusters (s : State) (m : Msg) : (send s m).clusters = s.clusters := rfl
@[simp] theorem send_hub (s : State) (m : Msg) : (send s m).hub = s.hub := rfl
@[simp] theorem send_peers (s : State) (m : Msg) : (send s m).peers = s.peers := rfl
@[simp] theorem send_heldMsgs (s : State) (m : Msg) : (send s m).heldMsgs = s.heldMsgs := rfl
@[simp] theorem send_posted (s : State) (m : Msg) : (send s m).posted = s.posted := rfl
@[simp] theorem send_reads (s : State) (m : Msg) : (send s m).reads = s.reads := rfl
@[simp] theorem send_vectors (s : State) (m : Msg) : (send s m).vectors = s.vectors := rfl

/-! ### setPart -/

@[simp] theorem setPart_count (s : State) (q : Nat) (p : Part) : (setPart s q p).count = s.count := rfl
@[simp] theorem setPart_turns (s : State) (q : Nat) (p : Part) : (setPart s q p).turns = s.turns := rfl
@[simp] theorem setPart_agenda (s : State) (q : Nat) (p : Part) : (setPart s q p).agenda = s.agenda := rfl
@[simp] theorem setPart_cur (s : State) (q : Nat) (p : Part) : (setPart s q p).cur = s.cur := rfl
@[simp] theorem setPart_waited (s : State) (q : Nat) (p : Part) : (setPart s q p).waited = s.waited := rfl
@[simp] theorem setPart_time (s : State) (q : Nat) (p : Part) : (setPart s q p).time = s.time := rfl
@[simp] theorem setPart_rows (s : State) (q : Nat) (p : Part) : (setPart s q p).rows = s.rows := rfl
@[simp] theorem setPart_execs (s : State) (q : Nat) (p : Part) : (setPart s q p).execs = s.execs := rfl
@[simp] theorem setPart_spads (s : State) (q : Nat) (p : Part) : (setPart s q p).spads = s.spads := rfl
@[simp] theorem setPart_mem (s : State) (q : Nat) (p : Part) : (setPart s q p).mem = s.mem := rfl
@[simp] theorem setPart_blocks (s : State) (q : Nat) (p : Part) : (setPart s q p).blocks = s.blocks := rfl
@[simp] theorem setPart_caches (s : State) (q : Nat) (p : Part) : (setPart s q p).caches = s.caches := rfl
@[simp] theorem setPart_misses (s : State) (q : Nat) (p : Part) : (setPart s q p).misses = s.misses := rfl
@[simp] theorem setPart_stale (s : State) (q : Nat) (p : Part) : (setPart s q p).stale = s.stale := rfl
@[simp] theorem setPart_regs (s : State) (q : Nat) (p : Part) : (setPart s q p).regs = s.regs := rfl
@[simp] theorem setPart_regNext (s : State) (q : Nat) (p : Part) : (setPart s q p).regNext = s.regNext := rfl
@[simp] theorem setPart_stores (s : State) (q : Nat) (p : Part) : (setPart s q p).stores = s.stores := rfl
@[simp] theorem setPart_ops (s : State) (q : Nat) (p : Part) : (setPart s q p).ops = s.ops := rfl
@[simp] theorem setPart_late (s : State) (q : Nat) (p : Part) : (setPart s q p).late = s.late := rfl
@[simp] theorem setPart_waitFor (s : State) (q : Nat) (p : Part) : (setPart s q p).waitFor = s.waitFor := rfl
@[simp] theorem setPart_owed (s : State) (q : Nat) (p : Part) : (setPart s q p).owed = s.owed := rfl
@[simp] theorem setPart_stalls (s : State) (q : Nat) (p : Part) : (setPart s q p).stalls = s.stalls := rfl
@[simp] theorem setPart_homes (s : State) (q : Nat) (p : Part) : (setPart s q p).homes = s.homes := rfl
@[simp] theorem setPart_dlines (s : State) (q : Nat) (p : Part) : (setPart s q p).dlines = s.dlines := rfl
@[simp] theorem setPart_done (s : State) (q : Nat) (p : Part) : (setPart s q p).done = s.done := rfl
@[simp] theorem setPart_tierMiss (s : State) (q : Nat) (p : Part) : (setPart s q p).tierMiss = s.tierMiss := rfl
@[simp] theorem setPart_postponed (s : State) (q : Nat) (p : Part) : (setPart s q p).postponed = s.postponed := rfl
@[simp] theorem setPart_incs (s : State) (q : Nat) (p : Part) : (setPart s q p).incs = s.incs := rfl
@[simp] theorem setPart_deadSeen (s : State) (q : Nat) (p : Part) : (setPart s q p).deadSeen = s.deadSeen := rfl
@[simp] theorem setPart_tlbs (s : State) (q : Nat) (p : Part) : (setPart s q p).tlbs = s.tlbs := rfl
@[simp] theorem setPart_llbs (s : State) (q : Nat) (p : Part) : (setPart s q p).llbs = s.llbs := rfl
@[simp] theorem setPart_walkers (s : State) (q : Nat) (p : Part) : (setPart s q p).walkers = s.walkers := rfl
@[simp] theorem setPart_mapped (s : State) (q : Nat) (p : Part) : (setPart s q p).mapped = s.mapped := rfl
@[simp] theorem setPart_leases (s : State) (q : Nat) (p : Part) : (setPart s q p).leases = s.leases := rfl
@[simp] theorem setPart_rehomed (s : State) (q : Nat) (p : Part) : (setPart s q p).rehomed = s.rehomed := rfl
@[simp] theorem setPart_leaving (s : State) (q : Nat) (p : Part) : (setPart s q p).leaving = s.leaving := rfl
@[simp] theorem setPart_moves (s : State) (q : Nat) (p : Part) : (setPart s q p).moves = s.moves := rfl
@[simp] theorem setPart_unmaps (s : State) (q : Nat) (p : Part) : (setPart s q p).unmaps = s.unmaps := rfl
@[simp] theorem setPart_tails (s : State) (q : Nat) (p : Part) : (setPart s q p).tails = s.tails := rfl
@[simp] theorem setPart_tailCache (s : State) (q : Nat) (p : Part) : (setPart s q p).tailCache = s.tailCache := rfl
@[simp] theorem setPart_racks (s : State) (q : Nat) (p : Part) : (setPart s q p).racks = s.racks := rfl
@[simp] theorem setPart_sweeps (s : State) (q : Nat) (p : Part) : (setPart s q p).sweeps = s.sweeps := rfl
@[simp] theorem setPart_batches (s : State) (q : Nat) (p : Part) : (setPart s q p).batches = s.batches := rfl
@[simp] theorem setPart_copyNext (s : State) (q : Nat) (p : Part) : (setPart s q p).copyNext = s.copyNext := rfl
@[simp] theorem setPart_pools (s : State) (q : Nat) (p : Part) : (setPart s q p).pools = s.pools := rfl
@[simp] theorem setPart_torn (s : State) (q : Nat) (p : Part) : (setPart s q p).torn = s.torn := rfl
@[simp] theorem setPart_tiles (s : State) (q : Nat) (p : Part) : (setPart s q p).tiles = s.tiles := rfl
@[simp] theorem setPart_saves (s : State) (q : Nat) (p : Part) : (setPart s q p).saves = s.saves := rfl
@[simp] theorem setPart_hubs (s : State) (q : Nat) (p : Part) : (setPart s q p).hubs = s.hubs := rfl
@[simp] theorem setPart_launches (s : State) (q : Nat) (p : Part) : (setPart s q p).launches = s.launches := rfl
@[simp] theorem setPart_domains (s : State) (q : Nat) (p : Part) : (setPart s q p).domains = s.domains := rfl
@[simp] theorem setPart_meetings (s : State) (q : Nat) (p : Part) : (setPart s q p).meetings = s.meetings := rfl
@[simp] theorem setPart_meetWait (s : State) (q : Nat) (p : Part) : (setPart s q p).meetWait = s.meetWait := rfl
@[simp] theorem setPart_clusters (s : State) (q : Nat) (p : Part) : (setPart s q p).clusters = s.clusters := rfl
@[simp] theorem setPart_hub (s : State) (q : Nat) (p : Part) : (setPart s q p).hub = s.hub := rfl
@[simp] theorem setPart_peers (s : State) (q : Nat) (p : Part) : (setPart s q p).peers = s.peers := rfl
@[simp] theorem setPart_heldMsgs (s : State) (q : Nat) (p : Part) : (setPart s q p).heldMsgs = s.heldMsgs := rfl
@[simp] theorem setPart_posted (s : State) (q : Nat) (p : Part) : (setPart s q p).posted = s.posted := rfl
@[simp] theorem setPart_reads (s : State) (q : Nat) (p : Part) : (setPart s q p).reads = s.reads := rfl
@[simp] theorem setPart_vectors (s : State) (q : Nat) (p : Part) : (setPart s q p).vectors = s.vectors := rfl

/-! ### setCluster -/

@[simp] theorem setCluster_count (s : State) (c : Nat) (x : Cluster) : (setCluster s c x).count = s.count := rfl
@[simp] theorem setCluster_turns (s : State) (c : Nat) (x : Cluster) : (setCluster s c x).turns = s.turns := rfl
@[simp] theorem setCluster_agenda (s : State) (c : Nat) (x : Cluster) : (setCluster s c x).agenda = s.agenda := rfl
@[simp] theorem setCluster_cur (s : State) (c : Nat) (x : Cluster) : (setCluster s c x).cur = s.cur := rfl
@[simp] theorem setCluster_waited (s : State) (c : Nat) (x : Cluster) : (setCluster s c x).waited = s.waited := rfl
@[simp] theorem setCluster_time (s : State) (c : Nat) (x : Cluster) : (setCluster s c x).time = s.time := rfl
@[simp] theorem setCluster_rows (s : State) (c : Nat) (x : Cluster) : (setCluster s c x).rows = s.rows := rfl
@[simp] theorem setCluster_execs (s : State) (c : Nat) (x : Cluster) : (setCluster s c x).execs = s.execs := rfl
@[simp] theorem setCluster_spads (s : State) (c : Nat) (x : Cluster) : (setCluster s c x).spads = s.spads := rfl
@[simp] theorem setCluster_mem (s : State) (c : Nat) (x : Cluster) : (setCluster s c x).mem = s.mem := rfl
@[simp] theorem setCluster_blocks (s : State) (c : Nat) (x : Cluster) : (setCluster s c x).blocks = s.blocks := rfl
@[simp] theorem setCluster_caches (s : State) (c : Nat) (x : Cluster) : (setCluster s c x).caches = s.caches := rfl
@[simp] theorem setCluster_misses (s : State) (c : Nat) (x : Cluster) : (setCluster s c x).misses = s.misses := rfl
@[simp] theorem setCluster_stale (s : State) (c : Nat) (x : Cluster) : (setCluster s c x).stale = s.stale := rfl
@[simp] theorem setCluster_regs (s : State) (c : Nat) (x : Cluster) : (setCluster s c x).regs = s.regs := rfl
@[simp] theorem setCluster_regNext (s : State) (c : Nat) (x : Cluster) : (setCluster s c x).regNext = s.regNext := rfl
@[simp] theorem setCluster_stores (s : State) (c : Nat) (x : Cluster) : (setCluster s c x).stores = s.stores := rfl
@[simp] theorem setCluster_ops (s : State) (c : Nat) (x : Cluster) : (setCluster s c x).ops = s.ops := rfl
@[simp] theorem setCluster_late (s : State) (c : Nat) (x : Cluster) : (setCluster s c x).late = s.late := rfl
@[simp] theorem setCluster_waitFor (s : State) (c : Nat) (x : Cluster) : (setCluster s c x).waitFor = s.waitFor := rfl
@[simp] theorem setCluster_owed (s : State) (c : Nat) (x : Cluster) : (setCluster s c x).owed = s.owed := rfl
@[simp] theorem setCluster_stalls (s : State) (c : Nat) (x : Cluster) : (setCluster s c x).stalls = s.stalls := rfl
@[simp] theorem setCluster_homes (s : State) (c : Nat) (x : Cluster) : (setCluster s c x).homes = s.homes := rfl
@[simp] theorem setCluster_dlines (s : State) (c : Nat) (x : Cluster) : (setCluster s c x).dlines = s.dlines := rfl
@[simp] theorem setCluster_done (s : State) (c : Nat) (x : Cluster) : (setCluster s c x).done = s.done := rfl
@[simp] theorem setCluster_tierMiss (s : State) (c : Nat) (x : Cluster) : (setCluster s c x).tierMiss = s.tierMiss := rfl
@[simp] theorem setCluster_postponed (s : State) (c : Nat) (x : Cluster) : (setCluster s c x).postponed = s.postponed := rfl
@[simp] theorem setCluster_incs (s : State) (c : Nat) (x : Cluster) : (setCluster s c x).incs = s.incs := rfl
@[simp] theorem setCluster_deadSeen (s : State) (c : Nat) (x : Cluster) : (setCluster s c x).deadSeen = s.deadSeen := rfl
@[simp] theorem setCluster_tlbs (s : State) (c : Nat) (x : Cluster) : (setCluster s c x).tlbs = s.tlbs := rfl
@[simp] theorem setCluster_llbs (s : State) (c : Nat) (x : Cluster) : (setCluster s c x).llbs = s.llbs := rfl
@[simp] theorem setCluster_walkers (s : State) (c : Nat) (x : Cluster) : (setCluster s c x).walkers = s.walkers := rfl
@[simp] theorem setCluster_mapped (s : State) (c : Nat) (x : Cluster) : (setCluster s c x).mapped = s.mapped := rfl
@[simp] theorem setCluster_leases (s : State) (c : Nat) (x : Cluster) : (setCluster s c x).leases = s.leases := rfl
@[simp] theorem setCluster_rehomed (s : State) (c : Nat) (x : Cluster) : (setCluster s c x).rehomed = s.rehomed := rfl
@[simp] theorem setCluster_leaving (s : State) (c : Nat) (x : Cluster) : (setCluster s c x).leaving = s.leaving := rfl
@[simp] theorem setCluster_moves (s : State) (c : Nat) (x : Cluster) : (setCluster s c x).moves = s.moves := rfl
@[simp] theorem setCluster_unmaps (s : State) (c : Nat) (x : Cluster) : (setCluster s c x).unmaps = s.unmaps := rfl
@[simp] theorem setCluster_tails (s : State) (c : Nat) (x : Cluster) : (setCluster s c x).tails = s.tails := rfl
@[simp] theorem setCluster_tailCache (s : State) (c : Nat) (x : Cluster) : (setCluster s c x).tailCache = s.tailCache := rfl
@[simp] theorem setCluster_racks (s : State) (c : Nat) (x : Cluster) : (setCluster s c x).racks = s.racks := rfl
@[simp] theorem setCluster_sweeps (s : State) (c : Nat) (x : Cluster) : (setCluster s c x).sweeps = s.sweeps := rfl
@[simp] theorem setCluster_batches (s : State) (c : Nat) (x : Cluster) : (setCluster s c x).batches = s.batches := rfl
@[simp] theorem setCluster_copyNext (s : State) (c : Nat) (x : Cluster) : (setCluster s c x).copyNext = s.copyNext := rfl
@[simp] theorem setCluster_pools (s : State) (c : Nat) (x : Cluster) : (setCluster s c x).pools = s.pools := rfl
@[simp] theorem setCluster_torn (s : State) (c : Nat) (x : Cluster) : (setCluster s c x).torn = s.torn := rfl
@[simp] theorem setCluster_tiles (s : State) (c : Nat) (x : Cluster) : (setCluster s c x).tiles = s.tiles := rfl
@[simp] theorem setCluster_saves (s : State) (c : Nat) (x : Cluster) : (setCluster s c x).saves = s.saves := rfl
@[simp] theorem setCluster_hubs (s : State) (c : Nat) (x : Cluster) : (setCluster s c x).hubs = s.hubs := rfl
@[simp] theorem setCluster_launches (s : State) (c : Nat) (x : Cluster) : (setCluster s c x).launches = s.launches := rfl
@[simp] theorem setCluster_domains (s : State) (c : Nat) (x : Cluster) : (setCluster s c x).domains = s.domains := rfl
@[simp] theorem setCluster_meetings (s : State) (c : Nat) (x : Cluster) : (setCluster s c x).meetings = s.meetings := rfl
@[simp] theorem setCluster_meetWait (s : State) (c : Nat) (x : Cluster) : (setCluster s c x).meetWait = s.meetWait := rfl
@[simp] theorem setCluster_parts (s : State) (c : Nat) (x : Cluster) : (setCluster s c x).parts = s.parts := rfl
@[simp] theorem setCluster_hub (s : State) (c : Nat) (x : Cluster) : (setCluster s c x).hub = s.hub := rfl
@[simp] theorem setCluster_peers (s : State) (c : Nat) (x : Cluster) : (setCluster s c x).peers = s.peers := rfl
@[simp] theorem setCluster_heldMsgs (s : State) (c : Nat) (x : Cluster) : (setCluster s c x).heldMsgs = s.heldMsgs := rfl
@[simp] theorem setCluster_posted (s : State) (c : Nat) (x : Cluster) : (setCluster s c x).posted = s.posted := rfl
@[simp] theorem setCluster_reads (s : State) (c : Nat) (x : Cluster) : (setCluster s c x).reads = s.reads := rfl
@[simp] theorem setCluster_vectors (s : State) (c : Nat) (x : Cluster) : (setCluster s c x).vectors = s.vectors := rfl

/-! ### setPool -/

@[simp] theorem setPool_count (s : State) (p : Nat) (x : Pool) : (setPool s p x).count = s.count := rfl
@[simp] theorem setPool_turns (s : State) (p : Nat) (x : Pool) : (setPool s p x).turns = s.turns := rfl
@[simp] theorem setPool_agenda (s : State) (p : Nat) (x : Pool) : (setPool s p x).agenda = s.agenda := rfl
@[simp] theorem setPool_cur (s : State) (p : Nat) (x : Pool) : (setPool s p x).cur = s.cur := rfl
@[simp] theorem setPool_waited (s : State) (p : Nat) (x : Pool) : (setPool s p x).waited = s.waited := rfl
@[simp] theorem setPool_time (s : State) (p : Nat) (x : Pool) : (setPool s p x).time = s.time := rfl
@[simp] theorem setPool_rows (s : State) (p : Nat) (x : Pool) : (setPool s p x).rows = s.rows := rfl
@[simp] theorem setPool_execs (s : State) (p : Nat) (x : Pool) : (setPool s p x).execs = s.execs := rfl
@[simp] theorem setPool_spads (s : State) (p : Nat) (x : Pool) : (setPool s p x).spads = s.spads := rfl
@[simp] theorem setPool_mem (s : State) (p : Nat) (x : Pool) : (setPool s p x).mem = s.mem := rfl
@[simp] theorem setPool_blocks (s : State) (p : Nat) (x : Pool) : (setPool s p x).blocks = s.blocks := rfl
@[simp] theorem setPool_caches (s : State) (p : Nat) (x : Pool) : (setPool s p x).caches = s.caches := rfl
@[simp] theorem setPool_misses (s : State) (p : Nat) (x : Pool) : (setPool s p x).misses = s.misses := rfl
@[simp] theorem setPool_stale (s : State) (p : Nat) (x : Pool) : (setPool s p x).stale = s.stale := rfl
@[simp] theorem setPool_regs (s : State) (p : Nat) (x : Pool) : (setPool s p x).regs = s.regs := rfl
@[simp] theorem setPool_regNext (s : State) (p : Nat) (x : Pool) : (setPool s p x).regNext = s.regNext := rfl
@[simp] theorem setPool_stores (s : State) (p : Nat) (x : Pool) : (setPool s p x).stores = s.stores := rfl
@[simp] theorem setPool_ops (s : State) (p : Nat) (x : Pool) : (setPool s p x).ops = s.ops := rfl
@[simp] theorem setPool_late (s : State) (p : Nat) (x : Pool) : (setPool s p x).late = s.late := rfl
@[simp] theorem setPool_waitFor (s : State) (p : Nat) (x : Pool) : (setPool s p x).waitFor = s.waitFor := rfl
@[simp] theorem setPool_owed (s : State) (p : Nat) (x : Pool) : (setPool s p x).owed = s.owed := rfl
@[simp] theorem setPool_stalls (s : State) (p : Nat) (x : Pool) : (setPool s p x).stalls = s.stalls := rfl
@[simp] theorem setPool_homes (s : State) (p : Nat) (x : Pool) : (setPool s p x).homes = s.homes := rfl
@[simp] theorem setPool_dlines (s : State) (p : Nat) (x : Pool) : (setPool s p x).dlines = s.dlines := rfl
@[simp] theorem setPool_done (s : State) (p : Nat) (x : Pool) : (setPool s p x).done = s.done := rfl
@[simp] theorem setPool_tierMiss (s : State) (p : Nat) (x : Pool) : (setPool s p x).tierMiss = s.tierMiss := rfl
@[simp] theorem setPool_postponed (s : State) (p : Nat) (x : Pool) : (setPool s p x).postponed = s.postponed := rfl
@[simp] theorem setPool_incs (s : State) (p : Nat) (x : Pool) : (setPool s p x).incs = s.incs := rfl
@[simp] theorem setPool_deadSeen (s : State) (p : Nat) (x : Pool) : (setPool s p x).deadSeen = s.deadSeen := rfl
@[simp] theorem setPool_tlbs (s : State) (p : Nat) (x : Pool) : (setPool s p x).tlbs = s.tlbs := rfl
@[simp] theorem setPool_llbs (s : State) (p : Nat) (x : Pool) : (setPool s p x).llbs = s.llbs := rfl
@[simp] theorem setPool_walkers (s : State) (p : Nat) (x : Pool) : (setPool s p x).walkers = s.walkers := rfl
@[simp] theorem setPool_mapped (s : State) (p : Nat) (x : Pool) : (setPool s p x).mapped = s.mapped := rfl
@[simp] theorem setPool_leases (s : State) (p : Nat) (x : Pool) : (setPool s p x).leases = s.leases := rfl
@[simp] theorem setPool_rehomed (s : State) (p : Nat) (x : Pool) : (setPool s p x).rehomed = s.rehomed := rfl
@[simp] theorem setPool_leaving (s : State) (p : Nat) (x : Pool) : (setPool s p x).leaving = s.leaving := rfl
@[simp] theorem setPool_moves (s : State) (p : Nat) (x : Pool) : (setPool s p x).moves = s.moves := rfl
@[simp] theorem setPool_unmaps (s : State) (p : Nat) (x : Pool) : (setPool s p x).unmaps = s.unmaps := rfl
@[simp] theorem setPool_tails (s : State) (p : Nat) (x : Pool) : (setPool s p x).tails = s.tails := rfl
@[simp] theorem setPool_tailCache (s : State) (p : Nat) (x : Pool) : (setPool s p x).tailCache = s.tailCache := rfl
@[simp] theorem setPool_racks (s : State) (p : Nat) (x : Pool) : (setPool s p x).racks = s.racks := rfl
@[simp] theorem setPool_sweeps (s : State) (p : Nat) (x : Pool) : (setPool s p x).sweeps = s.sweeps := rfl
@[simp] theorem setPool_batches (s : State) (p : Nat) (x : Pool) : (setPool s p x).batches = s.batches := rfl
@[simp] theorem setPool_copyNext (s : State) (p : Nat) (x : Pool) : (setPool s p x).copyNext = s.copyNext := rfl
@[simp] theorem setPool_torn (s : State) (p : Nat) (x : Pool) : (setPool s p x).torn = s.torn := rfl
@[simp] theorem setPool_tiles (s : State) (p : Nat) (x : Pool) : (setPool s p x).tiles = s.tiles := rfl
@[simp] theorem setPool_saves (s : State) (p : Nat) (x : Pool) : (setPool s p x).saves = s.saves := rfl
@[simp] theorem setPool_hubs (s : State) (p : Nat) (x : Pool) : (setPool s p x).hubs = s.hubs := rfl
@[simp] theorem setPool_launches (s : State) (p : Nat) (x : Pool) : (setPool s p x).launches = s.launches := rfl
@[simp] theorem setPool_domains (s : State) (p : Nat) (x : Pool) : (setPool s p x).domains = s.domains := rfl
@[simp] theorem setPool_meetings (s : State) (p : Nat) (x : Pool) : (setPool s p x).meetings = s.meetings := rfl
@[simp] theorem setPool_meetWait (s : State) (p : Nat) (x : Pool) : (setPool s p x).meetWait = s.meetWait := rfl
@[simp] theorem setPool_parts (s : State) (p : Nat) (x : Pool) : (setPool s p x).parts = s.parts := rfl
@[simp] theorem setPool_clusters (s : State) (p : Nat) (x : Pool) : (setPool s p x).clusters = s.clusters := rfl
@[simp] theorem setPool_hub (s : State) (p : Nat) (x : Pool) : (setPool s p x).hub = s.hub := rfl
@[simp] theorem setPool_peers (s : State) (p : Nat) (x : Pool) : (setPool s p x).peers = s.peers := rfl
@[simp] theorem setPool_heldMsgs (s : State) (p : Nat) (x : Pool) : (setPool s p x).heldMsgs = s.heldMsgs := rfl
@[simp] theorem setPool_posted (s : State) (p : Nat) (x : Pool) : (setPool s p x).posted = s.posted := rfl
@[simp] theorem setPool_reads (s : State) (p : Nat) (x : Pool) : (setPool s p x).reads = s.reads := rfl
@[simp] theorem setPool_vectors (s : State) (p : Nat) (x : Pool) : (setPool s p x).vectors = s.vectors := rfl

/-! ### setSpad -/

@[simp] theorem setSpad_count (s : State) (c : Nat) (m : Memory) : (setSpad s c m).count = s.count := rfl
@[simp] theorem setSpad_turns (s : State) (c : Nat) (m : Memory) : (setSpad s c m).turns = s.turns := rfl
@[simp] theorem setSpad_agenda (s : State) (c : Nat) (m : Memory) : (setSpad s c m).agenda = s.agenda := rfl
@[simp] theorem setSpad_cur (s : State) (c : Nat) (m : Memory) : (setSpad s c m).cur = s.cur := rfl
@[simp] theorem setSpad_waited (s : State) (c : Nat) (m : Memory) : (setSpad s c m).waited = s.waited := rfl
@[simp] theorem setSpad_time (s : State) (c : Nat) (m : Memory) : (setSpad s c m).time = s.time := rfl
@[simp] theorem setSpad_rows (s : State) (c : Nat) (m : Memory) : (setSpad s c m).rows = s.rows := rfl
@[simp] theorem setSpad_execs (s : State) (c : Nat) (m : Memory) : (setSpad s c m).execs = s.execs := rfl
@[simp] theorem setSpad_mem (s : State) (c : Nat) (m : Memory) : (setSpad s c m).mem = s.mem := rfl
@[simp] theorem setSpad_blocks (s : State) (c : Nat) (m : Memory) : (setSpad s c m).blocks = s.blocks := rfl
@[simp] theorem setSpad_caches (s : State) (c : Nat) (m : Memory) : (setSpad s c m).caches = s.caches := rfl
@[simp] theorem setSpad_misses (s : State) (c : Nat) (m : Memory) : (setSpad s c m).misses = s.misses := rfl
@[simp] theorem setSpad_stale (s : State) (c : Nat) (m : Memory) : (setSpad s c m).stale = s.stale := rfl
@[simp] theorem setSpad_regs (s : State) (c : Nat) (m : Memory) : (setSpad s c m).regs = s.regs := rfl
@[simp] theorem setSpad_regNext (s : State) (c : Nat) (m : Memory) : (setSpad s c m).regNext = s.regNext := rfl
@[simp] theorem setSpad_stores (s : State) (c : Nat) (m : Memory) : (setSpad s c m).stores = s.stores := rfl
@[simp] theorem setSpad_ops (s : State) (c : Nat) (m : Memory) : (setSpad s c m).ops = s.ops := rfl
@[simp] theorem setSpad_late (s : State) (c : Nat) (m : Memory) : (setSpad s c m).late = s.late := rfl
@[simp] theorem setSpad_waitFor (s : State) (c : Nat) (m : Memory) : (setSpad s c m).waitFor = s.waitFor := rfl
@[simp] theorem setSpad_owed (s : State) (c : Nat) (m : Memory) : (setSpad s c m).owed = s.owed := rfl
@[simp] theorem setSpad_stalls (s : State) (c : Nat) (m : Memory) : (setSpad s c m).stalls = s.stalls := rfl
@[simp] theorem setSpad_homes (s : State) (c : Nat) (m : Memory) : (setSpad s c m).homes = s.homes := rfl
@[simp] theorem setSpad_dlines (s : State) (c : Nat) (m : Memory) : (setSpad s c m).dlines = s.dlines := rfl
@[simp] theorem setSpad_done (s : State) (c : Nat) (m : Memory) : (setSpad s c m).done = s.done := rfl
@[simp] theorem setSpad_tierMiss (s : State) (c : Nat) (m : Memory) : (setSpad s c m).tierMiss = s.tierMiss := rfl
@[simp] theorem setSpad_postponed (s : State) (c : Nat) (m : Memory) : (setSpad s c m).postponed = s.postponed := rfl
@[simp] theorem setSpad_incs (s : State) (c : Nat) (m : Memory) : (setSpad s c m).incs = s.incs := rfl
@[simp] theorem setSpad_deadSeen (s : State) (c : Nat) (m : Memory) : (setSpad s c m).deadSeen = s.deadSeen := rfl
@[simp] theorem setSpad_tlbs (s : State) (c : Nat) (m : Memory) : (setSpad s c m).tlbs = s.tlbs := rfl
@[simp] theorem setSpad_llbs (s : State) (c : Nat) (m : Memory) : (setSpad s c m).llbs = s.llbs := rfl
@[simp] theorem setSpad_walkers (s : State) (c : Nat) (m : Memory) : (setSpad s c m).walkers = s.walkers := rfl
@[simp] theorem setSpad_mapped (s : State) (c : Nat) (m : Memory) : (setSpad s c m).mapped = s.mapped := rfl
@[simp] theorem setSpad_leases (s : State) (c : Nat) (m : Memory) : (setSpad s c m).leases = s.leases := rfl
@[simp] theorem setSpad_rehomed (s : State) (c : Nat) (m : Memory) : (setSpad s c m).rehomed = s.rehomed := rfl
@[simp] theorem setSpad_leaving (s : State) (c : Nat) (m : Memory) : (setSpad s c m).leaving = s.leaving := rfl
@[simp] theorem setSpad_moves (s : State) (c : Nat) (m : Memory) : (setSpad s c m).moves = s.moves := rfl
@[simp] theorem setSpad_unmaps (s : State) (c : Nat) (m : Memory) : (setSpad s c m).unmaps = s.unmaps := rfl
@[simp] theorem setSpad_tails (s : State) (c : Nat) (m : Memory) : (setSpad s c m).tails = s.tails := rfl
@[simp] theorem setSpad_tailCache (s : State) (c : Nat) (m : Memory) : (setSpad s c m).tailCache = s.tailCache := rfl
@[simp] theorem setSpad_racks (s : State) (c : Nat) (m : Memory) : (setSpad s c m).racks = s.racks := rfl
@[simp] theorem setSpad_sweeps (s : State) (c : Nat) (m : Memory) : (setSpad s c m).sweeps = s.sweeps := rfl
@[simp] theorem setSpad_batches (s : State) (c : Nat) (m : Memory) : (setSpad s c m).batches = s.batches := rfl
@[simp] theorem setSpad_copyNext (s : State) (c : Nat) (m : Memory) : (setSpad s c m).copyNext = s.copyNext := rfl
@[simp] theorem setSpad_pools (s : State) (c : Nat) (m : Memory) : (setSpad s c m).pools = s.pools := rfl
@[simp] theorem setSpad_torn (s : State) (c : Nat) (m : Memory) : (setSpad s c m).torn = s.torn := rfl
@[simp] theorem setSpad_tiles (s : State) (c : Nat) (m : Memory) : (setSpad s c m).tiles = s.tiles := rfl
@[simp] theorem setSpad_saves (s : State) (c : Nat) (m : Memory) : (setSpad s c m).saves = s.saves := rfl
@[simp] theorem setSpad_hubs (s : State) (c : Nat) (m : Memory) : (setSpad s c m).hubs = s.hubs := rfl
@[simp] theorem setSpad_launches (s : State) (c : Nat) (m : Memory) : (setSpad s c m).launches = s.launches := rfl
@[simp] theorem setSpad_domains (s : State) (c : Nat) (m : Memory) : (setSpad s c m).domains = s.domains := rfl
@[simp] theorem setSpad_meetings (s : State) (c : Nat) (m : Memory) : (setSpad s c m).meetings = s.meetings := rfl
@[simp] theorem setSpad_meetWait (s : State) (c : Nat) (m : Memory) : (setSpad s c m).meetWait = s.meetWait := rfl
@[simp] theorem setSpad_parts (s : State) (c : Nat) (m : Memory) : (setSpad s c m).parts = s.parts := rfl
@[simp] theorem setSpad_clusters (s : State) (c : Nat) (m : Memory) : (setSpad s c m).clusters = s.clusters := rfl
@[simp] theorem setSpad_hub (s : State) (c : Nat) (m : Memory) : (setSpad s c m).hub = s.hub := rfl
@[simp] theorem setSpad_peers (s : State) (c : Nat) (m : Memory) : (setSpad s c m).peers = s.peers := rfl
@[simp] theorem setSpad_heldMsgs (s : State) (c : Nat) (m : Memory) : (setSpad s c m).heldMsgs = s.heldMsgs := rfl
@[simp] theorem setSpad_posted (s : State) (c : Nat) (m : Memory) : (setSpad s c m).posted = s.posted := rfl
@[simp] theorem setSpad_reads (s : State) (c : Nat) (m : Memory) : (setSpad s c m).reads = s.reads := rfl
@[simp] theorem setSpad_vectors (s : State) (c : Nat) (m : Memory) : (setSpad s c m).vectors = s.vectors := rfl

/-! ### ownStore -/

@[simp] theorem ownStore_count (s : State) (pa : Nat) (data : List Byte) : (ownStore s pa data).count = s.count := rfl
@[simp] theorem ownStore_turns (s : State) (pa : Nat) (data : List Byte) : (ownStore s pa data).turns = s.turns := rfl
@[simp] theorem ownStore_agenda (s : State) (pa : Nat) (data : List Byte) : (ownStore s pa data).agenda = s.agenda := rfl
@[simp] theorem ownStore_cur (s : State) (pa : Nat) (data : List Byte) : (ownStore s pa data).cur = s.cur := rfl
@[simp] theorem ownStore_waited (s : State) (pa : Nat) (data : List Byte) : (ownStore s pa data).waited = s.waited := rfl
@[simp] theorem ownStore_time (s : State) (pa : Nat) (data : List Byte) : (ownStore s pa data).time = s.time := rfl
@[simp] theorem ownStore_rows (s : State) (pa : Nat) (data : List Byte) : (ownStore s pa data).rows = s.rows := rfl
@[simp] theorem ownStore_execs (s : State) (pa : Nat) (data : List Byte) : (ownStore s pa data).execs = s.execs := rfl
@[simp] theorem ownStore_spads (s : State) (pa : Nat) (data : List Byte) : (ownStore s pa data).spads = s.spads := rfl
@[simp] theorem ownStore_caches (s : State) (pa : Nat) (data : List Byte) : (ownStore s pa data).caches = s.caches := rfl
@[simp] theorem ownStore_misses (s : State) (pa : Nat) (data : List Byte) : (ownStore s pa data).misses = s.misses := rfl
@[simp] theorem ownStore_stale (s : State) (pa : Nat) (data : List Byte) : (ownStore s pa data).stale = s.stale := rfl
@[simp] theorem ownStore_regs (s : State) (pa : Nat) (data : List Byte) : (ownStore s pa data).regs = s.regs := rfl
@[simp] theorem ownStore_regNext (s : State) (pa : Nat) (data : List Byte) : (ownStore s pa data).regNext = s.regNext := rfl
@[simp] theorem ownStore_stores (s : State) (pa : Nat) (data : List Byte) : (ownStore s pa data).stores = s.stores := rfl
@[simp] theorem ownStore_ops (s : State) (pa : Nat) (data : List Byte) : (ownStore s pa data).ops = s.ops := rfl
@[simp] theorem ownStore_late (s : State) (pa : Nat) (data : List Byte) : (ownStore s pa data).late = s.late := rfl
@[simp] theorem ownStore_waitFor (s : State) (pa : Nat) (data : List Byte) : (ownStore s pa data).waitFor = s.waitFor := rfl
@[simp] theorem ownStore_owed (s : State) (pa : Nat) (data : List Byte) : (ownStore s pa data).owed = s.owed := rfl
@[simp] theorem ownStore_stalls (s : State) (pa : Nat) (data : List Byte) : (ownStore s pa data).stalls = s.stalls := rfl
@[simp] theorem ownStore_homes (s : State) (pa : Nat) (data : List Byte) : (ownStore s pa data).homes = s.homes := rfl
@[simp] theorem ownStore_dlines (s : State) (pa : Nat) (data : List Byte) : (ownStore s pa data).dlines = s.dlines := rfl
@[simp] theorem ownStore_done (s : State) (pa : Nat) (data : List Byte) : (ownStore s pa data).done = s.done := rfl
@[simp] theorem ownStore_tierMiss (s : State) (pa : Nat) (data : List Byte) : (ownStore s pa data).tierMiss = s.tierMiss := rfl
@[simp] theorem ownStore_postponed (s : State) (pa : Nat) (data : List Byte) : (ownStore s pa data).postponed = s.postponed := rfl
@[simp] theorem ownStore_incs (s : State) (pa : Nat) (data : List Byte) : (ownStore s pa data).incs = s.incs := rfl
@[simp] theorem ownStore_deadSeen (s : State) (pa : Nat) (data : List Byte) : (ownStore s pa data).deadSeen = s.deadSeen := rfl
@[simp] theorem ownStore_tlbs (s : State) (pa : Nat) (data : List Byte) : (ownStore s pa data).tlbs = s.tlbs := rfl
@[simp] theorem ownStore_llbs (s : State) (pa : Nat) (data : List Byte) : (ownStore s pa data).llbs = s.llbs := rfl
@[simp] theorem ownStore_walkers (s : State) (pa : Nat) (data : List Byte) : (ownStore s pa data).walkers = s.walkers := rfl
@[simp] theorem ownStore_mapped (s : State) (pa : Nat) (data : List Byte) : (ownStore s pa data).mapped = s.mapped := rfl
@[simp] theorem ownStore_leases (s : State) (pa : Nat) (data : List Byte) : (ownStore s pa data).leases = s.leases := rfl
@[simp] theorem ownStore_rehomed (s : State) (pa : Nat) (data : List Byte) : (ownStore s pa data).rehomed = s.rehomed := rfl
@[simp] theorem ownStore_leaving (s : State) (pa : Nat) (data : List Byte) : (ownStore s pa data).leaving = s.leaving := rfl
@[simp] theorem ownStore_moves (s : State) (pa : Nat) (data : List Byte) : (ownStore s pa data).moves = s.moves := rfl
@[simp] theorem ownStore_unmaps (s : State) (pa : Nat) (data : List Byte) : (ownStore s pa data).unmaps = s.unmaps := rfl
@[simp] theorem ownStore_tails (s : State) (pa : Nat) (data : List Byte) : (ownStore s pa data).tails = s.tails := rfl
@[simp] theorem ownStore_tailCache (s : State) (pa : Nat) (data : List Byte) : (ownStore s pa data).tailCache = s.tailCache := rfl
@[simp] theorem ownStore_racks (s : State) (pa : Nat) (data : List Byte) : (ownStore s pa data).racks = s.racks := rfl
@[simp] theorem ownStore_sweeps (s : State) (pa : Nat) (data : List Byte) : (ownStore s pa data).sweeps = s.sweeps := rfl
@[simp] theorem ownStore_batches (s : State) (pa : Nat) (data : List Byte) : (ownStore s pa data).batches = s.batches := rfl
@[simp] theorem ownStore_copyNext (s : State) (pa : Nat) (data : List Byte) : (ownStore s pa data).copyNext = s.copyNext := rfl
@[simp] theorem ownStore_pools (s : State) (pa : Nat) (data : List Byte) : (ownStore s pa data).pools = s.pools := rfl
@[simp] theorem ownStore_torn (s : State) (pa : Nat) (data : List Byte) : (ownStore s pa data).torn = s.torn := rfl
@[simp] theorem ownStore_tiles (s : State) (pa : Nat) (data : List Byte) : (ownStore s pa data).tiles = s.tiles := rfl
@[simp] theorem ownStore_saves (s : State) (pa : Nat) (data : List Byte) : (ownStore s pa data).saves = s.saves := rfl
@[simp] theorem ownStore_hubs (s : State) (pa : Nat) (data : List Byte) : (ownStore s pa data).hubs = s.hubs := rfl
@[simp] theorem ownStore_launches (s : State) (pa : Nat) (data : List Byte) : (ownStore s pa data).launches = s.launches := rfl
@[simp] theorem ownStore_domains (s : State) (pa : Nat) (data : List Byte) : (ownStore s pa data).domains = s.domains := rfl
@[simp] theorem ownStore_meetings (s : State) (pa : Nat) (data : List Byte) : (ownStore s pa data).meetings = s.meetings := rfl
@[simp] theorem ownStore_meetWait (s : State) (pa : Nat) (data : List Byte) : (ownStore s pa data).meetWait = s.meetWait := rfl
@[simp] theorem ownStore_parts (s : State) (pa : Nat) (data : List Byte) : (ownStore s pa data).parts = s.parts := rfl
@[simp] theorem ownStore_clusters (s : State) (pa : Nat) (data : List Byte) : (ownStore s pa data).clusters = s.clusters := rfl
@[simp] theorem ownStore_hub (s : State) (pa : Nat) (data : List Byte) : (ownStore s pa data).hub = s.hub := rfl
@[simp] theorem ownStore_peers (s : State) (pa : Nat) (data : List Byte) : (ownStore s pa data).peers = s.peers := rfl
@[simp] theorem ownStore_heldMsgs (s : State) (pa : Nat) (data : List Byte) : (ownStore s pa data).heldMsgs = s.heldMsgs := rfl
@[simp] theorem ownStore_posted (s : State) (pa : Nat) (data : List Byte) : (ownStore s pa data).posted = s.posted := rfl
@[simp] theorem ownStore_reads (s : State) (pa : Nat) (data : List Byte) : (ownStore s pa data).reads = s.reads := rfl
@[simp] theorem ownStore_vectors (s : State) (pa : Nat) (data : List Byte) : (ownStore s pa data).vectors = s.vectors := rfl

/-! ### setMemWord -/

@[simp] theorem setMemWord_count (s : State) (pa : Nat) (v : Word) : (setMemWord s pa v).count = s.count := ownStore_count ..
@[simp] theorem setMemWord_turns (s : State) (pa : Nat) (v : Word) : (setMemWord s pa v).turns = s.turns := ownStore_turns ..
@[simp] theorem setMemWord_agenda (s : State) (pa : Nat) (v : Word) : (setMemWord s pa v).agenda = s.agenda := ownStore_agenda ..
@[simp] theorem setMemWord_cur (s : State) (pa : Nat) (v : Word) : (setMemWord s pa v).cur = s.cur := ownStore_cur ..
@[simp] theorem setMemWord_waited (s : State) (pa : Nat) (v : Word) : (setMemWord s pa v).waited = s.waited := ownStore_waited ..
@[simp] theorem setMemWord_time (s : State) (pa : Nat) (v : Word) : (setMemWord s pa v).time = s.time := ownStore_time ..
@[simp] theorem setMemWord_rows (s : State) (pa : Nat) (v : Word) : (setMemWord s pa v).rows = s.rows := ownStore_rows ..
@[simp] theorem setMemWord_execs (s : State) (pa : Nat) (v : Word) : (setMemWord s pa v).execs = s.execs := ownStore_execs ..
@[simp] theorem setMemWord_spads (s : State) (pa : Nat) (v : Word) : (setMemWord s pa v).spads = s.spads := ownStore_spads ..
@[simp] theorem setMemWord_caches (s : State) (pa : Nat) (v : Word) : (setMemWord s pa v).caches = s.caches := ownStore_caches ..
@[simp] theorem setMemWord_misses (s : State) (pa : Nat) (v : Word) : (setMemWord s pa v).misses = s.misses := ownStore_misses ..
@[simp] theorem setMemWord_stale (s : State) (pa : Nat) (v : Word) : (setMemWord s pa v).stale = s.stale := ownStore_stale ..
@[simp] theorem setMemWord_regs (s : State) (pa : Nat) (v : Word) : (setMemWord s pa v).regs = s.regs := ownStore_regs ..
@[simp] theorem setMemWord_regNext (s : State) (pa : Nat) (v : Word) : (setMemWord s pa v).regNext = s.regNext := ownStore_regNext ..
@[simp] theorem setMemWord_stores (s : State) (pa : Nat) (v : Word) : (setMemWord s pa v).stores = s.stores := ownStore_stores ..
@[simp] theorem setMemWord_ops (s : State) (pa : Nat) (v : Word) : (setMemWord s pa v).ops = s.ops := ownStore_ops ..
@[simp] theorem setMemWord_late (s : State) (pa : Nat) (v : Word) : (setMemWord s pa v).late = s.late := ownStore_late ..
@[simp] theorem setMemWord_waitFor (s : State) (pa : Nat) (v : Word) : (setMemWord s pa v).waitFor = s.waitFor := ownStore_waitFor ..
@[simp] theorem setMemWord_owed (s : State) (pa : Nat) (v : Word) : (setMemWord s pa v).owed = s.owed := ownStore_owed ..
@[simp] theorem setMemWord_stalls (s : State) (pa : Nat) (v : Word) : (setMemWord s pa v).stalls = s.stalls := ownStore_stalls ..
@[simp] theorem setMemWord_homes (s : State) (pa : Nat) (v : Word) : (setMemWord s pa v).homes = s.homes := ownStore_homes ..
@[simp] theorem setMemWord_dlines (s : State) (pa : Nat) (v : Word) : (setMemWord s pa v).dlines = s.dlines := ownStore_dlines ..
@[simp] theorem setMemWord_done (s : State) (pa : Nat) (v : Word) : (setMemWord s pa v).done = s.done := ownStore_done ..
@[simp] theorem setMemWord_tierMiss (s : State) (pa : Nat) (v : Word) : (setMemWord s pa v).tierMiss = s.tierMiss := ownStore_tierMiss ..
@[simp] theorem setMemWord_postponed (s : State) (pa : Nat) (v : Word) : (setMemWord s pa v).postponed = s.postponed := ownStore_postponed ..
@[simp] theorem setMemWord_incs (s : State) (pa : Nat) (v : Word) : (setMemWord s pa v).incs = s.incs := ownStore_incs ..
@[simp] theorem setMemWord_deadSeen (s : State) (pa : Nat) (v : Word) : (setMemWord s pa v).deadSeen = s.deadSeen := ownStore_deadSeen ..
@[simp] theorem setMemWord_tlbs (s : State) (pa : Nat) (v : Word) : (setMemWord s pa v).tlbs = s.tlbs := ownStore_tlbs ..
@[simp] theorem setMemWord_llbs (s : State) (pa : Nat) (v : Word) : (setMemWord s pa v).llbs = s.llbs := ownStore_llbs ..
@[simp] theorem setMemWord_walkers (s : State) (pa : Nat) (v : Word) : (setMemWord s pa v).walkers = s.walkers := ownStore_walkers ..
@[simp] theorem setMemWord_mapped (s : State) (pa : Nat) (v : Word) : (setMemWord s pa v).mapped = s.mapped := ownStore_mapped ..
@[simp] theorem setMemWord_leases (s : State) (pa : Nat) (v : Word) : (setMemWord s pa v).leases = s.leases := ownStore_leases ..
@[simp] theorem setMemWord_rehomed (s : State) (pa : Nat) (v : Word) : (setMemWord s pa v).rehomed = s.rehomed := ownStore_rehomed ..
@[simp] theorem setMemWord_leaving (s : State) (pa : Nat) (v : Word) : (setMemWord s pa v).leaving = s.leaving := ownStore_leaving ..
@[simp] theorem setMemWord_moves (s : State) (pa : Nat) (v : Word) : (setMemWord s pa v).moves = s.moves := ownStore_moves ..
@[simp] theorem setMemWord_unmaps (s : State) (pa : Nat) (v : Word) : (setMemWord s pa v).unmaps = s.unmaps := ownStore_unmaps ..
@[simp] theorem setMemWord_tails (s : State) (pa : Nat) (v : Word) : (setMemWord s pa v).tails = s.tails := ownStore_tails ..
@[simp] theorem setMemWord_tailCache (s : State) (pa : Nat) (v : Word) : (setMemWord s pa v).tailCache = s.tailCache := ownStore_tailCache ..
@[simp] theorem setMemWord_racks (s : State) (pa : Nat) (v : Word) : (setMemWord s pa v).racks = s.racks := ownStore_racks ..
@[simp] theorem setMemWord_sweeps (s : State) (pa : Nat) (v : Word) : (setMemWord s pa v).sweeps = s.sweeps := ownStore_sweeps ..
@[simp] theorem setMemWord_batches (s : State) (pa : Nat) (v : Word) : (setMemWord s pa v).batches = s.batches := ownStore_batches ..
@[simp] theorem setMemWord_copyNext (s : State) (pa : Nat) (v : Word) : (setMemWord s pa v).copyNext = s.copyNext := ownStore_copyNext ..
@[simp] theorem setMemWord_pools (s : State) (pa : Nat) (v : Word) : (setMemWord s pa v).pools = s.pools := ownStore_pools ..
@[simp] theorem setMemWord_torn (s : State) (pa : Nat) (v : Word) : (setMemWord s pa v).torn = s.torn := ownStore_torn ..
@[simp] theorem setMemWord_tiles (s : State) (pa : Nat) (v : Word) : (setMemWord s pa v).tiles = s.tiles := ownStore_tiles ..
@[simp] theorem setMemWord_saves (s : State) (pa : Nat) (v : Word) : (setMemWord s pa v).saves = s.saves := ownStore_saves ..
@[simp] theorem setMemWord_hubs (s : State) (pa : Nat) (v : Word) : (setMemWord s pa v).hubs = s.hubs := ownStore_hubs ..
@[simp] theorem setMemWord_launches (s : State) (pa : Nat) (v : Word) : (setMemWord s pa v).launches = s.launches := ownStore_launches ..
@[simp] theorem setMemWord_domains (s : State) (pa : Nat) (v : Word) : (setMemWord s pa v).domains = s.domains := ownStore_domains ..
@[simp] theorem setMemWord_meetings (s : State) (pa : Nat) (v : Word) : (setMemWord s pa v).meetings = s.meetings := ownStore_meetings ..
@[simp] theorem setMemWord_meetWait (s : State) (pa : Nat) (v : Word) : (setMemWord s pa v).meetWait = s.meetWait := ownStore_meetWait ..
@[simp] theorem setMemWord_parts (s : State) (pa : Nat) (v : Word) : (setMemWord s pa v).parts = s.parts := ownStore_parts ..
@[simp] theorem setMemWord_clusters (s : State) (pa : Nat) (v : Word) : (setMemWord s pa v).clusters = s.clusters := ownStore_clusters ..
@[simp] theorem setMemWord_hub (s : State) (pa : Nat) (v : Word) : (setMemWord s pa v).hub = s.hub := ownStore_hub ..
@[simp] theorem setMemWord_peers (s : State) (pa : Nat) (v : Word) : (setMemWord s pa v).peers = s.peers := ownStore_peers ..
@[simp] theorem setMemWord_heldMsgs (s : State) (pa : Nat) (v : Word) : (setMemWord s pa v).heldMsgs = s.heldMsgs := ownStore_heldMsgs ..
@[simp] theorem setMemWord_posted (s : State) (pa : Nat) (v : Word) : (setMemWord s pa v).posted = s.posted := ownStore_posted ..
@[simp] theorem setMemWord_reads (s : State) (pa : Nat) (v : Word) : (setMemWord s pa v).reads = s.reads := ownStore_reads ..
@[simp] theorem setMemWord_vectors (s : State) (pa : Nat) (v : Word) : (setMemWord s pa v).vectors = s.vectors := ownStore_vectors ..

/-! ### setBlock -/

@[simp] theorem setBlock_count (s : State) (pa : Nat) (b : Block) : (setBlock s pa b).count = s.count := rfl
@[simp] theorem setBlock_turns (s : State) (pa : Nat) (b : Block) : (setBlock s pa b).turns = s.turns := rfl
@[simp] theorem setBlock_agenda (s : State) (pa : Nat) (b : Block) : (setBlock s pa b).agenda = s.agenda := rfl
@[simp] theorem setBlock_cur (s : State) (pa : Nat) (b : Block) : (setBlock s pa b).cur = s.cur := rfl
@[simp] theorem setBlock_waited (s : State) (pa : Nat) (b : Block) : (setBlock s pa b).waited = s.waited := rfl
@[simp] theorem setBlock_time (s : State) (pa : Nat) (b : Block) : (setBlock s pa b).time = s.time := rfl
@[simp] theorem setBlock_rows (s : State) (pa : Nat) (b : Block) : (setBlock s pa b).rows = s.rows := rfl
@[simp] theorem setBlock_execs (s : State) (pa : Nat) (b : Block) : (setBlock s pa b).execs = s.execs := rfl
@[simp] theorem setBlock_spads (s : State) (pa : Nat) (b : Block) : (setBlock s pa b).spads = s.spads := rfl
@[simp] theorem setBlock_mem (s : State) (pa : Nat) (b : Block) : (setBlock s pa b).mem = s.mem := rfl
@[simp] theorem setBlock_caches (s : State) (pa : Nat) (b : Block) : (setBlock s pa b).caches = s.caches := rfl
@[simp] theorem setBlock_misses (s : State) (pa : Nat) (b : Block) : (setBlock s pa b).misses = s.misses := rfl
@[simp] theorem setBlock_stale (s : State) (pa : Nat) (b : Block) : (setBlock s pa b).stale = s.stale := rfl
@[simp] theorem setBlock_regs (s : State) (pa : Nat) (b : Block) : (setBlock s pa b).regs = s.regs := rfl
@[simp] theorem setBlock_regNext (s : State) (pa : Nat) (b : Block) : (setBlock s pa b).regNext = s.regNext := rfl
@[simp] theorem setBlock_stores (s : State) (pa : Nat) (b : Block) : (setBlock s pa b).stores = s.stores := rfl
@[simp] theorem setBlock_ops (s : State) (pa : Nat) (b : Block) : (setBlock s pa b).ops = s.ops := rfl
@[simp] theorem setBlock_late (s : State) (pa : Nat) (b : Block) : (setBlock s pa b).late = s.late := rfl
@[simp] theorem setBlock_waitFor (s : State) (pa : Nat) (b : Block) : (setBlock s pa b).waitFor = s.waitFor := rfl
@[simp] theorem setBlock_owed (s : State) (pa : Nat) (b : Block) : (setBlock s pa b).owed = s.owed := rfl
@[simp] theorem setBlock_stalls (s : State) (pa : Nat) (b : Block) : (setBlock s pa b).stalls = s.stalls := rfl
@[simp] theorem setBlock_homes (s : State) (pa : Nat) (b : Block) : (setBlock s pa b).homes = s.homes := rfl
@[simp] theorem setBlock_dlines (s : State) (pa : Nat) (b : Block) : (setBlock s pa b).dlines = s.dlines := rfl
@[simp] theorem setBlock_done (s : State) (pa : Nat) (b : Block) : (setBlock s pa b).done = s.done := rfl
@[simp] theorem setBlock_tierMiss (s : State) (pa : Nat) (b : Block) : (setBlock s pa b).tierMiss = s.tierMiss := rfl
@[simp] theorem setBlock_postponed (s : State) (pa : Nat) (b : Block) : (setBlock s pa b).postponed = s.postponed := rfl
@[simp] theorem setBlock_incs (s : State) (pa : Nat) (b : Block) : (setBlock s pa b).incs = s.incs := rfl
@[simp] theorem setBlock_deadSeen (s : State) (pa : Nat) (b : Block) : (setBlock s pa b).deadSeen = s.deadSeen := rfl
@[simp] theorem setBlock_tlbs (s : State) (pa : Nat) (b : Block) : (setBlock s pa b).tlbs = s.tlbs := rfl
@[simp] theorem setBlock_llbs (s : State) (pa : Nat) (b : Block) : (setBlock s pa b).llbs = s.llbs := rfl
@[simp] theorem setBlock_walkers (s : State) (pa : Nat) (b : Block) : (setBlock s pa b).walkers = s.walkers := rfl
@[simp] theorem setBlock_mapped (s : State) (pa : Nat) (b : Block) : (setBlock s pa b).mapped = s.mapped := rfl
@[simp] theorem setBlock_leases (s : State) (pa : Nat) (b : Block) : (setBlock s pa b).leases = s.leases := rfl
@[simp] theorem setBlock_rehomed (s : State) (pa : Nat) (b : Block) : (setBlock s pa b).rehomed = s.rehomed := rfl
@[simp] theorem setBlock_leaving (s : State) (pa : Nat) (b : Block) : (setBlock s pa b).leaving = s.leaving := rfl
@[simp] theorem setBlock_moves (s : State) (pa : Nat) (b : Block) : (setBlock s pa b).moves = s.moves := rfl
@[simp] theorem setBlock_unmaps (s : State) (pa : Nat) (b : Block) : (setBlock s pa b).unmaps = s.unmaps := rfl
@[simp] theorem setBlock_tails (s : State) (pa : Nat) (b : Block) : (setBlock s pa b).tails = s.tails := rfl
@[simp] theorem setBlock_tailCache (s : State) (pa : Nat) (b : Block) : (setBlock s pa b).tailCache = s.tailCache := rfl
@[simp] theorem setBlock_racks (s : State) (pa : Nat) (b : Block) : (setBlock s pa b).racks = s.racks := rfl
@[simp] theorem setBlock_sweeps (s : State) (pa : Nat) (b : Block) : (setBlock s pa b).sweeps = s.sweeps := rfl
@[simp] theorem setBlock_batches (s : State) (pa : Nat) (b : Block) : (setBlock s pa b).batches = s.batches := rfl
@[simp] theorem setBlock_copyNext (s : State) (pa : Nat) (b : Block) : (setBlock s pa b).copyNext = s.copyNext := rfl
@[simp] theorem setBlock_pools (s : State) (pa : Nat) (b : Block) : (setBlock s pa b).pools = s.pools := rfl
@[simp] theorem setBlock_torn (s : State) (pa : Nat) (b : Block) : (setBlock s pa b).torn = s.torn := rfl
@[simp] theorem setBlock_tiles (s : State) (pa : Nat) (b : Block) : (setBlock s pa b).tiles = s.tiles := rfl
@[simp] theorem setBlock_saves (s : State) (pa : Nat) (b : Block) : (setBlock s pa b).saves = s.saves := rfl
@[simp] theorem setBlock_hubs (s : State) (pa : Nat) (b : Block) : (setBlock s pa b).hubs = s.hubs := rfl
@[simp] theorem setBlock_launches (s : State) (pa : Nat) (b : Block) : (setBlock s pa b).launches = s.launches := rfl
@[simp] theorem setBlock_domains (s : State) (pa : Nat) (b : Block) : (setBlock s pa b).domains = s.domains := rfl
@[simp] theorem setBlock_meetings (s : State) (pa : Nat) (b : Block) : (setBlock s pa b).meetings = s.meetings := rfl
@[simp] theorem setBlock_meetWait (s : State) (pa : Nat) (b : Block) : (setBlock s pa b).meetWait = s.meetWait := rfl
@[simp] theorem setBlock_parts (s : State) (pa : Nat) (b : Block) : (setBlock s pa b).parts = s.parts := rfl
@[simp] theorem setBlock_clusters (s : State) (pa : Nat) (b : Block) : (setBlock s pa b).clusters = s.clusters := rfl
@[simp] theorem setBlock_hub (s : State) (pa : Nat) (b : Block) : (setBlock s pa b).hub = s.hub := rfl
@[simp] theorem setBlock_peers (s : State) (pa : Nat) (b : Block) : (setBlock s pa b).peers = s.peers := rfl
@[simp] theorem setBlock_heldMsgs (s : State) (pa : Nat) (b : Block) : (setBlock s pa b).heldMsgs = s.heldMsgs := rfl
@[simp] theorem setBlock_posted (s : State) (pa : Nat) (b : Block) : (setBlock s pa b).posted = s.posted := rfl
@[simp] theorem setBlock_reads (s : State) (pa : Nat) (b : Block) : (setBlock s pa b).reads = s.reads := rfl
@[simp] theorem setBlock_vectors (s : State) (pa : Nat) (b : Block) : (setBlock s pa b).vectors = s.vectors := rfl

/-! ### setHline -/

@[simp] theorem setHline_count (s : State) (l : Nat) (h : HLine) : (setHline s l h).count = s.count := rfl
@[simp] theorem setHline_turns (s : State) (l : Nat) (h : HLine) : (setHline s l h).turns = s.turns := rfl
@[simp] theorem setHline_agenda (s : State) (l : Nat) (h : HLine) : (setHline s l h).agenda = s.agenda := rfl
@[simp] theorem setHline_cur (s : State) (l : Nat) (h : HLine) : (setHline s l h).cur = s.cur := rfl
@[simp] theorem setHline_waited (s : State) (l : Nat) (h : HLine) : (setHline s l h).waited = s.waited := rfl
@[simp] theorem setHline_time (s : State) (l : Nat) (h : HLine) : (setHline s l h).time = s.time := rfl
@[simp] theorem setHline_rows (s : State) (l : Nat) (h : HLine) : (setHline s l h).rows = s.rows := rfl
@[simp] theorem setHline_execs (s : State) (l : Nat) (h : HLine) : (setHline s l h).execs = s.execs := rfl
@[simp] theorem setHline_spads (s : State) (l : Nat) (h : HLine) : (setHline s l h).spads = s.spads := rfl
@[simp] theorem setHline_mem (s : State) (l : Nat) (h : HLine) : (setHline s l h).mem = s.mem := rfl
@[simp] theorem setHline_blocks (s : State) (l : Nat) (h : HLine) : (setHline s l h).blocks = s.blocks := rfl
@[simp] theorem setHline_caches (s : State) (l : Nat) (h : HLine) : (setHline s l h).caches = s.caches := rfl
@[simp] theorem setHline_misses (s : State) (l : Nat) (h : HLine) : (setHline s l h).misses = s.misses := rfl
@[simp] theorem setHline_stale (s : State) (l : Nat) (h : HLine) : (setHline s l h).stale = s.stale := rfl
@[simp] theorem setHline_regs (s : State) (l : Nat) (h : HLine) : (setHline s l h).regs = s.regs := rfl
@[simp] theorem setHline_regNext (s : State) (l : Nat) (h : HLine) : (setHline s l h).regNext = s.regNext := rfl
@[simp] theorem setHline_stores (s : State) (l : Nat) (h : HLine) : (setHline s l h).stores = s.stores := rfl
@[simp] theorem setHline_ops (s : State) (l : Nat) (h : HLine) : (setHline s l h).ops = s.ops := rfl
@[simp] theorem setHline_late (s : State) (l : Nat) (h : HLine) : (setHline s l h).late = s.late := rfl
@[simp] theorem setHline_waitFor (s : State) (l : Nat) (h : HLine) : (setHline s l h).waitFor = s.waitFor := rfl
@[simp] theorem setHline_owed (s : State) (l : Nat) (h : HLine) : (setHline s l h).owed = s.owed := rfl
@[simp] theorem setHline_stalls (s : State) (l : Nat) (h : HLine) : (setHline s l h).stalls = s.stalls := rfl
@[simp] theorem setHline_dlines (s : State) (l : Nat) (h : HLine) : (setHline s l h).dlines = s.dlines := rfl
@[simp] theorem setHline_done (s : State) (l : Nat) (h : HLine) : (setHline s l h).done = s.done := rfl
@[simp] theorem setHline_tierMiss (s : State) (l : Nat) (h : HLine) : (setHline s l h).tierMiss = s.tierMiss := rfl
@[simp] theorem setHline_postponed (s : State) (l : Nat) (h : HLine) : (setHline s l h).postponed = s.postponed := rfl
@[simp] theorem setHline_incs (s : State) (l : Nat) (h : HLine) : (setHline s l h).incs = s.incs := rfl
@[simp] theorem setHline_deadSeen (s : State) (l : Nat) (h : HLine) : (setHline s l h).deadSeen = s.deadSeen := rfl
@[simp] theorem setHline_tlbs (s : State) (l : Nat) (h : HLine) : (setHline s l h).tlbs = s.tlbs := rfl
@[simp] theorem setHline_llbs (s : State) (l : Nat) (h : HLine) : (setHline s l h).llbs = s.llbs := rfl
@[simp] theorem setHline_walkers (s : State) (l : Nat) (h : HLine) : (setHline s l h).walkers = s.walkers := rfl
@[simp] theorem setHline_mapped (s : State) (l : Nat) (h : HLine) : (setHline s l h).mapped = s.mapped := rfl
@[simp] theorem setHline_leases (s : State) (l : Nat) (h : HLine) : (setHline s l h).leases = s.leases := rfl
@[simp] theorem setHline_rehomed (s : State) (l : Nat) (h : HLine) : (setHline s l h).rehomed = s.rehomed := rfl
@[simp] theorem setHline_leaving (s : State) (l : Nat) (h : HLine) : (setHline s l h).leaving = s.leaving := rfl
@[simp] theorem setHline_moves (s : State) (l : Nat) (h : HLine) : (setHline s l h).moves = s.moves := rfl
@[simp] theorem setHline_unmaps (s : State) (l : Nat) (h : HLine) : (setHline s l h).unmaps = s.unmaps := rfl
@[simp] theorem setHline_tails (s : State) (l : Nat) (h : HLine) : (setHline s l h).tails = s.tails := rfl
@[simp] theorem setHline_tailCache (s : State) (l : Nat) (h : HLine) : (setHline s l h).tailCache = s.tailCache := rfl
@[simp] theorem setHline_racks (s : State) (l : Nat) (h : HLine) : (setHline s l h).racks = s.racks := rfl
@[simp] theorem setHline_sweeps (s : State) (l : Nat) (h : HLine) : (setHline s l h).sweeps = s.sweeps := rfl
@[simp] theorem setHline_batches (s : State) (l : Nat) (h : HLine) : (setHline s l h).batches = s.batches := rfl
@[simp] theorem setHline_copyNext (s : State) (l : Nat) (h : HLine) : (setHline s l h).copyNext = s.copyNext := rfl
@[simp] theorem setHline_pools (s : State) (l : Nat) (h : HLine) : (setHline s l h).pools = s.pools := rfl
@[simp] theorem setHline_torn (s : State) (l : Nat) (h : HLine) : (setHline s l h).torn = s.torn := rfl
@[simp] theorem setHline_tiles (s : State) (l : Nat) (h : HLine) : (setHline s l h).tiles = s.tiles := rfl
@[simp] theorem setHline_saves (s : State) (l : Nat) (h : HLine) : (setHline s l h).saves = s.saves := rfl
@[simp] theorem setHline_hubs (s : State) (l : Nat) (h : HLine) : (setHline s l h).hubs = s.hubs := rfl
@[simp] theorem setHline_launches (s : State) (l : Nat) (h : HLine) : (setHline s l h).launches = s.launches := rfl
@[simp] theorem setHline_domains (s : State) (l : Nat) (h : HLine) : (setHline s l h).domains = s.domains := rfl
@[simp] theorem setHline_meetings (s : State) (l : Nat) (h : HLine) : (setHline s l h).meetings = s.meetings := rfl
@[simp] theorem setHline_meetWait (s : State) (l : Nat) (h : HLine) : (setHline s l h).meetWait = s.meetWait := rfl
@[simp] theorem setHline_parts (s : State) (l : Nat) (h : HLine) : (setHline s l h).parts = s.parts := rfl
@[simp] theorem setHline_clusters (s : State) (l : Nat) (h : HLine) : (setHline s l h).clusters = s.clusters := rfl
@[simp] theorem setHline_hub (s : State) (l : Nat) (h : HLine) : (setHline s l h).hub = s.hub := rfl
@[simp] theorem setHline_peers (s : State) (l : Nat) (h : HLine) : (setHline s l h).peers = s.peers := rfl
@[simp] theorem setHline_heldMsgs (s : State) (l : Nat) (h : HLine) : (setHline s l h).heldMsgs = s.heldMsgs := rfl
@[simp] theorem setHline_posted (s : State) (l : Nat) (h : HLine) : (setHline s l h).posted = s.posted := rfl
@[simp] theorem setHline_reads (s : State) (l : Nat) (h : HLine) : (setHline s l h).reads = s.reads := rfl
@[simp] theorem setHline_vectors (s : State) (l : Nat) (h : HLine) : (setHline s l h).vectors = s.vectors := rfl

/-! ### setSlot -/

@[simp] theorem setSlot_count (s : State) (e k : Nat) (x : Slot) : (setSlot s e k x).count = s.count := rfl
@[simp] theorem setSlot_turns (s : State) (e k : Nat) (x : Slot) : (setSlot s e k x).turns = s.turns := rfl
@[simp] theorem setSlot_agenda (s : State) (e k : Nat) (x : Slot) : (setSlot s e k x).agenda = s.agenda := rfl
@[simp] theorem setSlot_cur (s : State) (e k : Nat) (x : Slot) : (setSlot s e k x).cur = s.cur := rfl
@[simp] theorem setSlot_waited (s : State) (e k : Nat) (x : Slot) : (setSlot s e k x).waited = s.waited := rfl
@[simp] theorem setSlot_time (s : State) (e k : Nat) (x : Slot) : (setSlot s e k x).time = s.time := rfl
@[simp] theorem setSlot_rows (s : State) (e k : Nat) (x : Slot) : (setSlot s e k x).rows = s.rows := rfl
@[simp] theorem setSlot_spads (s : State) (e k : Nat) (x : Slot) : (setSlot s e k x).spads = s.spads := rfl
@[simp] theorem setSlot_mem (s : State) (e k : Nat) (x : Slot) : (setSlot s e k x).mem = s.mem := rfl
@[simp] theorem setSlot_blocks (s : State) (e k : Nat) (x : Slot) : (setSlot s e k x).blocks = s.blocks := rfl
@[simp] theorem setSlot_caches (s : State) (e k : Nat) (x : Slot) : (setSlot s e k x).caches = s.caches := rfl
@[simp] theorem setSlot_misses (s : State) (e k : Nat) (x : Slot) : (setSlot s e k x).misses = s.misses := rfl
@[simp] theorem setSlot_stale (s : State) (e k : Nat) (x : Slot) : (setSlot s e k x).stale = s.stale := rfl
@[simp] theorem setSlot_regs (s : State) (e k : Nat) (x : Slot) : (setSlot s e k x).regs = s.regs := rfl
@[simp] theorem setSlot_regNext (s : State) (e k : Nat) (x : Slot) : (setSlot s e k x).regNext = s.regNext := rfl
@[simp] theorem setSlot_stores (s : State) (e k : Nat) (x : Slot) : (setSlot s e k x).stores = s.stores := rfl
@[simp] theorem setSlot_ops (s : State) (e k : Nat) (x : Slot) : (setSlot s e k x).ops = s.ops := rfl
@[simp] theorem setSlot_late (s : State) (e k : Nat) (x : Slot) : (setSlot s e k x).late = s.late := rfl
@[simp] theorem setSlot_waitFor (s : State) (e k : Nat) (x : Slot) : (setSlot s e k x).waitFor = s.waitFor := rfl
@[simp] theorem setSlot_owed (s : State) (e k : Nat) (x : Slot) : (setSlot s e k x).owed = s.owed := rfl
@[simp] theorem setSlot_stalls (s : State) (e k : Nat) (x : Slot) : (setSlot s e k x).stalls = s.stalls := rfl
@[simp] theorem setSlot_homes (s : State) (e k : Nat) (x : Slot) : (setSlot s e k x).homes = s.homes := rfl
@[simp] theorem setSlot_dlines (s : State) (e k : Nat) (x : Slot) : (setSlot s e k x).dlines = s.dlines := rfl
@[simp] theorem setSlot_done (s : State) (e k : Nat) (x : Slot) : (setSlot s e k x).done = s.done := rfl
@[simp] theorem setSlot_tierMiss (s : State) (e k : Nat) (x : Slot) : (setSlot s e k x).tierMiss = s.tierMiss := rfl
@[simp] theorem setSlot_postponed (s : State) (e k : Nat) (x : Slot) : (setSlot s e k x).postponed = s.postponed := rfl
@[simp] theorem setSlot_incs (s : State) (e k : Nat) (x : Slot) : (setSlot s e k x).incs = s.incs := rfl
@[simp] theorem setSlot_deadSeen (s : State) (e k : Nat) (x : Slot) : (setSlot s e k x).deadSeen = s.deadSeen := rfl
@[simp] theorem setSlot_tlbs (s : State) (e k : Nat) (x : Slot) : (setSlot s e k x).tlbs = s.tlbs := rfl
@[simp] theorem setSlot_llbs (s : State) (e k : Nat) (x : Slot) : (setSlot s e k x).llbs = s.llbs := rfl
@[simp] theorem setSlot_walkers (s : State) (e k : Nat) (x : Slot) : (setSlot s e k x).walkers = s.walkers := rfl
@[simp] theorem setSlot_mapped (s : State) (e k : Nat) (x : Slot) : (setSlot s e k x).mapped = s.mapped := rfl
@[simp] theorem setSlot_leases (s : State) (e k : Nat) (x : Slot) : (setSlot s e k x).leases = s.leases := rfl
@[simp] theorem setSlot_rehomed (s : State) (e k : Nat) (x : Slot) : (setSlot s e k x).rehomed = s.rehomed := rfl
@[simp] theorem setSlot_leaving (s : State) (e k : Nat) (x : Slot) : (setSlot s e k x).leaving = s.leaving := rfl
@[simp] theorem setSlot_moves (s : State) (e k : Nat) (x : Slot) : (setSlot s e k x).moves = s.moves := rfl
@[simp] theorem setSlot_unmaps (s : State) (e k : Nat) (x : Slot) : (setSlot s e k x).unmaps = s.unmaps := rfl
@[simp] theorem setSlot_tails (s : State) (e k : Nat) (x : Slot) : (setSlot s e k x).tails = s.tails := rfl
@[simp] theorem setSlot_tailCache (s : State) (e k : Nat) (x : Slot) : (setSlot s e k x).tailCache = s.tailCache := rfl
@[simp] theorem setSlot_racks (s : State) (e k : Nat) (x : Slot) : (setSlot s e k x).racks = s.racks := rfl
@[simp] theorem setSlot_sweeps (s : State) (e k : Nat) (x : Slot) : (setSlot s e k x).sweeps = s.sweeps := rfl
@[simp] theorem setSlot_batches (s : State) (e k : Nat) (x : Slot) : (setSlot s e k x).batches = s.batches := rfl
@[simp] theorem setSlot_copyNext (s : State) (e k : Nat) (x : Slot) : (setSlot s e k x).copyNext = s.copyNext := rfl
@[simp] theorem setSlot_pools (s : State) (e k : Nat) (x : Slot) : (setSlot s e k x).pools = s.pools := rfl
@[simp] theorem setSlot_torn (s : State) (e k : Nat) (x : Slot) : (setSlot s e k x).torn = s.torn := rfl
@[simp] theorem setSlot_tiles (s : State) (e k : Nat) (x : Slot) : (setSlot s e k x).tiles = s.tiles := rfl
@[simp] theorem setSlot_saves (s : State) (e k : Nat) (x : Slot) : (setSlot s e k x).saves = s.saves := rfl
@[simp] theorem setSlot_hubs (s : State) (e k : Nat) (x : Slot) : (setSlot s e k x).hubs = s.hubs := rfl
@[simp] theorem setSlot_launches (s : State) (e k : Nat) (x : Slot) : (setSlot s e k x).launches = s.launches := rfl
@[simp] theorem setSlot_domains (s : State) (e k : Nat) (x : Slot) : (setSlot s e k x).domains = s.domains := rfl
@[simp] theorem setSlot_meetings (s : State) (e k : Nat) (x : Slot) : (setSlot s e k x).meetings = s.meetings := rfl
@[simp] theorem setSlot_meetWait (s : State) (e k : Nat) (x : Slot) : (setSlot s e k x).meetWait = s.meetWait := rfl
@[simp] theorem setSlot_parts (s : State) (e k : Nat) (x : Slot) : (setSlot s e k x).parts = s.parts := rfl
@[simp] theorem setSlot_clusters (s : State) (e k : Nat) (x : Slot) : (setSlot s e k x).clusters = s.clusters := rfl
@[simp] theorem setSlot_hub (s : State) (e k : Nat) (x : Slot) : (setSlot s e k x).hub = s.hub := rfl
@[simp] theorem setSlot_peers (s : State) (e k : Nat) (x : Slot) : (setSlot s e k x).peers = s.peers := rfl
@[simp] theorem setSlot_heldMsgs (s : State) (e k : Nat) (x : Slot) : (setSlot s e k x).heldMsgs = s.heldMsgs := rfl
@[simp] theorem setSlot_posted (s : State) (e k : Nat) (x : Slot) : (setSlot s e k x).posted = s.posted := rfl
@[simp] theorem setSlot_reads (s : State) (e k : Nat) (x : Slot) : (setSlot s e k x).reads = s.reads := rfl
@[simp] theorem setSlot_vectors (s : State) (e k : Nat) (x : Slot) : (setSlot s e k x).vectors = s.vectors := rfl

end Sys2Proof.Machine
end

