-- ==== Sys2Proof/Laws/Rows.lean ====
section
/-!
SUPPORT. Row words and registers of the executing row: reads after writes, the constant g0, and what the end of a chain
does to d1 and d2.
-/

namespace Sys2Proof.Machine

@[simp] theorem imgWord_imgSet (im : Image) (n k : Nat) (v : Word) (hn : n < 128) :
    imgWord (imgSet im n v) k = if k = n then v else imgWord im k := by
  unfold imgWord imgSet
  by_cases h : k = n
  · subst h; simp [hn]
  · by_cases hk : k < 128
    · simp [hk, h, Ne.symm (fun e : k = n => h e)]
    · simp [hk, h]

/-- A row word read after a row word is written. -/
theorem rowWord_setRowWord (s : State) (pr n q k : Nat) (v : Word) (hn : n < 128) :
    rowWord (setRowWord s pr n v) q k = if q = pr ∧ k = n then v else rowWord s q k := by
  unfold rowWord rowImage setRowWord
  by_cases h : q = pr
  · subst h; simp [hn, rowImage]
  · simp [h, mapGet_mapSet_ne]

@[simp] theorem rowWord_setRowWord_self (s : State) (pr n : Nat) (v : Word) (hn : n < 128) :
    rowWord (setRowWord s pr n v) pr n = v := by simp [rowWord_setRowWord, hn]

theorem rowWord_setRowWord_other (s : State) (pr n k : Nat) (v : Word) (hn : n < 128) (h : k ≠ n) :
    rowWord (setRowWord s pr n v) pr k = rowWord s pr k := by simp [rowWord_setRowWord, hn, h]

theorem rowWord_setRowWord_row (s : State) {pr q : Nat} (n k : Nat) (v : Word) (hn : n < 128) (h : q ≠ pr) :
    rowWord (setRowWord s pr n v) q k = rowWord s q k := by simp [rowWord_setRowWord, hn, h]

theorem regIndex_lt (r : Reg) : regIndex r < 128 := by
  have := r.num.isLt
  unfold regIndex
  split <;> omega

/-- g0 reads zero in every state (R46, R190). -/
@[simp] theorem readReg_g0 (s : State) (r : Reg) (h : isG0 r = true) : readReg s r = 0 := by simp [readReg, h]
/-- A write to g0 is discarded (R46, R190). -/
@[simp] theorem writeReg_g0 (s : State) (r : Reg) (v : Word) (h : isG0 r = true) : writeReg s r v = s := by
  simp [writeReg, h]

theorem writeReg_frame (s : State) (r : Reg) (v : Word) : writeReg s r v = { s with rows := (writeReg s r v).rows } := by
  unfold writeReg; split <;> rfl

@[simp] theorem writeReg_cur (s : State) (r : Reg) (v : Word) : (writeReg s r v).cur = s.cur := by
  unfold writeReg; split <;> rfl
@[simp] theorem setPc_cur (s : State) (v : Word) : (setPc s v).cur = s.cur := rfl
@[simp] theorem countChain_cur (s : State) : (countChain s).cur = s.cur := rfl
@[simp] theorem advance_cur (c : Ctl) (s : State) : (advance c s).cur = s.cur := rfl
@[simp] theorem jump_cur (t : Word) (s : State) : (jump t s).cur = s.cur := rfl

/-- A row word after a register is written. -/
theorem rowWord_writeReg (s : State) (r : Reg) (v : Word) (q k : Nat) :
    rowWord (writeReg s r v) q k = if isG0 r = false ∧ q = s.cur ∧ k = regIndex r then v else rowWord s q k := by
  unfold writeReg
  by_cases h : isG0 r = true
  · simp [h]
  · simp only [Bool.not_eq_true] at h
    simp [h, rowWord_setRowWord, regIndex_lt]

/-- A register read after the same register is written. -/
theorem readReg_writeReg_self (s : State) (r : Reg) (v : Word) (h : isG0 r = false) :
    readReg (writeReg s r v) r = v := by
  simp [readReg, h, rowWord_writeReg]

/-- The end of a chain writes d1 and d2 of the executing row, nothing else (R52, R192). -/
theorem jump_frame (t : Word) (s : State) : jump t s = { s with rows := (jump t s).rows } := rfl
theorem advance_frame (c : Ctl) (s : State) : advance c s = { s with rows := (advance c s).rows } := rfl
theorem rowWord_jump (t : Word) (s : State) (q k : Nat) (h : q ≠ s.cur ∨ (k ≠ 1 ∧ k ≠ 2)) :
    rowWord (jump t s) q k = rowWord s q k := by
  unfold jump countChain setPc
  rw [rowWord_setRowWord _ _ _ _ _ _ (by omega), rowWord_setRowWord _ _ _ _ _ _ (by omega)]
  simp only [setRowWord_cur]
  rcases h with h | ⟨h1, h2⟩
  · simp [h, rowWord_setRowWord]
  · simp [h1, h2, rowWord_setRowWord]
@[simp] theorem pc_jump (t : Word) (s : State) : pc (jump t s) = t := by
  unfold pc jump countChain setPc
  rw [rowWord_setRowWord _ _ _ _ _ _ (by omega)]
  simp [rowWord_setRowWord]
theorem advance_eq_jump (c : Ctl) (s : State) : advance c s = jump (nextPc c s) s := rfl
@[simp] theorem pc_advance (c : Ctl) (s : State) : pc (advance c s) = nextPc c s := pc_jump _ _
theorem rowWord_advance (c : Ctl) (s : State) (q k : Nat) (h : q ≠ s.cur ∨ (k ≠ 1 ∧ k ≠ 2)) :
    rowWord (advance c s) q k = rowWord s q k := rowWord_jump _ s q k h
/-- d2 after a chain: only QCNT changes (R192). -/
theorem d2_jump (t : Word) (s : State) :
    rowWord (jump t s) s.cur 2 =
      putBits (rowWord s s.cur 2) 24 8 (min 255 (bits (rowWord s s.cur 2) 24 8 + 1)) := by
  unfold jump countChain setPc
  simp [rowWord_setRowWord]

/-! ### Chains -/

/-- A chain whose guard passes runs its body (R36). -/
theorem chain_pass {c : Ctl} {s : State} {f : State → State} (h : guardPasses c s = true) : chain c s f = .next (f s) := by
  simp [chain, h]
/-- A chain whose guard fails only moves on (R36). -/
theorem chain_fail {c : Ctl} {s : State} {f : State → State} (h : guardPasses c s = false) :
    chain c s f = .next (advance c s) := by
  simp [chain, h]
theorem resultChain_pass {c : Ctl} {rd : Reg} {s : State} {v : State → Word} (h : guardPasses c s = true)
    (hw : rd.win ≠ 3) : resultChain c rd s v = .next (advance c (writeReg s rd (v s))) := by
  unfold resultChain; rw [chain_pass h, if_neg hw]
theorem resultChain_ro {c : Ctl} {rd : Reg} {s : State} {v : State → Word} (h : guardPasses c s = true)
    (hw : rd.win = 3) : resultChain c rd s v = .next (roFault s) := by
  unfold resultChain; rw [chain_pass h, if_pos hw]
theorem slowChain_pass {c : Ctl} {rd : Reg} {n : Nat} {s : State} {v : State → Word} (h : guardPasses c s = true)
    (hw : rd.win ≠ 3) : slowChain c rd n s v = .next (stall (advance c (writeReg s rd (v s))) n) := by
  unfold slowChain; rw [chain_pass h, if_neg hw]
theorem privChain_pass {c : Ctl} {need : Nat} {s : State} {f : State → State} (h : guardPasses c s = true)
    (hp : need ≤ priv s) : privChain c need s f = .next (f s) := by
  simp [privChain, privChainAs, chain, h, Nat.not_lt.mpr hp]
theorem privChain_fault {c : Ctl} {need : Nat} {s : State} {f : State → State} (h : guardPasses c s = true)
    (hp : priv s < need) : privChain c need s f = .next (fault s (faultOf cPriv 0 0) (pc s)) := by
  simp [privChain, privChainAs, chain, h, hp]

end Sys2Proof.Machine
end

