-- ==== Sys2Proof/Laws/Chains.lean ====
section
/-!
SUPPORT. What each shared chain of the scalar instructions does when it runs, said once: results, predicates, jumps, and
the precise fault.
-/

namespace Sys2Proof.Machine

/-- A bit of a word in which a field is written. -/
theorem getLsbD_putBits (w : Word) (lo n v i : Nat) :
    (putBits w lo n v).getLsbD i =
      if lo ≤ i ∧ i < lo + n ∧ i < 64 then v.testBit (i - lo) else w.getLsbD i := by
  unfold putBits
  simp only [BitVec.getLsbD_or, BitVec.getLsbD_and, BitVec.getLsbD_not, BitVec.getLsbD_shiftLeft, BitVec.getLsbD_ofNat,
    Nat.testBit_two_pow_sub_one, Nat.testBit_mod_two_pow]
  by_cases h64 : i < 64
  · by_cases h1 : lo ≤ i
    · have h64' : i - lo < 64 := by omega
      by_cases h2 : i < lo + n
      · have : i - lo < n := by omega
        simp [h64, h64', h1, h2, this, Nat.not_lt.mpr h1]
      · have : ¬ (i - lo < n) := by omega
        simp [h64, h64', h1, h2, this]
    · have : i < lo := by omega
      simp [h64, h1, this]
  · have : w.getLsbD i = false := BitVec.getLsbD_of_ge w i (by omega)
    simp [h64, this]

theorem testBit_bits (w : Word) (lo n i : Nat) : (bits w lo n).testBit i = (decide (i < n) && w.getLsbD (lo + i)) := by
  unfold bits
  rw [← BitVec.getLsbD, BitVec.getLsbD_extractLsb']
/-- A field read after it is written. -/
theorem bits_putBits_self (w : Word) (lo n v : Nat) (h : lo + n ≤ 64) : bits (putBits w lo n v) lo n = v % 2 ^ n := by
  apply Nat.eq_of_testBit_eq
  intro i
  rw [testBit_bits, getLsbD_putBits, Nat.testBit_mod_two_pow]
  by_cases hi : i < n
  · have h1 : lo + i < lo + n := by omega
    have h2 : lo + i < 64 := by omega
    simp [hi, h2]
  · simp [hi]
/-- A field read after another field is written. -/
theorem bits_putBits_other (w : Word) (lo n v lo' n' : Nat) (h : lo' + n' ≤ lo ∨ lo + n ≤ lo') :
    bits (putBits w lo n v) lo' n' = bits w lo' n' := by
  apply Nat.eq_of_testBit_eq
  intro i
  rw [testBit_bits, testBit_bits, getLsbD_putBits]
  by_cases hi : i < n'
  · rw [if_neg (by omega)]
  · simp [hi]

/-- The end of a chain at a target (R52, R192). -/
theorem jump_done (t : Word) (s : State) : ChainDone s (jump t s) t [] where
  next := pc_jump t s
  count := by
    unfold Counted
    rw [d2_jump]
    constructor
    · rw [bits_putBits_self _ _ _ _ (by omega)]; omega
    · intro b hb
      rw [getLsbD_putBits, if_neg (by omega)]
  words := fun pr k h => rowWord_jump t s pr k (by simpa using h)
theorem regIndex_ge (r : Reg) (h : r.win ≠ 3) : 32 ≤ regIndex r := by
  have hw : r.win = 0 ∨ r.win = 1 ∨ r.win = 2 := by revert h; generalize r.win = w; revert w; decide
  rcases hw with e | e | e <;> simp [regIndex, e] <;> omega
/-- A row word that is no register window's is untouched by a register result. -/
theorem rowWord_writeReg_low (s : State) (rd : Reg) (v : Word) (q k : Nat) (h : rd.win ≠ 3) (hk : k < 32) :
    rowWord (writeReg s rd v) q k = rowWord s q k := by
  have := regIndex_ge rd h
  rw [rowWord_writeReg, if_neg (by omega)]
/-- The end of a chain after a register is written (R52, R192, R204). -/
theorem jump_writeReg_done (t : Word) (s : State) (rd : Reg) (v : Word) (hw : rd.win ≠ 3) :
    ChainDone s (jump t (writeReg s rd v)) t (resultWords rd) := by
  have h := jump_done t (writeReg s rd v)
  have h2 := rowWord_writeReg_low s rd v s.cur 2 hw (by omega)
  refine ⟨by simpa using h.next, ?_, ?_⟩
  · have hc := h.count
    unfold Counted at hc ⊢
    simpa [h2] using hc
  · intro pr k hk
    rw [rowWord_jump _ _ _ _ (by simp at hk ⊢; tauto), rowWord_writeReg]
    refine if_neg fun ⟨hg, hp, he⟩ => ?_
    simp [resultWords, hg, hp, he] at hk
/-- A register result and the end of its chain. -/
theorem result_is (c : Ctl) (s : State) (rd : Reg) (v : Word) (hw : rd.win ≠ 3) :
    ResultIs c rd s (advance c (writeReg s rd v)) v := by
  have hn : nextPc c (writeReg s rd v) = nextPc c s := by
    unfold nextPc pc; rw [writeReg_cur, rowWord_writeReg_low _ _ _ _ _ hw (by omega)]
  have := regIndex_ge rd hw
  rw [advance_eq_jump, hn]
  refine ⟨fun hg => ?_, jump_writeReg_done _ s rd v hw⟩
  rw [rowWord_jump _ _ _ _ (.inr (by omega)), rowWord_writeReg]
  simp [hg]
theorem onlyRows_result (c : Ctl) (s : State) (rd : Reg) (v : Word) : OnlyRows s (advance c (writeReg s rd v)) := by
  unfold OnlyRows; rw [advance_frame]; rw [writeReg_frame]
@[simp] theorem result_execs (c : Ctl) (s : State) (rd : Reg) (v : Word) : (advance c (writeReg s rd v)).execs = s.execs := by
  rw [advance_frame, writeReg_frame]
@[simp] theorem result_mem (c : Ctl) (s : State) (rd : Reg) (v : Word) : (advance c (writeReg s rd v)).mem = s.mem := by
  rw [advance_frame, writeReg_frame]
@[simp] theorem result_spads (c : Ctl) (s : State) (rd : Reg) (v : Word) : (advance c (writeReg s rd v)).spads = s.spads := by
  rw [advance_frame, writeReg_frame]
/-- An instruction whose meaning is a result chain gives that result. -/
theorem gives_of_resultChain {i : Instr} {c : Ctl} {rd : Reg} {v : State → Word}
    (h : ∀ s, exec i s = resultChain c rd s v) : Gives i c rd v := fun s hg hw =>
  ⟨_, (h s).trans (resultChain_pass hg hw), result_is c s rd (v s) hw, onlyRows_result c s rd (v s)⟩

theorem stall_frame (s : State) (n : Nat) : stall s n = { s with execs := (stall s n).execs } := by
  unfold stall; split <;> rfl
@[simp] theorem rowWord_stall (s : State) (n pr k : Nat) : rowWord (stall s n) pr k = rowWord s pr k := by
  rw [stall_frame]; rfl
theorem ResultIs.congr {c : Ctl} {rd : Reg} {s t t' : State} {v : Word} (h : ResultIs c rd s t v)
    (e : ∀ pr k, rowWord t' pr k = rowWord t pr k) : ResultIs c rd s t' v := by
  obtain ⟨h1, h2, h3, h4⟩ := h
  refine ⟨fun g => by rw [e]; exact h1 g, by rw [e]; exact h2, ?_, fun pr k hk => by rw [e]; exact h4 pr k hk⟩
  unfold Counted; rw [e]; exact h3
theorem slot_setSlot (s : State) (e k : Nat) (x : Slot) (hk : k < 4) : slot (setSlot s e k x) e k = x := by
  simp [slot, setSlot, exec', setExec, hk]
theorem slotOf_lt {s : State} {pr k : Nat} (h : slotOf s pr = some k) : k < 4 := by
  unfold slotOf at h
  exact List.mem_range.mp (List.mem_of_find?_eq_some h)
theorem slotOf_congr {s t : State} (h : t.execs = s.execs) (pr : Nat) : slotOf t pr = slotOf s pr := by
  unfold slotOf slot exec'; rw [h]
theorem stall_slot {s : State} {n k : Nat} (h : slotOf s s.cur = some k) : (slot (stall s n) (curExec s) k).stall = n := by
  unfold stall; rw [h]; simp [slot_setSlot, slotOf_lt h]
/-- An instruction whose meaning is a slow chain gives that result and holds its row. -/
theorem givesSlowly_of_slowChain {i : Instr} {c : Ctl} {rd : Reg} {n : Nat} {v : State → Word}
    (h : ∀ s, exec i s = slowChain c rd n s v) : GivesSlowly i c rd n v := fun s k hg hw hk => by
  refine ⟨stall (advance c (writeReg s rd (v s))) n, (h s).trans (slowChain_pass hg hw), ?_, ?_, ?_⟩
  · exact ResultIs.congr (result_is c s rd (v s) hw) (fun pr k => rowWord_stall _ n pr k)
  · have hc : curExec (advance c (writeReg s rd (v s))) = curExec s := by simp [curExec]
    have hs : slotOf (advance c (writeReg s rd (v s))) (advance c (writeReg s rd (v s))).cur = some k := by
      rw [slotOf_congr (result_execs c s rd (v s))]; simpa using hk
    rw [← hc]
    exact stall_slot hs
  · exact ⟨fun a => by rw [stall_frame]; simp, fun c' a => by unfold spad; rw [stall_frame]; simp⟩

/-! ### Predicates -/

theorem getLsbD_preds (s : State) (i : Nat) : (preds s).getLsbD i = (decide (i < 16) && (rowWord s s.cur 2).getLsbD i) := by
  unfold preds; rw [BitVec.getLsbD_extractLsb']; simp
theorem rowWord_setPreds (s : State) (p : BitVec 16) (q k : Nat) :
    rowWord (setPreds s p) q k =
      if q = s.cur ∧ k = 2 then putBits (rowWord s s.cur 2) 0 16 p.toNat else rowWord s q k := by
  unfold setPreds; rw [rowWord_setRowWord _ _ _ _ _ _ (by omega)]
@[simp] theorem setPred_cur (s : State) (n : BitVec 4) (b : Bool) : (setPred s n b).cur = s.cur := rfl
/-- Every predicate after one is written (R192). -/
theorem pred_setPred (s : State) (n m : BitVec 4) (b : Bool) :
    pred (setPred s n b) m = if m = n then b else pred s m := by
  have hm : m.toNat < 16 := m.isLt
  have e : m.toNat = n.toNat ↔ m = n := BitVec.toNat_inj
  unfold pred
  rw [getLsbD_preds, setPred_cur]
  unfold setPred
  rw [rowWord_setPreds, if_pos ⟨rfl, rfl⟩, getLsbD_putBits, if_pos ⟨by omega, by omega, by omega⟩]
  rw [← BitVec.getLsbD, Nat.sub_zero]
  by_cases h : m = n
  · subst h; cases b <;> simp [hm]
  · have : ¬ m.toNat = n.toNat := fun x => h (e.mp x)
    cases b <;> simp [h, hm] <;> omega
theorem pred_advance (c : Ctl) (s : State) (n : BitVec 4) : pred (advance c s) n = pred s n := by
  unfold pred
  have hn := n.isLt
  rw [getLsbD_preds, getLsbD_preds, advance_cur, advance_eq_jump, d2_jump, getLsbD_putBits, if_neg (by omega)]
/-- An instruction whose meaning is a predicate chain gives that predicate. -/
theorem givesPred_of_predChain {i : Instr} {c : Ctl} {pd : BitVec 4} {v : State → Bool}
    (h : ∀ s, exec i s = predChain c pd s v) : GivesPred i c pd v := fun s hg => by
  have hl : ∀ q k, ¬ (q = s.cur ∧ k = 2) → rowWord (setPred s pd (v s)) q k = rowWord s q k := fun q k hk => by
    unfold setPred; rw [rowWord_setPreds, if_neg hk]
  refine ⟨advance c (setPred s pd (v s)), (h s).trans (by unfold predChain; exact chain_pass hg), rfl, ?_, ?_, ?_, ?_⟩
  · intro q k hk
    simp at hk
    rw [rowWord_advance _ _ _ _ (by simp; tauto), hl _ _ (by tauto)]
  · have := pc_advance c (setPred s pd (v s))
    unfold pc at this
    rw [advance_cur, setPred_cur] at this
    rw [this]; unfold nextPc pc; rw [setPred_cur, hl _ _ (by simp)]
  · intro n; rw [pred_advance, pred_setPred]
  · intro b hb
    have := d2_jump (nextPc c (setPred s pd (v s))) (setPred s pd (v s))
    rw [setPred_cur] at this
    rw [advance_eq_jump, this, getLsbD_putBits]
    unfold setPred
    rw [if_neg (by omega), rowWord_setPreds, if_pos ⟨rfl, rfl⟩, getLsbD_putBits, if_neg (by omega)]

end Sys2Proof.Machine
end

