-- ==== Sys2Proof/Laws/Faults.lean ====
section
/-!
SUPPORT. What taking an exception leaves, said once: the rows, memory and scratchpads that the shared operations of a
fault keep, and the whole effect of the precise fault of an instruction.
-/

namespace Sys2Proof.Machine

/-! ### Rows, memory and scratchpads under the operations of a fault -/

theorem traceRec_rows (s : State) (q : Nat) (a b : Word) : (traceRec s q a b).rows = s.rows := by
  unfold traceRec
  by_cases h : bits (part s q).trcCtl 0 4 = 0
  · rw [if_pos h]
  · rw [if_neg h, setPart_rows, setMemWord_rows, setMemWord_rows]
theorem traceRec_spads (s : State) (q : Nat) (a b : Word) : (traceRec s q a b).spads = s.spads := by
  unfold traceRec
  by_cases h : bits (part s q).trcCtl 0 4 = 0
  · rw [if_pos h]
  · rw [if_neg h, setPart_spads, setMemWord_spads, setMemWord_spads]
theorem traceState_rows (s : State) (pr st : Nat) : (traceState s pr st).rows = s.rows := by
  unfold traceState; dsimp only; split
  · rw [traceRec_rows]; rfl
  · rfl
theorem traceState_spads (s : State) (pr st : Nat) : (traceState s pr st).spads = s.spads := by
  unfold traceState; dsimp only; split
  · rw [traceRec_spads]; rfl
  · rfl
theorem traceState_mem (s : State) (pr st : Nat) (h : bit (part s (rowId s pr).part).trcCtl 4 = false) :
    traceState s pr st = s := by
  unfold traceState; simp [h]
theorem closeSlot_frame (s : State) (pr : Nat) : closeSlot s pr = { s with execs := (closeSlot s pr).execs } := by
  unfold closeSlot
  split
  · dsimp only; split <;> rfl
  · rfl
theorem setRingRegs_rows (s : State) (r : Ring) (x : RingRegs) : (setRingRegs s r x).rows = s.rows := by
  unfold setRingRegs; dsimp only; split <;> rfl
theorem setRingRegs_spads (s : State) (r : Ring) (x : RingRegs) : (setRingRegs s r x).spads = s.spads := by
  unfold setRingRegs; dsimp only; split <;> rfl
theorem setRingRegs_mem (s : State) (r : Ring) (x : RingRegs) : (setRingRegs s r x).mem = s.mem := by
  unfold setRingRegs; dsimp only; split <;> rfl
theorem postMsg_rows (s : State) (d : Nat) (r : Ring) (m : RingMsg) : (postMsg s d r m).rows = s.rows := by
  unfold postMsg; dsimp only; split
  · exact setRingRegs_rows _ _ _
  · rfl
theorem postMsg_spads (s : State) (d : Nat) (r : Ring) (m : RingMsg) : (postMsg s d r m).spads = s.spads := by
  unfold postMsg; dsimp only; split
  · exact setRingRegs_spads _ _ _
  · rfl
theorem postMsg_mem (s : State) (d : Nat) (r : Ring) (m : RingMsg) : (postMsg s d r m).mem = s.mem := by
  unfold postMsg; dsimp only; split
  · exact setRingRegs_mem _ _ _
  · rfl
theorem rowWord_of_rows {s t : State} (h : t.rows = s.rows) (pr k : Nat) : rowWord t pr k = rowWord s pr k := by
  unfold rowWord rowImage; rw [h]

/-- The state in which the report of a fault is made. -/
def faultBody (s : State) (pr : Nat) (f : FaultInfo) (late : Bool) (addr : Word) : State :=
  closeRow (setRowWord (setRowWord s pr 5 (faultWord f late)) pr 6 addr) pr stFaulted
theorem takeFault_eq (s : State) (pr : Nat) (f : FaultInfo) (late hy : Bool) (addr : Word) :
    takeFault s pr f late hy addr =
      if execOf pr = 544 then send (faultBody s pr f late addr) .managementHalt
      else reportFault (faultBody s pr f late addr) pr f.cause hy := rfl
theorem takeFault_rows (s : State) (pr : Nat) (f : FaultInfo) (late hy : Bool) (addr : Word) :
    (takeFault s pr f late hy addr).rows = (faultBody s pr f late addr).rows := by
  rw [takeFault_eq]; split
  · rfl
  · exact postMsg_rows _ _ _ _
theorem takeFault_spads (s : State) (pr : Nat) (f : FaultInfo) (late hy : Bool) (addr : Word) :
    (takeFault s pr f late hy addr).spads = (faultBody s pr f late addr).spads := by
  rw [takeFault_eq]; split
  · rfl
  · exact postMsg_spads _ _ _ _
theorem takeFault_mem (s : State) (pr : Nat) (f : FaultInfo) (late hy : Bool) (addr : Word) :
    (takeFault s pr f late hy addr).mem = (faultBody s pr f late addr).mem := by
  rw [takeFault_eq]; split
  · rfl
  · exact postMsg_mem _ _ _ _
/-- A row word after a row changed its state. -/
theorem rowWord_closeRow (s : State) (pr st q k : Nat) :
    rowWord (closeRow s pr st) q k =
      if q = pr ∧ k = 0 then putBits (rowWord s pr 0) 48 8 st else rowWord s q k := by
  unfold closeRow setRowState
  rw [closeSlot_frame]
  rw [rowWord_of_rows (s := setRowWord s pr 0 (putBits (rowWord s pr 0) 48 8 st)) (by exact traceState_rows _ _ _)]
  exact rowWord_setRowWord _ _ _ _ _ _ (by omega)
theorem closeRow_spads (s : State) (pr st : Nat) : (closeRow s pr st).spads = s.spads := by
  unfold closeRow setRowState
  rw [closeSlot_frame]
  exact traceState_spads _ _ _
theorem rowId_of_d3 {s t : State} {pr : Nat} (h : rowWord t pr 3 = rowWord s pr 3) : rowId t pr = rowId s pr := by
  unfold rowId; rw [h]
theorem closeRow_mem (s : State) (pr st : Nat) (h : bit (part s (rowId s pr).part).trcCtl 4 = false) :
    (closeRow s pr st).mem = s.mem := by
  unfold closeRow setRowState
  rw [closeSlot_frame, traceState_mem]
  · rfl
  · rw [rowId_of_d3 (s := s) (rowWord_setRowWord_other _ _ _ _ _ (by omega) (by omega))]; exact h
/-- A row word after the words of a fault are written. -/
theorem rowWord_faultBody (s : State) (pr : Nat) (f : FaultInfo) (late : Bool) (addr : Word) (q k : Nat) :
    rowWord (faultBody s pr f late addr) q k =
      if q = pr ∧ k = 0 then putBits (rowWord s pr 0) 48 8 stFaulted
      else if q = pr ∧ k = 6 then addr
      else if q = pr ∧ k = 5 then faultWord f late else rowWord s q k := by
  unfold faultBody
  rw [rowWord_closeRow]
  simp only [rowWord_setRowWord _ _ _ _ _ _ (show 6 < 128 by omega), rowWord_setRowWord _ _ _ _ _ _ (show 5 < 128 by omega)]
  simp

/-- THE PRECISE FAULT, once (R53, R400, R403). -/
theorem fault_is (s : State) (f : FaultInfo) (a : Word) : FaultIs s (fault s f a) f a := by
  have hr : ∀ q k, rowWord (fault s f a) q k = rowWord (faultBody s s.cur f false a) q k :=
    fun q k => rowWord_of_rows (takeFault_rows _ _ _ _ _ _) q k
  constructor
  · rw [hr, rowWord_faultBody]; simp
  · rw [hr, rowWord_faultBody]; simp
  · unfold rowState; rw [hr, rowWord_faultBody]; simp only [and_self, if_true]
    rw [bits_putBits_self _ _ _ _ (by omega)]; rfl
  · intro q k h; simp at h; rw [hr, rowWord_faultBody]
    rw [if_neg (by omega), if_neg (by omega), if_neg (by omega)]
  · intro b hb; rw [hr, rowWord_faultBody]; simp only [and_self, if_true]
    rw [getLsbD_putBits, if_neg (by omega)]
  · intro h
    have := takeFault_mem s s.cur f false false a
    unfold fault; rw [this]
    unfold faultBody
    rw [closeRow_mem]
    · rfl
    · rw [rowId_of_d3 (s := s)]
      · exact h
      · rw [rowWord_setRowWord _ _ _ _ _ _ (by omega), rowWord_setRowWord _ _ _ _ _ _ (by omega)]; simp
  · have := takeFault_spads s s.cur f false false a
    unfold fault; rw [this]
    unfold faultBody
    rw [closeRow_spads]; rfl

end Sys2Proof.Machine
end

