-- ==== Sys2Proof/Laws/PerInstr.lean ====
section
/-!
SUPPORT. One lemma per constructor about the words of an instruction: an encoded chain has one word for each prefix that
its Ctl counts, and its base word (R44); a device step has none.
-/

namespace Sys2Proof

theorem pxiPayloads_length (w : Nat) (v : Int) (k : Nat) : (pxiPayloads w v k).length = k := by
  induction k with
  | zero => rfl
  | succ k ih => simp [pxiPayloads, ih]

/-- The prefix words of a chain whose prefix count fits are as many as its Ctl says (R44, R47). -/
theorem prefixWords_length (i : Instr) (u : Uses) (h : u.prefixOk = true) : (prefixWords i u).length = u.ctl.len := by
  obtain ⟨⟨sw, g, n⟩, imm, wins, mod, legal⟩ := u
  cases imm with
  | some p =>
    obtain ⟨w, v⟩ := p
    simp only [Uses.prefixOk, Bool.and_eq_true, decide_eq_true_eq] at h
    simp only [prefixWords, List.length_append, List.length_map, pxiPayloads_length, Uses.rest]
    generalize Uses.needR _ = r at *
    generalize Uses.needO _ = o at *
    cases r <;> cases o <;> simp [WF.one] at h ⊢ <;> omega
  | none =>
    have hm : ∃ o, Uses.needO ⟨⟨sw, g, n⟩, none, wins, mod, legal⟩ = o ∧ (mod = none → o = false) := by
      cases mod <;> simp [Uses.needO]
    have hr : ∃ r, Uses.needR ⟨⟨sw, g, n⟩, none, wins, mod, legal⟩ = r ∧ (wins = none → r = false) := by
      cases wins <;> simp [Uses.needR]
    obtain ⟨o, ho, hm⟩ := hm
    obtain ⟨r, hr, hw⟩ := hr
    simp only [Uses.prefixOk, Uses.rest, ho, hr, Bool.and_eq_true, decide_eq_true_eq] at h
    simp only [prefixWords, List.length_append, Uses.rest, ho, hr]
    obtain ⟨⟨_, h1⟩, h2⟩ := h
    clear ho hr
    cases o <;> cases r <;> cases wins <;> cases mod <;> simp [WF.one] at hm hw h1 h2 ⊢ <;>
      (rcases n with _ | _ | _ | n <;> simp at h1 h2 ⊢)

namespace Laws.Coding

/-- The encoded words of an instruction: its prefixes, as many as its Ctl counts, and its base word. -/
def Statement (i : Instr) : Prop :=
  ∀ ws, encode i = some ws → ∃ u, i.uses = some u ∧ ws.length = u.ctl.len + 1

theorem all (i : Instr) : Statement i := by
  intro ws h
  unfold encode at h
  split at h
  · rename_i u b hu hb
    split at h
    · rename_i hw
      refine ⟨u, hu, ?_⟩
      have hp : u.prefixOk = true := by
        simp only [Instr.wellFormed, Instr.prefixesFit, hu, Bool.and_eq_true] at hw
        exact hw.1.1
      cases h
      simp [prefixWords_length i u hp]
    · cases h
  · cases h

end Laws.Coding

theorem Laws.Coding.ill (c : Ctl) : Laws.Coding.Statement (.ill c) := Laws.Coding.all _
theorem Laws.Coding.nop (c : Ctl) : Laws.Coding.Statement (.nop c) := Laws.Coding.all _
theorem Laws.Coding.stop (c : Ctl) : Laws.Coding.Statement (.stop c) := Laws.Coding.all _
theorem Laws.Coding.yield (c : Ctl) : Laws.Coding.Statement (.yield c) := Laws.Coding.all _
theorem Laws.Coding.brk (c : Ctl) : Laws.Coding.Statement (.brk c) := Laws.Coding.all _
theorem Laws.Coding.ifence (c : Ctl) : Laws.Coding.Statement (.ifence c) := Laws.Coding.all _
theorem Laws.Coding.sget (c : Ctl) (r : Reg) (num : BitVec 10) : Laws.Coding.Statement (.sget c r num) := Laws.Coding.all _
theorem Laws.Coding.sset (c : Ctl) (r : Reg) (num : BitVec 10) : Laws.Coding.Statement (.sset c r num) := Laws.Coding.all _
theorem Laws.Coding.trap (c : Ctl) (n : BitVec 10) : Laws.Coding.Statement (.trap c n) := Laws.Coding.all _
theorem Laws.Coding.hcall (c : Ctl) (n : BitVec 10) : Laws.Coding.Statement (.hcall c n) := Laws.Coding.all _
theorem Laws.Coding.xret (c : Ctl) (ra rb : Reg) : Laws.Coding.Statement (.xret c ra rb) := Laws.Coding.all _
theorem Laws.Coding.tlbinv (c : Ctl) (ra rb : Reg) : Laws.Coding.Statement (.tlbinv c ra rb) := Laws.Coding.all _
theorem Laws.Coding.rowctl (c : Ctl) (rd ra rb : Reg) : Laws.Coding.Statement (.rowctl c rd ra rb) := Laws.Coding.all _
theorem Laws.Coding.mbox (c : Ctl) (rd ra rb : Reg) : Laws.Coding.Statement (.mbox c rd ra rb) := Laws.Coding.all _
theorem Laws.Coding.add (c : Ctl) (rd ra rb : Reg) : Laws.Coding.Statement (.add c rd ra rb) := Laws.Coding.all _
theorem Laws.Coding.sub (c : Ctl) (rd ra rb : Reg) : Laws.Coding.Statement (.sub c rd ra rb) := Laws.Coding.all _
theorem Laws.Coding.and (c : Ctl) (rd ra rb : Reg) : Laws.Coding.Statement (.and c rd ra rb) := Laws.Coding.all _
theorem Laws.Coding.or (c : Ctl) (rd ra rb : Reg) : Laws.Coding.Statement (.or c rd ra rb) := Laws.Coding.all _
theorem Laws.Coding.xor (c : Ctl) (rd ra rb : Reg) : Laws.Coding.Statement (.xor c rd ra rb) := Laws.Coding.all _
theorem Laws.Coding.andn (c : Ctl) (rd ra rb : Reg) : Laws.Coding.Statement (.andn c rd ra rb) := Laws.Coding.all _
theorem Laws.Coding.orn (c : Ctl) (rd ra rb : Reg) : Laws.Coding.Statement (.orn c rd ra rb) := Laws.Coding.all _
theorem Laws.Coding.nor (c : Ctl) (rd ra rb : Reg) : Laws.Coding.Statement (.nor c rd ra rb) := Laws.Coding.all _
theorem Laws.Coding.shl (c : Ctl) (rd ra rb : Reg) : Laws.Coding.Statement (.shl c rd ra rb) := Laws.Coding.all _
theorem Laws.Coding.shr (c : Ctl) (rd ra rb : Reg) : Laws.Coding.Statement (.shr c rd ra rb) := Laws.Coding.all _
theorem Laws.Coding.sra (c : Ctl) (rd ra rb : Reg) : Laws.Coding.Statement (.sra c rd ra rb) := Laws.Coding.all _
theorem Laws.Coding.rol (c : Ctl) (rd ra rb : Reg) : Laws.Coding.Statement (.rol c rd ra rb) := Laws.Coding.all _
theorem Laws.Coding.min (c : Ctl) (rd ra rb : Reg) : Laws.Coding.Statement (.min c rd ra rb) := Laws.Coding.all _
theorem Laws.Coding.max (c : Ctl) (rd ra rb : Reg) : Laws.Coding.Statement (.max c rd ra rb) := Laws.Coding.all _
theorem Laws.Coding.minz (c : Ctl) (rd ra rb : Reg) : Laws.Coding.Statement (.minz c rd ra rb) := Laws.Coding.all _
theorem Laws.Coding.maxz (c : Ctl) (rd ra rb : Reg) : Laws.Coding.Statement (.maxz c rd ra rb) := Laws.Coding.all _
theorem Laws.Coding.mul (c : Ctl) (rd ra rb : Reg) : Laws.Coding.Statement (.mul c rd ra rb) := Laws.Coding.all _
theorem Laws.Coding.mulh (c : Ctl) (rd ra rb : Reg) : Laws.Coding.Statement (.mulh c rd ra rb) := Laws.Coding.all _
theorem Laws.Coding.mulhz (c : Ctl) (rd ra rb : Reg) : Laws.Coding.Statement (.mulhz c rd ra rb) := Laws.Coding.all _
theorem Laws.Coding.div (c : Ctl) (rd ra rb : Reg) : Laws.Coding.Statement (.div c rd ra rb) := Laws.Coding.all _
theorem Laws.Coding.divz (c : Ctl) (rd ra rb : Reg) : Laws.Coding.Statement (.divz c rd ra rb) := Laws.Coding.all _
theorem Laws.Coding.rem (c : Ctl) (rd ra rb : Reg) : Laws.Coding.Statement (.rem c rd ra rb) := Laws.Coding.all _
theorem Laws.Coding.remz (c : Ctl) (rd ra rb : Reg) : Laws.Coding.Statement (.remz c rd ra rb) := Laws.Coding.all _
theorem Laws.Coding.abs (c : Ctl) (rd ra : Reg) : Laws.Coding.Statement (.abs c rd ra) := Laws.Coding.all _
theorem Laws.Coding.neg (c : Ctl) (rd ra : Reg) : Laws.Coding.Statement (.neg c rd ra) := Laws.Coding.all _
theorem Laws.Coding.clz (c : Ctl) (rd ra : Reg) : Laws.Coding.Statement (.clz c rd ra) := Laws.Coding.all _
theorem Laws.Coding.ctz (c : Ctl) (rd ra : Reg) : Laws.Coding.Statement (.ctz c rd ra) := Laws.Coding.all _
theorem Laws.Coding.popc (c : Ctl) (rd ra : Reg) : Laws.Coding.Statement (.popc c rd ra) := Laws.Coding.all _
theorem Laws.Coding.bswap (c : Ctl) (rd ra : Reg) : Laws.Coding.Statement (.bswap c rd ra) := Laws.Coding.all _
theorem Laws.Coding.bfx (c : Ctl) (rd ra rb : Reg) : Laws.Coding.Statement (.bfx c rd ra rb) := Laws.Coding.all _
theorem Laws.Coding.bfxz (c : Ctl) (rd ra rb : Reg) : Laws.Coding.Statement (.bfxz c rd ra rb) := Laws.Coding.all _
theorem Laws.Coding.bfi (c : Ctl) (rd ra rb : Reg) : Laws.Coding.Statement (.bfi c rd ra rb) := Laws.Coding.all _
theorem Laws.Coding.sxb (c : Ctl) (rd ra : Reg) : Laws.Coding.Statement (.sxb c rd ra) := Laws.Coding.all _
theorem Laws.Coding.sxh (c : Ctl) (rd ra : Reg) : Laws.Coding.Statement (.sxh c rd ra) := Laws.Coding.all _
theorem Laws.Coding.sxw (c : Ctl) (rd ra : Reg) : Laws.Coding.Statement (.sxw c rd ra) := Laws.Coding.all _
theorem Laws.Coding.zxb (c : Ctl) (rd ra : Reg) : Laws.Coding.Statement (.zxb c rd ra) := Laws.Coding.all _
theorem Laws.Coding.zxh (c : Ctl) (rd ra : Reg) : Laws.Coding.Statement (.zxh c rd ra) := Laws.Coding.all _
theorem Laws.Coding.zxw (c : Ctl) (rd ra : Reg) : Laws.Coding.Statement (.zxw c rd ra) := Laws.Coding.all _
theorem Laws.Coding.cmp (c : Ctl) (pd : BitVec 4) (cond : Cond) (ra rb : Reg) : Laws.Coding.Statement (.cmp c pd cond ra rb) := Laws.Coding.all _
theorem Laws.Coding.cmpi (c : Ctl) (pd : BitVec 4) (cond : Cond) (ra : Reg) (imm : Int) : Laws.Coding.Statement (.cmpi c pd cond ra imm) := Laws.Coding.all _
theorem Laws.Coding.pand (c : Ctl) (pd pa pb : BitVec 4) : Laws.Coding.Statement (.pand c pd pa pb) := Laws.Coding.all _
theorem Laws.Coding.por (c : Ctl) (pd pa pb : BitVec 4) : Laws.Coding.Statement (.por c pd pa pb) := Laws.Coding.all _
theorem Laws.Coding.pxor (c : Ctl) (pd pa pb : BitVec 4) : Laws.Coding.Statement (.pxor c pd pa pb) := Laws.Coding.all _
theorem Laws.Coding.pandn (c : Ctl) (pd pa pb : BitVec 4) : Laws.Coding.Statement (.pandn c pd pa pb) := Laws.Coding.all _
theorem Laws.Coding.pnot (c : Ctl) (pd pa : BitVec 4) : Laws.Coding.Statement (.pnot c pd pa) := Laws.Coding.all _
theorem Laws.Coding.pmov (c : Ctl) (pd pa : BitVec 4) : Laws.Coding.Statement (.pmov c pd pa) := Laws.Coding.all _
theorem Laws.Coding.pset (c : Ctl) (pd : BitVec 4) : Laws.Coding.Statement (.pset c pd) := Laws.Coding.all _
theorem Laws.Coding.pclr (c : Ctl) (pd : BitVec 4) : Laws.Coding.Statement (.pclr c pd) := Laws.Coding.all _
theorem Laws.Coding.pget (c : Ctl) (gd : BitVec 4) : Laws.Coding.Statement (.pget c gd) := Laws.Coding.all _
theorem Laws.Coding.pput (c : Ctl) (ga : BitVec 4) : Laws.Coding.Statement (.pput c ga) := Laws.Coding.all _
theorem Laws.Coding.addi (c : Ctl) (rd ra : Reg) (imm : Int) : Laws.Coding.Statement (.addi c rd ra imm) := Laws.Coding.all _
theorem Laws.Coding.andi (c : Ctl) (rd ra : Reg) (imm : Int) : Laws.Coding.Statement (.andi c rd ra imm) := Laws.Coding.all _
theorem Laws.Coding.ori (c : Ctl) (rd ra : Reg) (imm : Int) : Laws.Coding.Statement (.ori c rd ra imm) := Laws.Coding.all _
theorem Laws.Coding.xori (c : Ctl) (rd ra : Reg) (imm : Int) : Laws.Coding.Statement (.xori c rd ra imm) := Laws.Coding.all _
theorem Laws.Coding.shli (c : Ctl) (rd ra : Reg) (imm : Int) : Laws.Coding.Statement (.shli c rd ra imm) := Laws.Coding.all _
theorem Laws.Coding.shri (c : Ctl) (rd ra : Reg) (imm : Int) : Laws.Coding.Statement (.shri c rd ra imm) := Laws.Coding.all _
theorem Laws.Coding.srai (c : Ctl) (rd ra : Reg) (imm : Int) : Laws.Coding.Statement (.srai c rd ra imm) := Laws.Coding.all _
theorem Laws.Coding.muli (c : Ctl) (rd ra : Reg) (imm : Int) : Laws.Coding.Statement (.muli c rd ra imm) := Laws.Coding.all _
theorem Laws.Coding.movi (c : Ctl) (rd : Reg) (imm : Int) : Laws.Coding.Statement (.movi c rd imm) := Laws.Coding.all _
theorem Laws.Coding.adr (c : Ctl) (rd : Reg) (imm : Int) : Laws.Coding.Statement (.adr c rd imm) := Laws.Coding.all _
theorem Laws.Coding.br (c : Ctl) (off : BitVec 19) : Laws.Coding.Statement (.br c off) := Laws.Coding.all _
theorem Laws.Coding.bl (c : Ctl) (off : BitVec 19) : Laws.Coding.Statement (.bl c off) := Laws.Coding.all _
theorem Laws.Coding.jr (c : Ctl) (ra : Reg) : Laws.Coding.Statement (.jr c ra) := Laws.Coding.all _
theorem Laws.Coding.jlr (c : Ctl) (rd ra : Reg) : Laws.Coding.Statement (.jlr c rd ra) := Laws.Coding.all _
theorem Laws.Coding.dbnz (c : Ctl) (rd : Reg) (off : BitVec 14) : Laws.Coding.Statement (.dbnz c rd off) := Laws.Coding.all _
theorem Laws.Coding.ld (c : Ctl) (rd ra : Reg) (t : LdType) (off : Int) (m : MemMod) : Laws.Coding.Statement (.ld c rd ra t off m) := Laws.Coding.all _
theorem Laws.Coding.st (c : Ctl) (rd ra : Reg) (t : StType) (off : Int) (m : MemMod) : Laws.Coding.Statement (.st c rd ra t off m) := Laws.Coding.all _
theorem Laws.Coding.ldl (c : Ctl) (rd ra : Reg) (t : LdType) (off : Int) (m : MemMod) : Laws.Coding.Statement (.ldl c rd ra t off m) := Laws.Coding.all _
theorem Laws.Coding.stl (c : Ctl) (rd ra : Reg) (t : StType) (off : Int) (m : MemMod) : Laws.Coding.Statement (.stl c rd ra t off m) := Laws.Coding.all _
theorem Laws.Coding.amo (c : Ctl) (rd ra rb : Reg) (op : AmoOp) (m : MemMod) : Laws.Coding.Statement (.amo c rd ra rb op m) := Laws.Coding.all _
theorem Laws.Coding.fence (c : Ctl) (m : MemMod) : Laws.Coding.Statement (.fence c m) := Laws.Coding.all _
theorem Laws.Coding.pf (c : Ctl) (ra : Reg) (m : MemMod) : Laws.Coding.Statement (.pf c ra m) := Laws.Coding.all _
theorem Laws.Coding.app (c : Ctl) (rd ra rb : Reg) (m : CaskMod) : Laws.Coding.Statement (.app c rd ra rb m) := Laws.Coding.all _
theorem Laws.Coding.appl (c : Ctl) (rd ra rb : Reg) (m : CaskMod) : Laws.Coding.Statement (.appl c rd ra rb m) := Laws.Coding.all _
theorem Laws.Coding.seal (c : Ctl) (rd ra : Reg) : Laws.Coding.Statement (.seal c rd ra) := Laws.Coding.all _
theorem Laws.Coding.tail (c : Ctl) (rd ra : Reg) : Laws.Coding.Statement (.tail c rd ra) := Laws.Coding.all _
theorem Laws.Coding.fadd (c : Ctl) (rd ra rb : Reg) (m : FMod) : Laws.Coding.Statement (.fadd c rd ra rb m) := Laws.Coding.all _
theorem Laws.Coding.fsub (c : Ctl) (rd ra rb : Reg) (m : FMod) : Laws.Coding.Statement (.fsub c rd ra rb m) := Laws.Coding.all _
theorem Laws.Coding.fmul (c : Ctl) (rd ra rb : Reg) (m : FMod) : Laws.Coding.Statement (.fmul c rd ra rb m) := Laws.Coding.all _
theorem Laws.Coding.fdiv (c : Ctl) (rd ra rb : Reg) (m : FMod) : Laws.Coding.Statement (.fdiv c rd ra rb m) := Laws.Coding.all _
theorem Laws.Coding.fsqrt (c : Ctl) (rd ra : Reg) (m : FMod) : Laws.Coding.Statement (.fsqrt c rd ra m) := Laws.Coding.all _
theorem Laws.Coding.fmin (c : Ctl) (rd ra rb : Reg) (m : FMod) : Laws.Coding.Statement (.fmin c rd ra rb m) := Laws.Coding.all _
theorem Laws.Coding.fmax (c : Ctl) (rd ra rb : Reg) (m : FMod) : Laws.Coding.Statement (.fmax c rd ra rb m) := Laws.Coding.all _
theorem Laws.Coding.fabs (c : Ctl) (rd ra : Reg) (m : FMod) : Laws.Coding.Statement (.fabs c rd ra m) := Laws.Coding.all _
theorem Laws.Coding.fneg (c : Ctl) (rd ra : Reg) (m : FMod) : Laws.Coding.Statement (.fneg c rd ra m) := Laws.Coding.all _
theorem Laws.Coding.fclass (c : Ctl) (rd ra : Reg) (sfmt : Fmt) : Laws.Coding.Statement (.fclass c rd ra sfmt) := Laws.Coding.all _
theorem Laws.Coding.fcpys (c : Ctl) (rd ra rb : Reg) (m : FMod) : Laws.Coding.Statement (.fcpys c rd ra rb m) := Laws.Coding.all _
theorem Laws.Coding.fma (c : Ctl) (rd ra rb : Reg) (m : FMod) : Laws.Coding.Statement (.fma c rd ra rb m) := Laws.Coding.all _
theorem Laws.Coding.fms (c : Ctl) (rd ra rb : Reg) (m : FMod) : Laws.Coding.Statement (.fms c rd ra rb m) := Laws.Coding.all _
theorem Laws.Coding.fnma (c : Ctl) (rd ra rb : Reg) (m : FMod) : Laws.Coding.Statement (.fnma c rd ra rb m) := Laws.Coding.all _
theorem Laws.Coding.fnms (c : Ctl) (rd ra rb : Reg) (m : FMod) : Laws.Coding.Statement (.fnms c rd ra rb m) := Laws.Coding.all _
theorem Laws.Coding.fcmp (c : Ctl) (pd : BitVec 4) (cond : FCond) (ra rb : Reg) (sfmt : Fmt) : Laws.Coding.Statement (.fcmp c pd cond ra rb sfmt) := Laws.Coding.all _
theorem Laws.Coding.fcvt (c : Ctl) (rd ra : Reg) (m : FMod) : Laws.Coding.Statement (.fcvt c rd ra m) := Laws.Coding.all _
theorem Laws.Coding.fcvti (c : Ctl) (rd ra : Reg) (m : FMod) : Laws.Coding.Statement (.fcvti c rd ra m) := Laws.Coding.all _
theorem Laws.Coding.fcvtf (c : Ctl) (rd ra : Reg) (m : FMod) : Laws.Coding.Statement (.fcvtf c rd ra m) := Laws.Coding.all _
theorem Laws.Coding.vclaim (c : Ctl) (rd ra : Reg) : Laws.Coding.Statement (.vclaim c rd ra) := Laws.Coding.all _
theorem Laws.Coding.vfree (c : Ctl) (rd : Reg) : Laws.Coding.Statement (.vfree c rd) := Laws.Coding.all _
theorem Laws.Coding.vwait (c : Ctl) (rd ra : Reg) : Laws.Coding.Statement (.vwait c rd ra) := Laws.Coding.all _
theorem Laws.Coding.vstat (c : Ctl) (rd ra : Reg) : Laws.Coding.Statement (.vstat c rd ra) := Laws.Coding.all _
theorem Laws.Coding.vadd (c : Ctl) (rd ra rb : Reg) (m : VMod) : Laws.Coding.Statement (.vadd c rd ra rb m) := Laws.Coding.all _
theorem Laws.Coding.vsub (c : Ctl) (rd ra rb : Reg) (m : VMod) : Laws.Coding.Statement (.vsub c rd ra rb m) := Laws.Coding.all _
theorem Laws.Coding.vmul (c : Ctl) (rd ra rb : Reg) (m : VMod) : Laws.Coding.Statement (.vmul c rd ra rb m) := Laws.Coding.all _
theorem Laws.Coding.vmin (c : Ctl) (rd ra rb : Reg) (m : VMod) : Laws.Coding.Statement (.vmin c rd ra rb m) := Laws.Coding.all _
theorem Laws.Coding.vmax (c : Ctl) (rd ra rb : Reg) (m : VMod) : Laws.Coding.Statement (.vmax c rd ra rb m) := Laws.Coding.all _
theorem Laws.Coding.vdiv (c : Ctl) (rd ra rb : Reg) (m : VMod) : Laws.Coding.Statement (.vdiv c rd ra rb m) := Laws.Coding.all _
theorem Laws.Coding.vand (c : Ctl) (rd ra rb : Reg) (m : VMod) : Laws.Coding.Statement (.vand c rd ra rb m) := Laws.Coding.all _
theorem Laws.Coding.vor (c : Ctl) (rd ra rb : Reg) (m : VMod) : Laws.Coding.Statement (.vor c rd ra rb m) := Laws.Coding.all _
theorem Laws.Coding.vxor (c : Ctl) (rd ra rb : Reg) (m : VMod) : Laws.Coding.Statement (.vxor c rd ra rb m) := Laws.Coding.all _
theorem Laws.Coding.vshl (c : Ctl) (rd ra rb : Reg) (m : VMod) : Laws.Coding.Statement (.vshl c rd ra rb m) := Laws.Coding.all _
theorem Laws.Coding.vshr (c : Ctl) (rd ra rb : Reg) (m : VMod) : Laws.Coding.Statement (.vshr c rd ra rb m) := Laws.Coding.all _
theorem Laws.Coding.vsra (c : Ctl) (rd ra rb : Reg) (m : VMod) : Laws.Coding.Statement (.vsra c rd ra rb m) := Laws.Coding.all _
theorem Laws.Coding.vabsd (c : Ctl) (rd ra rb : Reg) (m : VMod) : Laws.Coding.Statement (.vabsd c rd ra rb m) := Laws.Coding.all _
theorem Laws.Coding.vfma (c : Ctl) (rd ra rb : Reg) (m : VMod) : Laws.Coding.Statement (.vfma c rd ra rb m) := Laws.Coding.all _
theorem Laws.Coding.vfms (c : Ctl) (rd ra rb : Reg) (m : VMod) : Laws.Coding.Statement (.vfms c rd ra rb m) := Laws.Coding.all _
theorem Laws.Coding.vneg (c : Ctl) (rd ra rb : Reg) (m : VMod) : Laws.Coding.Statement (.vneg c rd ra rb m) := Laws.Coding.all _
theorem Laws.Coding.vabs (c : Ctl) (rd ra rb : Reg) (m : VMod) : Laws.Coding.Statement (.vabs c rd ra rb m) := Laws.Coding.all _
theorem Laws.Coding.vsqrt (c : Ctl) (rd ra rb : Reg) (m : VMod) : Laws.Coding.Statement (.vsqrt c rd ra rb m) := Laws.Coding.all _
theorem Laws.Coding.vrsq (c : Ctl) (rd ra rb : Reg) (m : VMod) : Laws.Coding.Statement (.vrsq c rd ra rb m) := Laws.Coding.all _
theorem Laws.Coding.vrcp (c : Ctl) (rd ra rb : Reg) (m : VMod) : Laws.Coding.Statement (.vrcp c rd ra rb m) := Laws.Coding.all _
theorem Laws.Coding.vexp2 (c : Ctl) (rd ra rb : Reg) (m : VMod) : Laws.Coding.Statement (.vexp2 c rd ra rb m) := Laws.Coding.all _
theorem Laws.Coding.vlog2 (c : Ctl) (rd ra rb : Reg) (m : VMod) : Laws.Coding.Statement (.vlog2 c rd ra rb m) := Laws.Coding.all _
theorem Laws.Coding.vcvt (c : Ctl) (rd ra rb : Reg) (m : VMod) : Laws.Coding.Statement (.vcvt c rd ra rb m) := Laws.Coding.all _
theorem Laws.Coding.vmov (c : Ctl) (rd ra rb : Reg) (m : VMod) : Laws.Coding.Statement (.vmov c rd ra rb m) := Laws.Coding.all _
theorem Laws.Coding.vfill (c : Ctl) (rd ra rb : Reg) (m : VMod) : Laws.Coding.Statement (.vfill c rd ra rb m) := Laws.Coding.all _
theorem Laws.Coding.vclamp (c : Ctl) (rd ra rb : Reg) (m : VMod) : Laws.Coding.Statement (.vclamp c rd ra rb m) := Laws.Coding.all _
theorem Laws.Coding.viota (c : Ctl) (rd ra rb : Reg) (m : VMod) : Laws.Coding.Statement (.viota c rd ra rb m) := Laws.Coding.all _
theorem Laws.Coding.vsel (c : Ctl) (rd ra rb : Reg) (m : VMod) : Laws.Coding.Statement (.vsel c rd ra rb m) := Laws.Coding.all _
theorem Laws.Coding.vredsum (c : Ctl) (rd ra rb : Reg) (m : VMod) : Laws.Coding.Statement (.vredsum c rd ra rb m) := Laws.Coding.all _
theorem Laws.Coding.vredmax (c : Ctl) (rd ra rb : Reg) (m : VMod) : Laws.Coding.Statement (.vredmax c rd ra rb m) := Laws.Coding.all _
theorem Laws.Coding.vredmin (c : Ctl) (rd ra rb : Reg) (m : VMod) : Laws.Coding.Statement (.vredmin c rd ra rb m) := Laws.Coding.all _
theorem Laws.Coding.vscan (c : Ctl) (rd ra rb : Reg) (m : VMod) : Laws.Coding.Statement (.vscan c rd ra rb m) := Laws.Coding.all _
theorem Laws.Coding.vgat (c : Ctl) (rd ra rb : Reg) (m : VMod) : Laws.Coding.Statement (.vgat c rd ra rb m) := Laws.Coding.all _
theorem Laws.Coding.vsct (c : Ctl) (rd ra rb : Reg) (m : VMod) : Laws.Coding.Statement (.vsct c rd ra rb m) := Laws.Coding.all _
theorem Laws.Coding.vcmp (c : Ctl) (rd ra rb : Reg) (m : VMod) : Laws.Coding.Statement (.vcmp c rd ra rb m) := Laws.Coding.all _
theorem Laws.Coding.vpack (c : Ctl) (rd ra rb : Reg) (m : VMod) : Laws.Coding.Statement (.vpack c rd ra rb m) := Laws.Coding.all _
theorem Laws.Coding.vcnt (c : Ctl) (rd ra rb : Reg) (m : VMod) : Laws.Coding.Statement (.vcnt c rd ra rb m) := Laws.Coding.all _
theorem Laws.Coding.vfnld (c : Ctl) (rd ra rb : Reg) (m : VMod) : Laws.Coding.Statement (.vfnld c rd ra rb m) := Laws.Coding.all _
theorem Laws.Coding.vfn (c : Ctl) (rd ra rb : Reg) (m : VMod) : Laws.Coding.Statement (.vfn c rd ra rb m) := Laws.Coding.all _
theorem Laws.Coding.vfnst (c : Ctl) (rd ra rb : Reg) (m : VMod) : Laws.Coding.Statement (.vfnst c rd ra rb m) := Laws.Coding.all _
theorem Laws.Coding.cpy (c : Ctl) (rd ra : Reg) (hint : Hint) : Laws.Coding.Statement (.cpy c rd ra hint) := Laws.Coding.all _
theorem Laws.Coding.cpyz (c : Ctl) (rd ra : Reg) (hint : Hint) : Laws.Coding.Statement (.cpyz c rd ra hint) := Laws.Coding.all _
theorem Laws.Coding.cpy2 (c : Ctl) (rd ra rb : Reg) (hint : Hint) : Laws.Coding.Statement (.cpy2 c rd ra rb hint) := Laws.Coding.all _
theorem Laws.Coding.cpyg (c : Ctl) (rd ra rb : Reg) (hint : Hint) : Laws.Coding.Statement (.cpyg c rd ra rb hint) := Laws.Coding.all _
theorem Laws.Coding.cpyc (c : Ctl) (rd : Reg) (ev : Bool) : Laws.Coding.Statement (.cpyc c rd ev) := Laws.Coding.all _
theorem Laws.Coding.cpyw (c : Ctl) (rd : Reg) (n : BitVec 5) (ev : Bool) : Laws.Coding.Statement (.cpyw c rd n ev) := Laws.Coding.all _
theorem Laws.Coding.dclone (c : Ctl) (rd ra : Reg) : Laws.Coding.Statement (.dclone c rd ra) := Laws.Coding.all _
theorem Laws.Coding.dzero (c : Ctl) (rd ra : Reg) : Laws.Coding.Statement (.dzero c rd ra) := Laws.Coding.all _
theorem Laws.Coding.scrub (c : Ctl) (rd ra : Reg) : Laws.Coding.Statement (.scrub c rd ra) := Laws.Coding.all _
theorem Laws.Coding.cpyq (c : Ctl) (rd ra : Reg) : Laws.Coding.Statement (.cpyq c rd ra) := Laws.Coding.all _
theorem Laws.Coding.post (c : Ctl) (ra : Reg) : Laws.Coding.Statement (.post c ra) := Laws.Coding.all _
theorem Laws.Coding.await (c : Ctl) (rd ra rb : Reg) : Laws.Coding.Statement (.await c rd ra rb) := Laws.Coding.all _
theorem Laws.Coding.tqry (c : Ctl) (rd ra : Reg) : Laws.Coding.Statement (.tqry c rd ra) := Laws.Coding.all _
theorem Laws.Coding.fork (c : Ctl) (rd ra : Reg) : Laws.Coding.Statement (.fork c rd ra) := Laws.Coding.all _
theorem Laws.Coding.rdv (c : Ctl) (rd ra rb : Reg) : Laws.Coding.Statement (.rdv c rd ra rb) := Laws.Coding.all _
theorem Laws.Coding.bar (c : Ctl) (rd : Reg) (level : BitVec 5) (k : BitVec 5) : Laws.Coding.Statement (.bar c rd level k) := Laws.Coding.all _
theorem Laws.Coding.arrive (c : Ctl) (level : BitVec 5) : Laws.Coding.Statement (.arrive c level) := Laws.Coding.all _
theorem Laws.Coding.wait (c : Ctl) (rd ra rb : Reg) : Laws.Coding.Statement (.wait c rd ra rb) := Laws.Coding.all _
theorem Laws.Coding.park (c : Ctl) : Laws.Coding.Statement (.park c) := Laws.Coding.all _
theorem Laws.Coding.evset (c : Ctl) (ra rb : Reg) : Laws.Coding.Statement (.evset c ra rb) := Laws.Coding.all _
theorem Laws.Coding.evret (c : Ctl) (ra : Reg) : Laws.Coding.Statement (.evret c ra) := Laws.Coding.all _
theorem Laws.Coding.evmask (c : Ctl) (rd ra rb : Reg) : Laws.Coding.Statement (.evmask c rd ra rb) := Laws.Coding.all _
theorem Laws.Coding.start (r : RowId) (op : BitVec 48) : Laws.Coding.Statement (.start r op) := Laws.Coding.all _
theorem Laws.Coding.stopCommand (r : RowId) : Laws.Coding.Statement (.stopCommand r) := Laws.Coding.all _
theorem Laws.Coding.redirect (r : RowId) (op : BitVec 48) : Laws.Coding.Statement (.redirect r op) := Laws.Coding.all _
theorem Laws.Coding.wake (r : RowId) : Laws.Coding.Statement (.wake r) := Laws.Coding.all _
theorem Laws.Coding.freeze (r : RowId) : Laws.Coding.Statement (.freeze r) := Laws.Coding.all _
theorem Laws.Coding.thaw (r : RowId) : Laws.Coding.Statement (.thaw r) := Laws.Coding.all _
theorem Laws.Coding.parkCommand (r : RowId) : Laws.Coding.Statement (.parkCommand r) := Laws.Coding.all _
theorem Laws.Coding.unpark (r : RowId) : Laws.Coding.Statement (.unpark r) := Laws.Coding.all _
theorem Laws.Coding.move (r : RowId) (op : BitVec 48) : Laws.Coding.Statement (.move r op) := Laws.Coding.all _
theorem Laws.Coding.quantumClosing (e k : Nat) : Laws.Coding.Statement (.quantumClosing e k) := Laws.Coding.all _
theorem Laws.Coding.switchMarkerClosing (e k : Nat) : Laws.Coding.Statement (.switchMarkerClosing e k) := Laws.Coding.all _
theorem Laws.Coding.waitingInstructionClosing (e k : Nat) : Laws.Coding.Statement (.waitingInstructionClosing e k) := Laws.Coding.all _
theorem Laws.Coding.limitClosing (e k : Nat) : Laws.Coding.Statement (.limitClosing e k) := Laws.Coding.all _
theorem Laws.Coding.waitConditionMet (r : RowId) : Laws.Coding.Statement (.waitConditionMet r) := Laws.Coding.all _
theorem Laws.Coding.closingDone (e k : Nat) : Laws.Coding.Statement (.closingDone e k) := Laws.Coding.all _
theorem Laws.Coding.opening (e : Nat) : Laws.Coding.Statement (.opening e) := Laws.Coding.all _
theorem Laws.Coding.openingDone (e k : Nat) : Laws.Coding.Statement (.openingDone e k) := Laws.Coding.all _
theorem Laws.Coding.openInPlace (e k : Nat) : Laws.Coding.Statement (.openInPlace e k) := Laws.Coding.all _
theorem Laws.Coding.bringIn (e : Nat) : Laws.Coding.Statement (.bringIn e) := Laws.Coding.all _
theorem Laws.Coding.outsideRowAccess (a : RowAccess) : Laws.Coding.Statement (.outsideRowAccess a) := Laws.Coding.all _
theorem Laws.Coding.resultArrival (p : Reply) : Laws.Coding.Statement (.resultArrival p) := Laws.Coding.all _
theorem Laws.Coding.lateCheck (r : RowId) : Laws.Coding.Statement (.lateCheck r) := Laws.Coding.all _
theorem Laws.Coding.vlate (r : RowId) : Laws.Coding.Statement (.vlate r) := Laws.Coding.all _
theorem Laws.Coding.eventDelivery (r : RowId) : Laws.Coding.Statement (.eventDelivery r) := Laws.Coding.all _
theorem Laws.Coding.lineFill (agent line : Nat) (data : List W32) (poison keymiss : BitVec 2) : Laws.Coding.Statement (.lineFill agent line data poison keymiss) := Laws.Coding.all _
theorem Laws.Coding.registrationAck (agent id : Nat) (refused : BitVec 32) : Laws.Coding.Statement (.registrationAck agent id refused) := Laws.Coding.all _
theorem Laws.Coding.recall (agent line : Nat) (mask : BitVec 32) : Laws.Coding.Statement (.recall agent line mask) := Laws.Coding.all _
theorem Laws.Coding.forward (agent line : Nat) (mask : BitVec 32) : Laws.Coding.Statement (.forward agent line mask) := Laws.Coding.all _
theorem Laws.Coding.invalidation (agent line : Nat) (mask : BitVec 32) (replace : Bool) : Laws.Coding.Statement (.invalidation agent line mask replace) := Laws.Coding.all _
theorem Laws.Coding.registration (r : Req) : Laws.Coding.Statement (.registration r) := Laws.Coding.all _
theorem Laws.Coding.recallWriteback (agent inc line : Nat) (mask : BitVec 32) (data : List W32) : Laws.Coding.Statement (.recallWriteback agent inc line mask data) := Laws.Coding.all _
theorem Laws.Coding.evictionWriteback (agent inc line : Nat) (mask : BitVec 32) (data : List W32) : Laws.Coding.Statement (.evictionWriteback agent inc line mask data) := Laws.Coding.all _
theorem Laws.Coding.forwardReply (agent inc line : Nat) (mask : BitVec 32) (data : List W32) : Laws.Coding.Statement (.forwardReply agent inc line mask data) := Laws.Coding.all _
theorem Laws.Coding.lineRead (r : Req) : Laws.Coding.Statement (.lineRead r) := Laws.Coding.all _
theorem Laws.Coding.homeAtomic (r : Req) : Laws.Coding.Statement (.homeAtomic r) := Laws.Coding.all _
theorem Laws.Coding.writeThrough (r : Req) : Laws.Coding.Statement (.writeThrough r) := Laws.Coding.all _
theorem Laws.Coding.engineLineWrite (r : Req) : Laws.Coding.Statement (.engineLineWrite r) := Laws.Coding.all _
theorem Laws.Coding.invalidationAck (agent inc line : Nat) (kept : Bool) : Laws.Coding.Statement (.invalidationAck agent inc line kept) := Laws.Coding.all _
theorem Laws.Coding.evictionNotice (agent inc line : Nat) : Laws.Coding.Statement (.evictionNotice agent inc line) := Laws.Coding.all _
theorem Laws.Coding.tierFill (unit : Nat) : Laws.Coding.Statement (.tierFill unit) := Laws.Coding.all _
theorem Laws.Coding.refresh (slice pc : Nat) : Laws.Coding.Statement (.refresh slice pc) := Laws.Coding.all _
theorem Laws.Coding.refreshLimit (slice pc : Nat) : Laws.Coding.Statement (.refreshLimit slice pc) := Laws.Coding.all _
theorem Laws.Coding.agentTimeout (agent : Nat) : Laws.Coding.Statement (.agentTimeout agent) := Laws.Coding.all _
theorem Laws.Coding.agentDead (agent : Nat) : Laws.Coding.Statement (.agentDead agent) := Laws.Coding.all _
theorem Laws.Coding.leaseRenewal (part page : Nat) (granted : Bool) (expiry : Nat) : Laws.Coding.Statement (.leaseRenewal part page granted expiry) := Laws.Coding.all _
theorem Laws.Coding.leaseLost (r : RowId) : Laws.Coding.Statement (.leaseLost r) := Laws.Coding.all _
theorem Laws.Coding.leaseExpiry (page holder : Nat) : Laws.Coding.Statement (.leaseExpiry page holder) := Laws.Coding.all _
theorem Laws.Coding.revoke (page : Nat) : Laws.Coding.Statement (.revoke page) := Laws.Coding.all _
theorem Laws.Coding.revokeAck (page : Nat) (holder : Sender) : Laws.Coding.Statement (.revokeAck page holder) := Laws.Coding.all _
theorem Laws.Coding.homeHandover (page : Nat) : Laws.Coding.Statement (.homeHandover page) := Laws.Coding.all _
theorem Laws.Coding.commit (slice : Nat) (r : RowId) (tag : Nat) : Laws.Coding.Statement (.commit slice r tag) := Laws.Coding.all _
theorem Laws.Coding.rehomeReissue (r : Req) : Laws.Coding.Statement (.rehomeReissue r) := Laws.Coding.all _
theorem Laws.Coding.copyStep (cl id : Nat) : Laws.Coding.Statement (.copyStep cl id) := Laws.Coding.all _
theorem Laws.Coding.batchReport (r : RowId) : Laws.Coding.Statement (.batchReport r) := Laws.Coding.all _
theorem Laws.Coding.appendGrant (r : Req) : Laws.Coding.Statement (.appendGrant r) := Laws.Coding.all _
theorem Laws.Coding.appendWrite (r : Req) : Laws.Coding.Statement (.appendWrite r) := Laws.Coding.all _
theorem Laws.Coding.sealArrival (r : Req) : Laws.Coding.Statement (.sealArrival r) := Laws.Coding.all _
theorem Laws.Coding.sealEntryWrite (page : Nat) : Laws.Coding.Statement (.sealEntryWrite page) := Laws.Coding.all _
theorem Laws.Coding.tailRequest (r : Req) : Laws.Coding.Statement (.tailRequest r) := Laws.Coding.all _
theorem Laws.Coding.rackRequest (die page gen : Nat) : Laws.Coding.Statement (.rackRequest die page gen) := Laws.Coding.all _
theorem Laws.Coding.rackPushLine (die page gen line : Nat) (data : List W32) : Laws.Coding.Statement (.rackPushLine die page gen line data) := Laws.Coding.all _
theorem Laws.Coding.rackDrop (die page : Nat) : Laws.Coding.Statement (.rackDrop die page) := Laws.Coding.all _
theorem Laws.Coding.caskInit (q page : Nat) : Laws.Coding.Statement (.caskInit q page) := Laws.Coding.all _
theorem Laws.Coding.caskInitZero (q page : Nat) : Laws.Coding.Statement (.caskInitZero q page) := Laws.Coding.all _
theorem Laws.Coding.caskFree (q page : Nat) : Laws.Coding.Statement (.caskFree q page) := Laws.Coding.all _
theorem Laws.Coding.reclaimSweepEnd (page : Nat) : Laws.Coding.Statement (.reclaimSweepEnd page) := Laws.Coding.all _
theorem Laws.Coding.vectorExecute (pool claim : Nat) : Laws.Coding.Statement (.vectorExecute pool claim) := Laws.Coding.all _
theorem Laws.Coding.claimGrant (pool : Nat) (r : RowId) : Laws.Coding.Statement (.claimGrant pool r) := Laws.Coding.all _
theorem Laws.Coding.vparkResume (pool claim : Nat) : Laws.Coding.Statement (.vparkResume pool claim) := Laws.Coding.all _
theorem Laws.Coding.vparkDiscard (pool claim : Nat) : Laws.Coding.Statement (.vparkDiscard pool claim) := Laws.Coding.all _
theorem Laws.Coding.postReceive (p : PostReq) : Laws.Coding.Statement (.postReceive p) := Laws.Coding.all _
theorem Laws.Coding.nodeRelease (part rec : Nat) (engine : Option Nat) : Laws.Coding.Statement (.nodeRelease part rec engine) := Laws.Coding.all _
theorem Laws.Coding.nodeDispatch (die : Nat) : Laws.Coding.Statement (.nodeDispatch die) := Laws.Coding.all _
theorem Laws.Coding.nodeAging (die part rec : Nat) : Laws.Coding.Statement (.nodeAging die part rec) := Laws.Coding.all _
theorem Laws.Coding.nodeDone (die part rec : Nat) : Laws.Coding.Statement (.nodeDone die part rec) := Laws.Coding.all _
theorem Laws.Coding.nodeFault (die part rec cause : Nat) (addr : Word) : Laws.Coding.Statement (.nodeFault die part rec cause addr) := Laws.Coding.all _
theorem Laws.Coding.nparkResume (engine : Nat) : Laws.Coding.Statement (.nparkResume engine) := Laws.Coding.all _
theorem Laws.Coding.nparkFail (engine : Nat) : Laws.Coding.Statement (.nparkFail engine) := Laws.Coding.all _
theorem Laws.Coding.nodeRetry (q rec : Nat) : Laws.Coding.Statement (.nodeRetry q rec) := Laws.Coding.all _
theorem Laws.Coding.nodeDrop (q rec : Nat) : Laws.Coding.Statement (.nodeDrop q rec) := Laws.Coding.all _
theorem Laws.Coding.launchQueueRing (q n : Nat) (tail : W32) : Laws.Coding.Statement (.launchQueueRing q n tail) := Laws.Coding.all _
theorem Laws.Coding.forkRequest (p : PostReq) : Laws.Coding.Statement (.forkRequest p) := Laws.Coding.all _
theorem Laws.Coding.launchTake (q : Nat) : Laws.Coding.Statement (.launchTake q) := Laws.Coding.all _
theorem Laws.Coding.rowCreate (q launch die : Nat) : Laws.Coding.Statement (.rowCreate q launch die) := Laws.Coding.all _
theorem Laws.Coding.launchComplete (q launch : Nat) : Laws.Coding.Statement (.launchComplete q launch) := Laws.Coding.all _
theorem Laws.Coding.barrierArrival (a : Arrival) : Laws.Coding.Statement (.barrierArrival a) := Laws.Coding.all _
theorem Laws.Coding.syncCompletion (r : RowId) (slot tag : Nat) (value : Word) (refused : Bool) : Laws.Coding.Statement (.syncCompletion r slot tag value refused) := Laws.Coding.all _
theorem Laws.Coding.rdvArrival (a : Arrival) (meet count : Nat) : Laws.Coding.Statement (.rdvArrival a meet count) := Laws.Coding.all _
theorem Laws.Coding.watchReply (r : RowId) (slot tag : Nat) (value : Word) (met : Bool) : Laws.Coding.Statement (.watchReply r slot tag value met) := Laws.Coding.all _
theorem Laws.Coding.ringMessageWrite (ring : Ring) (die : Nat) : Laws.Coding.Statement (.ringMessageWrite ring die) := Laws.Coding.all _
theorem Laws.Coding.mboxDrain (e : Nat) : Laws.Coding.Statement (.mboxDrain e) := Laws.Coding.all _
theorem Laws.Coding.pageWalk (unit part : Nat) (va : Word) : Laws.Coding.Statement (.pageWalk unit part va) := Laws.Coding.all _
theorem Laws.Coding.ptRootWrite (q : Nat) (v : Word) : Laws.Coding.Statement (.ptRootWrite q v) := Laws.Coding.all _
theorem Laws.Coding.pmemCfgWrite (q : Nat) (v : Word) : Laws.Coding.Statement (.pmemCfgWrite q v) := Laws.Coding.all _
theorem Laws.Coding.pcaskCfgWrite (q : Nat) (v : Word) : Laws.Coding.Statement (.pcaskCfgWrite q v) := Laws.Coding.all _
theorem Laws.Coding.prowCfgWrite (q : Nat) (v : Word) : Laws.Coding.Statement (.prowCfgWrite q v) := Laws.Coding.all _
theorem Laws.Coding.psaveCfgWrite (q : Nat) (v : Word) : Laws.Coding.Statement (.psaveCfgWrite q v) := Laws.Coding.all _
theorem Laws.Coding.keyLoad (k : Nat) : Laws.Coding.Statement (.keyLoad k) := Laws.Coding.all _
theorem Laws.Coding.keyClear (k : Nat) : Laws.Coding.Statement (.keyClear k) := Laws.Coding.all _
theorem Laws.Coding.pin (q page : Nat) : Laws.Coding.Statement (.pin q page) := Laws.Coding.all _
theorem Laws.Coding.pinp (q page : Nat) : Laws.Coding.Statement (.pinp q page) := Laws.Coding.all _
theorem Laws.Coding.unpin (q page : Nat) : Laws.Coding.Statement (.unpin q page) := Laws.Coding.all _
theorem Laws.Coding.migrate (q page : Nat) : Laws.Coding.Statement (.migrate q page) := Laws.Coding.all _
theorem Laws.Coding.retire (q page : Nat) : Laws.Coding.Statement (.retire q page) := Laws.Coding.all _
theorem Laws.Coding.spunmap (q page : Nat) : Laws.Coding.Statement (.spunmap q page) := Laws.Coding.all _
theorem Laws.Coding.hptCandRead (die : Nat) : Laws.Coding.Statement (.hptCandRead die) := Laws.Coding.all _
theorem Laws.Coding.hptSkipRead (die : Nat) : Laws.Coding.Statement (.hptSkipRead die) := Laws.Coding.all _
theorem Laws.Coding.evict (q : Nat) (cmask : BitVec 32) : Laws.Coding.Statement (.evict q cmask) := Laws.Coding.all _
theorem Laws.Coding.forcedFreeze (cl : Nat) : Laws.Coding.Statement (.forcedFreeze cl) := Laws.Coding.all _
theorem Laws.Coding.evictionStreaming (cl : Nat) : Laws.Coding.Statement (.evictionStreaming cl) := Laws.Coding.all _
theorem Laws.Coding.restore (q : Nat) (cmask : BitVec 32) : Laws.Coding.Statement (.restore q cmask) := Laws.Coding.all _
theorem Laws.Coding.remove (q : Nat) (cmask : BitVec 32) : Laws.Coding.Statement (.remove q cmask) := Laws.Coding.all _
theorem Laws.Coding.addCluster (q : Nat) (cmask : BitVec 32) : Laws.Coding.Statement (.addCluster q cmask) := Laws.Coding.all _
theorem Laws.Coding.gsEntryWrite (v : BitVec 128) : Laws.Coding.Statement (.gsEntryWrite v) := Laws.Coding.all _
theorem Laws.Coding.sliceEntry : Laws.Coding.Statement .sliceEntry := Laws.Coding.all _
theorem Laws.Coding.enable (q : Nat) : Laws.Coding.Statement (.enable q) := Laws.Coding.all _
theorem Laws.Coding.disable (q : Nat) : Laws.Coding.Statement (.disable q) := Laws.Coding.all _
theorem Laws.Coding.reset (q : Nat) : Laws.Coding.Statement (.reset q) := Laws.Coding.all _
theorem Laws.Coding.badcfgClear (q : Nat) : Laws.Coding.Statement (.badcfgClear q) := Laws.Coding.all _
theorem Laws.Coding.pbwWrite (q : Nat) (v : Word) : Laws.Coding.Statement (.pbwWrite q v) := Laws.Coding.all _
theorem Laws.Coding.bwStallRead (q : Nat) : Laws.Coding.Statement (.bwStallRead q) := Laws.Coding.all _
theorem Laws.Coding.hostPostedWrite (a : HostAccess) : Laws.Coding.Statement (.hostPostedWrite a) := Laws.Coding.all _
theorem Laws.Coding.hostBarRead (a : HostAccess) : Laws.Coding.Statement (.hostBarRead a) := Laws.Coding.all _
theorem Laws.Coding.storageDoorbell (q k : Nat) (v : Word) : Laws.Coding.Statement (.storageDoorbell q k v) := Laws.Coding.all _
theorem Laws.Coding.storageCompletion (q k cid status : Nat) (data : List Byte) : Laws.Coding.Statement (.storageCompletion q k cid status data) := Laws.Coding.all _
theorem Laws.Coding.peerFlitReceive (f : Flit) : Laws.Coding.Statement (.peerFlitReceive f) := Laws.Coding.all _
theorem Laws.Coding.peerLinkUp (port : Nat) (rmod : BitVec 16) : Laws.Coding.Statement (.peerLinkUp port rmod) := Laws.Coding.all _
theorem Laws.Coding.peerPortFailure (port : Nat) : Laws.Coding.Statement (.peerPortFailure port) := Laws.Coding.all _
theorem Laws.Coding.boot : Laws.Coding.Statement .boot := Laws.Coding.all _
theorem Laws.Coding.warmReset : Laws.Coding.Statement .warmReset := Laws.Coding.all _
theorem Laws.Coding.translatePortableModule (r : RowId) : Laws.Coding.Statement (.translatePortableModule r) := Laws.Coding.all _
theorem Laws.Coding.verifyNativeImage (r : RowId) : Laws.Coding.Statement (.verifyNativeImage r) := Laws.Coding.all _
theorem Laws.Coding.attest (r : RowId) : Laws.Coding.Statement (.attest r) := Laws.Coding.all _
theorem Laws.Coding.halt (cl : Nat) : Laws.Coding.Statement (.halt cl) := Laws.Coding.all _
theorem Laws.Coding.resume (cl : Nat) : Laws.Coding.Statement (.resume cl) := Laws.Coding.all _
theorem Laws.Coding.step (cl : Nat) : Laws.Coding.Statement (.step cl) := Laws.Coding.all _
theorem Laws.Coding.breakpointMatch (e k : Nat) : Laws.Coding.Statement (.breakpointMatch e k) := Laws.Coding.all _
theorem Laws.Coding.trcCtlWrite (q : Nat) (v : Word) : Laws.Coding.Statement (.trcCtlWrite q v) := Laws.Coding.all _
theorem Laws.Coding.traceTimeRecord (e : Nat) : Laws.Coding.Statement (.traceTimeRecord e) := Laws.Coding.all _
theorem Laws.Coding.lifetimeFlush : Laws.Coding.Statement .lifetimeFlush := Laws.Coding.all _
theorem Laws.Coding.rollbackFloorWrite (v : Word) : Laws.Coding.Statement (.rollbackFloorWrite v) := Laws.Coding.all _
theorem Laws.Coding.pwrCtlWrite (v : Word) : Laws.Coding.Statement (.pwrCtlWrite v) := Laws.Coding.all _
theorem Laws.Coding.clockChangeDone : Laws.Coding.Statement .clockChangeDone := Laws.Coding.all _
theorem Laws.Coding.thermalNotice (e : Nat) (temp : BitVec 16) : Laws.Coding.Statement (.thermalNotice e temp) := Laws.Coding.all _
theorem Laws.Coding.throttleStart (temp : BitVec 16) : Laws.Coding.Statement (.throttleStart temp) := Laws.Coding.all _
theorem Laws.Coding.throttleEnd : Laws.Coding.Statement .throttleEnd := Laws.Coding.all _
theorem Laws.Coding.managementHalt : Laws.Coding.Statement .managementHalt := Laws.Coding.all _
theorem Laws.Coding.registerWrite (q : Option Nat) (off : Nat) (v : Word) : Laws.Coding.Statement (.registerWrite q off v) := Laws.Coding.all _
theorem Laws.Coding.reservedEncoding (word : Nat) : Laws.Coding.Statement (.reservedEncoding word) := Laws.Coding.all _
theorem Laws.Coding.fetchFault (word cause info lvl : Nat) : Laws.Coding.Statement (.fetchFault word cause info lvl) := Laws.Coding.all _
theorem Laws.Coding.sensorFallenBelow90c (e : Nat) : Laws.Coding.Statement (.sensorFallenBelow90c e) := Laws.Coding.all _
theorem Laws.Coding.powerLoss : Laws.Coding.Statement .powerLoss := Laws.Coding.all _
theorem Laws.Coding.orderlyShutdown : Laws.Coding.Statement .orderlyShutdown := Laws.Coding.all _

end Sys2Proof
end

