-- ==== Sys2Proof/Tests/Slice0.lean ====
section
/-!
SUPPORT. Tests: ill-formed instructions refused, words of the spec's encoding tables decoded, one-step tests on small states, and,
for each statement with hypotheses, states and operands that meet them.
-/

namespace Sys2Proof.Tests
open Sys2Proof Sys2Proof.Machine Sys2Proof.WF

set_option Elab.async false

def c0 : Ctl := ⟨false, none, 0⟩
def c1 : Ctl := ⟨false, none, 1⟩
def g (n : Nat) : Reg := gReg n

/-! ### Small states -/

/-- The words of a row image that a list names; the others are zero. -/
def tImage (ws : List (Nat × Word)) : Image := ws.foldl (fun im x => imgSet im x.1 x.2) Image.init
/-- A slot that holds a bank row in a state. -/
def tSlot (st : SlotSt) (pr : Nat) : Slot := { Slot.init with st := st, row := pr }
/-- Row 0 of partition 0 lies OPEN in bank row 0, in slot 0 of executor 0, with these words; its entry stands in the row
table. -/
def tState (ws : List (Nat × Word)) : State :=
  { State.reset with
    agenda := []
    mem := [(7, 0x80)]
    rows := [(0, tImage ((0, w64 (2 * 2 ^ 48)) :: ws))]
    execs := [(0, { Exec.init with slots := #v[tSlot .opened 0, Slot.init, Slot.init, Slot.init] })] }
/-- The same row at privilege p. -/
def tPriv (p : Nat) (ws : List (Nat × Word)) : State := tState ((2, w64 (p * 2 ^ 16)) :: ws)
/-- The state that an instruction or device step leaves. -/
def after (i : Instr) (s : State) : State := match exec i s with | .next t => t | _ => s
/-- The row word that an instruction leaves in a register. -/
def leaves (i : Instr) (s : State) (n : Nat) : Nat := (rowWord (after i s) 0 (32 + n)).toNat

/-- Partition 0 with cluster 0, control executor 0, home slice 0 and key slot 0, its save area at 3 GiB. -/
def tPart : Part := { Part.init with pdef0 := w64 (2 ^ 32 + 1), pdef1 := 0x80, pslice := [1, 0, 0, 0], psave := w64 (3 * 2 ^ 30), en := true }
/-- A leaf of partition 0 that maps a page of 64 KiB: its class, its R, W, X and U bits, key slot and frame. -/
def tPage (va cls rwxu key frame : Nat) : TlbEnt :=
  ⟨0, va, 4, w64 (2 ^ 63 + 2 ^ 62 * 0 + cls * 2 ^ 60 + key * 2 ^ 54 + rwxu * 2 ^ 50 + frame), 0⟩
def pMem : TlbEnt := tPage 0x20000000 0 15 0 0x20000000
def pRow : TlbEnt := tPage 0x30000000 0 15 0 0x200000000000
def pReg : TlbEnt := tPage 0x40000000 0 15 0 0x300000000000
def pSealed : TlbEnt := tPage 0x50000000 3 15 0 0x50000000
def pOpen : TlbEnt := tPage 0x60000000 2 15 0 0x60000000
def pBare : TlbEnt := tPage 0x70000000 0 0 0 0x70000000
def pForeign : TlbEnt := tPage 0x78000000 0 15 1 0x78000000
/-- A state in which the executing row, row 0 of partition 0 at executor e, reaches memory at 0x20000000, row images at
0x30000000, registers at 0x40000000, a sealed and an open cask page at 0x50000000 and 0x60000000, a page without
permissions at 0x70000000, one of a foreign key at 0x78000000, and the scratchpads from 0 on. Row 1 lies IDLE in the next
bank row. The list gives words of row 0. -/
def tExec (e : Nat) (ws : List (Nat × Word)) : State :=
  { tState [] with
    cur := 2048 * e
    mem := leBytes 16 ((2 ^ 63 + rowCode (2048 * e)) + 2 ^ 64 * (2 ^ 63 + rowCode (2048 * e + 1))) |>.zipIdx.map (fun x => (x.2, x.1)) |>.filter (fun x => x.2 != 0)
    rows := [(2048 * e, tImage ((0, w64 (2 * 2 ^ 48)) :: ws)), (2048 * e + 1, tImage [(0, w64 0), (3, 1)])]
    execs := [(e, { Exec.init with slots := #v[tSlot .opened (2048 * e), Slot.init, Slot.init, Slot.init] })]
    parts := [(0, tPart)]
    hub := { HubDie.init with keys := [(0, { KeySlot.init with valid := true })] }
    tlbs := [(unitOf e, [pMem, pRow, pReg, pSealed, pOpen, pBare, pForeign])] }
/-- The same on cluster 0, with registers g1, g2, … of these values. -/
def tRegs (vs : List Word) : State := tExec 0 (vs.zipIdx.map fun x => (33 + x.2, x.1))
/-! ### Ill-formed instructions are refused -/

/-- R46, R47: a window other than 0 needs a px.r, and nop admits no second prefix. -/
theorem test_prefix_count_refused : (Instr.add c0 ⟨1, 6⟩ (g 3) (g 4)).prefixesFit = false ∧
    (Instr.nop ⟨false, none, 2⟩).wellFormed = false ∧ (Instr.add c1 ⟨1, 6⟩ (g 3) (g 4)).wellFormed = true := by
  decide +kernel
/-- R45: an immediate wider than its field needs px.i words; four of them hold 90 bits. -/
theorem test_wide_immediate_refused : (Instr.movi c0 (g 2) 0x12345).immediateFits = false ∧
    (Instr.movi c1 (g 2) 0x12345).wellFormed = true ∧
    (Instr.movi ⟨false, none, 4⟩ (g 2) (2 ^ 90)).wellFormed = false ∧
    (Instr.movi ⟨false, none, 4⟩ (g 2) (2 ^ 88)).wellFormed = true := by decide +kernel
/-- R218, R210, R254, R276, R348: operands that no encoding of the instruction admits. -/
theorem test_operands_refused : (Instr.shli c0 (g 1) (g 2) 64).operandsLegal = false ∧ ∀ i ∈ ([.shli c0 (g 1) (g 2) 64, .shri c0 (g 1) (g 2) (-1), .sget c0 (g 1) 0x011,
    .sset c0 (g 1) 0x106, .bar c0 (g 1) 5 0, .bar c0 (g 1) 1 2, .arrive c0 0, .fadd c1 (g 1) (g 2) (g 3) ⟨.s8, .f32, .rne⟩,
    .vadd c1 (g 1) (g 2) (g 3) ⟨1, false, 0, .rne⟩, .ld c1 (g 1) (g 2) .d64 0 ⟨false, .norm, .rel, .dev⟩,
    .fence c1 ⟨false, .norm, .plain, .dev⟩] : List Instr), i.wellFormed = false := by decide +kernel

/-! ### Words that the spec prints or lays out decode to their instructions -/

/-- R35, R42 to R49, R56, R57: words and chains that the spec calls illegal, with the word that decides. -/
theorem test_decode_illegal : ∀ x ∈ ([([0x04808345], 0), ([0x01E00004, 0x00080640], 0), ([0x01F00080, 0x00C14380], 1),
    ([0x01F10000, 0x00C14380], 0), ([0x00C94340], 0), ([0x002190A5], 0), ([0x01F80000], 0), ([0x0000000E], 0),
    ([0x00380000], 0), ([0x01900001], 0), ([0x01918220], 0), ([0x01180401], 0),
    ([0x01E00000, 0x01E00000, 0x01E00000, 0x01E00000, 0x01E00000], 4), ([0x01E80000, 0x01E80000], 1)] :
    List (List W32 × Nat)), decode x.1 = .illegal x.2 := by decide +kernel
/-- The words that R348, the encoding chapter and the worked programs print. -/
theorem test_decode_printed : ∀ x ∈ ([(0x00004006, .sget c0 (g 1) 0), (0x80C0C302, .ld ⟨true, none, 0⟩ (g 3) (g 1) .s32 2 memDefault),
    (0x4AE10220, .amo ⟨false, some ⟨2, true⟩, 0⟩ (g 4) (g 1) (g 2) .add devDefault), (0x00A03E00, .jr c0 (g 31)),
    (0x00000118, .trap c0 17), (0x00000039, .hcall c0 3), (0x0000043A, .xret c0 (g 2) (g 3)), (0x0000043B, .tlbinv c0 (g 2) (g 3)),
    (0x00010A6C, .rowctl c0 (g 4) (g 5) (g 6)), (0x0001D09D, .mbox c0 (g 7) (g 8) (g 9)), (0x01880800, .post c0 (g 4)),
    (0x01894C71, .await c0 (g 5) (g 6) (g 7)), (0x0188D002, .tqry c0 (g 3) (g 8)), (0x01889203, .fork c0 (g 2) (g 9)),
    (0x018954B4, .rdv c0 (g 5) (g 10) (g 11)), (0x01918200, .bar c0 (g 6) 1 0), (0x01918210, .bar c0 (g 6) 1 1),
    (0x01900401, .arrive c0 2), (0x01914802, .wait c0 (g 5) (g 4) (g 0)), (0x01900003, .park c0),
    (0x01980670, .evset c0 (g 3) (g 7)), (0x01980001, .evret c0 (g 0)), (0x01988642, .evmask c0 (g 2) (g 3) (g 4)),
    (0x00608203, .shli c0 (g 2) (g 1) 3), (0x00289C40, .cmpi c0 1 .ne (g 7) 0)] : List (W32 × Instr)),
    decode [x.1] = .ok x.2 1 := by decide +kernel
theorem test_decode_sys : ∀ x ∈ ([
    (0b0_0_0000_0_000000_00000_00000_00000_0000, .ill c0),
    (0b0_0_0000_0_000000_00000_00000_00000_0001, .nop c0),
    (0b0_0_0000_0_000000_00000_00000_00000_0010, .stop c0),
    (0b0_0_0000_0_000000_00000_00000_00000_0011, .yield c0),
    (0b0_0_0000_0_000000_00000_00000_00000_0100, .brk c0),
    (0b0_0_0000_0_000000_00000_00000_00000_0101, .ifence c0),
    (0b0_0_0000_0_000000_00101_0000001100_0110, .sget c0 (g 5) 0x00C),
    (0b0_0_0000_0_000000_00011_0100000000_0111, .sset c0 (g 3) 0x100),
    (0b0_0_0000_0_000000_00000_1111111111_1000, .trap c0 0x3FF),
    (0b0_0_0000_0_000000_00000_0000010001_1001, .hcall c0 17),
    (0b0_0_0000_0_000000_00000_00110_00111_1010, .xret c0 (g 6) (g 7)),
    (0b0_0_0000_0_000000_00000_00110_00111_1011, .tlbinv c0 (g 6) (g 7)),
    (0b0_0_0000_0_000000_00101_00110_00111_1100, .rowctl c0 (g 5) (g 6) (g 7)),
    (0b0_0_0000_0_000000_00101_00110_00111_1101, .mbox c0 (g 5) (g 6) (g 7))] : List (W32 × Instr)),
    decode [x.1] = .ok x.2 1 := by decide +kernel
theorem test_decode_alu : ∀ x ∈ ([
    (0b0_0_0000_0_000001_10001_00010_11111_0000, .add c0 (g 17) (g 2) (g 31)),
    (0b0_0_0000_0_000001_10001_00010_11111_0001, .sub c0 (g 17) (g 2) (g 31)),
    (0b0_0_0000_0_000001_10001_00010_11111_0010, .and c0 (g 17) (g 2) (g 31)),
    (0b0_0_0000_0_000001_10001_00010_11111_0011, .or c0 (g 17) (g 2) (g 31)),
    (0b0_0_0000_0_000001_10001_00010_11111_0100, .xor c0 (g 17) (g 2) (g 31)),
    (0b0_0_0000_0_000001_10001_00010_11111_0101, .andn c0 (g 17) (g 2) (g 31)),
    (0b0_0_0000_0_000001_10001_00010_11111_0110, .orn c0 (g 17) (g 2) (g 31)),
    (0b0_0_0000_0_000001_10001_00010_11111_0111, .nor c0 (g 17) (g 2) (g 31)),
    (0b0_0_0000_0_000001_10001_00010_11111_1000, .shl c0 (g 17) (g 2) (g 31)),
    (0b0_0_0000_0_000001_10001_00010_11111_1001, .shr c0 (g 17) (g 2) (g 31)),
    (0b0_0_0000_0_000001_10001_00010_11111_1010, .sra c0 (g 17) (g 2) (g 31)),
    (0b0_0_0000_0_000001_10001_00010_11111_1011, .rol c0 (g 17) (g 2) (g 31)),
    (0b0_0_0000_0_000001_10001_00010_11111_1100, .min c0 (g 17) (g 2) (g 31)),
    (0b0_0_0000_0_000001_10001_00010_11111_1101, .max c0 (g 17) (g 2) (g 31)),
    (0b0_0_0000_0_000001_10001_00010_11111_1110, .minz c0 (g 17) (g 2) (g 31)),
    (0b0_0_0000_0_000001_10001_00010_11111_1111, .maxz c0 (g 17) (g 2) (g 31))] : List (W32 × Instr)),
    decode [x.1] = .ok x.2 1 := by decide +kernel
theorem test_decode_mul : ∀ x ∈ ([
    (0b0_0_0000_0_000010_00001_00010_00011_0000, .mul c0 (g 1) (g 2) (g 3)),
    (0b0_0_0000_0_000010_00001_00010_00011_0001, .mulh c0 (g 1) (g 2) (g 3)),
    (0b0_0_0000_0_000010_00001_00010_00011_0010, .mulhz c0 (g 1) (g 2) (g 3)),
    (0b0_0_0000_0_000010_00001_00010_00011_0011, .div c0 (g 1) (g 2) (g 3)),
    (0b0_0_0000_0_000010_00001_00010_00011_0100, .divz c0 (g 1) (g 2) (g 3)),
    (0b0_0_0000_0_000010_00001_00010_00011_0101, .rem c0 (g 1) (g 2) (g 3)),
    (0b0_0_0000_0_000010_00001_00010_00011_0110, .remz c0 (g 1) (g 2) (g 3)),
    (0b0_0_0000_0_000010_11110_01001_00000_0111, .abs c0 (g 30) (g 9)),
    (0b0_0_0000_0_000010_11110_01001_00000_1000, .neg c0 (g 30) (g 9)),
    (0b0_0_0000_0_000010_11110_01001_00000_1001, .clz c0 (g 30) (g 9)),
    (0b0_0_0000_0_000010_11110_01001_00000_1010, .ctz c0 (g 30) (g 9)),
    (0b0_0_0000_0_000010_11110_01001_00000_1011, .popc c0 (g 30) (g 9)),
    (0b0_0_0000_0_000010_11110_01001_00000_1100, .bswap c0 (g 30) (g 9))] : List (W32 × Instr)),
    decode [x.1] = .ok x.2 1 := by decide +kernel
theorem test_decode_bit : ∀ x ∈ ([
    (0b0_0_0000_0_000011_00100_00101_00110_0000, .bfx c0 (g 4) (g 5) (g 6)),
    (0b0_0_0000_0_000011_00100_00101_00110_0001, .bfxz c0 (g 4) (g 5) (g 6)),
    (0b0_0_0000_0_000011_00100_00101_00110_0010, .bfi c0 (g 4) (g 5) (g 6)),
    (0b0_0_0000_0_000011_00100_00101_00000_0011, .sxb c0 (g 4) (g 5)),
    (0b0_0_0000_0_000011_00100_00101_00000_0100, .sxh c0 (g 4) (g 5)),
    (0b0_0_0000_0_000011_00100_00101_00000_0101, .sxw c0 (g 4) (g 5)),
    (0b0_0_0000_0_000011_00100_00101_00000_0110, .zxb c0 (g 4) (g 5)),
    (0b0_0_0000_0_000011_00100_00101_00000_0111, .zxh c0 (g 4) (g 5)),
    (0b0_0_0000_0_000011_00100_00101_00000_1000, .zxw c0 (g 4) (g 5))] : List (W32 × Instr)),
    decode [x.1] = .ok x.2 1 := by decide +kernel
theorem test_decode_compare : ∀ x ∈ ([
    (0b0_0_0000_0_000100_1001_00100_00101_0000_0, .cmp c0 9 .eq (g 4) (g 5)),
    (0b0_0_0000_0_000100_1001_00100_00101_0001_0, .cmp c0 9 .ne (g 4) (g 5)),
    (0b0_0_0000_0_000100_1001_00100_00101_0010_0, .cmp c0 9 .lt (g 4) (g 5)),
    (0b0_0_0000_0_000100_1001_00100_00101_0011_0, .cmp c0 9 .le (g 4) (g 5)),
    (0b0_0_0000_0_000100_1001_00100_00101_0100_0, .cmp c0 9 .gt (g 4) (g 5)),
    (0b0_0_0000_0_000100_1001_00100_00101_0101_0, .cmp c0 9 .ge (g 4) (g 5)),
    (0b0_0_0000_0_000100_1001_00100_00101_0110_0, .cmp c0 9 .ltz (g 4) (g 5)),
    (0b0_0_0000_0_000100_1001_00100_00101_0111_0, .cmp c0 9 .lez (g 4) (g 5)),
    (0b0_0_0000_0_000100_1001_00100_00101_1000_0, .cmp c0 9 .gtz (g 4) (g 5)),
    (0b0_0_0000_0_000100_1001_00100_00101_1001_0, .cmp c0 9 .gez (g 4) (g 5)),
    (0b0_0_0000_0_000101_0010_00011_0111_100000, .cmpi c0 2 .lez (g 3) (-32)),
    (0b0_0_0000_0_000101_1111_00000_1001_011111, .cmpi c0 15 .gez (g 0) 31)] : List (W32 × Instr)),
    decode [x.1] = .ok x.2 1 := by decide +kernel
theorem test_decode_predicate : ∀ x ∈ ([
    (0b0_0_0000_0_000110_0100_0001_0010_000_0000, .pand c0 4 1 2),
    (0b0_0_0000_0_000110_0100_0001_0010_000_0001, .por c0 4 1 2),
    (0b0_0_0000_0_000110_0100_0001_0010_000_0010, .pxor c0 4 1 2),
    (0b0_0_0000_0_000110_0100_0001_0010_000_0011, .pandn c0 4 1 2),
    (0b0_0_0000_0_000110_0100_0001_0000_000_0100, .pnot c0 4 1),
    (0b0_0_0000_0_000110_0100_0001_0000_000_0101, .pmov c0 4 1),
    (0b0_0_0000_0_000110_1101_0000_0000_000_0110, .pset c0 13),
    (0b0_0_0000_0_000110_1101_0000_0000_000_0111, .pclr c0 13),
    (0b0_0_0000_0_000110_1100_0000_0000_000_1000, .pget c0 12),
    (0b0_0_0000_0_000110_0000_1011_0000_000_1001, .pput c0 11)] : List (W32 × Instr)),
    decode [x.1] = .ok x.2 1 := by decide +kernel
theorem test_decode_immediate : ∀ x ∈ ([
    (0b0_0_0000_0_001000_00011_11111_100000000, .addi c0 (g 3) (g 31) (-256)),
    (0b0_0_0000_0_001001_00011_11111_011111111, .andi c0 (g 3) (g 31) (255)),
    (0b0_0_0000_0_001010_00011_11111_111111111, .ori c0 (g 3) (g 31) (-1)),
    (0b0_0_0000_0_001011_00011_11111_111111110, .xori c0 (g 3) (g 31) (-2)),
    (0b0_0_0000_0_001100_00011_11111_000111111, .shli c0 (g 3) (g 31) (63)),
    (0b0_0_0000_0_001101_00011_11111_000000000, .shri c0 (g 3) (g 31) (0)),
    (0b0_0_0000_0_001110_00011_11111_000000101, .srai c0 (g 3) (g 31) (5)),
    (0b0_0_0000_0_001111_00011_11111_111111101, .muli c0 (g 3) (g 31) (-3)),
    (0b0_0_0000_0_010000_00101_10000000000000, .movi c0 (g 5) (-8192)),
    (0b0_0_0000_0_010001_11111_01111111111111, .adr c0 (g 31) 8191)] : List (W32 × Instr)),
    decode [x.1] = .ok x.2 1 := by decide +kernel
theorem test_decode_control : ∀ x ∈ ([
    (0b0_0_0000_0_010010_1000000000000000000, .br c0 (-262144)),
    (0b0_0_0000_0_010011_0111111111111111111, .bl c0 262143),
    (0b0_0_0000_0_010100_00000_11111_00000_0000, .jr c0 (g 31)),
    (0b0_0_0000_0_010100_00111_01000_00000_0001, .jlr c0 (g 7) (g 8)),
    (0b0_0_0000_0_010101_00100_11111111111100, .dbnz c0 (g 4) (-4))] : List (W32 × Instr)),
    decode [x.1] = .ok x.2 1 := by decide +kernel
theorem test_decode_memory : ∀ x ∈ ([
    (0b0_0_0000_0_011000_00101_00110_000_100000, .ld c0 (g 5) (g 6) .s8 (-32) memDefault),
    (0b0_0_0000_0_011010_00101_00110_000_011111, .ldl c0 (g 5) (g 6) .s8 31 memDefault),
    (0b0_0_0000_0_011000_00101_00110_001_100000, .ld c0 (g 5) (g 6) .z8 (-32) memDefault),
    (0b0_0_0000_0_011010_00101_00110_001_011111, .ldl c0 (g 5) (g 6) .z8 31 memDefault),
    (0b0_0_0000_0_011000_00101_00110_010_100000, .ld c0 (g 5) (g 6) .s16 (-32) memDefault),
    (0b0_0_0000_0_011010_00101_00110_010_011111, .ldl c0 (g 5) (g 6) .s16 31 memDefault),
    (0b0_0_0000_0_011000_00101_00110_011_100000, .ld c0 (g 5) (g 6) .z16 (-32) memDefault),
    (0b0_0_0000_0_011010_00101_00110_011_011111, .ldl c0 (g 5) (g 6) .z16 31 memDefault),
    (0b0_0_0000_0_011000_00101_00110_100_100000, .ld c0 (g 5) (g 6) .s32 (-32) memDefault),
    (0b0_0_0000_0_011010_00101_00110_100_011111, .ldl c0 (g 5) (g 6) .s32 31 memDefault),
    (0b0_0_0000_0_011000_00101_00110_101_100000, .ld c0 (g 5) (g 6) .z32 (-32) memDefault),
    (0b0_0_0000_0_011010_00101_00110_101_011111, .ldl c0 (g 5) (g 6) .z32 31 memDefault),
    (0b0_0_0000_0_011000_00101_00110_110_100000, .ld c0 (g 5) (g 6) .d64 (-32) memDefault),
    (0b0_0_0000_0_011010_00101_00110_110_011111, .ldl c0 (g 5) (g 6) .d64 31 memDefault),
    (0b0_0_0000_0_011001_01001_01010_000_111111, .st c0 (g 9) (g 10) .b8 (-1) memDefault),
    (0b0_0_0000_0_011011_01001_01010_000_000010, .stl c0 (g 9) (g 10) .b8 2 memDefault),
    (0b0_0_0000_0_011001_01001_01010_001_111111, .st c0 (g 9) (g 10) .h16 (-1) memDefault),
    (0b0_0_0000_0_011011_01001_01010_001_000010, .stl c0 (g 9) (g 10) .h16 2 memDefault),
    (0b0_0_0000_0_011001_01001_01010_010_111111, .st c0 (g 9) (g 10) .w32 (-1) memDefault),
    (0b0_0_0000_0_011011_01001_01010_010_000010, .stl c0 (g 9) (g 10) .w32 2 memDefault),
    (0b0_0_0000_0_011001_01001_01010_011_111111, .st c0 (g 9) (g 10) .d64 (-1) memDefault),
    (0b0_0_0000_0_011011_01001_01010_011_000010, .stl c0 (g 9) (g 10) .d64 2 memDefault),
    (0b0_0_0000_0_011100_00001_00010_00011_0000, .amo c0 (g 1) (g 2) (g 3) .add devDefault),
    (0b0_0_0000_0_011100_00001_00010_00011_0001, .amo c0 (g 1) (g 2) (g 3) .min devDefault),
    (0b0_0_0000_0_011100_00001_00010_00011_0010, .amo c0 (g 1) (g 2) (g 3) .max devDefault),
    (0b0_0_0000_0_011100_00001_00010_00011_0011, .amo c0 (g 1) (g 2) (g 3) .minz devDefault),
    (0b0_0_0000_0_011100_00001_00010_00011_0100, .amo c0 (g 1) (g 2) (g 3) .maxz devDefault),
    (0b0_0_0000_0_011100_00001_00010_00011_0101, .amo c0 (g 1) (g 2) (g 3) .and devDefault),
    (0b0_0_0000_0_011100_00001_00010_00011_0110, .amo c0 (g 1) (g 2) (g 3) .or devDefault),
    (0b0_0_0000_0_011100_00001_00010_00011_0111, .amo c0 (g 1) (g 2) (g 3) .xor devDefault),
    (0b0_0_0000_0_011100_00001_00010_00011_1000, .amo c0 (g 1) (g 2) (g 3) .swap devDefault),
    (0b0_0_0000_0_011100_00001_00010_00011_1001, .amo c0 (g 1) (g 2) (g 3) .cas devDefault),
    (0b0_0_0000_0_011100_00001_00010_00011_1010, .amo c0 (g 1) (g 2) (g 3) .inc devDefault),
    (0b0_0_0000_0_011100_00001_00010_00011_1011, .amo c0 (g 1) (g 2) (g 3) .fadd devDefault),
    (0b0_0_0000_0_011101_00000_00000_00000_0000, .fence c0 fenceDefault),
    (0b0_0_0000_0_011101_00000_00110_00000_0001, .pf c0 (g 6) devDefault)] : List (W32 × Instr)),
    decode [x.1] = .ok x.2 1 := by decide +kernel
theorem test_decode_cask : ∀ x ∈ ([
    (0b0_0_0000_0_011110_00011_00100_00101_0000, .app c0 (g 3) (g 4) (g 5) caskDefault),
    (0b0_0_0000_0_011110_00011_00100_00101_0001, .appl c0 (g 3) (g 4) (g 5) caskDefault),
    (0b0_0_0000_0_011110_00011_00100_00000_0010, .seal c0 (g 3) (g 4)),
    (0b0_0_0000_0_011110_00011_00100_00000_0011, .tail c0 (g 3) (g 4))] : List (W32 × Instr)),
    decode [x.1] = .ok x.2 1 := by decide +kernel
theorem test_decode_float : ∀ x ∈ ([
    (0b0_0_0000_0_100000_00001_00010_00011_0000, .fadd c0 (g 1) (g 2) (g 3) fDefault),
    (0b0_0_0000_0_100000_00001_00010_00011_0001, .fsub c0 (g 1) (g 2) (g 3) fDefault),
    (0b0_0_0000_0_100000_00001_00010_00011_0010, .fmul c0 (g 1) (g 2) (g 3) fDefault),
    (0b0_0_0000_0_100000_00001_00010_00011_0011, .fdiv c0 (g 1) (g 2) (g 3) fDefault),
    (0b0_0_0000_0_100000_00001_00010_00000_0100, .fsqrt c0 (g 1) (g 2) fDefault),
    (0b0_0_0000_0_100000_00001_00010_00011_0101, .fmin c0 (g 1) (g 2) (g 3) fDefault),
    (0b0_0_0000_0_100000_00001_00010_00011_0110, .fmax c0 (g 1) (g 2) (g 3) fDefault),
    (0b0_0_0000_0_100000_00001_00010_00000_0111, .fabs c0 (g 1) (g 2) fDefault),
    (0b0_0_0000_0_100000_00001_00010_00000_1000, .fneg c0 (g 1) (g 2) fDefault),
    (0b0_0_0000_0_100000_00001_00010_00000_1001, .fclass c0 (g 1) (g 2) .f32),
    (0b0_0_0000_0_100000_00001_00010_00011_1010, .fcpys c0 (g 1) (g 2) (g 3) fDefault),
    (0b0_0_0000_0_100001_00001_00010_00011_0000, .fma c0 (g 1) (g 2) (g 3) fDefault),
    (0b0_0_0000_0_100001_00001_00010_00011_0001, .fms c0 (g 1) (g 2) (g 3) fDefault),
    (0b0_0_0000_0_100001_00001_00010_00011_0010, .fnma c0 (g 1) (g 2) (g 3) fDefault),
    (0b0_0_0000_0_100001_00001_00010_00011_0011, .fnms c0 (g 1) (g 2) (g 3) fDefault),
    (0b0_0_0000_0_100010_0111_00100_00101_0000_0, .fcmp c0 7 .eq (g 4) (g 5) .f32),
    (0b0_0_0000_0_100010_0111_00100_00101_0001_0, .fcmp c0 7 .ne (g 4) (g 5) .f32),
    (0b0_0_0000_0_100010_0111_00100_00101_0010_0, .fcmp c0 7 .lt (g 4) (g 5) .f32),
    (0b0_0_0000_0_100010_0111_00100_00101_0011_0, .fcmp c0 7 .le (g 4) (g 5) .f32),
    (0b0_0_0000_0_100010_0111_00100_00101_0100_0, .fcmp c0 7 .gt (g 4) (g 5) .f32),
    (0b0_0_0000_0_100010_0111_00100_00101_0101_0, .fcmp c0 7 .ge (g 4) (g 5) .f32),
    (0b0_0_0000_0_100010_0111_00100_00101_0110_0, .fcmp c0 7 .un (g 4) (g 5) .f32),
    (0b0_0_0000_0_100010_0111_00100_00101_0111_0, .fcmp c0 7 .ord (g 4) (g 5) .f32),
    (0b0_0_0000_0_100011_00001_00010_00000_0000, .fcvt c0 (g 1) (g 2) fDefault)] : List (W32 × Instr)),
    decode [x.1] = .ok x.2 1 := by decide +kernel
theorem test_decode_chains : ∀ x ∈ ([
    ([0b0_0_0000_0_111110_000_0000010000000001, 0b0_0_0000_0_100011_00001_00010_00000_0001], .fcvti c1 (g 1) (g 2) ⟨.s32, .f32, .rtz⟩),
    ([0b0_0_0000_0_111110_000_0000000011011100, 0b0_0_0000_0_100011_00001_00010_00000_0010], .fcvtf c1 (g 1) (g 2) ⟨.f16, .z32, .rna⟩),
    ([0b0_0_0000_0_111100_0000000000000000100, 0b0_0_0000_0_010000_00010_10001101000101], .movi c1 (g 2) 0x12345),
    ([0b0_0_0000_0_111110_000_0000000000001010, 0b0_0_0000_0_011000_00101_00110_001_000000], .ld c1 (g 5) (g 6) .z8 0 ⟨false, .norm, .acq, .die⟩),
    ([0b0_0_0000_0_111101_0000000000000_10_00_01, 0b0_1_0010_0_000001_00110_00011_00100_0000], .add ⟨false, some ⟨2, false⟩, 1⟩ ⟨1, 6⟩ (g 3) ⟨2, 4⟩),
    ([0b0_0_0000_0_111110_000_0000000010011010, 0b0_0_0000_0_011100_00100_00110_01000_1001], .amo c1 (g 4) (g 6) (g 8) .cas ⟨true, .norm, .acqrel, .die⟩),
    ([0b0_0_0000_0_111100_0000000000000000001, 0b0_0_0000_0_111110_000_0000000001010011, 0b0_0_0000_0_111101_0000000000000_00_11_10, 0b0_0_0000_0_011001_01001_01010_011_111111], .st ⟨false, none, 3⟩ ⟨2, 9⟩ ⟨3, 10⟩ .d64 127 ⟨false, .strm, .rel, .dev⟩),
    ([0b0_0_0000_0_111110_000_0111111110000001, 0b0_0_0000_0_101001_00001_00010_00011_0000], .vadd c1 (g 1) (g 2) (g 3) ⟨0x7F, true, 0, .rtz⟩),
    ([0b0_0_0000_0_111110_000_0000000000101100, 0b0_0_0000_0_101011_00001_00010_00011_0110], .vcmp c1 (g 1) (g 2) (g 3) ⟨0, false, 5, .rna⟩)] : List (List W32 × Instr)),
    decode x.1 = .ok x.2 x.1.length := by decide +kernel
theorem test_decode_vector : ∀ x ∈ ([
    (0b0_0_0000_0_101000_00001_00010_00000_0000, .vclaim c0 (g 1) (g 2)),
    (0b0_0_0000_0_101000_00001_00000_00000_0001, .vfree c0 (g 1)),
    (0b0_0_0000_0_101000_00001_00010_00000_0010, .vwait c0 (g 1) (g 2)),
    (0b0_0_0000_0_101000_00001_00010_00000_0011, .vstat c0 (g 1) (g 2)),
    (0b0_0_0000_0_101001_00001_00010_00011_0000, .vadd c0 (g 1) (g 2) (g 3) vDefault),
    (0b0_0_0000_0_101001_00001_00010_00011_0001, .vsub c0 (g 1) (g 2) (g 3) vDefault),
    (0b0_0_0000_0_101001_00001_00010_00011_0010, .vmul c0 (g 1) (g 2) (g 3) vDefault),
    (0b0_0_0000_0_101001_00001_00010_00011_0011, .vmin c0 (g 1) (g 2) (g 3) vDefault),
    (0b0_0_0000_0_101001_00001_00010_00011_0100, .vmax c0 (g 1) (g 2) (g 3) vDefault),
    (0b0_0_0000_0_101001_00001_00010_00011_0101, .vdiv c0 (g 1) (g 2) (g 3) vDefault),
    (0b0_0_0000_0_101001_00001_00010_00011_0110, .vand c0 (g 1) (g 2) (g 3) vDefault),
    (0b0_0_0000_0_101001_00001_00010_00011_0111, .vor c0 (g 1) (g 2) (g 3) vDefault),
    (0b0_0_0000_0_101001_00001_00010_00011_1000, .vxor c0 (g 1) (g 2) (g 3) vDefault),
    (0b0_0_0000_0_101001_00001_00010_00011_1001, .vshl c0 (g 1) (g 2) (g 3) vDefault),
    (0b0_0_0000_0_101001_00001_00010_00011_1010, .vshr c0 (g 1) (g 2) (g 3) vDefault),
    (0b0_0_0000_0_101001_00001_00010_00011_1011, .vsra c0 (g 1) (g 2) (g 3) vDefault),
    (0b0_0_0000_0_101001_00001_00010_00011_1100, .vabsd c0 (g 1) (g 2) (g 3) vDefault),
    (0b0_0_0000_0_101010_00001_00010_00011_0000, .vfma c0 (g 1) (g 2) (g 3) vDefault),
    (0b0_0_0000_0_101010_00001_00010_00011_0001, .vfms c0 (g 1) (g 2) (g 3) vDefault),
    (0b0_0_0000_0_101010_00001_00010_00011_0010, .vneg c0 (g 1) (g 2) (g 3) vDefault),
    (0b0_0_0000_0_101010_00001_00010_00011_0011, .vabs c0 (g 1) (g 2) (g 3) vDefault),
    (0b0_0_0000_0_101010_00001_00010_00011_0100, .vsqrt c0 (g 1) (g 2) (g 3) vDefault),
    (0b0_0_0000_0_101010_00001_00010_00011_0101, .vrsq c0 (g 1) (g 2) (g 3) vDefault),
    (0b0_0_0000_0_101010_00001_00010_00011_0110, .vrcp c0 (g 1) (g 2) (g 3) vDefault),
    (0b0_0_0000_0_101010_00001_00010_00011_0111, .vexp2 c0 (g 1) (g 2) (g 3) vDefault),
    (0b0_0_0000_0_101010_00001_00010_00011_1000, .vlog2 c0 (g 1) (g 2) (g 3) vDefault),
    (0b0_0_0000_0_101010_00001_00010_00011_1001, .vcvt c0 (g 1) (g 2) (g 3) vDefault),
    (0b0_0_0000_0_101010_00001_00010_00011_1010, .vmov c0 (g 1) (g 2) (g 3) vDefault),
    (0b0_0_0000_0_101010_00001_00010_00011_1011, .vfill c0 (g 1) (g 2) (g 3) vDefault),
    (0b0_0_0000_0_101010_00001_00010_00011_1100, .vclamp c0 (g 1) (g 2) (g 3) vDefault),
    (0b0_0_0000_0_101010_00001_00010_00011_1101, .viota c0 (g 1) (g 2) (g 3) vDefault),
    (0b0_0_0000_0_101010_00001_00010_00011_1110, .vsel c0 (g 1) (g 2) (g 3) vDefault),
    (0b0_0_0000_0_101011_00001_00010_00011_0000, .vredsum c0 (g 1) (g 2) (g 3) vDefault),
    (0b0_0_0000_0_101011_00001_00010_00011_0001, .vredmax c0 (g 1) (g 2) (g 3) vDefault),
    (0b0_0_0000_0_101011_00001_00010_00011_0010, .vredmin c0 (g 1) (g 2) (g 3) vDefault),
    (0b0_0_0000_0_101011_00001_00010_00011_0011, .vscan c0 (g 1) (g 2) (g 3) vDefault),
    (0b0_0_0000_0_101011_00001_00010_00011_0100, .vgat c0 (g 1) (g 2) (g 3) vDefault),
    (0b0_0_0000_0_101011_00001_00010_00011_0101, .vsct c0 (g 1) (g 2) (g 3) vDefault),
    (0b0_0_0000_0_101011_00001_00010_00011_0110, .vcmp c0 (g 1) (g 2) (g 3) vDefault),
    (0b0_0_0000_0_101011_00001_00010_00011_0111, .vpack c0 (g 1) (g 2) (g 3) vDefault),
    (0b0_0_0000_0_101011_00001_00010_00011_1000, .vcnt c0 (g 1) (g 2) (g 3) vDefault),
    (0b0_0_0000_0_101100_00001_00010_00011_0000, .vfnld c0 (g 1) (g 2) (g 3) vDefault),
    (0b0_0_0000_0_101100_00001_00010_00011_0001, .vfn c0 (g 1) (g 2) (g 3) vDefault),
    (0b0_0_0000_0_101100_00001_00010_00011_0010, .vfnst c0 (g 1) (g 2) (g 3) vDefault)] : List (W32 × Instr)),
    decode [x.1] = .ok x.2 1 := by decide +kernel
theorem test_decode_copy : ∀ x ∈ ([
    (0b0_0_0000_0_110000_01001_01010_00000_0000, .cpy c0 (g 9) (g 10) .norm),
    (0b0_0_0000_0_110000_01001_01010_00000_0001, .cpyz c0 (g 9) (g 10) .norm),
    (0b0_0_0000_0_110000_01001_01010_01100_0010, .cpy2 c0 (g 9) (g 10) (g 12) .norm),
    (0b0_0_0000_0_110000_01001_01010_01100_0011, .cpyg c0 (g 9) (g 10) (g 12) .norm),
    (0b0_0_0000_0_110000_01001_00000_00000_0100, .cpyc c0 (g 9) false),
    (0b0_0_0000_0_110000_01001_11111_00000_0101, .cpyw c0 (g 9) 31 false),
    (0b0_0_0000_0_110000_01001_01010_00000_0110, .dclone c0 (g 9) (g 10)),
    (0b0_0_0000_0_110000_01001_01010_00000_0111, .dzero c0 (g 9) (g 10)),
    (0b0_0_0000_0_110000_01001_01010_00000_1000, .scrub c0 (g 9) (g 10)),
    (0b0_0_0000_0_110000_01001_01010_00000_1001, .cpyq c0 (g 9) (g 10))] : List (W32 × Instr)),
    decode [x.1] = .ok x.2 1 := by decide +kernel
theorem test_decode_task : ∀ x ∈ ([
    (0b0_0_0000_0_110001_00000_00010_00000_0000, .post c0 (g 2)),
    (0b0_0_0000_0_110001_00001_00010_00011_0001, .await c0 (g 1) (g 2) (g 3)),
    (0b0_0_0000_0_110001_00001_00010_00000_0010, .tqry c0 (g 1) (g 2)),
    (0b0_0_0000_0_110001_00001_00010_00000_0011, .fork c0 (g 1) (g 2)),
    (0b0_0_0000_0_110001_00001_00010_00011_0100, .rdv c0 (g 1) (g 2) (g 3))] : List (W32 × Instr)),
    decode [x.1] = .ok x.2 1 := by decide +kernel
theorem test_decode_block : ∀ x ∈ ([
    (0b0_0_0000_0_110010_00110_00010_00001_0000, .bar c0 (g 6) 2 1),
    (0b0_0_0000_0_110010_00000_00010_00000_0001, .arrive c0 2),
    (0b0_0_0000_0_110010_00001_00010_00011_0010, .wait c0 (g 1) (g 2) (g 3)),
    (0b0_0_0000_0_110010_00000_00000_00000_0011, .park c0)] : List (W32 × Instr)),
    decode [x.1] = .ok x.2 1 := by decide +kernel
theorem test_decode_event : ∀ x ∈ ([
    (0b0_0_0000_0_110011_00000_00010_00011_0000, .evset c0 (g 2) (g 3)),
    (0b0_0_0000_0_110011_00000_00010_00000_0001, .evret c0 (g 2)),
    (0b0_0_0000_0_110011_00001_00010_00011_0010, .evmask c0 (g 1) (g 2) (g 3))] : List (W32 × Instr)),
    decode [x.1] = .ok x.2 1 := by decide +kernel
/-! ### Witnesses: scalar instructions, encoding and steps -/

theorem witness_failed_guard : let c : Ctl := ⟨false, some ⟨3, false⟩, 0⟩; let i := Instr.add c (g 1) (g 2) (g 3)
    i.uses = some ⟨c, none, some [0, 0, 0], none, true⟩ ∧ vopOf i = none ∧ i ≠ .ill c ∧ guardPasses c (tState []) = false := by
  decide +kernel
/-- For every statement about results: a guard that passes, with and without a number, g0 and windows 0 to 2 as
destinations, and the slot of the row. -/
theorem witness_results : let s := tState [(2, 0x8)]
    guardPasses c0 s = true ∧ guardPasses ⟨true, some ⟨3, false⟩, 2⟩ s = true ∧ guardPasses ⟨false, some ⟨0, true⟩, 0⟩ s = true ∧
    (∀ w : BitVec 2, w = 0 ∨ w = 1 ∨ w = 2 → (⟨w, 31⟩ : Reg).win ≠ 3) ∧ slotOf s s.cur = some 0 ∧
    isG0 (g 0) = true ∧ isG0 (g 31) = false ∧ isG0 ⟨1, 0⟩ = false := by decide +kernel
theorem witness_window_three : guardPasses c0 (tState []) = true ∧ (⟨3, 0⟩ : Reg).win = 3 ∧ isG0 ⟨3, 0⟩ = false := by decide +kernel
theorem witness_decode_of_encode : let i := Instr.st ⟨true, some ⟨15, true⟩, 3⟩ ⟨2, 9⟩ ⟨3, 10⟩ .d64 (-4096) ⟨false, .strm, .rel, .dev⟩
    i.uses.isSome = true ∧ i.wellFormed = true := by decide +kernel
/-- add g1, g2, g3 and a fence with a prefix, placed where the next step fetches. -/
def tFetch (w : Nat) : State := State.reset.withFetchWord 64 w
theorem witness_fetch : let s := tFetch 0x0008442001E80000
    (rowWord s 0 1).toNat % 4 = 0 ∧ fetchWord s 0 0 = .inl 0x01E80000 ∧ fetchWord s 0 1 = .inl 0x00084420 ∧
    decode [] = .short ∧ decode [0x01E80000] = .short ∧ decode [0x01E80000, 0x00084420] = .ok (.add c1 (g 1) (g 2) (g 2)) 2 ∧
    (rowWord (tState [(1, 2)]) 0 1).toNat % 4 ≠ 0 := by decide +kernel
theorem witness_step : let s := tFetch 0x0008442001E80000; let u := { s with turns := [] }
    nextTurn s = (.cycle 0, u) ∧ dueEvent u 0 = none ∧ (exec' u 0).rr = 3 ∧ mayIssue u 0 0 = some 0 ∧
    fetch { u with waited := (slot u 0 0).wait } 0 = .chain (.add c1 (g 1) (g 2) (g 2)) 2 ∧
    atMarker u 0 (.add c1 (g 1) (g 2) (g 2)) = false ∧ interlocked u 0 (.add c1 (g 1) (g 2) (g 2)) = false ∧
    executorRuns u 0 = true ∧ betweenCycles ((fun x => passCycle x 0)^[1] u) 0 0 = none := by decide +kernel
theorem witness_messages : let s := State.reset; let n := fun (t : Turn) => { s with turns := [t] }
    (nextTurn (n (.deliver 0)) = (.deliver 0, s) ∧ toDeliver s 0 = some .boot ∧ StandsFor .boot .boot) ∧
    (nextTurn (n (.event .powerLoss)) = (.event .powerLoss, s) ∧ spontaneous s .powerLoss = true ∧ StandsFor .powerLoss .powerLoss) ∧
    nextTurn (n (.elapse 7)) = (.elapse 7, s) := by
  refine ⟨⟨by decide +kernel, by decide +kernel, rfl⟩, ⟨by decide +kernel, by decide +kernel, rfl⟩, by decide +kernel⟩
theorem witness_canonical : MemoryCanonical State.reset ∧ (tState []).mem.wf = true ∧ isG0 (g 0) = true ∧ isG0 (g 1) = false ∧
    (∃ t, exec (.nop c0) (tState []) = .next t) ∧ ∃ t, step (tFetch 1) = .next t := by
  refine ⟨⟨by decide, by decide⟩, by decide, by decide, by decide, ⟨_, rfl⟩, ?_⟩
  have h : (match step (tFetch 1) with | .next _ => true | _ => false) = true := by decide +kernel
  cases e : step (tFetch 1) <;> simp_all
/-! ### One step each: expected values worked out by hand from the rules named -/

/-- g1 and g2 hold these values, and g3 3; what the instruction leaves in g3. -/
def tLeaves (a b : Word) (i : Instr) : Nat := leaves i (tState [(33, a), (34, b), (35, 3)]) 3
def ones : Word := BitVec.allOnes 64
def m1 : Word := BitVec.ofInt 64 (-1)
/-- R215. -/
theorem test_alu_add_wraps : tLeaves ones 2 (.add c0 (g 3) (g 1) (g 2)) = 1 := by decide +kernel
theorem test_alu_sub_order : tLeaves 2 5 (.sub c0 (g 3) (g 1) (g 2)) = 2 ^ 64 - 3 := by decide +kernel
theorem test_alu_logic : tLeaves 12 10 (.and c0 (g 3) (g 1) (g 2)) = 8 ∧ tLeaves 12 10 (.or c0 (g 3) (g 1) (g 2)) = 14 ∧
    tLeaves 12 10 (.xor c0 (g 3) (g 1) (g 2)) = 6 ∧ tLeaves 12 10 (.andn c0 (g 3) (g 1) (g 2)) = 4 ∧
    tLeaves 12 10 (.orn c0 (g 3) (g 1) (g 2)) = 2 ^ 64 - 3 ∧ tLeaves 12 10 (.nor c0 (g 3) (g 1) (g 2)) = 2 ^ 64 - 15 := by decide +kernel
theorem test_alu_shift_amount_is_taken_modulo_64 : tLeaves 1 65 (.shl c0 (g 3) (g 1) (g 2)) = 2 ∧
    tLeaves 8 66 (.shr c0 (g 3) (g 1) (g 2)) = 2 ∧ tLeaves (BitVec.ofInt 64 (-8)) 1 (.sra c0 (g 3) (g 1) (g 2)) = 2 ^ 64 - 4 ∧
    tLeaves (BitVec.ofInt 64 (-2 ^ 63)) 1 (.rol c0 (g 3) (g 1) (g 2)) = 1 := by decide +kernel
theorem test_alu_min_is_signed_and_minz_is_not : tLeaves m1 1 (.min c0 (g 3) (g 1) (g 2)) = 2 ^ 64 - 1 ∧
    tLeaves m1 1 (.minz c0 (g 3) (g 1) (g 2)) = 1 ∧ tLeaves m1 1 (.max c0 (g 3) (g 1) (g 2)) = 1 ∧
    tLeaves m1 1 (.maxz c0 (g 3) (g 1) (g 2)) = 2 ^ 64 - 1 := by decide +kernel
/-- R216. -/
theorem test_mul_high : tLeaves m1 m1 (.mulh c0 (g 3) (g 1) (g 2)) = 0 ∧ tLeaves m1 m1 (.mulhz c0 (g 3) (g 1) (g 2)) = 2 ^ 64 - 2 ∧
    tLeaves m1 m1 (.mul c0 (g 3) (g 1) (g 2)) = 1 := by decide +kernel
theorem test_div_rounds_toward_zero : tLeaves (BitVec.ofInt 64 (-7)) 2 (.div c0 (g 3) (g 1) (g 2)) = 2 ^ 64 - 3 ∧
    tLeaves (BitVec.ofInt 64 (-7)) 2 (.rem c0 (g 3) (g 1) (g 2)) = 2 ^ 64 - 1 ∧ tLeaves 7 2 (.divz c0 (g 3) (g 1) (g 2)) = 3 ∧
    tLeaves 7 4 (.remz c0 (g 3) (g 1) (g 2)) = 3 := by decide +kernel
theorem test_div_corners : tLeaves 5 0 (.div c0 (g 3) (g 1) (g 2)) = 2 ^ 64 - 1 ∧ tLeaves 5 0 (.rem c0 (g 3) (g 1) (g 2)) = 5 ∧
    tLeaves (BitVec.ofInt 64 (-2 ^ 63)) m1 (.div c0 (g 3) (g 1) (g 2)) = 2 ^ 63 ∧
    tLeaves (BitVec.ofInt 64 (-2 ^ 63)) m1 (.rem c0 (g 3) (g 1) (g 2)) = 0 := by decide +kernel
theorem test_mul_unary : tLeaves (BitVec.ofInt 64 (-5)) 0 (.abs c0 (g 3) (g 1)) = 5 ∧ tLeaves 1 0 (.neg c0 (g 3) (g 1)) = 2 ^ 64 - 1 ∧
    tLeaves 0 0 (.clz c0 (g 3) (g 1)) = 64 ∧ tLeaves 8 0 (.ctz c0 (g 3) (g 1)) = 3 ∧ tLeaves 7 0 (.popc c0 (g 3) (g 1)) = 3 ∧
    tLeaves 1 0 (.bswap c0 (g 3) (g 1)) = 2 ^ 56 := by decide +kernel
/-- R217: position 4 and length 8 in b = 0x804. -/
theorem test_bit_fields : tLeaves 0xFF0 0x804 (.bfx c0 (g 3) (g 1) (g 2)) = 2 ^ 64 - 1 ∧ tLeaves 0xFF0 0x804 (.bfxz c0 (g 3) (g 1) (g 2)) = 255 ∧
    tLeaves 0xAB 0x804 (.bfi c0 (g 3) (g 1) (g 2)) = 0xAB3 ∧ tLeaves 128 0 (.sxb c0 (g 3) (g 1)) = 2 ^ 64 - 128 ∧
    tLeaves 0x18000 0 (.sxh c0 (g 3) (g 1)) = 2 ^ 64 - 32768 ∧ tLeaves m1 0 (.zxw c0 (g 3) (g 1)) = 2 ^ 32 - 1 := by decide +kernel
/-- R218. -/
theorem test_immediates_are_sign_extended : tLeaves 5 0 (.addi c0 (g 3) (g 1) (-6)) = 2 ^ 64 - 1 ∧ tLeaves 5 0 (.andi c0 (g 3) (g 1) (-2)) = 4 ∧
    tLeaves 0 0 (.movi c0 (g 3) (-1)) = 2 ^ 64 - 1 ∧ tLeaves 3 0 (.muli c0 (g 3) (g 1) (-2)) = 2 ^ 64 - 6 := by decide +kernel
/-- R46: a write of g0 has no effect; the PC moves past the word and QCNT counts the chain (R192). -/
theorem test_g0_keeps_zero : let t := after (.add c0 (g 0) (g 1) (g 1)) (tState [(1, 0x100), (33, 7)])
    rowWord t 0 32 = 0 ∧ rowWord t 0 1 = 0x104 ∧ rowWord t 0 2 = w64 (2 ^ 24) := by decide +kernel
/-- R220, R221: p3 is set. -/
theorem test_compare_signed_and_unsigned : let s := tState [(33, m1), (34, 1)]
    pred (after (.cmp c0 3 .lt (g 1) (g 2)) s) 3 = true ∧ pred (after (.cmp c0 3 .ltz (g 1) (g 2)) s) 3 = false ∧
    pred (after (.cmpi c0 3 .eq (g 2) 1) s) 3 = true ∧ pred (after (.pandn c0 3 0 1) s) 3 = false := by decide +kernel
/-- R223: the branch is relative to the instruction's own address; dbnz counts to 0 and falls through. -/
theorem test_branches : let s := tState [(1, 0x100), (33, 1), (34, 0x2000)]
    rowWord (after (.br c0 (-2)) s) 0 1 = 0xF8 ∧ rowWord (after (.bl c0 4) s) 0 63 = 0x104 ∧ rowWord (after (.jr c0 (g 2)) s) 0 1 = 0x2000 ∧
    rowWord (after (.jlr c0 (g 3) (g 2)) s) 0 35 = 0x104 ∧ rowWord (after (.dbnz c0 (g 1) 8) s) 0 1 = 0x104 ∧
    rowWord (after (.dbnz c0 (g 2) 8) s) 0 1 = 0x120 := by decide +kernel
/-- The scalar floating-point chapter: 1.5 + 0.25, 1/0, the root of 4, 1.5 times 2, infinity less itself; signs, and 1.5 from
f16 to f32. -/
def fm : FMod := ⟨.f32, .f32, .rne⟩
theorem test_float_sums : tLeaves 0x3FC00000 0x3E800000 (.fadd c0 (g 3) (g 1) (g 2) fm) = 0x3FE00000 ∧
    tLeaves 0x3F800000 0 (.fdiv c0 (g 3) (g 1) (g 2) fm) = 0x7F800000 ∧ tLeaves 0x40800000 0 (.fsqrt c0 (g 3) (g 1) fm) = 0x40000000 ∧
    tLeaves 0x3FC00000 0x40000000 (.fmul c0 (g 3) (g 1) (g 2) fm) = 0x40400000 ∧
    tLeaves 0x7F800000 0x7F800000 (.fsub c0 (g 3) (g 1) (g 2) fm) = 0x7FC00000 := by decide +kernel
theorem test_float_signs_and_classes : tLeaves 0x80000000 0 (.fabs c0 (g 3) (g 1) fm) = 0 ∧ tLeaves 0 0 (.fneg c0 (g 3) (g 1) fm) = 0x80000000 ∧
    tLeaves 0x3F800000 0x80000000 (.fcpys c0 (g 3) (g 1) (g 2) fm) = 0xBF800000 ∧
    tLeaves 0x3E00 0 (.fcvt c0 (g 3) (g 1) ⟨.f32, .f16, .rne⟩) = 0x3FC00000 := by decide +kernel
/-- R368: the call is past the instruction, with cause TRAP and its number. -/
theorem test_trap_takes_its_fault : let t := after (.trap c0 5) (tState [(1, 0x1000)])
    rowState t 0 = stFaulted ∧ rowWord t 0 1 = 0x1004 ∧ rowWord t 0 5 = w64 (7 * 2 ^ 56 + 5 * 2 ^ 32 + 0xD) ∧ rowWord t 0 6 = 0x1000 := by
  decide +kernel
/-- R212: a read of a special register above the row's privilege faults, and the PC stays. -/
theorem test_privileged_read_faults : let t := after (.sget c0 (g 3) 0x100) (tState [(1, 0x1000)])
    rowState t 0 = stFaulted ∧ rowWord t 0 1 = 0x1000 := by decide +kernel
/-- R206: stop and yield complete. -/
theorem test_stop_and_yield :
    (∃ t, exec (.stop c0) (tState []) = .next t) ∧ ∃ t, exec (.yield c0) (tState []) = .next t := by
  exact ⟨⟨_, rfl⟩, _, rfl⟩
/-- R181: ldl reads back what stl has stored, byte 0 lowest; the store keeps the other bytes. -/
theorem test_scratchpad_store : let s := tRegs [0x100, 0x1122334455667788]; let t := after (.stl c0 (g 2) (g 1) .w32 0 memDefault) s
    spadBytes t 0 0x100 8 = [0x88, 0x77, 0x66, 0x55, 0, 0, 0, 0] := by decide +kernel
/-- R174: a misaligned load faults with cause ALIGN, and leaves its destination. -/
theorem test_misaligned_load : let t := after (.ld c0 (g 3) (g 1) .d64 0 memDefault) (tRegs [0x20000004, 0, 9])
    rowState t 0 = stFaulted ∧ rowWord t 0 35 = 9 ∧ rowWord t 0 6 = 0x20000004 := by decide +kernel
/-- A step from a state with add g1, g2, g2 (after a prefix) at the PC of the row of executor 0. -/
theorem test_step_runs_the_placed_word :
    (match step (tFetch 0x0008442001E80000) with | .next t => rowWord t 0 1 | _ => 0) =
      rowWord (tFetch 0x0008442001E80000) 0 1 + 8 := by decide +kernel
/-! ### Witnesses: system and memory instructions -/

/-- A launch of four rows from row 0 on. -/
def tLaunch (id : Nat) : Launch :=
  ⟨id, 0, 4, 2, 2, 1, 0x4000, 0x77, 64, 4, 0, false, false, [], [], [], none, .queue 0, [], []⟩
/-- A state with registers of partition 0 changed. -/
def tP (s : State) (p : Part) : State := { s with parts := [(0, p)] }
theorem witness_faults_and_reports :
    let s := tP (tRegs []) { tPart with fq := ⟨0x10001, 7, 8, 0⟩ }
    let h := fun (s : State) => { s with hub := { s.hub with hfq := ⟨0x10001, 0, 1, 0⟩ } }
    let isOpen := fun (s : State) ring => bits (ringRegs s ring).base 0 4 ≠ 0 ∧
      ((ringRegs s ring).tail - (ringRegs s ring).head).toNat < 2 ^ bits (ringRegs s ring).base 0 4
    guardPasses c0 s = true ∧ isCtl (curExec (tExec 512 [])) = true ∧ (cluster s (clusterOf (curExec s))).brkcap = false ∧
    isCtl (curExec s) = false ∧ (cluster { s with clusters := [(0, { cluster s 0 with brkcap := true })] } 0).brkcap = true ∧
    curExec s ≠ 544 ∧ priv s = 0 ∧ isOpen s (Ring.fault 0) ∧ isOpen (h (tExec 0 [(2, w64 (2 ^ 16))])) Ring.hfault ∧
    priv (tExec 0 [(2, w64 (2 ^ 16))]) = 1 ∧ curExec (tExec 544 []) = 544 := by decide +kernel
theorem witness_calls_and_returns : let s := tExec 0 [(2, w64 (2 ^ 17)), (33, 0x1000), (34, 2), (35, 1), (36, 0)]
    guardPasses c0 s = true ∧ 1 ≤ priv s ∧ ∀ r ∈ [g 2, g 3, g 4], (readReg s r).toNat ≤ priv s ∧ (readReg s r).toNat ≠ 3 := by
  decide +kernel
theorem witness_special_registers : let s := tExec 0 [(2, w64 (2 ^ 17)), (3, w64 (2 ^ 24)), (33, 1), (34, 255), (35, 256)]
    let u := { s with launches := [(0, [tLaunch 1])] }
    guardPasses c0 s = true ∧ (g 1).win ≠ 3 ∧ priv s = 2 ∧ priv (tExec 0 [(2, w64 (2 ^ 16))]) = 1 ∧ curExec s ≠ 544 ∧
    (curLaunch u).isSome = true ∧ 1 ≤ (readReg s (g 2)).toNat ∧ (readReg s (g 2)).toNat ≤ 255 ∧ ¬ (readReg s (g 3)).toNat ≤ 255 := by
  decide +kernel
theorem witness_privilege : let s := tRegs [1, 2, 0x1000000]; let u := tExec 0 [(2, w64 (2 ^ 16)), (33, 0x1000000), (34, 2)]
    guardPasses c0 s = true ∧ priv s = 0 ∧ MemReady s ∧ isCtl (curExec s) = false ∧ (g 4).win ≠ 3 ∧ 0x100 ≤ (0x100 : BitVec 10).toNat ∧
    priv u = 1 ∧ 0x200 ≤ (0x200 : BitVec 10).toNat ∧ priv u < (readReg u (g 2)).toNat ∧
    (readReg u (g 1)).toNat / 2 ^ 24 % 64 ≠ 0 ∧ (readReg u (g 1)).toNat / 2 ^ 24 % 64 ≠ curPart u := by
  unfold MemReady; decide +kernel
/-- A slot word: state 1, size, tag 0, destination, class and kind. -/
def tSlotWord (size dest cls kind : Nat) : Word := w64 (2 ^ 58 + size * 2 ^ 50 + dest * 2 ^ 11 + cls * 2 ^ 8 + kind)
theorem witness_tlbinv : let s := tExec 0 [(2, w64 (2 ^ 16)), (34, 1)]
    let u := tExec 0 [(2, w64 (2 ^ 16)), (17, tSlotWord 8 33 0 1)]
    guardPasses c0 s = true ∧ 1 ≤ priv s ∧ releaseMet s .dev (releaseSnap s) = true ∧
    (clustersOf (part s (curPart s))).contains 0 = true ∧ pMem ∈ mapGet s.tlbs 0 [] ∧
    1 ≤ priv u ∧ releaseMet u .dev (releaseSnap u) = false ∧ slotOf u u.cur = some 0 := by decide +kernel
theorem witness_rowctl : let s := tExec 0 [(2, w64 (2 ^ 16)), (33, 1), (34, w64 (2 ^ 56 + 0x4000)), (35, 9), (36, 0x40000000)]
    guardPasses c0 s = true ∧ 1 ≤ priv s ∧ (g 5).win ≠ 3 ∧ (readReg s (g 1)).toNat / 2 ^ 24 % 64 = 0 ∧
    isLive s ⟨0, 9⟩ = false ∧ 2 ^ 30 ≤ (readReg s (g 4)).toNat ∧ isLive s ⟨0, 1⟩ = true ∧ (⟨0, 1⟩ : RowId) ≠ curRow s ∧
    locate s ⟨0, 1⟩ = .bank 1 ∧ 1 ≠ s.cur ∧ rowState s 1 = stIdle ∧ inTransfer s (.bank 1) = false ∧
    accessesOpen s ⟨0, 1⟩ = false ∧ (readReg s (g 2)).toNat / 2 ^ 56 = 1 ∧ rowId s 1 = ⟨0, 1⟩ ∧
    bit (part s 0).trcCtl 4 = false ∧ locate s (curRow s) = .bank s.cur := by decide +kernel
theorem witness_mbox : let s := tExec 0 [(2, w64 (2 ^ 16)), (33, 1), (34, 2)]; let m : MboxMsg := ⟨⟨0, 0⟩, 1, 0, 0, 0⟩
    let n := fun k => { s with execs := [(0, { exec' s 0 with outbox := List.replicate k m })] }
    guardPasses c0 s = true ∧ ((readReg s (g 1)).toNat = 1 ∧ 1 ≤ priv s) ∧ (exec' (n 3) 0).outbox.length < 4 ∧
    4 ≤ (exec' (n 4) 0).outbox.length ∧ ¬ ((readReg s (g 2)).toNat = 0 ∨ ((readReg s (g 2)).toNat = 1 ∧ 1 ≤ priv s)) ∧
    priv (tRegs [1]) = 0 := by decide +kernel
/-- Registers for the memory tests: g1 to g8 memory, own row, row 1, registers, sealed, open, bare and foreign pages; g9 a
scratchpad; g10 not canonical; g11 a scratchpad of another die; g12 odd; g13 a command; g14 past the scratchpad. -/
def tAddrs : List Word := [0x20000000, 0x30000000, 0x30000400, 0x40000000, 0x50000000, 0x60000000, 0x70000000, 0x78000000, 0x10,
  w64 (2 ^ 63), 0x4000000, 0x20000001, w64 (2 ^ 56), 0x800000]
def tM : State := tRegs tAddrs
/-- The same at a privilege, with further row words. -/
def tMp (p : Nat) (ws : List (Nat × Word)) : State :=
  tExec 0 ((2, w64 (p * 2 ^ 16)) :: (tAddrs.zipIdx.map fun x => (33 + x.2, x.1)) ++ ws)
def tLine : Nat := lineOf 0x20000000
def tMod (o : Order) (sc : Scope) : MemMod := ⟨false, .norm, o, sc⟩

theorem memReady_tM : MemReady tM := by unfold MemReady; decide +kernel
theorem releaseReady_plain (s : State) (sc : Scope) : ReleaseReady s (releaseOf (tMod .plain sc)) := by intro _ h; cases h
theorem releaseReady_tM : ReleaseReady tM (releaseOf (tMod .rel .dev)) := by intro _ h; cases h; decide +kernel

theorem witness_memory_faults : let la := fun n => memAddr tM (g n) 8 0; let u := tMp 1 []
    guardPasses c0 tM = true ∧ (⟨3, 1⟩ : Reg).win = 3 ∧ (g 1).win ≠ 3 ∧ (la 12).toNat % 8 ≠ 0 ∧ (la 10).toNat % 8 = 0 ∧ curExec tM ≠ 544 ∧
    canonical (la 10) = false ∧
    (canonical (la 11) = true ∧ inWindow tM 0 (la 11) = true ∧ reachable tM 0 0 (windowCluster tM 0 (la 11)) = false) ∧
    (canonical (la 7) = true ∧ inWindow tM (curPart tM) (la 7) = false ∧ lookup tM (la 7) = .leaf pBare ∧
      leafPlace pBare (bits (la 7) 0 57) = .mem 0x70000000 ∧ priv tM = 0 ∧ leafU pBare.leaf = false) ∧
    (priv u = 1 ∧ leafR pBare.leaf = false ∧ leafW pBare.leaf = false ∧ leafClass pBare.leaf < 2 ∧ lookup u (la 7) = .leaf pBare) ∧
    (lookup u (la 8) = .leaf pForeign ∧ leafPlace pForeign (bits (la 8) 0 57) = .mem 0x78000000 ∧ leafR pForeign.leaf = true ∧
      keyValid u (part u (curPart u)) (leafKey pForeign.leaf) = false) ∧
    (lookup u (la 5) = .leaf pSealed ∧ leafPlace pSealed (bits (la 5) 0 57) = .mem 0x50000000 ∧ leafW pSealed.leaf = true ∧
      leafClass pSealed.leaf = clsSealed) ∧
    isCtl (curExec (tExec 512 [])) = true ∧ isCtl (curExec tM) = false ∧ 2 ^ 23 ≤ (la 14).toNat ∧ (la 14).toNat % 8 = 0 := by
  decide +kernel
theorem witness_loads : let si := fun s n => siteOf s ⟨true, false, 2, true⟩ (memAddr s (g n) 8 0)
    let full := tMp 0 ([17, 19, 21, 23, 25, 27, 29, 31].map fun w => (w, tSlotWord 8 33 0 1))
    let hit := { tM with caches := [(lineKey 0 tLine, { CLine.init with v := BitVec.allOnes 32 })] }
    let r := fun s a pa x => requestOf s (.read .fill) 0 a pa 8 false x .norm []
    guardPasses c0 tM = true ∧ (g 1).win ≠ 3 ∧ (memAddr tM (g 1) 8 0).toNat % 8 = 0 ∧ freeSlot tM (.bank 0) = some 0 ∧
    (si tM 2 = .at_ (.row ⟨0, 0⟩ 0) pRow ∧ WordReady tM 0) ∧
    (si full 1 = .at_ (.mem 0x20000000) pMem ∧ LeaseReady full 0x20000000 ∧ earlierAccess full 0x20000000 8 = none ∧
      freeSlot full (.bank 0) = none ∧ slotOf full 0 = some 0) ∧
    (si tM 3 = .at_ (.row ⟨0, 1⟩ 0) pRow ∧ (⟨0, 1⟩ : RowId) ≠ curRow tM) ∧
    (si tM 9 = .at_ (.spad 0 16) ⟨0, 0, 4, 0, 0⟩ ∧ routerRefuses tM 0 = false) ∧
    si (tMp 1 []) 4 = .at_ (.reg 0x300000000000) pReg ∧
    (hits hit (r hit 0x20000000 0x20000000 pMem) = true ∧ leafClass pMem.leaf ≠ clsOpen ∧ LeaseReady hit 0x20000000) ∧
    (si tM 6 = .at_ (.mem 0x60000000) pOpen ∧ leafClass pOpen.leaf = clsOpen) ∧
    (hits tM (r tM 0x20000000 0x20000000 pMem) = false ∧ missRoom tM 0 tLine = true ∧ missOf tM 0 tLine = none ∧
      earlierAccess tM 0x20000000 8 = none ∧ leafClass pMem.leaf ≠ clsSealed) := by
  unfold WordReady LeaseReady; decide +kernel
theorem witness_stores : let si := fun s n off => siteOf s ⟨false, true, 3, true⟩ (memAddr s (g n) 8 off)
    let busy := tMp 0 [(17, tSlotWord 8 33 0 1)]
    let r := fun s n => requestOf s .reg 0 0x20000000 0x20000000 n false pMem .norm (leBytes n 5)
    guardPasses c0 tM = true ∧ (memAddr tM (g 1) 8 0).toNat % 8 = 0 ∧ freeSlot tM (.bank 0) = some 0 ∧
    (releaseOf (tMod .rel .dev) = some .dev ∧ releaseMet busy .dev (releaseSnap busy) = false ∧ slotOf busy 0 = some 0) ∧
    (si tM 2 8 = .at_ (.row (curRow tM) 64) pRow ∧ 64 / 8 = 8 ∧ si tM 2 33 = .at_ (.row (curRow tM) 264) pRow ∧ 264 / 8 = 33 ∧
      si tM 2 127 = .at_ (.row (curRow tM) 1016) pRow ∧ 1016 / 8 = 127) ∧
    (si tM 2 32 = .at_ (.row (curRow tM) 256) pRow ∧ 256 / 8 = 32) ∧ (si tM 2 10 = .at_ (.row (curRow tM) 80) pRow ∧ 80 / 8 = 10) ∧
    (si tM 2 1 = .at_ (.row (curRow tM) 8) pRow ∧ si tM 2 31 = .at_ (.row (curRow tM) 248) pRow) ∧
    (si tM 2 0 = .at_ (.row (curRow tM) 0) pRow ∧ priv tM = 0 ∧ 0x10 ≤ (w64 (16 * 2 ^ 56)).toNat / 2 ^ 56 ∧
      (w64 (20 * 2 ^ 56)).toNat / 2 ^ 56 ≤ 0x14 ∧ (readReg tM (g 13)).toNat / 2 ^ 56 < 0x10) := by decide +kernel
theorem witness_stores_own : WordReady tM 8 ∧ WordReady tM 33 ∧ WordReady tM 127 ∧
    ∀ j, j < 8 → slotState tM (.bank tM.cur) j ≠ 0 → slotKind tM (.bank tM.cur) j ≠ 0x0A := by
  refine ⟨?_, ?_, ?_, by decide +kernel⟩ <;> unfold WordReady <;> decide +kernel
theorem witness_stores_elsewhere : let si := fun s n off => siteOf s ⟨false, true, 3, true⟩ (memAddr s (g n) 8 off)
    let r := fun s n => requestOf s .reg 0 0x20000000 0x20000000 n false pMem .norm (leBytes n 5)
    (si tM 3 1 = .at_ (.row ⟨0, 1⟩ 8) pRow ∧ (⟨0, 1⟩ : RowId) ≠ curRow tM ∧ outsideStoreFault tM 8 8 5 = some cRowword ∧
      outsideStoreFault tM 8 256 5 = none) ∧
    (si tM 9 0 = .at_ (.spad 0 16) ⟨0, 0, 4, 0, 0⟩ ∧ routerRefuses tM 0 = false) ∧
    si (tMp 1 []) 4 0 = .at_ (.reg 0x300000000000) pReg ∧
    (si tM 1 0 = .at_ (.mem 0x20000000) pMem ∧ 0x20000000 % 8 = 0 ∧ LeaseReady tM 0x20000000 ∧
      earlierAccess tM 0x20000000 8 = none ∧ writesThrough (r tM 8).agent = false ∧ isRemote tM 0x20000000 = false ∧
      needsFill tM (r tM 8) = false ∧ needsFill tM (r tM 1) = true ∧ missRoom tM 0 tLine = true ∧
      watching tM 0 tLine = false ∧ writesThrough (agentOf 512) = true) ∧
    wordMask 0x20000000 8 &&& ~~~(cline tM 0 tLine).rg ≠ 0 := by
  unfold LeaseReady; decide +kernel
theorem witness_scratchpads : guardPasses c0 tM = true ∧ isCtl (curExec tM) = false ∧ (g 1).win ≠ 3 ∧
    (memAddr tM (g 9) 8 0).toNat % 8 = 0 ∧ (memAddr tM (g 9) 8 0).toNat < 2 ^ 23 ∧ (memAddr tM (g 14) 8 (-1)).toNat < 2 ^ 23 := by
  decide +kernel
theorem witness_atomics : let si := fun s n => siteOf s ⟨true, true, 4, false⟩ (readReg s (g n)); let m := tMod .plain .clu
    let hit := { tM with caches := [(lineKey 0 tLine, { CLine.init with v := BitVec.allOnes 32 })] }
    let own := tMp 0 [(34, 0x30000100 + 8), (35, 0x30000400 + 256)]
    let r := fun s => requestOf s (.atomic .add 1 0) 0 0x20000000 0x20000000 8 false pMem .norm []
    amoSize m = 8 ∧ (readReg tM (g 1)).toNat % 8 = 0 ∧
    (si tM 2 = .at_ (.row ⟨0, 0⟩ 0) pRow ∧ 0 / 8 < 32) ∧ (lookup (tMp 1 []) 0x40000000 = .leaf pReg ∧ leafPlace pReg 0x40000000 = .reg 0x300000000000 ∧ leafR pReg.leaf = true ∧
      leafW pReg.leaf = true ∧ leafClass pReg.leaf = clsOrdinary ∧ canonical 0x40000000 = true ∧
      inWindow (tMp 1 []) 0 0x40000000 = false) ∧
    (si own 2 = .at_ (.row (curRow own) 264) pRow ∧ 32 ≤ 264 / 8 ∧ WordReady own 33) ∧
    (si own 3 = .at_ (.row ⟨0, 1⟩ 256) pRow ∧ (⟨0, 1⟩ : RowId) ≠ curRow own ∧ freeSlot own (.bank 0) = some 0) ∧
    (si tM 9 = .at_ (.spad 0 16) ⟨0, 0, 4, 0, 0⟩ ∧ routerRefuses tM 0 = false) ∧
    (si tM 1 = .at_ (.mem 0x20000000) pMem ∧ LeaseReady tM 0x20000000 ∧ atHome tM 0x20000000 (tMod .plain .dev) = true ∧
      atHome tM 0x20000000 m = false ∧ hits hit (r hit) = true ∧ hits tM (r tM) = false ∧ missRoom tM 0 tLine = true ∧
      watching hit 0 tLine = false ∧ earlierAccess tM 0x20000000 8 = none ∧ earlierAccess tM 0x20000000 8 = none) := by
  unfold WordReady LeaseReady; decide +kernel
theorem witness_fences : let busy := tMp 0 [(17, tSlotWord 8 33 0 1)]; let si := fun n => siteOf tM ⟨true, false, 2, false⟩ (readReg tM (g n))
    (releaseOf (tMod .acq .die) = none ∧ acquireOf (tMod .acq .die) = some .die ∧ loadOut tM = none ∧ acquirePending tM = false) ∧
    acquireOf (tMod .rel .sys) = none ∧
    (releaseOf (tMod .rel .dev) = some .dev ∧ releaseMet busy .dev (releaseSnap busy) = false ∧ slotOf busy busy.cur = some 0) ∧
    (releaseOf (tMod .acq .dev) = none ∧ loadOut busy = some 0) ∧
    si 10 = .stop (faultOf 4 0 2) (w64 (2 ^ 63)) ∧ si 1 = .at_ (.mem 0x20000000) pMem ∧ si 9 = .at_ (.spad 0 16) ⟨0, 0, 4, 0, 0⟩ ∧
    leafClass pMem.leaf < 2 ∧ leafClass pMem.leaf ≠ clsOpen ∧ (cline tM (agentOf (curExec tM)) tLine).v ≠ BitVec.allOnes 32 ∧
    missRoom tM (agentOf (curExec tM)) tLine = true := by decide +kernel
/-! ### Witnesses: closing, waiting, copying and vector instructions -/

/-- A claim of pool 0 for row 0 with these commands, and the claim word that names it. -/
def tClaim (cmds : List VCmd) : Claim := ⟨2, ⟨0, 0⟩, 64, 64, 3, false, cmds, [⟨4, 0x1000, 1, 2, 0⟩], 4, none, none⟩
def tD11 : Word := w64 (3 * 2 ^ 30 + 64 * 2 ^ 21 + 64 * 2 ^ 12 + 2 * 2 ^ 9 + 1)
def tCmd (n : Nat) : VCmd := ⟨n, .vadd c0 (g 0) (g 1) (g 2) vDefault, 0, 0, 0⟩
def tClaimed (cmds : List VCmd) (ws : List (Nat × Word)) : State :=
  { tMp 0 ((11, tD11) :: ws) with pools := [(0, { Pool.init with claims := [tClaim cmds] })] }

theorem witness_closings : let busy := tExec 0 [(2, w64 (2 ^ 18)), (17, tSlotWord 8 33 0 1)]; let v := tClaimed [tCmd 5] []
    let l := { tExec 0 [(3, w64 (2 ^ 24))] with launches := [(0, [{ tLaunch 1 with finished := [1, 2, 3] }])] }
    let asked := { tM with clusters := [(0, { cluster tM 0 with pre := some ⟨0, 1, [], false, false⟩ })] }
    (bits (rowWord busy 0 2) 18 6 ≠ 0 ∧ slotOf busy busy.cur = some 0) ∧
    (bits (rowWord v 0 2) 18 6 = 0 ∧ ownClaim v 0 = some (0, tClaim [tCmd 5]) ∧ (tClaim [tCmd 5]).cmds ≠ [] ∧ slotOf v 0 = some 0) ∧
    (bits (rowWord l 0 2) 18 6 = 0 ∧ ownClaim l 0 = none ∧ launchAt l (.bank 0) = some { tLaunch 1 with finished := [1, 2, 3] } ∧
      [1, 2, 3].length + 1 = (tLaunch 1).rows ∧ [1, 2, 3].contains ((curRow l).lrow - 0) = false) ∧
    preempted tM 0 = false ∧ (preempted asked 0 = true ∧ locate asked (curRow asked) = .bank 0 ∧ rowState asked 0 = stOpen) ∧
    bit (rowWord (tExec 0 [(15, w64 (2 ^ 40))]) 0 15) 40 = true ∧ bit (rowWord tM 0 15) 40 = false := by decide +kernel
theorem witness_watches : let si := fun s n => siteOf s ⟨true, false, 7, true⟩ (readReg s (g n)); let u := tMp 1 []
    let far := { tM with leaving := [0x2000] }
    guardPasses c0 tM = true ∧ (⟨3, 2⟩ : Reg).win = 3 ∧ (g 1).win ≠ 3 ∧ (readReg tM (g 12)).toNat % 8 ≠ 0 ∧
    ((readReg tM (g 9)).toNat % 8 = 0 ∧ curExec tM ≠ 544 ∧ canonical (readReg tM (g 9)) = true ∧ inWindow tM 0 (readReg tM (g 9)) = true) ∧
    inWindow tM 0 (readReg tM (g 3)) = false ∧ (si tM 3 = .at_ (.row ⟨0, 1⟩ 0) pRow ∧ (⟨0, 1⟩ : RowId) ≠ curRow tM) ∧
    si u 4 = .at_ (.reg 0x300000000000) pReg ∧ (si far 1 = .at_ (.mem 0x20000000) pMem ∧ isRemote far 0x20000000 = true) ∧
    freeSlot tM (.bank 0) = some 0 ∧
    (si tM 2 = .at_ (.row (curRow tM) 0) pRow ∧ ¬ BitVec.ofNat 64 (imageBytes tM (.bank 0) 0 8) ≠ w64 (2 * 2 ^ 48) ∧
      (readReg tM (g 1)).toNat ≤ imageBytes tM (.bank 0) 0 8) ∧
    (si tM 1 = .at_ (.mem 0x20000000) pMem ∧ isRemote tM 0x20000000 = false) := by decide +kernel
theorem witness_barriers : let m := fun ws => tExec 0 ((4, w64 (3 * 2 ^ 60)) :: ws)
    let a := m [(16, 1), (17, tSlotWord 0 0 3 9)]
    let q := m [(33, w64 (2 ^ 32 + 0xFFFF)), (34, w64 (2 ^ 24 - 1)), (35, w64 (4 * 2 ^ 32)), (36, 1), (37, w64 (2 ^ 35))]
    memberOf tM 0 1 = false ∧ (⟨3, 1⟩ : Reg).win = 3 ∧ memberOf (m []) 0 1 = true ∧
    (arrivalSlot a 1 = some 0 ∧ slotOf a 0 = some 0 ∧ memberOf a 0 1 = true ∧ ownClaim a 0 = none) ∧
    (arrivalSlot (m []) 1 = none ∧ releaseMet (m []) (domainScope (m []) 1 (.bank 0)) (releaseSnap (m [])) = true ∧
      freeSlot (m []) (.bank 0) = some 0 ∧ ownClaim (m []) 0 = none) ∧
    (let w := (readReg q (g 1)).toNat; let n := (readReg q (g 2)).toNat
      w / 2 ^ 35 = 0 ∧ w / 2 ^ 16 % 2 ^ 16 = 0 ∧ w / 2 ^ 32 % 8 = 1 ∧ 1 ≤ n ∧ n < 2 ^ 24 ∧ memberOf q 0 1 = true ∧ freeSlot q (.bank 0) = some 0) ∧
    ((readReg q (g 3)).toNat / 2 ^ 32 % 8 = 4 ∧ memberOf q 0 4 = false) ∧ ¬ (readReg q (g 5)).toNat / 2 ^ 35 = 0 := by
  decide +kernel
theorem witness_events : let si := fun s n => siteOf s ⟨false, true, 10, true⟩ (readReg s (g n)); let h := tMp 0 [(9, w64 (2 ^ 18 + 2 ^ 17 + 5))]
    guardPasses c0 tM = true ∧ (rowWord tM 0 9).getLsbD 17 = false ∧ (rowWord h 0 9).getLsbD 17 = true ∧ isG0 (g 0) = true ∧
    (readReg tM (g 12)).toNat % 1024 ≠ 0 ∧ (readReg tM (g 2)).toNat % 1024 = 0 ∧ inWindow tM 0 (readReg tM (g 2)) = false ∧
    si tM 2 = .at_ (.row (curRow tM) 0) pRow ∧ (si tM 3 = .at_ (.row ⟨0, 1⟩ 0) pRow ∧ freeSlot tM (.bank 0) = some 0) ∧
    si tM 1 = .at_ (.mem 0x20000000) pMem := by decide +kernel
theorem witness_casks : let b := fun n => readReg tM (g n) &&& ~~~0xFFFF#64
    let far := { tM with leaving := [0x6000] }
    (guardPasses c0 tM = true ∧ (g 1).win ≠ 3 ∧ inWindow tM (curPart tM) (readReg tM (g 6)) = false) ∧
    (lookup tM (b 1) = .leaf pMem ∧ leafClass pMem.leaf < 2) ∧
    (lookup far (b 6) = .leaf pOpen ∧ 2 ≤ leafClass pOpen.leaf ∧ isRemote far (leafFrame pOpen.leaf) = true) ∧
    (lookup tM (b 5) = .leaf pSealed ∧ leafClass pSealed.leaf = clsSealed ∧ isRemote tM (leafFrame pSealed.leaf) = false ∧
      permFault (priv tM) .write pSealed.leaf = none) ∧
    isCtl (curExec (tExec 512 [])) = true ∧ freeSlot tM (.bank 0) = some 0 ∧
    (caskStop tM pOpen .write true none = none ∧ caskStop tM pOpen .write true (some 0x40) = none ∧
      caskStop tM pOpen .write false none = none ∧ caskStop tM pOpen .read false none = none) := by decide +kernel
/-- A copy of 256 bytes within the memory page, and an empty one. -/
def tCopy (len : Nat) : State := tExec 0 [(33, 0x20000000), (34, 0x20001000), (35, w64 len)]
theorem witness_copies : let s := tCopy 256; let a := copyArgs s .cpy (g 1) none .norm
    let k : Asker := ⟨curPart s, dieOf (curExec s), priv s, some (unitOf (curExec s)), 6⟩
    let u := ((a.dst, dstSpan a) :: srcSpans a).foldl (fun s (v, n) => checkExtent s k v n) s
    let dst := chunks u k true a.dst (dstSpan a)
    let srcs := (srcSpans a).map fun (v, n) => chunks u k false v n
    let all := dst ++ srcs.flatten
    guardPasses c0 s = true ∧ isCtl (curExec s) = false ∧ (g 9).win ≠ 3 ∧ emptyCopy a = false ∧
    emptyCopy (copyArgs (tCopy 0) .cpy (g 1) none .norm) = true ∧ queueRoom s 0 0 32 = true ∧ storesWait s = false ∧
    (all.find? (fun x => match x with | .moving => true | .lease _ _ => true | _ => false) = none) ∧
    firstStop (fun n _ => n) (all ++ overlapStop a k ++ shapeStop a k ++ scrubStop u a k (runsOf srcs.flatten)) = none ∧
    freeSlot s (.bank 0) ≠ none ∧ 1 ≤ priv (tMp 1 []) := by decide +kernel
theorem witness_batches : let s := tExec 0 [(12, w64 (31 * 2 ^ 8))]; let full := tExec 0 [(12, w64 (32 * 2 ^ 8))]
    let w := { tExec 0 [(12, w64 (3 * 2 ^ 8))] with waited := .instruction (.cpyw 3) }
    let bad := { w with batches := [⟨⟨0, 0⟩, 0, true, false, 0, 0, 2, 0x100, false, true⟩] }
    bits (rowWord s 0 12) 8 8 < 32 ∧ (32 ≤ bits (rowWord full 0 12) 8 8 ∧ slotOf full 0 = some 0) ∧
    (hadWaited w (.cpyw 3) = true ∧ bits (rowWord w 0 12) 8 8 ≤ 3 ∧ badBatch w = none) ∧
    (hadWaited s (.cpyw 31) = false ∧ hadWaited tM (.cpyw 1) = false ∧ badBatch (closeBatch tM false) = none ∧
      bits (rowWord (closeBatch tM false) 0 12) 8 8 ≤ 1) ∧
    (hadWaited bad (.cpyw 3) = true ∧ (badBatch bad).isSome = true) ∧
    (hadWaited { full with waited := .instruction (.cpyw 31) } (.cpyw 31) = true ∧ 31 < bits (rowWord full 0 12) 8 8) := by
  decide +kernel
theorem witness_posts : let a := readReg tM (g 1)
    (readReg tM (g 12)).toNat % 64 ≠ 0 ∧ a.toNat % 64 = 0 ∧ recordSite tM a = .at_ (.mem 0x20000000) pMem ∧ LeaseReady tM 0x20000000 ∧
    releaseMet tM .dev (releaseSnap tM) = true ∧ freeSlot tM (.bank 0) = some 0 ∧
    recordSite tM (a + 64) = .at_ (.mem 0x20000040) pMem ∧ LeaseReady tM 0x20000040 := by unfold LeaseReady; decide +kernel
theorem witness_claims : let s := tMp 0 [(36, w64 (3 * 2 ^ 16 + 64)), (37, w64 257)]; let v := tClaimed [] [(36, w64 (3 * 2 ^ 16 + 256))]
    let w := tClaimed [tCmd 5] [(36, 5), (37, w64 (4 * 2 ^ 32)), (38, w64 (4 * 2 ^ 32 + 1)), (39, w64 (4 * 2 ^ 32 + 3))]
    let full := { s with pools := [(0, { Pool.init with claims := [{ tClaim [] with lanes := 256 }] })] }
    isCtl (curExec (tExec 512 [])) = true ∧ badRequest (readReg s (g 5)) 0 = true ∧
    (isCtl (curExec s) = false ∧ badRequest (readReg s (g 4)) (rowWord s 0 11) = false ∧ d11Valid (rowWord s 0 11) = false ∧
      canGrant (pool s (poolOf (curExec s))) = true ∧ locate s (curRow s) = .bank s.cur) ∧
    (canGrant (pool full 0) = false ∧ slotOf full 0 = some 0 ∧ (pool full 0).waiting.any (fun w => w.1 == curRow full) = false) ∧
    (badRequest (readReg v (g 4)) (rowWord v 0 11) = false ∧ ownClaim v 0 = some (0, tClaim []) ∧ (tClaim []).row = curRow v ∧
      locate v (curRow v) = .bank v.cur ∧ (tClaim []).cmds = []) ∧
    (ownClaim w 0 = some (0, tClaim [tCmd 5]) ∧ (tClaim [tCmd 5]).cmds ≠ [] ∧ slotOf w 0 = some 0 ∧
      waitForMet w 0 (.vwait ((readReg w (g 4)).toNat % 2 ^ 32)) = false ∧ waitForMet w 0 (.vwait 4) = true) ∧
    ((readReg w (g 5)).toNat % 4 = 0 ∧ (readReg w (g 6)).toNat % 4 = 1 ∧ (readReg w (g 7)).toNat % 4 = 3 ∧
      ((tClaim []).ring.find? fun e => e.seq == (readReg w (g 6)).toNat / 2 ^ 32) = some ⟨4, 0x1000, 1, 2, 0⟩) := by decide +kernel
theorem witness_vector_commands : let v := tClaimed [] []; let w := tClaimed ((List.range 32).map tCmd) []
    d11Valid (rowWord tM 0 11) = false ∧ d11Valid (rowWord v 0 11) = true ∧ ownClaim v 0 = some (0, tClaim []) ∧
    (tClaim []).cmds.length < 32 ∧ (tClaim []).lanes ≠ 0 ∧ (ownClaim w 0).isSome = true ∧
    32 ≤ (tClaim ((List.range 32).map tCmd)).cmds.length ∧ slotOf w 0 = some 0 := by decide +kernel
/-! ### Witnesses: steps at rows -/

/-- Partition 0 with a cellar of 64 images at 64 KiB and its row table at 128 KiB. -/
def tCellPart : Part := { tPart with prow := w64 (2 ^ 44 + 2 ^ 16) }
/-- Row 1 of partition 0 in bank row 1, in the state and with the words given; e is its row-table entry. -/
def tRow (e : Word) (st : Nat) (ws : List (Nat × Word)) : State :=
  { State.reset with
    agenda := []
    mem := memStore [] (131072 + 8) (leBytes 8 e.toNat)
    parts := [(0, tCellPart)]
    rows := [(1, tImage ((0, w64 (st * 2 ^ 48)) :: (3, 1) :: ws))] }
def tBank (st : Nat) (ws : List (Nat × Word)) : State := tRow (bankEntry 1) st ws
/-- The same with the row in a slot of executor 0. -/
def tIn (x : Slot) (s : State) : State := { s with execs := [(0, { Exec.init with slots := #v[x, Slot.init, Slot.init, Slot.init] })] }
def r1 : RowId := ⟨0, 1⟩

theorem witness_row_commands : let f := tBank stFrozen [(15, w64 (2 ^ 44))]; let b := tBank stBlocked [(15, w64 (4 * 2 ^ 41))]
    (∀ st, st ≤ 8 → rowState (tBank st []) 1 = st) ∧ locate f r1 = .bank 1 ∧ rowId f 1 = r1 ∧ r1.part ≠ 63 ∧
    bits (rowWord b 1 15) 41 3 = 4 ∧ (busySlots f (.bank 1) = [] ∧ (exec' f (execOf 1)).hold = [] ∧ bits (rowWord f 1 15) 44 4 = stReady) ∧
    (ownClaim f 1 = none ∧ bit (part f 0).trcCtl 4 = false ∧ freeCell f 0 = some 0 ∧ f.mem.wf = true) ∧
    ((clustersOf (part f 0)).contains (15 / 16) = true ∧ bankTakes f 0 15 = true ∧ freeRow f 15 = some (2048 * 15)) := by
  decide +kernel
/-- The row lies in cellar image 0 with a PC, FROZEN or READY there. -/
def tCell (d15 : Word) : State :=
  let s := { tRow (cellEntry 0 1) 0 [] with rows := [] }
  let s := { s with mem := memStore s.mem 65536 (imgBytes (tImage [(0, w64 (stParked * 2 ^ 48)), (1, 0x4000), (3, 1), (15, d15)])) }
  { s with parts := [(0, { tCellPart with parked := [r1] })] }
theorem witness_cellar : let s := tCell (w64 (2 ^ 44)); let f := tCell (w64 (2 ^ 44 + 2 ^ 33))
    (locate s r1 = .cellar 65536 ∧ execOf (entryRow (rowEntry s r1)) = 0 ∧ bringsIn s 0 0 = true ∧ freeRow s 0 = some 0 ∧
      bringable s 0 = some r1) ∧
    (let im := loadImage s 65536
     bit (imgWord im 15) 33 = false ∧ bits (imgWord im 15) 44 4 = stReady ∧ ∀ i, i < 8 → bits (imgWord im (17 + 2 * i)) 58 6 = 0) ∧
    bit (imgWord (loadImage f 65536) 15) 33 = true ∧ (exec' s 0).hold = [] := by decide +kernel
theorem witness_bank_steps : let q := fun (s : State) => { s with execs := mapSet s.execs 0 { exec' s 0 with queue := [5] } }
    let full := q (tIn { tSlot .opened 1 with ended := true } (tBank stOpen [(2, w64 (64 * 2 ^ 24))]))
    let limit := tIn (tSlot .opened 1) { tBank stOpen [] with parts := [(0, { tCellPart with pslots := 0 })] }
    let mark := q (tIn { tSlot .opened 1 with wait := .marker } (tBank stOpen [(2, w64 (2 ^ 18))]))
    let wait := q (tIn { tSlot .opened 1 with wait := .instruction .stop } (tBank stOpen [(2, w64 (2 ^ 18))]))
    let x := fun (st : SlotSt) (o : Bool) => let s := tIn (tSlot st 1) (tBank stOpen [])
      { s with execs := [(0, { exec' s 0 with xfer := [(o, 0)] })] }
    let head := fun (sl : Slot) => let s := tIn sl (tBank stReady []); { s with execs := [(0, { exec' s 0 with queue := [1] })] }
    (execOf 1 = 0 ∧ slotOf full 1 = some 0 ∧ (slot full 0 0).row = 1) ∧
    quantumDue full 0 0 = true ∧ limitDue limit 0 0 = true ∧ markerDue mark 0 0 = true ∧ waitingDue wait 0 0 = true ∧
    quantumDue limit 0 0 = false ∧ limitDue full 0 0 = false ∧
    (transferDone (x .closing false) 0 0 false = true ∧ 1 ≠ noRow) ∧ transferDone (x .opening true) 0 0 true = true ∧
    openingDue (head Slot.init) 0 = some (1, 0) ∧ placeDue (head (tSlot .retained 1)) 0 0 = true ∧
    (locate (tBank stWait []) r1 = .bank 1 ∧ rowState (tBank stWait []) 1 = stWait ∧ switchMet (tBank stWait []) 1 = true) ∧
    switchMet (tBank stWait [(2, w64 (2 ^ 18))]) 1 = false := by decide +kernel
theorem witness_row_arrivals : let s := tBank stFaulted []; let a : RowAccess := ⟨r1, 1016, .amo 8 .add 1 0, 1, ⟨0, 0⟩, 0, 7, 3, 0⟩
    let known := { s with done := [(264, [⟨⟨0, 0⟩, 3, 1, 5, 0⟩])] }
    inTransfer s (locate s r1) = false ∧ a.off < 1024 ∧ locate s ⟨0, 9⟩ = .none ∧ locate s r1 = .bank 1 ∧ busySlots s (.bank 1) = [] ∧
    (a.priv ≠ 0 ∧ stFaulted ≤ rowState s 1 ∧ isPw 8 = true ∧ isPw 3 = false ∧ rowState (tBank stIdle []) 1 = stIdle ∧
      1 ≤ rowState (tBank stReady []) 1 ∧ rowState (tBank stBlocked []) 1 ≤ 4) ∧
    (33 ≤ a.off / 8 ∧ doneFind s 264 a.row a.tag = none ∧ doneFind known 264 a.row a.tag = some ⟨⟨0, 0⟩, 3, 1, 5, 0⟩) := by decide +kernel
theorem witness_replies : let w := (31, w64 (2 ^ 58 + 8 * 2 ^ 50 + 9 * 2 ^ 18 + 40 * 2 ^ 11 + 1)); let p : Reply := ⟨r1, 0, 7, 9, 5, 0, 0, 0⟩
    let s := tBank stOpen [w]; let f := tBank stFrozen [w]
    let full := { f with execs := [(0, { Exec.init with hold := List.replicate 64 p })] }
    locate s p.row = .bank 1 ∧ rowId s 1 = p.row ∧ p.slot < 8 ∧ slotHas s (.bank 1) 7 8 = false ∧
    (slotHas s (.bank 1) 7 9 = true ∧ slotState s (.bank 1) 7 = 1 ∧ execOf 1 = p.exec ∧ p.refuse = 0 ∧ rowState s 1 = stOpen ∧
      slotKind s (.bank 1) 7 ≠ 2 ∧ 32 < slotDest s (.bank 1) 7 ∧ p.poison = 0 ∧ ({ p with poison := 1 } : Reply).poison ≠ 0) ∧
    (rowState f 1 = stFrozen ∧ slotClass f (.bank 1) 7 = 0 ∧ (exec' f (execOf 1)).hold.length < 64) ∧
    64 ≤ (exec' full (execOf 1)).hold.length := by decide +kernel
theorem witness_boundaries : let s := fun ws => tIn (tSlot .opened 1) (tBank stOpen ws)
    let late := { s [] with late := [(r1, 33, 0x100)] }; let v := s [(7, w64 (2 ^ 23))]
    let l := tIn { tSlot .opened 1 with wait := .lease 3 8 2 0 } (tBank stOpen []); let e := s [(10, w64 (2 ^ 48 + 2 ^ 16))]
    let b := { s [(1, 0x40)] with clusters := [(0, { cluster (s []) 0 with bps := [0x41] })] }
    openRow late r1 = some 1 ∧ lateDue late r1 = some (33, 0x100) ∧ (vlateDue v r1).isSome = true ∧
    (slotOf l 1 = some 0 ∧ (slot l 0 0).wait = .lease 3 8 2 0 ∧ openRow l r1 = some 1) ∧ eventDue e 1 = true ∧ eventDue late 1 = false ∧
    breakDue b 0 0 = true ∧ (cluster b 0).halted = false := by decide +kernel
theorem witness_wait_replies : let w := fun (adr : Word) => [(30, adr), (31, w64 (2 ^ 58 + 9 * 2 ^ 18 + 40 * 2 ^ 11 + 10))]
    let b := fun (blk d14 : Nat) adr => { tBank stBlocked ((15, w64 (blk * 2 ^ 41)) :: (14, w64 d14) :: w adr) with
      ops := [⟨r1, 7, 0x44, true, none, none, none, none, none, blk == 1, none⟩] }
    (∀ s ∈ [b 2 0x101 0x100, b 5 0x102 0x100, b 1 0 1, b 3 0 9, b 0 0 1], locate s r1 = .bank 1 ∧ rowId s 1 = r1 ∧
      slotHas s (.bank 1) 7 9 = true ∧ slotHas s (.bank 1) 7 8 = false ∧ 32 < slotDest s (.bank 1) 7 ∧ (opRec s r1 7).isSome = true ∧
      rowState s 1 = stBlocked) ∧
    (bits (rowWord (b 2 0x101 0x100) 1 14) 0 2 = 1 ∧ bits (rowWord (b 2 0x101 0x100) 1 15) 41 3 = 2) ∧
    (bits (rowWord (b 5 0x102 0x100) 1 14) 0 2 = 2 ∧ bits (rowWord (b 5 0x102 0x100) 1 15) 41 3 = 5) ∧
    ((slotAddr (b 1 0 1) (.bank 1) 7).toNat < 8 ∧ bits (rowWord (b 1 0 1) 1 15) 41 3 = 1 ∧
      (opRec (b 1 0 1) r1 7).map (·.bar) = some true ∧ (opRec (b 0 0 1) r1 7).map (·.bar) = some false) ∧
    (8 ≤ (slotAddr (b 3 0 9) (.bank 1) 7).toNat ∧ bits (rowWord (b 3 0 9) 1 15) 41 3 = 3) := by decide +kernel
theorem witness_units : let a := fun (n : Nat) => (⟨⟨0, n⟩, 1, 8, 2, 1, 0⟩ : Arrival)
    let s := { State.reset with launches := [(0, [tLaunch 1])] }
    let three := { s with domains := [⟨0, 1, 2, 0, 0, [a 1, a 2, a 3], []⟩] }
    let seen := { s with domains := [⟨0, 1, 2, 0, 0, [], [(⟨0, 0⟩, 8, 2)]⟩] }
    let m : Meeting := ⟨0, 1, 2, 0, 6, 2, [a 1]⟩; let met := { s with meetings := [m] }
    participants s 0 1 2 0 = 4 ∧ ((domUnit s 0 1 2 0).arrived ++ [a 0]).length < 4 ∧ (domUnit s 0 1 2 0).seen = [] ∧
    (4 ≤ ((domUnit three 0 1 2 0).arrived ++ [a 0]).length ∧ (a 0).level ≠ 4) ∧
    ((domUnit seen 0 1 2 0).seen.any (fun x => x.1 == (a 0).row && x.2.1 == (a 0).tag) = true ∧ (domUnit seen 0 1 2 0).arrived.length < 4) ∧
    (s.meetings.find? (fun m => sameMeeting m (a 0) 6) = none ∧ (met.meetings.find? fun m => sameMeeting m (a 0) 6) = some m ∧
      (m.arrived.any fun b => b.row == (a 0).row && b.tag == (a 0).tag) = false ∧ m.count ≠ 3 ∧ m.arrived.length + 1 = 2 ∧
      ({ m with count := 3 } : Meeting).arrived.length + 1 ≠ 3) ∧
    256 ≤ (({ s with meetings := List.replicate 256 m } : State).meetings.filter fun x => x.part == 0 && x.level == 2).length := by
  decide +kernel
theorem witness_cache_messages : let s := tBank stBlocked [(15, w64 (2 * 2 ^ 41))]
    let req := requestOf tM (.read .fill) 0 0x20000000 0x20000000 8 false pMem .norm []
    let m : Miss := ⟨0, tLine, false, false, [(false, req)], false, 0, .norm⟩
    let miss := { tM with misses := [m] }; let watch := { s with clusters := [(0, { cluster s 0 with watches := [(r1, 2, 0x1000)] })] }
    let p : PendReg := ⟨4, 0, tLine, 3, 0, r1, 9⟩
    let st := { tBank stOpen [(31, w64 (2 ^ 58 + 9 * 2 ^ 18 + 2 ^ 8 + 2))] with regs := [p], stores := [⟨r1, 0, 7, 9, 0, [4], false⟩] }
    (miss.misses.find? (fun m => m.agent == 0 && m.line == tLine) = some m ∧ m.cleared = false ∧ m.ops = [(false, req)] ∧
      req.op = .read .fill) ∧
    ((cluster tM 0).watches = [] ∧ (cluster watch 0).watches = [(r1, 2, 0x1000)] ∧ lineOf 0x1000 = 32 ∧
      wordMask 0x1000 8 &&& 4 = 0 ∧ wordMask 0x1000 8 &&& 2 ≠ 0 ∧ locate watch r1 = .bank 1 ∧ rowState watch 1 = stBlocked ∧
      bits (rowWord watch 1 15) 41 3 = 2) ∧
    st.regs.find? (fun p => p.id == 4 && p.agent == 0) = some p ∧
    (locate st r1 = .bank 1 ∧ rowId st 1 = r1 ∧ slotHas st (.bank 1) 7 9 = true ∧ slotState st (.bank 1) 7 = 1 ∧
      slotClass st (.bank 1) 7 = 1 ∧ slotKind st (.bank 1) 7 = 2 ∧ rowState st 1 ≠ stWait ∧ opRec st r1 7 = none) := by decide +kernel
/-! ### Witnesses: home slices, leases, casks -/

/-- A request of cluster 0 for row 0 at 0x20000000. -/
def tReq (op : HomeOp) (n : Nat) (data : List Byte) : Req := requestOf tM op 0 0x20000000 0x20000000 n false pMem .norm data
/-- The same state with other contents at the home of that line. -/
def tHome (h : HLine) : State := { tM with homes := [(tLine, h)] }
def tOwned (a : Nat) (m : BitVec 32) : HLine := { HLine.init with reg := { RegEntry.init with ownA := BitVec.ofNat 8 a, maskA := m } }
/-- A line that an engine holds. -/
def tEng (a : Nat) : HLine := { HLine.init with reg := { RegEntry.init with eng := true, ownA := BitVec.ofNat 8 a } }
theorem canonical_tM : MemoryCanonical tM := ⟨by decide +kernel, by decide +kernel⟩
theorem homeReady_tM (op : HomeOp) (h : op = .read .fill ∨ op = .read .word ∨ op = .reg ∨ op = .atomic .add 1 0 ∨ op = .write ∨
    op = .append 0 true) : HomeReady tM (tReq op 8 (leBytes 8 5)) := by
  rcases h with rfl | rfl | rfl | rfl | rfl | rfl <;> constructor <;> decide +kernel
theorem witness_home_requests : let q := fun op => tReq op 8 (leBytes 8 5)
    let p := { tM with blocks := [(0x20000000 / 64, { Block.init with key := 3 })] }
    let tailAt := { tM with parts := [(0, { tPart with pcask := w64 (0x100000 / 65536 * 2 ^ 16) })] }
    owners (hline tM tLine).reg = [] ∧ OneBlock (q .write).pa 8 ∧ CohQuiet tM 0 ∧ watching tM 0 tLine = false ∧
    deliveryRange tM 0x20000000 8 0 ≠ 2 ∧ deliveryRange p 0x20000000 8 0 = 2 ∧ (leBytes 8 5).length < 64 ∧
    (tailAddr (part tailAt 0) (65536 * 0x2000) / 64 ≠ 0x20000000 / 64 ∧ (q (.append 0 true)).op = .append 0 true) := by
  unfold OneBlock CohQuiet; decide +kernel
theorem lineQuiet_tM : LineQuiet tM tLine := by constructor <;> decide +kernel
theorem witness_home_forwards : let s := tHome (tOwned 5 3); let r := tReq (.read .fill) 8 []
    HomeReady s r ∧ owners (hline s tLine).reg = [5] ∧ 5 ≠ r.agent ∧ ownMask (hline s tLine).reg 5 ≠ 0 ∧
    ownMask (hline s tLine).reg 5 &&& (tReq .reg 8 []).mask ≠ 0 := by
  refine ⟨by constructor <;> decide +kernel, by decide +kernel⟩
theorem witness_home_answers : let h := { HLine.init with reg := { RegEntry.init with eng := true, ownA := 0x20 } }
    let s := tHome h; let r := { tReq .engWrite 8 (leBytes 8 5) with agent := 0x20 }
    let txn := fun (inval : Bool) (op : HomeOp) (l : List Nat) => tHome { tOwned 5 3 with txn := some ⟨tReq op 8 [], inval, l, [], []⟩ }
    (staleInc s r.agent r.inc = false ∧ (hline s tLine).reg.eng = true ∧ (hline s tLine).reg.ownA.toNat = r.agent ∧
      (hline s tLine).keep = KeepEntry.init ∧ (hline s tLine).waiting = [] ∧ OneBlock r.pa r.data.length) ∧
    (hline tM tLine).txn = none ∧ incOf tM 5 ≠ 1 ∧
    (hline (txn false (.read .fill) [5, 6]) tLine).txn.map (fun x => x.awaiting.filter (· != 5)) = some [6] ∧
    ((hline (txn false (.read .fill) [5]) tLine).txn.map (fun x => (x.awaiting.filter (· != 5), x.inval, x.req.op, lineOf x.req.pa))
      = some ([], false, .read .fill, tLine)) ∧
    ((hline (txn true .reg [5]) tLine).txn.map (fun x => (x.awaiting.filter (· != 5), x.inval, x.req.op)) = some ([], true, .reg)) ∧
    ((hline tM tLine).keep.co = false ∧ ((hline tM tLine).txn.any fun x => x.inval) = false) := by
  unfold OneBlock; decide +kernel
/-- A page table of which the walkers of die 0 keep the pointer of level 3: its entry maps 0x20000000 with this leaf. -/
def tWalk (leaf : Word) : State :=
  { tM with mem := memStore [] 0x50010000 (leBytes 8 leaf.toNat), walkers := [(0, [⟨0, 3, 0x20000000 / 2 ^ 21, 0x50010000⟩])],
            parts := [(0, { tPart with ptRoot := w64 (0x50000000 + 1) })] }
def tLeaf : Word := w64 (3 * 2 ^ 62 + 15 * 2 ^ 50 + 0x60000000)
theorem witness_reissue : walk (tWalk tLeaf) 0 0 0x20000000 = .leaf ⟨0, 0x20000000, 4, tLeaf, 0x50010000⟩ ∧
    leafPlace ⟨0, 0x20000000, 4, tLeaf, 0x50010000⟩ 0x20000000 = .mem 0x60000000 ∧ (tReq (.read .fill) 8 []).op ≠ .reg ∧
    (tReq (.read .fill) 8 []).part = 0 ∧ dieOf (tReq (.read .fill) 8 []).exec = 0 ∧ (tReq (.read .fill) 8 []).va = 0x20000000 ∧
    (∀ l, walk tM 0 0 0x20000000 ≠ .leaf l) := by
  refine ⟨by decide +kernel, by decide +kernel, by decide +kernel, by decide +kernel, by decide +kernel, by decide +kernel, ?_⟩
  have h : walk tM 0 0 0x20000000 = .fault cPageNp 0 0 := by decide +kernel
  intro l; rw [h]; intro h; cases h
theorem witness_tier_and_dead : let s := { tM with tierMiss := [(3, 2, [tReq (.read .fill) 8 []])] }
    let busy := tHome { HLine.init with txn := some ⟨tReq .reg 8 [], true, [5], [], []⟩ }
    let c : CopyCmd := ⟨7, 0, .cpyz, ⟨0, 0⟩, 0, none, [], [], [], 64, 1, 0, 0, 1, .norm, 0, 0, 0, 0, 0, none⟩
    let d := { tM with clusters := [(0, { cluster tM 0 with cmds := [c] })] }
    s.tierMiss.find? (fun m => m.1 == 3) = some (3, 2, [tReq (.read .fill) 8 []]) ∧
    (mapGet tM.postponed 4 0 ≤ 8 ∧ 8 ≤ mapGet ({ tM with postponed := [(4, 8)] } : State).postponed 4 0) ∧
    ((busy.homes.any fun x => x.2.txn.any fun y => y.awaiting.contains 5) = true ∧ 5 ∉ busy.deadSeen) ∧
    (tHome (tOwned 5 3)).homes.map (fun x => x.1) = [tLine] ∧
    (d.homes = [] ∧ (cluster d 0).cmds = [c] ∧ c.node = none ∧ (batchAt d c.row c.batch).err = 0) := by decide +kernel
theorem witness_dead_lines : ∀ line, (hline tM line).txn = none ∧ (hline tM line).waiting = [] := fun _ => ⟨rfl, rfl⟩
theorem witness_leases : let l : Lease := ⟨9, 0xC1, true, 0, 100, 0, false⟩; let s := { State.reset with leases := [l], time := 104 }
    (∀ page ∈ [9], State.reset.leaving.contains page = false ∧ ({ s with leaving := [9] } : State).leaving.contains page = true) ∧
    s.leases.find? (fun l => l.isHome && l.page == 9 && l.holder == 0xC1) = some l ∧ l.expiry + guardBand l s.hub.trans = 104 ∧
    l.expiry + guardBand l s.hub.trans < ({ s with time := 105 } : State).time ∧ ({ l with revoking := true } : Lease).revoking = true ∧
    pageQuiet s 9 = true ∧ pageQuiet (tHome { HLine.init with txn := some ⟨tReq .reg 8 [], true, [5], [], []⟩ }) (tLine / 512) = false := by
  decide +kernel
theorem witness_lease_quiet : ∀ line, ((txnOf State.reset line).any fun x => x.awaiting.contains 0xC1) = false := fun _ => rfl
/-- A state whose tail area lies at 1 MiB and holds this entry for the page 0x6000. -/
def tTail (e : Word) : State :=
  let p := { tPart with pcask := w64 (16 * 2 ^ 16) }
  { tM with parts := [(0, p)], mem := memStore [] (tailAddr p (65536 * 0x6000)) (leBytes 8 e.toNat) }
def tEntry (gen st pend tl : Nat) : Word := w64 (gen * 2 ^ 48 + st * 2 ^ 42 + pend * 2 ^ 34 + tl)
def tAppend (n : Nat) : Req := requestOf tM (.append 0 true) 0 0x60000000 0x60000000 n false pOpen .norm (leBytes n 5)
theorem witness_racks : let x : RackEnt := ⟨0, 0, 0x6000, 0, 4, false, 1⟩; let s := fun st => { tTail (tEntry 4 st 0 8) with racks := [x] }
    MemoryCanonical (s 2) ∧ (s 2).racks.find? (fun x => x.die == 0 && x.page == 0x6000) = some x ∧
    (teState (tailEntry (s 2) 0 0x6000) = 2 ∧ teGen (tailEntry (s 2) 0 0x6000) = 4) ∧ teState (tailEntry (s 3) 0 0x6000) ≠ 2 ∧
    (List.replicate 32 (0 : W32)).length = 32 ∧
    (s 2).racks.find? (fun x => x.die == 0 && x.page == 0x6000 && x.gen == 4 && !x.valid) = some x ∧
    (s 2).racks.find? (fun x => x.die == 0 && x.page == 0x6000 && x.gen == 5 && !x.valid) = none := by
  refine ⟨⟨by decide +kernel, by decide +kernel⟩, by decide +kernel⟩
theorem witness_cask_pages : let s := fun st pend tl => tTail (tEntry 4 st pend tl); let e := fun st pend tl => tailEntry (s st pend tl) 0 0x6000
    let r := tAppend 8; let o := fun tl => (tl + 7) / 8 * 8
    let done := { s 1 0 0 with done := [(homeOf (part (s 1 0 0) 0) r.pa, [⟨r.row, r.tag, 2, 5, 0⟩])] }
    let sealAt := fun id => { s 2 0 8 with tails := [⟨0x6000, false, { r with op := .reg, id := id }⟩] }
    MemoryCanonical (s 1 0 0) ∧ incOf (s 1 0 0) r.agent = r.inc ∧ (tailDone done r).isSome = true ∧ tailDone (s 1 0 0) r = none ∧
    (∀ st, st < 4 → teState (e st 0 0) = st) ∧ 0 < r.data.length ∧ teTail (e 1 0 65529) = 65529 ∧ 65536 < o 65529 + 8 ∧
    ¬ 65536 < o 65528 + 8 ∧ tePend (e 1 255 65528) = 255 ∧ tePend (e 1 254 65528) < 255 ∧
    ((sealAt 0).tails = [⟨0x6000, false, { r with op := .reg, id := 0 }⟩] ∧ tePend (tailEntry (sealAt 0) 0 0x6000) = 0 ∧ 0x50010000 % 8 = 0 ∧
      (hline (sealAt 8) (lineOf 0x50010000)).keep = KeepEntry.init) ∧
    (caskPlace (part (s 0 0 0) 0) 0x6000 = true ∧ caskPlace (part (s 0 0 0) 0) 16 = false) ∧
    (let w := { s 3 0 8 with sweeps := [⟨0, 0x6000⟩] }; let l := { w with leases := [⟨0x6000, 0xC1, true, 0, 9, 0, false⟩] }
      w.sweeps.find? (fun x => x.page == 0x6000) = some ⟨0, 0x6000⟩ ∧ tePend (tailEntry w 0 0x6000) = 0 ∧
      (w.leases.any fun l => l.isHome && l.page == 0x6000) = false ∧ (l.leases.any fun l => l.isHome && l.page == 0x6000) = true) := by
  refine ⟨⟨by decide +kernel, by decide +kernel⟩, by decide +kernel⟩
/-! ### Witnesses: engines, pools, hubs, launches, rings -/

theorem witness_copy_steps : let run := fun (p : Place) n => (⟨0, p, n, 0⟩ : Run)
    let c : CopyCmd := ⟨7, 0, .cpy, ⟨0, 0⟩, 0, none, [run (.spad 0 0x80) 128], [run (.spad 0 0x100) 128], [], 128, 1, 0, 0, 1, .norm, 0, 0, 0, 0, 0, none⟩
    let z := { c with kind := .cpyz, dst := [run (.mem 0x20000000) 64], src := [], len := 64 }
    let s := fun (c : CopyCmd) => { tM with clusters := [(0, { cluster tM 0 with cmds := [c] })] }
    let e := { s z with homes := [(tLine, { HLine.init with reg := { RegEntry.init with eng := true, ownA := 0x20 } })] }
    let h := { s c with clusters := [(0, { cluster (s c) 0 with halted := true })] }
    (cluster (s c) 0).cmds.find? (fun c => c.id == 7) = some c ∧ copyReady h 0 c = false ∧ copyReady (s c) 0 c = true ∧
    c.node = none ∧ c.pos = 0 ∧ c.len ≠ 0 ∧ 0x80 % 128 + c.len ≤ 128 ∧ routerRefuses (s c) 0 = false ∧
    (copyReady e 0 z = true ∧ z.len = 64 ∧ holdsEng e 0 7 (lineOf 0x20000000) = true ∧ (hline e tLine).keep = KeepEntry.init ∧
      (hline e tLine).waiting = []) := by decide +kernel
theorem witness_batch_reports : let b : Batch := ⟨r1, 4, true, true, 0, 0, 0, 0, false, false⟩
    let s := { tBank stOpen [(12, w64 (5 * 2 ^ 16 + 2 ^ 8)), (16, 4), (17, tSlotWord 0 0 0 4)] with batches := [b] }
    locate s r1 = .bank 1 ∧ rowId s 1 = r1 ∧ inTransfer s (.bank 1) = false ∧ rowState s 1 ≠ stWait ∧
    (∀ i ∈ busySlots s (.bank 1), slotKind s (.bank 1) i ≠ 10) ∧ batchOf s r1 ((5 + 2 ^ 16 - 1) % 2 ^ 16) = some b ∧
    bits (rowWord s 1 12) 8 8 = 1 ∧ batchSlot s (.bank 1) 4 = some 0 ∧ ({ b with left := 3 } : Batch).left ≠ 0 := by decide +kernel
theorem witness_pools : let run : VRun := ⟨1, none, 0, ⟨0, [], [], 0⟩, ⟨0, [], [], 0⟩, none, [], 0⟩
    let cmd := tCmd 5; let x := { tClaim [cmd] with parked := some run }
    let s := fun (x : Claim) => { tClaimed [] [] with pools := [(0, { Pool.init with claims := [x], waiting := [(⟨0, 0⟩, 64, 3)] })] }
    let fn := fun (i : Instr) => { tClaim [{ cmd with op := i }] with parked := none }
    claimIn (s x) 0 2 = some x ∧ x.cmds.head? = some cmd ∧ vopOf cmd.op = some (.add, c0, vDefault) ∧ locate (s x) x.row = .bank 0 ∧
    d11Pool (rowWord (s x) 0 11) = poolOf (execOf 0) ∧ rowState (s x) 0 ≠ stWait ∧ (tClaim [cmd]).parked = none ∧
    (vopOf (Instr.vfnld c0 (g 0) (g 1) (g 2) vDefault) = some (.fnld, c0, vDefault) ∧
      (⟨.fnld, none, vDefault, 3, 1, 0, none⟩ : VCtx).tableCheck = none ∧
      (⟨.fnst, none, vDefault, 3, 0, 0, some (List.replicate 64 0)⟩ : VCtx).tableCheck = none) ∧
    claimIn (s (fn (.vfnst c0 (g 0) (g 1) (g 2) vDefault))) 0 2 = some (fn (.vfnst c0 (g 0) (g 1) (g 2) vDefault)) ∧
    (pool (s x) 0).waiting.find? (fun w => w.1 == ⟨0, 0⟩) = some (⟨0, 0⟩, 64, 3) ∧ canGrant (pool (s x) 0) = true ∧
    canGrant (pool (s { x with lanes := 256 }) 0) = false := by decide +kernel
/-- A node of a kind with predecessors, recorded at 0x20000000, and the words of its record. -/
def tRecord (kind preds : Nat) : List Word := w64 (preds * 2 ^ 48 + kind) :: List.replicate 15 0
def tNode (kind preds state : Nat) (unit : Option Nat) : Node :=
  ⟨0, 0, 0x20000000, ⟨0, 0⟩, 0, tRecord kind preds, [⟨0x20000000, .mem 0x20000000, 128, 0⟩], preds, state, 0, false, 0, 0, 0, true,
    [], [], [], [], unit, 0, [], NodeWork.init, none⟩
def tPost : PostReq := ⟨⟨0, 0⟩, 0, 1, 9, 0, 0x20000000, [⟨0x20000000, .mem 0x20000000, 128, 0⟩]⟩
def tHub (h : Hub) : State := { tM with hubs := [(0, h)] }
theorem witness_posts_received : let s := { tM with mem := memStore tM.mem 0x20000000 ((tRecord 8 1).flatMap fun w => leBytes 8 w.toNat) }
    (part { s with parts := [(0, { tPart with rst := true })] } 0).rst = true ∧ (part s 0).rst = false ∧
    (hubDone (tHub { Hub.init with done := [⟨⟨0, 0⟩, 9, 3, 0, 0⟩] }) tPost).isSome = true ∧ hubDone s tPost = none ∧ hubFull s 0 = false ∧
    (hub s 0).nodes.length < 4096 ∧ dirFind s 0 0x20000000 = none ∧ (hub s (dirDie s 0 0x20000000)).dir.length < 4096 ∧
    findNode s 0 0 0x20000000 = none := by decide +kernel
theorem witness_releases : let n := fun left x => { tNode 8 2 1 none with left := left, xlated := x }
    let s := fun (y : Node) => tHub { Hub.init with nodes := [y], dir := [⟨0, 0x20000000, some 0, 0, none⟩] }
    dirFind (s (n 2 false)) 0 0x20000000 = some (0, ⟨0, 0x20000000, some 0, 0, none⟩) ∧
    dirFind (tHub { Hub.init with dir := [⟨0, 0x20000000, none, 2, none⟩] }) 0 0x20000000 = some (0, ⟨0, 0x20000000, none, 2, none⟩) ∧
    findNode (s (n 2 false)) 0 0 0x20000000 = some (n 2 false) ∧ (n 2 false).die = 0 ∧ (n 2 false).state = 1 ∧
    (nKind (n 1 false) = 8 ∧ nCtr (n 1 false) = 0 ∧ (hub (s (n 1 false)) 0).nodes = [n 1 false]) ∧
    (let r := { tNode 8 0 2 none with since := 5 }; let u := { tHub { Hub.init with nodes := [r] } with time := 32773 }
      findNode u 0 0 0x20000000 = some r ∧ r.state = 2 ∧ r.since + 32768 ≤ u.time ∧ ({ u with time := 32772 } : State).time < r.since + 32768) := by
  decide +kernel
theorem statusApart_tM (n : Node) (h : n.recPa = [⟨0x20000000, .mem 0x20000000, 128, 0⟩] ∧ n.poster = ⟨0, 0⟩ ∧ n.part = 0) (x : Hub) :
    StatusApart (tHub x) n := by
  have h0 : lineOf 0x20000008 ≠ lineOf (entryAddr (tHub x) ⟨0, 0⟩) := (by decide +kernel : lineOf 0x20000008 ≠ lineOf (entryAddr tM ⟨0, 0⟩))
  have h1 : LineQuiet (tHub x) (lineOf 0x20000008) := ⟨rfl, rfl, rfl, rfl, rfl⟩
  have h2 : inTier (part (tHub x) 0) 0x20000008 = false := (by decide +kernel : inTier (part tM 0) 0x20000008 = false)
  have h3 : tierTakes (tHub x) (128 * lineOf 0x20000008) = true := (by decide +kernel : tierTakes tM (128 * lineOf 0x20000008) = true)
  obtain ⟨h, h', hp'⟩ := h
  have e : (sliceRuns [(⟨0x20000000, .mem 0x20000000, 128, 0⟩ : Run)] 8 8).head? = some ⟨0x20000008, .mem 0x20000008, 8, 0⟩ := by
    decide +kernel
  intro r pa hr hp
  rw [h, e] at hr
  cases hr; cases hp
  rw [h', hp']
  exact ⟨by decide, ⟨h1, h3⟩, h0, rfl, h2⟩
theorem witness_dispatches : let s := fun (y : Node) => tHub { Hub.init with nodes := [y] }
    let ok := fun (y : Node) => firstReady (s y) 0 = some y ∧ y.die = 0 ∧
      findNode (s y) 0 y.part y.record = some y ∧ y.xlated = true ∧ rowBusy (s y) y = false
    let tile' := tNode 1 0 2 none; let row := { tNode 7 0 2 none with runsA := [⟨0x30000400, .row ⟨0, 1⟩ 0, 8, 0⟩] }
    let busy := { tile' with runsA := [⟨0x20000000, .mem 0x20000000, 128, 0⟩] }
    let eng := { s busy with homes := [(tLine, { HLine.init with reg := { RegEntry.init with eng := true, ownA := 0x20 } })] }
    let parked := { tile' with state := 3, unit := some 2 }; let p := { s parked with tiles := [(2, { Tile.init with parked := some (0, 0x20000000) })] }
    ok (tNode 8 0 2 none) ∧ (ok row ∧ row.runsA.head?.map (fun r : Run => r.place) = some (.row ⟨0, 1⟩ 0)) ∧
    (ok (tNode 6 0 2 none) ∧ chooseUnit (s (tNode 6 0 2 none)) (tNode 6 0 2 none) = some 0) ∧
    (ok tile' ∧ tileKind (nKind tile') = true ∧ chooseUnit (s tile') tile' = some 0 ∧ extentsFree (s tile') tile' = true) ∧
    extentsFree eng busy = false ∧ firstReady tM 0 = none ∧
    (parkedNode p 2 = some parked ∧ tileKind (nKind parked) = true ∧ parked.unit = some 2 ∧ extentsFree p parked = true) := by decide +kernel
theorem witness_nodes_end : let n := tNode 1 0 3 (some 2); let s := { tHub { Hub.init with nodes := [n] } with parts := [(0, { tPart with fq := ⟨1, 0, 1, 0⟩ })] }
    let ctr := { n with ctr := [⟨0x10, .spad 0 16, 8, 0⟩] }
    MemoryCanonical s ∧ findNode s 0 0 0x20000000 = some n ∧ n.die = 0 ∧ locate s n.poster = .bank 0 ∧ inTransfer s (.bank 0) = false ∧
    n.state = 3 ∧ n.ctr = [] ∧ findNode (tHub { Hub.init with nodes := [ctr] }) 0 0 0x20000000 = some ctr ∧
    tileKind (nKind n) = true ∧ ringLogn (ringRegs s (.fault 0)) ≠ 0 ∧ ringRoom (ringRegs s (.fault 0)) = true := by
  refine ⟨⟨by decide +kernel, by decide +kernel⟩, by decide +kernel⟩
theorem witness_kept_nodes : let n := { tNode 8 0 5 none with cause := 7 }
    let s := { tHub { Hub.init with kept := [n] } with mem := memStore tM.mem 0x20000000 ((tRecord 8 1).flatMap fun w => leBytes 8 w.toNat) }
    keptNode tM 0 0x20000000 = none ∧ keptNode s 0 0x20000000 = some n ∧ (hub s n.die).nodes = [] := by decide +kernel
/-- A launch descriptor of some rows with a QUANT, in the head entry of launch queue 0 of partition 0 or in a fork. -/
def tDesc (rows quant : Nat) : List Word := [0x10000, 4, w64 rows, w64 (2 ^ 32 + 2 ^ 16 + 1), 0x40, w64 (quant * 2 ^ 8 + 4 * 2 ^ 16), 0, 0]
def tQueue (rows quant : Nat) : State :=
  { tM with mem := memStore tM.mem 0x20000000 ((tDesc rows quant).flatMap fun w => leBytes 8 w.toNat),
            parts := [(0, { tPart with lq := [⟨0x20000001, 1, 0, 0, 0, 0, [(1, 5)]⟩, LaunchQ.init, LaunchQ.init, LaunchQ.init] })] }
theorem witness_launches : let d := tDesc 2 64; let s := tQueue 2 64; let c : Candidate := ⟨.queue 0, 5, some d⟩
    let f := { s with parts := [(0, { tPart with forks := [⟨{ tPost with runs := [⟨0x20000000, .mem 0x20000000, 64, 0⟩] }, 3⟩] })] }
    let bad := { s with blocks := [(0x20000000 / 64, { Block.init with p := true })] }
    0 < (part s 0).lq.length ∧ hubDone f tPost = none ∧ ((part s 0).forks.any fun f => f.post.row == tPost.row && f.post.tag == tPost.tag) = false ∧
    ((part s 0).rst = false ∧ (part s 0).en = true ∧ (launchList s 0).length < 1024 ∧ nextCandidate s 0 = some c) ∧
    nextCandidate bad 0 = some ⟨.queue 0, 5, none⟩ ∧ launchWaits s 0 0 d = false ∧
    (nextCandidate (tQueue (2 ^ 24 + 1) 64) 0 = some ⟨.queue 0, 5, some (tDesc (2 ^ 24 + 1) 64)⟩ ∧ 2 ^ 24 < dRows (tDesc (2 ^ 24 + 1) 64) ∧
      dRows (tDesc (2 ^ 25 - 1) 64) < 2 ^ 25 ∧ launchWaits (tQueue (2 ^ 24 + 1) 64) 0 0 (tDesc (2 ^ 24 + 1) 64) = false) ∧
    (1 ≤ dRows (tDesc 1 0) ∧ dRows (tDesc (2 ^ 24) 0) ≤ 2 ^ 24 ∧ fieldsLegal (tDesc 1 0) true 0 = false ∧
      nextCandidate (tQueue 1 0) 0 = some ⟨.queue 0, 5, some (tDesc 1 0)⟩) ∧
    (fieldsLegal d true 0 = true ∧ dImage d = false ∧ dCtrl d = false ∧ dCounter d = 0 ∧ level2 (dRows d) (dN1 d) (dN2 d) ≤ 65535 ∧
      freeIds s 0 (dRows d) = some 2) ∧
    (hubFull f (leader f 0) = false ∧ fieldsLegal d false 0 = true ∧ freeIds f 0 (dRows d) = some 2) := by decide +kernel
theorem witness_fork_candidate : let p := { tPost with runs := [⟨0x20000000, .mem 0x20000000, 64, 0⟩] }
    let f := { tM with parts := [(0, { tPart with forks := [⟨p, 3⟩] })] }
    ∃ c, nextCandidate f 0 = some c ∧ c.src = .fork p ∧ hubFull f (leader f 0) = false := ⟨_, rfl, rfl, by decide +kernel⟩
theorem witness_row_creation : let x := { tLaunch 1 with place := [0, 0, 512, 1], made := [0] }
    let s := { tBank stIdle [] with launches := [(0, [x])] }; let full := { s with clusters := [(0, { cluster s 0 with evicted := [0] })] }
    let none' := { full with parts := [(0, { tPart with prow := 0 })] }
    bit (part s 0).trcCtl 4 = false ∧ MemoryCanonical s ∧ findLaunch s 0 1 = some x ∧ nextRow x 0 = some 1 ∧ nextRow x 4 = some 2 ∧
    nth x.place 1 0 < 544 ∧ (bankTakes s 0 0 = true ∧ freeRow s 0 = some 0 ∧ x.images[1]? = none) ∧
    (bankTakes full 0 0 = false ∧ freeCell full 0 = some 0) ∧ (bankTakes none' 0 0 = false ∧ freeCell none' 0 = none) ∧
    (let d := { x with finished := [0, 1, 2, 3] }; let u := { s with launches := [(0, [d])] }
      findLaunch u 0 1 = some d ∧ d.finished.length = d.rows ∧ x.finished.length ≠ x.rows ∧ d.counter = none ∧ d.source = .queue 0 ∧
      bit (lq { u with parts := [(0, { tPart with lq := [{ LaunchQ.init with cfg := 16 }] })] } 0 0).cfg 4 = true) := by
  refine ⟨by decide +kernel, ⟨by decide +kernel, by decide +kernel⟩, by decide +kernel⟩
theorem witness_rings : let h : HeldMsg := ⟨0, .mbox 0, ⟨1, 2, 3, 4⟩⟩; let m : MboxMsg := ⟨⟨0, 0⟩, 0, 0, 7, 8⟩
    let s := fun (x : RingRegs) => { tM with heldMsgs := [h], parts := [(0, { tPart with mb := x })], execs := [(0, { exec' tM 0 with outbox := [m] })] }
    let on : RingRegs := ⟨w64 (0x20000000 + 16 + 1), 6, 7, 0⟩; let full := { on with tail := 8 }
    (s on).heldMsgs.find? (fun h => h.die == 0 && h.ring == .mbox 0) = some h ∧ ringLogn (ringRegs (s RingRegs.init) (.mbox 0)) = 0 ∧
    (ringLogn (ringRegs (s on) (.mbox 0)) ≠ 0 ∧ ringRoom (ringRegs (s on) (.mbox 0)) = true ∧ bit on.base 4 = true) ∧
    ringRoom (ringRegs (s full) (.mbox 0)) = false ∧ (exec' tM 0).outbox = [] ∧ (exec' (s on) 0).outbox = [m] ∧
    (rangesFree (s on) ringUnit [(0x20000020, 32)] = true ∧
      rangesFree { s on with homes := [(tLine, tEng 0x20)] } ringUnit [(0x20000020, 32)] = false) ∧
    LineQuiet (s on) (lineOf (0x20000020)) := by
  refine ⟨by decide +kernel, by decide +kernel, by decide +kernel, by decide +kernel, by decide +kernel, by decide +kernel, by decide +kernel,
    by constructor <;> decide +kernel⟩
theorem witness_walks : walk (tWalk tLeaf) 0 0 (bits 0x20000000 0 57) = .leaf ⟨0, 0x20000000, 4, tLeaf, 0x50010000⟩ ∧
    walk (tWalk (tLeaf ||| w64 (2 ^ 49))) 0 0 (bits 0x20000000 0 57) = .moving ∧ walk tM 0 0 (bits 0x20000000 0 57) = .fault cPageNp 0 0 ∧
    0 ∈ unitExecs 0 := by decide +kernel
/-! ### Witnesses: registers, pages, pre-emption, control, ports, services -/

/-- Partition 0 on a machine without rows. -/
def tBare (p : Part) : State := { State.reset with agenda := [], parts := [(0, p)], hub := { HubDie.init with keys := [(0, { KeySlot.init with valid := true })] } }
def tBusy : State := { tBank stReady [] with parts := [(0, tPart)] }
def tCask (v : Word) : Part := { tPart with pcask := field v 44 12 ||| field v 16 24 }
def tCells (v : Word) : Part := { tPart with prow := field v 44 20 ||| field v 16 24 }
def tSave (v : Word) : Part := { tPart with psave := field v 30 10 }
theorem witness_configuration_writes : running (tBare tPart) 0 = false ∧ running tBusy 0 = true ∧ bits (0 : Word) 32 19 ≤ 327680 ∧
    ¬ bits (0xFFFFFFFFFFFFFFFF : Word) 32 19 ≤ 327680 := by decide +kernel
theorem witness_cask_area : let p := tCask (w64 (2 ^ 44 + 16 * 2 ^ 16))
    inFlat p (tailBase p) (tailLen p) = true ∧ rackRows p ≤ flats p := by decide +kernel
theorem witness_cask_area_refused : let p := tCask (w64 (2 ^ 40 - 1)); inFlat p (tailBase p) (tailLen p) = false := by decide +kernel
theorem witness_cellar_area : let p := tCells (w64 (2 ^ 44 + 16 * 2 ^ 16))
    inFlat p (cellBase p) (cellLen p) = true ∧ hitsTail p (cellBase p) (cellLen p) = false ∧ hitsRack p (cellBase p) (cellLen p) = false := by
  decide +kernel
theorem witness_cellar_area_refused : let p := tCells 0; hitsTail p (cellBase p) (cellLen p) = true := by decide +kernel
theorem witness_save_area : let p := tSave (w64 (2 ^ 30))
    inFlat p (saveBase p) (2 ^ 30) = true ∧ hitsCell p (saveBase p) (2 ^ 30) = false ∧ hitsTail p (saveBase p) (2 ^ 30) = false ∧
    hitsRack p (saveBase p) (2 ^ 30) = false := by decide +kernel
theorem witness_save_area_refused : let p := tSave 0; hitsCell p (saveBase p) (2 ^ 30) = true := by decide +kernel
theorem witness_register_writes : let s := tBare { tPart with en := false }; let h := { s with hub := { s.hub with mgmtHalted := true } }
    (∀ n, n < 4 → bits (w64 (2 ^ 32)) 32 32 ≠ (lq s 0 n).tail.toNat) ∧ bit (w64 8) 3 = true ∧
    (s.parts.all fun x => !x.2.caskBusy && !x.2.pgBusy && !x.2.pctlBusy && !x.2.en) = true ∧ bits (w64 64) 6 2 = 1 ∧
    bits (w64 (4 * 2 ^ 13)) 13 3 = 4 ∧ bits (w64 4) 2 2 = 1 ∧ h.hub.mgmtHalted = true ∧ s.hub.mgmtHalted = false ∧
    (part (tBare tPart) 0).en = true := by decide +kernel
theorem witness_hub_registers : let t := { tPart with trcCtl := w64 (2 ^ 12 + 16 + 1) }; let s := tBare t
    let h := fun (x : HubDie) => { s with hub := x }
    s.parts = [(0, t)] ∧ (bit t.trcCtl 4 = true ∧ bits t.trcCtl 0 4 ≠ 0 ∧ (clustersOf t).contains (clusterOf 15) = true) ∧
    bit tPart.trcCtl 4 = false ∧ (5 ≤ bits (w64 5) 0 3 ∧ bits (w64 4) 0 3 < 5 ∧ s.hub.changing = false ∧ maxState s 4 ≠ s.hub.pwrCur) ∧
    (h { s.hub with changing := true }).hub.changing = true ∧
    ((h { s.hub with ltIdx := 0x204 }).hub.ltIdx.toNat = 0x204 ∧ mapGet s.hub.lt 0x204 0 < (1 : Word).toNat) ∧ s.hub.ltIdx.toNat ≠ 0x204 ∧
    (s.hub.keyBusy = false ∧ s.hub.mgmtHalted = false ∧ bits (w64 256) 8 2 = 1 ∧ bit (1 : Word) 0 = true) := by decide +kernel
theorem canonical_bare : MemoryCanonical (tBare { tPart with trcCtl := w64 (2 ^ 12 + 16 + 1) }) := ⟨by decide +kernel, by decide +kernel⟩
/-- PG_PTE points at 0x50010000, where a leaf for page 0x2000 stands; PG_DST is page 0x3000. -/
def tMove (leaf : Word) : State :=
  { tBare { tPart with pgPte := 0x50010000, pgDst := 0x30000000 } with mem := memStore [] 0x50010000 (leBytes 8 leaf.toNat) }
def tMoved : Word := w64 (3 * 2 ^ 62 + 15 * 2 ^ 50 + 0x20000000)
theorem witness_pages : let s := tMove tMoved; let far := { s with rehomed := [(0x3000, 0x2000)] }
    ownPage s 0 0x2000 = true ∧ ownPage s 0 0x10000 = false ∧ (far.rehomed.any fun x => x.1 == 0x3000) = true ∧
    (far.rehomed.any fun x => x.1 == 0x2000) = false := by decide +kernel
theorem canonical_tMove : MemoryCanonical (tMove tMoved) := ⟨by decide +kernel, by decide +kernel⟩
theorem witness_migration_starts : let s := tMove tMoved
    (s.moves.any fun m => m.part == 0 && m.page == 0x2000) = false ∧ migrationBusy s 0 0x2000 = false ∧
    leafMatches (pgLeaf s 0) 0x2000 false = true ∧ isFlat (part s 0) (65536 * ((part s 0).pgDst.toNat / 65536)) = true ∧
    (part s 0).pgPte.toNat % 8 = 0 ∧ leafMatches (pgLeaf s 0) 0x2001 false = false ∧
    LineQuiet s (lineOf (part s 0).pgPte.toNat) := by
  refine ⟨by decide +kernel, by decide +kernel, by decide +kernel, by decide +kernel, by decide +kernel, by decide +kernel,
    by constructor <;> decide +kernel⟩
theorem witness_migration_refused : let s := { tMove tMoved with dlines := [(512 * 0x2000, { dline (tMove tMoved) 0 with pin := 1 })] }
    (s.moves.any fun m => m.part == 0 && m.page == 0x2000) = false ∧ migrationBusy s 0 0x2000 = true ∧
    migrationBusy s 0 0x2001 = false := by decide +kernel
theorem witness_migration_waits : let s := { tMove tMoved with moves := [⟨0, 0x2000, 0x3000, 0x50010000⟩] }
    let b := { s with homes := [(512 * 0x2000, { HLine.init with reg := { RegEntry.init with eng := true } })] }
    (s.moves.any fun m => m.part == 0 && m.page == 0x2000) = true ∧ extentsHeld s (inPage 0x2000) = false ∧
    pageQuiet s 0x2000 = true ∧ pageQuiet b 0x2000 = false ∧ 0x3000 ≠ 0x2000 ∧ (part s 0).pgPte.toNat / 65536 = 0x5001 := by decide +kernel
theorem witness_migration_homes : ∀ i, i < 512 → mapGet? (tMove tMoved).homes (512 * 0x2000 + i) = none := fun _ _ => rfl
theorem witness_spunmap : let leaf := putBits (putBits (tMoved ||| w64 8) 4 7 1) 11 5 0
    let s := tMove leaf; let w := { s with unmaps := [⟨0, 0x2000, leaf⟩] }
    (s.unmaps.find? fun u => u.part == 0 && u.page == 0x2000) = none ∧ leafMatches (pgLeaf s 0) 0x2001 true = false ∧
    leafMatches (pgLeaf s 0) 0x2000 true = leafSpm leaf ∧
    (w.unmaps.find? fun u => u.part == 0 && u.page == 0x2000).isSome = true ∧ extentsHeld w (inSpadPage 0 65536) = false ∧
    pageQuiet w 0x2000 = true := by decide +kernel
def tPre (s : State) (x : PreReq) : State := { s with clusters := [(0, { cluster s 0 with pre := some x })] }
theorem witness_preemption_requests : let x : PreReq := ⟨0, 1, [], false, false⟩
    let open_ := tIn (tSlot .opened 1) (tBank stOpen [])
    let one := { tBank stReady [] with parts := [(0, { tCellPart with pyield := 0 })] }
    (cluster (tBare tPart) 0).pre = none ∧ (cluster (tPre (tBare tPart) x) 0).pre = some x ∧ x.part = 0 ∧ x.part ≠ 1 ∧ x.stage = 1 ∧
    phaseOver (tPre open_ x) 0 0 = false ∧ phaseOver (tPre (tBare tPart) x) 0 0 = true ∧ rowsOn (tBare tPart) 0 0 = [] ∧
    (phaseOver (tPre one x) 0 0 = true ∧ rowsOn (tPre one x) 0 0 = [1] ∧ x.part ≠ 63 ∧ locate (tPre one x) (rowId one 1) = .bank 1 ∧
      rowState one 1 ≠ stFrozen ∧ rowState one 1 ≠ stParked ∧ inTransfer (tPre one x) (.bank 1) = false) := by decide +kernel
theorem witness_streaming : let x : PreReq := ⟨0, 3, [], false, false⟩
    let c : CopyCmd := ⟨7, 0, .cpy, ⟨0, 0⟩, 0, none, [⟨0, .spad 0 0x80, 128, 0⟩], [], [], 128, 1, 0, 0, 1, .norm, 0, 0, 0, 0, 0, none⟩
    let s := tPre (tBare tPart) x; let k := { s with clusters := [(0, { cluster s 0 with cmds := [c] })] }
    let r := { s with regs := [⟨1, 0, tLine, 1, 0, ⟨0, 0⟩, 1⟩] }
    (cluster k 0).pre = some x ∧ streamReady k 0 0 = true ∧ streamReady r 0 0 = false ∧ rowsOn k 0 0 = [] ∧ x.remove = false ∧ x.slice = false ∧
    (pool k 0).claims = [] ∧ (pool k 1).claims = [] ∧ (k.caches.all fun y => y.1 / 2 ^ 40 != 0) = true ∧ c.row.part = x.part ∧
    inSpad 0 (c.dst ++ c.src ++ c.idx) = true := by decide +kernel
theorem witness_restore : let s := { tBare tPart with clusters := [(0, { cluster (tBare tPart) 0 with evicted := [0] })] }
    (cluster s 0).pre = none ∧ (cluster s 0).evicted.contains 0 = true ∧ listCount s 0 0 = 0 ∧
    (cluster (tPre s ⟨0, 1, [], false, false⟩) 0).pre.isSome = true := by decide +kernel
theorem witness_slices : let h := { HubDie.init with gsEn := true, gsTab := [(0, ⟨0, 2⟩)], gsWidx := 1 }
    let c := { cluster State.reset 0 with resident := some 0 }
    let s := { tBare tPart with parts := [(0, tPart), (1, tPart)], hub := h, clusters := [(0, c)] }
    (s.hub.gsEn = true ∧ s.hub.gsBusy = false ∧ entryDue s = true) ∧ residentOn s 0 = some 0 ∧ (incoming s 2 0).isSome = true ∧
    (2 : BitVec 32).getLsbD 0 = false ∧ (cluster s 0).pre = none ∧ entryDue (tBare tPart) = false := by decide +kernel
theorem witness_partition_control : let s := tBare { tPart with en := false }
    let node := { s with hubs := [(0, { Hub.init with nodes := [tNode 1 0 3 none] })] }
    let ready := fun s => resetReady (freezeAll (setPart s 0 { part s 0 with rst := true }) 0) 0
    mayEnable State.reset 0 = false ∧ mayEnable s 0 = true ∧ ctlOf (part s 0) = [0] ∧ freeIds s 0 1 = some 0 ∧ freeRow s 512 = some (512 * 2048) ∧
    running s 0 = false ∧ running tBusy 0 = true ∧ ready s = true ∧ (part s 0).en = false ∧ ready node = false := by decide +kernel
theorem witness_host_port : let s := tBare tPart; let a : HostAccess := ⟨1, 2, 0x20000000, leBytes 8 5⟩
    let e := { s with homes := [(lineOf 0x20000000, { HLine.init with reg := { RegEntry.init with eng := true } })] }
    postedOf s 1 = [] ∧ postedOf { s with posted := [a] } 1 ≠ [] ∧ barPlace s 0 1 = .none ∧ barPlace s 1 0 = .regs windowBase ∧
    barPlace s 0 0 = .regs hubBase ∧ 65528 < regSpan windowBase ∧ (leBytes 8 5).length = 8 ∧ barPlace s a.fn a.bar = .stack 0 ∧
    rangesFree s 0x81 [(pbase (part s 0) + a.off, inBar s 0 a)] = true ∧
    OneBlock (pbase (part s 0) + a.off) (inBar s 0 a) ∧
    (block s (pbase (part s 0) + a.off)).key.toNat = keyA s 0 ∧ inTier (part s 0) (pbase (part s 0) + a.off) = false ∧
    rangesFree e 0x81 [(pbase (part s 0) + a.off, inBar s 0 a)] = false := by
  unfold OneBlock; decide +kernel
theorem lineQuiet_host_port : LineQuiet (tBare tPart) (lineOf (pbase (part (tBare tPart) 0) + 0x20000000)) := by
  constructor <;> decide +kernel
theorem witness_storage : let q := { StorQ.init with nsq := 0x20000003, ncq := 0x30000003 }
    let e := [w64 (7 * 2 ^ 16 + 1), 0, 0, 0, 0, 0, 0, 0, 0, 0]
    let s := fun (x : StorQ) => tBare { tPart with stor := [x] }
    let o := { q with open_ := [e] }
    0 < (part (s q) 0).stor.length ∧ bits q.nsq 0 4 = bits q.ncq 0 4 ∧ bits q.nsq 0 4 ≠ 0 ∧ ringDist 1 q.sqHead 3 = 1 ∧
    bits ({ q with nsq := 0x20000004 } : StorQ).nsq 0 4 ≠ bits q.ncq 0 4 ∧ bits StorQ.init.nsq 0 4 = 0 ∧
    (o.open_.find? fun e => nvCid e == 7 && (nth e 8 0 == 0 || (nth e 8 0).toNat == 1)) = some e ∧
    (q.open_.find? fun e => nvCid e == 7 && (nth e 8 0 == 0 || (nth e 8 0).toNat == 1)) = none ∧ nth e 8 0 = 0 ∧ nvOpcode e ≠ 2 ∧
    cqRoom o = true ∧ cqRoom { o with cqTail := 7 } = false ∧ inTier (part (s o) 0) 0x30000000 = false ∧
    (block (s o) 0x30000000).key.toNat = keyA (s o) 0 := by decide +kernel
theorem lineQuiet_storage (x : StorQ) : LineQuiet (tBare { tPart with stor := [x] }) (lineOf 0x30000000) := ⟨rfl, rfl, rfl, rfl, rfl⟩
theorem witness_peers : let p : Peer := { peer State.reset 0 with chmask := 1, en := true, state := 2 }
    let f : Flit := ⟨0, 0, 0, ⟨r1, 264, .load 8 false, 0, ⟨0, 0⟩, 0, 7, 3, 0⟩⟩
    let s := { tBank stReady [] with peers := [(0, p)] }
    let x := { Exec.init with xfer := [(true, 0)], slots := #v[tSlot .opening 1, Slot.init, Slot.init, Slot.init] }
    let busy := { s with execs := [(0, x)] }
    ((peer s 0).en = true ∧ (peer s 0).state = 2 ∧ (peer s 0).chmask.getLsbD f.part = true) ∧ mapGet (peer s 0).next f.part 0 = f.seq ∧
    ((peer s 0).kept.any fun g => g.part == f.part) = false ∧ flitRefused s f = false ∧ flitRefused busy f = true ∧
    (peer { s with peers := [(0, { p with state := 1 })] } 0).state = 1 ∧ (peer s 0).state ≠ 3 := by decide +kernel
/-- Row 1 has called the hypervisor with this number and these arguments. -/
def tCall (n : Nat) (args : List Word) : State :=
  tBank stFaulted ((5, w64 (2 ^ 47 + n * 2 ^ 32 + cTrap)) :: args.zipIdx.map fun x => (33 + x.2, x.1))
/-- The data array holds the line at 0x20000000. -/
def tHeld (s : State) : State := { s with dlines := [(tLine, DLine.init)] }
/-- An image that is read whole from the data array, and whose header is no header. -/
theorem witness_images_read : let s := tHeld (tCall 17 [0x20000000, 64, 0x20001000, 64])
    readImage s 0 (callArg s 1 1) = ({ s with count := s.count + 1 }, readNow s 0x20000000 64) ∧
    headGood ((readNow s 0x20000000 64).take 64) = false := by
  have a : callArg (tHeld (tCall 17 [0x20000000, 64, 0x20001000, 64])) 1 1 = 0x20000000 := by decide +kernel
  have h : ∀ i, 64 * i < 64 → held (tHeld (tCall 17 [0x20000000, 64, 0x20001000, 64])) (lineOf (0x20000000 + 64 * i)) = true := by
    intro i hi
    obtain rfl : i = 0 := by omega
    decide +kernel
  have g : headGood (readNow { tHeld (tCall 17 [0x20000000, 64, 0x20001000, 64]) with
      count := (tHeld (tCall 17 [0x20000000, 64, 0x20001000, 64])).count + 1 } 0x20000000 64) = false := by decide +kernel
  refine ⟨?_, by decide +kernel⟩
  simp only [a, readImage, checkBulk_held 0 _ _ h, g]
  rfl
theorem witness_services : let a : List Word := [0x20000000, 64, 0x20001000, 64]; let far : List Word := [0x7FFFFFFFFF, 64, 0, 64]
    calling (tBank stReady []) r1 = none ∧ calling (tCall 16 a) r1 = some (1, 16) ∧ calling (tCall 17 a) r1 = some (1, 17) ∧
    calling (tCall 18 a) r1 = some (1, 18) ∧ calling (tCall 19 a) r1 = some (1, 19) ∧ calling (tCall 1023 a) r1 = some (1, 1023) ∧
    (let s := tCall 16 a; let g := callArg s 1; inFlatRange s 0 (g 1) (g 2) = true ∧ inFlatRange s 0 (g 3) (g 4) = true) ∧
    (let s := tCall 16 far; inFlatRange s 0 (callArg s 1 1) (callArg s 1 2) = false) ∧
    (let s := tCall 17 a; inFlatRange s 0 (callArg s 1 1) 64 = true ∧ imageQuiet s (callArg s 1 1) = true ∧
      imageQuiet (tHeld s) (callArg (tHeld s) 1 1) = true) ∧
    (let s := tCall 18 [0x20000000, 0x20001000]; inFlatRange s 0 (callArg s 1 1) 32 = true ∧ inFlatRange s 0 (callArg s 1 2) 1948 = true ∧
      mapGet s.hub.lt 0x203 0 < 2 ^ 20 ∧ 2 ^ 20 ≤ mapGet [((0x203 : Nat), 2 ^ 20)] 0x203 0) := by decide +kernel
theorem witness_debug_and_care : let s := tIn (tSlot .opened 1) (tBank stOpen [])
    let d := { s with clusters := [(0, { cluster s 0 with halted := true, dbgRow := 1 })] }
    let m := { s with parts := [(0, { tCellPart with mb := ⟨0x20000001, 0, 0, 0⟩ })] }
    let h := fun (x : HubDie) => { s with hub := x }
    (cluster s 0).halted = false ∧ (cluster d 0).halted = true ∧ openIn d 0 0 = some 1 ∧ (rowId d 1).lrow = (cluster d 0).dbgRow.toNat ∧
    ((exec' m 511).armed = true ∧ 1520 < (1521 : BitVec 16).toNat ∧ partOfExec m 0 = some 0 ∧ ringLogn (ringRegs m (.mbox 0)) ≠ 0 ∧
      ringRoom (ringRegs m (.mbox 0)) = true) ∧ (s.hub.thr = false ∧ 1680 ≤ (1680 : BitVec 16).toNat ∧ s.hub.mgmtHalted = false) ∧
    ((h { s.hub with thr := true }).hub.thr = true ∧ (h { s.hub with mgmtHalted := true }).hub.mgmtHalted = true) := by decide +kernel
/-! ### Witnesses: further conditions of instructions -/

/-- A launch whose rows 1 to 3 are DONE. -/
def tAlone : Launch := { tLaunch 1 with finished := [1, 2, 3] }
theorem witness_loads_of_replicas : let t := tExec 128 (tAddrs.zipIdx.map fun x => (33 + x.2, x.1))
    let x : RackEnt := ⟨1, 0, 0x5000, 0, 0, true, 0⟩; let s := { t with racks := [x] }
    let r := fun s => requestOf s (.read .fill) 0 0x50000000 0x50000000 8 false pSealed .noal []
    let frame := fun s => (rackLook s (dieOf (r s).exec) (r s).part 0x50000000).2
    siteOf s ⟨true, false, 2, true⟩ (memAddr s (g 5) 8 0) = .at_ (.mem 0x50000000) pSealed ∧ leafClass pSealed.leaf = clsSealed ∧
    hits s (r s) = false ∧ (cline s (r s).agent (lineOf 0x50000000)).v &&& wordMask 0x50000000 8 = 0 ∧ frame t = none ∧
    (frame s).map (fun f => delivery s (f + 0x50000000 % 128) (r s).key) = some 0 := by decide +kernel
theorem witness_written_through : let s := tExec 512 ((2, w64 (2 ^ 16)) :: tAddrs.zipIdx.map fun x => (33 + x.2, x.1))
    siteOf s ⟨false, true, 3, true⟩ (memAddr s (g 1) 8 0) = .at_ (.mem 0x20000000) pMem ∧ writesThrough (agentOf (curExec s)) = true ∧
    freeSlot s (.bank s.cur) = some 0 ∧ isRemote s 0x20000000 = false ∧ earlierAccess s 0x20000000 8 = none := by decide +kernel
theorem witness_prefetches : let si := fun s n => siteOf s ⟨true, false, 2, false⟩ (readReg s (g n))
    let full := { tM with caches := [(lineKey 0 tLine, { CLine.init with v := BitVec.allOnes 32 })] }
    let m : Miss := ⟨0, 0, false, false, [], false, 0, .norm⟩
    let busy := { tM with misses := List.replicate 64 m }; let far := { tM with leaving := [0x2000] }
    (match si tM 10 with | .stop _ _ => true | _ => false) = true ∧ (si tM 9 = .at_ (.spad 0 16) ⟨0, 0, 4, 0, 0⟩ ∧ (tMod .plain .clu).hint ≠ .noal) ∧
    (si full 1 = .at_ (.mem 0x20000000) pMem ∧ (cline full 0 tLine).v = BitVec.allOnes 32 ∧ missRoom full 0 tLine = true) ∧
    (si tM 6 = .at_ (.mem 0x60000000) pOpen ∧ leafClass pOpen.leaf = clsOpen) ∧
    (si busy 1 = .at_ (.mem 0x20000000) pMem ∧ missRoom busy 0 tLine = false ∧ slotOf busy 0 = some 0) ∧
    (si far 1 = .at_ (.mem 0x20000000) pMem ∧ isRemote far 0x20000000 = true ∧ leaseUsable far 0x2000 = false) ∧
    (cline tM 0 tLine).v ≠ BitVec.allOnes 32 := by
  decide +kernel
theorem witness_last_arrivals : let m := fun x => { tExec 0 [(3, w64 (2 ^ 24)), (4, w64 (3 * 2 ^ 60))] with launches := [(0, [x])] }
    let u := fun s => openSlot s 0 0 (destOf (g 1)) 3 9 1 (blankOp s 0)
    ∀ s ∈ [m tAlone, m (tLaunch 1)], memberOf s s.cur 1 = true ∧ arrivalSlot s 1 = none ∧ freeSlot s (.bank 0) = some 0 ∧
      releaseMet s (domainScope s 1 (.bank 0)) (releaseSnap s) = true ∧ ownClaim s 0 = none ∧
      lastArrival (u s) (arrivalOf (u s) 1 0) = s.launches.any fun x => x.2 == [tAlone] := by decide +kernel
theorem witness_refused_appends : let h := tMp 0 [(10, w64 (2 ^ 33))]
    (rowWord tM 0 10).getLsbD 33 = false ∧ ((rowWord h 0 10).getLsbD 33 = true ∧ eventOpen h 0 = true ∧ rowState h 0 = stOpen) ∧
    lookup h (readReg h (g 5) &&& ~~~0xFFFF#64) = .leaf pSealed := by decide +kernel
theorem witness_stranded : let s := { tExec 8 [(11, tD11), (33, w64 (3 * 2 ^ 16 + 256))] with pools := [(0, { Pool.init with claims := [tClaim [tCmd 5]] })] }
    let v := tClaimed [] []; let a := { v with ops := [⟨⟨0, 0⟩, 0, 0, false, none, none, none, some .dev, none, false, none⟩] }
    (stranded s s.cur = true ∧ slotOf s s.cur = some 0 ∧ acquirePending s = false ∧ isCtl (curExec s) = false ∧
      badRequest (readReg s (g 1)) (rowWord s s.cur 11) = false) ∧
    stranded v 0 = false ∧ acquirePending v = false ∧ acquirePending a = true ∧ slotOf a 0 = some 0 ∧ d11Valid (rowWord a 0 11) = true := by
  decide +kernel
/-! ### Witnesses: further conditions of device steps -/

theorem witness_thaws : let f := fun rs blk => tBank stFrozen [(15, w64 (rs * 2 ^ 44 + blk * 2 ^ 41))]
    (∀ blk ∈ [2, 3], let s := f stBlocked blk
      rowState s 1 = stFrozen ∧ busySlots s (.bank 1) = [] ∧ (exec' s 0).hold = [] ∧ bits (rowWord s 1 15) 44 4 = stBlocked ∧
      bits (rowWord s 1 15) 41 3 = blk) ∧ rowState (tBank stFaulted []) 1 = stFaulted ∧
    (let s := tCell (w64 (stBlocked * 2 ^ 44)); locate s r1 = .cellar 65536 ∧ bits (imgWord (loadImage s 65536) 15) 44 4 = stBlocked ∧
      bit (imgWord (loadImage s 65536) 15) 33 = false ∧ bringsIn s 0 0 = true) := by decide +kernel
theorem witness_arrivals_held : let w := (31, w64 (2 ^ 58 + 8 * 2 ^ 50 + 9 * 2 ^ 18 + 40 * 2 ^ 11 + 1))
    let x := { Exec.init with xfer := [(true, 0)], slots := #v[tSlot .opening 1, Slot.init, Slot.init, Slot.init] }
    let s := { tBank stOpen [w] with execs := [(0, x)] }
    slotHas s (.bank 1) 7 9 = true ∧ inTransfer s (.bank 1) = true ∧ inTransfer (tBank stOpen [w]) (.bank 1) = false ∧
    opRec s r1 7 = none := by decide +kernel
theorem witness_switch_waits : let w := [(30, 1), (31, w64 (2 ^ 58 + 9 * 2 ^ 18 + 40 * 2 ^ 11 + 9))]
    let s := { tBank stWait w with ops := [⟨r1, 7, 0x44, true, none, none, none, none, none, false, none⟩] }
    slotHas s (.bank 1) 7 9 = true ∧ rowState s 1 = stWait ∧ switchMet (clearSlot s (.bank 1) 7) 1 = true ∧
    (slotAddr s (.bank 1) 7).toNat < 8 ∧ 32 < slotDest s (.bank 1) 7 := by decide +kernel
theorem witness_fills : let req := requestOf tM (.read .fill) 0 0x20000000 0x20000000 8 false pMem .norm []
    let m : Miss := ⟨0, tLine, false, true, [(false, req)], false, 0, .norm⟩; let s := { tM with misses := [m] }
    OneBlock req.pa req.size ∧ blockMark 1 0 req.pa ≠ 0 ∧ blockMark 0 1 req.pa ≠ 0 ∧ bytesMask req &&& ~~~(cline tM 0 tLine).v ≠ 0 ∧
    s.misses.find? (fun m => m.agent == 0 && m.line == tLine) = some m ∧ m.evicted = true ∧ m.ops.head? = some (false, req) ∧
    ({ m with ops := [] } : Miss).ops = [] := by unfold OneBlock; decide +kernel
theorem witness_held_lines : let r := tReq .write 8 (leBytes 8 5); let s := { tM with dlines := [(tLine, DLine.init)] }
    held s tLine = true ∧ held tM tLine = false ∧ KeeperRoom tM tLine ∧ foreignPart tM r.pa r.size r.key = false ∧
    foreignPart { tM with blocks := [(0x20000000 / 64, { Block.init with key := 3 })] } r.pa r.size r.key = true ∧
    (let a := { tReq (.append 0 true) 8 (leBytes 8 5) with mask := 0 }
     a.size ≤ a.data.length ∧ a.mask = 0 ∧ entryPlace tM a.part (a.pa / 65536) / 128 ≠ tLine ∧ tM.tailCache.length < 512 ∧ tM.tails = [])
    := by unfold KeeperRoom; decide +kernel
theorem witness_early_answers : let early := tHome { tOwned 5 3 with early := [5] }
    let txn := fun (inval : Bool) (op : HomeOp) (l : List Nat) => tHome { tOwned 5 3 with txn := some ⟨tReq op 8 [], inval, l, [], []⟩ }
    let s := txn false (.read .fill) [5, 6]
    wasEarly early tLine 5 = true ∧ wasEarly s tLine 5 = false ∧ (txnOf s tLine).any (fun x => x.awaiting.contains 5) = true ∧
    (txnOf s tLine).any (fun x => x.awaiting.contains 7) = false ∧
    (ownMask (hline s tLine).reg 5 &&& ~~~3 = 0 ∧ inTier (part s (ownerPart s (128 * tLine))) (128 * tLine) = false) ∧
    (leased s (0x20000000 / 65536) = false ∧ foreignPart s 0x20000000 8 0 = false) ∧
    (awaitedAt s 5 = some tLine ∧ 5 ∉ s.deadSeen ∧ awaitedAt tM 5 = none) ∧
    (let h := { s with hub := { s.hub with hfq := ⟨0x10001, 0, 1, 0⟩ } }
     ringLogn h.hub.hfq ≠ 0 ∧ ringRoom h.hub.hfq = true) ∧
    (mapGet tM.postponed 0 0 ≤ 8) ∧ ((tHome (tOwned 5 3)).homes.map fun x => x.1).Nodup := by decide +kernel
theorem witness_lease_terms : let l : Lease := ⟨9, 0xC1, true, 0, 100, 0, true⟩; let s := { State.reset with leases := [l], leaving := [9] }
    ¬ (10000 ≤ 9999 - s.time) ∧ (10000 ≤ 10000 - s.time ∧ 10000000 - s.time ≤ 10000000) ∧ l.revoking = true ∧ (1 : BitVec 8) ≠ incOf s 0xC1 ∧
    s.time ≤ l.expiry + guardBand l s.hub.trans ∧ (State.reset.leaving.contains 9 = false ∧ pageQuiet State.reset 9 = true ∧
      caskPage State.reset 9 = false) := by decide +kernel
theorem witness_cask_homes : caskPage (tTail (tEntry 4 1 0 8)) 0x6000 = true ∧ teState (tailEntry (tTail (tEntry 4 1 0 8)) 0 0x6000) ≠ 2 := by
  decide +kernel
theorem witness_tail_turns : let r := tAppend 8; let s := fun st pend => tTail (tEntry 4 st pend 0)
    let q := { s 1 0 with tails := [⟨0x6000, false, r⟩] }; let taken := { s 2 0 with tails := [⟨0x6000, true, r⟩] }
    let full := { s 1 0 with done := [(homeOf (part (s 1 0) 0) r.pa, List.replicate 16384 ⟨⟨0, 9⟩, 0, 2, 0, 0⟩)] }
    let e := { taken with homes := [(lineOf 0x50010000, tEng 0x20)] }
    (q.tails.any fun t => t.page == 0x6000 && !t.taken) = true ∧ ((s 1 0).tails.any fun t => t.page == 0x6000 && !t.taken) = false ∧
    tailFull full r = true ∧ tailDone full r = none ∧ tailFull (s 1 0) r = false ∧ (r.op = .append 0 true ∧ r.data.length = 8) ∧
    rangesFree e tailUnit [(0x50010000, 8)] = false ∧ taken.tails = [⟨0x6000, true, r⟩] ∧
    (List.range 512).all (fun i => (mapGet? (s 0 0).homes (512 * 0x6000 + i)).isNone) = true := by decide +kernel
theorem lineQuiet_seal : LineQuiet (tTail (tEntry 4 2 0 8)) (lineOf 0x50010000) := ⟨rfl, rfl, rfl, rfl, rfl⟩
theorem witness_copies_end : let run := fun (p : Place) n => (⟨0, p, n, 0⟩ : Run)
    let c : CopyCmd := ⟨7, 0, .cpyz, ⟨0, 0⟩, 0, none, [run (.mem 0x20000000) 64], [], [], 64, 1, 0, 0, 1, .norm, 64, 0, 0, 0, 0, none⟩
    let s := { tM with clusters := [(0, { cluster tM 0 with cmds := [c] })] }
    let w := { s with homes := [(tLine, { HLine.init with txn := some ⟨{ tReq .engWrite 8 [] with agent := 0x20, id := 7 }, true, [5], [], []⟩ })] }
    c.pos = cmdTotal c ∧ engPending w 0x20 7 (runLines c.dst) = true ∧ engPending s 0x20 7 (runLines c.dst) = false ∧ c.node = none ∧
    staleInc s 0x20 0 = false ∧ leased s (tLine / 512) = false ∧ (hline s tLine).txn = none := by decide +kernel
theorem witness_pin_sets (s : State) (page : Nat) : (∃ l, l / 512 = page ∧ 8 < pinnedWays s page l) ∨
    ∀ l, l / 512 = page → pinnedWays s page l ≤ 8 := by
  by_cases h : ∃ l, l / 512 = page ∧ 8 < pinnedWays s page l
  · exact .inl h
  · exact .inr fun l hl => Nat.le_of_not_lt fun h' => h ⟨l, hl, h'⟩
theorem witness_moves_wait : let s := { tMove tMoved with moves := [⟨0, 0x2000, 0x3000, 0x50010000⟩] }
    let e := { tMove tMoved with homes := [(lineOf 0x50010000, tEng 0x20)] }; let w := { s with homes := [(lineOf 0x50010000, tEng 0x20)] }
    rangesFree e taskHub [(0x50010000, 8)] = false ∧ rangesFree w taskHub [(0x50010000, 8), (0x30000000, 65536)] = false ∧
    rangesFree s taskHub [(0x50010000, 8), (0x30000000, 65536)] = true ∧ (part s 0).pgDst.toNat / 65536 = 0x3000 ∧
    held { s with dlines := [(512 * 0x2000, DLine.init)] } (512 * 0x2000) = true := by decide +kernel
theorem witness_posts_wait : let n := newNode 0 tPost (dwords 16 ((tRecord 8 1).flatMap fun w => leBytes 8 w.toNat))
    let s := { tM with dlines := [(tLine, DLine.init)],
                       mem := memStore tM.mem 0x20000000 ((tRecord 8 1).flatMap fun w => leBytes 8 w.toNat) }
    let x := readRecord s 0 tPost.runs; let m := newNode 0 tPost (dwords 16 x.2.1)
    let p := { s with blocks := [(0x20000000 / 64, { Block.init with p := true })] }
    (rangesFree s taskHub (statusRange n) = true ∧ rangesFree { s with homes := [(tLine, tEng 0x20)] } taskHub (statusRange n) = false) ∧
    (x.2.2 = false ∧ nWord m 1 = 0 ∧ recordFault m = none ∧ nPreds m ≠ 0) ∧ (readRecord p 0 tPost.runs).2.2 = true := by decide +kernel
theorem witness_nodes_wait : let n := tNode 4 0 3 (some 2)
    let c := { n with words := n.words.set 8 (w64 (2 ^ 32)), runsC := [⟨0x20000000, .mem 0x20000000, 128, 0⟩] }; let s := tHub { Hub.init with nodes := [c] }
    let w := { s with homes := [(tLine, { HLine.init with
      txn := some ⟨{ tReq .engWrite 8 [] with agent := tileAgent 2, id := 2 }, true, [5], [], []⟩ })] }
    let e := { s with homes := [(tLine, tEng 0x20)] }; let p := { e with tiles := [(2, { Tile.init with parked := some (0, 0x20000000) })] }
    writesPending s c = false ∧ writesPending w c = true ∧ c.state = 3 ∧ rangesFree e taskHub (statusRange c) = false ∧
    rangesFree s taskHub (statusRange c) = true ∧ parkedNode p 2 = some c := by decide +kernel
theorem statusApart_nodes_end : StatusApart (tHub { Hub.init with nodes := [tNode 1 0 3 (some 2)] }) (tNode 1 0 3 (some 2)) :=
  statusApart_tM _ ⟨rfl, rfl, rfl⟩ _
theorem witness_launch_counters : let c : Run := ⟨0x20000000, .mem 0x20000000, 8, 0⟩
    let x := { tLaunch 1 with finished := [0, 1, 2, 3], counter := some c }; let s := { tM with launches := [(0, [x])] }
    findLaunch s 0 1 = some x ∧ x.finished.length = x.rows ∧
    rangesFree { s with homes := [(tLine, tEng 0x20)] } taskHub (memRanges [c]) = false := by decide +kernel
theorem witness_candidates_read : let h := fun s : State => { s with dlines := [(tLine, DLine.init)] }
    let next := fun s => nextCandidate (checkQueues (h s) 0) 0; let s := tQueue 2 64; let c : Candidate := ⟨.queue 0, 5, some (tDesc 2 64)⟩
    next s = some c ∧ freeIds (afterReading (checkQueues (h s) 0) 0 c) 0 2 = some 2 ∧
    next { s with blocks := [(0x20000000 / 64, { Block.init with p := true })] } = some ⟨.queue 0, 5, none⟩ ∧
    next (tQueue (2 ^ 24 + 1) 64) = some ⟨.queue 0, 5, some (tDesc (2 ^ 24 + 1) 64)⟩ ∧
    next (tQueue 1 0) = some ⟨.queue 0, 5, some (tDesc 1 0)⟩ := by decide +kernel
theorem witness_forks_read : let p := { tPost with runs := [⟨0x20000000, .mem 0x20000000, 64, 0⟩] }
    let m := memStore tM.mem 0x20000000 ((tDesc 2 64).flatMap fun w => leBytes 8 w.toNat)
    let f := { tM with dlines := [(tLine, DLine.init)], mem := m, parts := [(0, { tPart with forks := [⟨p, 3⟩] })] }
    let c : Candidate := ⟨.fork p, 3, some (tDesc 2 64)⟩
    nextCandidate (checkQueues f 0) 0 = some c ∧ launchWaits f 0 p.priv (tDesc 2 64) = false ∧
    freeIds (afterReading (checkQueues f 0) 0 c) 0 2 = some 2 := by decide +kernel
theorem witness_checked_walks : let h := fun (s : State) l => { s with dlines := [(l, DLine.init)] }
    walk (checkWalk (h (tWalk tLeaf) (lineOf 0x50010000)) 0 0 0x20000000) 0 0 0x20000000 =
      .leaf ⟨0, 0x20000000, 4, tLeaf, 0x50010000⟩ ∧
    walk (checkWalk (h tM 0) 0 0 0x20000000) 0 0 0x20000000 = .fault cPageNp 0 0 ∧
    walk (checkWalk (h (tWalk (tLeaf ||| w64 (2 ^ 49))) (lineOf 0x50010000)) 0 0 0x20000000) 0 0 0x20000000 = .moving := by decide +kernel
theorem witness_freezes_wait : let x : PreReq := ⟨0, 4, [], false, false⟩; let s := tPre (tBank stReady []) x
    let e := { Exec.init with xfer := [(true, 0)], slots := #v[tSlot .opening 1, Slot.init, Slot.init, Slot.init] }
    let busy := { s with execs := [(0, e)] }
    (cluster s 0).pre = some x ∧ x.stage = 4 ∧ rowsOn s 0 0 = [1] ∧ locate s (rowId s 1) = .bank 1 ∧ inTransfer busy (.bank 1) = true ∧
    inTransfer s (.bank 1) = false ∧ tierBusy s 0 = false ∧ tierBusy { s with tierMiss := [(3, 2, [])] } 0 = true := by decide +kernel
theorem witness_saved : let s := { tBare tPart with hub := { HubDie.init with keys := [(0, { KeySlot.init with gen := 1 })] } }
    staleSaved (tBare tPart) 0 (2 ^ 23) = false ∧ staleSaved s 0 (2 ^ 23) = true := by decide +kernel
theorem witness_lapses : let p : Peer := { peer State.reset 0 with chmask := 1, en := true, state := 2 }
    let l : Lease := ⟨0x2000, 0, false, 0, 100, 0, false⟩; let s := { tBare tPart with leases := [l], peers := [(0, p)] }
    let two := { s with peers := [(0, p), (1, p)] }
    ownerPart s (65536 * l.page) = 0 ∧ l.isHome = false ∧ p.chmask.getLsbD 0 = true ∧
    ((mapSet s.peers 0 { p with state := 3 }).all fun y => !(y.2.en && y.2.state == 2 && y.2.chmask.getLsbD 0)) = true ∧
    ((mapSet two.peers 0 { p with state := 3 }).any fun y => y.2.en && y.2.state == 2 && y.2.chmask.getLsbD 0) = true := by decide +kernel
/-- A module of version 0 with this text, a graph and a plan of no bytes. -/
def tModule (text : String) : List Byte :=
  let n := 48 + text.toList.length
  leBytes 4 0x594C5631 ++ leBytes 4 0 ++ leBytes 8 n ++ leBytes 8 0 ++ leBytes 8 48 ++ leBytes 8 n ++ leBytes 8 n ++
    text.toList.map fun c => BitVec.ofNat 8 c.toNat
theorem witness_translations : let a : List Word := [0x20000000, 64, 0x20001000, 64]; let s := tCall 16 a
    let e := { s with homes := [(lineOf 0x20001000, tEng 0x20)] }
    rangesFree s 0x80 [(0x20001000, 64)] = true ∧ rangesFree e 0x80 [(0x20001000, 64)] = false ∧ inTier (part s 0) 0x20001000 = false ∧
    foreignPart s 0x20001000 64 (keyA s 0) = false ∧ (hline s (lineOf 0x20001000)).keep = KeepEntry.init ∧
    bit (part s (rowId s 1).part).trcCtl 4 = false ∧ (moduleStatus s (tModule "") = 0 ∧ moduleStatus s [] = 1) := by decide +kernel
theorem witness_translated : let m := tModule "sw0 if:all nop"
    let s := { tCall 16 [0x20000000, w64 m.length, 0x20001000, 128] with mem := memStore (tBank stFaulted []).mem 0x20000000 m }
    let m' := readNow s (callArg s 1 1) (callArg s 1 2)
    m' = m ∧ moduleStatus s m = 0 ∧
    ((translateModule (translationPlace s 0 0x20001000) m).map fun x => (x.1.length, x.2)) = some (128, 0) ∧
    translateModule (translationPlace s 0 0x20001000) (tModule "nop") = none := by decide +kernel
/-! ### The notation: expected values worked out by hand from the rules named -/

def tValue (s : String) : Option (Int × Bool) := (exValue (fun _ => none) s.toList).map fun x => (x.v, x.ok)
/-- R11: the order of the operators, division toward zero, and division by zero. -/
theorem test_expressions : tValue "2+3*4" = some (14, true) ∧ tValue "-7/2" = some (-3, true) ∧ tValue "1|6^3&1<<1" = some (5, true) ∧
    tValue "~0x0F&0xFF" = some (0xF0, true) ∧ tValue "(0b11+1)*2" = some (8, true) ∧ (tValue "1/0").map (·.2) = some false := by decide +kernel
def tText (ls : List String) : Asm := ls.foldl (fun a l => asmLine a l.toList) (asmStart 0 [] [0, 0, 0, 0])
/-- R20, R25: a branch to a label, nops that fill up code, data little end first, a fill out of range, .launch. -/
theorem test_directives : (tText ["a:", "sw0 if:all br a", ".align 16"]).text.rev.reverse =
      [0, 0, 0x90, 0, 1, 0, 0, 0, 1, 0, 0, 0, 1, 0, 0, 0] ∧
    (tText [".data", ".half -2, 0x1234", ".space 2, 7"]).data.rev.reverse = [0xFE, 0xFF, 0x34, 0x12, 7, 7] ∧
    (tText [".data", ".byte 256"]).bad = true ∧ (tText [".data", ".space 1, 256"]).bad = true ∧ (tText [".launch x"]).bad = true ∧
    (tText [".equ n, 5", ".equ n, 5"]).bad = true := by decide +kernel
/-- R27, R29: the PC and a register of a row image; the kind, priority and predecessors of a task record. -/
theorem test_images_and_records :
    (let i := (tText [".data", ".rowimage r", ".pc 0x40", "g1 = 5", ".end"]).data.rev.reverse
     i.length = 1024 ∧ le8 i 8 = 0x40 ∧ le8 i 264 = 5) ∧
    (let t := (tText [".data", ".taskrec t", ".kind NOTE", ".prio 3", ".preds 2", ".end"]).data.rev.reverse
     t.length = 128 ∧ le8 t 0 = 2 * 2 ^ 48 + 3 * 2 ^ 16 + 8) := by decide +kernel
/-- R455, R451: a module of one instruction becomes an image whose body is its word, filled to 64 bytes. -/
theorem test_translation : (translateModule ⟨0x10000, 0, [0]⟩ (tModule "sw0 if:all nop")).map (fun x => (x.1.length, le4 x.1 0, le4 x.1 4,
      le8 x.1 16, le4 x.1 64, x.2)) = some (128, 0x4E475137, 4, 64, 1, 0) ∧
    translateModule ⟨0x10000, 0, [0]⟩ (tModule "nop") = none := by decide +kernel
/-! ### Witnesses: what else an instruction or device step waits for, and what it sees -/

/-- A side record of a row's slot with what else it says. -/
def tOp (r : RowId) (i : Nat) (more : Option OpMore) : OpRec := ⟨r, i, 0x44, true, none, none, none, none, none, false, more⟩
/-- Row 0 has a read of memory under way, and a register load that is issued again. -/
def tReading (s : State) : State := { s with ops := [{ tOp ⟨0, 0⟩ 0 none with req := some (tReq (.read .fill) 8 []) }] }
def tReread (s : State) : State := { s with ops := [tOp ⟨0, 0⟩ 0 (some (.place (.reg 0x300000000000) 8 false))] }
/-- A sector of the tier is being read for partition 0. -/
def tTierBusy (s : State) : State := { s with tierMiss := [(3, 2, [])] }
theorem witness_accesses_wait : let si := fun s n => siteOf s ⟨true, false, 2, true⟩ (memAddr s (g n) 8 0); let m := tReading tM
    let r := tReread (tMp 1 []); let f := tMp 1 [(45, w64 (16 * 2 ^ 56))]; let b := tTierBusy f
    let y := { tExec 0 [(17, tSlotWord 0 8 33 0)] with clusters := [(0, { cluster tM 0 with pre := some ⟨0, 1, [], false, false⟩ })] }
    (si m 1 = .at_ (.mem 0x20000000) pMem ∧ LeaseReady m 0x20000000 ∧ earlierAccess m 0x20000000 8 = some 0 ∧ slotOf m 0 = some 0) ∧
    (si r 4 = .at_ (.reg 0x300000000000) pReg ∧ rereading r = some 0 ∧ slotOf r 0 = some 0 ∧ rereading (tMp 1 []) = none) ∧
    (si b 2 = .at_ (.row (curRow b) 0) pRow ∧ WordReady b 0 ∧ (readReg b (g 13)).toNat / 2 ^ 56 = 0x10 ∧ 1 ≤ priv b ∧
      tierBusy b (curPart b) = true ∧ tierBusy f (curPart f) = false ∧ slotOf b 0 = some 0) ∧
    (preempted (tTierBusy y) 0 = true ∧ locate (tTierBusy y) (curRow y) = .bank 0 ∧ rowState (tTierBusy y) 0 = stOpen ∧
      tierBusy (tTierBusy y) (curPart y) = true ∧ slotOf (tTierBusy y) 0 = some 0) := by
  unfold WordReady LeaseReady; decide +kernel
/-- A control executor's row watches the line that it stores to. -/
theorem witness_watched_stores :
    let s := tExec 512 (((2, w64 (2 ^ 16)) :: tAddrs.zipIdx.map fun x => (33 + x.2, x.1)) ++ [(19, tSlotWord 8 33 0 10)])
    let w := { s with clusters := [(0x60, { cluster s 0x60 with watches := [(⟨0, 0⟩, 1, 0x20000000)] })] }
    siteOf w ⟨false, true, 3, true⟩ (memAddr w (g 1) 8 0) = .at_ (.mem 0x20000000) pMem ∧ writesThrough (agentOf (curExec w)) = true ∧
    watching w (agentOf (curExec w)) tLine = true ∧ watching s (agentOf (curExec s)) tLine = false ∧ freeSlot w (.bank w.cur) = some 0 ∧
    earlierAccess w 0x20000000 8 = none ∧ isRemote w 0x20000000 = false := by decide +kernel
theorem witness_replica_reads : let t := tExec 128 (tAddrs.zipIdx.map fun x => (33 + x.2, x.1))
    let x : RackEnt := ⟨1, 0, 0x5000, 0, 0, true, 0⟩; let s := { t with racks := [x], dlines := [(31457280, DLine.init)] }
    let r := requestOf s (.read .fill) 0 0x50000000 0x50000000 8 false pSealed .noal []
    let f := ((rackLook s (dieOf r.exec) r.part 0x50000000).2).getD 1
    siteOf s ⟨true, false, 2, true⟩ (memAddr s (g 5) 8 0) = .at_ (.mem 0x50000000) pSealed ∧ leafClass pSealed.leaf = clsSealed ∧
    (rackLook s (dieOf r.exec) r.part 0x50000000).2 = some f ∧ CohQuiet s r.part ∧ hits s r = false ∧
    delivery (checkRange s r.part (f + 0x50000000 % 128) 8) (f + 0x50000000 % 128) r.key = 0 ∧
    missRoom s r.agent (lineOf 0x50000000) = true ∧ missOf s r.agent (lineOf 0x50000000) = none := by
  unfold CohQuiet; decide +kernel
theorem witness_ranges_invalidated : let s := { tMp 1 [] with mapped := [pMem], caches := [(lineKey 0 tLine, { CLine.init with v := 3 })] }
    releaseMet s .dev (releaseSnap s) = true ∧ (clustersOf (part s (curPart s))).contains 0 = true ∧ tLine < 2 ^ 40 ∧
    (readReg s (g 0)).toNat % 4 = 0 ∧ (readReg s (g 0)).toNat / 4 % 4 ≠ 3 ∧ pMem ∈ s.mapped ∧ pMem.part = curPart s ∧
    tlbRange (readReg s (g 1)) (readReg s (g 0)) pMem = true ∧ leafFrame pMem.leaf < 128 * tLine + 128 ∧
    128 * tLine < leafFrame pMem.leaf + pageSize pMem.lvl ∧ (cline s 0 tLine).v &&& ~~~(cline s 0 tLine).rg ≠ 0 := by decide +kernel
theorem witness_replica_prefetches : let t := tExec 128 (tAddrs.zipIdx.map fun x => (33 + x.2, x.1))
    let s := { t with racks := [⟨1, 0, 0x5000, 0, 0, true, 0⟩], dlines := [(31457280, DLine.init)] }
    let q := (requestOf s (.read .touch) 8 0x50000000 0x50000000 1 false pSealed .norm []).part
    siteOf s ⟨true, false, 2, false⟩ (readReg s (g 5)) = .at_ (.mem 0x50000000) pSealed ∧ (tMod .plain .clu).scope = .clu ∧
    missRoom s (agentOf (curExec s)) (lineOf 0x50000000) = true ∧ missOf s (agentOf (curExec s)) (lineOf 0x50000000) = none ∧
    (cline s (agentOf (curExec s)) (lineOf 0x50000000)).v ≠ BitVec.allOnes 32 ∧ CohQuiet s q ∧
    (rackLook s (dieOf (curExec s)) q 0x50000000).2.isSome = true ∧ isRemote s 0x50000000 = false := by
  unfold CohQuiet; decide +kernel
theorem witness_claims_unwatched : NoWatch tM ∧ NoWatch (tClaimed [] []) := by
  constructor <;> intro j hj <;> revert hj <;> revert j <;> decide +kernel
/-- A row in the cellar whose image the data array holds. -/
theorem witness_cellar_checked : let h := fun d15 => { tCell d15 with dlines := (List.range 8).map fun i => (512 + i, DLine.init) }
    let im := fun d15 => loadImage (checkRange (h d15) 0 65536 1024) 65536; let rd := w64 (stReady * 2 ^ 44)
    locate (h rd) r1 = .cellar 65536 ∧ bringsIn (h rd) 0 (execOf (entryRow (rowEntry (h rd) r1))) = true ∧
    freeRow (h rd) (execOf (entryRow (rowEntry (h rd) r1))) = some 0 ∧
    (bit (imgWord (im rd) 15) 33 = false ∧ bits (imgWord (im rd) 15) 44 4 = stReady ∧
      ∀ i, i < 8 → bits (imgWord (im rd) (17 + 2 * i)) 58 6 = 0) ∧
    bit (imgWord (im (rd ||| w64 (2 ^ 33))) 15) 33 = true := by decide +kernel
theorem witness_closings_begin : let s := tIn (tSlot .opened 1) (tBank stReady [])
    let a := { s with execs := [(0, { exec' s 0 with asked := [0] })] }
    (exec' a 0).xfer = [] ∧ (exec' a 0).asked = [0] ∧ (slot a 0 0).st = .opened := by decide +kernel
theorem witness_freezes_from_outside : let s := tTierBusy (tBank stReady [])
    let a : RowAccess := ⟨r1, 0, .store 8 (w64 (16 * 2 ^ 56)), 1, ⟨0, 0⟩, 0, 7, 3, 0⟩
    accessWaits s a = true ∧ accessWaits (tBank stReady []) a = false ∧ tierBusy s r1.part = true ∧ locate s r1 = .bank 1 ∧
    tierBusy (tBank stReady []) r1.part = false := by decide +kernel
theorem witness_replies_again : let w := (31, w64 (2 ^ 58 + 8 * 2 ^ 50 + 9 * 2 ^ 18 + 40 * 2 ^ 11 + 1)); let s := tBank stOpen [w]
    let o := tOp r1 7 (some (.place (.reg 0x300000000000) 8 false)); let a := { s with ops := [o] }; let p : Reply := ⟨r1, 0, 7, 9, 5, 0, 0, 0⟩
    (slotHas a (.bank 1) 7 9 = true ∧ inTransfer a (.bank 1) = false ∧ opRec a r1 7 = some o ∧ o.reply = none ∧
      o.more = some (.place (.reg 0x300000000000) 8 false)) ∧
    freshReply s p = (s, p) ∧ ∀ i ∈ busySlots s (.bank 1), slotKind s (.bank 1) i ≠ 10 := by decide +kernel
theorem witness_boundaries_and_replies : let l := tIn { tSlot .opened 1 with wait := .lease 3 8 2 7 } (tBank stOpen [])
    let w := [(30, 0x100), (31, w64 (2 ^ 58 + 9 * 2 ^ 18 + 40 * 2 ^ 11 + 10))]
    let b := fun (blk d14 : Nat) m => { tBank stBlocked ((15, w64 (blk * 2 ^ 41)) :: (14, w64 d14) :: w) with ops := [tOp r1 7 m] }
    let x := { Exec.init with xfer := [(true, 0)], slots := #v[tSlot .opening 1, Slot.init, Slot.init, Slot.init] }
    let s := b 2 0x101 (some .woken); let t := { b 2 0x101 none with execs := [(0, x)] }
    ((slot l 0 0).wait = .lease 3 8 2 7 ∧ slotOf l 1 = some 0 ∧ openRow l r1 = some 1 ∧ l.time < 7 + 1000000 ∧
      7 + 1000000 ≤ ({ l with time := 1000007 } : State).time) ∧
    (slotHas s (.bank 1) 7 9 = true ∧ inTransfer s (.bank 1) = false ∧ 32 < slotDest s (.bank 1) 7 ∧
      opRec s r1 7 = some (tOp r1 7 (some .woken)) ∧ rowState s 1 = stBlocked ∧ bits (rowWord s 1 15) 41 3 = 2 ∧
      bits (rowWord s 1 14) 0 2 = 1) ∧
    (slotHas t (.bank 1) 7 9 = true ∧ inTransfer t (.bank 1) = true) ∧
    ((tOp r1 7 none).more ≠ some .woken ∧ bits (rowWord (b 3 0 none) 1 15) 41 3 = 3 ∧ opRec (b 3 0 none) r1 7 = some (tOp r1 7 none)) := by
  decide +kernel
theorem witness_meetings_full : let s := { State.reset with launches := [(0, [tLaunch 1])] }; let a := fun l => (⟨⟨0, 1⟩, 1, 8, l, 1, 0⟩ : Arrival)
    let m := fun l : Nat => (⟨0, 1, l, 0, 6, 2, [a l]⟩ : Meeting); let full := { s with meetings := List.replicate 256 { m 2 with meet := 9 } }
    (s.meetings.find? (fun x => sameMeeting x (a 2) 6) = none ∧ (a 2).level < 4 ∧ (unitMeetings s (m 2)).length < 256 ∧ (2 : Nat) ≠ 1) ∧
    (full.meetings.find? (fun x => sameMeeting x (a 2) 6) = none ∧ 256 ≤ (unitMeetings full (m 2)).length) ∧
    (s.meetings.find? (fun x => sameMeeting x (a 4) 6) = none ∧ (a 4).level = 4 ∧ (unitMeetings s (m 4)).length < 256) := by decide +kernel
theorem witness_watches_answer : let w := [(30, 0x1000), (31, w64 (2 ^ 58 + 9 * 2 ^ 18 + 40 * 2 ^ 11 + 10))]
    let s := fun m => { tBank stBlocked ((15, w64 (2 * 2 ^ 41)) :: w) with ops := [tOp r1 7 m], clusters := [(0, { Cluster.init with watches := [(r1, 7, 0x1000)] })] }
    ((cluster (s (some .asked)) 0).watches = [(r1, 7, 0x1000)] ∧ lineOf 0x1000 = 32 ∧ wordMask 0x1000 8 &&& 2 ≠ 0 ∧
      wordMask 0x1000 8 &&& 4 = 0 ∧ opRec (s (some .asked)) r1 7 = some (tOp r1 7 (some .asked))) ∧
    (opRec (s none) r1 7 = some (tOp r1 7 none) ∧ (tOp r1 7 none).more ≠ some .asked ∧ (tOp r1 7 none).more ≠ some .woken ∧
      locate (s none) r1 = .bank 1 ∧ rowState (s none) 1 = stBlocked ∧ bits (rowWord (s none) 1 15) 41 3 = 2) ∧
    (cluster State.reset 3).watches = [] := by decide +kernel
/-- Partition 0 is tiered, and the unit of the first tier address has a miss entry. -/
def tTierPart : Part := { tPart with pmem := w64 (2 ^ 63 + 2 ^ 32 * 1000 + 1024), pmemT := w64 tierBase }
def tTier (s : State) : State :=
  let p := tTierPart
  { s with parts := [(0, p)], tierMiss := [(unitAddr p (tierUnit p tierBase) / 2048, 0, [])] }
theorem witness_tier_waits : let s := tTier tM; let line := tierBase / 128; let unit := unitAddr tTierPart (tierUnit tTierPart tierBase) / 2048
    tierTakes s (128 * line) = false ∧ s.tierMiss.find? (fun m => m.1 == unit) = some (unit, 0, []) ∧ tierTakes tM (128 * line) = true ∧
    tierTakes tM 0x20000000 = true ∧ tierBusy s 0 = true := by decide +kernel
theorem witness_cluster_atomics : let r := { tReq (.atomic .add 1 0) 8 [] with id := 1 }; let m := tReq (.atomic .add 1 0) 8 []
    r.id = 1 ∧ m.id ≠ 1 ∧ OneBlock m.pa m.size ∧ CohQuiet tM m.part ∧ HomeReady tM m := by
  refine ⟨rfl, by decide +kernel, by unfold OneBlock; decide +kernel, by unfold CohQuiet; decide +kernel, ?_⟩
  constructor <;> decide +kernel
theorem lineOpen_seal : LineOpen (tTail (tEntry 4 2 0 8)) (lineOf 0x50010000) := ⟨lineQuiet_seal, by decide +kernel⟩
theorem witness_pages_zeroed : let s := tTail (tEntry 4 0 0 0); let e := { s with homes := [(512 * 0x6000, tEng 0x20)] }
    caskPlace (part s 0) 0x6000 = true ∧ teState (tailEntry s 0 0x6000) = 0 ∧ teState (tailEntry e 0 0x6000) = 0 ∧
    rangesFree s 0x85 [(65536 * 0x6000, 65536)] = true ∧ rangesFree e 0x85 [(65536 * 0x6000, 65536)] = false ∧
    caskPlace (part e 0) 0x6000 = true := by decide +kernel
theorem witness_pools_see : let i := Instr.vfnld c0 (g 0) (g 1) (g 2) vDefault; let j := Instr.vfnst c0 (g 0) (g 1) (g 2) vDefault
    let s := { tClaimed [tCmd 5] [] with torn := [⟨.spad 0 0x1000, List.replicate 64 1, ⟨0, 7⟩, 3, none⟩] }
    let c : VCtx := ⟨.add, none, vDefault, 3, 0, 0, none⟩
    (tornFor s 0 (tClaim [tCmd 5]) c ≠ [] ∧ tornFor (tClaimed [tCmd 5] []) 0 (tClaim [tCmd 5]) c = [] ∧ claimIn s 0 2 = some (tClaim [tCmd 5])) ∧
    (∀ k ∈ busySlots s (.bank 0), slotKind s (.bank 0) k ≠ 10) ∧
    (vopOf i = some (.fnld, c0, vDefault) ∧ vopOf j = some (.fnst, c0, vDefault) ∧
      (⟨.fnld, none, vDefault, 3, 0, 0, none⟩ : VCtx).tableCheck = some (.late cIllegal 0) ∧
      (⟨.fnst, none, vDefault, 3, 0, 0, none⟩ : VCtx).tableCheck = some (.late cLanes 0)) ∧
    (poolOf (execOf 0) ≠ 1 ∧ ({ s with pools := [(1, { Pool.init with waiting := [(⟨0, 0⟩, 64, 3)] })] } : State).pools.length = 1 ∧
      (pool { s with pools := [(1, { Pool.init with waiting := [(⟨0, 0⟩, 64, 3)] })] } 1).waiting.find? (fun w => w.1 == ⟨0, 0⟩) =
        some (⟨0, 0⟩, 64, 3)) := by decide +kernel
theorem witness_hubs_wait : let n := tNode 8 2 1 none; let s := { tM with mem := memStore tM.mem 0x20000000 ((tRecord 8 1).flatMap fun w => leBytes 8 w.toNat) }
    let full := tHub { Hub.init with nodes := List.replicate 4096 n }; let eng := { s with homes := [(tLine, tEng 0x20)] }
    let dir := tHub { Hub.init with dir := List.replicate 4096 ⟨0, 8, none, 0, none⟩ }
    poolFull (hub full 0) = true ∧ hubDone full tPost = none ∧ linesQuiet eng taskHub (memRanges tPost.runs) = false ∧
    (dirFind dir 0 0x20000000 = none ∧ dirRoom dir 0 1 = false) ∧
    (poolFull (hub s 0) = false ∧ dirRoom s (dirDie s 0 0x20000000) 1 = true ∧ linesQuiet s taskHub (memRanges tPost.runs) = true ∧
      hubFull s 0 = false ∧ dirFind s 0 0x20000000 = none ∧ findNode s 0 0 0x20000000 = none) ∧
    (let r := { tNode 8 0 2 none with since := 5 }; r.prio < 3 ∧ 3 ≤ ({ r with prio := 3 } : Node).prio) ∧
    (let y := { tNode 1 0 2 none with runsC := [⟨0x20000000, .mem 0x20000000, 128, 0⟩] }
      let h := { tHub { Hub.init with nodes := [y] } with incs := [(tileAgent 0, 1)] }
      firstReady h 0 = some y ∧ tileKind (nKind y) = true ∧ chooseUnit h y = some 0 ∧ extentsFree h y = true ∧
      engineLost h y 0 = true ∧ rangesFree h taskHub (statusRange y) = true ∧ rowBusy h y = false ∧ y.xlated = true ∧
      engineLost { h with incs := [] } y 0 = false) := by decide +kernel
theorem witness_nodes_end_later : let n := tNode 1 0 3 (some 2); let s := { tHub { Hub.init with nodes := [n] } with dlines := [(tLine, DLine.init)] }
    let two : Node := { n with words := n.words.set 11 0x20001000 }; let four : Node := { tNode 1 0 4 none with words := two.words }
    let full := fun y : Node => { tHub { Hub.init with nodes := [y], dir := List.replicate 4096 ⟨0, 8, none, 0, none⟩ } with dlines := [(tLine, DLine.init)] }
    (releasesFit (nodeEnds s n) { n with state := 4, xlated := false } = true) ∧ writesPending s n = false ∧
    (∀ i ∈ busySlots s (.bank 0), slotKind s (.bank 0) i ≠ 10) ∧
    (findNode (tHub { Hub.init with nodes := [four] }) 0 0 0x20000000 = some four ∧ four.state = 4 ∧ four.die = 0 ∧
      releasesFit (tHub { Hub.init with nodes := [four] }) four = true) ∧ nSuccs four ≠ [] ∧ releasesFit (full four) four = false ∧
    releasesFit (nodeEnds (full two) two) { two with state := 4, xlated := false } = false := by decide +kernel
theorem witness_kept_waits : let n := { tNode 8 0 5 none with cause := 7 }
    let s := tHub { Hub.init with kept := [n] }; let e := { s with homes := [(tLine, tEng 0x20)] }
    keptNode s 0 0x20000000 = some n ∧ dirRoom s (dirDie s 0 0x20000000) 1 = true ∧ linesQuiet s taskHub (memRanges n.recPa) = true ∧
    rangesFree s taskHub (statusRange n) = true ∧ linesQuiet e taskHub (memRanges n.recPa) = false := by decide +kernel
theorem witness_launches_wait : let k : TakenLaunch := ⟨.queue 0, tDesc 2 64, [], none⟩; let s := tQueue 2 64
    let t := { s with parts := [(0, { part s 0 with taken := some k })] }; let f := { k with src := .fork tPost }
    let u := { s with parts := [(0, { part s 0 with taken := some f })] }
    let full := { t with launches := [(0, [{ tLaunch 1 with rows := 2 ^ 24 }])] }
    ((part t 0).taken = some k ∧ (part t 0).rst = false ∧ (part t 0).en = true ∧ (launchList t 0).length < 1024 ∧
      freeIds t 0 (dRows k.desc) = some 2 ∧ freeIds full 0 (dRows k.desc) = none) ∧
    ((part u 0).taken.any (fun k => sameFork k.src tPost) = true ∧ hubDone u tPost = none ∧
      (part s 0).taken.any (fun k => sameFork k.src tPost) = false) ∧
    (entriesQuiet s 0 = true ∧ (part s 0).taken = none ∧ entriesQuiet { s with homes := [(tLine, tEng 0x20)] } 0 = false) := by
  decide +kernel
theorem witness_no_identifiers : let h := fun s : State => { s with dlines := [(tLine, DLine.init)], launches := [(0, [{ tLaunch 1 with rows := 2 ^ 24 }])] }
    let s := h (tQueue 2 64); let c : Candidate := ⟨.queue 0, 5, some (tDesc 2 64)⟩
    nextCandidate (checkQueues s 0) 0 = some c ∧ freeIds (afterReading (checkQueues s 0) 0 c) 0 2 = none ∧ entriesQuiet s 0 = true := by
  decide +kernel
theorem witness_rings_fill : let h : HeldMsg := ⟨0, .mbox 0, ⟨1, 2, 3, 4⟩⟩
    let s := fun (x : RingRegs) => { tM with heldMsgs := [h], parts := [(0, { tPart with mb := x })] }
    let on : RingRegs := ⟨w64 (0x20000000 + 16 + 1), 6, 7, 0⟩; let one : RingRegs := ⟨w64 (0x20000000 + 16 + 1), 6, 6, 0⟩
    ringLogn (ringRegs (s on) (.mbox 0)) ≠ 0 ∧ ringRoom (ringRegs (s on) (.mbox 0)) = true ∧ ringRoom { on with tail := on.tail + 1 } = false ∧
    ringRoom (ringRegs (s one) (.mbox 0)) = true ∧ ringRoom { one with tail := one.tail + 1 } = true ∧ (s on).heldMsgs.length ≤ 64 ∧
    tierTakes (s on) (128 * lineOf 0x20000020) = true := by decide +kernel
theorem witness_registers_tier : bits (part tM 0).pbw 0 16 = 0 ∧ bits (part (tP tM { tPart with pbw := 5 }) 0).pbw 0 16 ≠ 0 := by decide +kernel
theorem witness_pages_wait : let p := tTierPart; let s := { tBare p with tierMiss := [(unitAddr p (tierUnit p tierBase) / 2048, 0, [])] }
    let page := tierBase / 65536; let line := tierBase / 128
    ownPage s 0 page = true ∧ line / 512 = page ∧ tierTakes s (128 * line) = false ∧ s.dlines = [] := by decide +kernel
theorem witness_pages_valid : let s := tMove tMoved; let e := { s with homes := [(lineOf 0x50010000, tEng 0x20)] }
    let m := { s with moves := [⟨0, 0x2000, 0x3000, 0x50010000⟩] }; let f := { s with rehomed := [(0x3000, 0x2000)] }
    let leaf := putBits (putBits (tMoved ||| w64 (2 ^ 48)) 4 7 1) 11 5 0; let u := tMove leaf
    pageValid s 0 0x2000 = true ∧ pageValid s 0 0x10000 = false ∧ pageValid e 0 0x2000 = true ∧
    rangesFree e taskHub [((part e 0).pgPte.toNat, 8)] = false ∧ rangesFree s taskHub [((part s 0).pgPte.toNat, 8)] = true ∧
    (s.moves.find? fun m => m.part == 0 && m.page == 0x2000) = none ∧ inFlat (part s 0) (65536 * 0x3000) 65536 = true ∧
    (m.moves.find? fun m => m.part == 0 && m.page == 0x2000) = some ⟨0, 0x2000, 0x3000, 0x50010000⟩ ∧
    (extentsHeld m (inPage 0x2000) = false ∧ pageQuiet m 0x2000 = true) ∧
    (ownPage f 0 0x3000 = true ∧ (f.rehomed.any fun x => x.1 == 0x3000) = true) ∧
    (pageValid u 0 0x2000 = true ∧ rangesFree u taskHub [((part u 0).pgPte.toNat, 8)] = true ∧ leafMatches (pgLeaf u 0) 0x2000 true = true ∧
      tierTakes u (128 * lineOf 0x50010000) = true ∧ tierTakes s (128 * lineOf 0x50010000) = true ∧ leafMatches (pgLeaf s 0) 0x2000 true = false) ∧
    (let w := { u with unmaps := [⟨0, 0x2000, leaf⟩] };
      w.unmaps.find? (fun y => y.part == 0 && y.page == 0x2000) = some ⟨0, 0x2000, leaf⟩ ∧ extentsHeld w (inSpadPage (bits leaf 11 5) (65536 * bits leaf 4 7)) = false ∧
      pageQuiet w 0x2000 = true ∧ rangesFree w taskHub [(65536 * 0x2000, 65536)] = true ∧
      rangesFree { w with homes := [(512 * 0x2000, tEng 0x20)] } taskHub [(65536 * 0x2000, 65536)] = false) := by decide +kernel
theorem witness_clusters_wait : let x : PreReq := ⟨0, 1, [], false, false⟩; let s := tPre (tBank stReady []) x
    tierBusy (tTierBusy s) 0 = true ∧ tierBusy s 0 = false ∧ (cluster s 0).pre = some x ∧ s.hub.gsWait.contains 0 = false ∧
    (let h := { HubDie.init with gsEn := true, gsTab := [(0, ⟨0, 2⟩)], gsWidx := 1 }; let y : PreReq := ⟨1, 1, [], false, false⟩
      let t := { tBare tPart with parts := [(0, tPart), (1, tPart)], hub := h, clusters := [(0, { cluster State.reset 0 with resident := some 0, pre := some y })] }
      t.hub.gsEn = true ∧ t.hub.gsBusy = false ∧ entryDue t = true ∧ residentOn t 0 = some 0 ∧
      (incoming t (mapGet t.hub.gsTab t.hub.gsRidx.toNat ⟨0, 0⟩).pset 0).isSome = true ∧
      (mapGet t.hub.gsTab t.hub.gsRidx.toNat ⟨0, 0⟩).pset.getLsbD 0 = false ∧ (cluster t 0).pre = some y ∧ y.part ≠ 0) := by decide +kernel
theorem witness_images_quiet : let s := { tBare { tPart with en := false } with dlines := [(0, DLine.init)] }
    let e := { s with homes := [(0, tEng 0x20)] }
    mayEnable s 0 = true ∧ imageQuiet s (part s 0).pimg.toNat = true ∧ mayEnable e 0 = true ∧ imageQuiet e (part e 0).pimg.toNat = false ∧
    leasedOut s 0 = false ∧ leasedOut { s with leases := [⟨0x2000, 0xC1, true, 0, 9, 0, false⟩] } 0 = true ∧ ctlOf (part s 0) = [0] := by
  decide +kernel
theorem witness_enables : let s := { tBare { tPart with en := false } with dlines := [(0, DLine.init)] }; let u := (readImage s 0 (part s 0).pimg.toNat).1
    freeIds u 0 1 = some 0 ∧ freeRow u 512 = some (512 * 2048) := by
  have a : (part { tBare { tPart with en := false } with dlines := [(0, DLine.init)] } 0).pimg.toNat = 0 := by decide +kernel
  have h : ∀ i, 64 * i < 64 → held { tBare { tPart with en := false } with dlines := [(0, DLine.init)] } (lineOf (0 + 64 * i)) = true := by
    intro i hi
    obtain rfl : i = 0 := by omega
    decide +kernel
  have g : headGood (readNow { tBare { tPart with en := false } with dlines := [(0, DLine.init)], count := (tBare tPart).count + 1 } 0 64) = false := by
    decide +kernel
  have r : (readImage { tBare { tPart with en := false } with dlines := [(0, DLine.init)] } 0 0).1 =
      { tBare { tPart with en := false } with dlines := [(0, DLine.init)], count := (tBare tPart).count + 1 } := by
    simp only [readImage, checkBulk_held 0 _ _ h]
    exact congrArg Prod.fst (if_neg (by rw [show (tBare { tPart with en := false }).count = (tBare tPart).count from rfl]; simp [g]))
  simp only [a, r]
  decide +kernel
theorem witness_outside_waits : let q := { StorQ.init with nsq := 0x20000003, ncq := 0x30000003 }
    let e := [w64 (7 * 2 ^ 16 + 1), 0, 0, 0, 0, 0, 0, 0, 0, 0]; let s := fun (x : StorQ) => tBare { tPart with stor := [x] }
    let h := fun (s : State) l => { s with homes := [(l, tEng 0x20)] }; let a : HostAccess := ⟨1, 2, 0x20000000, leBytes 8 5⟩
    (entriesReady (s q) 0 0 1 = true ∧ entriesReady (h (s q) tLine) 0 0 1 = false) ∧
    (cqRoom { q with open_ := [e] } = true ∧ rangesFree (h (s { q with open_ := [e] }) (lineOf 0x30000000)) 0x82 [(0x30000000, 16)] = false ∧
      tierTakes (s { q with open_ := [e] }) (128 * lineOf 0x30000000) = true) ∧
    (let p := pbase (part (tBare tPart) 0) + a.off; linesQuiet (tBare tPart) 0x81 [(p, 8)] = true ∧
      linesQuiet (h (tBare tPart) (lineOf p)) 0x81 [(p, 8)] = false ∧ tierTakes (tBare tPart) (128 * lineOf p) = true) := by decide +kernel
theorem witness_services_wait : let a : List Word := [0x20000000, 64, 0x20001000, 64]; let h := fun (s : State) => { s with homes := [(tLine, tEng 0x20)] }
    (linesQuiet (h (tCall 16 a)) 0x80 [(callArg (h (tCall 16 a)) 1 1, callArg (h (tCall 16 a)) 1 2)] = false ∧
      linesQuiet (tCall 16 a) 0x80 [(callArg (tCall 16 a) 1 1, callArg (tCall 16 a) 1 2)] = true) ∧
    imageQuiet (h (tCall 17 a)) (callArg (h (tCall 17 a)) 1 1) = false ∧
    (let s := tCall 18 [0x20000000, 0x20001000]; linesQuiet s 0x80 [(callArg s 1 1, 32)] = true ∧ rangesFree s 0x80 [(callArg s 1 2, 1948)] = true ∧
      linesQuiet (h s) 0x80 [(callArg (h s) 1 1, 32)] = false) := by decide +kernel

end Sys2Proof.Tests
end

section
/-!
PROOF. What the fields of an encoded word read back (R34, R40): each field of a format gives what was put there.
-/

namespace Sys2Proof

/-- Bits that lie in the low part of a concatenation. -/
theorem extract_low {n m : Nat} {x : BitVec n} {y : BitVec m} {a l : Nat} {z : BitVec l} (hz : y.extractLsb' a l = z)
    (h : a + l ≤ m := by decide) : (x ++ y).extractLsb' a l = z :=
  (BitVec.extractLsb'_append_eq_of_add_le h).trans hz

/-- Bits that lie in the high part of a concatenation. -/
theorem extract_high {n m : Nat} {x : BitVec n} {y : BitVec m} {a l : Nat} {z : BitVec l}
    (hz : x.extractLsb' (a - m) l = z) (h : m ≤ a := by decide) : (x ++ y).extractLsb' a l = z :=
  (BitVec.extractLsb'_append_eq_of_le h).trans hz

theorem extract_self {l : Nat} (x : BitVec l) : x.extractLsb' 0 l = x := BitVec.extractLsb'_eq_self

/-! ### The head of a base word -/

section
variable (c : Ctl) (maj : BitVec 6) (p : BitVec 19)

/-- The payload fields of a base word are those of its payload. -/
theorem extract_mk {a l : Nat} {z : BitVec l} (hz : p.extractLsb' a l = z) (h : a + l ≤ 19 := by decide) :
    (mk c maj p).extractLsb' a l = z := extract_low (x := BitVec.ofBool c.sw ++ guardBits c.guard ++ maj) hz h

@[simp] theorem fMaj_mk : fMaj (mk c maj p) = maj :=
  extract_high (x := BitVec.ofBool c.sw ++ guardBits c.guard ++ maj) (extract_low (extract_self maj))

/-- The fields above the major opcode are those of S and the guard. -/
theorem extract_mk_head {a l : Nat} (h : 25 ≤ a := by decide) :
    (mk c maj p).extractLsb' a l = (BitVec.ofBool c.sw ++ guardBits c.guard).extractLsb' (a - 19 - 6) l :=
  extract_high (x := BitVec.ofBool c.sw ++ guardBits c.guard ++ maj)
    (extract_high (x := BitVec.ofBool c.sw ++ guardBits c.guard) rfl (by omega)) (by omega)

theorem head_mk : (mk c maj p).extractLsb' 25 7 = BitVec.ofBool c.sw ++ guardBits c.guard :=
  (extract_mk_head c maj p).trans (extract_self _)

/-- A bit above the major opcode is one of the seven bits of S, E, G and N. -/
theorem getLsbD_of_head (w : W32) {i : Nat} (h : 25 ≤ i ∧ i < 32 := by decide) :
    w.getLsbD i = (w.extractLsb' 25 7).getLsbD (i - 25) := by
  rw [BitVec.getLsbD_extractLsb', Nat.add_sub_cancel' h.1, decide_eq_true (by omega), Bool.true_and]

theorem guardBits_none_read (sw : Bool) :
    let h : BitVec 7 := BitVec.ofBool sw ++ guardBits none
    h.getLsbD 6 = sw ∧ h.getLsbD 5 = false ∧ h.extractLsb' 1 4 = 0 ∧ h.getLsbD 0 = false := by
  revert sw; decide

theorem guardBits_some_read (sw : Bool) (n : BitVec 4) (g : Bool) :
    let h : BitVec 7 := BitVec.ofBool sw ++ guardBits (some ⟨n, g⟩)
    h.getLsbD 6 = sw ∧ h.getLsbD 5 = true ∧ h.extractLsb' 1 4 = n ∧ h.getLsbD 0 = g := by
  revert sw n g; decide

/-- S, the guard and the condition on its fields are those of the Ctl that a base word was made from (R34, R35). -/
@[simp] theorem control_mk :
    (mk c maj p).getLsbD 31 = c.sw ∧ guardOf (mk c maj p) = c.guard ∧ guardOk (mk c maj p) = true := by
  rw [guardOf, guardOk, extract_mk_head, getLsbD_of_head _ (i := 31), getLsbD_of_head _ (i := 30),
    getLsbD_of_head _ (i := 25), head_mk]
  obtain ⟨sw, _ | ⟨n, g⟩, _⟩ := c
  · obtain ⟨hs, he, hn, hg⟩ := guardBits_none_read sw
    simp only [hs, he, hn, hg]
    simp
  · obtain ⟨hs, he, hn, hg⟩ := guardBits_some_read sw n g
    simp only [hs, he, hn, hg]
    simp
end

/-! ### The formats (R40) -/

section
variable (c : Ctl) (maj : BitVec 6)

/-- Format A: the fields of a word made from them. -/
@[simp] theorem fields_payA (d a b : BitVec 5) (fn : BitVec 4) :
    let w := mk c maj (payA d a b fn)
    fD w = d ∧ fA w = a ∧ fB w = b ∧ fF w = fn :=
  ⟨extract_mk _ _ _ (extract_high (x := d ++ a ++ b) (extract_high (x := d ++ a) (extract_high (extract_self _)))),
    extract_mk _ _ _ (extract_high (x := d ++ a ++ b) (extract_high (x := d ++ a) (extract_low (extract_self _)))),
    extract_mk _ _ _ (extract_high (x := d ++ a ++ b) (extract_low (extract_self _))),
    extract_mk _ _ _ (extract_low (extract_self _))⟩

/-- Format A with a ten-bit number: the fields of a word made from them. -/
@[simp] theorem fields_payA2 (d : BitVec 5) (n : BitVec 10) (fn : BitVec 4) :
    let w := mk c maj (payA2 d n fn)
    fD w = d ∧ fN w = n ∧ fF w = fn :=
  ⟨extract_mk _ _ _ (extract_high (x := d ++ n) (extract_high (extract_self _))),
    extract_mk _ _ _ (extract_high (x := d ++ n) (extract_low (extract_self _))),
    extract_mk _ _ _ (extract_low (extract_self _))⟩

/-- Format I: the fields of a word made from them. -/
@[simp] theorem fields_payI (d a : BitVec 5) (imm : BitVec 9) :
    let w := mk c maj (payI d a imm)
    fD w = d ∧ fA w = a ∧ fI w = imm :=
  ⟨extract_mk _ _ _ (extract_high (x := d ++ a) (extract_high (extract_self _))),
    extract_mk _ _ _ (extract_high (x := d ++ a) (extract_low (extract_self _))),
    extract_mk _ _ _ (extract_low (extract_self _))⟩

/-- Formats L and D: the fields of a word made from them. -/
@[simp] theorem fields_payL (d : BitVec 5) (imm : BitVec 14) :
    let w := mk c maj (payL d imm)
    fD w = d ∧ fL w = imm :=
  ⟨extract_mk _ _ _ (extract_high (extract_self _)),
    extract_mk _ _ _ (extract_low (extract_self _))⟩

/-- Format M: the fields of a word made from them. -/
@[simp] theorem fields_payM (d a : BitVec 5) (t : BitVec 3) (off : BitVec 6) :
    let w := mk c maj (payM d a t off)
    fD w = d ∧ fA w = a ∧ fT w = t ∧ fO w = off :=
  ⟨extract_mk _ _ _ (extract_high (x := d ++ a ++ t) (extract_high (x := d ++ a) (extract_high (extract_self _)))),
    extract_mk _ _ _ (extract_high (x := d ++ a ++ t) (extract_high (x := d ++ a) (extract_low (extract_self _)))),
    extract_mk _ _ _ (extract_high (x := d ++ a ++ t) (extract_low (extract_self _))),
    extract_mk _ _ _ (extract_low (extract_self _))⟩

/-- Format P, register: the fields of a word made from them. -/
@[simp] theorem fields_payP (pd : BitVec 4) (a b : BitVec 5) (cond : BitVec 4) :
    let w := mk c maj (payP pd a b cond)
    fP w = pd ∧ fPA w = a ∧ fPB w = b ∧ fPC w = cond ∧ fZ w = 0#1 :=
  ⟨extract_mk _ _ _ (extract_high (x := pd ++ a ++ b ++ cond) (extract_high (x := pd ++ a ++ b)
    (extract_high (x := pd ++ a) (extract_high (extract_self _))))),
    extract_mk _ _ _ (extract_high (x := pd ++ a ++ b ++ cond) (extract_high (x := pd ++ a ++ b)
      (extract_high (x := pd ++ a) (extract_low (extract_self _))))),
    extract_mk _ _ _ (extract_high (x := pd ++ a ++ b ++ cond) (extract_high (x := pd ++ a ++ b) (extract_low
      (extract_self _)))),
    extract_mk _ _ _ (extract_high (x := pd ++ a ++ b ++ cond) (extract_low (extract_self _))),
    extract_mk _ _ _ (extract_low (extract_self _))⟩

/-- Format P, immediate: the fields of a word made from them. -/
@[simp] theorem fields_payPI (pd : BitVec 4) (a : BitVec 5) (cond : BitVec 4) (imm : BitVec 6) :
    let w := mk c maj (payPI pd a cond imm)
    fP w = pd ∧ fPA w = a ∧ fPCI w = cond ∧ fO w = imm :=
  ⟨extract_mk _ _ _ (extract_high (x := pd ++ a ++ cond) (extract_high (x := pd ++ a) (extract_high (extract_self _)))),
    extract_mk _ _ _ (extract_high (x := pd ++ a ++ cond) (extract_high (x := pd ++ a) (extract_low (extract_self _)))),
    extract_mk _ _ _ (extract_high (x := pd ++ a ++ cond) (extract_low (extract_self _))),
    extract_mk _ _ _ (extract_low (extract_self _))⟩

/-- Format Q: the fields of a word made from them. -/
@[simp] theorem fields_payQ (pd pa pb fn : BitVec 4) :
    let w := mk c maj (payQ pd pa pb fn)
    fP w = pd ∧ fQA w = pa ∧ fQB w = pb ∧ fQZ w = 0#3 ∧ fF w = fn :=
  ⟨extract_mk _ _ _ (extract_high (x := pd ++ pa ++ pb ++ 0#3) (extract_high (x := pd ++ pa ++ pb)
    (extract_high (x := pd ++ pa) (extract_high (extract_self _))))),
    extract_mk _ _ _ (extract_high (x := pd ++ pa ++ pb ++ 0#3) (extract_high (x := pd ++ pa ++ pb)
      (extract_high (x := pd ++ pa) (extract_low (extract_self _))))),
    extract_mk _ _ _ (extract_high (x := pd ++ pa ++ pb ++ 0#3) (extract_high (x := pd ++ pa ++ pb) (extract_low
      (extract_self _)))),
    extract_mk _ _ _ (extract_high (x := pd ++ pa ++ pb ++ 0#3) (extract_low (extract_self _))),
    extract_mk _ _ _ (extract_low (extract_self _))⟩

/-- The payload of br and bl is the offset. -/
@[simp] theorem fOff19_mk (off : BitVec 19) : fOff19 (mk c maj off) = off := extract_mk _ _ _ (extract_self off)
end

end Sys2Proof
end

section
/-!
PROOF. The codes and the M16 layouts (R49, R50, R57, R108, R140, R183, R220, R227, R262, R276): what was coded is read back.
-/

namespace Sys2Proof

/-! ### Codes -/

@[simp] theorem orderOf_orderCode (o : Order) : orderOf (orderCode o) = o := by cases o <;> rfl
@[simp] theorem scopeOf_scopeCode (s : Scope) : scopeOf (scopeCode s) = some s := by cases s <;> rfl
@[simp] theorem hintOf_hintCode (h : Hint) : hintOf (hintCode h) = some h := by cases h <;> rfl
@[simp] theorem rndOf_rndCode (r : Rnd) : rndOf (rndCode r) = some r := by cases r <;> rfl
@[simp] theorem fmtOf_fmtCode (f : Fmt) : fmtOf (fmtCode f) = some f := by cases f <;> rfl
@[simp] theorem condOf_condCode (c : Cond) : condOf (condCode c) = some c := by cases c <;> rfl
@[simp] theorem fcondOf_fcondCode (c : FCond) : fcondOf (fcondCode c) = some c := by cases c <;> rfl
@[simp] theorem amoOf_amoCode (op : AmoOp) : amoOf (amoCode op) = some op := by cases op <;> rfl
@[simp] theorem ldOf_ldCode (t : LdType) : ldOf (ldCode t) = some t := by cases t <;> rfl
@[simp] theorem stOf_stCode (t : StType) : stOf (stCode t) = some t := by cases t <;> rfl

/-! ### M16 layouts -/

/-- A bit is the field of width 1 at its place. -/
theorem getLsbD_of_field {n i : Nat} {x : BitVec n} {b : Bool} (h : x.extractLsb' i 1 = BitVec.ofBool b) :
    x.getLsbD i = b := by
  have := congrArg (BitVec.getLsbD · 0) h
  simpa using this

@[simp] theorem memOf_memBits (m : MemMod) : memOf (memBits m) = some m := by
  have hz : (memBits m).extractLsb' 8 8 = 0 :=
    extract_high (x := 0#8 ++ BitVec.ofBool m.w32 ++ hintCode m.hint ++ orderCode m.order)
      (extract_high (x := 0#8 ++ BitVec.ofBool m.w32 ++ hintCode m.hint)
        (extract_high (x := 0#8 ++ BitVec.ofBool m.w32) (extract_high (extract_self _))))
  have hw : (memBits m).getLsbD 7 = m.w32 := getLsbD_of_field <|
    extract_high (x := 0#8 ++ BitVec.ofBool m.w32 ++ hintCode m.hint ++ orderCode m.order)
      (extract_high (x := 0#8 ++ BitVec.ofBool m.w32 ++ hintCode m.hint)
        (extract_high (x := 0#8 ++ BitVec.ofBool m.w32) (extract_low (extract_self _))))
  have hh : (memBits m).extractLsb' 5 2 = hintCode m.hint :=
    extract_high (x := 0#8 ++ BitVec.ofBool m.w32 ++ hintCode m.hint ++ orderCode m.order)
      (extract_high (x := 0#8 ++ BitVec.ofBool m.w32 ++ hintCode m.hint) (extract_low (extract_self _)))
  have ho : (memBits m).extractLsb' 3 2 = orderCode m.order :=
    extract_high (x := 0#8 ++ BitVec.ofBool m.w32 ++ hintCode m.hint ++ orderCode m.order) (extract_low (extract_self _))
  have hs : (memBits m).extractLsb' 0 3 = scopeCode m.scope := extract_low (extract_self _)
  rw [memOf, hz, hw, hh, ho, hs]
  simp

@[simp] theorem fOf_fBits (m : FMod) : fOf (fBits m) = some m := by
  have hz : (fBits m).extractLsb' 11 5 = 0 :=
    extract_high (x := 0#5 ++ fmtCode m.dfmt ++ fmtCode m.sfmt)
      (extract_high (x := 0#5 ++ fmtCode m.dfmt) (extract_high (extract_self _)))
  have hd : (fBits m).extractLsb' 7 4 = fmtCode m.dfmt :=
    extract_high (x := 0#5 ++ fmtCode m.dfmt ++ fmtCode m.sfmt)
      (extract_high (x := 0#5 ++ fmtCode m.dfmt) (extract_low (extract_self _)))
  have hs : (fBits m).extractLsb' 3 4 = fmtCode m.sfmt :=
    extract_high (x := 0#5 ++ fmtCode m.dfmt ++ fmtCode m.sfmt) (extract_low (extract_self _))
  have hr : (fBits m).extractLsb' 0 3 = rndCode m.rnd := extract_low (extract_self _)
  rw [fOf, hz, hd, hs, hr]
  simp

@[simp] theorem fSrcOf_fBits (f : Fmt) : fSrcOf (fBits ⟨.f32, f, .rne⟩) = some ⟨.f32, f, .rne⟩ := by simp [fSrcOf]

@[simp] theorem vOf_vBits (m : VMod) : vOf (vBits m) = some m := by
  have ho : (vBits m).extractLsb' 8 8 = m.osc :=
    extract_high (x := m.osc ++ BitVec.ofBool m.dd ++ m.sub)
      (extract_high (x := m.osc ++ BitVec.ofBool m.dd) (extract_high (extract_self _)))
  have hd : (vBits m).getLsbD 7 = m.dd := getLsbD_of_field <|
    extract_high (x := m.osc ++ BitVec.ofBool m.dd ++ m.sub)
      (extract_high (x := m.osc ++ BitVec.ofBool m.dd) (extract_low (extract_self _)))
  have hs : (vBits m).extractLsb' 3 4 = m.sub :=
    extract_high (x := m.osc ++ BitVec.ofBool m.dd ++ m.sub) (extract_low (extract_self _))
  have hr : (vBits m).extractLsb' 0 3 = rndCode m.rnd := extract_low (extract_self _)
  rw [vOf, ho, hd, hs, hr]
  simp

@[simp] theorem caskOf_caskBits (m : CaskMod) : caskOf (caskBits m) = some m := by
  obtain ⟨rel, sz⟩ := m
  revert rel sz
  decide

@[simp] theorem cpyHintOf_cpyHintBits (h : Hint) : cpyHintOf (cpyHintBits h) = some h := by cases h <;> rfl
@[simp] theorem cpyEvOf_cpyEvBits (ev : Bool) : cpyEvOf (cpyEvBits ev) = some ev := by cases ev <;> rfl

end Sys2Proof
end

section
/-!
PROOF. The base word of each instruction of the opcode table, and what the decoder finds there (R42, R56 to R58).
-/

namespace Sys2Proof

/-! ### Windows -/

/-- The windows of a px.r payload are those packed into it (R43). -/
@[simp] theorem fields_packWins (d a b : BitVec 2) :
    (packWins d a b).extractLsb' 0 2 = d ∧ (packWins d a b).extractLsb' 2 2 = a ∧ (packWins d a b).extractLsb' 4 2 = b :=
  ⟨extract_low (extract_self _), extract_high (x := b ++ a) (extract_low (extract_self _)),
    extract_high (x := b ++ a) (extract_high (extract_self _))⟩

@[simp] theorem packWins_eq_zero (d a b : BitVec 2) : packWins d a b = 0#6 ↔ d = 0#2 ∧ a = 0#2 ∧ b = 0#2 := by
  revert d a b; decide

/-! ### What a base word stands for -/

/-- A candidate of the decoder is the base word of the instruction i, whose prefixes are used as u says: its immediate field, what
px.r and px.o may do, and what the chain is when its prefixes carry the windows, the immediate and the M16 of i. -/
structure Stands (i : Instr) (u : Uses) (k : Cand) : Prop where
  imm     : k.imm = u.imm.map fun x => (x.1, (BitVec.ofInt x.1 x.2).toNat)
  field   : ∀ x, u.imm = some x → 0 < x.1
  regs    : k.regs.isSome = u.wins.isSome
  useful  : u.wins.isSome = true → pxrUseless k i.windows = false
  noWins  : u.needR = false → i.windows = 0
  mods    : k.mod.isSome = u.mod.isSome
  default : u.needO = false → i.m16 = k.mod.getD 0
  build   : k.build u.ctl (i.windows.extractLsb' 0 2) (i.windows.extractLsb' 2 2) (i.windows.extractLsb' 4 2)
    ((u.imm.getD (0, 0)).2) i.m16 = some i

/-- The base word w is that of i. -/
structure IsBase (i : Instr) (u : Uses) (w : W32) : Prop where
  base   : i.base = some w
  notPre : isPrefix w = false
  sw     : w.getLsbD 31 = u.ctl.sw
  guard  : guardOf w = u.ctl.guard
  cand   : ∃ k, decodeBase w = some k ∧ Stands i u k

theorem isBase_mk {i : Instr} {u : Uses} {maj : BitVec 6} {p : BitVec 19} (hb : i.base = some (mk u.ctl maj p))
    (hm : maj.toNat < 0x3C) (hc : ∃ k, decodeMajor (mk u.ctl maj p) = some k ∧ Stands i u k) :
    IsBase i u (mk u.ctl maj p) where
  base := hb
  notPre := by
    have hn : ∀ n : BitVec 6, 0x3C ≤ n.toNat → (maj == n) = false := fun n h => by
      rw [beq_eq_false_iff_ne]
      rintro rfl
      omega
    rw [isPrefix, fMaj_mk, hn 0x3C (by decide), hn 0x3D (by decide), hn 0x3E (by decide)]
    simp
  sw := (control_mk u.ctl maj p).1
  guard := by simp
  cand := by simpa [decodeBase] using hc

/-! ### The default modifiers (R48) -/

@[simp] theorem memBits_memDefault : memBits WF.memDefault = 0#16 := rfl
@[simp] theorem memBits_devDefault : memBits WF.devDefault = 0x0003#16 := rfl
@[simp] theorem memBits_fenceDefault : memBits WF.fenceDefault = 0x001B#16 := rfl
@[simp] theorem fBits_fDefault : fBits WF.fDefault = 0#16 := rfl
@[simp] theorem fBits_binary32 : fBits ⟨.f32, .f32, .rne⟩ = 0#16 := rfl
@[simp] theorem vBits_vDefault : vBits WF.vDefault = 0#16 := rfl
@[simp] theorem caskBits_caskDefault : caskBits WF.caskDefault = 0#16 := rfl
@[simp] theorem cpyHintBits_norm : cpyHintBits .norm = 0#16 := rfl
@[simp] theorem cpyEvBits_false : cpyEvBits false = 0#16 := rfl

/-- An instruction of the opcode table has a base word, in which the decoder finds it, whenever its operands are legal. -/
def Found (i : Instr) : Prop := ∀ u, i.uses = some u → u.legal = true → ∃ w, IsBase i u w

/-- A device step has no words. -/
theorem found_deviceStep {i : Instr} (h : i.uses = none) : Found i := fun u hu => by simp [h] at hu

theorem found_mk {i : Instr} {u : Uses} {maj : BitVec 6} {p : BitVec 19} (hu : i.uses = some u)
    (hb : i.base = some (mk u.ctl maj p)) (hm : maj.toNat < 0x3C)
    (hc : u.legal = true → ∃ k, decodeMajor (mk u.ctl maj p) = some k ∧ Stands i u k) : Found i := by
  intro v hv hl
  obtain rfl : u = v := Option.some.inj (hu.symm.trans hv)
  exact ⟨_, isBase_mk hb hm (hc hl)⟩

section
variable (c : Ctl)

/-- The base words of the system group. -/
@[simp] theorem found_system :
    Found (.ill c) ∧ Found (.nop c) ∧ Found (.stop c) ∧ Found (.yield c) ∧ Found (.brk c) ∧ Found (.ifence c) ∧
    (∀ (d : Reg) (n : BitVec 10), Found (.sget c d n) ∧ Found (.sset c d n)) ∧
    (∀ n : BitVec 10, Found (.trap c n) ∧ Found (.hcall c n)) ∧
    (∀ d a : Reg, Found (.xret c d a) ∧ Found (.tlbinv c d a)) ∧
    ∀ d a b : Reg, Found (.rowctl c d a b) ∧ Found (.mbox c d a b) := by
  and_intros <;> intros <;> and_intros <;> refine found_mk rfl rfl (by decide) fun hl => ?_ <;> simp at hl <;>
    simp [decodeMajor, decode00, keep, hl] <;>
    constructor <;> simp +contextual [Instr.windows, Instr.m16, pxrUseless, Uses.needR, Uses.needO]

/-- The base words of the ALU group. -/
@[simp] theorem found_alu :
    ∀ d a b : Reg, Found (.add c d a b) ∧ Found (.sub c d a b) ∧ Found (.and c d a b) ∧ Found (.or c d a b) ∧
      Found (.xor c d a b) ∧ Found (.andn c d a b) ∧ Found (.orn c d a b) ∧ Found (.nor c d a b) ∧
      Found (.shl c d a b) ∧ Found (.shr c d a b) ∧ Found (.sra c d a b) ∧ Found (.rol c d a b) ∧
      Found (.min c d a b) ∧ Found (.max c d a b) ∧ Found (.minz c d a b) ∧ Found (.maxz c d a b) := by
  intros; and_intros <;> refine found_mk rfl rfl (by decide) fun _ => ?_ <;> simp [decodeMajor, decode01] <;>
    constructor <;> simp +contextual [Instr.windows, Instr.m16, pxrUseless, Uses.needR, Uses.needO]

/-- The base words of the MUL group. -/
@[simp] theorem found_mul :
    (∀ d a b : Reg, Found (.mul c d a b) ∧ Found (.mulh c d a b) ∧ Found (.mulhz c d a b) ∧ Found (.div c d a b) ∧
      Found (.divz c d a b) ∧ Found (.rem c d a b) ∧ Found (.remz c d a b)) ∧
    ∀ d a : Reg, Found (.abs c d a) ∧ Found (.neg c d a) ∧ Found (.clz c d a) ∧ Found (.ctz c d a) ∧
      Found (.popc c d a) ∧ Found (.bswap c d a) := by
  and_intros <;> intros <;> and_intros <;> refine found_mk rfl rfl (by decide) fun _ => ?_ <;>
    simp [decodeMajor, decode02, keep] <;>
    constructor <;> simp +contextual [Instr.windows, Instr.m16, pxrUseless, Uses.needR, Uses.needO]

/-- The base words of the BIT group. -/
@[simp] theorem found_bit :
    (∀ d a b : Reg, Found (.bfx c d a b) ∧ Found (.bfxz c d a b) ∧ Found (.bfi c d a b)) ∧
    ∀ d a : Reg, Found (.sxb c d a) ∧ Found (.sxh c d a) ∧ Found (.sxw c d a) ∧ Found (.zxb c d a) ∧
      Found (.zxh c d a) ∧ Found (.zxw c d a) := by
  and_intros <;> intros <;> and_intros <;> refine found_mk rfl rfl (by decide) fun _ => ?_ <;>
    simp [decodeMajor, decode03, keep] <;>
    constructor <;> simp +contextual [Instr.windows, Instr.m16, pxrUseless, Uses.needR, Uses.needO]

/-- The base words of integer compares. -/
@[simp] theorem found_compare :
    (∀ (p : BitVec 4) (cond : Cond) (d a : Reg), Found (.cmp c p cond d a)) ∧
    ∀ (p : BitVec 4) (cond : Cond) (d : Reg) (v : Int), Found (.cmpi c p cond d v) := by
  and_intros <;> intros <;> refine found_mk rfl rfl (by decide) fun _ => ?_ <;>
    simp [decodeMajor, decode04, decode05, keep] <;>
    constructor <;> simp +contextual [Instr.windows, Instr.m16, pxrUseless, Uses.needR, Uses.needO]

/-- The base words of the predicate group. -/
@[simp] theorem found_predicate :
    (∀ p q r : BitVec 4, Found (.pand c p q r) ∧ Found (.por c p q r) ∧ Found (.pxor c p q r) ∧
      Found (.pandn c p q r)) ∧
    (∀ p q : BitVec 4, Found (.pnot c p q) ∧ Found (.pmov c p q)) ∧
    ∀ p : BitVec 4, Found (.pset c p) ∧ Found (.pclr c p) ∧ Found (.pget c p) ∧ Found (.pput c p) := by
  and_intros <;> intros <;> and_intros <;> refine found_mk rfl rfl (by decide) fun _ => ?_ <;>
    simp [decodeMajor, decode06, keep] <;>
    constructor <;> simp +contextual [Instr.windows, Instr.m16, pxrUseless, Uses.needR, Uses.needO]

/-- The base words of the immediate groups. -/
@[simp] theorem found_immediate :
    (∀ (d a : Reg) (v : Int), Found (.addi c d a v) ∧ Found (.andi c d a v) ∧ Found (.ori c d a v) ∧
      Found (.xori c d a v) ∧ Found (.shli c d a v) ∧ Found (.shri c d a v) ∧ Found (.srai c d a v) ∧
      Found (.muli c d a v)) ∧
    ∀ (d : Reg) (v : Int), Found (.movi c d v) ∧ Found (.adr c d v) := by
  and_intros <;> intros <;> and_intros <;> refine found_mk rfl rfl (by decide) fun hl => ?_ <;> simp at hl <;>
    simp [decodeMajor, decode08, decode09, decode0A, decode0B, decode0C, decode0D, decode0E, decode0F, decode10, decode11,
      hl] <;> constructor <;> simp +contextual [Instr.windows, Instr.m16, pxrUseless, Uses.needR, Uses.needO]

/-- The base words of control flow. -/
@[simp] theorem found_flow :
    (∀ o19 : BitVec 19, Found (.br c o19) ∧ Found (.bl c o19)) ∧
    (∀ d : Reg, Found (.jr c d)) ∧
    (∀ d a : Reg, Found (.jlr c d a)) ∧
    ∀ (d : Reg) (o14 : BitVec 14), Found (.dbnz c d o14) := by
  and_intros <;> intros <;> and_intros <;> refine found_mk rfl rfl (by decide) fun _ => ?_ <;>
    simp [decodeMajor, decode12, decode13, decode14, decode15, keep] <;>
    constructor <;> simp +contextual [Instr.windows, Instr.m16, pxrUseless, Uses.needR, Uses.needO]

/-- The base words of loads, stores, atomics and fences. -/
@[simp] theorem found_memory :
    (∀ (d a : Reg) (lt : LdType) (v : Int) (m : MemMod), Found (.ld c d a lt v m) ∧ Found (.ldl c d a lt v m)) ∧
    (∀ (d a : Reg) (st : StType) (v : Int) (m : MemMod), Found (.st c d a st v m) ∧ Found (.stl c d a st v m)) ∧
    (∀ (d a b : Reg) (op : AmoOp) (m : MemMod), Found (.amo c d a b op m)) ∧
    (∀ m : MemMod, Found (.fence c m)) ∧
    ∀ (d : Reg) (m : MemMod), Found (.pf c d m) := by
  and_intros <;> intros <;> and_intros <;> refine found_mk rfl rfl (by decide) fun hl => ?_ <;> simp at hl <;>
    simp [decodeMajor, decode18, decode19, decode1A, decode1B, decode1C, decode1D, keep, hl] <;>
    constructor <;> simp +contextual [Instr.windows, Instr.m16, pxrUseless, Uses.needR, Uses.needO]

/-- The base words of the cask group. -/
@[simp] theorem found_cask :
    (∀ (d a b : Reg) (m : CaskMod), Found (.app c d a b m) ∧ Found (.appl c d a b m)) ∧
    ∀ d a : Reg, Found (.seal c d a) ∧ Found (.tail c d a) := by
  and_intros <;> intros <;> and_intros <;> refine found_mk rfl rfl (by decide) fun hl => ?_ <;> simp at hl <;>
    simp [decodeMajor, decode1E, keep, hl] <;>
    constructor <;> simp +contextual [Instr.windows, Instr.m16, pxrUseless, Uses.needR, Uses.needO]

/-- The base words of the arithmetic floating group. -/
@[simp] theorem found_float :
    (∀ (d a b : Reg) (m : FMod), Found (.fadd c d a b m) ∧ Found (.fsub c d a b m) ∧ Found (.fmul c d a b m) ∧
      Found (.fdiv c d a b m) ∧ Found (.fmin c d a b m) ∧ Found (.fmax c d a b m) ∧ Found (.fcpys c d a b m)) ∧
    (∀ (d a : Reg) (m : FMod), Found (.fsqrt c d a m) ∧ Found (.fabs c d a m) ∧ Found (.fneg c d a m)) ∧
    ∀ (d a : Reg) (f : Fmt), Found (.fclass c d a f) := by
  and_intros <;> intros <;> and_intros <;> refine found_mk rfl rfl (by decide) fun hl => ?_ <;> simp at hl <;>
    simp [decodeMajor, decode20, keep, hl] <;>
    constructor <;> simp +contextual [Instr.windows, Instr.m16, pxrUseless, Uses.needR, Uses.needO]

/-- The base words of the fused group, floating compares and conversions. -/
@[simp] theorem found_fused :
    (∀ (d a b : Reg) (m : FMod), Found (.fma c d a b m) ∧ Found (.fms c d a b m) ∧ Found (.fnma c d a b m) ∧
      Found (.fnms c d a b m)) ∧
    (∀ (p : BitVec 4) (fcond : FCond) (d a : Reg) (f : Fmt), Found (.fcmp c p fcond d a f)) ∧
    ∀ (d a : Reg) (m : FMod), Found (.fcvt c d a m) ∧ Found (.fcvti c d a m) ∧ Found (.fcvtf c d a m) := by
  and_intros <;> intros <;> and_intros <;> refine found_mk rfl rfl (by decide) fun hl => ?_ <;> simp at hl <;>
    simp [decodeMajor, decode21, decode22, decode23, keep, hl] <;>
    constructor <;> simp +contextual [Instr.windows, Instr.m16, pxrUseless, Uses.needR, Uses.needO]

/-- The base words of the claim group. -/
@[simp] theorem found_claim :
    (∀ d a : Reg, Found (.vclaim c d a) ∧ Found (.vwait c d a) ∧ Found (.vstat c d a)) ∧
    ∀ d : Reg, Found (.vfree c d) := by
  and_intros <;> intros <;> and_intros <;> refine found_mk rfl rfl (by decide) fun _ => ?_ <;>
    simp [decodeMajor, decode28, keep] <;>
    constructor <;> simp +contextual [Instr.windows, Instr.m16, pxrUseless, Uses.needR, Uses.needO]

/-- The base words of the two-source vector group. -/
@[simp] theorem found_vectorBinary :
    ∀ (d a b : Reg) (m : VMod), Found (.vadd c d a b m) ∧ Found (.vsub c d a b m) ∧ Found (.vmul c d a b m) ∧
      Found (.vmin c d a b m) ∧ Found (.vmax c d a b m) ∧ Found (.vdiv c d a b m) ∧ Found (.vand c d a b m) ∧
      Found (.vor c d a b m) ∧ Found (.vxor c d a b m) ∧ Found (.vshl c d a b m) ∧ Found (.vshr c d a b m) ∧
      Found (.vsra c d a b m) ∧ Found (.vabsd c d a b m) := by
  intros; and_intros <;> refine found_mk rfl rfl (by decide) fun hl => ?_ <;> simp at hl <;>
    simp [decodeMajor, decode29, hl] <;>
    constructor <;> simp +contextual [Instr.windows, Instr.m16, pxrUseless, Uses.needR, Uses.needO]

/-- The base words of the other elementwise vector group. -/
@[simp] theorem found_vectorUnary :
    ∀ (d a b : Reg) (m : VMod), Found (.vfma c d a b m) ∧ Found (.vfms c d a b m) ∧ Found (.vneg c d a b m) ∧
      Found (.vabs c d a b m) ∧ Found (.vsqrt c d a b m) ∧ Found (.vrsq c d a b m) ∧ Found (.vrcp c d a b m) ∧
      Found (.vexp2 c d a b m) ∧ Found (.vlog2 c d a b m) ∧ Found (.vcvt c d a b m) ∧ Found (.vmov c d a b m) ∧
      Found (.vfill c d a b m) ∧ Found (.vclamp c d a b m) ∧ Found (.viota c d a b m) ∧ Found (.vsel c d a b m) := by
  intros; and_intros <;> refine found_mk rfl rfl (by decide) fun hl => ?_ <;> simp at hl <;>
    simp [decodeMajor, decode2A, hl] <;>
    constructor <;> simp +contextual [Instr.windows, Instr.m16, pxrUseless, Uses.needR, Uses.needO]

/-- The base words of reductions, data movement and function tables. -/
@[simp] theorem found_vectorMove :
    ∀ (d a b : Reg) (m : VMod), Found (.vredsum c d a b m) ∧ Found (.vredmax c d a b m) ∧
      Found (.vredmin c d a b m) ∧ Found (.vscan c d a b m) ∧ Found (.vgat c d a b m) ∧ Found (.vsct c d a b m) ∧
      Found (.vcmp c d a b m) ∧ Found (.vpack c d a b m) ∧ Found (.vcnt c d a b m) ∧ Found (.vfnld c d a b m) ∧
      Found (.vfn c d a b m) ∧ Found (.vfnst c d a b m) := by
  intros; and_intros <;> refine found_mk rfl rfl (by decide) fun hl => ?_ <;> simp at hl <;>
    simp [decodeMajor, decode2B, decode2C, hl] <;>
    constructor <;> simp +contextual [Instr.windows, Instr.m16, pxrUseless, Uses.needR, Uses.needO]

/-- The base words of the copy group. -/
@[simp] theorem found_copy :
    (∀ (d a : Reg) (h : Hint), Found (.cpy c d a h) ∧ Found (.cpyz c d a h)) ∧
    (∀ (d a b : Reg) (h : Hint), Found (.cpy2 c d a b h) ∧ Found (.cpyg c d a b h)) ∧
    (∀ (d : Reg) (e : Bool), Found (.cpyc c d e)) ∧
    (∀ (d : Reg) (k : BitVec 5) (e : Bool), Found (.cpyw c d k e)) ∧
    ∀ d a : Reg, Found (.dclone c d a) ∧ Found (.dzero c d a) ∧ Found (.scrub c d a) ∧ Found (.cpyq c d a) := by
  and_intros <;> intros <;> and_intros <;> refine found_mk rfl rfl (by decide) fun hl => ?_ <;> simp at hl <;>
    simp [decodeMajor, decode30, keep, hl] <;>
    constructor <;> simp +contextual [Instr.windows, Instr.m16, pxrUseless, Uses.needR, Uses.needO]

/-- The base words of tasks, barriers and events. -/
@[simp] theorem found_sync :
    (∀ d : Reg, Found (.post c d) ∧ Found (.evret c d)) ∧
    (∀ d a b : Reg, Found (.await c d a b) ∧ Found (.rdv c d a b) ∧ Found (.wait c d a b) ∧ Found (.evmask c d a b)) ∧
    (∀ d a : Reg, Found (.tqry c d a) ∧ Found (.fork c d a) ∧ Found (.evset c d a)) ∧
    (∀ (d : Reg) (k l : BitVec 5), Found (.bar c d k l)) ∧
    (∀ k : BitVec 5, Found (.arrive c k)) ∧
    Found (.park c) := by
  and_intros <;> intros <;> and_intros <;> refine found_mk rfl rfl (by decide) fun hl => ?_ <;> simp at hl <;>
    simp [decodeMajor, decode31, decode32, decode33, keep, hl] <;>
    constructor <;> simp +contextual [Instr.windows, Instr.m16, pxrUseless, Uses.needR, Uses.needO]

end

/-- Every instruction of the opcode table has a base word, in which the decoder finds it (R56 to R58). -/
theorem found (i : Instr) : Found i := by
  cases h : i.uses with
  | none => exact found_deviceStep h
  | some u => cases i <;> cases h <;> simp

end Sys2Proof
end

section
/-!
PROOF. Chains (R43 to R48): what the words in front of a base word leave, the value that the px.i payloads widen to, and O11.
-/

namespace Sys2Proof

/-! ### The widened immediate (R45) -/

/-- The remainder by a product, digit by digit. -/
theorem emod_mul_eq (x : Int) {a b : Int} (ha : 0 < a) (hb : 0 < b): x % (a * b) = x % a + a * (x / a % b) := by
  have h1 := Int.emod_add_mul_ediv x a
  have h2 := Int.emod_add_mul_ediv (x / a) b
  have h3 : x = (x % a + a * (x / a % b)) + a * b * (x / a / b) := by
    calc x = x % a + a * (x / a) := h1.symm
      _ = x % a + a * (x / a % b + b * (x / a / b)) := by rw [h2]
      _ = _ := by ring
  have p1 := Int.emod_nonneg x ha.ne'
  have p2 := Int.emod_lt_of_pos x ha
  have p3 := Int.emod_nonneg (x / a) hb.ne'
  have p4 := Int.emod_lt_of_pos (x / a) hb
  conv_lhs => rw [h3]
  rw [Int.add_mul_emod_self_left]
  apply Int.emod_eq_of_lt
  · positivity
  · nlinarith

theorem toNat_ofInt_cast (n : Nat) (v : Int) : ((BitVec.ofInt n v).toNat : Int) = v % 2 ^ n := by
  rw [BitVec.toNat_ofInt, Int.toNat_of_nonneg (Int.emod_nonneg _ (by positivity))]
  simp

/-- The px.i payloads, most significant first, are the digits of the value above the base field (R45). -/
theorem foldl_pxiPayloads (w : Nat) (v : Int) (k a : Nat) :
    (((pxiPayloads w v k).foldl (fun v q => v * 2 ^ 19 + q.toNat) a : Nat) : Int) = a * 2 ^ (19 * k) + v / 2 ^ w % 2 ^ (19 * k)
      := by
  induction k generalizing a with
  | zero => simp [pxiPayloads]
  | succ k ih =>
    have hd : v / ((2 ^ (19 * k + w) : Nat) : Int) = v / 2 ^ w / 2 ^ (19 * k) := by
      rw [Int.ediv_ediv_of_nonneg (by positivity), ← pow_add, Nat.add_comm]
      norm_cast
    have hm : (2 : Int) ^ (19 * (k + 1)) = 2 ^ (19 * k) * 2 ^ 19 := by rw [← pow_add]; rfl
    rw [pxiPayloads, List.foldl_cons, ih, hm, emod_mul_eq _ (by positivity) (by positivity), hd, Nat.cast_add,
      toNat_ofInt_cast]
    push_cast
    ring

theorem widen_pxiPayloads (w k : Nat) (v : Int) (hw : 0 < w) (hv : WF.fits (19 * k + w) v = true) :
    widen (pxiPayloads w v k) w (BitVec.ofInt w v).toNat = v := by
  obtain ⟨n, hn⟩ : ∃ n, 19 * k + w = n + 1 := ⟨19 * k + w - 1, by omega⟩
  have hd : (((pxiPayloads w v k).foldl (fun v q => v * 2 ^ 19 + q.toNat) 0 * 2 ^ w + (BitVec.ofInt w v).toNat : Nat) : Int) =
      v % (2 * 2 ^ n) := by
    have hp : (2 : Int) * 2 ^ n = 2 ^ w * 2 ^ (19 * k) := by rw [← pow_succ', ← hn, pow_add, mul_comm]
    rw [Nat.cast_add, Nat.cast_mul, foldl_pxiPayloads, toNat_ofInt_cast, hp, emod_mul_eq _ (by positivity) (by positivity)]
    push_cast
    ring
  simp only [WF.fits, hn, Nat.add_sub_cancel, Bool.and_eq_true, decide_eq_true_eq] at hv
  simp only [widen, pxiPayloads_length, hn, Nat.add_sub_cancel]
  generalize (pxiPayloads w v k).foldl (fun v q => v * 2 ^ 19 + q.toNat) 0 * 2 ^ w + (BitVec.ofInt w v).toNat = V at hd ⊢
  rw [pow_succ]
  push_cast at hv ⊢
  have hpos : (0 : Int) < 2 ^ n := by positivity
  have hc : V < 2 ^ n ↔ (V : Int) < 2 ^ n := by exact_mod_cast Iff.rfl
  rw [hd] at hc ⊢ 
  generalize (2 : Int) ^ n = P at *
  by_cases h0 : 0 ≤ v
  · have : v % (2 * P) = v := Int.emod_eq_of_lt h0 (by omega)
    rw [if_pos (by omega), this]
  · have : v % (2 * P) = v + 2 * P := by
      rw [← Int.add_emod_right]
      exact Int.emod_eq_of_lt (by omega) (by omega)
    rw [if_neg (by omega), this]
    omega
/-! ### Prefix words (R43) -/

theorem fields_prefix (maj : BitVec 6) (p : BitVec 19) :
    let w : W32 := 0#7 ++ maj ++ p
    w.extractLsb' 25 7 = 0#7 ∧ fMaj w = maj ∧ fOff19 w = p :=
  ⟨extract_high (x := 0#7 ++ maj) (extract_high (extract_self _)), extract_high (x := 0#7 ++ maj) (extract_low
    (extract_self _)),
    extract_low (extract_self _)⟩

theorem scan_pxiWord (p : Pre) (q : BitVec 19) (h : p.len < 4) :
    scan p (pxiWord q) = .more ⟨p.qs ++ [q], p.firstI.or (some p.len), p.pxr, p.pxo, p.len + 1⟩ := by
  obtain ⟨h1, h2, h3⟩ := fields_prefix 0x3C#6 q
  simp only [scan, isPrefix, pxiWord, h1, h2, h3]
  cases hf : p.firstI <;> simp [Nat.not_le.mpr h]

theorem scan_pxrWord (p : Pre) (b : BitVec 6) (h : p.len < 4) (hr : p.pxr = none) :
    scan p (pxrWord b) = .more ⟨p.qs, p.firstI, some (p.len, b), p.pxo, p.len + 1⟩ := by
  have e : pxrWord b = 0#7 ++ 0x3D#6 ++ (0#13 ++ b) := BitVec.append_assoc
  obtain ⟨h1, h2, -⟩ := fields_prefix 0x3D#6 (0#13 ++ b)
  have hz : (pxrWord b).extractLsb' 6 13 = 0#13 := extract_high (x := 0#7 ++ 0x3D#6 ++ 0#13) (extract_low (extract_self _))
  have hb : (pxrWord b).extractLsb' 0 6 = b := extract_low (extract_self _)
  rw [← e] at h1 h2
  simp only [scan, isPrefix, h1, h2, hz, hb, hr]
  simp [Nat.not_le.mpr h]

theorem scan_pxoWord (p : Pre) (m : BitVec 16) (h : p.len < 4) (ho : p.pxo = none) :
    scan p (pxoWord m) = .more ⟨p.qs, p.firstI, p.pxr, some (p.len, 0#3 ++ m), p.len + 1⟩ := by
  have e : pxoWord m = 0#7 ++ 0x3E#6 ++ (0#3 ++ m) := BitVec.append_assoc
  obtain ⟨h1, h2, h3⟩ := fields_prefix 0x3E#6 (0#3 ++ m)
  simp only [scan, isPrefix, e, h1, h2, h3, ho]
  simp [Nat.not_le.mpr h]

/-! ### Runs of prefixes -/

/-- The words are all prefixes, and lead from the prefixes p to the prefixes q (R44). -/
inductive Scans : Pre → List W32 → Pre → Prop
  | nil (p : Pre) : Scans p [] p
  | cons {p p' q : Pre} {w : W32} {ws : List W32} (h : scan p w = .more p') (t : Scans p' ws q) : Scans p (w :: ws) q

theorem Scans.append {p q r : Pre} {vs ws : List W32} (h : Scans p vs q) (t : Scans q ws r) : Scans p (vs ++ ws) r := by
  induction h with
  | nil => exact t
  | cons h _ ih => exact .cons h (ih t)

theorem Scans.decodeFrom_append {p q : Pre} {ws : List W32} (h : Scans p ws q) (t : List W32) :
    decodeFrom p (ws ++ t) = decodeFrom q t := by
  induction h with
  | nil => rfl
  | cons h _ ih => rw [List.cons_append, decodeFrom, h]; exact ih

/-- A part of the prefixes of a chain decides nothing. -/
theorem Scans.decodeFrom_take {p q : Pre} {ws : List W32} (h : Scans p ws q) (n : Nat) : decodeFrom p (ws.take n) = .short := by
  induction h generalizing n with
  | nil => simp [decodeFrom]
  | cons h _ ih =>
    cases n with
    | zero => rfl
    | succ n => rw [List.take_succ_cons, decodeFrom, h]; exact ih n

theorem scans_pxi (qs : List (BitVec 19)) (p : Pre) (h : p.len + qs.length ≤ 4) :
    Scans p (qs.map pxiWord)
      ⟨p.qs ++ qs, if qs = [] then p.firstI else p.firstI.or (some p.len), p.pxr, p.pxo, p.len + qs.length⟩ := by
  induction qs generalizing p with
  | nil => simpa using Scans.nil p
  | cons q qs ih =>
    rw [List.length_cons] at h
    refine .cons (scan_pxiWord p q (by omega)) ?_
    have := ih ⟨p.qs ++ [q], p.firstI.or (some p.len), p.pxr, p.pxo, p.len + 1⟩ (by simp only; omega)
    cases hf : p.firstI <;> simpa [hf, Nat.add_assoc, Nat.add_comm 1] using this

/-- The prefixes that px.o, px.r and px.i words in this order leave. -/
def prefixesOf (o r : Bool) (m : BitVec 16) (b : BitVec 6) (qs : List (BitVec 19)) : Pre :=
  ⟨qs, if qs = [] then none else some (WF.one o + WF.one r), if r then some (WF.one o, b) else none,
    if o then some (0, 0#3 ++ m) else none, WF.one o + WF.one r + qs.length⟩

theorem scans_prefixes (o r : Bool) (m : BitVec 16) (b : BitVec 6) (qs : List (BitVec 19))
    (h : WF.one o + WF.one r + qs.length ≤ 4) :
    Scans .empty ((if o then [pxoWord m] else []) ++ (if r then [pxrWord b] else []) ++ qs.map pxiWord)
      (prefixesOf o r m b qs) := by
  have ho : Scans .empty (if o then [pxoWord m] else []) (prefixesOf o false m b []) := by
    cases o
    · exact .nil _
    · exact .cons (scan_pxoWord .empty m (by decide) rfl) (.nil _)
  have hr : Scans (prefixesOf o false m b []) (if r then [pxrWord b] else []) (prefixesOf o r m b []) := by
    cases r
    · exact .nil _
    · exact .cons (scan_pxrWord _ b (by cases o <;> simp [prefixesOf, WF.one]) rfl) (.nil _)
  have hi := scans_pxi qs (prefixesOf o r m b []) (by simpa [prefixesOf] using h)
  exact (ho.append hr).append (by simpa [prefixesOf] using hi)

/-! ### The prefixes of an instruction -/

/-- How the prefixes of an instruction are made up: which of px.o and px.r stand there, and the px.i payloads. -/
structure Prefixes (i : Instr) (u : Uses) (o r : Bool) (qs : List (BitVec 19)) : Prop where
  words : prefixWords i u = (if o then [pxoWord i.m16] else []) ++ (if r then [pxrWord i.windows] else []) ++ qs.map pxiWord
  hasO  : o = true → u.mod.isSome = true
  noO   : o = false → u.needO = false
  hasR  : r = true → u.wins.isSome = true
  noR   : r = false → u.needR = false
  hasI  : qs ≠ [] → u.imm.isSome = true
  imm   : ∀ x, u.imm = some x → qs = pxiPayloads x.1 x.2 u.rest

theorem Uses.mod_of_needO {u : Uses} (h : u.needO = true) : u.mod.isSome = true := by
  simp only [Uses.needO, beq_iff_eq] at h
  simp [h]

theorem Uses.wins_of_needR {u : Uses} (h : u.needR = true) : u.wins.isSome = true := by
  cases hw : u.wins <;> simp [Uses.needR, hw] at h ⊢

theorem WF.one_le (b : Bool) : WF.one b ≤ 1 := by cases b <;> decide

theorem exists_prefixes (i : Instr) (u : Uses) (h : u.prefixOk = true) : ∃ o r qs, Prefixes i u o r qs := by
  cases hi : u.imm with
  | some x =>
    refine ⟨u.needO, u.needR, pxiPayloads x.1 x.2 u.rest, ?_, Uses.mod_of_needO, id, Uses.wins_of_needR, id, fun _ => by simp
      [hi],
      fun y hy => by cases hi.symm.trans hy; rfl⟩
    rw [prefixWords, hi]
  | none =>
    have hrest : u.rest ≤ WF.one (u.wins.isSome && !u.needR) + WF.one (u.mod.isSome && !u.needO) := by
      simp only [Uses.prefixOk, hi, Bool.and_eq_true, decide_eq_true_eq] at h
      exact h.2
    have hmod : WF.one (u.wins.isSome && !u.needR) < u.rest → u.mod.isSome = true := fun hlt => by
      cases hm : u.mod.isSome with
      | true => rfl
      | false =>
        rw [hm, Bool.false_and] at hrest
        exact absurd hrest (Nat.not_le.mpr hlt)
    refine ⟨_, _, [], by simp only [prefixWords, hi]; exact (List.append_nil _).symm, ?_, ?_, ?_, ?_, fun e => absurd rfl e,
      fun y hy => by cases hi.symm.trans hy⟩
    · intro ho
      simp only [Bool.or_eq_true] at ho
      obtain (hO | h2) | h1 := ho
      · exact Uses.mod_of_needO hO
      · rw [beq_iff_eq] at h2
        exact hmod (by rw [h2]; exact lt_of_le_of_lt (WF.one_le _) (by decide))
      · rw [Bool.and_eq_true, beq_iff_eq] at h1
        have hw : (u.wins.isSome && !u.needR) = false := by
          rcases (Bool.or_eq_true _ _).mp h1.2 with hr | hn
          · simp [hr]
          · simp [Option.isNone_iff_eq_none.mp hn]
        exact hmod (by rw [h1.1, hw]; decide)
    · intro ho
      simp only [Bool.or_eq_false_iff] at ho
      exact ho.1.1
    · intro hr
      simp only [Bool.or_eq_true, Bool.and_eq_true] at hr
      exact hr.elim Uses.wins_of_needR And.left
    · intro hr
      exact (Bool.or_eq_false_iff.mp hr).1

/-! ### The base word decides -/

theorem useless_prefixesOf {i : Instr} {u : Uses} {k : Cand} {o r : Bool} {qs : List (BitVec 19)} (hk : Stands i u k)
    (hp : Prefixes i u o r qs) : useless k (prefixesOf o r i.m16 i.windows qs) = none := by
  have hI : (if k.imm.isNone then (prefixesOf o r i.m16 i.windows qs).firstI else none) = none := by
    rw [hk.imm]
    cases hi : u.imm with
    | some x => rfl
    | none =>
      have hq : qs = [] := by
        by_contra hq
        simpa [hi] using hp.hasI hq
      simp [prefixesOf, hq]
  have hR : ((prefixesOf o r i.m16 i.windows qs).pxr.bind fun x => if pxrUseless k x.2 then some x.1 else none) = none := by
    cases r with
    | false => rfl
    | true => simp [prefixesOf, hk.useful (hp.hasR rfl)]
  have hO : ((prefixesOf o r i.m16 i.windows qs).pxo.bind fun x =>
      if k.mod.isNone || x.2.extractLsb' 16 3 != 0 then some x.1 else none) = none := by
    cases o with
    | false => rfl
    | true =>
      have hm : k.mod.isNone = false := by rw [← Option.not_isSome, hk.mods, hp.hasO rfl]; rfl
      have hz : (0#3 ++ i.m16).extractLsb' 16 3 = 0#3 := extract_high (extract_self _)
      simp [prefixesOf, hm, hz]
  rw [useless, hI, hR, hO]
  rfl

/-- A chain whose prefixes all have a use is what its base word makes of them (R44 to R48). -/
theorem finish_eq {p : Pre} {w : W32} {k : Cand} {i : Instr} {b : BitVec 6} (hd : decodeBase w = some k)
    (hu : useless k p = none) (hb : (p.pxr.map (·.2)).getD 0 = b)
    (hk : k.build ⟨w.getLsbD 31, guardOf w, p.len⟩ (b.extractLsb' 0 2) (b.extractLsb' 2 2) (b.extractLsb' 4 2)
      ((k.imm.map fun x => widen p.qs x.1 x.2).getD 0) ((p.pxo.map (·.2.extractLsb' 0 16)).getD (k.mod.getD 0)) = some i)
    (hl : i.operandsLegal = true) : finish p w = .ok i (p.len + 1) := by
  subst hb
  obtain ⟨imm, regs, mod, build⟩ := k
  obtain ⟨qs, firstI, pxr, pxo, len⟩ := p
  simp only [finish, hd, hu]
  cases imm <;> cases pxr <;> cases pxo <;> simp_all

/-- A chain of an instruction is decided at its base word, and is that instruction (R44). -/
theorem finish_prefixesOf {i : Instr} {u : Uses} {w : W32} {o r : Bool} {qs : List (BitVec 19)} (hu : i.uses = some u)
    (hw : IsBase i u w) (hp : Prefixes i u o r qs) (hl : (prefixesOf o r i.m16 i.windows qs).len = u.ctl.len)
    (hwf : i.wellFormed = true) : finish (prefixesOf o r i.m16 i.windows qs) w = .ok i (u.ctl.len + 1) := by
  obtain ⟨k, hd, hk⟩ := hw.cand
  simp only [Instr.wellFormed, Instr.immediateFits, hu, Bool.and_eq_true] at hwf
  obtain ⟨⟨-, himm⟩, hlegal⟩ := hwf
  have hi : (k.imm.map fun x => widen qs x.1 x.2).getD 0 = (u.imm.getD (0, 0)).2 := by
    rw [hk.imm]
    cases hx : u.imm with
    | none => rfl
    | some x =>
      simp only [Uses.immOk, hx] at himm
      simp only [Option.map_some, Option.getD_some, hp.imm x hx]
      exact widen_pxiPayloads _ _ _ (hk.field x hx) himm
  have hb : ((prefixesOf o r i.m16 i.windows qs).pxr.map (·.2)).getD 0 = i.windows := by
    cases r with
    | true => rfl
    | false => exact (hk.noWins (hp.noR rfl)).symm
  have hm : ((prefixesOf o r i.m16 i.windows qs).pxo.map (·.2.extractLsb' 0 16)).getD (k.mod.getD 0) = i.m16 := by
    cases o with
    | true => exact extract_low (extract_self _)
    | false => exact (hk.default (hp.noO rfl)).symm
  have hc : (⟨w.getLsbD 31, guardOf w, (prefixesOf o r i.m16 i.windows qs).len⟩ : Ctl) = u.ctl := by
    rw [hw.sw, hw.guard, hl]
  rw [← hl]
  exact finish_eq hd (useless_prefixesOf hk hp) hb (by rw [hc, hm]; exact hi ▸ hk.build) hlegal

/-- The words of a well-formed instruction are its prefixes and its base word. -/
theorem encode_eq {i : Instr} {u : Uses} {w : W32} (hu : i.uses = some u) (hw : i.base = some w) (h : i.wellFormed = true) :
    encode i = some (prefixWords i u ++ [w]) := by
  simp [encode, hu, hw, h]

/-- Settles O11: the words in front of the base word are all met as prefixes, and its base word then decides the chain. -/
theorem decodeOfEncode : Obligations.DecodeOfEncode := by
  intro i u hu h
  have hwf := h
  simp only [Instr.wellFormed, Instr.prefixesFit, Instr.operandsLegal, hu, Bool.and_eq_true] at hwf
  obtain ⟨⟨hpre, -⟩, hlegal⟩ := hwf
  obtain ⟨w, hw⟩ := found i u hu hlegal
  obtain ⟨o, r, qs, hp⟩ := exists_prefixes i u hpre
  have hlen := prefixWords_length i u hpre
  have hl : (prefixesOf o r i.m16 i.windows qs).len = u.ctl.len := by
    rw [← hlen, hp.words]
    cases o <;> cases r <;> simp [prefixesOf, WF.one] <;> omega
  have h4 : u.ctl.len ≤ 4 := by
    simp only [Uses.prefixOk, Bool.and_eq_true, decide_eq_true_eq] at hpre
    exact hpre.1.1
  have hs : Scans .empty (prefixWords i u) (prefixesOf o r i.m16 i.windows qs) :=
    hp.words ▸ scans_prefixes o r i.m16 i.windows qs (hl.trans_le h4)
  refine ⟨_, encode_eq hu hw.base h, ?_, fun n hn => ?_⟩
  · rw [decode, hs.decodeFrom_append, List.length_append, hlen]
    have hbase : scan (prefixesOf o r i.m16 i.windows qs) w = .base := by simp [scan, hw.notPre]
    rw [decodeFrom, hbase]
    exact finish_prefixesOf hu hw hp hl h
  · rw [List.length_append, List.length_singleton] at hn
    rw [decode, List.take_append_of_le_length (by omega)]
    exact hs.decodeFrom_take n

end Sys2Proof
end

section
/-!
PROOF. O1: every instruction but ill and the vector commands runs under its guard (R36), so that a failed guard only moves on.
-/

namespace Sys2Proof.Machine

/-- Every instruction but ill and the vector commands ends its chain at once when its guard fails (R36). -/
theorem exec_under_guard (i : Instr) (u : Uses) (s : State) (h : i.uses = some u) (hv : vopOf i = none)
    (hi : i ≠ .ill u.ctl) : ∃ t, exec i s = .next (if guardPasses u.ctl s then t else advance u.ctl s) := by
  cases i <;> cases h <;> cases hv
  case ill => exact absurd rfl hi
  all_goals exact ⟨_, rfl⟩

/-- Settles O1: a chain whose guard fails ends at once. -/
theorem failedGuardOnlyAdvances : Obligations.FailedGuardOnlyAdvances := by
  intro i u s h hv hi hg
  obtain ⟨t, hx⟩ := exec_under_guard i u s h hv hi
  rw [hg] at hx
  exact ⟨advance u.ctl s, hx, advance_frame u.ctl s, jump_done (nextPc u.ctl s) s⟩

end Sys2Proof.Machine
end

section
/-!
PROOF. O8 and O22: what stops a chain before its effect, window 3 as a destination (R46) and a privilege that is too low (R58).
-/

namespace Sys2Proof.Machine

/-- An instruction that runs to the fault f at the address a faults so. -/
theorem faults_of_exec {i : Instr} {s : State} {f : FaultInfo} {a : Word} (h : exec i s = .next (fault s f a)) :
    Faults i s f a :=
  ⟨_, h, fault_is s f a⟩

/-- A field of a word by division. -/
theorem bits_eq_div (w : Word) (lo n : Nat) : bits w lo n = w.toNat / 2 ^ lo % 2 ^ n := by
  rw [bits, BitVec.extractLsb'_toNat, Nat.shiftRight_eq_div_pow]

/-! ### Window 3 as a destination -/

/-- A chain that first refuses window 3 as its destination faults there (R46). -/
theorem faults_window {i : Instr} {c : Ctl} {rd : Reg} {s t u : State} (hg : guardPasses c s = true) (hw : rd.win = 3)
    (hx : exec i s = .next (if guardPasses c s then (if rd.win = 3 then roFault s else t) else u)) :
    Faults i s (faultOf 6 0 0) (pc s) := by
  rw [hg, if_pos rfl, if_pos hw] at hx
  exact faults_of_exec hx

/-- Settles O8: each of these chains checks its destination before anything else. -/
theorem windowThreeFaults : Obligations.WindowThreeFaults := by
  intro c rd ra rb imm o14 m s hg hw
  refine ⟨?_, ?_, ?_, ?_, faults_window hg hw rfl, ?_, ?_⟩ <;> intro op hop <;> fin_cases hop <;>
    exact faults_window hg hw rfl

/-! ### A privilege that is too low -/

/-- A chain that first asks for a privilege above the row's faults PRIV with the access kind of its group (R58, R400). -/
theorem faults_priv {i : Instr} {c : Ctl} {need acc : Nat} {s t u : State} (hg : guardPasses c s = true)
    (hp : priv s < need)
    (hx : exec i s =
      .next (if guardPasses c s then (if priv s < need then fault s (faultOf cPriv 0 acc) (pc s) else t) else u)) :
    Faults i s (faultOf 2 0 acc) (pc s) := by
  rw [hg, if_pos rfl, if_pos hp] at hx
  exact faults_of_exec hx

/-- A supervisor may not enter a privilege above its own (R369). -/
theorem faults_xret {c : Ctl} {ra rb : Reg} {s : State} (hg : guardPasses c s = true) (hp : 1 ≤ priv s)
    (hr : priv s < (readReg s rb).toNat) : Faults (.xret c ra rb) s (faultOf 2 0 0) (pc s) := by
  apply faults_of_exec
  show execXret c ra rb s = _
  rw [execXret, privChain_pass hg hp]
  simp [hr, cPriv]

/-- A supervisor's rowctl names rows of its own partition only (R371). -/
theorem faults_rowctl {c : Ctl} {rd ra rb : Reg} {s : State} (hg : guardPasses c s = true) (hp : priv s = 1)
    (hw : rd.win ≠ 3) (h0 : (readReg s ra).toNat / 2 ^ 24 % 64 ≠ 0)
    (hq : (readReg s ra).toNat / 2 ^ 24 % 64 ≠ curPart s) : Faults (.rowctl c rd ra rb) s (faultOf 2 0 10) (pc s) := by
  apply faults_of_exec
  show execRowctl c rd ra rb s = _
  rw [execRowctl, privChainAs, chain_pass hg, if_neg (by omega)]
  dsimp only
  have hb : bits (readReg s ra) 24 6 = (readReg s ra).toNat / 2 ^ 24 % 64 := bits_eq_div _ _ _
  rw [if_neg hw, hb, if_pos (by simp [hp, -Nat.reducePow, h0, hq]), cPriv]

/-- A memory instruction that nothing holds up runs its body (R179). -/
theorem memChain_ready {c : Ctl} {s : State} {f : State → State} (hg : guardPasses c s = true) (hm : MemReady s) :
    memChain c s f = .next (f s) := by
  obtain ⟨ha, hb, ho⟩ := hm
  rw [memChain, chain_pass hg]
  simp [ha, hb, payOwed, ho]

/-- scrub is for supervisors (R105, R128). -/
theorem faults_scrub {c : Ctl} {rd ra : Reg} {s : State} (hg : guardPasses c s = true) (hm : MemReady s)
    (hc : isCtl (curExec s) = false) (hw : rd.win ≠ 3) (hp : priv s = 0) :
    Faults (.scrub c rd ra) s (faultOf 2 0 6) (pc s) := by
  apply faults_of_exec
  show execScrub c rd ra s = _
  rw [execScrub, copyChain, memChain_ready hg hm]
  rw [if_neg (by simp [hc]), if_neg hw, if_pos hp, cPriv]

/-- The special registers from 0x100 on are not a user's (R210). -/
theorem priv_lt_specialPriv_of_user {n p : Nat} (hn : 0x100 ≤ n) (hp : p = 0) : p < specialPriv n := by
  unfold specialPriv; split_ifs <;> omega

/-- The special registers from 0x200 on are the hypervisor's alone (R210). -/
theorem priv_lt_specialPriv {n p : Nat} (hn : 0x200 ≤ n) (hp : p ≤ 1) : p < specialPriv n := by
  unfold specialPriv; split_ifs <;> omega

/-- Settles O22: each instruction checks its privilege before its effect. -/
theorem privilegeFaults : Obligations.PrivilegeFaults := by
  intro c rd ra rb n s hg
  refine ⟨fun hp => ⟨?_, ?_, ?_, ?_, fun hn => ?_, fun hm hc hw => ?_⟩, fun hp hn => ?_, fun hp hr => ?_,
    fun hp hw h0 hq => ?_⟩
  · exact faults_priv hg (show priv s < 1 by omega) rfl
  · exact faults_priv hg (show priv s < 1 by omega) rfl
  · exact faults_priv hg (show priv s < 1 by omega) rfl
  · exact faults_priv hg (show priv s < 1 by omega) rfl
  · have h := priv_lt_specialPriv_of_user hn hp
    exact ⟨faults_priv hg h rfl, faults_priv hg h rfl⟩
  · exact faults_scrub hg hm hc hw hp
  · have h := priv_lt_specialPriv hn hp
    exact ⟨faults_priv hg h rfl, faults_priv hg h rfl⟩
  · exact faults_xret hg hp hr
  · exact faults_rowctl hg hp hw h0 hq

end Sys2Proof.Machine
end

section
/-!
PROOF. O25: the checks that a load, a store or an atomic passes before it has an effect (R180, R181), in their order.
-/

namespace Sys2Proof.Machine

/-! ### The checks of R180 -/

/-- A misaligned access stops at R180 step 2. -/
theorem withSite_misaligned {s : State} {w : Want} {a : Word} {n : Nat} {body : State → Place → TlbEnt → State}
    (h : a.toNat % n ≠ 0) : withSite s w a n body = fault s (faultOf 3 0 w.acc) a := by
  rw [withSite, if_pos h, cAlign]

/-- An aligned access that R180 stops faults so. -/
theorem withSite_stop {s : State} {w : Want} {a b : Word} {n : Nat} {body : State → Place → TlbEnt → State} {f : FaultInfo}
    (h : a.toNat % n = 0) (hs : siteOf s w a = .stop f b) : withSite s w a n body = fault s f b := by
  rw [withSite, if_neg (not_not.mpr h), hs]

/-- A non-canonical address stops at R180 step 3. -/
theorem siteOf_noncanonical {s : State} {w : Want} {a : Word} (he : curExec s ≠ 544) (hc : canonical a = false) :
    siteOf s w a = .stop (faultOf 4 0 w.acc) a := by
  simp [siteOf, he, hc, cPageNp]

/-- An address of a scratchpad that the row does not reach stops at R180 step 4. -/
theorem siteOf_unreachable {s : State} {w : Want} {a : Word} (he : curExec s ≠ 544) (hc : canonical a = true)
    (hw : inWindow s (curPart s) a = true)
    (hr : reachable s (curPart s) (curExec s) (windowCluster s (curPart s) a) = false) :
    siteOf s w a = .stop (faultOf 5 8 w.acc) a := by
  simp [siteOf, he, hc, hw, hr, cPagePerm]

/-- The page of an address, found without a walk: its leaf places the address in memory. -/
def OnPage (s : State) (a : Word) (x : TlbEnt) (pa : Nat) : Prop :=
  curExec s ≠ 544 ∧ canonical a = true ∧ inWindow s (curPart s) a = false ∧ lookup s a = .leaf x ∧
    leafPlace x (bits a 0 57) = .mem pa

/-- An address whose leaf is found stops at what stops its leaf (R180 steps 6 to 8). -/
theorem siteOf_page {s : State} {w : Want} {a : Word} {x : TlbEnt} {pa : Nat} {f : FaultInfo} (h : OnPage s a x pa)
    (hf : leafStop s w (curPart s) x (.mem pa) = some f) : siteOf s w a = .stop f a := by
  obtain ⟨he, hc, hw, hl, hp⟩ := h
  simp [siteOf, he, hc, hw, hl, hp, hf]

/-- A leaf stops an access whose permission it lacks. -/
theorem leafStop_read {s : State} {w : Want} {x : TlbEnt} {q i : Nat} {p : Place} (hr : w.rd = true)
    (hf : permFault (priv s) .read x.leaf = some i) : leafStop s w q x p = some (faultOf 5 i w.acc) := by
  simp [leafStop, hr, hf, cPagePerm]

theorem leafStop_write {s : State} {w : Want} {x : TlbEnt} {q i : Nat} {p : Place} (hr : w.rd = false) (hw : w.wr = true)
    (hf : permFault (priv s) .write x.leaf = some i) : leafStop s w q x p = some (faultOf 5 i w.acc) := by
  simp [leafStop, hr, hw, hf, cPagePerm]

/-- A leaf whose key is not valid stops an access in memory that it permits (R438, R447). -/
theorem leafStop_key {s : State} {w : Want} {x : TlbEnt} {q pa : Nat} (hr : w.rd = true) (hw : w.wr = false)
    (he : curExec s ≠ 544) (hf : permFault (priv s) .read x.leaf = none)
    (hk : keyValid s (part s q) (leafKey x.leaf) = false) :
    leafStop s w q x (.mem pa) = some (faultOf 5 7 w.acc) := by
  simp [leafStop, hr, hw, hf, he, hk, cPagePerm]

/-- A store does not write a sealed page (R132). -/
theorem leafStop_sealed {s : State} {w : Want} {x : TlbEnt} {q : Nat} {p : Place} (hr : w.rd = false) (hw : w.wr = true)
    (ha : w.acc ≠ 10) (hf : permFault (priv s) .write x.leaf = none) (hs : leafClass x.leaf = clsSealed) :
    leafStop s w q x p = some (faultOf 7 0 w.acc) := by
  simp [leafStop, hr, hw, ha, hf, hs, clsSealed, cSealed]

/-! ### The permissions of a leaf (R396) -/

theorem permFault_user {n : Need} {e : Word} (hu : leafU e = false) : permFault 0 n e = some 1 := by
  simp [permFault, hu]

theorem permFault_read {p : Nat} {e : Word} (hp : 1 ≤ p) :
    permFault p .read e = if leafR e then none else some 2 := by
  simp [permFault, show p ≠ 0 by omega]

theorem permFault_write {p : Nat} {e : Word} (hp : 1 ≤ p) :
    permFault p .write e = if leafW e && leafClass e ≠ clsReadOnly then none else some 3 := by
  simp [permFault, show p ≠ 0 by omega]

/-! ### Scratchpad offsets (R181) -/

theorem withOffset_ctl {s : State} {a : Word} {n acc : Nat} {body : State → Nat → State} (h : isCtl (curExec s) = true) :
    withOffset s a n acc body = fault s (faultOf 5 18 acc) (pc s) := by
  simp [withOffset, h, cPagePerm]

theorem withOffset_misaligned {s : State} {a : Word} {n acc : Nat} {body : State → Nat → State}
    (h : isCtl (curExec s) = false) (ha : a.toNat % n ≠ 0) : withOffset s a n acc body = fault s (faultOf 3 0 acc) a := by
  simp [withOffset, h, ha, cAlign]

theorem withOffset_outside {s : State} {a : Word} {n acc : Nat} {body : State → Nat → State}
    (h : isCtl (curExec s) = false) (ha : a.toNat % n = 0) (ho : 2 ^ 23 ≤ a.toNat) :
    withOffset s a n acc body = fault s (faultOf 5 0 acc) a := by
  simp [withOffset, h, ha, ho, -Nat.reducePow, cPagePerm]

/-! ### The instructions -/

section
variable {c : Ctl} {rd ra rb : Reg} {ty : LdType} {sy : StType} {off : Int} {op : AmoOp} {m : MemMod} {s : State}
  {f : FaultInfo} {b : Word}

/-- A load, store or atomic whose checks stop it faults so; a load and an atomic check their destination first (R180). -/
theorem faults_ld (hg : guardPasses c s = true) (hm : MemReady s) (hw : rd.win ≠ 3)
    (h : ∀ body, withSite s ⟨true, false, 2, ldSize ty == 8⟩ (memAddr s ra (ldSize ty) off) (ldSize ty) body = fault s f b) :
    Faults (.ld c rd ra ty off m) s f b := by
  apply faults_of_exec
  show execLd c rd ra ty off m s = _
  rw [execLd, memChain_ready hg hm]
  exact congrArg _ ((if_neg hw).trans (h _))

theorem faults_st (hg : guardPasses c s = true) (hm : MemReady s)
    (h : ∀ body, withSite s ⟨false, true, 3, stSize sy == 8⟩ (memAddr s ra (stSize sy) off) (stSize sy) body = fault s f b) :
    Faults (.st c rd ra sy off m) s f b := by
  apply faults_of_exec
  show execSt c rd ra sy off m s = _
  rw [execSt, memChain_ready hg hm]
  exact congrArg _ (h _)

theorem faults_amo (hg : guardPasses c s = true) (hm : MemReady s) (hw : rd.win ≠ 3)
    (h : ∀ body, withSite s ⟨true, true, 4, false⟩ (readReg s ra) (amoSize m) body = fault s f b) :
    Faults (.amo c rd ra rb op m) s f b := by
  apply faults_of_exec
  show execAmo c rd ra rb op m s = _
  rw [execAmo, memChain_ready hg hm]
  exact congrArg _ ((if_neg hw).trans (h _))

/-- Of a row of a control executor, an ldl is refused for its executor whatever its destination (R382). -/
theorem faults_ldl (hg : guardPasses c s = true) (hm : MemReady s) (hw : rd.win ≠ 3 ∨ isCtl (curExec s) = true)
    (h : ∀ body, withOffset s (memAddr s ra (ldSize ty) off) (ldSize ty) 2 body = fault s f b) :
    Faults (.ldl c rd ra ty off m) s f b := by
  have hn : ¬ (rd.win = 3 && !isCtl (curExec s)) = true := by
    rcases hw with hw | hw
    · simp only [decide_eq_false hw, Bool.false_and, Bool.false_eq_true, not_false_eq_true]
    · simp [hw]
  apply faults_of_exec
  show execLdl c rd ra ty off m s = _
  rw [execLdl, memChain_ready hg hm]
  exact congrArg _ ((if_neg hn).trans (h _))

theorem faults_stl (hg : guardPasses c s = true) (hm : MemReady s)
    (h : ∀ body, withOffset s (memAddr s ra (stSize sy) off) (stSize sy) 3 body = fault s f b) :
    Faults (.stl c rd ra sy off m) s f b := by
  apply faults_of_exec
  show execStl c rd ra sy off m s = _
  rw [execStl, memChain_ready hg hm]
  exact congrArg _ (h _)

theorem faults_ld_window (hg : guardPasses c s = true) (hm : MemReady s) (hw : rd.win = 3) :
    Faults (.ld c rd ra ty off m) s (faultOf 6 0 2) (memAddr s ra (ldSize ty) off) := by
  apply faults_of_exec
  show execLd c rd ra ty off m s = _
  rw [execLd, memChain_ready hg hm]
  exact congrArg _ (if_pos hw)

theorem faults_amo_window (hg : guardPasses c s = true) (hm : MemReady s) (hw : rd.win = 3) :
    Faults (.amo c rd ra rb op m) s (faultOf 6 0 4) (readReg s ra) := by
  apply faults_of_exec
  show execAmo c rd ra rb op m s = _
  rw [execAmo, memChain_ready hg hm]
  exact congrArg _ (if_pos hw)

theorem faults_ldl_window (hg : guardPasses c s = true) (hm : MemReady s) (hw : rd.win = 3)
    (he : isCtl (curExec s) = false) :
    Faults (.ldl c rd ra ty off m) s (faultOf 6 0 2) (memAddr s ra (ldSize ty) off) := by
  apply faults_of_exec
  show execLdl c rd ra ty off m s = _
  rw [execLdl, memChain_ready hg hm]
  exact congrArg _ (if_pos (by simp [hw, he]))

end

/-- Settles O25: the checks in their order, each named above. -/
theorem memoryFaults : Obligations.MemoryFaults := by
  intro c rd ra rb ty sy off op m s x hg hm
  refine ⟨fun hw => ⟨faults_ld_window hg hm hw, faults_amo_window hg hm hw, fun he => faults_ldl_window hg hm hw he⟩,
    fun hw ha => faults_ld hg hm hw fun _ => withSite_misaligned ha,
    fun ha => faults_st hg hm fun _ => withSite_misaligned ha,
    fun hw ha => faults_amo hg hm hw fun _ => withSite_misaligned ha,
    fun hw ha he => ⟨fun hc => ?_, fun hc hi hr => ?_⟩, fun hw ha pa hp => ⟨fun hu hl => ?_, fun hu hl => ?_, fun hu hl hk =>
      ?_⟩,
    fun ha pa hp hu => ⟨fun hl hc => ?_, fun hl hc => ?_⟩, fun he => ⟨?_, ?_⟩, fun he => ⟨?_, ?_, ?_, ?_⟩⟩
  · exact faults_ld hg hm hw fun _ => withSite_stop ha (siteOf_noncanonical he hc)
  · exact faults_ld hg hm hw fun _ => withSite_stop ha (siteOf_unreachable he hc hi hr)
  · exact faults_ld hg hm hw fun _ => withSite_stop ha (siteOf_page hp (leafStop_read rfl (by rw [hu, permFault_user hl])))
  · exact faults_ld hg hm hw fun _ => withSite_stop ha (siteOf_page hp (leafStop_read rfl (by simp [permFault_read hu, hl])))
  · exact faults_ld hg hm hw fun _ =>
      withSite_stop ha (siteOf_page hp (leafStop_key rfl rfl hp.1 (by simp [permFault_read hu, hl]) hk))
  · exact faults_st hg hm fun _ =>
      withSite_stop ha (siteOf_page hp (leafStop_write rfl rfl (by simp [permFault_write hu, hl])))
  · exact faults_st hg hm fun _ => withSite_stop ha (siteOf_page hp (leafStop_sealed rfl rfl (show 3 ≠ 10 by decide)
      (by simp [permFault_write hu, hl, hc, clsSealed, clsReadOnly]) hc))
  · exact faults_ldl hg hm (.inr he) fun _ => withOffset_ctl he
  · exact faults_stl hg hm fun _ => withOffset_ctl he
  · exact fun hw ha => faults_ldl hg hm (.inl hw) fun _ => withOffset_misaligned he ha
  · exact fun hw ha ho => faults_ldl hg hm (.inl hw) fun _ => withOffset_outside he ha ho
  · exact fun ha => faults_stl hg hm fun _ => withOffset_misaligned he ha
  · exact fun ha ho => faults_stl hg hm fun _ => withOffset_outside he ha ho

end Sys2Proof.Machine
end

section
/-!
PROOF. O17: memory and registers read back what was written (R5, R46, R190).
-/

namespace Sys2Proof.Machine

/-! ### Memory -/

theorem memFormAbove_cons {lo : Option Nat} {c : Host.Cell} {m : Memory} (h : memFormAbove lo (c :: m) = true) :
    c.2 ≠ memDefault ∧ memFormAbove (some c.1) m = true := by
  obtain ⟨a, v⟩ := c
  simp only [memFormAbove, Bool.and_eq_true, decide_eq_true_eq] at h
  exact ⟨h.1.2, h.2⟩

theorem memRead_cons_self (c : Host.Cell) (m : Memory) : memRead (c :: m) c.1 = c.2 := if_pos rfl

theorem memRead_cons_of_ne {c : Host.Cell} {m : Memory} {a : Nat} (h : a ≠ c.1) : memRead (c :: m) a = memRead m a := if_neg h

/-- Below its first cell a canonical memory reads as the default. -/
theorem memRead_cons_of_lt {lo : Option Nat} {c : Host.Cell} {m : Memory} (h : memFormAbove lo (c :: m) = true) {a : Nat}
    (ha : a < c.1) : memRead (c :: m) a = memDefault := by
  rw [memRead_cons_of_ne ha.ne, memRead_below (memFormAbove_cons h).2 ha.le]

/-- When two canonical memories read alike, the first cell of one is not below that of the other. -/
theorem not_lt_of_memRead_eq {lo lo' : Option Nat} {c c' : Host.Cell} {m m' : Memory} (h : memFormAbove lo (c :: m) = true)
    (h' : memFormAbove lo' (c' :: m') = true) (hr : ∀ a, memRead (c :: m) a = memRead (c' :: m') a) : ¬ c.1 < c'.1 := by
  intro hlt
  have := hr c.1
  rw [memRead_cons_self, memRead_cons_of_lt h' hlt] at this
  exact (memFormAbove_cons h).1 this

/-- Memories in canonical form that read alike are equal, cell by cell. -/
theorem eq_of_memRead_eq {m m' : Memory} {lo lo' : Option Nat} (h : memFormAbove lo m = true)
    (h' : memFormAbove lo' m' = true) (hr : ∀ a, memRead m a = memRead m' a) : m = m' := by
  induction m generalizing lo lo' m' with
  | nil =>
    cases m' with
    | nil => rfl
    | cons c' m' =>
      have := hr c'.1
      rw [memRead_cons_self] at this
      exact absurd this.symm (memFormAbove_cons h').1
  | cons c m ih =>
    cases m' with
    | nil =>
      have := hr c.1
      rw [memRead_cons_self] at this
      exact absurd this (memFormAbove_cons h).1
    | cons c' m' =>
      have h1 : c.1 = c'.1 :=
        Nat.le_antisymm (Nat.le_of_not_lt (not_lt_of_memRead_eq h' h fun a => (hr a).symm))
          (Nat.le_of_not_lt (not_lt_of_memRead_eq h h' hr))
      have h2 : c.2 = c'.2 := by
        have := hr c.1
        rwa [memRead_cons_self, h1, memRead_cons_self] at this
      obtain ⟨_, hm⟩ := memFormAbove_cons h
      obtain ⟨_, hm'⟩ := memFormAbove_cons h'
      rw [Prod.ext h1 h2, ih hm hm']
      intro a
      rcases Nat.lt_or_ge c.1 a with ha | ha
      · have := hr a
        rwa [memRead_cons_of_ne ha.ne', memRead_cons_of_ne (h1 ▸ ha.ne')] at this
      · rw [memRead_below hm ha, memRead_below hm' (h1 ▸ ha)]

theorem nth_eq_getElem {α : Type} (l : List α) (n : Nat) (d : α) (h : n < l.length) : nth l n d = l[n] := by
  induction l generalizing n with
  | nil => exact absurd h (by simp)
  | cons x l ih =>
    cases n with
    | zero => rfl
    | succ n => exact ih n (Nat.lt_of_succ_lt_succ h)

/-- A byte read after a store. -/
theorem memRead_memStore {m : Memory} (a b : Nat) (bs : List Byte) (h : m.wf = true) :
    memRead (memStore m a bs) b = if a ≤ b ∧ b < a + bs.length then nth bs (b - a) 0 else memRead m b := by
  split_ifs with hb
  · obtain ⟨i, rfl⟩ := Nat.exists_eq_add_of_le hb.1
    rw [Nat.add_sub_cancel_left, nth_eq_getElem _ _ _ (by omega), memRead_memStore_inside a i bs h (by omega)]
  · exact memRead_memStore_outside a b bs h (by omega)

/-! ### Registers -/

/-- The row word of a register field: the windows 0, 1, 2, 3 begin at d32, d64, d96 and d0. -/
theorem regIndex_eq (w : BitVec 2) (n : BitVec 5) : regIndex ⟨w, n⟩ = 32 * (w.toNat + 1) % 128 + n.toNat := by
  have hw : w = 0 ∨ w = 1 ∨ w = 2 ∨ w = 3 := by revert w; decide
  rcases hw with rfl | rfl | rfl | rfl <;> simp [regIndex]

/-- Different register fields name different row words (R46). -/
theorem regIndex_injective : Function.Injective regIndex := by
  rintro ⟨w, n⟩ ⟨w', n'⟩ h
  have hn := n.isLt
  have hn' := n'.isLt
  rw [regIndex_eq, regIndex_eq] at h
  have hw := w.isLt
  have hw' := w'.isLt
  have h1 : w = w' := BitVec.eq_of_toNat_eq (by omega)
  have h2 : n = n' := BitVec.eq_of_toNat_eq (by omega)
  rw [h1, h2]

theorem readReg_writeReg_of_ne (s : State) {r q : Reg} (v : Word) (h : q ≠ r) :
    readReg (writeReg s r v) q = readReg s q := by
  have hi : regIndex q ≠ regIndex r := fun e => h (regIndex_injective e)
  simp only [readReg, rowWord_writeReg, writeReg_cur, hi, and_false, if_false]

/-- Settles O17: the laws of memory and of registers, each proved above or in the model's laws. -/
theorem storageLaws : Obligations.StorageLaws :=
  ⟨⟨fun _ a b bs h => ⟨memStore_wf a bs h, memRead_memStore a b bs h⟩, fun _ _ h h' hr => eq_of_memRead_eq h h' hr,
      leNat_leBytes⟩,
    fun s r _ v => ⟨fun h => ⟨readReg_g0 s r h, writeReg_g0 s r v h⟩, readReg_writeReg_self s r v,
      readReg_writeReg_of_ne s v⟩⟩

end Sys2Proof.Machine
end

section
/-!
PROOF. O10: words from the spec's encoding tables decoded, and a verbose listing translated, by evaluation of the model.
-/

namespace Sys2Proof.Machine

/-- Settles O10: every clause is about fixed words and fixed lines, which the model's decoder and translator evaluate. -/
theorem printedWordsDecode : Obligations.PrintedWordsDecode := by
  unfold Obligations.PrintedWordsDecode
  intro u g
  refine ⟨?_, ?_, ?_, ?_, ?_, ?_, ?_, ?_, ?_, ?_, ?_, ?_, ?_, ?_, ?_, ?_, ?_, ?_, ?_, ?_, ?listing⟩
  case listing =>
    intro text ws a
    refine ⟨?_, ?_, ?_, ?_⟩ <;> decide +kernel
  all_goals decide +kernel

end Sys2Proof.Machine
end

section
/-!
PROOF. O12: a fetch gives the chain that its words decode to, and a cycle given to its slot runs the chain's meaning (R44, R336).
-/

namespace Sys2Proof.Machine

/-! ### Fetching -/

/-- The words at the PC of a row are those of an instruction: each can be fetched, and none decides before the last (R44). -/
def WordsAre (s : State) (pr : Nat) (ws : List W32) (i : Instr) : Prop :=
  (rowWord s pr 1).toNat % 4 = 0 ∧ 0 < ws.length ∧ ws.length ≤ 5 ∧
    (∀ n, n < ws.length → fetchWord s pr n = .inl (nth ws n 0)) ∧
    (∀ n, n < ws.length → decode (ws.take n) = .short) ∧ decode ws = .ok i ws.length

/-- Once some of the words are fetched, the others follow one by one. -/
theorem fetchFrom_take {s : State} {pr : Nat} {ws : List W32} {i : Instr} (h : WordsAre s pr ws i) (fuel j : Nat)
    (hj : j < ws.length) (hf : ws.length ≤ j + fuel) : fetchFrom s pr fuel (ws.take j) = .chain i ws.length := by
  obtain ⟨-, -, -, hw, hs, hd⟩ := h
  induction fuel generalizing j with
  | zero => omega
  | succ m ih =>
    have hlen : (ws.take j).length = j := by simp [hj.le]
    have hnext : ws.take j ++ [nth ws j 0] = ws.take (j + 1) := by
      rw [nth_eq_getElem ws j 0 hj, List.take_append_getElem]
    simp only [fetchFrom, hlen, hw j hj, hnext]
    rcases Nat.lt_or_ge (j + 1) ws.length with hl | hl
    · rw [hs (j + 1) hl]
      exact ih (j + 1) hl (by omega)
    · rw [List.take_of_length_le hl, hd]

theorem pc_aligned_iff (w : Word) : w % 4 = 0 ↔ w.toNat % 4 = 0 := by
  rw [← BitVec.toNat_inj, BitVec.toNat_umod]; rfl

theorem fetch_chain {s : State} {pr : Nat} {ws : List W32} {i : Instr} (h : WordsAre s pr ws i) :
    fetch s pr = .chain i ws.length := by
  have ⟨ha, hpos, hlen, _⟩ := h
  rw [fetch, if_neg (not_not.mpr ((pc_aligned_iff _).mpr ha))]
  exact fetchFrom_take h 5 0 hpos (by omega)

theorem fetch_misaligned {s : State} {pr : Nat} (h : (rowWord s pr 1).toNat % 4 ≠ 0) :
    fetch s pr = .fault 0 cAlign 0 7 :=
  if_pos fun h' => h ((pc_aligned_iff _).mp h')

/-! ### The slot that takes a cycle -/

/-- A slot whose row can begin the chain that its words are takes the cycle for it (R336). -/
theorem pickSlot_issue {u : State} {e k pr n : Nat} {i : Instr} (hm : mayIssue u e k = some pr)
    (hf : fetch { u with waited := (slot u e k).wait } pr = .chain i n) (ha : atMarker u pr i = false)
    (hi : interlocked u pr i = false) : pickSlot u e k = some (.issue k pr (.chain i n)) := by
  simp [pickSlot, hm, hf, ha, hi]

/-- The first slot after the pointer that can use the cycle gets it (R336). -/
theorem pick_first {u : State} {e d : Nat} {p : Pick} (h1 : 1 ≤ d) (h4 : d ≤ 4)
    (hn : ∀ j, 1 ≤ j → j < d → pickSlot u e (((exec' u e).rr + j) % 4) = none)
    (hp : pickSlot u e (((exec' u e).rr + d) % 4) = some p) : pick u e = p := by
  have hd : d = 1 ∨ d = 2 ∨ d = 3 ∨ d = 4 := by omega
  rcases hd with rfl | rfl | rfl | rfl
  · simp [pick, hp]
  · simp [pick, hn 1, hp]
  · simp [pick, hn 1, hn 2, hp]
  · rw [Nat.add_mod_right] at hp
    simp [pick, hn 1, hn 2, hn 3, hp]

/-- A step whose cycle goes to a chain is the meaning of the chain. -/
theorem step_issue {s u : State} {e k pr n : Nat} {i : Instr} (ht : nextTurn s = (.cycle e, u)) (hd : dueEvent u e = none)
    (hp : pick u e = .issue k pr (.chain i n)) : step s = exec i (seeBatches i (beginChain u e k pr n)) := by
  simp [step, ht, runCycle, hd, hp, runIssue]

/-! ### The cycles of a chain -/

@[simp] theorem exec'_setExec_self (s : State) (e : Nat) (x : Exec) : exec' (setExec s e x) e = x :=
  mapGet_mapSet_self _ _ _ _

@[simp] theorem exec'_setCluster (s : State) (c : Nat) (x : Cluster) (e : Nat) : exec' (setCluster s c x) e = exec' s e := rfl

@[simp] theorem exec'_passStale (s : State) (a : Nat) (r : RowId) (e : Nat) : exec' (passStale s a r) e = exec' s e := rfl

/-- What differs between a state and one that some cycles of an executor have led to, as far as a chain's beginning asks:
only the executors do; the slot waits for the same, and CYCLE has counted. -/
structure CyclesPassed (e k j : Nat) (u t : State) : Prop where
  frame : t = { u with execs := t.execs }
  wait  : (slot t e k).wait = (slot u e k).wait
  cycle : executorRuns u e = true → (exec' t e).cycle = (exec' u e).cycle + BitVec.ofNat 64 j

theorem executorRuns_congr {u t : State} (e : Nat) (h : t = { u with execs := t.execs }) :
    executorRuns t e = executorRuns u e := by rw [h]; rfl

/-- A slot written with what it waited for leaves every slot's wait as it was. -/
theorem slot_setSlot_wait {s : State} {e k : Nat} {y : Slot} (h : y.wait = (slot s e k).wait) (m : Nat) :
    (slot (setSlot s e k y) e m).wait = (slot s e m).wait := by
  by_cases hm : m = k ∧ k < 4
  · rw [hm.1, slot_setSlot _ _ _ _ hm.2, h]
  · have hg : ((exec' s e).slots.setIfInBounds k y)[m]? = (exec' s e).slots[m]? := by
      rw [Vector.getElem?_setIfInBounds]
      split_ifs with h1 h2
      · exact absurd ⟨h1.symm, h2⟩ hm
      · rw [← h1, Vector.getElem?_eq_none (by omega)]
      · rfl
    rw [setSlot, slot, exec'_setExec_self, hg, slot]

theorem exec'_setSlot_cycle (s : State) (e k : Nat) (y : Slot) : (exec' (setSlot s e k y) e).cycle = (exec' s e).cycle := by
  rw [setSlot, exec'_setExec_self]

/-- The executor as a cycle's count leaves it, before its bank goes on with a transfer. -/
def countedExec (s : State) (e : Nat) : Exec :=
  let x := exec' s e
  { x with
    slots := x.slots.map fun y => { y with stall := y.stall - 1, ended := false, arr := 0 }
    stalls := (x.stalls.map fun p => (p.1, p.2 - 1)).filter fun p => p.2 != 0
    entered := [], xfer := x.xfer ++ x.asked.map fun k => (false, k), asked := []
    cycle := if executorRuns s e then x.cycle + 1 else x.cycle
    preCyc := if executorRuns s e && !isCtl e && (cluster s (clusterOf e)).pre.isSome then x.preCyc + 1 else x.preCyc }

/-- A cycle counts, and then a transfer of the bank, if there is one, goes on in its slot. -/
theorem passCycle_cases (s : State) (e : Nat) :
    passCycle s e = setExec s e (countedExec s e) ∨
    ∃ k y, y.wait = (slot (setExec s e (countedExec s e)) e k).wait ∧
      passCycle s e = setSlot (setExec s e (countedExec s e)) e k y := by
  unfold passCycle
  dsimp only
  split
  · exact .inl rfl
  · refine .inr ⟨_, _, ?_, rfl⟩
    exact (apply_ite Slot.wait _ _ _).trans (ite_self _)

theorem slot_countedExec_wait (s : State) (e k : Nat) :
    (slot (setExec s e (countedExec s e)) e k).wait = (slot s e k).wait := by
  rw [slot, exec'_setExec_self, countedExec, Vector.getElem?_map, slot]
  cases (exec' s e).slots[k]? <;> rfl

/-- One cycle changes only its executor, and no slot's wait; CYCLE counts while the executor runs (R210, R336). -/
theorem cyclesPassed_passCycle (e k : Nat) (s : State) : CyclesPassed e k 1 s (passCycle s e) := by
  rcases passCycle_cases s e with h | ⟨m, y, hy, h⟩
  · rw [h]
    exact ⟨rfl, slot_countedExec_wait s e k, fun hr => by rw [exec'_setExec_self]; exact if_pos hr⟩
  · rw [h]
    exact ⟨rfl, (slot_setSlot_wait hy k).trans (slot_countedExec_wait s e k),
      fun hr => by rw [exec'_setSlot_cycle, exec'_setExec_self]; exact if_pos hr⟩

theorem CyclesPassed.trans {e k i j : Nat} {u t v : State} (h : CyclesPassed e k i u t) (h' : CyclesPassed e k j t v) :
    CyclesPassed e k (i + j) u v where
  frame := by
    have := h'.frame
    rw [h.frame] at this
    exact this
  wait := h'.wait.trans h.wait
  cycle hr := by
    rw [h'.cycle ((executorRuns_congr e h.frame).trans hr), h.cycle hr, BitVec.add_assoc, BitVec.ofNat_add]

/-- Any number of cycles with nothing between them. -/
theorem cyclesPassed_iterate (e k j : Nat) (u : State) : CyclesPassed e k j u ((fun x => passCycle x e)^[j] u) := by
  induction j with
  | zero => exact ⟨rfl, rfl, fun _ => (BitVec.add_zero _).symm⟩
  | succ j ih =>
    rw [Function.iterate_succ_apply']
    exact ih.trans (cyclesPassed_passCycle e k _)

theorem betweenAll_quiet {s : State} {e k : Nat} (n : Nat) (h : betweenCycles s e k = none) : betweenAll e k n s = s := by
  cases n with
  | zero => rfl
  | succ n => simp only [betweenAll, h]

/-- When nothing is due between the cycles of a chain, they pass one after another. -/
theorem passCycles_quiet {e k n : Nat} {u : State}
    (h : ∀ j, 1 ≤ j → j < n → betweenCycles ((fun x => passCycle x e)^[j] u) e k = none) :
    passCycles u e k n = (fun x => passCycle x e)^[n] u := by
  induction n generalizing u with
  | zero => rfl
  | succ n ih =>
    cases n with
    | zero => rfl
    | succ n =>
      have h1 : betweenCycles (passCycle u e) e k = none := h 1 (by omega) (by omega)
      rw [passCycles, betweenAll_quiet 16 h1, ih, ← Function.iterate_succ_apply]
      intro j h1 hj
      exact h (j + 1) (by omega) (by omega)

/-! ### The beginning of a chain -/

/-- A chain begins in its row, and the pointer moves to its slot; nothing of rows and memories is touched but by the
cycles of its words (R336). -/
theorem beginChain_is (s : State) (e k pr n : Nat) :
    let t := passCycles s e k n
    let b := beginChain s e k pr n
    b.cur = pr ∧ (exec' b e).rr = k ∧ b.waited = (slot t e k).wait ∧ b.rows = t.rows ∧ b.mem = t.mem ∧
      b.spads = t.spads ∧ (exec' b e).cycle = (exec' t e).cycle := by
  intro t b
  simp only [b, t, beginChain]
  refine ⟨?_, ?rr, ?_, ?_, ?_, ?_, ?cycle⟩
  case rr => split_ifs <;> exact congrArg Exec.rr (exec'_setExec_self _ _ _)
  case cycle =>
    split_ifs <;>
      simp only [exec'_setCluster, exec'_setExec_self, exec'_passStale, exec'_setSlot_cycle] <;> rfl
  all_goals split_ifs <;> rfl

theorem seeBatches_frame (i : Instr) (s : State) : ∃ l, seeBatches i s = { s with stale := l } := by
  unfold seeBatches
  split
  · exact ⟨_, rfl⟩
  · exact ⟨s.stale, rfl⟩

/-- Settles O12: the fetch by its words, and the step by the slot that its cycle is given to. -/
theorem stepRunsDecoded : Obligations.StepRunsDecoded := by
  refine ⟨fun s pr ws i => ⟨fetch_chain, fetch_misaligned⟩, ?_⟩
  intro s u e d pr n i k v ht hd h1 h4 hn hm hf ha hi b quiet
  have hf : fetch v pr = .chain i n := by
    rcases hf with hf | ⟨ws, hw, rfl⟩
    · exact hf
    · exact fetch_chain hw
  obtain ⟨hcur, hrr, hwait, hrows, hmem, hspads, hcyc⟩ := beginChain_is u e k pr n
  refine ⟨step_issue ht hd (pick_first h1 h4 hn (pickSlot_issue hm hf ha hi)), hcur, hrr, seeBatches_frame i b, fun hq => ?_⟩
  have hp := cyclesPassed_iterate e k n u
  rw [← passCycles_quiet hq] at hp
  have hrest := hp.frame
  refine ⟨hwait.trans hp.wait, hrows.trans ?_, hmem.trans ?_, hspads.trans ?_, fun hr => hcyc.trans (hp.cycle hr)⟩ <;>
    rw [hrest]

end Sys2Proof.Machine
end

section
/-!
PROOF. O15: the machine after reset lists nothing, so that each register reads as its default record.
-/

namespace Sys2Proof.Machine

/-- A partition of the reset machine has the reset registers (R439). -/
theorem part_reset (q : Nat) : part State.reset q = Part.init := rfl
/-- Each launch queue of a reset partition is empty (R378). -/
theorem lq_reset (q n : Nat) : lq State.reset q n = LaunchQ.init := by
  have h : ∀ k, nth (List.replicate 4 LaunchQ.init) k LaunchQ.init = LaunchQ.init := by
    intro k
    match k with
    | 0 | 1 | 2 | 3 | _ + 4 => rfl
  exact h n
theorem exec'_reset (e : Nat) : exec' State.reset e = Exec.init := rfl
theorem keySlot_reset (k : Nat) : keySlot State.reset k = KeySlot.init := rfl
/-- Reset memory and scratchpads list nothing, which is canonical (log 3). -/
theorem memoryCanonical_reset : MemoryCanonical State.reset := ⟨rfl, fun _ h => nomatch h⟩

/-- Settles O15: every register reads as the default record of its table. -/
theorem resetState : Obligations.ResetState := by
  unfold Obligations.ResetState
  simp only [part_reset, lq_reset, exec'_reset, keySlot_reset]
  refine ⟨⟨fun _ => ?_, fun _ => rfl, fun _ => rfl, by decide⟩, memoryCanonical_reset, rfl⟩
  iterate 20 refine ⟨rfl, ?_⟩
  exact fun _ => ⟨rfl, rfl⟩

end Sys2Proof.Machine
end

section
/-!
SUPPORT. Records of the sorted maps read after one is set, and the fields of register values.
-/

namespace Sys2Proof.Machine

/-! ### Steps that answer -/

/-- A step that answers t, which is u, has what holds of u. -/
theorem runs_of_eq {i : Instr} {s t u : State} {P : State → Prop} (hx : exec i s = .next t) (e : t = u) (h : P u) : Runs i s P :=
  ⟨u, hx.trans (congrArg _ e), h⟩

/-! ### Records after one is set -/

/-- A register of one partition read after a partition's registers are set. -/
theorem part_setPart (s : State) (q k : Nat) (p : Part) : part (setPart s q p) k = if k = q then p else part s k :=
  mapGet_mapSet ..
@[simp] theorem part_setPart_self (s : State) (q : Nat) (p : Part) : part (setPart s q p) q = p :=
  mapGet_mapSet_self ..
theorem cluster_setCluster (s : State) (c k : Nat) (x : Cluster) :
    cluster (setCluster s c x) k = if k = c then x else cluster s k := mapGet_mapSet ..
@[simp] theorem cluster_setCluster_self (s : State) (c : Nat) (x : Cluster) : cluster (setCluster s c x) c = x :=
  mapGet_mapSet_self ..
theorem hub_setHub (s : State) (d k : Nat) (h : Hub) : hub (setHub s d h) k = if k = d then h else hub s k :=
  mapGet_mapSet ..
@[simp] theorem hub_setHub_self (s : State) (d : Nat) (h : Hub) : hub (setHub s d h) d = h := mapGet_mapSet_self ..
theorem hline_setHline (s : State) (l k : Nat) (h : HLine) :
    hline (setHline s l h) k = if k = l then h else hline s k := mapGet_mapSet ..
@[simp] theorem hline_setHline_self (s : State) (l : Nat) (h : HLine) : hline (setHline s l h) l = h :=
  mapGet_mapSet_self ..
theorem exec'_setExec (s : State) (e k : Nat) (x : Exec) : exec' (setExec s e x) k = if k = e then x else exec' s k :=
  mapGet_mapSet ..
@[simp] theorem block_setBlock_self (s : State) (pa : Nat) (b : Block) : block (setBlock s pa b) pa = b :=
  mapGet_mapSet_self ..
/-- A map whose entries are all changed alike reads as its old entry, changed. -/
theorem mapGet_map {α : Type} (m : NMap α) (f : α → α) (k : Nat) (d : α) (h : f d = d) :
    mapGet (m.map fun x => (x.1, f x.2)) k d = f (mapGet m k d) := by
  induction m with
  | nil => exact h.symm
  | cons x m ih =>
    unfold mapGet at ih ⊢
    rw [List.map_cons, mapGet?, mapGet?]
    split
    · rfl
    · exact ih

/-! ### Fields of a register value -/

/-- A bit of a word of which one field is kept. -/
theorem getLsbD_field (v : Word) (lo n i : Nat) :
    (field v lo n).getLsbD i = (decide (lo ≤ i ∧ i < lo + n ∧ i < 64) && v.getLsbD i) := by
  unfold field
  rw [getLsbD_putBits]
  by_cases h : lo ≤ i ∧ i < lo + n ∧ i < 64
  · rw [if_pos h, testBit_bits, decide_eq_true h, decide_eq_true (by omega : i - lo < n),
      show lo + (i - lo) = i by omega]
  · simp [h]
/-- Two words agree in a field when they agree in its bits. -/
theorem bits_congr {v w : Word} {lo n : Nat} (h : ∀ i, i < n → v.getLsbD (lo + i) = w.getLsbD (lo + i)) :
    bits v lo n = bits w lo n := by
  refine Nat.eq_of_testBit_eq fun i => ?_
  rw [testBit_bits, testBit_bits]
  by_cases hi : i < n
  · rw [h i hi]
  · rw [decide_eq_false hi]; rfl

end Sys2Proof.Machine
end

section
/-!
SUPPORT. Memory as the home slices decrypt it (R60 to R67): what a write of the hardware's own leaves of every byte.
-/

namespace Sys2Proof.Machine

/-! ### Frames -/

section

variable {s t : State} (h : OnlyBlocks s t)
include h

theorem OnlyBlocks.eq : t = { s with mem := t.mem, blocks := t.blocks } := h
theorem OnlyBlocks.parts : t.parts = s.parts := (congrArg State.parts h.eq).trans rfl
theorem OnlyBlocks.rows : t.rows = s.rows := (congrArg State.rows h.eq).trans rfl
theorem OnlyBlocks.hub : t.hub = s.hub := (congrArg State.hub h.eq).trans rfl
theorem OnlyBlocks.agenda : t.agenda = s.agenda := (congrArg State.agenda h.eq).trans rfl
theorem OnlyBlocks.homes : t.homes = s.homes := (congrArg State.homes h.eq).trans rfl

end

theorem part_of_parts {s t : State} (h : t.parts = s.parts) (q : Nat) : part t q = part s q := by unfold part; rw [h]

/-! ### Bytes as they decrypt -/

theorem homeBytes_eq_map (s : State) (a n : Nat) : homeBytes s a n = (List.range n).map fun i => homeByte s (a + i) := by
  induction n generalizing a with
  | zero => rfl
  | succ n ih =>
    rw [homeBytes, ih, List.range_succ_eq_map, List.map_cons, List.map_map]
    simp only [Function.comp_def, Nat.add_zero, Nat.succ_eq_add_one, Nat.add_assoc, Nat.add_comm 1]
theorem memBytes_eq_map (m : Memory) (a n : Nat) : memBytes m a n = (List.range n).map fun i => memRead m (a + i) := by
  induction n generalizing a with
  | zero => rfl
  | succ n ih =>
    rw [memBytes, ih, List.range_succ_eq_map, List.map_cons, List.map_map]
    simp only [Function.comp_def, Nat.add_zero, Nat.succ_eq_add_one, Nat.add_assoc, Nat.add_comm 1]
@[simp] theorem homeBytes_length (s : State) (a n : Nat) : (homeBytes s a n).length = n := by simp [homeBytes_eq_map]
theorem homeBytes_congr {s t : State} {a n : Nat} (h : ∀ i, i < n → homeByte t (a + i) = homeByte s (a + i)) :
    homeBytes t a n = homeBytes s a n := by
  rw [homeBytes_eq_map, homeBytes_eq_map]
  exact List.map_congr_left fun i hi => h i (List.mem_range.mp hi)
theorem nth_homeBytes (s : State) (a n i : Nat) (h : i < n) : nth (homeBytes s a n) i 0 = homeByte s (a + i) := by
  rw [nth_eq_getElem _ _ _ (by simpa using h)]
  simp [homeBytes_eq_map]
/-- A list of bytes that memory decrypts to from an address on. -/
theorem homeBytes_eq_of_nth {s : State} {a : Nat} {l : List Byte} (h : ∀ i, i < l.length → homeByte s (a + i) = nth l i 0) :
    homeBytes s a l.length = l := by
  refine List.ext_getElem (by simp) fun i h1 h2 => ?_
  simp only [homeBytes_eq_map, List.getElem_map, List.getElem_range]
  rw [h i h2, nth_eq_getElem _ _ _ h2]
/-- A dword is what eight bytes decrypt to. -/
theorem memWord_congr {s t : State} {a : Nat} (h : ∀ i, i < 8 → homeByte t (a + i) = homeByte s (a + i)) :
    memWord t a = memWord s a := by
  unfold memWord; rw [homeBytes_congr h]
/-- What a byte decrypts to depends on memory, on its block and on the key slots alone. -/
theorem homeByte_congr {s t : State} (hm : t.mem = s.mem) (hb : t.blocks = s.blocks) (hk : t.hub.keys = s.hub.keys) (a : Nat) :
    homeByte t a = homeByte s a := by
  unfold homeByte keyGen keySlot block
  rw [hm, hb, hk]
theorem memWord_of_same {s t : State} (hm : t.mem = s.mem) (hb : t.blocks = s.blocks) (hk : t.hub.keys = s.hub.keys) (a : Nat) :
    memWord t a = memWord s a := memWord_congr fun _ _ => homeByte_congr hm hb hk _

/-! ### Settling a block -/

/-- A block reads under its slot's present key after it is settled; the other blocks are as they were. -/
theorem block_settle (s : State) (pa a : Nat) :
    block (settle s pa) a =
      if a / 64 = pa / 64 then { block s pa with gen := keyGen s (block s pa).key } else block s a := by
  unfold settle block
  dsimp only
  split
  next h =>
    split
    next e => rw [e, ← h]
    next => rfl
  next h => exact mapGet_mapSet ..
/-- A block in whose bytes the slot's present key was used. -/
def Plain (s : State) (a : Nat) : Prop := (block s a).gen = keyGen s (block s a).key
theorem homeByte_of_plain {s : State} {a : Nat} (h : Plain s a) : homeByte s a = memRead s.mem a := if_pos h
theorem plain_settle_self (s : State) (pa a : Nat) (h : a / 64 = pa / 64) : Plain (settle s pa) a := by
  unfold Plain
  rw [block_settle, if_pos h]
  rfl
theorem plain_settle {s : State} (pa : Nat) {a : Nat} (h : Plain s a) : Plain (settle s pa) a := by
  by_cases e : a / 64 = pa / 64
  · exact plain_settle_self s pa a e
  · unfold Plain
    rw [block_settle, if_neg e]
    exact h
/-- Settling a block changes nothing of what memory decrypts to (R67). -/
theorem homeByte_settle {s : State} (pa a : Nat) (h : s.mem.wf = true) : homeByte (settle s pa) a = homeByte s a := by
  by_cases hp : Plain s pa
  · exact homeByte_congr (t := settle s pa) (if_pos hp) (if_pos hp) rfl a
  · have hm : (settle s pa).mem = memStore s.mem (pa / 64 * 64) (homeBytes s (pa / 64 * 64) 64) := if_neg hp
    by_cases e : a / 64 = pa / 64
    · rw [homeByte_of_plain (plain_settle_self s pa a e), hm, memRead_memStore _ _ _ h, homeBytes_length, if_pos (by omega),
        nth_homeBytes _ _ _ _ (by omega), show pa / 64 * 64 + (a - pa / 64 * 64) = a by omega]
    · have hr : memRead (settle s pa).mem a = memRead s.mem a := by
        rw [hm, memRead_memStore _ _ _ h, homeBytes_length, if_neg (by omega)]
      unfold homeByte
      rw [block_settle, if_neg e, hr]
      rfl

/-! ### Writes of the hardware's own -/

/-- A byte after a write of the hardware's own into at most two blocks (log 67). -/
theorem homeByte_ownStore {s : State} (pa : Nat) (data : List Byte) (a : Nat) (h : s.mem.wf = true) (hd : data.length ≤ 65) :
    homeByte (ownStore s pa data) a =
      if pa ≤ a ∧ a < pa + data.length then nth data (a - pa) 0 else homeByte s a := by
  have hw1 := settle_wf pa h
  have hw := settle_wf (pa + (data.length - 1)) hw1
  have ht : homeByte (settle (settle s pa) (pa + (data.length - 1))) a = homeByte s a :=
    (homeByte_settle _ a hw1).trans (homeByte_settle _ a h)
  have hplain : pa ≤ a ∧ a < pa + data.length → Plain (settle (settle s pa) (pa + (data.length - 1))) a := fun ha => by
    by_cases e : a / 64 = pa / 64
    · exact plain_settle _ (plain_settle_self s pa a e)
    · exact plain_settle_self _ _ _ (by omega)
  generalize hg : settle (settle s pa) (pa + (data.length - 1)) = t at hw ht hplain
  have hu : ownStore s pa data = { t with mem := memStore t.mem pa data } := by subst hg; rfl
  have hm : (ownStore s pa data).mem = memStore t.mem pa data := by rw [hu]
  by_cases hp : Plain t a
  · have hq : Plain (ownStore s pa data) a := by rw [hu]; exact hp
    rw [homeByte_of_plain hq, hm, memRead_memStore _ _ _ hw, ← ht, homeByte_of_plain hp]
  · rw [if_neg fun ha => hp (hplain ha), ← ht, hu]
    exact (if_neg hp).trans (if_neg hp).symm
theorem homeByte_setMemWord {s : State} (pa : Nat) (v : Word) (a : Nat) (h : s.mem.wf = true) :
    homeByte (setMemWord s pa v) a =
      if pa ≤ a ∧ a < pa + 8 then nth (leBytes 8 v.toNat) (a - pa) 0 else homeByte s a := by
  unfold setMemWord
  rw [homeByte_ownStore _ _ _ h (by simp), leBytes_length]
/-- A dword read back where the hardware has written it. -/
theorem memWord_setMemWord_self {s : State} (pa : Nat) (v : Word) (h : s.mem.wf = true) : memWord (setMemWord s pa v) pa = v := by
  have hb : homeBytes (setMemWord s pa v) pa 8 = leBytes 8 v.toNat := by
    have := homeBytes_eq_of_nth (s := setMemWord s pa v) (a := pa) (l := leBytes 8 v.toNat) fun i hi => by
      rw [leBytes_length] at hi
      rw [homeByte_setMemWord _ _ _ h, if_pos (by omega), Nat.add_sub_cancel_left]
    rwa [leBytes_length] at this
  unfold memWord
  rw [hb, leNat_leBytes]
  exact BitVec.eq_of_toNat_eq (by have := v.isLt; simp [w64]; omega)
/-- A dword apart from the one that the hardware writes. -/
theorem memWord_setMemWord_apart {s : State} {pa a : Nat} (v : Word) (h : s.mem.wf = true) (ha : a + 8 ≤ pa ∨ pa + 8 ≤ a) :
    memWord (setMemWord s pa v) a = memWord s a :=
  memWord_congr fun i hi => by rw [homeByte_setMemWord _ _ _ h, if_neg (by omega)]

end Sys2Proof.Machine
end

section
/-!
PROOF. O54: what the writes of the registers of partitions and of the hub die do.
-/

namespace Sys2Proof.Machine

/-! ### PT_ROOT (R392) -/

theorem tlbDrop_tlbs (s : State) (q : Nat) (k : Nat) : ∀ l ∈ mapGet (tlbDrop s q fun _ => true).tlbs k [], l.part ≠ q := by
  intro l hl
  have : mapGet (tlbDrop s q fun _ => true).tlbs k [] = _ := mapGet_map s.tlbs (List.filter _) k [] rfl
  rw [this, List.mem_filter] at hl
  simpa using hl.2
theorem tlbDrop_llbs (s : State) (q : Nat) (k : Nat) : ∀ l ∈ mapGet (tlbDrop s q fun _ => true).llbs k [], l.part ≠ q := by
  intro l hl
  have : mapGet (tlbDrop s q fun _ => true).llbs k [] = _ := mapGet_map s.llbs (List.filter _) k [] rfl
  rw [this, List.mem_filter] at hl
  simpa using hl.2
theorem tlbDrop_walkers (s : State) (q : Nat) (hit : TlbEnt → Bool) (k : Nat) :
    ∀ p ∈ mapGet (tlbDrop s q hit).walkers k [], p.part ≠ q := by
  intro l hl
  have : mapGet (tlbDrop s q hit).walkers k [] = _ := mapGet_map s.walkers (List.filter _) k [] rfl
  rw [this, List.mem_filter] at hl
  simpa using hl.2
/-- Words that are remembered as stale for several clusters touch nothing else. -/
theorem foldl_rememberStale_frame (f : State → Nat → List (Nat × W32)) (cs : List Nat) (s : State) :
    cs.foldl (fun s c => rememberStale s c false (f s c)) s =
      { s with stale := (cs.foldl (fun s c => rememberStale s c false (f s c)) s).stale } := by
  induction cs generalizing s with
  | nil => rfl
  | cons c cs ih => rw [List.foldl_cons, ih]; rfl
/-- A clearing of cluster caches touches the caches, the misses and the stale words alone (R370 step 4). -/
theorem flashClear_frame (s : State) (q : Nat) (sel : Nat → Bool) :
    flashClear s q sel = { s with caches := (flashClear s q sel).caches, misses := (flashClear s q sel).misses
                                  stale := (flashClear s q sel).stale } := by
  unfold flashClear
  dsimp only
  rw [foldl_rememberStale_frame]
/-- An invalidation leaves of rows, memory, partitions and translations what the buffers keep without the partition's. -/
theorem invalidateRange_frame (s : State) (q : Nat) (whole : Bool) (hit : TlbEnt → Bool) :
    let t := invalidateRange s q whole hit
    t = { tlbDrop s q hit with hubs := t.hubs, caches := t.caches, misses := t.misses, stale := t.stale } := by
  intro t
  simp only [t, invalidateRange]
  rw [flashClear_frame]
theorem ptRootWrite_clears (s : State) (q : Nat) (v : Word) :
    let t := ptRootWrite s q v
    (part t q).ptRoot = field v 14 32 ||| field v 0 1 ∧
      (∀ k, ∀ l ∈ mapGet t.tlbs k [], l.part ≠ q) ∧ (∀ k, ∀ l ∈ mapGet t.llbs k [], l.part ≠ q) ∧
      (∀ k, ∀ p ∈ mapGet t.walkers k [], p.part ≠ q) ∧ t.mem = s.mem ∧ t.rows = s.rows := by
  intro t
  let u := setPart s q { part s q with ptRoot := field v 14 32 ||| field v 0 1 }
  have e : t = _ := invalidateRange_frame u q true fun _ => true
  have htlbs : t.tlbs = (tlbDrop u q fun _ => true).tlbs := (congrArg State.tlbs e).trans rfl
  have hllbs : t.llbs = (tlbDrop u q fun _ => true).llbs := (congrArg State.llbs e).trans rfl
  have hwalkers : t.walkers = (tlbDrop u q fun _ => true).walkers := (congrArg State.walkers e).trans rfl
  rw [htlbs, hllbs, hwalkers]
  exact ⟨(congrArg (fun t => (part t q).ptRoot) e).trans (congrArg Part.ptRoot (part_setPart_self ..)), tlbDrop_tlbs _ _,
    tlbDrop_llbs _ _, tlbDrop_walkers _ _ _, (congrArg State.mem e).trans rfl, (congrArg State.rows e).trans rfl⟩

/-! ### The areas of a partition (R69, R70, R137, R198, R427) -/

/-- The fields of PMEM_CFG are those of the value written. -/
theorem bits_pmemValue (v : Word) :
    let m := field v 63 1 ||| field v 32 19 ||| field v 0 32
    bits m 32 19 = bits v 32 19 ∧ bits m 0 32 = bits v 0 32 ∧ bit m 63 = bit v 63 := by
  refine ⟨bits_congr fun i hi => ?_, bits_congr fun i hi => ?_, ?_⟩
  · simp only [BitVec.getLsbD_or, getLsbD_field]
    simp [show ¬ 63 ≤ 32 + i by omega, show 32 + i < 51 by omega, show 32 + i < 64 by omega]
  · simp only [BitVec.getLsbD_or, getLsbD_field]
    simp [show ¬ 63 ≤ i by omega, show ¬ 32 ≤ i by omega, show i < 32 by omega, show i < 64 by omega]
  · simp only [bit, BitVec.getLsbD_or, getLsbD_field]
    simp

theorem pmemCfgWrite_eq (s : State) (q : Nat) (v : Word) :
    let p := part s q
    let c := (327680 - bits v 32 19) * 6 * hCount p
    let m := field v 63 1 ||| field v 32 19 ||| field v 0 32
    pmemCfgWrite s q v =
      if running s q = true ∨ ¬ (bits v 32 19 ≤ 327680 ∧
          (bit v 63 = true → bits v 0 32 ≠ 0 → c ≠ 0 ∧ (bits v 0 32 - 1) / c < 2 ^ 15)) then setBadcfg s q
      else setPart s q { p with pmem := m } := by
  intro p c m
  obtain ⟨h1, h2, h3⟩ := bits_pmemValue v
  unfold pmemCfgWrite
  simp only [h1, h2, h3]
  refine if_congr ?_ rfl rfl
  simp only [Bool.or_eq_true, Bool.and_eq_true, decide_eq_true_eq, beq_iff_eq, c, p]
  grind

theorem pcaskCfgWrite_eq (s : State) (q : Nat) (v : Word) :
    let p := { part s q with pcask := field v 44 12 ||| field v 16 24 }
    pcaskCfgWrite s q v =
      if running s q = true ∨ ¬ (inFlat p (tailBase p) (tailLen p) = true ∧ rackRows p ≤ flats p) then setBadcfg s q
      else setPart (flushTails s q) q p := by
  intro p
  unfold pcaskCfgWrite
  refine if_congr ?_ rfl rfl
  simp only [Bool.or_eq_true, decide_eq_true_eq, Bool.not_eq_true', p]
  grind
theorem prowCfgWrite_eq (s : State) (q : Nat) (v : Word) :
    let p := { part s q with prow := field v 44 20 ||| field v 16 24 }
    prowCfgWrite s q v =
      if running s q = true ∨ ¬ (inFlat p (cellBase p) (cellLen p) = true ∧ hitsTail p (cellBase p) (cellLen p) = false ∧
          hitsRack p (cellBase p) (cellLen p) = false) then setBadcfg s q
      else setPart s q p := by
  intro p
  unfold prowCfgWrite
  refine if_congr ?_ rfl rfl
  simp only [Bool.or_eq_true, Bool.not_eq_true', p]
  grind
theorem psaveCfgWrite_eq (s : State) (q : Nat) (v : Word) :
    let p := { part s q with psave := field v 30 10 }
    let b := saveBase p
    psaveCfgWrite s q v =
      if running s q = true ∨ ¬ (inFlat p b (2 ^ 30) = true ∧ hitsCell p b (2 ^ 30) = false ∧ hitsTail p b (2 ^ 30) = false ∧
          hitsRack p b (2 ^ 30) = false) then setBadcfg s q
      else setPart s q p := by
  intro p b
  unfold psaveCfgWrite
  refine if_congr ?_ rfl rfl
  simp only [Bool.or_eq_true, Bool.not_eq_true', p, b]
  grind
/-- A register that takes a value while no row runs and the value fits, and refuses it otherwise. -/
theorem runs_of_eq_ite {i : Instr} {s t u : State} {run : Bool} {fits : Prop} [Decidable fits]
    (h : exec i s = .next (if run = true ∨ ¬ fits then t else u)) :
    (run = false → fits → Runs i s fun x => x = u) ∧ (run = true ∨ ¬ fits → Runs i s fun x => x = t) :=
  ⟨fun hr hf => ⟨u, by rw [h, if_neg (by simp [hr, hf])], rfl⟩, fun hb => ⟨t, by rw [h, if_pos hb], rfl⟩⟩

/-! ### PBW and BW_STALL (R443) -/

theorem stallCount_off {s : State} {q : Nat} (h : bits (part s q).pbw 0 16 = 0) : stallCount s q = (s, (part s q).bwStall) :=
  if_pos h
theorem stallCount_on {s : State} {q : Nat} (h : bits (part s q).pbw 0 16 ≠ 0) : stallCount s q = draw s 0x443 := if_neg h
theorem pbwWrite_off {s : State} {q : Nat} (v : Word) (h : bits (part s q).pbw 0 16 = 0) :
    pbwWrite s q v =
      setPart s q { part s q with pbw := field v 32 16 ||| field v 0 16, tokens := 1024 * bits v 32 16 } := by
  unfold pbwWrite; rw [stallCount_off h]
theorem pbwWrite_on {s : State} {q : Nat} (v : Word) (h : bits (part s q).pbw 0 16 ≠ 0) :
    let t := pbwWrite s q v
    t = setPart { s with count := s.count + 1 } q { part s q with
      pbw := field v 32 16 ||| field v 0 16, tokens := 1024 * bits v 32 16, bwStall := (part t q).bwStall } := by
  intro t
  have ht : t = setPart { s with count := s.count + 1 } q { part s q with
      pbw := field v 32 16 ||| field v 0 16, tokens := 1024 * bits v 32 16, bwStall := Config.freeWord 0x443 s.count } := by
    simp only [t, pbwWrite, stallCount_on h]; rfl
  rw [ht, part_setPart_self]
theorem bwStallRead_clears (s : State) (q : Nat) :
    let t := (bwStallRead s q).1
    (part t q).bwStall = 0 ∧ t.rows = s.rows ∧ t.mem = s.mem := by
  refine ⟨congrArg Part.bwStall (part_setPart_self ..), ?_⟩
  by_cases h : bits (part s q).pbw 0 16 = 0
  · simp only [bwStallRead, stallCount_off h]; exact ⟨rfl, rfl⟩
  · simp only [bwStallRead, stallCount_on h]; exact ⟨rfl, rfl⟩

/-! ### Hot pages (R414) -/

/-- Whether a page is a cask page is read from the partitions, the tail entries and memory. -/
theorem caskPage_congr {s t : State} (hp : t.parts = s.parts) (hm : t.mem = s.mem) (hb : t.blocks = s.blocks)
    (hk : t.hub.keys = s.hub.keys) (hc : t.tailCache = s.tailCache) (page : Nat) : caskPage t page = caskPage s page := by
  unfold caskPage tailEntry entryPlace ownerPart part
  rw [hp, hc, memWord_of_same hm hb hk]
/-- What the reads of a tracker's pages change, and what page they offer (R414). -/
structure Offers (s : State) (d : Nat) (r : State × Word) : Prop where
  frame : r.1 = { s with count := r.1.count, hubs := r.1.hubs }
  count : s.count ≤ r.1.count
  only  : hub r.1 d = { hub s d with hptSkip := (hub r.1 d).hptSkip }
  skips : (hub s d).hptSkip ≤ (hub r.1 d).hptSkip
  free  : bits r.2 16 48 ≠ 0 → caskPage s (bits r.2 16 48) = false ∧ pinpPage s (bits r.2 16 48) = false
theorem Offers.none (s : State) (d : Nat) : Offers s d (s, 0) :=
  ⟨rfl, le_rfl, rfl, le_rfl, fun h => absurd (show bits 0 16 48 = 0 by decide) h⟩
/-- A read that goes on from where an earlier one has left the tracker. -/
theorem Offers.after {s t : State} {d : Nat} {r : State × Word} (h : Offers t d r)
    (ht : t = { s with count := t.count, hubs := t.hubs }) (hn : s.count ≤ t.count)
    (hd : hub t d = { hub s d with hptSkip := (hub t d).hptSkip }) (hs : (hub s d).hptSkip ≤ (hub t d).hptSkip) :
    Offers s d r where
  frame := by rw [h.frame, ht]
  count := hn.trans h.count
  only := by rw [h.only, hd]
  skips := hs.trans h.skips
  free hp := by
    obtain ⟨hc, hpin⟩ := h.free hp
    rw [caskPage_congr (s := s) (by rw [ht]) (by rw [ht]) (by rw [ht]) (by rw [ht]) (by rw [ht])] at hc
    exact ⟨hc, by rw [← hpin, ht]; rfl⟩
theorem hptNext_offers (n : Nat) (s : State) (d : Nat) : Offers s d (hptNext n s d) := by
  induction n generalizing s with
  | zero => exact .none s d
  | succ n ih =>
    have drawn : ∀ {r}, Offers { s with count := s.count + 1 } d r → Offers s d r := fun h =>
      h.after rfl (Nat.le_succ _) rfl le_rfl
    unfold hptNext draw
    dsimp only
    refine drawn ?_
    generalize { s with count := s.count + 1 } = u
    split_ifs with h0 hc hp
    · exact .none u d
    · exact ih u
    · exact (ih _).after rfl le_rfl (by rw [hub_setHub_self]) (by rw [hub_setHub_self]; exact Nat.le_succ _)
    · exact ⟨rfl, le_rfl, rfl, le_rfl, fun _ => ⟨by simpa using hc, by simpa using hp⟩⟩
theorem hptNext_count (n : Nat) (s : State) (d : Nat) : s.count < (hptNext (n + 1) s d).1.count := by
  have hu : s.count < ({ s with count := s.count + 1 } : State).count := Nat.lt_succ_self _
  unfold hptNext draw
  dsimp only
  generalize ({ s with count := s.count + 1 } : State) = u at hu
  split_ifs
  · exact hu
  · exact hu.trans_le (hptNext_offers n u d).count
  · exact hu.trans_le (hptNext_offers n (setHub u d _) d).count
  · exact hu

/-! ### Traces (R461, R462) -/

/-- Where the next record of a partition's trace goes (R461). -/
def tracePlace (p : Part) : Nat :=
  bits p.trcCtl 12 52 * 4096 + 16 * (p.trcTail.toNat % (2 ^ bits p.trcCtl 0 4 * 65536))
/-- A record goes to its place, and the tail moves on. -/
theorem traceRec_on {s : State} {q : Nat} (a b : Word) (h : bits (part s q).trcCtl 0 4 ≠ 0) :
    traceRec s q a b = setPart (setMemWord (setMemWord s (tracePlace (part s q)) a) (tracePlace (part s q) + 8) b) q
      { part s q with trcTail := (part s q).trcTail + 1 } := by
  have hu : OnlyBlocks s (setMemWord (setMemWord s (tracePlace (part s q)) a) (tracePlace (part s q) + 8) b) :=
    (ownStore_frame ..).trans (ownStore_frame ..)
  have e : traceRec s q a b = _ := if_neg h
  rw [tracePlace] at hu ⊢
  generalize setMemWord (setMemWord s _ a) _ b = u at e hu ⊢
  rw [e, part_of_parts hu.parts]
/-- A trace record is no step while LOGN is 0; else it writes memory and moves the tail on (R461). -/
theorem traceRec_cases (s : State) (q : Nat) (a b : Word) :
    traceRec s q a b = s ∨ ∃ u, OnlyBlocks s u ∧ (s.mem.wf = true → u.mem.wf = true) ∧
      traceRec s q a b = setPart u q { part s q with trcTail := (part s q).trcTail + 1 } := by
  by_cases h : bits (part s q).trcCtl 0 4 = 0
  · exact .inl (if_pos h)
  · exact .inr ⟨_, (ownStore_frame ..).trans (ownStore_frame ..), fun hw => setMemWord_wf _ _ (setMemWord_wf _ _ hw),
      traceRec_on a b h⟩
theorem traceRec_trcCtl (s : State) (q : Nat) (a b : Word) (k : Nat) : (part (traceRec s q a b) k).trcCtl = (part s k).trcCtl := by
  obtain e | ⟨u, hu, -, e⟩ := traceRec_cases s q a b
  · rw [e]
  · rw [e, part_setPart]
    split
    next h => rw [h]
    next => rw [part_of_parts hu.parts]
theorem foldl_timeRecord_frame (q : Nat) (es : List Nat) (s : State) :
    let t := es.foldl (fun s e => timeRecord s q e) s
    t.rows = s.rows ∧ t.spads = s.spads ∧ (part t q).trcCtl = (part s q).trcCtl := by
  induction es generalizing s with
  | nil => exact ⟨rfl, rfl, rfl⟩
  | cons e es ih =>
    obtain ⟨h1, h2, h3⟩ := ih (timeRecord s q e)
    exact ⟨h1.trans (traceRec_rows ..), h2.trans (traceRec_spads ..), h3.trans (traceRec_trcCtl ..)⟩
/-- The fields of TRC_CTL are those of the value written, but for a LOGN above 10 (R461). -/
theorem trcValue (v : Word) :
    let w := field v 12 52 ||| field v 0 6
    bits w 0 4 = bits v 0 4 ∧ field w 4 60 = field v 12 52 ||| field v 4 2 := by
  refine ⟨bits_congr fun i hi => ?_, BitVec.eq_of_getLsbD_eq fun i hi => ?_⟩
  · simp only [BitVec.getLsbD_or, getLsbD_field]
    simp [show ¬ 12 ≤ i by omega, show i < 6 by omega, show i < 64 by omega]
  · simp only [BitVec.getLsbD_or, getLsbD_field]
    grind
theorem trcCtlWrite_spec (s : State) (q : Nat) (v : Word) :
    let t := trcCtlWrite s q v
    t.rows = s.rows ∧ t.spads = s.spads ∧
      (part t q).trcCtl = (if 10 < bits v 0 4 then field v 12 52 ||| field v 4 2 else field v 12 52 ||| field v 0 6) ∧
      (bits (part s q).trcCtl 0 4 ≠ 0 → t.mem = s.mem) := by
  obtain ⟨hlogn, hoff⟩ := trcValue v
  unfold trcCtlWrite
  dsimp only
  rw [hlogn, hoff]
  generalize (if 10 < bits v 0 4 then _ else _ : Word) = w
  split
  next h =>
    obtain ⟨h1, h2, h3⟩ := foldl_timeRecord_frame q
      ((clustersOf (part (setPart s q { part s q with trcCtl := w }) q)).flatMap fun c => (List.range 16).map (16 * c + ·))
      { setPart s q { part s q with trcCtl := w } with execs := s.execs.map fun (e, x) =>
        if (clustersOf (part (setPart s q { part s q with trcCtl := w }) q)).contains (clusterOf e) then
          (e, { x with lastRec := x.cycle }) else (e, x) }
    refine ⟨h1, h2, h3.trans (congrArg Part.trcCtl (part_setPart_self ..)), fun h0 => ?_⟩
    simp [h0] at h
  next => exact ⟨rfl, rfl, congrArg Part.trcCtl (part_setPart_self ..), fun _ => rfl⟩

/-- A record stands where the tail of the trace points, and the tail moves on (R461). -/
theorem traceRec_written {s : State} (q : Nat) (a b : Word) (h : bits (part s q).trcCtl 0 4 ≠ 0) (hw : s.mem.wf = true) :
    let t := traceRec s q a b
    memWord t (tracePlace (part s q)) = a ∧ memWord t (tracePlace (part s q) + 8) = b ∧
      (part t q).trcTail = (part s q).trcTail + 1 := by
  have hw1 := setMemWord_wf (tracePlace (part s q)) a hw
  have hmem : ∀ u p x, memWord (setPart u q p) x = memWord u x := fun _ _ _ => memWord_of_same rfl rfl rfl _
  dsimp only
  rw [traceRec_on a b h]
  refine ⟨?_, ?_, by rw [part_setPart_self]⟩
  · rw [hmem, memWord_setMemWord_apart _ hw1 (by omega), memWord_setMemWord_self _ _ hw]
  · rw [hmem, memWord_setMemWord_self _ _ hw1]
/-- A partition that is the only one listed reads as it is listed. -/
theorem part_of_only {s : State} {q : Nat} {p : Part} (h : s.parts = [(q, p)]) : part s q = p := by
  unfold part; rw [h]; simp [mapGet, mapGet?]
theorem traceTimeRecord_runs {s : State} {q : Nat} (e : Nat) {p : Part} (hs : s.parts = [(q, p)]) (hc : MemoryCanonical s) :
    (bit p.trcCtl 4 = true → bits p.trcCtl 0 4 ≠ 0 → (clustersOf p).contains (clusterOf e) = true →
      let a := bits p.trcCtl 12 52 * 4096 + 16 * (p.trcTail.toNat % (2 ^ bits p.trcCtl 0 4 * 65536))
      Runs (.traceTimeRecord e) s fun t => memWord t a = w64 (at_ 3 60 + at_ e 51) ∧ memWord t (a + 8) = w64 s.time ∧
        (part t q).trcTail = p.trcTail + 1) ∧
    (bit p.trcCtl 4 = false → Runs (.traceTimeRecord e) s fun t => t = s) := by
  have hx : exec (.traceTimeRecord e) s =
      .next (if (bit p.trcCtl 4 && (clustersOf p).contains (clusterOf e)) = true then timeRecord s q e else s) := by
    show execTraceTimeRecord e s = _
    unfold execTraceTimeRecord
    rw [hs]; rfl
  have hp := part_of_only hs
  refine ⟨fun h4 h0 hcl => ⟨_, hx, ?_⟩, fun h4 => ⟨_, hx, by simp [h4]⟩⟩
  rw [h4, hcl]
  have := traceRec_written (s := s) q (w64 (at_ 3 60 + at_ e 51)) (w64 s.time) (by rw [hp]; exact h0) hc.1
  rw [hp] at this
  exact this

/-! ### The power state (R465) -/

theorem pwrCtlWrite_cases (s : State) (v : Word) :
    let n := BitVec.ofNat 3 (bits v 0 3)
    (5 ≤ bits v 0 3 → pwrCtlWrite s v = s) ∧
    (bits v 0 3 < 5 → s.hub.changing = true →
      pwrCtlWrite s v = { s with hub := { s.hub with pwrCtl := n, pwrNext := some n } }) ∧
    (bits v 0 3 < 5 → s.hub.changing = false → maxState s n ≠ s.hub.pwrCur →
      pwrCtlWrite s v =
        { s with hub := { s.hub with pwrCtl := n, pwrNext := some n, changing := true, trans := s.hub.trans + 1 } }) := by
  intro n
  unfold pwrCtlWrite
  refine ⟨fun h => if_pos h, fun h hc => ?_, fun h hc hm => ?_⟩
  · rw [if_neg (by omega)]
    exact if_pos hc
  · rw [if_neg (by omega)]
    dsimp only
    rw [if_neg (by simp [hc])]
    exact if_neg hm
theorem clockChangeDone_runs (s : State) :
    (s.hub.changing = true → Runs .clockChangeDone s fun t => t.time = s.time + 2000 ∧
      t.hub.changing = false ∧ t.hub.pwrCur = maxState s (s.hub.pwrNext.getD s.hub.pwrCtl) ∧ t.hub.pwrNext = none ∧
      t = { s with time := t.time, hub := t.hub }) ∧
    (s.hub.changing = false → Runs .clockChangeDone s fun t => t = s) := by
  refine ⟨fun h => ⟨_, rfl, ?_⟩, fun h => ⟨_, rfl, if_neg (by simp [h])⟩⟩
  rw [if_pos h]
  exact ⟨rfl, rfl, rfl, rfl, rfl⟩

/-! ### Writes to the windows (R437) -/

/-- A command register that is not busy takes its command. -/
theorem caskCtlWrite_init {s : State} {q : Nat} {v : Word} (hb : (part s q).caskBusy = false) (ho : bits v 6 2 = 1) :
    let t := caskCtlWrite s q v
    (part t q).caskBusy = true ∧ Msg.caskInit q (bits v 16 48) ∈ t.agenda := by
  have e : caskCtlWrite s q v = _ := if_neg (by simp [hb])
  simp only [ho] at e
  rw [e]
  exact ⟨congrArg Part.caskBusy (part_setPart_self ..), List.mem_append_right _ (List.mem_singleton_self _)⟩
theorem pgCtlWrite_migrate {s : State} {q : Nat} {v : Word} (hb : (part s q).pgBusy = false) (ho : bits v 13 3 = 4) :
    let t := pgCtlWrite s q v
    (part t q).pgBusy = true ∧ Msg.migrate q (bits v 16 48) ∈ t.agenda := by
  have e : pgCtlWrite s q v = _ := if_neg (by simp [hb])
  simp only [ho] at e
  rw [e]
  exact ⟨congrArg Part.pgBusy (part_setPart_self ..), List.mem_append_right _ (List.mem_singleton_self _)⟩
theorem pctlWrite_enable {s : State} {q : Nat} {v : Word} (hb : (part s q).pctlBusy = false) (ho : bits v 2 2 = 1) :
    let t := pctlWrite s q v
    (part t q).pctlBusy = true ∧ Msg.enable q ∈ t.agenda := by
  have e : pctlWrite s q v = _ := if_neg (by simp [hb])
  simp only [ho] at e
  rw [e]
  exact ⟨congrArg Part.pctlBusy (part_setPart_self ..), List.mem_append_right _ (List.mem_singleton_self _)⟩
theorem keyCtlWrite_load {s : State} {v : Word} (hb : s.hub.keyBusy = false) (hm : s.hub.mgmtHalted = false)
    (ho : bits v 8 2 = 1) :
    let t := keyCtlWrite s v
    t.hub.keyBusy = true ∧ Msg.keyLoad (bits v 0 6) ∈ t.agenda := by
  have e : keyCtlWrite s v = _ := if_neg (by simp [hb, hm])
  simp only [ho] at e
  rw [e]
  exact ⟨rfl, List.mem_append_right _ (List.mem_singleton_self _)⟩
/-- The tail register of a launch queue lies at 0x48 + 32 n. -/
theorem windowWrite_lqTail {s : State} {q n : Nat} {v : Word} (hn : n < 4) (ht : bits v 32 32 ≠ (lq s q n).tail.toNat) :
    windowWrite s q (0x48 + 32 * n) v = launchRing s q n (BitVec.ofNat 32 (bits v 32 32)) := by
  have hne : BitVec.ofNat 32 (bits v 32 32) ≠ (lq s q n).tail := fun h => ht <| by
    have hlt : bits v 32 32 < 2 ^ 32 := (v.extractLsb' 32 32).isLt
    rw [← h, BitVec.toNat_ofNat, Nat.mod_eq_of_lt hlt]
  unfold windowWrite
  dsimp only
  rw [if_neg (by omega), if_neg (by omega), if_pos (by simp; omega), show (0x48 + 32 * n - 0x40) % 32 = 8 by omega,
    show (0x48 + 32 * n - 0x40) / 32 = n by omega]
  exact if_neg hne
/-- The registers of a partition's block lie in 256 bytes of the hub die (R439). -/
theorem hubDieWrite_block {s : State} {q off : Nat} (v : Word) (hq : q < 32) (ho : off < 256) :
    hubDieWrite s (256 * q + off) v = blockWrite s q off v := by
  unfold hubDieWrite
  dsimp only
  rw [if_pos (by omega), show (256 * q + off) / 256 = q by omega, show (256 * q + off) % 256 = off by omega]

/-- Settles O54: the registers of partitions, then keys, the slice table, trackers, traces, power and the rollback floor. -/
theorem registerSteps : Obligations.RegisterSteps := by
  refine ⟨⟨?_, ?_, ?_, ?_, ?_, ?_, ?_, ?_⟩, ?_, ?_, ?_, ?_, ?_, ?_, ?_, ?_, ?_⟩
  · exact fun s q v => ⟨_, rfl, ptRootWrite_clears s q v⟩
  · exact fun s q v => runs_of_eq_ite (congrArg _ (pmemCfgWrite_eq s q v))
  · exact fun s q v => runs_of_eq_ite (congrArg _ (pcaskCfgWrite_eq s q v))
  · exact fun s q v => runs_of_eq_ite (congrArg _ (prowCfgWrite_eq s q v))
  · exact fun s q v => runs_of_eq_ite (congrArg _ (psaveCfgWrite_eq s q v))
  · exact fun s q v => ⟨fun h => ⟨_, rfl, pbwWrite_off v h⟩, fun h => ⟨_, rfl, pbwWrite_on v h⟩⟩
  · exact fun s q => ⟨⟨_, rfl, bwStallRead_clears s q⟩, _, rfl, rfl⟩
  · intro s q v
    refine ⟨⟨_, rfl, rfl⟩, ⟨_, rfl, rfl⟩, fun h => ?_, fun n hn ht => ⟨_, rfl, ?_⟩, ⟨_, rfl, ?_⟩, ⟨_, rfl, ?_⟩,
      ⟨_, rfl, rfl⟩, fun hb ho => ⟨_, rfl, caskCtlWrite_init hb ho⟩, fun hb ho => ⟨_, rfl, pgCtlWrite_migrate hb ho⟩,
      fun hq hb ho => ?_, fun hq => ⟨fun h => ?_, fun he hm => ?_⟩⟩
    · exact runs_of_eq (t := windowWrite s q 0 v) (u := badcfgClear s q) rfl (if_pos h)
        (congrArg Part.badcfg (part_setPart_self ..))
    · exact congrArg _ (windowWrite_lqTail hn ht).symm
    · exact congrArg Part.pgDst (part_setPart_self ..)
    · exact congrArg Part.pgPte (part_setPart_self ..)
    · exact runs_of_eq rfl (hubDieWrite_block (off := 0x60) v hq (by omega)) (pctlWrite_enable hb ho)
    · exact runs_of_eq rfl (hubDieWrite_block (off := 0) v hq (by omega)) (if_pos (by simpa using h))
    · refine runs_of_eq rfl (hubDieWrite_block (off := 0) v hq (by omega)) ?_
      rw [show blockWrite s q 0 v = _ from if_neg (by simp [he, hm])]
      exact congrArg Part.pdef0 (part_setPart_self ..)
  · exact fun s k => ⟨⟨_, rfl, mapGet_mapSet_self .., rfl, rfl, rfl⟩, _, rfl, mapGet_mapSet_self .., rfl, rfl⟩
  · exact fun s v => ⟨_, rfl, mapGet_mapSet_self .., rfl, rfl, rfl⟩
  · intro s d
    have h := hptNext_offers 64 s d
    exact ⟨⟨_, rfl, h.frame, hptNext_count 63 s d, h.only, h.skips, rfl, h.free⟩, _, rfl, hub_setHub_self .., rfl⟩
  · exact fun s q v => ⟨_, rfl, trcCtlWrite_spec s q v⟩
  · exact fun s q e p hs hc => traceTimeRecord_runs e hs hc
  · intro s v
    obtain ⟨h1, h2, h3⟩ := pwrCtlWrite_cases s v
    exact ⟨fun h => ⟨_, rfl, h1 h⟩, fun h hc => ⟨_, rfl, h2 h hc⟩, fun h hc hm => ⟨_, rfl, h3 h hc hm⟩⟩
  · exact clockChangeDone_runs
  · intro s v
    refine ⟨fun hi hf => runs_of_eq rfl (if_pos (by simp [hi, hf])) ⟨mapGet_mapSet_self .., mapGet_mapSet_self ..⟩,
      fun h => ⟨_, rfl, if_neg ?_⟩⟩
    simp only [Bool.and_eq_true, decide_eq_true_eq, not_and_or, not_lt]
    exact h
  · intro s v
    exact ⟨⟨_, rfl, Nat.mod_eq_of_lt (v.extractLsb' 0 32).isLt⟩, ⟨_, rfl, rfl⟩, ⟨_, rfl, rfl⟩, ⟨_, rfl, rfl⟩,
      fun h => runs_of_eq rfl (if_pos h) (List.mem_append_right _ (List.mem_singleton_self _)),
      fun hb hm ho => ⟨_, rfl, keyCtlWrite_load hb hm ho⟩⟩

end Sys2Proof.Machine
end

section
/-!
PROOF. O45 and O46 fail at a page whose home has left this module (R97): an agent of the hub die may still hold a copy of a line
there, which is no keeper of the line, and the home invalidates it before it makes the write.
-/

namespace Sys2Proof.Machine

/-- Page 0 has left this module, and the first control executor's cache holds its first line. -/
def copyOfLeftPage : State := { State.reset with leaving := [0], caches := [(lineKey 0x60 0, CLine.init)] }

/-- A cluster's write of one byte to the line. -/
def writeToLeftPage : Req where
  op := .write
  agent := 0
  inc := 0
  part := 0
  row := ⟨0, 0⟩
  exec := 0
  slot := 8
  tag := 0
  va := 0
  pa := 0
  size := 1
  signed := false
  key := 0
  hint := .norm
  mask := 0
  data := [1]
  id := 0

/-- The home takes the write at once: only the copy stands in its way. -/
theorem homeReady_writeToLeftPage : HomeReady copyOfLeftPage writeToLeftPage := by
  constructor <;> decide
theorem lineQuiet_copyOfLeftPage : LineQuiet copyOfLeftPage 0 := by
  constructor <;> decide
theorem memoryCanonical_copyOfLeftPage : MemoryCanonical copyOfLeftPage := memoryCanonical_reset
/-- The byte is not written: the home waits for the copy's invalidation. -/
theorem homeArrive_writeToLeftPage :
    (homeArrive copyOfLeftPage writeToLeftPage).mem = [] ∧
      Msg.invalidation 0x60 0 1 false ∈ (homeArrive copyOfLeftPage writeToLeftPage).agenda := by decide

/-- Refutes O45: the write-through clause leaves out the copies of a page that has left, which are invalidated first (R96, R97). -/
theorem not_homeRequests : ¬ Obligations.HomeRequests := by
  intro h
  obtain ⟨-, -, -, hquiet⟩ := h copyOfLeftPage writeToLeftPage memoryCanonical_copyOfLeftPage homeReady_writeToLeftPage
  obtain ⟨-, -, -, hwrite, -⟩ := hquiet lineQuiet_copyOfLeftPage
  obtain ⟨t, hx, hbytes, -⟩ := (hwrite rfl ⟨by decide, by decide⟩ rfl).1 (by decide)
  obtain rfl : homeArrive copyOfLeftPage writeToLeftPage = t := Host.Outcome.next.inj hx
  rw [homeArrive_writeToLeftPage.1] at hbytes
  exact absurd hbytes (by decide)

/-- Page 0 has left this module, a copy engine holds its first line, and the first control executor's cache holds a copy. -/
def engineOfLeftPage : State :=
  { copyOfLeftPage with homes := [(0, { HLine.init with reg := { RegEntry.init with eng := true, ownA := 0x20 } })] }
/-- The engine's write of its line. -/
def engineWriteToLeftPage : Req := { writeToLeftPage with agent := 0x20 }
theorem engineArrive_engineWriteToLeftPage : (engineArrive engineOfLeftPage engineWriteToLeftPage).mem = [] := by decide

/-- Refutes O46: an engine's write of its line waits for the copies of a page that has left (R96, R97). -/
theorem not_homeAnswers : ¬ Obligations.HomeAnswers := by
  intro h
  obtain ⟨t, hx, hbytes, -⟩ := h.1.1 engineOfLeftPage engineWriteToLeftPage memoryCanonical_reset rfl rfl rfl rfl rfl rfl rfl
    ⟨by decide, by decide⟩ (by decide)
  obtain rfl : engineArrive engineOfLeftPage engineWriteToLeftPage = t := Host.Outcome.next.inj hx
  rw [engineArrive_engineWriteToLeftPage] at hbytes
  exact absurd hbytes (by decide)

end Sys2Proof.Machine
end

section
/-!
SUPPORT. Traces of coherence (R463), the tail entry as it is written (R136), and the lines of a cache after each is changed alike.
-/

namespace Sys2Proof.Machine

/-! ### Coherence records -/

/-- What a trace touches: memory, its blocks, the tail of the partition's trace, and the free values drawn. -/
def OnlyTrace (s t : State) : Prop := t = { s with mem := t.mem, blocks := t.blocks, parts := t.parts, count := t.count }

section

variable {s t u : State} (h : OnlyTrace s t)
include h

theorem OnlyTrace.eq : t = { s with mem := t.mem, blocks := t.blocks, parts := t.parts, count := t.count } := h
theorem OnlyTrace.trans (k : OnlyTrace t u) : OnlyTrace s u := by
  unfold OnlyTrace at *
  rw [k, h]
theorem OnlyTrace.rows : t.rows = s.rows := (congrArg State.rows h.eq).trans rfl
theorem OnlyTrace.homes : t.homes = s.homes := (congrArg State.homes h.eq).trans rfl
theorem OnlyTrace.agenda : t.agenda = s.agenda := (congrArg State.agenda h.eq).trans rfl
theorem OnlyTrace.leases : t.leases = s.leases := (congrArg State.leases h.eq).trans rfl
theorem OnlyTrace.leaving : t.leaving = s.leaving := (congrArg State.leaving h.eq).trans rfl

end

theorem OnlyTrace.refl (s : State) : OnlyTrace s s := rfl
theorem OnlyBlocks.onlyTrace {s t : State} (h : OnlyBlocks s t) : OnlyTrace s t := by
  unfold OnlyBlocks at h; unfold OnlyTrace
  rw [h]
theorem traceRec_onlyTrace (s : State) (q : Nat) (a b : Word) : OnlyTrace s (traceRec s q a b) := by
  obtain e | ⟨u, hu, -, e⟩ := traceRec_cases s q a b
  · rw [e]; exact .refl s
  · rw [e]; exact hu.onlyTrace.trans rfl
theorem traceCoh_onlyTrace (s : State) (q event scope agent pa : Nat) : OnlyTrace s (traceCoh s q event scope agent pa) := by
  unfold traceCoh draw
  split
  · exact OnlyTrace.trans (t := { s with count := s.count + 1 }) rfl (traceRec_onlyTrace ..)
  · exact .refl s
theorem traceStale_onlyTrace (s : State) (q agent was now pa : Nat) : OnlyTrace s (traceStale s q agent was now pa) := by
  unfold traceStale
  split
  · exact (traceCoh_onlyTrace ..).trans (traceRec_onlyTrace ..)
  · exact .refl s
theorem logStale_onlyTrace (s : State) (q agent inc pa : Nat) : OnlyTrace s (logStale s q agent inc pa) := traceStale_onlyTrace ..

/-! ### Tail entries (R135, R136) -/

/-- Tail entries written home touch memory, blocks and the cached entries. -/
theorem writeEntries_frame (s : State) (l : List (Nat × Word)) :
    writeEntries s l = { s with mem := (writeEntries s l).mem, blocks := (writeEntries s l).blocks,
                                tailCache := (writeEntries s l).tailCache } := by
  unfold writeEntries
  induction l generalizing s with
  | nil => rfl
  | cons x l ih => rw [List.foldl_cons, ih]; rfl
/-- Where a tail entry is written: in the cache, in memory, or in the cache after other entries have gone home (R136). -/
theorem setTailEntry_cases (s : State) (q page : Nat) (e : Word) :
    let a := entryPlace s q page
    let cached := fun u : State => { u with tailCache := mapSet u.tailCache a e }
    setTailEntry s q page e = cached s ∨ (mapGet? s.tailCache a = none ∧ setTailEntry s q page e = setMemWord s a e) ∨
      ∃ l, setTailEntry s q page e = cached (writeEntries { s with count := s.count + 1 } l) := by
  intro a cached
  unfold setTailEntry draw
  dsimp only
  by_cases hc : ((mapGet? s.tailCache a).isSome || decide (s.tailCache.length < 512)) = true
  · exact .inl (if_pos hc)
  · rw [if_neg hc]
    split
    · exact .inl rfl
    · split
      · refine .inr (.inl ⟨?_, rfl⟩)
        simp only [Bool.or_eq_true, not_or, Option.not_isSome_iff_eq_none] at hc
        exact hc.1
      · exact .inr (.inr ⟨_, rfl⟩)
/-- Nothing changes by a tail entry that is written but memory, blocks, the cached entries and the count of draws. -/
theorem setTailEntry_frame (s : State) (q page : Nat) (e : Word) :
    let t := setTailEntry s q page e
    t = { s with mem := t.mem, blocks := t.blocks, tailCache := t.tailCache, count := t.count } := by
  intro t
  obtain h | ⟨-, h⟩ | ⟨l, h⟩ := setTailEntry_cases s q page e
  · rw [show t = _ from h]
  · rw [show t = _ from h]; rfl
  · rw [show t = _ from h, writeEntries_frame]
/-- A tail entry reads as it was written. -/
theorem tailEntry_setTailEntry {s : State} (q page : Nat) (e : Word) (hw : s.mem.wf = true) :
    tailEntry (setTailEntry s q page e) q page = e := by
  have place : entryPlace (setTailEntry s q page e) q page = entryPlace s q page := by
    unfold entryPlace part; rw [setTailEntry_frame]
  unfold tailEntry
  rw [place]
  obtain h | ⟨hn, h⟩ | ⟨l, h⟩ := setTailEntry_cases s q page e
  · rw [h]; simp
  · rw [h, setMemWord_tailCache, hn, Option.getD_none, memWord_setMemWord_self _ _ hw]
  · rw [h]; simp

end Sys2Proof.Machine
end

section
/-!
PROOF. O47: leases of pages between modules, the hand-over of a page's home, and the rack maps.
-/

namespace Sys2Proof.Machine

/-! ### Leases (R94 to R96) -/

/-- A line of a page that is dropped keeps its registered words alone. -/
theorem cline_dropPage (s : State) (page : Nat) {agent line : Nat} (hp : line / 512 = page) (hl : line < 2 ^ 40) :
    (cline (dropPage s page) agent line).v = (cline s agent line).v &&& (cline s agent line).rg := by
  have hkey : lineKey agent line % 2 ^ 40 / 512 = page := by unfold lineKey; omega
  have hget : ∀ m : NMap CLine, mapGet? (m.map fun x => if x.1 % 2 ^ 40 / 512 = page then (x.1, clearLine x.2) else (x.1, x.2))
      (lineKey agent line) = (mapGet? m (lineKey agent line)).map clearLine := by
    intro m
    induction m with
    | nil => rfl
    | cons x m ih =>
      rw [List.map_cons]
      by_cases h : lineKey agent line = x.1
      · rw [if_pos (by rw [← h, hkey]), mapGet?, mapGet?, if_pos h, if_pos h]; rfl
      · split <;> rw [mapGet?, mapGet?, if_neg h, if_neg h, ih]
  have e : cline? (dropPage s page) agent line = (cline? s agent line).map clearLine := hget s.caches
  unfold cline
  rw [e]
  cases cline? s agent line <;> rfl
/-- What is left of a page that is homed elsewhere when it is dropped (R95, R96). -/
def PageDropped (s : State) (page : Nat) (t : State) : Prop :=
  t.mem = s.mem ∧ (∀ l ∈ t.leases, ¬ (l.isHome = false ∧ l.page = page)) ∧
    ∀ agent line, line / 512 = page → line < 2 ^ 40 →
      (cline t agent line).v = (cline s agent line).v &&& (cline s agent line).rg
theorem pageDropped_dropPage {s : State} {page : Nat} {ls : List Lease}
    (h : ∀ l ∈ ls, ¬ (l.isHome = false ∧ l.page = page)) : PageDropped s page (dropPage { s with leases := ls } page) :=
  ⟨rfl, h, fun _ _ hp hl => cline_dropPage { s with leases := ls } page hp hl⟩
/-- A length outside 10 µs to 10 ms is the default (R94). -/
theorem leaseLength (time expiry : Nat) :
    (if inRange (expiry - time) 10000 9990001 = true then expiry else time + 100000) =
      if 10000 ≤ expiry - time ∧ expiry - time ≤ 10000000 then expiry else time + 100000 := by
  refine if_congr ?_ rfl rfl
  simp only [inRange, Bool.and_eq_true, decide_eq_true_eq]
  omega
theorem leaseRenewal_home {s : State} {page : Nat} (part expiry : Nat) (h : s.leaving.contains page = false) :
    let ends := if 10000 ≤ expiry - s.time ∧ expiry - s.time ≤ 10000000 then expiry else s.time + 100000
    Runs (.leaseRenewal part page true expiry) s fun t =>
      (⟨page, 0xC0 + part % 64, true, s.time, ends, s.hub.trans, false⟩ : Lease) ∈ t.leases ∧ t.mem = s.mem := by
  refine ⟨_, rfl, ?_⟩
  dsimp only
  rw [h, leaseLength]
  exact ⟨List.mem_append_right _ (List.mem_singleton_self _), rfl⟩
theorem leaseRenewal_away {s : State} {page : Nat} (part expiry : Nat) (h : s.leaving.contains page = true) :
    let ends := if 10000 ≤ expiry - s.time ∧ expiry - s.time ≤ 10000000 then expiry else s.time + 100000
    (Runs (.leaseRenewal part page true expiry) s fun t =>
      (⟨page, part, false, s.time, ends, s.hub.trans, false⟩ : Lease) ∈ t.leases ∧ t.mem = s.mem) ∧
    Runs (.leaseRenewal part page false expiry) s (PageDropped s page) := by
  refine ⟨⟨_, rfl, ?_⟩, ⟨_, rfl, ?_⟩⟩
  · dsimp only
    rw [h, leaseLength]
    exact ⟨List.mem_append_right _ (List.mem_singleton_self _), rfl⟩
  · rw [h]
    refine pageDropped_dropPage fun l hl hd => ?_
    simp [hd] at hl
/-- A lease ends at once when no change awaits its holder (R96). -/
theorem releaseLease_quiet {s : State} {page holder : Nat}
    (h : ∀ line, ((txnOf s line).any fun x => x.awaiting.contains holder) = false) :
    releaseLease s page holder = { s with leases := s.leases.filter fun l => !(l.isHome && l.page == page && l.holder == holder) } := by
  unfold releaseLease
  dsimp only
  generalize hu : ({ s with leases := s.leases.filter _ } : State) = u
  have hq : ∀ line, ((txnOf u line).any fun x => x.awaiting.contains holder) = false := fun line => by rw [← hu]; exact h line
  generalize s.homes.map (·.1) = lines
  induction lines with
  | nil => rfl
  | cons line lines ih => rw [List.foldl_cons, if_neg (by rw [hq]; simp), ih]

/-! ### The hand-over of a home (R97) -/

/-- A line of a page that is homed here again has no registrations and no keepers. -/
theorem hline_freshHome (s : State) {page line : Nat} (h : line / 512 = page) :
    (hline (freshHome s page) line).reg = RegEntry.init ∧ (hline (freshHome s page) line).keep = KeepEntry.init := by
  unfold hline freshHome mapGet
  dsimp only
  induction s.homes with
  | nil => exact ⟨rfl, rfl⟩
  | cons x m ih =>
    rw [List.map_cons]
    by_cases e : line = x.1
    · rw [if_pos (by rw [← e, h]), mapGet?, if_pos e]
      exact ⟨rfl, rfl⟩
    · split <;> rw [mapGet?, if_neg e] <;> exact ih

/-! ### Rack maps (R152 to R155) -/

theorem tailEntry_sendAll (s : State) (ms : List Msg) (q page : Nat) : tailEntry (sendAll s ms) q page = tailEntry s q page := by
  unfold tailEntry
  rw [memWord_of_same (s := s) (t := sendAll s ms) rfl rfl rfl]
  rfl
theorem rackRequest_sends {s : State} {die page gen : Nat} (hw : s.mem.wf = true) :
    let q := ownerPart s (65536 * page)
    let e := tailEntry s q page
    teState e = 2 → teGen e = gen → Runs (.rackRequest die page gen) s fun t =>
      teRacked (tailEntry t q page) = (teRacked e ||| 2 ^ die) % 16 ∧
      ∀ i, i < 512 → ∃ data, Msg.rackPushLine die page gen i data ∈ t.agenda ∧ data.length = 32 := by
  intro q e hs hg
  refine runs_of_eq rfl (if_pos (by simp only [Bool.and_eq_true, decide_eq_true_eq]; exact ⟨hs, hg⟩)) ⟨?_, fun i hi => ?_⟩
  · refine (congrArg teRacked ((tailEntry_sendAll ..).trans (tailEntry_setTailEntry q page _ hw))).trans ?_
    exact bits_putBits_self _ _ _ _ (by decide)
  · exact ⟨_, List.mem_append_right _ (List.mem_map_of_mem (List.mem_range.mpr hi)), by simp⟩
theorem rackRequest_stale {s : State} {die page gen : Nat} :
    let q := ownerPart s (65536 * page)
    let e := tailEntry s q page
    teState e ≠ 2 ∨ teGen e ≠ gen → Runs (.rackRequest die page gen) s fun t => t.mem = s.mem ∧
      t.agenda = s.agenda ∧ ∀ x ∈ t.racks, x.die = die → x.page = page → x.valid = true := by
  intro q e h
  refine runs_of_eq rfl (if_neg ?_) ⟨rfl, rfl, fun x hx hd hp => ?_⟩
  · simp only [Bool.and_eq_true, decide_eq_true_eq, not_and_or]; exact h
  · simpa [hd, hp] using (List.mem_filter.mp hx).2
/-- Two stores side by side read back as one. -/
theorem memBytes_memStore_two {m : Memory} (a : Nat) (l r : List Byte) (h : m.wf = true) :
    memBytes (memStore (memStore m a l) (a + l.length) r) a (l.length + r.length) = l ++ r := by
  have hw := memStore_wf a l h
  have split : ∀ (m : Memory) a j k, memBytes m a (j + k) = memBytes m a j ++ memBytes m (a + j) k := by
    intro m a j k
    induction j generalizing a with
    | zero => simp [memBytes]
    | succ j ih => rw [Nat.add_right_comm, memBytes, ih, memBytes, List.cons_append, Nat.add_assoc a 1 j, Nat.add_comm 1 j]
  rw [split, memBytes_memStore_outside _ _ _ _ hw (.inl le_rfl), memBytes_memStore_self _ _ h, memBytes_memStore_self _ _ hw]
theorem flatMap_wordBytes_length (l : List W32) : (l.flatMap wordBytes).length = 4 * l.length := by
  induction l with
  | nil => rfl
  | cons w l ih => rw [List.flatMap_cons, List.length_append, ih, List.length_cons]; simp [wordBytes]; omega
theorem rackPushLine_writes {s : State} {die page gen line : Nat} {x : RackEnt} {data : List W32} (hw : s.mem.wf = true)
    (hd : data.length = 32)
    (hx : s.racks.find? (fun x => x.die == die && x.page == page && x.gen == gen && !x.valid) = some x) :
    Runs (.rackPushLine die page gen line data) s fun t =>
      memBytes t.mem (frameLine (part s x.part) die x.frame line) 128 = data.flatMap wordBytes ∧
      { x with left := x.left - 1, valid := x.left == 1 } ∈ t.racks := by
  refine ⟨_, rfl, ?_⟩
  rw [hx]
  refine ⟨?_, List.mem_map.mpr ⟨x, List.mem_of_find?_eq_some hx, if_pos rfl⟩⟩
  change memBytes (memStore (memStore s.mem (frameLine (part s x.part) die x.frame line + 64 * 0) _)
    (frameLine (part s x.part) die x.frame line + 64 * 1) _) (frameLine (part s x.part) die x.frame line) (64 + 64) = _
  generalize frameLine (part s x.part) die x.frame line = fa
  have h0 : (((data.drop (16 * 0)).take 16).flatMap wordBytes).length = 64 := by
    rw [flatMap_wordBytes_length]; simp [hd]
  have h1 : (((data.drop (16 * 1)).take 16).flatMap wordBytes).length = 64 := by
    rw [flatMap_wordBytes_length]; simp [hd]
  have hbytes := memBytes_memStore_two fa (((data.drop (16 * 0)).take 16).flatMap wordBytes)
    (((data.drop (16 * 1)).take 16).flatMap wordBytes) hw
  rw [h0, h1] at hbytes
  rw [Nat.mul_zero, Nat.add_zero]
  refine hbytes.trans ?_
  rw [← List.flatMap_append]
  congr 1
  rw [show (data.drop (16 * 1)).take 16 = data.drop 16 from List.take_of_length_le (by simp [hd])]
  exact List.take_append_drop 16 data

/-- Settles O47: leases, the hand-over, and the rack maps. -/
theorem leasesAndRacks : Obligations.LeasesAndRacks := by
  refine ⟨fun s page holder => ⟨fun part expiry => ⟨leaseRenewal_home part expiry, leaseRenewal_away part expiry⟩,
    fun l hl => ⟨fun he hq => ?_, fun he => ?_, fun hr hq => ?_⟩, fun inc hi => ?_, ?_, fun h => ?_, fun h hq hc => ?_,
    fun h hb => ?_⟩, fun s die page hc => ⟨fun gen => ⟨rackRequest_sends hc.1, rackRequest_stale⟩,
    fun x gen line data hd hx => rackPushLine_writes hc.1 hd hx, fun gen line data hx => ⟨_, rfl, by rw [hx]⟩, _, rfl, rfl,
    fun x hx h => ?_⟩⟩
  · refine ⟨_, rfl, ?_⟩
    rw [hl]
    exact (if_pos he).trans (releaseLease_quiet hq)
  · refine ⟨_, rfl, ?_⟩
    rw [hl]
    exact if_neg (by omega)
  · have hp := List.find?_some hl
    have hany : (s.leases.any fun l => l.isHome && l.page == page && l.holder == holder && l.revoking) = true :=
      List.any_eq_true.mpr ⟨l, List.mem_of_find?_eq_some hl, by rw [hp, hr]; rfl⟩
    exact ⟨_, rfl, by rw [if_neg (by simp [staleInc]), if_pos hany, releaseLease_quiet hq]⟩
  · refine runs_of_eq rfl (if_pos (by simpa [staleInc] using Ne.symm hi)) ?_
    exact ⟨(logStale_onlyTrace ..).leases, (logStale_onlyTrace ..).homes⟩
  · exact ⟨_, rfl, pageDropped_dropPage fun l hl hd => by simp [hd] at hl⟩
  · refine runs_of_eq rfl (if_pos h) ?_
    have ht := traceCoh_onlyTrace (freshHome { s with leaving := s.leaving.filter (· != page) } page)
      (ownerPart s (65536 * page)) 3 4 handoverUnit (65536 * page)
    refine ⟨ht.leaving, fun line hl => ?_⟩
    unfold hline
    rw [ht.homes]
    exact hline_freshHome _ hl
  · refine ⟨_, rfl, ?_⟩
    dsimp only
    rw [if_neg (by rw [h]; simp), if_pos (by rw [hq, hc]; rfl)]
    generalize quiesce s (ownerPart s (65536 * page)) page = u
    exact (traceCoh_onlyTrace ..).leaving
  · refine runs_of_eq rfl ((if_neg (by rw [h]; simp)).trans (if_neg ?_)) rfl
    rcases hb with hb | hb <;> simp [hb]
  · have := (List.mem_filter.mp hx).2
    simp [h] at this

end Sys2Proof.Machine
end

section
/-!
PROOF. O56 fails where the row that is frozen names a claim of another row: the freeze writes that row's d11, which brings a bank row
that was free into the cluster's banks, and the request stays at stage 4.
-/

namespace Sys2Proof.Machine

/-- A claim of row 1, with a command in it. -/
def strangersClaim : Claim :=
  { num := 0, row := ⟨0, 1⟩, want := 0, lanes := 0, marea := 0, shrk := false,
    cmds := [⟨0, .copyStep 0 0, 0, 0, 0⟩], ring := [], last := 0, fn := none, parked := none }
/-- The forced freeze of cluster 0 for partition 0, under way. -/
def freezing : PreReq := ⟨0, 4, [], false, false⟩
/-- Bank row 0 holds row 0, whose d11 names the claim of row 1; the row table gives row 1 the bank row 1, which is free. -/
def freezeOfStrangersClaim : State :=
  { State.reset with
    mem := [(7, 0x80), (8, 1), (15, 0x80)]
    rows := [(0, imgSet Image.init 11 1)]
    pools := [(0, { Pool.init with claims := [strangersClaim] })]
    clusters := [(0, { Cluster.init with pre := some freezing })] }

theorem rowsOn_freezeOfStrangersClaim : rowsOn freezeOfStrangersClaim 0 0 = [0] := by decide +kernel
theorem locate_freezeOfStrangersClaim : locate freezeOfStrangersClaim (rowId freezeOfStrangersClaim 0) = .bank 0 := by decide +kernel
/-- Bank row 1 has been written, so that the rows of the cluster are not all FROZEN. -/
theorem forcedFreeze_freezeOfStrangersClaim (t : State) (h : exec (.forcedFreeze 0) freezeOfStrangersClaim = .next t) :
    ((cluster t 0).pre.map (·.stage)) = some 4 := by
  obtain rfl := Host.Outcome.next.inj h
  decide +kernel

/-- Refutes O56: the freeze of a row that names another row's claim brings a further row into the cluster, which is not FROZEN. -/
theorem not_preemption : ¬ Obligations.Preemption := by
  intro h
  obtain ⟨⟨-, -, hfreeze, -⟩, -⟩ := h
  obtain ⟨-, -, hrow⟩ := hfreeze freezeOfStrangersClaim 0 freezing rfl
  obtain ⟨t, hx, -, hpre⟩ := (hrow 0 (Or.inl rfl) rowsOn_freezeOfStrangersClaim (by decide +kernel) locate_freezeOfStrangersClaim
    (by decide +kernel) (by decide +kernel)).2 (by decide +kernel) (by decide +kernel)
  have hstage := forcedFreeze_freezeOfStrangersClaim t hx
  rw [hpre] at hstage
  exact absurd hstage (by decide +kernel)

end Sys2Proof.Machine
end

section
/-!
PROOF. O49 fails at a page whose home has left this module (R97), as O46 does: a copy engine that zeroes one block of a line there waits
for the copy of the line that an agent of the hub die holds.
-/

namespace Sys2Proof.Machine

/-- A command that zeroes the first block of page 0. -/
def zeroOfLeftPage : CopyCmd where
  id := 0
  queue := 0
  kind := .cpyz
  row := ⟨0, 0⟩
  batch := 0
  node := none
  dst := [⟨0, .mem 0, 64, 0⟩]
  src := []
  idx := []
  len := 64
  count := 1
  dstStride := 64
  srcStride := 64
  esz := 0
  hint := .norm
  pos := 0
  err := 0
  errAt := 0
  corr := 0
  snap := 0
  elem := none
/-- Cluster 0's copy engine holds the line for it. -/
def zeroingLeftPage : State :=
  { engineOfLeftPage with clusters := [(0, { Cluster.init with cmds := [zeroOfLeftPage] })] }

theorem copyReady_zeroingLeftPage : copyReady zeroingLeftPage 0 zeroOfLeftPage = true := by decide +kernel
theorem holdsEng_zeroingLeftPage : holdsEng zeroingLeftPage 0 0 0 = true := by decide +kernel
/-- The engine still holds the line: its release waits for the copy's invalidation. -/
theorem copyStep_zeroingLeftPage (t : State) (h : exec (.copyStep 0 0) zeroingLeftPage = .next t) : (hline t 0).reg.eng = true := by
  obtain rfl := Host.Outcome.next.inj h
  decide +kernel

/-- Refutes O49: the clause on a zero of one block leaves out the copies of a page that has left (R96, R97). -/
theorem not_copyAndPoolSteps : ¬ Obligations.CopyAndPoolSteps := by
  intro h
  obtain ⟨-, -, hready⟩ := h.1.1 zeroingLeftPage 0 0 zeroOfLeftPage memoryCanonical_reset rfl
  obtain ⟨-, hzero⟩ := hready copyReady_zeroingLeftPage rfl rfl (by decide)
  obtain ⟨t, hx, -, -, hreg⟩ := hzero 0 0 0 rfl rfl rfl rfl rfl holdsEng_zeroingLeftPage (by decide +kernel) (by decide +kernel)
    (by decide +kernel) (by decide +kernel) (by decide +kernel) (by decide +kernel)
  have heng := copyStep_zeroingLeftPage t hx
  rw [show lineOf 0 = 0 from rfl] at hreg
  rw [hreg] at heng
  exact absurd heng (by decide)

end Sys2Proof.Machine
end

section
/-!
PROOF. O51 fails where a holder keeps 256 faulted nodes already (R408): the record that the oldest one leaves in the trace ring of its
partition (R463) may lie over the status dword of the node that has just been faulted.
-/

namespace Sys2Proof.Machine

/-- A node of partition 0 whose record lies at address 4096; a row of the management partition has posted it. -/
def tracedNode : Node where
  die := 0
  part := 0
  record := 0
  poster := ⟨mgmtPart, 0⟩
  priv := 0
  words := []
  recPa := [⟨0, .mem 4096, 64, 0⟩]
  left := 0
  state := 3
  cause := 0
  bound := false
  engine := 0
  prio := 0
  since := 0
  xlated := false
  runsA := []
  runsB := []
  runsC := []
  ctr := []
  unit := none
  prog := 0
  checks := []
  work := NodeWork.init
  stuck := none
/-- Hub 0 keeps 256 faulted nodes, and the trace ring of partition 0 begins at the node's record, whose line the data array holds. -/
def fullKept : State :=
  { State.reset with
    hubs := [(0, { Hub.init with nodes := [tracedNode], kept := List.replicate 256 tracedNode })]
    parts := [(0, { Part.init with trcCtl := 0x1021 })]
    dlines := [(32, DLine.init)] }

/-- A node that has been faulted. -/
def faultedNode (n : Node) (cause : Nat) : Node :=
  { n with state := 5, cause := cause, xlated := false, prog := 0, checks := [], work := NodeWork.init }
/-- The state in which a faulted node has left the pool and is not kept yet. -/
def nodeGone (s : State) (n : Node) (cause : Nat) (addr : Word) : State :=
  let s := freeEngine s n
  let s := if n.bound then reserve s n.part n.engine false else s
  let n := faultedNode n cause
  let s := postNode (writeStatus s n) n 2 cause addr (w64 n.record) (statusWord n)
  dirDrop (countNode (removeNode s n) n true) n.part n.record
/-- A hub keeps a faulted node, as one of at most 256 (R408). -/
def keepNode (s : State) (d : Nat) (n : Node) : State :=
  let h := hub s d
  let kept := h.kept ++ [n]
  if 256 < kept.length then
    traceCoh (setHub s d { h with kept := kept.drop 1 }) (nth kept 0 n).part 7 3 taskHub (nth kept 0 n).record
  else setHub s d { h with kept := kept }
theorem faultNode_eq (s : State) (n : Node) (cause : Nat) (addr : Word) :
    faultNode s n cause addr = keepNode (nodeGone s n cause addr) n.die (faultedNode n cause) := rfl
/-- Where 256 nodes are kept, the oldest is pushed out, and a record tells of it. -/
theorem keepNode_of_full {s : State} {d : Nat} {n old : Node} {l : List Node} (h : (hub s d).kept = old :: l) (hl : l.length = 255) :
    keepNode s d n = traceCoh (setHub s d { hub s d with kept := l ++ [n] }) old.part 7 3 taskHub old.record := by
  unfold keepNode
  simp only [h]
  exact if_pos (by simp [hl])
theorem memWord_setPart (s : State) (q : Nat) (p : Part) (pa : Nat) : memWord (setPart s q p) pa = memWord s pa :=
  memWord_of_same rfl rfl rfl pa
theorem memWord_traceRec {s : State} {q : Nat} (a b : Word) (hlogn : bits (part s q).trcCtl 0 4 ≠ 0) (hwf : s.mem.wf = true) :
    memWord (traceRec s q a b) (tracePlace (part s q) + 8) = b := by
  rw [traceRec_on a b hlogn, memWord_setPart]
  exact memWord_setMemWord_self _ _ (setMemWord_wf _ _ hwf)
theorem traceCoh_on {s : State} {q : Nat} (event scope agent pa : Nat) (h : bit (part s q).trcCtl 5 = true) :
    ∃ a, traceCoh s q event scope agent pa = traceRec { s with count := s.count + 1 } q a (w64 (pa / 128 * 128)) := ⟨_, if_pos h⟩
/-- The second dword of a coherence record is the line that it tells of (R463). -/
theorem memWord_traceCoh {s : State} {q : Nat} (event scope agent pa : Nat) (hbit : bit (part s q).trcCtl 5 = true)
    (hlogn : bits (part s q).trcCtl 0 4 ≠ 0) (hwf : s.mem.wf = true) :
    memWord (traceCoh s q event scope agent pa) (tracePlace (part s q) + 8) = w64 (pa / 128 * 128) := by
  obtain ⟨a, ha⟩ := traceCoh_on event scope agent pa hbit
  rw [ha]
  exact memWord_traceRec (s := { s with count := s.count + 1 }) a _ hlogn hwf

theorem statusApart_fullKept : StatusApart fullKept tracedNode := by
  rintro r pa hr hp
  obtain rfl := Option.some.inj hr
  obtain rfl := Place.mem.inj hp
  refine ⟨by decide, ⟨⟨by decide +kernel, by decide +kernel, by decide +kernel, by decide +kernel, by decide +kernel⟩, by decide +kernel⟩,
    by decide +kernel, by decide +kernel, by decide +kernel⟩
theorem kept_nodeGone : (hub (nodeGone fullKept tracedNode 1 0) 0).kept = tracedNode :: List.replicate 255 tracedNode := by
  decide +kernel
theorem wf_nodeGone : (nodeGone fullKept tracedNode 1 0).mem.wf = true := by decide +kernel
theorem trcCtl_nodeGone : (part (nodeGone fullKept tracedNode 1 0) 0).trcCtl = 0x1021 ∧
    (part (nodeGone fullKept tracedNode 1 0) 0).trcTail = 0 := by decide +kernel
/-- The fault is raised at once. -/
theorem nodeFault_fullKept : exec (.nodeFault 0 0 0 1 0) fullKept = .next (faultNode fullKept tracedNode 1 0) := by
  have hfind : findNode fullKept 0 0 0 = some tracedNode := by decide +kernel
  have hwait : ¬ (writesPending fullKept tracedNode || inTransfer fullKept (locate fullKept tracedNode.poster)) = true := by
    decide +kernel
  have hfree : rangesFree fullKept taskHub (statusRange tracedNode) = true := by decide +kernel
  show execNodeFault 0 0 0 1 0 fullKept = _
  unfold execNodeFault
  rw [hfind]
  exact congrArg Host.Outcome.next ((if_neg hwait).trans (if_pos hfree))
/-- The record of the oldest node replaces the status. -/
theorem memWord_faultNode_fullKept : memWord (faultNode fullKept tracedNode 1 0) 4104 = 0 := by
  obtain ⟨hctl, htail⟩ := trcCtl_nodeGone
  have hwf := wf_nodeGone
  have hkept := kept_nodeGone
  have hplace : tracePlace (part (nodeGone fullKept tracedNode 1 0) 0) = 4096 := by
    unfold tracePlace
    rw [hctl, htail]
    decide
  rw [faultNode_eq]
  generalize nodeGone fullKept tracedNode 1 0 = u at *
  rw [show tracedNode.die = 0 from rfl, keepNode_of_full hkept (by decide +kernel)]
  generalize { hub u 0 with kept := List.replicate 255 tracedNode ++ [faultedNode tracedNode 1] } = x
  have hrec := memWord_traceCoh (s := setHub u 0 x) (q := 0) 7 3 taskHub 0
    ((congrArg (bit · 5) hctl).trans (by decide)) (fun h => absurd ((congrArg (bits · 0 4) hctl).symm.trans h) (by decide)) hwf
  rwa [show part (setHub u 0 x) 0 = part u 0 from rfl, hplace] at hrec

/-- Refutes O51: the record of the kept node that is pushed out replaces the status that the faulted node has left. -/
theorem not_nodesEnd : ¬ Obligations.NodesEnd := by
  intro h
  obtain ⟨-, hends⟩ := h.1 fullKept 0 0 0 (544 * 2048) tracedNode memoryCanonical_reset (by decide +kernel) rfl (by decide +kernel)
    (by decide +kernel) statusApart_fullKept (by decide +kernel)
  obtain ⟨-, -, hfault⟩ := hends (by decide +kernel)
  obtain ⟨t, hx, -, -, hstatus, -⟩ := hfault 1 0
  obtain rfl := Host.Outcome.next.inj (nodeFault_fullKept.symm.trans hx)
  have hword := hstatus _ 4104 rfl rfl
  rw [memWord_faultNode_fullKept] at hword
  exact absurd hword (by decide +kernel)

end Sys2Proof.Machine
end

section
/-!
PROOF. O55 fails where the list of the data array's lines names one line twice: UNPIN drops the first entry, a pinned way without its
data, and the second one, which is pinned, comes to light.
-/

namespace Sys2Proof.Machine

/-- Line 600, of page 1, twice: a way that holds no data and is not pinned, and a pinned one. -/
def lineTwice : State :=
  { State.reset with
    dlines := [(600, { DLine.init with gone := true }), (600, { DLine.init with pin := 1 })]
    parts := [(0, { Part.init with pmem := BitVec.ofNat 64 (2 ^ 63 + 32) })] }

theorem ownPage_lineTwice : ownPage lineTwice 0 0 = true := by decide +kernel
theorem pin_lineTwice : (dline lineTwice 600).pin = 0 := by decide
/-- The unpinning of page 0 leaves line 600 pinned. -/
theorem unpin_lineTwice (t : State) (h : exec (.unpin 0 0) lineTwice = .next t) : (dline t 600).pin = 1 := by
  obtain rfl := Host.Outcome.next.inj h
  decide +kernel

/-- Refutes O55: the clause on UNPIN does not require that no line is listed twice. -/
theorem not_pageSteps : ¬ Obligations.PageSteps := by
  intro h
  obtain ⟨t, hx, -, hpin, -⟩ := (h.1.2.1 lineTwice 0 0).2 ownPage_lineTwice
  have hline := hpin 600
  rw [if_neg (by decide), pin_lineTwice, unpin_lineTwice t hx] at hline
  exact absurd hline (by decide)

end Sys2Proof.Machine
end

section
/-!
SUPPORT. What the home slices, the stack controllers and the hub's own writes leave alone, said once for every view of the state: a view
that is blind to memory, caches, rows and traces is the same after each of these operations. The operations stand in the order of the
model.
-/

namespace Sys2Proof.Machine

/-! ### Views -/

/-- The message is a fill on its way. -/
def isFill : Msg → Bool
  | .lineFill .. => true
  | _ => false
/-- A change of the messages on their way that touches fills alone. -/
def ChangesFills (f : Msg → Msg) : Prop := ∀ m, f m = m ∨ (isFill m = true ∧ isFill (f m) = true)

/-- A view of the state that sees nothing of what accesses to memory change: memory and its blocks, the arrays and entries of the home
slices, caches, scratchpads, rows and executors, the watches of the clusters, the counters of the hub die, the place of the next trace
record, the values of fills on their way. -/
structure Blind {α : Type} (π : State → α) : Prop where
  inner : ∀ (s : State) (count : Nat) (rows : NMap Image) (execs : NMap Exec) (spads : NMap Memory) (mem : Memory) (blocks : NMap Block)
    (caches : NMap CLine) (misses : List Miss) (stale : List StaleWord) (ops : List OpRec) (late : List (RowId × Nat × Word))
    (homes : NMap HLine) (dlines : NMap DLine) (done : NMap (List DoneEnt)) (tails : List TailWait) (tailCache : NMap Word)
    (torn : List TornBlock) (clusters : NMap Cluster) (hub : HubDie),
    π { s with count := count, rows := rows, execs := execs, spads := spads, mem := mem, blocks := blocks, caches := caches,
               misses := misses, stale := stale, ops := ops, late := late, homes := homes, dlines := dlines, done := done,
               tails := tails, tailCache := tailCache, torn := torn, clusters := clusters, hub := hub } = π s
  trace : ∀ (s : State) (q : Nat) (x : W32), π (setPart s q { part s q with trcTail := x }) = π s
  fills : ∀ (s : State) (f : Msg → Msg), ChangesFills f → π { s with agenda := s.agenda.map f } = π s

/-- A fold of steps that a view does not see is not seen. -/
theorem foldl_view {σ α β : Type} {π : σ → α} {f : σ → β → σ} (step : ∀ s x, π (f s x) = π s) (l : List β) (s : σ) :
    π (l.foldl f s) = π s := by
  induction l generalizing s with
  | nil => rfl
  | cons x l ih => exact (ih _).trans (step s x)

section
variable {α : Type} {π : State → α} (hπ : Blind π)
include hπ

theorem Blind.setCluster (s : State) (c : Nat) (x : Cluster) : π (setCluster s c x) = π s := hπ.inner ..
theorem Blind.setBlock (s : State) (pa : Nat) (b : Block) : π (setBlock s pa b) = π s := hπ.inner ..
theorem Blind.settle (s : State) (pa : Nat) : π (settle s pa) = π s := hπ.inner ..
theorem Blind.mergeBlock (s : State) (pa : Nat) (data : List Byte) (key : Nat) : π (mergeBlock s pa data key) = π s := by
  unfold Machine.mergeBlock
  dsimp only
  split <;> simp only [hπ.inner, hπ.setBlock, hπ.settle]
theorem Blind.mergeFrom (n : Nat) (s : State) (pa : Nat) (data : List Byte) (key : Nat) :
    π (mergeFrom n s pa data key) = π s := by
  induction n generalizing s pa data with
  | zero => rfl
  | succ n ih => exact (ih ..).trans (hπ.mergeBlock ..)
theorem Blind.merge (s : State) (pa : Nat) (data : List Byte) (key : Nat) : π (merge s pa data key) = π s := by
  unfold Machine.merge
  split <;> simp only [hπ.mergeFrom]
theorem Blind.poisonBlock (s : State) (pa : Nat) : π (poisonBlock s pa) = π s := hπ.inner ..
theorem Blind.ownStore (s : State) (pa : Nat) (data : List Byte) : π (ownStore s pa data) = π s := hπ.inner ..
theorem Blind.setMemWord (s : State) (pa : Nat) (v : Word) : π (setMemWord s pa v) = π s := hπ.inner ..
theorem Blind.setRowWord (s : State) (pr n : Nat) (v : Word) : π (setRowWord s pr n v) = π s := hπ.inner ..
theorem Blind.setLocWord (s : State) (l : Loc) (n : Nat) (v : Word) : π (setLocWord s l n v) = π s := by
  unfold Machine.setLocWord
  split <;> simp only [hπ.setMemWord, hπ.setRowWord]
theorem Blind.setLocBits (s : State) (l : Loc) (n lo w v : Nat) : π (setLocBits s l n lo w v) = π s := by
  unfold Machine.setLocBits
  simp only [hπ.setLocWord]
theorem Blind.setExec (s : State) (e : Nat) (x : Exec) : π (setExec s e x) = π s := hπ.inner ..
theorem Blind.draw (s : State) (use : Nat) : π (draw s use).1 = π s := hπ.inner ..
theorem Blind.traceRec (s : State) (q : Nat) (a b : Word) : π (traceRec s q a b) = π s := by
  unfold Machine.traceRec
  dsimp only
  split
  · rfl
  · rw [hπ.trace, hπ.setMemWord, hπ.setMemWord]
theorem Blind.traceState (s : State) (pr st : Nat) : π (traceState s pr st) = π s := by
  unfold Machine.traceState
  dsimp only
  split <;> simp only [hπ.setExec, hπ.traceRec]
theorem Blind.traceCoh (s : State) (q event scope agent pa : Nat) : π (traceCoh s q event scope agent pa) = π s := by
  unfold Machine.traceCoh
  dsimp only
  split <;> simp only [hπ.inner, hπ.draw, hπ.traceRec]
theorem Blind.setRowState (s : State) (pr st : Nat) : π (setRowState s pr st) = π s := by
  unfold Machine.setRowState
  simp only [hπ.setRowWord, hπ.traceState]
theorem Blind.makeReady (s : State) (pr : Nat) : π (makeReady s pr) = π s := by
  unfold Machine.makeReady
  dsimp only
  split <;> simp only [hπ.setExec, hπ.setRowState]
theorem Blind.recount (s : State) (l : Loc) : π (recount s l) = π s := by
  unfold Machine.recount
  simp only [hπ.setLocBits]
theorem Blind.setSlotState (s : State) (l : Loc) (i st : Nat) : π (setSlotState s l i st) = π s := by
  unfold Machine.setSlotState
  simp only [hπ.setLocBits, hπ.recount]
theorem Blind.setOpRec (s : State) (o : OpRec) : π (setOpRec s o) = π s := hπ.inner ..
theorem Blind.dropOpRec (s : State) (r : RowId) (i : Nat) : π (dropOpRec s r i) = π s := hπ.inner ..
theorem Blind.clearSlot (s : State) (l : Loc) (i : Nat) : π (clearSlot s l i) = π s := by
  unfold Machine.clearSlot
  simp only [hπ.setSlotState, hπ.dropOpRec]
theorem Blind.ltAdd (s : State) (i n : Nat) : π (ltAdd s i n) = π s := hπ.inner ..
theorem Blind.stackFound (s : State) (q pa : Nat) (e : EccFound) (wrong : List Byte) : π (stackFound s q pa e wrong) = π s := hπ.inner ..
theorem Blind.stackCheck (s : State) (q pa : Nat) : π (stackCheck s q pa) = π s := by
  unfold Machine.stackCheck
  simp only [hπ.inner, hπ.stackFound]
theorem Blind.useData (s : State) (line : Nat) : π (useData s line) = π s := by
  unfold Machine.useData
  split
  · exact hπ.inner ..
  · rfl
theorem Blind.evictData (s : State) (line : Nat) : π (evictData s line) = π s := by
  unfold Machine.evictData
  dsimp only
  split <;> split <;> simp [hπ.inner, hπ.poisonBlock]
theorem Blind.roomData (s : State) (line : Nat) : π (roomData s line) = π s := by
  unfold Machine.roomData
  split
  · rfl
  · dsimp only
    split
    · rfl
    · split
      · exact hπ.evictData ..
      · rfl
theorem Blind.setDline (s : State) (line : Nat) (d : DLine) : π (setDline s line d) = π s := hπ.inner ..
theorem Blind.allocData (s : State) (line : Nat) (h : Hint) : π (allocData s line h) = π s := by
  unfold Machine.allocData
  repeat' split <;> simp only [hπ.useData, hπ.roomData, hπ.setDline]
theorem Blind.markDirty (s : State) (line : Nat) : π (markDirty s line) = π s := by
  unfold Machine.markDirty
  split
  · exact hπ.inner ..
  · rfl
theorem Blind.checkRange (s : State) (q pa n : Nat) : π (checkRange s q pa n) = π s := by
  unfold Machine.checkRange
  simp [apply_ite π, foldl_view (π := π), hπ.stackCheck]
theorem Blind.readArray (s : State) (q pa n : Nat) (h : Hint) : π (readArray s q pa n h) = π s := by
  unfold Machine.readArray
  dsimp only
  split <;> simp only [hπ.allocData, hπ.checkRange]
theorem Blind.fetchArray (s : State) (q pa n : Nat) (h : Hint) : π (fetchArray s q pa n h) = π s := by
  unfold Machine.fetchArray
  simp [apply_ite π, foldl_view (π := π), hπ.stackCheck, hπ.allocData]
theorem Blind.tierDirty (s : State) (q pa n : Nat) : π (tierDirty s q pa n) = π s := by
  unfold Machine.tierDirty
  dsimp only
  split <;> simp [foldl_view (π := π), hπ.setBlock]
theorem Blind.arrayWrite (s : State) (q pa : Nat) (data : List Byte) (key : Nat) (h : Hint) : π (arrayWrite s q pa data key h) = π s := by
  unfold Machine.arrayWrite
  simp only [hπ.merge, hπ.markDirty, hπ.fetchArray, hπ.tierDirty]
theorem Blind.setCline (s : State) (agent line : Nat) (x : CLine) : π (setCline s agent line x) = π s := hπ.inner ..
theorem Blind.dropCline (s : State) (agent line : Nat) : π (dropCline s agent line) = π s := hπ.inner ..
theorem Blind.rememberStale (s : State) (agent : Nat) (copied : Bool) (old : List (Nat × W32)) :
    π (rememberStale s agent copied old) = π s := hπ.inner ..
theorem Blind.setHline (s : State) (line : Nat) (h : HLine) : π (setHline s line h) = π s := hπ.inner ..
theorem Blind.setReg (s : State) (line : Nat) (r : RegEntry) : π (setReg s line r) = π s := hπ.inner ..
theorem Blind.setKeep (s : State) (line : Nat) (k : KeepEntry) : π (setKeep s line k) = π s := hπ.inner ..
theorem Blind.endWatch (s : State) (r : RowId) (i : Nat) : π (endWatch s r i) = π s := by
  unfold Machine.endWatch
  dsimp only
  split
  · simp only [hπ.setLocWord, hπ.clearSlot]
  · split
    · split <;> simp only [hπ.setLocWord, hπ.clearSlot, hπ.makeReady, hπ.setRowWord]
    · simp only [hπ.setLocWord, hπ.clearSlot]
theorem Blind.wakeWatch (s : State) (r : RowId) (i : Nat) : π (wakeWatch s r i) = π s := by
  unfold Machine.wakeWatch
  split <;> simp [apply_ite π, hπ.setOpRec, hπ.endWatch]
theorem Blind.wakeWatchers (s : State) (agent line : Nat) (mask : BitVec 32) : π (wakeWatchers s agent line mask) = π s := by
  unfold Machine.wakeWatchers
  simp [foldl_view (π := π), hπ.setCluster, hπ.wakeWatch]
theorem Blind.invalidateAt (s : State) (agent line : Nat) (mask : BitVec 32) (replace : Bool) :
    π (invalidateAt s agent line mask replace).1 = π s := by
  unfold Machine.invalidateAt
  dsimp only
  split <;> simp only [hπ.dropCline, hπ.rememberStale, hπ.wakeWatchers]
theorem Blind.invalidateOnce (s : State) (agent line : Nat) (mask : BitVec 32) (replace : Bool) :
    π (invalidateOnce s agent line mask replace).1 = π s := by
  unfold Machine.invalidateOnce
  dsimp only
  split <;> simp only [hπ.inner, hπ.invalidateAt]
theorem Blind.invalidateAll (s : State) (q line : Nat) (mask : BitVec 32) (writer : Nat) :
    π (invalidateAll s q line mask writer) = π s := by
  unfold Machine.invalidateAll
  rw [hπ.setKeep]
  exact foldl_view (π := fun p : State × List Nat => π p.1) (fun p a => hπ.invalidateOnce p.1 a line mask false) ..
theorem Blind.replaceKeepers (s : State) (q line : Nat) : π (replaceKeepers s q line) = π s := by
  unfold Machine.replaceKeepers
  simp [foldl_view (π := π), hπ.inner, hπ.setKeep, hπ.invalidateOnce]
theorem Blind.fillUnit (s : State) (q unit tag : Nat) : π (fillUnit s q unit tag) = π s := by
  unfold Machine.fillUnit
  simp [apply_ite π, foldl_view (π := π), hπ.inner, hπ.setBlock, hπ.poisonBlock, hπ.draw, hπ.replaceKeepers]
theorem Blind.tierEnsure (s : State) (q pa : Nat) : π (tierEnsure s q pa) = π s := by
  unfold Machine.tierEnsure
  dsimp only
  split <;> simp only [hπ.fillUnit]
theorem Blind.mergeWords (s : State) (line : Nat) (mask : BitVec 32) (data : List W32) : π (mergeWords s line mask data) = π s := by
  unfold Machine.mergeWords
  split <;> simp [foldl_view (π := π), hπ.mergeBlock, hπ.markDirty, hπ.readArray, hπ.tierDirty, hπ.tierEnsure]
theorem Blind.patchFills (s : State) (agent line : Nat) (mask : BitVec 32) (data : List W32) :
    π (patchFills s agent line mask data) = π s := by
  refine hπ.fills _ _ fun m => ?_
  cases m with
  | lineFill a l ws p k => exact .inr ⟨rfl, by dsimp only; split <;> rfl⟩
  | _ => exact .inl rfl
theorem Blind.recallNow (s : State) (line agent : Nat) (mask : BitVec 32) : π (recallNow s line agent mask) = π s := by
  unfold Machine.recallNow
  dsimp only
  split <;> simp only [hπ.setCline, hπ.setReg, hπ.mergeWords, hπ.patchFills]
theorem Blind.recallAll (s : State) (line : Nat) (mask : BitVec 32) : π (recallAll s line mask) = π s := by
  unfold Machine.recallAll
  simp [foldl_view (π := π), hπ.recallNow]
theorem Blind.hubBlock (s : State) (q agent pa : Nat) (data : List Byte) (key : Nat) : π (hubBlock s q agent pa data key) = π s := by
  unfold Machine.hubBlock
  dsimp only
  split <;> simp only [hπ.traceCoh, hπ.arrayWrite, hπ.invalidateAll, hπ.tierEnsure, hπ.recallAll]
theorem Blind.hubWrite (s : State) (q agent pa : Nat) (data : List Byte) (key : Nat) : π (hubWrite s q agent pa data key) = π s := by
  unfold Machine.hubWrite
  simp [foldl_view (π := π), hπ.hubBlock]

end

end Sys2Proof.Machine
end

section
namespace Sys2Proof.Machine
section
variable {α : Type} {π : State → α} (hπ : Blind π)
include hπ

theorem Blind.setSlot (s : State) (e k : Nat) (x : Slot) : π (setSlot s e k x) = π s := hπ.inner ..
theorem Blind.readTorn (s : State) (l : List TornBlock) (now : List Byte) : π (readTorn s l now).1 = π s :=
  foldl_view (π := fun p : State × List Byte => π p.1) (fun p _ => hπ.draw p.1 0x250) ..
theorem Blind.settleTorn (s : State) (p : TornBlock → Bool) : π (settleTorn s p) = π s := hπ.inner ..
theorem Blind.traceStale (s : State) (q agent was now pa : Nat) : π (traceStale s q agent was now pa) = π s := by
  unfold Machine.traceStale
  dsimp only
  split <;> simp only [hπ.traceRec, hπ.traceCoh]
theorem Blind.noteArrival (s : State) (l : Loc) : π (noteArrival s l) = π s := by
  unfold Machine.noteArrival
  repeat' split <;> simp only [hπ.setSlot]
theorem Blind.checkBulk (s : State) (q pa n : Nat) : π (checkBulk s q pa n) = π s := hπ.inner ..
theorem Blind.wakeOwnWatch (s : State) (r : RowId) (l : Loc) (off n : Nat) : π (wakeOwnWatch s r l off n) = π s := by
  unfold Machine.wakeOwnWatch
  split
  · split
    · split
      · exact hπ.wakeWatch ..
      · rfl
    · rfl
  · rfl
theorem Blind.arriveWord (s : State) (r : RowId) (l : Loc) (n : Nat) (v : Word) : π (arriveWord s r l n v) = π s := by
  unfold Machine.arriveWord
  simp only [hπ.setLocWord, hπ.wakeOwnWatch]
theorem Blind.roomKeep (s : State) (line : Nat) : π (roomKeep s line) = π s := by
  unfold Machine.roomKeep
  simp [apply_ite π, hπ.inner, hπ.draw, hπ.replaceKeepers]
theorem Blind.keepAt (s : State) (line a : Nat) : π (keepAt s line a) = π s := by
  unfold Machine.keepAt
  simp only [hπ.setKeep, hπ.roomKeep]
theorem Blind.roomReg (s : State) (line : Nat) : π (roomReg s line) = π s := by
  unfold Machine.roomReg
  dsimp only
  split
  · rfl
  · split
    · rfl
    · split
      · exact hπ.recallAll ..
      · rfl
theorem Blind.enterReg (s : State) (line : Nat) (r : RegEntry) : π (enterReg s line r) = π s := by
  unfold Machine.enterReg
  simp only [hπ.setHline, hπ.roomReg]
theorem Blind.logKeys (s : State) (q agent pa n key : Nat) : π (logKeys s q agent pa n key) = π s := by
  unfold Machine.logKeys
  simp [apply_ite π, foldl_view (π := π), hπ.traceCoh]
theorem Blind.hubWriteDword (s : State) (q agent pa : Nat) (v : Word) (key : Nat) : π (hubWriteDword s q agent pa v key) = π s := by
  unfold Machine.hubWriteDword
  simp only [hπ.hubWrite]
theorem Blind.dropRange (s : State) (agent lo n : Nat) : π (dropRange s agent lo n) = π s := by
  unfold Machine.dropRange
  simp only [hπ.inner, hπ.rememberStale]
theorem Blind.clearFills (s : State) (agent : Nat) (ls : List Nat) : π (clearFills s agent ls) = π s := hπ.inner ..
theorem Blind.dropClusters (s : State) (q line : Nat) : π (dropClusters s q line) = π s := by
  unfold Machine.dropClusters
  simp [foldl_view (π := π), hπ.dropRange, hπ.clearFills]
theorem Blind.checkWalk (s : State) (die q va : Nat) : π (checkWalk s die q va) = π s := by
  unfold Machine.checkWalk
  simp [foldl_view (π := π), hπ.checkRange]
theorem Blind.doneAdd (s : State) (p : Nat) (d : DoneEnt) : π (doneAdd s p d) = π s := hπ.inner ..
theorem Blind.dropWords (s : State) (agent line : Nat) (mask : BitVec 32) : π (dropWords s agent line mask) = π s := by
  unfold Machine.dropWords
  dsimp only
  split <;> simp only [hπ.inner, hπ.setCline]
theorem Blind.dropStale (s : State) (agent line : Nat) (mask : BitVec 32) : π (dropStale s agent line mask) = π s := by
  unfold Machine.dropStale
  simp only [hπ.dropWords]
theorem Blind.writeEntries (s : State) (l : List (Nat × Word)) : π (writeEntries s l) = π s := by
  unfold Machine.writeEntries
  simp [foldl_view (π := π), hπ.inner, hπ.setMemWord]
theorem Blind.setTailEntry (s : State) (q page : Nat) (e : Word) : π (setTailEntry s q page e) = π s := by
  unfold Machine.setTailEntry
  dsimp only
  split
  · exact hπ.inner ..
  · split
    · exact hπ.inner ..
    · split
      · exact hπ.setMemWord ..
      · exact (hπ.inner ..).trans ((hπ.writeEntries ..).trans (hπ.draw ..))
theorem Blind.waitTail (s : State) (r : Req) (taken : Bool) : π (waitTail s r taken) = π s := hπ.inner ..
theorem Blind.logMismatch (s : State) (r : Req) (pa n : Nat) : π (logMismatch s r pa n) = π s := by
  unfold Machine.logMismatch
  simp only [hπ.logKeys]
theorem Blind.keepReader (s : State) (r : Req) : π (keepReader s r) = π s := by
  unfold Machine.keepReader
  dsimp only
  split <;> simp only [hπ.keepAt]
theorem Blind.passCache (s : State) (r : Req) : π (passCache s r) = π s := by
  unfold Machine.passCache
  split <;> simp only [hπ.dropStale]
theorem Blind.finishEngReg (s : State) (r : Req) : π (finishEngReg s r) = π s := by
  unfold Machine.finishEngReg
  dsimp only
  split <;> simp only [hπ.enterReg]
theorem Blind.finishEngWrite (s : State) (r : Req) : π (finishEngWrite s r) = π s := by
  unfold Machine.finishEngWrite
  simp [apply_ite π, hπ.arrayWrite, hπ.setReg, hπ.dropClusters, hπ.logMismatch]
theorem Blind.setTxn (s : State) (line : Nat) (t : Option Txn) : π (setTxn s line t) = π s := hπ.inner ..
theorem Blind.rebuildKeepers (s : State) (r : Req) (kept : List Nat) : π (rebuildKeepers s r kept) = π s := by
  unfold Machine.rebuildKeepers
  split
  · rfl
  · exact hπ.inner ..
theorem Blind.readFor (s : State) (r : Req) : π (readFor s r) = π s := by
  unfold Machine.readFor
  split <;> simp only [hπ.readArray]
theorem Blind.logStale (s : State) (q agent inc pa : Nat) : π (logStale s q agent inc pa) = π s := by
  unfold Machine.logStale
  simp only [hπ.traceStale]
theorem Blind.setSpad (s : State) (c : Nat) (m : Memory) : π (setSpad s c m) = π s := hπ.inner ..
theorem Blind.spadStore (s : State) (c off : Nat) (bs : List Byte) : π (spadStore s c off bs) = π s := hπ.inner ..
theorem Blind.spadRead (s : State) (c : Nat) : π (spadRead s c) = π s := by
  unfold Machine.spadRead
  dsimp only
  split <;> simp only [hπ.inner, hπ.ltAdd]
theorem Blind.checkExtent (s : State) (k : Asker) (va : Word) (len : Nat) : π (checkExtent s k va len) = π s := by
  unfold Machine.checkExtent
  simp [apply_ite π, foldl_view (π := π), hπ.checkWalk]
theorem Blind.checkBlocks (s : State) (q pa n : Nat) : π (checkBlocks s q pa n) = π s := by
  unfold Machine.checkBlocks
  simp [foldl_view (π := π), hπ.checkRange, hπ.tierEnsure]
theorem Blind.readRun (s : State) (q agent : Nat) (r : Run) : π (readRun s q agent r).1 = π s := by
  unfold Machine.readRun
  dsimp only
  split <;> simp only [hπ.inner, hπ.draw, hπ.logKeys, hπ.spadRead, hπ.checkBlocks]
theorem Blind.readRuns (s : State) (q agent : Nat) (l : List Run) : π (readRuns s q agent l).1 = π s := by
  unfold Machine.readRuns
  refine foldl_view (π := fun p : State × List SrcByte => π p.1) (fun p r => ?_) l (s, [])
  exact hπ.readRun ..

end

end Sys2Proof.Machine
end

section
/-!
SUPPORT. The same for a home slice's requests and answers, which also send messages and revoke leases.
-/

namespace Sys2Proof.Machine

/-- A view that sees neither the messages on their way nor which leases are being revoked. -/
structure BlindHome {α : Type} (π : State → α) : Prop extends Blind π where
  sends : ∀ (s : State) (l : List Msg), π { s with agenda := l } = π s
  revoke : ∀ (s : State) (f : Lease → Lease), (∀ l, f l = { l with revoking := (f l).revoking }) →
    π { s with leases := s.leases.map f } = π s

section
variable {α : Type} {π : State → α} (hπ : BlindHome π)
include hπ

theorem BlindHome.send (s : State) (m : Msg) : π (send s m) = π s := hπ.sends ..
theorem BlindHome.sendAgain (s : State) (m : Msg) : π (sendAgain s m) = π s := hπ.sends ..
theorem BlindHome.grantNow (s : State) (r : Req) : π (grantNow s r) = π s := by
  unfold Machine.grantNow
  simp [apply_ite π, hπ.send, hπ.doneAdd, hπ.setTailEntry]
theorem BlindHome.sealNow (s : State) (r : Req) : π (sealNow s r) = π s := by
  unfold Machine.sealNow
  simp [apply_ite π, hπ.send, hπ.setTailEntry, hπ.waitTail]
theorem BlindHome.serveTail (s : State) (r : Req) : π (serveTail s r) = π s := by
  unfold Machine.serveTail
  split <;> simp only [hπ.send, hπ.grantNow, hπ.sealNow]
theorem BlindHome.retryTail (s : State) (r : Req) : π (retryTail s r) = π s := by
  unfold Machine.retryTail
  simp only [hπ.sendAgain]
theorem BlindHome.serveWaiting (s : State) (page : Nat) : π (serveWaiting s page) = π s := by
  unfold Machine.serveWaiting
  refine (foldl_view (π := fun p : State × Bool => π p.1) (fun p t => ?_) ..).trans (hπ.inner ..)
  split
  · exact hπ.waitTail ..
  · split
    · exact hπ.retryTail ..
    · exact hπ.serveTail ..
theorem BlindHome.appendDone (s : State) (q page : Nat) : π (appendDone s q page) = π s := by
  unfold Machine.appendDone
  dsimp only
  split <;> simp only [hπ.send, hπ.setTailEntry, hπ.serveWaiting]
theorem BlindHome.finishAppend (s : State) (r : Req) (next : Nat) (last : Bool) : π (finishAppend s r next last) = π s := by
  unfold Machine.finishAppend
  repeat' split <;> simp only [hπ.send, hπ.arrayWrite, hπ.appendDone]
theorem BlindHome.finishRead (s : State) (r : Req) (got : List (Nat × W32)) : π (finishRead s r got) = π s := by
  unfold Machine.finishRead
  split <;> simp [apply_ite π, hπ.inner, hπ.send, hπ.keepAt, hπ.logMismatch, hπ.keepReader, hπ.passCache]
theorem BlindHome.finishReg (s : State) (r : Req) : π (finishReg s r) = π s := by
  unfold Machine.finishReg
  dsimp only
  split <;> simp only [hπ.send, hπ.traceCoh, hπ.enterReg, hπ.doneAdd]
theorem BlindHome.finishAtomic (s : State) (r : Req) (op : AmoOp) (b cmp : Word) : π (finishAtomic s r op b cmp) = π s := by
  unfold Machine.finishAtomic
  dsimp only
  split <;> split <;> simp [hπ.send, hπ.traceCoh, hπ.arrayWrite, hπ.doneAdd, hπ.logMismatch, hπ.passCache]
theorem BlindHome.finishWrite (s : State) (r : Req) : π (finishWrite s r) = π s := by
  unfold Machine.finishWrite
  repeat' split <;> simp only [hπ.send, hπ.arrayWrite, hπ.doneAdd, hπ.dropWords, hπ.logMismatch]
theorem BlindHome.perform (s : State) (r : Req) (got : List (Nat × W32)) : π (perform s r got) = π s := by
  unfold Machine.perform
  split <;> simp only [hπ.finishAppend, hπ.finishRead, hπ.finishReg, hπ.finishAtomic, hπ.finishWrite, hπ.finishEngReg, hπ.finishEngWrite]
theorem BlindHome.complete (s : State) (t : Txn) : π (complete s t) = π s := by
  unfold Machine.complete
  simp [apply_ite π, hπ.setKeep, hπ.roomKeep, hπ.perform, hπ.setTxn]
theorem BlindHome.invalidateStage (s : State) (t : Txn) : π (invalidateStage s t) = π s := by
  unfold Machine.invalidateStage
  dsimp only
  split
  · exact hπ.complete ..
  · refine (foldl_view (fun s a => ?_) ..).trans (hπ.setTxn ..)
    split
    · refine hπ.revoke _ _ fun l => ?_
      split <;> rfl
    · rw [hπ.send, hπ.traceCoh]
theorem BlindHome.startReq (s : State) (r : Req) : π (startReq s r) = π s := by
  unfold Machine.startReq
  dsimp only
  split <;> simp [foldl_view (π := π), hπ.send, hπ.traceCoh, hπ.setTxn, hπ.invalidateStage, hπ.readFor]
theorem BlindHome.drain (s : State) (line : Nat) : π (drain s line) = π s := by
  unfold Machine.drain
  simp [apply_ite π, foldl_view (π := π), hπ.setHline, hπ.startReq]
theorem BlindHome.engineArrive (s : State) (r : Req) : π (engineArrive s r) = π s := by
  unfold Machine.engineArrive
  repeat' split <;> simp only [hπ.invalidateStage, hπ.drain, hπ.logStale]

end

end Sys2Proof.Machine
end

section
/-!
SUPPORT. Views that do not see messages for the rings either (R407); what the work of a tile engine leaves alone (R301 to R313).
-/

namespace Sys2Proof.Machine

/-! ### Messages for the rings -/

/-- A view that does not see the rings' registers and the messages held for them. -/
structure BlindPost {α : Type} (π : State → α) : Prop extends BlindHome π where
  held : ∀ (s : State) (l : List HeldMsg), π { s with heldMsgs := l } = π s
  rings : ∀ (s : State) (r : Ring) (x : RingRegs), π (setRingRegs s r x) = π s

/-- What names a node: its holder, its partition and its record. -/
def nodeKey (n : Node) : Nat × Nat × Nat := (n.die, n.part, n.record)

section
variable {α : Type} {π : State → α} (hπ : BlindPost π)
include hπ

theorem BlindPost.postMsg (s : State) (die : Nat) (r : Ring) (m : RingMsg) : π (postMsg s die r m) = π s := by
  unfold Machine.postMsg
  dsimp only
  split
  · exact hπ.rings ..
  · exact (hπ.send ..).trans (hπ.held ..)
theorem BlindPost.postNode (s : State) (n : Node) (kind cause : Nat) (a b c : Word) : π (postNode s n kind cause a b c) = π s :=
  hπ.postMsg ..

/-! ### Blocks and rows read by an engine -/

theorem BlindPost.noteBlock (s : State) (n : Node) (va : Nat) :
    π (noteBlock s n va).1 = π s ∧ nodeKey (noteBlock s n va).2 = nodeKey n := by
  unfold Machine.noteBlock
  split
  · exact ⟨rfl, rfl⟩
  · exact ⟨hπ.postNode .., rfl⟩
theorem BlindPost.tileBlock (s : State) (n : Node) (l : List Run) (off : Nat) (f : Fmt) :
    π (tileBlock s n l off f).1 = π s ∧ nodeKey (tileBlock s n l off f).2.1 = nodeKey n := by
  unfold Machine.tileBlock
  dsimp only
  have hr : ∀ bs : List Byte, π (Machine.readTorn (Machine.readRuns s n.part (nodeReader n) (sliceRuns l off 64)).1
      (tornAt (Machine.readRuns s n.part (nodeReader n) (sliceRuns l off 64)).1 n (sliceRuns l off 64)) bs).1 = π s :=
    fun _ => (hπ.readTorn ..).trans (hπ.readRuns ..)
  generalize Machine.readRuns s n.part (nodeReader n) (sliceRuns l off 64) = x at hr ⊢
  specialize hr (x.2.map fun b => b.val.getD 0)
  generalize Machine.readTorn x.1 _ _ = y at hr ⊢
  generalize (if x.2.any _ then _ else _ : BlockRead) = r
  split
  · exact ⟨(hπ.noteBlock ..).1.trans hr, (hπ.noteBlock ..).2⟩
  · exact ⟨hr, rfl⟩
theorem BlindPost.nextBlock (s : State) (n : Node) (l : List Run) (off : Nat) (f : Fmt) (had : List (Bool × List Byte)) :
    π (nextBlock s n l off f had).1 = π s ∧ nodeKey (nextBlock s n l off f had).2.1 = nodeKey n := by
  unfold Machine.nextBlock
  split
  · exact ⟨rfl, rfl⟩
  · dsimp only
    split
    · exact hπ.tileBlock ..
    · exact hπ.tileBlock s n l off f
theorem BlindPost.readTileRow (fuel : Nat) (s : State) (n : Node) (l : List Run) (off room : Nat) (f : Fmt) (k : Nat)
    (had : List (Bool × List Byte)) :
    π (readTileRow fuel s n l off room f k had).1 = π s ∧ nodeKey (readTileRow fuel s n l off room f k had).2.1 = nodeKey n := by
  induction fuel generalizing s n off room k had with
  | zero => exact ⟨rfl, rfl⟩
  | succ fuel ih =>
    unfold Machine.readTileRow
    split
    · exact ⟨rfl, rfl⟩
    · split
      · exact ⟨rfl, rfl⟩
      · have hb := hπ.nextBlock s n l off f had
        generalize Machine.nextBlock s n l off f had = x at hb ⊢
        obtain ⟨u, m, raw, r⟩ := x
        obtain ⟨hs, hn⟩ := hb
        have hgo (k : Nat) : π (Machine.readTileRow fuel u m l (off + 64) (room - 64) f k (had.drop 1)).1 = π s ∧
            nodeKey (Machine.readTileRow fuel u m l (off + 64) (room - 64) f k (had.drop 1)).2.1 = nodeKey n :=
          ⟨(ih ..).1.trans hs, (ih ..).2.trans hn⟩
        cases r with
        | bad => exact ⟨by dsimp only; split <;> exact (hgo _).1, by dsimp only; split <;> exact (hgo _).2⟩
        | reserved => exact ⟨hs, hn⟩
        | good k vals =>
          dsimp only
          split
          · exact ⟨by split <;> exact (hgo _).1, by split <;> exact (hgo _).2⟩
          · exact ⟨by split <;> exact (hgo _).1, by split <;> exact (hgo _).2⟩
theorem BlindPost.readExtentRow (s : State) (n : Node) (l : List Run) (x r : Nat) (f : Fmt) (k : Nat) :
    π (readExtentRow s n l x r f k).1 = π s ∧ nodeKey (readExtentRow s n l x r f k).2.1 = nodeKey n := by
  have hr := hπ.readTileRow k s n l (r * nStride n x) (nStride n x) f k n.work.raws
  unfold Machine.readExtentRow
  dsimp only
  split
  · exact hr
  · exact hr
theorem BlindPost.rowEnd (s : State) (n : Node) (x r : Nat) (e : RowRead) : π (rowEnd s n x r e).1 = π s := by
  unfold Machine.rowEnd
  split
  · rfl
  · rfl
  · exact hπ.postNode ..
theorem BlindPost.readColumns (fuel : Nat) (s : State) (n : Node) :
    π (readColumns fuel s n).1 = π s ∧ nodeKey (readColumns fuel s n).2.1 = nodeKey n := by
  induction fuel generalizing s n with
  | zero => exact ⟨rfl, rfl⟩
  | succ fuel ih =>
    have hr := hπ.readExtentRow s n n.runsB 1 n.work.cols.length (nFmt (nFb n)) (nK n)
    unfold Machine.readColumns
    dsimp only
    split
    · exact ⟨rfl, rfl⟩
    · split
      · exact hr
      · split
        · exact ⟨(ih ..).1.trans hr.1, (ih ..).2.trans hr.2⟩
        · exact ⟨(hπ.rowEnd ..).trans hr.1, hr.2⟩
theorem BlindPost.oldRow (s : State) (n : Node) : π (oldRow s n).1 = π s ∧ nodeKey (oldRow s n).2.1 = nodeKey n := by
  unfold Machine.oldRow
  exact hπ.readExtentRow s n n.runsC 2 n.prog (nFmt (nFc n)) 240
theorem BlindPost.readMatrix (fuel : Nat) (s : State) (n : Node) :
    π (readMatrix fuel s n).1 = π s ∧ nodeKey (readMatrix fuel s n).2.1 = nodeKey n := by
  induction fuel generalizing s n with
  | zero => exact ⟨rfl, rfl⟩
  | succ fuel ih =>
    have hr := hπ.readExtentRow s n n.runsA 0 n.work.mat.length (nFmt (nFa n)) (nK n)
    unfold Machine.readMatrix
    dsimp only
    split
    · exact ⟨rfl, rfl⟩
    · split
      · exact ⟨(ih ..).1.trans hr.1, (ih ..).2.trans hr.2⟩
      · exact ⟨(hπ.rowEnd ..).trans hr.1, hr.2⟩

/-! ### Lines held and written by an engine -/

theorem BlindPost.releaseEng (s : State) (agent q id line : Nat) (mask : BitVec 32) (stack : Bool) :
    π (releaseEng s agent q id line mask stack) = π s := hπ.engineArrive ..
theorem BlindPost.holdLines (s : State) (n : Node) (e : Nat) : π (holdLines s n e) = π s :=
  foldl_view (fun s l => (hπ.finishEngReg ..).trans (hπ.recallAll s l _)) ..
theorem BlindPost.releaseLines (s : State) (n : Node) (e rows : Nat) : π (releaseLines s n e rows) = π s :=
  foldl_view (fun s l => hπ.releaseEng s (tileAgent e) n.part e l _ false) ..
theorem BlindPost.writeTileBlock (s : State) (n : Node) (off : Nat) (bs : List Byte) : π (writeTileBlock s n off bs) = π s := by
  unfold Machine.writeTileBlock
  split
  · dsimp only
    split
    · exact (hπ.arrayWrite ..).trans ((hπ.tierEnsure ..).trans (hπ.inner ..))
    · exact (hπ.spadStore ..).trans (hπ.inner ..)
    · exact hπ.inner ..
  · rfl
theorem BlindPost.writeOutRow (fuel : Nat) (s : State) (n : Node) (off : Nat) (vals : List Num) :
    π (writeOutRow fuel s n off vals) = π s := by
  induction fuel generalizing s off vals with
  | zero => rfl
  | succ fuel ih =>
    unfold Machine.writeOutRow
    split
    · rfl
    · exact (ih ..).trans (hπ.writeTileBlock ..)

end

/-! ### The work of an engine -/

/-- A view that does not see what an engine works on, other than the node that it is busy with. -/
structure BlindTile {α : Type} (e : Nat) (π : State → α) : Prop extends BlindPost π where
  tile : ∀ (s : State) (t : Tile), t.busy = (tile s e).busy → π (setTile s e t) = π s

theorem clearSlots_busy (t : Tile) (l : List Nat) : (clearSlots t l).busy = t.busy := by
  unfold clearSlots
  exact foldl_view (π := Tile.busy) (by intros; rfl) l t
theorem setAccRow_busy (t : Tile) (i : Nat) (ws : List W32) : (setAccRow t i ws).busy = t.busy := rfl
theorem clearRows_busy (t : Tile) (l : List Nat) (ws : List W32) : (l.foldl (fun t i => setAccRow t i ws) t).busy = t.busy :=
  foldl_view (π := Tile.busy) (by intros; rfl) l t
theorem tile_setTile (s : State) (e : Nat) (t : Tile) : tile (setTile s e t) e = t := mapGet_mapSet_self ..

section
variable {α : Type} {π : State → α} {e : Nat} (hπ : BlindTile e π)
include hπ

theorem BlindTile.runWload (s : State) (n : Node) : π (runWload s n e).1 = π s ∧ nodeKey (runWload s n e).2.1 = nodeKey n := by
  have hr := hπ.readColumns (nRows n 1) s n
  unfold Machine.runWload
  generalize Machine.readColumns (nRows n 1) s n = x at hr ⊢
  obtain ⟨u, m, r⟩ := x
  dsimp only
  generalize (if (decide (r ≠ TileEnd.done) && m.work.cols.isEmpty) = true then 0 else slotsFor m.work.cols) = used
  split
  · exact ⟨(hπ.tile u _ (by exact clearSlots_busy ..)).trans hr.1, hr.2⟩
  · split
    · exact ⟨(hπ.tile u _ (by rfl)).trans hr.1, hr.2⟩
    · exact ⟨(hπ.tile u _ (by exact clearSlots_busy ..)).trans hr.1, hr.2⟩
theorem BlindTile.hurtRow (s : State) (x : WSlot) (i : Nat) (a : List TBlock) : π (hurtRow s e x i a) = π s := by
  unfold Machine.hurtRow
  dsimp only
  split
  · rfl
  · exact (hπ.tile _ _ (setAccRow_busy ..)).trans (hπ.inner ..)
theorem BlindTile.mmaRows (fuel : Nat) (s : State) (n : Node) (x : WSlot) :
    π (mmaRows fuel s n e x).1 = π s ∧ nodeKey (mmaRows fuel s n e x).2.1 = nodeKey n := by
  induction fuel generalizing s n with
  | zero => exact ⟨rfl, rfl⟩
  | succ fuel ih =>
    have hr := hπ.readExtentRow s n n.runsA 0 n.prog (nFmt (nFa n)) (nK n)
    unfold Machine.mmaRows
    dsimp only
    split
    · exact ⟨rfl, rfl⟩
    · split
      · refine ⟨(ih ..).1.trans (Eq.trans ?_ hr.1), (ih ..).2.trans hr.2⟩
        split
        · exact hπ.hurtRow ..
        · exact hπ.tile _ _ (setAccRow_busy ..)
      · exact ⟨(hπ.rowEnd ..).trans hr.1, hr.2⟩
theorem BlindTile.runMma (s : State) (n : Node) : π (runMma s n e).1 = π s ∧ nodeKey (runMma s n e).2.1 = nodeKey n := by
  unfold Machine.runMma
  dsimp only
  split
  · exact ⟨rfl, rfl⟩
  · refine ⟨(hπ.mmaRows ..).1.trans ?_, (hπ.mmaRows ..).2⟩
    split
    · exact hπ.tile _ _ (clearRows_busy ..)
    · rfl
theorem BlindTile.cstoreRows (fuel : Nat) (s : State) (n : Node) :
    π (cstoreRows fuel s n e).1 = π s ∧ nodeKey (cstoreRows fuel s n e).2.1 = nodeKey n := by
  induction fuel generalizing s n with
  | zero => exact ⟨rfl, rfl⟩
  | succ fuel ih =>
    unfold Machine.cstoreRows
    dsimp only
    split
    · exact ⟨rfl, rfl⟩
    · have hr : π (if nAcc n then Machine.oldRow s n else (s, n, .ok [])).1 = π s ∧
          nodeKey (if nAcc n then Machine.oldRow s n else (s, n, .ok [])).2.1 = nodeKey n := by
        split
        · exact hπ.oldRow ..
        · exact ⟨rfl, rfl⟩
      split
      · exact ⟨(ih ..).1.trans ((hπ.writeOutRow ..).trans hr.1), (ih ..).2.trans hr.2⟩
      · exact ⟨(hπ.rowEnd ..).trans hr.1, hr.2⟩
theorem BlindTile.runTrans (s : State) (n : Node) : π (runTrans s n e).1 = π s ∧ nodeKey (runTrans s n e).2.1 = nodeKey n := by
  have hr := hπ.readMatrix (nM n) s n
  unfold Machine.runTrans
  dsimp only
  split
  · exact hr
  · refine ⟨Eq.trans (foldl_view (fun s k => ?_) ..) hr.1, hr.2⟩
    exact (hπ.writeOutRow ..).trans (hπ.tile _ _ (by rfl))

end

end Sys2Proof.Machine
end

section
/-!
SUPPORT. Maps as lists; the nodes and the directories of the task hubs (R385, R386).
-/

namespace Sys2Proof.Machine

/-! ### Maps as lists -/

theorem mem_of_mapGet? {α : Type} {m : NMap α} {k : Nat} {v : α} (h : mapGet? m k = some v) : (k, v) ∈ m := by
  induction m with
  | nil => exact nomatch h
  | cons x m ih =>
    obtain ⟨j, w⟩ := x
    rw [mapGet?] at h
    split at h
    next hk => cases h; exact hk ▸ List.mem_cons_self
    next => exact List.mem_cons_of_mem _ (ih h)
theorem mem_mapSet {α : Type} {m : NMap α} {k : Nat} {v : α} {x : Nat × α} (h : x ∈ mapSet m k v) : x = (k, v) ∨ x ∈ m := by
  induction m with
  | nil => exact .inl (List.mem_singleton.1 h)
  | cons y m ih =>
    obtain ⟨j, w⟩ := y
    rw [mapSet] at h
    split at h
    next => exact List.mem_cons.1 h
    next =>
      split at h
      next => exact (List.mem_cons.1 h).imp_right (List.mem_cons_of_mem _)
      next =>
        rcases List.mem_cons.1 h with rfl | h
        · exact .inr List.mem_cons_self
        · exact (ih h).imp_right (List.mem_cons_of_mem _)
theorem mapSet_mem {α : Type} (m : NMap α) (k : Nat) (v : α) : (k, v) ∈ mapSet m k v :=
  mem_of_mapGet? (by rw [mapGet?_mapSet_self])
/-- What a map lists stays listed when a key is set, but for the key's own entry. -/
theorem mem_mapSet_of_mem {α : Type} {m : NMap α} {k : Nat} {v : α} {x : Nat × α} (h : x ∈ m) :
    x ∈ mapSet m k v ∨ (x.1 = k ∧ mapGet? m k = some x.2) := by
  induction m with
  | nil => exact nomatch h
  | cons y m ih =>
    obtain ⟨j, w⟩ := y
    rw [mapSet, mapGet?]
    split
    next => exact .inl (List.mem_cons_of_mem _ h)
    next =>
      split
      next hk =>
        rcases List.mem_cons.1 h with rfl | h
        · exact .inr ⟨hk.symm, rfl⟩
        · exact .inl (List.mem_cons_of_mem _ h)
      next =>
        rcases List.mem_cons.1 h with rfl | h
        · exact .inl List.mem_cons_self
        · exact (ih h).imp_left (List.mem_cons_of_mem _)
/-- A search of a map that finds nothing finds, once a key is set, what it finds there. -/
theorem findSome?_mapSet {α β : Type} {m : NMap α} {f : Nat × α → Option β} (k : Nat) (v : α) (h : ∀ x ∈ m, f x = none) :
    (mapSet m k v).findSome? f = f (k, v) := by
  induction m with
  | nil => rw [mapSet, List.findSome?_singleton]
  | cons y m ih =>
    obtain ⟨j, w⟩ := y
    have hm := ih fun x hx => h x (List.mem_cons_of_mem _ hx)
    have hy := h (j, w) List.mem_cons_self
    have hnone : m.findSome? f = none := List.findSome?_eq_none_iff.2 fun x hx => h x (List.mem_cons_of_mem _ hx)
    rw [mapSet]
    split
    · simp [List.findSome?_cons, hy, hnone]
      split <;> simp_all
    · split
      · simp [List.findSome?_cons, hnone]
        split <;> simp_all
      · simp [hy, hm]

/-! ### Directories -/

/-- The entry stands for a record. -/
def isEntry (q rec' : Nat) (e : DirEnt) : Bool := e.part == q && e.record == rec'

theorem dirFind_eq_none {s : State} {q rec' : Nat} :
    dirFind s q rec' = none ↔ ∀ x ∈ s.hubs, ∀ e ∈ x.2.dir, isEntry q rec' e = false := by
  unfold dirFind
  rw [List.findSome?_eq_none_iff]
  refine forall₂_congr fun x _ => ?_
  rw [Option.map_eq_none_iff, List.find?_eq_none]
  exact forall₂_congr fun e _ => by rw [isEntry, Bool.not_eq_true]
theorem not_isEntry_of_dirFind {s : State} {q rec' : Nat} (h : dirFind s q rec' = none) (d : Nat) :
    ∀ e ∈ (hub s d).dir, isEntry q rec' e = false := by
  intro e he
  unfold hub mapGet at he
  cases hg : mapGet? s.hubs d with
  | none => rw [hg] at he; exact nomatch he
  | some x => rw [hg] at he; exact dirFind_eq_none.1 h _ (mem_of_mapGet? hg) e he
theorem dirFind_setHub_none {s : State} {q rec' : Nat} {h : Hub} (d : Nat) (hs : dirFind s q rec' = none)
    (hh : ∀ e ∈ h.dir, isEntry q rec' e = false) : dirFind (setHub s d h) q rec' = none := by
  rw [dirFind_eq_none] at hs ⊢
  intro x hx
  rcases mem_mapSet hx with rfl | hx
  · exact hh
  · exact hs x hx
theorem dirFind_dirDrop (s : State) (q rec' : Nat) : dirFind (dirDrop s q rec') q rec' = none := by
  rw [dirFind_eq_none]
  intro x hx e he
  obtain ⟨y, -, rfl⟩ := List.mem_map.1 hx
  have := (List.mem_filter.1 he).2
  rwa [Bool.not_eq_true'] at this
theorem dirFind_setHub_some {s : State} {q rec' : Nat} {h : Hub} {e : DirEnt} (d : Nat) (hs : dirFind s q rec' = none)
    (hh : h.dir.find? (isEntry q rec') = some e) : dirFind (setHub s d h) q rec' = some (d, e) := by
  rw [dirFind_eq_none] at hs
  refine (findSome?_mapSet d h fun x hx => ?_).trans ?_
  · rw [Option.map_eq_none_iff, List.find?_eq_none]
    exact fun e he => by rw [Bool.not_eq_true]; exact hs x hx e he
  · show (h.dir.find? (isEntry q rec')).map _ = _
    rw [hh]
    rfl
theorem find?_append_of_none {l : List DirEnt} {q rec' : Nat} {e : DirEnt} (hl : ∀ x ∈ l, isEntry q rec' x = false)
    (he : isEntry q rec' e = true) : (l ++ [e]).find? (isEntry q rec') = some e := by
  rw [List.find?_append, List.find?_eq_none.2 fun x hx => by rw [hl x hx]; decide, List.find?_cons_of_pos he]
  rfl
theorem dirFind_dirPut (s : State) (d : Nat) (e : DirEnt) : dirFind (dirPut s d e) e.part e.record = some (d, e) := by
  have hnone := dirFind_dirDrop s e.part e.record
  exact dirFind_setHub_some d hnone (find?_append_of_none (not_isEntry_of_dirFind hnone d) (by simp [isEntry]))
theorem dirFind_congr {s t : State} (h : t.hubs = s.hubs) (q rec' : Nat) : dirFind t q rec' = dirFind s q rec' := by
  unfold dirFind
  rw [h]

/-! ### Nodes -/

theorem findNode_congr {s t : State} (h : t.hubs = s.hubs) (d q rec' : Nat) : findNode t d q rec' = findNode s d q rec' := by
  unfold findNode hub
  rw [h]
theorem hub_dirDrop (s : State) (q rec' d : Nat) :
    hub (dirDrop s q rec') d = { hub s d with dir := (hub s d).dir.filter fun e => !(e.part == q && e.record == rec') } :=
  mapGet_map s.hubs (fun h : Hub => { h with dir := h.dir.filter fun e => !(e.part == q && e.record == rec') }) d Hub.init rfl

theorem findNode_setHub (s : State) (d : Nat) (h : Hub) (q rec' : Nat) :
    findNode (setHub s d h) d q rec' = h.nodes.find? fun n => n.part == q && n.record == rec' := by
  unfold findNode
  rw [hub_setHub_self]
/-- A node that takes the place of one of its record is found in its stead. -/
theorem find?_replaced {l : List Node} {n m : Node} (h : (l.find? fun x => x.part == m.part && x.record == m.record) = some n) :
    ((l.map fun x => if x.part = m.part ∧ x.record = m.record then m else x).find?
      fun x => x.part == m.part && x.record == m.record) = some m := by
  induction l with
  | nil => exact nomatch h
  | cons x l ih =>
    rw [List.map_cons]
    by_cases hx : x.part = m.part ∧ x.record = m.record
    · rw [if_pos hx]
      exact List.find?_cons_of_pos (by simp)
    · have hf : (x.part == m.part && x.record == m.record) = false := by simpa using hx
      rw [if_neg hx, List.find?_cons, hf]
      rw [List.find?_cons, hf] at h
      exact ih h
theorem findNode_putNode {s : State} {n m : Node} (h : findNode s m.die m.part m.record = some n) :
    findNode (putNode s m) m.die m.part m.record = some m :=
  (findNode_setHub ..).trans (find?_replaced h)
/-- A node that has been found is its record's. -/
theorem key_of_findNode {s : State} {d q rec' : Nat} {n : Node} (h : findNode s d q rec' = some n) :
    n.part = q ∧ n.record = rec' := by
  simpa using List.find?_some h

end Sys2Proof.Machine
end

section
/-!
SUPPORT. Views at work: task hubs, tile engines and the messages on their way, under what hubs and home slices do.
-/

namespace Sys2Proof.Machine

/-! ### Views -/

theorem blindPost_hubs : BlindPost State.hubs where
  inner := by intros; rfl
  trace := by intros; rfl
  fills := by intros; rfl
  sends := by intros; rfl
  revoke := by intros; rfl
  held := by intros; rfl
  rings := by intro s r x; cases r <;> rfl
theorem blindPost_tiles : BlindPost State.tiles where
  inner := by intros; rfl
  trace := by intros; rfl
  fills := by intros; rfl
  sends := by intros; rfl
  revoke := by intros; rfl
  held := by intros; rfl
  rings := by intro s r x; cases r <;> rfl
theorem blind_incs : Blind State.incs where
  inner := by intros; rfl
  trace := by intros; rfl
  fills := by intros; rfl
/-- The node that an engine is busy with. -/
def busyWith (e : Nat) (s : State) : Option (Nat × Nat) := (tile s e).busy
theorem tile_congr {s t : State} (h : t.tiles = s.tiles) (e : Nat) : tile t e = tile s e := by
  unfold tile
  rw [h]
theorem busyWith_congr {s t : State} (h : t.tiles = s.tiles) (e : Nat) : busyWith e t = busyWith e s :=
  congrArg Tile.busy (tile_congr h e)
theorem blindTile_busyWith (e : Nat) : BlindTile e (busyWith e) where
  inner := by intros; rfl
  trace := by intros; rfl
  fills := by intros; rfl
  sends := by intros; rfl
  revoke := by intros; rfl
  held := by intros; rfl
  rings s r x := busyWith_congr (blindPost_tiles.rings s r x) e
  tile s t h := by unfold busyWith; rw [tile_setTile, h]
theorem ChangesFills.mem {f : Msg → Msg} (hf : ChangesFills f) {m : Msg} (hm : isFill m = false) (l : List Msg) :
    m ∈ l.map f ↔ m ∈ l := by
  have hfm : f m = m := (hf m).resolve_right fun h => absurd h.1 (by simp [hm])
  refine ⟨fun h => ?_, fun h => List.mem_map.2 ⟨m, h, hfm⟩⟩
  obtain ⟨x, hx, rfl⟩ := List.mem_map.1 h
  rcases hf x with h | ⟨-, h⟩
  · exact h.symm ▸ hx
  · rw [hm] at h
    exact nomatch h
/-- Whether a message, no fill, is on its way. -/
theorem blind_sent {m : Msg} (hm : isFill m = false) : Blind fun s => m ∈ s.agenda where
  inner := by intros; rfl
  trace := by intros; rfl
  fills s _ hf := propext (hf.mem hm s.agenda)
theorem blind_agendaLength : Blind fun s => s.agenda.length where
  inner := by intros; rfl
  trace := by intros; rfl
  fills s f _ := List.length_map f

/-! ### Steps of the hubs that access memory and rows alone -/

section
variable {α : Type} {π : State → α} (hπ : Blind π)
include hπ

theorem Blind.writeStatus (s : State) (n : Node) : π (writeStatus s n) = π s := by
  unfold Machine.writeStatus
  split
  · split
    · exact hπ.hubWriteDword ..
    · rfl
  · rfl
theorem Blind.countNode (s : State) (n : Node) (fault : Bool) : π (countNode s n fault) = π s := by
  unfold Machine.countNode
  dsimp only
  split
  · rfl
  · exact (hπ.arriveWord ..).trans (hπ.noteArrival ..)
theorem Blind.checkExtents (s : State) (k : Asker) (l : List (Word × Nat)) :
    π (l.foldl (fun s x => Machine.checkExtent s k x.1 x.2) s) = π s := by
  refine foldl_view (fun s x => ?_) l s
  exact hπ.checkExtent ..

end

/-- A view that does not see the engines either, nor what they have left with their partitions. -/
structure BlindUnits {α : Type} (π : State → α) : Prop extends Blind π where
  engines : ∀ (s : State) (tiles : NMap Tile) (saves : NMap SavedTile), π { s with tiles := tiles, saves := saves } = π s

section
variable {α : Type} {π : State → α} (hπ : BlindUnits π)
include hπ

theorem BlindUnits.setTile (s : State) (e : Nat) (t : Tile) : π (setTile s e t) = π s := hπ.engines ..
theorem BlindUnits.reserve (s : State) (q e : Nat) (up : Bool) : π (reserve s q e up) = π s := by
  unfold Machine.reserve
  split
  · exact hπ.engines ..
  · exact hπ.setTile ..
theorem BlindUnits.freeEngine (s : State) (n : Node) : π (freeEngine s n) = π s := by
  unfold Machine.freeEngine
  dsimp only
  split
  · split
    · exact (hπ.setTile ..).trans (hπ.settleTorn ..)
    · exact hπ.settleTorn ..
  · exact hπ.settleTorn ..

end

theorem blindUnits_hubs : BlindUnits State.hubs where
  toBlind := blindPost_hubs.toBlind
  engines := by intros; rfl

/-! ### The work of an engine ends -/

theorem tiles_putNode (s : State) (n : Node) : (putNode s n).tiles = s.tiles := rfl
theorem worked_afterWork {s : State} {n m : Node} {e : Nat} (r : TileEnd) (hbusy : busyWith e s = some (n.part, n.record))
    (hkey : nodeKey m = nodeKey n) : Worked (afterWork s m e r) e n := by
  obtain ⟨hdie, hpart, hrecord⟩ : m.die = n.die ∧ m.part = n.part ∧ m.record = n.record := by simpa [nodeKey] using hkey
  have hrel : busyWith e (putNode (releaseLines s m e m.prog) m) = some (n.part, n.record) :=
    ((blindTile_busyWith e).releaseLines ..).trans hbusy
  cases r with
  | done => exact .inl ⟨hrel, .inl (hdie ▸ hpart ▸ hrecord ▸ List.mem_append_right _ (List.mem_singleton_self _))⟩
  | fail c a => exact .inl ⟨hrel, .inr ⟨c, a, hdie ▸ hpart ▸ hrecord ▸ List.mem_append_right _ (List.mem_singleton_self _)⟩⟩
  | park =>
    right
    unfold afterWork
    rw [tile_congr (blindPost_tiles.writeStatus ..), tile_setTile, hpart, hrecord]
/-- An engine that takes a node up ends its work, or parks the node (R301, R311). -/
theorem worked_runTile (s : State) (n : Node) (e : Nat) : Worked (runTile s n e) e n := by
  have hπ := blindTile_busyWith e
  have hstart : busyWith e (setTile s e { tile s e with busy := some (n.part, n.record), parked := none }) = some (n.part, n.record) := by
    unfold busyWith
    rw [tile_setTile]
  unfold runTile
  generalize setTile s e { tile s e with busy := some (n.part, n.record), parked := none } = u at hstart ⊢
  dsimp only
  split
  · exact worked_afterWork _ ((hπ.runWload u n).1.trans hstart) (hπ.runWload u n).2
  · exact worked_afterWork _ ((hπ.cstoreRows (nM n) u n).1.trans hstart) (hπ.cstoreRows (nM n) u n).2
  · exact worked_afterWork _ ((hπ.runTrans u n).1.trans hstart) (hπ.runTrans u n).2
  · exact worked_afterWork _ ((hπ.runMma u n).1.trans hstart) (hπ.runMma u n).2

end Sys2Proof.Machine
end

section
/-!
SUPPORT. A write of one block at a quiet line (R66, R84, R89): what it leaves in memory, and that it moves no row.
-/

namespace Sys2Proof.Machine

/-! ### What an access to the data array touches -/

/-- Only what the stack controllers and the data array hold differs. -/
def OnlyArray (s t : State) : Prop :=
  t = { s with count := t.count, mem := t.mem, blocks := t.blocks, dlines := t.dlines, hub := t.hub } ∧ t.hub.keys = s.hub.keys

theorem OnlyArray.refl (s : State) : OnlyArray s s := ⟨rfl, rfl⟩
theorem OnlyArray.trans {s t u : State} (h : OnlyArray s t) (k : OnlyArray t u) : OnlyArray s u := by
  refine ⟨?_, k.2.trans h.2⟩
  rw [k.1, h.1]
theorem OnlyBlocks.onlyArray {s t : State} (h : OnlyBlocks s t) : OnlyArray s t := by
  refine ⟨?_, congrArg HubDie.keys h.hub⟩
  rw [h.eq]
theorem OnlyArray.rows {s t : State} (h : OnlyArray s t) : t.rows = s.rows := (congrArg State.rows h.1).trans rfl
theorem OnlyArray.parts {s t : State} (h : OnlyArray s t) : t.parts = s.parts := (congrArg State.parts h.1).trans rfl

theorem stackFound_onlyArray (s : State) (q pa : Nat) (e : EccFound) (l : List Byte) : OnlyArray s (stackFound s q pa e l) := by
  refine ⟨rfl, ?_⟩
  show (if e = .uncorrectable then _ else if e = .corrected then _ else s.hub : HubDie).keys = s.hub.keys
  split
  · rfl
  · split <;> rfl
theorem stackCheck_onlyArray (s : State) (q pa : Nat) : OnlyArray s (stackCheck s q pa) :=
  OnlyArray.trans (t := { s with count := s.count + 9 }) ⟨rfl, rfl⟩ (stackFound_onlyArray ..)
theorem poisonBlock_onlyArray (s : State) (pa : Nat) : OnlyArray s (poisonBlock s pa) := ⟨rfl, rfl⟩
theorem evictData_onlyArray (s : State) (line : Nat) : OnlyArray s (evictData s line) := by
  have ite (c : Bool) (u : State) (pa : Nat) : OnlyArray u (if c then poisonBlock u pa else u) := by
    split
    · exact poisonBlock_onlyArray ..
    · exact .refl u
  exact (ite _ s _).trans ((ite _ _ _).trans ⟨rfl, rfl⟩)
theorem roomData_onlyArray (s : State) (line : Nat) : OnlyArray s (roomData s line) := by
  unfold roomData
  split
  · exact .refl s
  · dsimp only
    split
    · exact .refl s
    · split
      · exact evictData_onlyArray ..
      · exact .refl s
theorem useData_onlyArray (s : State) (line : Nat) : OnlyArray s (useData s line) := by
  unfold useData
  split
  · exact ⟨rfl, rfl⟩
  · exact .refl s
theorem setDline_onlyArray (s : State) (line : Nat) (d : DLine) : OnlyArray s (setDline s line d) := ⟨rfl, rfl⟩
theorem allocData_onlyArray (s : State) (line : Nat) (h : Hint) : OnlyArray s (allocData s line h) := by
  unfold allocData
  split
  · exact useData_onlyArray ..
  · cases h with
    | noal => exact .refl s
    | norm => exact (roomData_onlyArray ..).trans (setDline_onlyArray ..)
    | strm => exact (roomData_onlyArray ..).trans (setDline_onlyArray ..)
theorem foldl_onlyArray {α : Type} {f : State → α → State} (step : ∀ s x, OnlyArray s (f s x)) (l : List α) (s : State) :
    OnlyArray s (l.foldl f s) := by
  induction l generalizing s with
  | nil => exact .refl s
  | cons x l ih => exact (step s x).trans (ih _)
theorem fetchArray_onlyArray (s : State) (q pa n : Nat) (h : Hint) : OnlyArray s (fetchArray s q pa n h) := by
  refine (foldl_onlyArray (fun s i => ?_) (List.range 2) s).trans (allocData_onlyArray ..)
  dsimp only
  split
  · exact .refl s
  · exact stackCheck_onlyArray ..
theorem markDirty_onlyArray (s : State) (line : Nat) : OnlyArray s (markDirty s line) := by
  unfold markDirty
  split
  · exact ⟨rfl, rfl⟩
  · exact .refl s
theorem markDirty_blocks (s : State) (line : Nat) : (markDirty s line).blocks = s.blocks := by
  unfold markDirty
  split <;> rfl

/-! ### Bytes merged into one block -/

theorem merge_oneBlock {s : State} {pa : Nat} {data : List Byte} (key : Nat) (h : OneBlock pa data.length) :
    merge s pa data key = mergeBlock s pa data key := by
  obtain ⟨hpos, hfit⟩ := h
  unfold merge
  rw [if_neg (List.ne_nil_of_length_pos hpos), show (pa % 64 + data.length + 63) / 64 = 1 by omega]
  show mergeBlock s pa (data.take (64 - pa % 64)) key = _
  rw [List.take_of_length_le (by omega)]
theorem memBytes_mergeBlock {s : State} (pa : Nat) (data : List Byte) (key : Nat) (h : s.mem.wf = true) :
    memBytes (mergeBlock s pa data key).mem pa data.length = data := by
  unfold mergeBlock
  dsimp only
  split
  · exact memBytes_memStore_self pa data h
  · exact memBytes_memStore_self pa data (settle_wf pa h)
/-- A block that has been written into decrypts as it was written. -/
theorem plain_mergeBlock (s : State) (pa : Nat) (data : List Byte) (key a : Nat) (h : a / 64 = pa / 64) :
    Plain (mergeBlock s pa data key) a := by
  unfold mergeBlock
  dsimp only
  split
  · unfold Plain block setBlock
    dsimp only
    rw [h, mapGet_mapSet_self]
    rfl
  · exact plain_settle_self s pa a h

/-! ### A write at a quiet line -/

/-- The array takes one block's bytes: memory holds them, in clear, and no row has moved. -/
theorem arrayWrite_oneBlock {s : State} {q pa : Nat} {data : List Byte} (key : Nat) (hint : Hint) (h : OneBlock pa data.length)
    (hwf : s.mem.wf = true) (htier : inTier (part s q) pa = false) :
    OnlyArray s (arrayWrite s q pa data key hint) ∧ memBytes (arrayWrite s q pa data key hint).mem pa data.length = data ∧
      ∀ i, i < data.length → Plain (arrayWrite s q pa data key hint) (pa + i) := by
  have hu := fetchArray_onlyArray s q pa data.length hint
  have huwf := fetchArray_wf q pa data.length hint hwf
  unfold arrayWrite
  generalize fetchArray s q pa data.length hint = u at hu huwf ⊢
  dsimp only
  rw [merge_oneBlock key h]
  have hv := (mergeBlock_frame u pa data key).onlyArray
  have hbytes := memBytes_mergeBlock pa data key huwf
  have hplain : ∀ i, i < data.length → Plain (mergeBlock u pa data key) (pa + i) := fun i hi =>
    plain_mergeBlock u pa data key _ (by have := h.2; omega)
  generalize mergeBlock u pa data key = v at hv hbytes hplain ⊢
  have hw := markDirty_onlyArray v (lineOf pa)
  have hmem := markDirty_mem v (lineOf pa)
  have hblocks := markDirty_blocks v (lineOf pa)
  generalize markDirty v (lineOf pa) = w at hw hmem hblocks ⊢
  have hparts := (hu.trans (hv.trans hw)).parts
  rw [show tierDirty w q pa data.length = w from if_neg (by rw [part_of_parts hparts, htier]; decide)]
  refine ⟨hu.trans (hv.trans hw), hmem ▸ hbytes, fun i hi => ?_⟩
  have := hplain i hi
  unfold Plain block keyGen keySlot at this ⊢
  rwa [hblocks, hw.2]
/-- At a quiet line nothing is recalled or invalidated before a write of the hub die. -/
theorem hubBlock_quiet {s : State} {q pa key : Nat} {data : List Byte} (agent : Nat) (h : LineQuiet s (lineOf pa))
    (htier : inTier (part s q) pa = false) (hkey : foreignPart s pa data.length key = false) :
    ∃ k, hubBlock s q agent pa data key = arrayWrite (setKeep s (lineOf pa) k) q pa data key .norm := by
  have hensure : tierEnsure s q pa = s := if_neg (by rw [htier]; exact Bool.false_ne_true)
  have hrecall (m : BitVec 32) : recallAll s (lineOf pa) m = s := by
    unfold recallAll
    rw [h.owned]
    rfl
  have hinval (m : BitVec 32) : ∃ k, invalidateAll s q (lineOf pa) m agent = setKeep s (lineOf pa) k := by
    unfold invalidateAll
    rw [h.kept]
    exact ⟨_, rfl⟩
  unfold hubBlock
  rw [hensure]
  dsimp only
  rw [hkey, hrecall]
  obtain ⟨k, hk⟩ := hinval (wordMask pa data.length)
  exact ⟨k, by rw [← hk]; exact if_neg Bool.false_ne_true⟩
theorem foreignPart_own {s : State} {pa n key : Nat} (h : pa % 64 + n ≤ 64) (hkey : n = 64 ∨ (block s pa).key.toNat = key) :
    foreignPart s pa n key = false := by
  unfold foreignPart
  rw [List.any_eq_false]
  intro i hi
  have hi0 : i = 0 := by rw [List.mem_range] at hi; omega
  subst hi0
  have hb : block s (pa / 64 * 64 + 64 * 0) = block s pa := by
    unfold block
    rw [show (pa / 64 * 64 + 64 * 0) / 64 = pa / 64 by omega]
  rcases hkey with hn | hk
  · simp only [Bool.and_eq_true, Bool.or_eq_true, decide_eq_true_eq]
    omega
  · dsimp only
    rw [hb, hk]
    simp
/-- A write of the hub die within one block at a quiet line. -/
theorem hubWrite_oneBlock {s : State} {q pa key : Nat} {data : List Byte} (agent : Nat) (hone : OneBlock pa data.length)
    (hwf : s.mem.wf = true) (h : LineQuiet s (lineOf pa)) (htier : inTier (part s q) pa = false)
    (hkey : data.length = 64 ∨ (block s pa).key.toNat = key) :
    ∃ k, OnlyArray (setKeep s (lineOf pa) k) (hubWrite s q agent pa data key) ∧
      memBytes (hubWrite s q agent pa data key).mem pa data.length = data ∧
      ∀ i, i < data.length → Plain (hubWrite s q agent pa data key) (pa + i) := by
  have hblocks : blocksOf pa data = [(pa, data)] := by
    obtain ⟨hpos, hfit⟩ := hone
    unfold blocksOf
    rw [show (pa % 64 + data.length + 63) / 64 = 1 by omega]
    show (if data = [] then [] else [(pa, data.take (64 - pa % 64))]) = _
    rw [if_neg (List.ne_nil_of_length_pos hpos), List.take_of_length_le (by omega)]
  obtain ⟨k, hk⟩ := hubBlock_quiet agent h htier (foreignPart_own hone.2 hkey)
  refine ⟨k, ?_⟩
  unfold hubWrite
  rw [hblocks]
  show OnlyArray _ (hubBlock s q agent pa data key) ∧ memBytes (hubBlock s q agent pa data key).mem pa data.length = data ∧
    ∀ i, i < data.length → Plain (hubBlock s q agent pa data key) (pa + i)
  rw [hk]
  exact arrayWrite_oneBlock (s := setKeep s (lineOf pa) k) key .norm hone hwf htier

/-- An open line's bytes within one block can be written at once. -/
theorem rangesFree_of_open {s : State} {pa n : Nat} (agent : Nat) (hone : OneBlock pa n) (h : LineOpen s (lineOf pa)) :
    rangesFree s agent [(pa, n)] = true := by
  obtain ⟨hquiet, htakes⟩ := h
  have hlines : rangeLines pa n = [lineOf pa] := by
    obtain ⟨hpos, hfit⟩ := hone
    unfold rangeLines
    rw [show (pa % 128 + n + 127) / 128 = 1 by omega]
    rfl
  show ((rangeLines pa n ++ []).all _) = true
  rw [hlines]
  simp [lineQuiet, hquiet.idle, hquiet.eng, hquiet.lent, htakes]

end Sys2Proof.Machine
end

section
/-!
PROOF. O50: posts, releases, ageing and dispatch at the task hubs (R301, R309 to R311, R350, R385 to R387).
-/

namespace Sys2Proof.Machine

/-! ### Done-table entries and directory entries that stay -/

/-- Every hub keeps its done table. -/
def DoneKept (s t : State) : Prop := ∀ x ∈ s.hubs, ∃ y ∈ t.hubs, y.2.done = x.2.done

theorem doneKept_setHub {s : State} {d : Nat} {h : Hub} (hd : h.done = (hub s d).done) : DoneKept s (setHub s d h) := by
  intro x hx
  rcases mem_mapSet_of_mem (k := d) (v := h) hx with hx | ⟨rfl, hx⟩
  · exact ⟨x, hx, rfl⟩
  · refine ⟨_, mapSet_mem s.hubs x.1 h, hd.trans ?_⟩
    unfold hub mapGet
    rw [hx]
    rfl
theorem doneKept_dirDrop (s : State) (q rec' : Nat) : DoneKept s (dirDrop s q rec') :=
  fun _ hx => ⟨_, List.mem_map_of_mem hx, rfl⟩
theorem DoneKept.isSome {s t : State} (h : DoneKept s t) {p : PostReq} (hs : (hubDone s p).isSome = true) :
    (hubDone t p).isSome = true := by
  unfold hubDone at hs ⊢
  rw [List.findSome?_isSome_iff] at hs ⊢
  obtain ⟨x, hx, hs⟩ := hs
  obtain ⟨y, hy, hyx⟩ := h x hx
  exact ⟨y, hy, by dsimp only at hs ⊢; rwa [hyx]⟩
theorem hubDone_congr {s t : State} (h : t.hubs = s.hubs) (p : PostReq) : hubDone t p = hubDone s p := by
  unfold hubDone
  rw [h]

/-- The directory entry of a record, the only one of it. -/
structure DirIs (s : State) (q rec' d : Nat) (e : DirEnt) : Prop where
  listed : dirFind s q rec' ≠ none
  only : ∀ x ∈ s.hubs, ∀ y, x.2.dir.find? (isEntry q rec') = some y → x.1 = d ∧ y = e

theorem DirIs.dirFind {s : State} {q rec' d : Nat} {e : DirEnt} (h : DirIs s q rec' d e) : dirFind s q rec' = some (d, e) := by
  cases hf : Machine.dirFind s q rec' with
  | none => exact absurd hf h.listed
  | some y =>
    obtain ⟨x, hx, hy⟩ := List.exists_of_findSome?_eq_some hf
    obtain ⟨z, hz, rfl⟩ := Option.map_eq_some_iff.1 hy
    obtain ⟨rfl, rfl⟩ := h.only x hx z hz
    rfl
theorem dirIs_dirPut (s : State) (d : Nat) (e : DirEnt) : DirIs (dirPut s d e) e.part e.record d e where
  listed := by rw [dirFind_dirPut]; exact nofun
  only x hx y hy := by
    have hnone := dirFind_dirDrop s e.part e.record
    rcases mem_mapSet hx with rfl | hx
    · refine ⟨rfl, Option.some.inj (hy.symm.trans ?_)⟩
      exact find?_append_of_none (not_isEntry_of_dirFind hnone d) (by simp [isEntry])
    · have := List.find?_some hy
      rw [dirFind_eq_none.1 hnone x hx y (List.mem_of_find?_eq_some hy)] at this
      exact nomatch this
theorem DirIs.setHub {s : State} {q rec' d : Nat} {e : DirEnt} (h : DirIs s q rec' d e) {k : Nat} {x : Hub}
    (hx : x.dir = (hub s k).dir) : DirIs (setHub s k x) q rec' d e where
  listed := by
    intro hnone
    refine h.listed (dirFind_eq_none.2 fun y hy z hz => ?_)
    rw [dirFind_eq_none] at hnone
    rcases mem_mapSet_of_mem (k := k) (v := x) hy with hy | ⟨hk, hy⟩
    · exact hnone y hy z hz
    · refine hnone _ (mapSet_mem s.hubs k x) z ?_
      rw [hx]
      unfold hub mapGet
      rwa [hy]
  only y hy z hz := by
    rcases mem_mapSet hy with rfl | hy
    · rw [hx] at hz
      unfold hub mapGet at hz
      cases hg : mapGet? s.hubs k with
      | none => rw [hg] at hz; exact nomatch hz
      | some w => rw [hg] at hz; exact h.only _ (mem_of_mapGet? hg) z hz
    · exact h.only y hy z hz
theorem DirIs.congr {s t : State} {q rec' d : Nat} {e : DirEnt} (h : DirIs s q rec' d e) (ht : t.hubs = s.hubs) :
    DirIs t q rec' d e where
  listed := by rw [dirFind_congr ht]; exact h.listed
  only := ht ▸ h.only
theorem key_of_dirFind {s : State} {q rec' d : Nat} {e : DirEnt} (h : dirFind s q rec' = some (d, e)) :
    e.part = q ∧ e.record = rec' := by
  obtain ⟨x, -, hx⟩ := List.exists_of_findSome?_eq_some h
  obtain ⟨y, hy, he⟩ := Option.map_eq_some_iff.1 hx
  cases he
  simpa using List.find?_some hy

/-! ### Posts (R350) -/

/-- The answer to a post. -/
def postAnswer (p : PostReq) : Msg := .resultArrival ⟨p.row, p.exec, p.slot, p.tag, 0, 0, 0, 0⟩
/-- A post has been answered, and the done table tells of it. -/
def Told (p : PostReq) (s : State) : Prop := postAnswer p ∈ s.agenda ∧ (hubDone s p).isSome = true

theorem blindUnits_told (p : PostReq) : BlindUnits (Told p) where
  inner := by intros; rfl
  trace := by intros; rfl
  fills s f hf := congrArg (· ∧ (hubDone s p).isSome = true) ((blind_sent (m := postAnswer p) rfl).fills s f hf)
  engines := by intros; rfl

theorem Told.of_kept {p : PostReq} {s t : State} (h : Told p s) (ha : postAnswer p ∈ s.agenda → postAnswer p ∈ t.agenda)
    (hd : DoneKept s t) : Told p t := ⟨ha h.1, hd.isSome h.2⟩
theorem Told.setHub {p : PostReq} {s : State} (h : Told p s) {d : Nat} {x : Hub} (hx : x.done = (hub s d).done) :
    Told p (setHub s d x) := h.of_kept id (doneKept_setHub hx)
theorem Told.dirDrop {p : PostReq} {s : State} (h : Told p s) (q rec' : Nat) : Told p (dirDrop s q rec') :=
  h.of_kept id (doneKept_dirDrop s q rec')
theorem Told.dirPut {p : PostReq} {s : State} (h : Told p s) (d : Nat) (e : DirEnt) : Told p (dirPut s d e) :=
  (h.dirDrop ..).setHub rfl
theorem Told.putNode {p : PostReq} {s : State} (h : Told p s) (n : Node) : Told p (putNode s n) := h.setHub rfl
theorem setRingRegs_agenda (s : State) (r : Ring) (x : RingRegs) : (setRingRegs s r x).agenda = s.agenda := by
  cases r <;> rfl
theorem mem_postMsg {s : State} {m : Msg} (h : m ∈ s.agenda) (d : Nat) (r : Ring) (x : RingMsg) : m ∈ (postMsg s d r x).agenda := by
  unfold postMsg
  dsimp only
  split
  · rwa [setRingRegs_agenda]
  · exact List.mem_append_left _ h
theorem Told.postNode {p : PostReq} {s : State} (h : Told p s) (n : Node) (kind cause : Nat) (a b c : Word) :
    Told p (postNode s n kind cause a b c) :=
  ⟨mem_postMsg h.1 .., by rw [hubDone_congr (blindPost_hubs.postNode ..)]; exact h.2⟩
theorem Told.keepNode {p : PostReq} {s : State} (h : Told p s) (d : Nat) (n : Node) : Told p (keepNode s d n) := by
  unfold Machine.keepNode
  dsimp only
  split
  · rw [(blindUnits_told p).traceCoh]
    exact h.setHub rfl
  · exact h.setHub rfl
theorem Told.faultNode {p : PostReq} {s : State} (h : Told p s) (n : Node) (cause : Nat) (addr : Word) :
    Told p (faultNode s n cause addr) := by
  have hπ := blindUnits_told p
  rw [faultNode_eq]
  refine Told.keepNode (Told.dirDrop ?_ ..) ..
  rw [hπ.countNode]
  refine Told.setHub (Told.postNode ?_ ..) rfl
  rw [hπ.writeStatus]
  split
  · rwa [hπ.reserve, hπ.freeEngine]
  · rwa [hπ.freeEngine]
theorem Told.settleNode {p : PostReq} {s : State} (h : Told p s) (n : Node) : Told p (settleNode s n) := by
  have hu : Told p ((nodeExtents n).foldl (fun s x => checkExtent s (nodeAsker n) x.1 x.2) s) := by
    rwa [(blindUnits_told p).checkExtents]
  unfold Machine.settleNode
  dsimp only
  split
  · exact hu.putNode _
  · exact hu.faultNode ..
  · exact hu.putNode _
theorem Told.enterPool {p : PostReq} {s : State} (h : Told p s) (n : Node) : Told p (enterPool s n) := by
  have hu (m : Node) : Told p (writeStatus (Machine.putNode s m) m) := by
    rw [(blindUnits_told p).writeStatus]
    exact h.putNode m
  unfold Machine.enterPool
  dsimp only
  split
  · exact (hu _).settleNode _
  · exact hu _

/-- A record without a directory entry gives a node no credits. -/
theorem takeCredits_fresh {s : State} {n : Node} (d : Nat) (h : dirFind s n.part n.record = none) :
    takeCredits s n d = (dirPut s d ⟨n.part, n.record, some n.die, 0, none⟩, { n with left := nPreds n }) := by
  unfold takeCredits
  rw [h]
  rfl
/-- A node whose record passes its check, as a holder takes it up. -/
def posted (s : State) (n : Node) (dd : Nat) : State :=
  let u := dirPut s dd ⟨n.part, n.record, some n.die, 0, none⟩
  setHub u n.die { hub u n.die with nodes := (hub u n.die).nodes ++ [{ n with left := nPreds n }] }
theorem makeNode_fresh {s : State} {n : Node} (dd : Nat) (h : dirFind s n.part n.record = none) :
    makeNode s n dd = match recordFault n with
      | some (c, a) => faultNode (posted s n dd) { n with left := nPreds n } c a
      | none => enterPool (posted s n dd) { n with left := nPreds n } := by
  unfold makeNode
  rw [takeCredits_fresh dd h]
  rfl
theorem Told.posted {p : PostReq} {s : State} (h : Told p s) (n : Node) (dd : Nat) : Told p (posted s n dd) :=
  (h.dirPut ..).setHub rfl
theorem hub_dirPut_nodes (s : State) (d : Nat) (e : DirEnt) (k : Nat) : (hub (dirPut s d e) k).nodes = (hub s k).nodes := by
  unfold dirPut
  rw [hub_setHub]
  split
  next hk => rw [hub_dirDrop, hk]
  next => rw [hub_dirDrop]
theorem findNode_posted {s : State} {n : Node} (dd : Nat) (h : findNode s n.die n.part n.record = none) :
    findNode (posted s n dd) n.die n.part n.record = some { n with left := nPreds n } := by
  unfold posted
  dsimp only
  rw [findNode_setHub, hub_dirPut_nodes, List.find?_append, show List.find? _ (hub s n.die).nodes = none from h]
  refine List.find?_cons_of_pos (p := fun x : Node => x.part == n.part && x.record == n.record) ?_
  rw [beq_self_eq_true, beq_self_eq_true]
  rfl
theorem dirIs_posted (s : State) (n : Node) (dd : Nat) :
    DirIs (posted s n dd) n.part n.record dd ⟨n.part, n.record, some n.die, 0, none⟩ :=
  (dirIs_dirPut s dd ⟨n.part, n.record, some n.die, 0, none⟩).setHub rfl
/-- A node as it waits for predecessors from now on. -/
def waiting (s : State) (n : Node) : Node := { n with state := 1, since := s.time }
/-- A node that still waits for predecessors enters the pool as WAITING. -/
theorem enterPool_waiting {s : State} {n : Node} (h : n.left ≠ 0) :
    enterPool s n = writeStatus (putNode s (waiting s n)) (waiting s n) := by
  unfold enterPool
  dsimp only
  rw [if_neg h, if_neg h]
  rfl
theorem findNode_enterPool {s : State} {n m : Node} (h : n.left ≠ 0) (hfind : findNode s n.die n.part n.record = some m) :
    findNode (enterPool s n) n.die n.part n.record = some (waiting s n) := by
  rw [enterPool_waiting h]
  exact (findNode_congr (blindPost_hubs.writeStatus ..) ..).trans (findNode_putNode (m := waiting s n) hfind)
theorem DirIs.enterPool {s : State} {n : Node} {q rec' d : Nat} {e : DirEnt} (h : DirIs s q rec' d e) (hn : n.left ≠ 0) :
    DirIs (enterPool s n) q rec' d e := by
  rw [enterPool_waiting hn]
  exact (DirIs.setHub h (x := { hub s n.die with nodes := (hub s n.die).nodes.map fun x =>
    if x.part = n.part ∧ x.record = n.record then waiting s n else x }) rfl).congr (blindPost_hubs.writeStatus ..)

end Sys2Proof.Machine
end

section
/-!
PROOF. O50, posts: the receipt of a post (R350).
-/

namespace Sys2Proof.Machine

theorem hubs_askRanges (s : State) (l : List (Nat × Nat)) : (askRanges s l).hubs = s.hubs := by
  refine foldl_view (π := State.hubs) (fun s p => ?_) _ s
  rfl
/-- A write that waits for its lines moves no hub, and comes again. -/
theorem whenFree_waits {s : State} {agent : Nat} {l : List (Nat × Nat)} {m : Msg} {write : State → State}
    (h : rangesFree s agent l = false) :
    (whenFree s agent l m write).hubs = s.hubs ∧ m ∈ (whenFree s agent l m write).agenda := by
  have hw : whenFree s agent l m write = sendAgain (askRanges s l) m := if_neg (by rw [h]; exact Bool.false_ne_true)
  rw [hw]
  exact ⟨hubs_askRanges .., List.mem_cons_self⟩
theorem whenFree_free {s : State} {agent : Nat} {l : List (Nat × Nat)} {m : Msg} {write : State → State}
    (h : rangesFree s agent l = true) : whenFree s agent l m write = write s := if_pos h

section
variable {p : PostReq} {s : State}

/-- The state in which a post has been entered in the done table and answered. -/
def entered (s : State) (d : Nat) (p : PostReq) : State := answerPost (hubRecord s d p 0) p 0
theorem told_entered (s : State) (d : Nat) (p : PostReq) : Told p (entered s d p) := by
  refine ⟨List.mem_append_right _ (List.mem_singleton_self _), ?_⟩
  unfold hubDone
  rw [List.findSome?_isSome_iff]
  refine ⟨(d, _), mapSet_mem s.hubs d _, ?_⟩
  dsimp only
  rw [List.find?_cons_of_pos (by simp)]
  rfl
theorem findNode_entered (s : State) (d q rec' : Nat) (p : PostReq) :
    findNode (entered s d p) d q rec' = findNode s d q rec' := findNode_setHub ..
theorem dirFind_entered (d : Nat) {q rec' : Nat} (p : PostReq) (h : dirFind s q rec' = none) :
    dirFind (entered s d p) q rec' = none :=
  dirFind_setHub_none d h (not_isEntry_of_dirFind h d)
theorem told_makeNode {n : Node} {dd : Nat} (h : Told p s) (hdir : dirFind s n.part n.record = none) :
    Told p (makeNode s n dd) := by
  rw [makeNode_fresh dd hdir]
  split
  · exact (h.posted n dd).faultNode ..
  · exact (h.posted n dd).enterPool _
/-- A node that still waits for predecessors stands in the pool, and its record's entry is held. -/
theorem makeNode_waiting {n : Node} {dd : Nat} (hdir : dirFind s n.part n.record = none)
    (hfind : findNode s n.die n.part n.record = none) (hfault : recordFault n = none) (hpreds : nPreds n ≠ 0) :
    dirFind (makeNode s n dd) n.part n.record = some (dd, ⟨n.part, n.record, some n.die, 0, none⟩) ∧
      findNode (makeNode s n dd) n.die n.part n.record = some (waiting (posted s n dd) { n with left := nPreds n }) := by
  rw [makeNode_fresh dd hdir, hfault]
  exact ⟨DirIs.dirFind (DirIs.enterPool (dirIs_posted s n dd) hpreds), findNode_enterPool (n := { n with left := nPreds n }) hpreds
    (findNode_posted dd hfind)⟩

end

/-- The receipt of a post that nothing holds back. -/
theorem postReceive_accept {s : State} {p : PostReq} (hrst : (part s p.row.part).rst = false) (hdone : hubDone s p = none)
    (hfull : hubFull s (hubOf s p.row.part p.exec) = false) (hpool : poolFull (hub s (hubOf s p.row.part p.exec)) = false)
    (hroom : dirRoom s (dirDie s p.row.part p.va) 1 = true)
    (hfind : findNode s (hubOf s p.row.part p.exec) p.row.part p.va = none)
    (hquiet : linesQuiet s taskHub (memRanges p.runs) = true) (ws : List Word)
    (hfree : rangesFree s taskHub (statusRange (newNode (hubOf s p.row.part p.exec) p ws)) = true) :
    let x := readRecord s p.row.part p.runs
    let n := newNode (hubOf s p.row.part p.exec) p (dwords 16 x.2.1)
    let v := entered x.1 (hubOf s p.row.part p.exec) p
    exec (.postReceive p) s = .next (if x.2.2 then refusePost v n cCheck
      else if nWord n 1 ≠ 0 then refusePost v n cIllegal else makeNode v n (dirDie s p.row.part p.va)) := by
  show execPostReceive p s = _
  unfold execPostReceive
  dsimp only
  rw [if_neg (by simp [hrst]), if_neg (by simp [hdone]), if_neg (by simp [hfull, hpool, hroom, hfind, hquiet])]
  refine (congrArg Host.Outcome.next (whenFree_free hfree)).trans ?_
  rfl

theorem hub_of_hubs {s t : State} (h : t.hubs = s.hubs) (d : Nat) : hub t d = hub s d := by
  unfold hub
  rw [h]
/-- The clauses of O50 about posts. -/
theorem postReceive_clauses (s : State) (p : PostReq) :
    let q := p.row.part
    let d := hubOf s q p.exec
    let dd := dirDie s q p.va
    let x := readRecord s q p.runs
    let n := newNode d p (dwords 16 x.2.1)
    ((part s q).rst = true → Runs (.postReceive p) s fun t => t.hubs = s.hubs ∧ t.agenda = s.agenda) ∧
    ((part s q).rst = false → (hubDone s p).isSome = true → Runs (.postReceive p) s fun t =>
      t = { s with agenda := s.agenda ++ [postAnswer p] }) ∧
    ((part s q).rst = false → hubDone s p = none → rangesFree s taskHub (statusRange n) = false ∨ poolFull (hub s d) = true ∨
        linesQuiet s taskHub (memRanges p.runs) = false ∨ (dirFind s q p.va = none ∧ dirRoom s dd 1 = false) →
      Runs (.postReceive p) s fun t => t.hubs = s.hubs ∧ Msg.postReceive p ∈ t.agenda) ∧
    ((part s q).rst = false → hubDone s p = none → hubFull s d = false → poolFull (hub s d) = false →
      dirFind s q p.va = none → dirRoom s dd 1 = true → findNode s d q p.va = none →
          linesQuiet s taskHub (memRanges p.runs) = true →
      rangesFree s taskHub (statusRange n) = true → Runs (.postReceive p) s fun t => postAnswer p ∈ t.agenda ∧
          (hubDone t p).isSome = true ∧
        (x.2.2 = true ∨ nWord n 1 ≠ 0 → findNode t d q p.va = none ∧ dirFind t q p.va = none) ∧
        (x.2.2 = false → nWord n 1 = 0 → recordFault n = none → nPreds n ≠ 0 →
          dirFind t q p.va = some (dd, ⟨q, p.va, some d, 0, none⟩) ∧
          ∃ y, findNode t d q p.va = some y ∧ y.state = 1 ∧ y.left = nPreds n)) := by
  intro q d dd x n
  refine ⟨fun hrst => ?_, fun hrst hdone => ?_, fun hrst hdone hwait => ?_, fun hrst hdone hfull hpool hdir hroom hfind hquiet hfree => ?_⟩
  · refine runs_of_eq rfl (if_pos hrst) ⟨blindPost_hubs.traceCoh .., (traceCoh_onlyTrace ..).agenda⟩
  · refine runs_of_eq rfl ?_ rfl
    rw [if_neg (Bool.eq_false_iff.1 hrst), if_pos hdone]
    rfl
  · refine ⟨_, rfl, ?_⟩
    dsimp only
    rw [if_neg (Bool.eq_false_iff.1 hrst), if_neg (by simp [hdone])]
    split
    next => exact ⟨rfl, List.mem_append_right _ (List.mem_singleton_self _)⟩
    next hc =>
      simp only [Bool.or_eq_true, Bool.and_eq_true, Bool.not_eq_true', not_or, not_and, Bool.not_eq_true] at hc
      obtain ⟨⟨⟨⟨-, hpool⟩, hroom⟩, -⟩, hquiet⟩ := hc
      rcases hwait with h | h | h | ⟨h, hr⟩
      · exact whenFree_waits h
      · exact absurd h (by simp [d, q, hpool])
      · exact absurd h (by simpa using hquiet)
      · exact absurd hr (by simpa [dd, q] using hroom (by rw [h]; rfl))
  · refine ⟨_, postReceive_accept hrst hdone hfull hpool hroom hfind hquiet _ hfree, ?_⟩
    have hu : x.1.hubs = s.hubs := blindPost_hubs.readRuns ..
    have htold := told_entered x.1 d p
    have hf : findNode (entered x.1 d p) d q p.va = none := by rw [findNode_entered, findNode_congr hu, hfind]
    have hd : dirFind (entered x.1 d p) q p.va = none := dirFind_entered d p (by rw [dirFind_congr hu, hdir])
    have refused (cause : Nat) : findNode (refusePost (entered x.1 d p) n cause) d q p.va = none ∧
        dirFind (refusePost (entered x.1 d p) n cause) q p.va = none :=
      ⟨(findNode_congr (blindPost_hubs.postNode ..) ..).trans hf, (dirFind_congr (blindPost_hubs.postNode ..) ..).trans hd⟩
    show postAnswer p ∈ (if x.2.2 then refusePost _ n cCheck else _ : State).agenda ∧ _
    generalize entered x.1 d p = v at htold hf hd refused ⊢
    by_cases hbad : x.2.2 = true
    · rw [if_pos hbad]
      exact ⟨(htold.postNode ..).1, (htold.postNode ..).2, fun _ => refused _, fun h => absurd hbad (by simp [h])⟩
    rw [if_neg hbad]
    by_cases hword : nWord n 1 = 0
    · rw [if_neg (not_not.2 hword)]
      have hmade := told_makeNode (dd := dd) (n := n) htold hd
      refine ⟨hmade.1, hmade.2, fun h => absurd h (by simp [hbad, hword]), fun _ _ hfault hpreds => ?_⟩
      obtain ⟨hdir', hfind'⟩ := makeNode_waiting (dd := dd) (n := n) hd hf hfault hpreds
      exact ⟨hdir', _, hfind', rfl, rfl⟩
    · rw [if_pos hword]
      exact ⟨(htold.postNode ..).1, (htold.postNode ..).2, fun _ => refused _, fun _ h => absurd h hword⟩

end Sys2Proof.Machine
end

section
/-!
PROOF. O50, releases and ageing (R385, R387).
-/

namespace Sys2Proof.Machine

/-! ### A status dword as it is written -/

/-- A dword that memory holds in clear. -/
theorem memWord_of_plain {s : State} {pa : Nat} {v : Word} (hplain : ∀ i, i < 8 → Plain s (pa + i))
    (hbytes : memBytes s.mem pa 8 = leBytes 8 v.toNat) : memWord s pa = v := by
  have hb : homeBytes s pa 8 = memBytes s.mem pa 8 := by
    simp only [homeBytes, memBytes, List.cons.injEq, and_true]
    exact ⟨homeByte_of_plain (hplain 0 (by omega)), homeByte_of_plain (hplain 1 (by omega)), homeByte_of_plain (hplain 2 (by omega)),
      homeByte_of_plain (hplain 3 (by omega)), homeByte_of_plain (hplain 4 (by omega)), homeByte_of_plain (hplain 5 (by omega)),
      homeByte_of_plain (hplain 6 (by omega)), homeByte_of_plain (hplain 7 (by omega))⟩
  unfold memWord
  rw [hb, hbytes, leNat_leBytes]
  exact BitVec.eq_of_toNat_eq (by have := v.isLt; simp [w64]; omega)
theorem memWord_hubWriteDword {s : State} {q pa key : Nat} (agent : Nat) (v : Word) (hwf : s.mem.wf = true) (hal : pa % 8 = 0)
    (h : LineQuiet s (lineOf pa)) (htier : inTier (part s q) pa = false) (hkey : (block s pa).key.toNat = key) :
    memWord (hubWriteDword s q agent pa v key) pa = v := by
  have hlen : (leBytes 8 v.toNat).length = 8 := leBytes_length ..
  obtain ⟨k, -, hbytes, hplain⟩ := hubWrite_oneBlock (key := key) (data := leBytes 8 v.toNat) agent ⟨by omega, by omega⟩ hwf h htier
    (.inr hkey)
  rw [hlen] at hbytes hplain
  exact memWord_of_plain hplain hbytes
/-- The status dword of a node that stands apart holds the word that is written (R307). -/
theorem statusIs_writeStatus {s : State} {n m : Node} (hwf : s.mem.wf = true) (h : StatusApart s n) (hrec : m.recPa = n.recPa)
    (hpart : m.part = n.part) : StatusIs (writeStatus s m) n (statusWord m) := by
  intro r pa hr hplace
  obtain ⟨hal, hopen, -, hkey, htier⟩ := h r pa hr hplace
  unfold writeStatus
  rw [hrec, hr, hpart]
  dsimp only
  rw [hplace]
  exact memWord_hubWriteDword taskHub _ hwf hal hopen.1 htier hkey
/-- The status dword of a node that stands apart can be written at once. -/
theorem rangesFree_of_statusApart {s : State} {n : Node} (h : StatusApart s n) : rangesFree s taskHub (statusRange n) = true := by
  unfold statusRange
  split
  next r hr =>
    split
    next pa hplace =>
      obtain ⟨hal, hopen, -, -, -⟩ := h r pa hr hplace
      exact rangesFree_of_open taskHub ⟨by omega, by omega⟩ hopen
    next => rfl
  next => rfl
theorem statusApart_putNode {s : State} {n : Node} (m : Node) (h : StatusApart s n) : StatusApart (putNode s m) n := by
  intro r pa hr hplace
  obtain ⟨hal, ⟨⟨howned, heng, hkept, hlent, hidle⟩, htakes⟩, hne, hkey, htier⟩ := h r pa hr hplace
  exact ⟨hal, ⟨⟨howned, heng, hkept, hlent, hidle⟩, htakes⟩, hne, hkey, htier⟩

/-! ### Releases -/

/-- A release at a node that waits: it is applied when the status dword can be written. -/
theorem releaseHeld_waiting {s : State} {d q rec' : Nat} {n : Node} (hfind : findNode s d q rec' = some n) (hstate : n.state = 1) :
    releaseHeld s d q rec' none = whenFree s taskHub (statusRange n) (.nodeRelease q rec' none) fun s =>
      enterPool s { n with left := n.left - 1 } := by
  unfold releaseHeld
  rw [hfind]
  exact if_neg (not_not.2 hstate)
theorem nodeRelease_held {s : State} {d q rec' h : Nat} {e : DirEnt} (hdir : dirFind s q rec' = some (d, e)) (hheld : e.held = some h) :
    exec (.nodeRelease q rec' none) s = .next (releaseHeld s h q rec' none) := by
  show execNodeRelease q rec' none s = _
  unfold execNodeRelease
  rw [hdir]
  dsimp only
  rw [hheld]

/-- A TASK node without a counter is translated at once where the pool holds it alone. -/
theorem translateNode_plain {s : State} {n : Node} (hkind : nKind n = 8) (hctr : nCtr n = 0) (hnodes : (hub s n.die).nodes = [n])
    (hxl : n.xlated = false) : translateNode s n =
      .ok { n with xlated := true, runsA := [], runsB := [], runsC := [], ctr := [] } := by
  have hchunks : nodeChunks s n = ([], [], [], []) := by
    unfold nodeChunks
    rw [hkind, hctr]
    rfl
  have hoverlap : copyOverlap n = [] := if_neg (by rw [hkind]; decide)
  have hheld : runsHeld (hub s n.die) = 0 := by
    unfold runsHeld
    rw [hnodes, List.filter_cons_of_neg (by simp [hxl])]
    rfl
  unfold translateNode
  rw [hchunks, hoverlap, hheld]
  rfl
/-- A node with no extent, counter or predecessor left is READY at once. -/
theorem findNode_settled {s : State} {n : Node} (hkind : nKind n = 8) (hctr : nCtr n = 0) (hnodes : (hub s n.die).nodes = [n])
    (hxl : n.xlated = false) : ∃ y, findNode (settleNode s n) n.die n.part n.record = some y ∧ y.state = n.state ∧ y.left = n.left ∧
      y.xlated = true := by
  have hextents : nodeExtents n = [] := by
    unfold nodeExtents
    rw [hkind, hctr]
    rfl
  have hfind : findNode s n.die n.part n.record = some n := by
    unfold findNode
    rw [hnodes, List.find?_cons_of_pos (by simp)]
  unfold settleNode
  rw [hextents]
  dsimp only [List.foldl_nil]
  rw [translateNode_plain hkind hctr hnodes hxl]
  exact ⟨_, findNode_putNode (m := { n with xlated := true, runsA := [], runsB := [], runsC := [], ctr := [], stuck := none }) hfind,
    rfl, rfl, rfl⟩
theorem nodes_putNode_alone {s : State} {n m : Node} (hnodes : (hub s m.die).nodes = [n]) (hpart : n.part = m.part)
    (hrec : n.record = m.record) : (hub (putNode s m) m.die).nodes = [m] := by
  unfold putNode
  dsimp only
  rw [hub_setHub_self, hnodes]
  exact congrArg (· :: []) (if_pos ⟨hpart, hrec⟩)

section
variable {s : State} {q rec' d h : Nat} {e : DirEnt} {n : Node}

theorem nodeRelease_new (hdir : dirFind s q rec' = none) (hroom : (hub s (dirDie s q rec')).dir.length < 4096) :
    Runs (.nodeRelease q rec' none) s fun t => dirFind t q rec' = some (dirDie s q rec', ⟨q, rec', none, 1, none⟩) := by
  refine runs_of_eq (t := dirPut s (dirDie s q rec') ⟨q, rec', none, 1, none⟩) ?_ rfl
    (dirFind_dirPut s (dirDie s q rec') ⟨q, rec', none, 1, none⟩)
  show execNodeRelease q rec' none s = _
  unfold execNodeRelease
  rw [hdir]
  exact congrArg Host.Outcome.next (if_neg (by omega))
theorem nodeRelease_credit (hdir : dirFind s q rec' = some (d, e)) (hheld : e.held = none) :
    Runs (.nodeRelease q rec' none) s fun t => dirFind t q rec' = some (d, { e with credit := e.credit + 1 }) := by
  obtain ⟨hpart, hrec⟩ := key_of_dirFind hdir
  refine runs_of_eq (t := dirPut s d { e with credit := e.credit + 1 }) ?_ rfl ?_
  · show execNodeRelease q rec' none s = _
    unfold execNodeRelease
    rw [hdir]
    dsimp only
    rw [hheld]
    cases he : e.engine <;> simp [← he]
  · have := dirFind_dirPut s d { e with credit := e.credit + 1 }
    subst hpart hrec
    exact this
/-- A release of a node that still waits for others (R385). -/
theorem nodeRelease_waiting (hdir : dirFind s q rec' = some (d, e)) (hheld : e.held = some h) (hfind : findNode s h q rec' = some n)
    (hdie : n.die = h) (hstate : n.state = 1) (hleft : 2 ≤ n.left) (hcanon : MemoryCanonical s) (hapart : StatusApart s n) :
    Runs (.nodeRelease q rec' none) s fun t =>
      findNode t h q rec' = some { n with left := n.left - 1, state := 1, since := s.time } ∧
      StatusIs t n (statusWord { n with left := n.left - 1, state := 1, since := s.time }) := by
  obtain ⟨hpart, hrec⟩ := key_of_findNode hfind
  have hne : ({ n with left := n.left - 1 } : Node).left ≠ 0 := by show n.left - 1 ≠ 0; omega
  refine runs_of_eq (nodeRelease_held hdir hheld) 
    ((releaseHeld_waiting hfind hstate).trans (whenFree_free (rangesFree_of_statusApart hapart))) ⟨?_, ?_⟩
  · rw [← hdie, ← hpart, ← hrec] at hfind ⊢
    exact findNode_enterPool hne hfind
  · rw [enterPool_waiting hne]
    exact statusIs_writeStatus hcanon.1 (statusApart_putNode _ hapart) rfl rfl
theorem nodeRelease_waits (hdir : dirFind s q rec' = some (d, e)) (hheld : e.held = some h) (hfind : findNode s h q rec' = some n)
    (hstate : n.state = 1) (hfree : rangesFree s taskHub (statusRange n) = false) :
    Runs (.nodeRelease q rec' none) s fun t => t.hubs = s.hubs ∧ Msg.nodeRelease q rec' none ∈ t.agenda := by
  exact runs_of_eq (nodeRelease_held hdir hheld) (releaseHeld_waiting hfind hstate) (whenFree_waits hfree)
/-- The last release of a TASK node without a counter makes it READY, and translates it (R387). -/
theorem nodeRelease_ready (hdir : dirFind s q rec' = some (d, e)) (hheld : e.held = some h) (hfind : findNode s h q rec' = some n)
    (hdie : n.die = h) (hstate : n.state = 1) (hleft : n.left = 1) (hkind : nKind n = 8) (hctr : nCtr n = 0)
    (hnodes : (hub s h).nodes = [n]) (hxl : n.xlated = false) (hfree : rangesFree s taskHub (statusRange n) = true) :
    Runs (.nodeRelease q rec' none) s fun t =>
      ∃ y, findNode t h q rec' = some y ∧ y.state = 2 ∧ y.left = 0 ∧ y.xlated = true := by
  obtain ⟨hpart, hrec⟩ := key_of_findNode hfind
  have hzero : n.left - 1 = 0 := by omega
  refine runs_of_eq (nodeRelease_held hdir hheld) ((releaseHeld_waiting hfind hstate).trans (whenFree_free hfree)) ?_
  rw [← hdie, ← hpart, ← hrec] at hfind ⊢
  rw [← hdie] at hnodes
  unfold enterPool
  dsimp only
  rw [hzero, if_pos rfl, if_pos rfl]
  refine findNode_settled (n := { n with left := 0, state := 2, since := s.time }) hkind hctr ?_ hxl
  have hhubs := blindPost_hubs.writeStatus (putNode s { n with left := 0, state := 2, since := s.time })
    { n with left := 0, state := 2, since := s.time }
  rw [hub_of_hubs hhubs]
  exact nodes_putNode_alone hnodes rfl rfl

end

/-- The clauses of O50 about ageing (R387). -/
theorem nodeAging_clauses {s : State} {d q rec' : Nat} {n : Node} (hfind : findNode s d q rec' = some n) (hdie : n.die = d) :
    (n.state = 2 → n.prio < 3 → n.since + 32768 ≤ s.time → Runs (.nodeAging d q rec') s fun t =>
      findNode t d q rec' = some { n with prio := n.prio + 1, since := s.time }) ∧
    (n.state ≠ 2 ∨ 3 ≤ n.prio ∨ s.time < n.since + 32768 → Runs (.nodeAging d q rec') s fun t => t = s) := by
  have hrun : exec (.nodeAging d q rec') s = .next (if n.state = 2 ∧ n.prio < 3 ∧ n.since + 32768 ≤ s.time
      then putNode s { n with prio := n.prio + 1, since := s.time } else s) := by
    show execNodeAging d q rec' s = _
    unfold execNodeAging
    rw [hfind]
  refine ⟨fun hstate hprio htime => ?_, fun hnot => ?_⟩
  · refine runs_of_eq hrun (if_pos ⟨hstate, hprio, htime⟩) ?_
    obtain ⟨hpart, hrec⟩ := key_of_findNode hfind
    rw [← hdie, ← hpart, ← hrec] at hfind ⊢
    exact findNode_putNode (m := { n with prio := n.prio + 1, since := s.time }) hfind
  · exact runs_of_eq hrun (if_neg (by omega)) rfl

end Sys2Proof.Machine
end

section
/-!
PROOF. O50, the dispatch of ready nodes and the node that is parked on an engine (R301, R309 to R311).
-/

namespace Sys2Proof.Machine

/-! ### A dispatched node -/

/-- The node as its unit takes it up. -/
def started (s : State) (n : Node) : Node := { n with state := 3, unit := chooseUnit s n }
/-- The state in which a node, as it now stands, has its status written. -/
def noted (s : State) (n : Node) : State := writeStatus (putNode s n) n

theorem runNode_eq (s : State) (n : Node) : runNode s n = match nKind n, chooseUnit s n with
    | 6, some cl => startCopy (noted s (started s n)) (started s n) cl
    | 7, _ => startRow (noted s (started s n)) (started s n)
    | 8, _ => send (noted s (started s n)) (.nodeDone n.die n.part n.record)
    | _, some e => if engineLost (noted s (started s n)) (started s n) e then loseWork (noted s (started s n)) (started s n) e
        else runTile (holdLines (noted s (started s n)) (started s n) e) (started s n) e
    | _, none => noted s (started s n) := rfl
theorem findNode_noted {s : State} {n m : Node} (h : findNode s m.die m.part m.record = some n) :
    findNode (noted s m) m.die m.part m.record = some m :=
  (findNode_congr (blindPost_hubs.writeStatus ..) ..).trans (findNode_putNode h)
theorem incs_noted (s : State) (n : Node) : (noted s n).incs = s.incs := blind_incs.writeStatus ..
theorem agendaLength_noted (s : State) (n : Node) : (noted s n).agenda.length = s.agenda.length := blind_agendaLength.writeStatus ..
theorem staleInc_congr {s t : State} (h : t.incs = s.incs) (agent inc : Nat) : staleInc t agent inc = staleInc s agent inc := by
  unfold staleInc incOf
  rw [h]

theorem cmds_enqueueCopy (s : State) (cl q : Nat) (c : CopyCmd) :
    (cluster (enqueueCopy s cl q c) cl).cmds = (cluster s cl).cmds ++ [c] :=
  congrArg Cluster.cmds (mapGet_mapSet_self ..)
/-- What the engine of a lost agent leaves (R92, R93): the node runs on, and the engine stays busy with it. -/
theorem loseWork_frames (s : State) (n : Node) (e : Nat) : (loseWork s n e).hubs = (putNode s n).hubs ∧
    busyWith e (loseWork s n e) = some (n.part, n.record) ∧ (loseWork s n e).agenda.length = s.agenda.length := by
  unfold loseWork
  refine ⟨?_, ?_, ?_⟩
  · refine (foldl_view (π := State.hubs) (fun s l => ?_) _ _).trans rfl
    exact blindPost_hubs.logStale ..
  · refine (foldl_view (π := busyWith e) (fun s l => ?_) _ _).trans ?_
    · exact (blindTile_busyWith e).logStale ..
    · show (tile (setTile s e _) e).busy = _
      rw [tile_setTile]
  · refine (foldl_view (π := fun s : State => s.agenda.length) (fun s l => ?_) _ _).trans rfl
    exact blind_agendaLength.logStale ..

section
variable {s : State} {d : Nat} {n : Node}

/-- Which step a dispatch takes. -/
theorem nodeDispatch_eq (h : firstReady s d = some n) (hxl : n.xlated = true) (hbusy : rowBusy s n = false) :
    exec (.nodeDispatch d) s = .next (if tileKind (nKind n) && !extentsFree s n then s
      else if !rangesFree s taskHub (statusRange n) then askRanges s (statusRange n) else runNode s n) := by
  show execNodeDispatch d s = _
  unfold execNodeDispatch
  rw [h]
  dsimp only
  rw [if_neg (by simp [hxl]), hbusy, Bool.false_or]
theorem nodeDispatch_run (h : firstReady s d = some n) (hxl : n.xlated = true) (hbusy : rowBusy s n = false)
    (hext : tileKind (nKind n) = true → extentsFree s n = true) (hfree : rangesFree s taskHub (statusRange n) = true) :
    exec (.nodeDispatch d) s = .next (runNode s n) := by
  rw [nodeDispatch_eq h hxl hbusy, if_neg, if_neg (by simp [hfree])]
  simpa using hext

variable (h : firstReady s d = some n) (hdie : n.die = d) (hfind : findNode s d n.part n.record = some n) (hxl : n.xlated = true)
  (hbusy : rowBusy s n = false) (hfree : rangesFree s taskHub (statusRange n) = true)
include h hdie hfind hxl hbusy hfree

theorem nodeDispatch_task (hkind : nKind n = 8) : Runs (.nodeDispatch d) s fun t =>
    findNode t d n.part n.record = some (started s n) ∧ Msg.nodeDone d n.part n.record ∈ t.agenda := by
  refine runs_of_eq (nodeDispatch_run h hxl hbusy (fun ht => absurd ht (by rw [hkind]; decide)) hfree)
    (u := send (noted s (started s n)) (.nodeDone n.die n.part n.record)) ?_ ?_
  · rw [runNode_eq, hkind]
    cases chooseUnit s n <;> rfl
  · subst hdie
    exact ⟨findNode_noted (m := started s n) hfind, List.mem_append_right _ (List.mem_singleton_self _)⟩
theorem nodeDispatch_row (r : RowId) (off : Nat) (hkind : nKind n = 7)
    (hrow : n.runsA.head?.map (fun r : Run => r.place) = some (.row r off)) : Runs (.nodeDispatch d) s fun t =>
    let w := arriveAccess (noted s (started s n))
      ⟨r, 0, .store 8 (w64 (at_ 1 56 + bits (nBase n 2) 0 48)), 0, n.poster, 0, 8, 0, (nBase n 0).toNat⟩
    t = { w with agenda := w.agenda ++ [.nodeDone d n.part n.record] } := by
  refine runs_of_eq (nodeDispatch_run h hxl hbusy (fun ht => absurd ht (by rw [hkind]; decide)) hfree)
    (u := startRow (noted s (started s n)) (started s n)) ?_ ?_
  · rw [runNode_eq, hkind]
    cases chooseUnit s n <;> rfl
  · subst hdie
    unfold startRow
    rw [show (started s n).runsA = n.runsA from rfl, hrow]
    rfl
theorem nodeDispatch_copy (cl : Nat) (hkind : nKind n = 6) (hunit : chooseUnit s n = some cl) : Runs (.nodeDispatch d) s fun t =>
    findNode t d n.part n.record = some (started s n) ∧ ∃ c ∈ (cluster t cl).cmds, c.node = some (n.part, n.record) ∧ c.queue = 16 ∧
      c.dst = n.runsC ∧ c.src = n.runsA ∧ Msg.copyStep cl c.id ∈ t.agenda := by
  refine runs_of_eq (nodeDispatch_run h hxl hbusy (fun ht => absurd ht (by rw [hkind]; decide)) hfree)
    (u := startCopy (noted s (started s n)) (started s n) cl) ?_ ?_
  · rw [runNode_eq, hkind, hunit]
    rfl
  · subst hdie
    refine ⟨findNode_noted (m := started s n) hfind, _, ?_, rfl, rfl, rfl, rfl, List.mem_append_right _ (List.mem_singleton_self _)⟩
    unfold startCopy
    rw [cmds_enqueueCopy]
    exact List.mem_append_right _ (List.mem_singleton_self _)
theorem nodeDispatch_tile (e : Nat) (hkind : tileKind (nKind n) = true) (hunit : chooseUnit s n = some e)
    (hext : extentsFree s n = true) :
    (engineLost s n e = false → Runs (.nodeDispatch d) s fun t => Worked t e n) ∧
    (engineLost s n e = true → Runs (.nodeDispatch d) s fun t => findNode t d n.part n.record = some (started s n) ∧
      (tile t e).busy = some (n.part, n.record) ∧ Msg.nodeDone d n.part n.record ∉ t.agenda.drop s.agenda.length) := by
  have hlost : engineLost (noted s (started s n)) (started s n) e = engineLost s n e := by
    unfold engineLost
    rw [staleInc_congr (incs_noted ..)]
    rfl
  have hrun : runNode s n = if engineLost s n e then loseWork (noted s (started s n)) (started s n) e
      else runTile (holdLines (noted s (started s n)) (started s n) e) (started s n) e := by
    rw [runNode_eq, hunit, ← hlost]
    simp only [tileKind, Bool.and_eq_true, decide_eq_true_eq] at hkind
    obtain ⟨hlow, hhigh⟩ := hkind
    generalize nKind n = k at hlow hhigh ⊢
    interval_cases k <;> rfl
  have hexec := nodeDispatch_run h hxl hbusy (fun _ => hext) hfree
  subst hdie
  refine ⟨fun hl => runs_of_eq hexec (hrun.trans (if_neg (Bool.eq_false_iff.1 hl))) (worked_runTile ..),
    fun hl => runs_of_eq hexec (hrun.trans (if_pos hl)) ?_⟩
  obtain ⟨hhubs, hb, hlen⟩ := loseWork_frames (noted s (started s n)) (started s n) e
  refine ⟨(findNode_congr hhubs ..).trans (findNode_putNode (m := started s n) (findNode_noted (m := started s n) hfind)), hb, ?_⟩
  rw [← agendaLength_noted s (started s n), ← hlen, List.drop_length]
  exact List.not_mem_nil

end

/-! ### A node parked on an engine -/

/-- Only leases that are asked back differ. -/
theorem askRanges_eq (s : State) (l : List (Nat × Nat)) : askRanges s l = { s with leases := (askRanges s l).leases } := by
  unfold askRanges
  generalize (l.flatMap fun r => rangeLines r.1 r.2).map (· / 512) = pages
  induction pages generalizing s with
  | nil => rfl
  | cons p pages ih => exact ih (revokeLeases s p)

section
variable {s : State} {e : Nat} {n : Node} (h : parkedNode s e = some n)
include h

theorem nparkResume_eq : exec (.nparkResume e) s = .next (if extentsFree s n && rangesFree s taskHub (statusRange n) then
    if engineLost s n e then loseWork (noted s { n with state := 3 }) { n with state := 3 } e
    else runTile (noted s { n with state := 3 }) { n with state := 3 } e
    else send (askRanges s (statusRange n)) (.nparkResume e)) := by
  have hlost : engineLost (noted s { n with state := 3 }) { n with state := 3 } e = engineLost s n e := by
    unfold engineLost
    rw [staleInc_congr (incs_noted ..)]
    rfl
  rw [← hlost]
  show execNparkResume e s = _
  unfold execNparkResume
  rw [h]
  rfl
theorem nparkResume_work (hext : extentsFree s n = true) (hfree : rangesFree s taskHub (statusRange n) = true)
    (hlost : engineLost s n e = false) : Runs (.nparkResume e) s fun t => Worked t e n := by
  refine runs_of_eq (nparkResume_eq h) ((if_pos (by rw [hext, hfree]; rfl)).trans (if_neg (Bool.eq_false_iff.1 hlost))) ?_
  exact worked_runTile (noted s { n with state := 3 }) { n with state := 3 } e
theorem nparkResume_waits (hwait : extentsFree s n = false ∨ rangesFree s taskHub (statusRange n) = false) :
    Runs (.nparkResume e) s fun t => t = { askRanges s (statusRange n) with agenda := s.agenda ++ [.nparkResume e] } := by
  refine runs_of_eq (nparkResume_eq h) (if_neg ?_) (congrArg (fun l : List Msg => { askRanges s (statusRange n) with
    agenda := l ++ [Msg.nparkResume e] }) (congrArg State.agenda (askRanges_eq s _)))
  rcases hwait with hw | hw <;> simp [hw]
theorem nparkFail_eq : exec (.nparkFail e) s = .next (whenFree s taskHub (statusRange n) (.nparkFail e) fun s =>
    faultNode (releaseLines s n e n.prog) n cFmt (w64 n.record)) := by
  show execNparkFail e s = _
  unfold execNparkFail
  rw [h]
theorem nparkFail_waits (hfree : rangesFree s taskHub (statusRange n) = false) :
    Runs (.nparkFail e) s fun t => t = { askRanges s (statusRange n) with agenda := .nparkFail e :: s.agenda } :=
  runs_of_eq (nparkFail_eq h) (if_neg (Bool.eq_false_iff.1 hfree))
    (congrArg (fun l : List Msg => { askRanges s (statusRange n) with agenda := Msg.nparkFail e :: l })
      (congrArg State.agenda (askRanges_eq s _)))

end

/-! ### A node that faults is kept (R388, R408) -/

/-- The engine is busy with nothing, and no node is parked on it. -/
def EngineFree (e : Nat) (s : State) : Prop := (tile s e).busy = none ∧ (tile s e).parked = none
theorem EngineFree.congr {s t : State} {e : Nat} (h : EngineFree e s) (ht : t.tiles = s.tiles) : EngineFree e t := by
  unfold EngineFree
  rwa [tile_congr ht]
theorem engineFree_freeEngine {s : State} {n : Node} {e : Nat} (hunit : n.unit = some e) (hkind : tileKind (nKind n) = true) :
    EngineFree e (freeEngine s n) := by
  unfold freeEngine EngineFree
  rw [hunit]
  dsimp only
  rw [if_pos hkind, tile_setTile]
  exact ⟨rfl, rfl⟩
theorem engineFree_reserve {s : State} {e : Nat} (h : EngineFree e s) (q g : Nat) (up : Bool) : EngineFree e (reserve s q g up) := by
  unfold reserve
  split
  · exact h
  · unfold EngineFree tile setTile
    dsimp only
    rw [mapGet_mapSet]
    split
    next he => exact he ▸ h
    next => exact h
theorem engineFree_nodeGone {s : State} {n : Node} {e : Nat} (cause : Nat) (addr : Word) (hunit : n.unit = some e)
    (hkind : tileKind (nKind n) = true) : EngineFree e (nodeGone s n cause addr) := by
  have hfree := engineFree_freeEngine (s := s) hunit hkind
  unfold nodeGone
  dsimp only
  refine EngineFree.congr (s := if n.bound then reserve (freeEngine s n) n.part n.engine false else freeEngine s n) ?_ ?_
  · split
    · exact engineFree_reserve hfree ..
    · exact hfree
  · refine (blindPost_tiles.countNode (s := removeNode _ _) ..).trans ?_
    exact (blindPost_tiles.postNode ..).trans (blindPost_tiles.writeStatus ..)
theorem findNode_dirDrop (s : State) (q rec' d q' r : Nat) : findNode (dirDrop s q rec') d q' r = findNode s d q' r := by
  unfold findNode
  rw [hub_dirDrop]
theorem findNode_nodeGone (s : State) (n : Node) (cause : Nat) (addr : Word) :
    findNode (nodeGone s n cause addr) n.die n.part n.record = none := by
  have hremoved (u : State) : findNode (removeNode u (faultedNode n cause)) n.die n.part n.record = none := by
    refine (findNode_setHub ..).trans (List.find?_eq_none.2 fun x hx => ?_)
    rw [Bool.not_eq_true, ← Bool.not_eq_true']
    exact (List.mem_filter.1 hx).2
  unfold nodeGone
  dsimp only
  generalize postNode _ _ _ _ _ _ _ = u
  rw [findNode_dirDrop, findNode_congr (blindPost_hubs.countNode ..)]
  exact hremoved u
theorem keepNode_keeps (s : State) (n : Node) : n ∈ (hub (keepNode s n.die n) n.die).kept ∧
    (hub (keepNode s n.die n) n.die).nodes = (hub s n.die).nodes ∧ (keepNode s n.die n).tiles = s.tiles := by
  have hpos : (hub s n.die).kept ++ [n] ≠ [] := by simp
  unfold keepNode
  dsimp only
  split
  next hfull =>
    rw [hub_of_hubs (blindPost_hubs.traceCoh ..), hub_setHub_self]
    refine ⟨?_, rfl, (blindPost_tiles.traceCoh ..).trans rfl⟩
    rw [List.drop_append_of_le_length (by simp at hfull; omega)]
    exact List.mem_append_right _ (List.mem_singleton_self _)
  next =>
    rw [hub_setHub_self]
    exact ⟨List.mem_append_right _ (List.mem_singleton_self _), rfl, rfl⟩
theorem keptFault_faultNode (s : State) (n : Node) (cause : Nat) (addr : Word) : KeptFault (faultNode s n cause addr) n cause := by
  obtain ⟨hmem, hnodes, -⟩ := keepNode_keeps (nodeGone s n cause addr) (faultedNode n cause)
  rw [faultNode_eq]
  refine ⟨?_, _, hmem, rfl, rfl, rfl, rfl⟩
  have hgone := findNode_nodeGone s n cause addr
  unfold findNode at hgone ⊢
  rwa [show (hub (keepNode _ n.die _) n.die).nodes = _ from hnodes]
theorem nparkFail_fails {s : State} {e : Nat} {n : Node} (h : parkedNode s e = some n) (hkind : tileKind (nKind n) = true)
    (hunit : n.unit = some e) (hfree : rangesFree s taskHub (statusRange n) = true) : Runs (.nparkFail e) s fun t =>
    KeptFault t n cFmt ∧ (tile t e).busy = none ∧ (tile t e).parked = none := by
  refine runs_of_eq (nparkFail_eq h) (whenFree_free hfree) ⟨keptFault_faultNode .., ?_⟩
  rw [faultNode_eq]
  exact EngineFree.congr (engineFree_nodeGone _ _ hunit hkind) (keepNode_keeps _ (faultedNode n cFmt)).2.2

/-- Settles O50: a step of a hub is read off its equation; what it does to memory, rows and engines leaves the hubs' pools and
directories in view. -/
theorem hubSteps : Obligations.HubSteps := by
  unfold Obligations.HubSteps
  refine ⟨⟨postReceive_clauses, fun s q rec' => ⟨nodeRelease_new, fun d e => nodeRelease_credit, fun d e h n hdir hheld hfind hdie hstate =>
    ⟨nodeRelease_waiting hdir hheld hfind hdie hstate, nodeRelease_waits hdir hheld hfind hstate,
      nodeRelease_ready hdir hheld hfind hdie hstate⟩⟩, fun s d q rec' n => nodeAging_clauses⟩,
    fun s d n h hdie hfind hxl hbusy => ?_, fun s d h => ?_, fun s e n h hkind hunit => ?_⟩
  · refine ⟨fun hkind hext => runs_of_eq (nodeDispatch_eq h hxl hbusy) (if_pos (by rw [hkind, hext]; rfl)) rfl,
      fun hext hfree => runs_of_eq (nodeDispatch_eq h hxl hbusy) ?_ rfl,
      fun hfree => ⟨nodeDispatch_task h hdie hfind hxl hbusy hfree, nodeDispatch_row h hdie hfind hxl hbusy hfree,
        nodeDispatch_copy h hdie hfind hxl hbusy hfree, nodeDispatch_tile h hdie hfind hxl hbusy hfree⟩⟩
    rw [if_neg (by simpa using hext), if_pos (by rw [hfree]; rfl)]
  · refine runs_of_eq (u := s) rfl ?_ rfl
    rw [h]
  · exact ⟨nparkResume_work h, nparkResume_waits h, nparkFail_fails h hkind hunit, nparkFail_waits h⟩

end Sys2Proof.Machine
end

section
/-!
PROOF. O57: ENABLE of a partition (R440, R453).
-/

namespace Sys2Proof.Machine

/-! ### A row that becomes ready on a control executor -/

theorem mem_insertAsc (n : Nat) (l : List Nat) : n ∈ insertAsc n l := by
  induction l with
  | nil => exact List.mem_singleton_self n
  | cons x l ih =>
    rw [insertAsc]
    split
    · exact List.mem_cons_self
    · exact List.mem_cons_of_mem _ ih
theorem traceState_ctl {s : State} {pr : Nat} (st : Nat) (h : isCtl (execOf pr) = true) : traceState s pr st = s :=
  if_neg (by simp [h])
theorem rowWord_setExec (s : State) (e : Nat) (x : Exec) (pr k : Nat) : rowWord (setExec s e x) pr k = rowWord s pr k := rfl
/-- A row of a control executor that becomes ready: its state and its place in the queue, and nothing else of it. -/
theorem makeReady_ctl {s : State} {pr : Nat} (h : isCtl (execOf pr) = true) : Queued (makeReady s pr) pr ∧
    (∀ k, k ≠ 0 → rowWord (makeReady s pr) pr k = rowWord s pr k) ∧ (makeReady s pr).parts = s.parts := by
  have hstate : rowState (setRowState s pr stReady) pr = stReady := by
    unfold rowState setRowState
    rw [traceState_ctl _ h, rowWord_setRowWord_self _ _ _ _ (by omega), bits_putBits_self _ _ _ _ (by omega)]
    rfl
  have hword (k : Nat) (hk : k ≠ 0) : rowWord (setRowState s pr stReady) pr k = rowWord s pr k := by
    unfold setRowState
    rw [traceState_ctl _ h, rowWord_setRowWord_other _ _ _ _ _ (by omega) hk]
  have hparts : (setRowState s pr stReady).parts = s.parts := by
    unfold setRowState
    rw [traceState_ctl _ h]
    rfl
  unfold makeReady
  dsimp only
  generalize setRowState s pr stReady = u at hstate hword hparts ⊢
  split
  next hq => exact ⟨⟨hstate, List.contains_iff_mem.1 hq⟩, hword, hparts⟩
  next =>
    refine ⟨⟨hstate, ?_⟩, hword, hparts⟩
    rw [exec'_setExec, if_pos rfl]
    exact List.mem_append_right _ (mem_insertAsc ..)

/-! ### Identifiers in use -/

section
variable {s : State} {q : Nat} {p : Part}

theorem entryAddr_setPart (h : tableBase p = tableBase (part s q)) (r : RowId) : entryAddr (setPart s q p) r = entryAddr s r := by
  unfold entryAddr
  rw [part_setPart]
  split
  next hr => rw [h, hr]
  next => rfl
theorem liveRows_setPart (h : tableBase p = tableBase (part s q)) : liveRows (setPart s q p) q = liveRows s q := by
  have hentry : rowEntry (setPart s q p) = rowEntry s := funext fun r => by
    unfold rowEntry
    rw [entryAddr_setPart h]
    exact memWord_setPart ..
  unfold liveRows
  rw [hentry, part_setPart_self]
  dsimp only
  rw [h]
  rfl
theorem freeIds_setPart (h : tableBase p = tableBase (part s q)) (n : Nat) : freeIds (setPart s q p) q n = freeIds s q n := by
  unfold freeIds idsTaken
  rw [liveRows_setPart h]
  rfl

end

/-! ### The system image of a partition -/

theorem readImage_frame (s : State) (q pa : Nat) : (readImage s q pa).1 =
    { s with count := (readImage s q pa).1.count, hub := (readImage s q pa).1.hub, blocks := (readImage s q pa).1.blocks,
             mem := (readImage s q pa).1.mem } := by
  unfold readImage
  dsimp only
  split <;> rfl
theorem imgCheck_le (im : List Byte) (type : Nat) (hash : BitVec 256) : imgCheck im type hash ≤ 4 := by
  unfold imgCheck
  dsimp only
  split
  · decide
  · split
    · decide
    · split
      · decide
      · split <;> decide
/-- The registers of a partition whose system image has been checked. -/
def imageChecked (p : Part) (im : List Byte) : Part :=
  { p with img := BitVec.ofNat 4 (imgCheck im 2 (keyHash p)),
           sysHash := if imgCheck im 2 (keyHash p) = 0 then Config.sha256 (imgSigned im) else p.sysHash }
theorem part_readImage (s : State) (q : Nat) (pa : Nat) : part (readImage s q pa).1 q = part s q := by
  rw [readImage_frame]
  rfl
theorem checkSystemImage_eq (s : State) (q : Nat) :
    checkSystemImage s q = (setPart (readImage s q (part s q).pimg.toNat).1 q
      (imageChecked (part s q) (readImage s q (part s q).pimg.toNat).2),
      imgCheck (readImage s q (part s q).pimg.toNat).2 2 (keyHash (part s q)) == 0) := by
  unfold checkSystemImage
  dsimp only
  rw [part_readImage]
  rfl
theorem img_imageChecked (p : Part) (im : List Byte) : (imageChecked p im).img.toNat = imgCheck im 2 (keyHash p) := by
  have := imgCheck_le im 2 (keyHash p)
  show (BitVec.ofNat 4 _).toNat = _
  rw [BitVec.toNat_ofNat]
  omega
theorem field_field (v : Word) (lo n : Nat) : field (field v lo n) lo n = field v lo n := by
  refine BitVec.eq_of_getLsbD_eq fun i hi => ?_
  simp only [getLsbD_field]
  cases decide (lo ≤ i ∧ i < lo + n ∧ i < 64) <;> rfl

/-! ### The kernel's row -/

theorem isCtl_of_freeRow {s : State} {x pr : Nat} (h : freeRow s (512 + x) = some pr) : execOf pr = 512 + x := by
  unfold freeRow at h
  obtain ⟨k, hk, rfl⟩ := Option.map_eq_some_iff.1 h
  have hlt := List.mem_range.1 (List.mem_of_find?_eq_some hk)
  unfold execOf
  omega
/-- A row that is placed on a control executor with a free place. -/
theorem placeRow_ctl {s : State} {x pr : Nat} (r : RowId) (im : Image) (h : freeRow s (512 + x) = some pr) :
    placeRow s r (512 + x) im =
      some (makeReady (setRowEntry { s with rows := mapSet s.rows pr im } r (bankEntry pr)) pr) := by
  have hctl : isCtl (512 + x) = true := by simp [isCtl]
  have htakes : bankTakes s r.part (512 + x) = true := by unfold bankTakes; rw [hctl]; rfl
  have hpre (u : State) : notePreempt u pr = u := if_neg (by
    unfold preempted
    rw [isCtl_of_freeRow h, hctl]
    exact Bool.false_ne_true)
  unfold placeRow
  rw [if_pos htakes, h]
  dsimp only
  rw [hpre]
theorem rowWord_setRowEntry (s : State) (r : RowId) (v : Word) (pr k : Nat) : rowWord (setRowEntry s r v) pr k = rowWord s pr k :=
  rowWord_of_rows (setMemWord_rows ..) pr k
theorem rowWord_placed (s : State) (pr k : Nat) (im : Image) : rowWord { s with rows := mapSet s.rows pr im } pr k = imgWord im k := by
  unfold rowWord rowImage
  rw [mapGet_mapSet_self]

/-- The state in which the kernel's row has its place, and is not ready yet. -/
def kernelPlaced (s : State) (q l pr : Nat) : State :=
  let im := kernelImage q l (part s q) (imgEntry (readNow s (part s q).pimg.toNat 64))
  setRowEntry { s with rows := mapSet s.rows pr im } ⟨q, l⟩ (bankEntry pr)
theorem rowWord_kernelPlaced (s : State) (q l pr k : Nat) : rowWord (kernelPlaced s q l pr) pr k =
    imgWord (kernelImage q l (part s q) (imgEntry (readNow s (part s q).pimg.toNat 64))) k := by
  unfold kernelPlaced
  rw [rowWord_setRowEntry, rowWord_placed]
theorem parts_kernelPlaced (s : State) (q l pr : Nat) : (kernelPlaced s q l pr).parts = s.parts := rfl
theorem startImage_ctl {s : State} {q x l pr : Nat} {xs : List Nat} (hctl : ctlOf (part s q) = x :: xs) (hids : freeIds s q 1 = some l)
    (hrow : freeRow s (512 + x) = some pr) : startImage s q = some (makeReady (kernelPlaced s q l pr) pr) := by
  unfold startImage
  dsimp only
  rw [hctl, hids]
  exact placeRow_ctl _ _ hrow
/-- The kernel starts: its row is queued at its first word, and no register of a partition has changed. -/
theorem makeReady_kernelPlaced {s : State} {q x l pr : Nat} (hrow : freeRow s (512 + x) = some pr) :
    let t := makeReady (kernelPlaced s q l pr) pr
    t.parts = s.parts ∧ Queued t pr ∧
      rowWord t pr 1 = (part s q).pimg + w64 (64 + imgEntry (readNow s (part s q).pimg.toNat 64)) ∧ rowWord t pr 2 = w64 (at_ 1 16) ∧
      rowWord t pr 33 = (part s q).pimg := by
  obtain ⟨hq, hword, hparts⟩ := makeReady_ctl (s := kernelPlaced s q l pr) (pr := pr)
    (by rw [isCtl_of_freeRow hrow]; simp [isCtl])
  refine ⟨hparts.trans (parts_kernelPlaced ..), hq, ?_, ?_, ?_⟩
  · rw [hword _ (by decide), rowWord_kernelPlaced]
    simp [kernelImage]
  · rw [hword _ (by decide), rowWord_kernelPlaced]
    simp [kernelImage]
  · rw [hword _ (by decide), rowWord_kernelPlaced]
    simp [kernelImage]

theorem readNow_setPart (s : State) (q : Nat) (p : Part) (pa n : Nat) : readNow (setPart s q p) pa n = readNow s pa n := by
  unfold readNow
  have hword (a : Nat) : wordNow (setPart s q p) a = wordNow s a := rfl
  simp only [hword]
theorem part_setWindow (s : State) (q : Nat) : part (setWindow s q) q =
    { part s q with spwin := field (Config.freeWord 0x162 s.count) 28 29 } := part_setPart_self ..

/-- The clauses of O57 about ENABLE. -/
theorem enable_clauses (s : State) (q : Nat) :
    let p := part s q
    let u := (readImage s q p.pimg.toNat).1
    let code := imgCheck (readImage s q p.pimg.toNat).2 2 (keyHash p)
    (mayEnable s q = false → Runs (.enable q) s fun t => t = setPart s q { p with pctlBusy := false, badcfg := true }) ∧
    (mayEnable s q = true → imageQuiet s p.pimg.toNat = false → Runs (.enable q) s fun t =>
      t = { s with agenda := s.agenda ++ [.enable q] }) ∧
    (∀ x xs l pr, q < 63 → mayEnable s q = true → imageQuiet s p.pimg.toNat = true → ctlOf p = x :: xs → freeIds u q 1 = some l →
      freeRow u (512 + x) = some pr → Runs (.enable q) s fun t => (part t q).img.toNat = code ∧ (part t q).pctlBusy = false ∧
        (code ≠ 0 → (part t q).badcfg = true ∧ (part t q).en = p.en ∧ t.rows = s.rows) ∧
        (code = 0 → (part t q).badcfg = p.badcfg ∧ (part t q).en = true ∧ Queued t pr ∧
          (part t q).spwin = field (part t q).spwin 28 29 ∧
          rowWord t pr 1 = p.pimg + w64 (64 + imgEntry (readNow u p.pimg.toNat 64)) ∧ rowWord t pr 2 = w64 (at_ 1 16) ∧
          rowWord t pr 33 = p.pimg)) := by
  intro p u code
  refine ⟨fun hmay => runs_of_eq rfl (if_pos (by rw [hmay]; rfl)) ?_, fun hmay hquiet => runs_of_eq rfl
    ((if_neg (by simp [hmay])).trans (if_pos (by rw [show imageQuiet s (part s q).pimg.toNat = false from hquiet]; rfl))) rfl,
    fun x xs l pr _ hmay hquiet hctl hids hrow => ?_⟩
  · unfold pctlDone
    simp [p]
  have hpart : part u q = p := part_readImage ..
  have hrows : u.rows = s.rows := (congrArg State.rows (readImage_frame ..)).trans rfl
  have hrun : exec (.enable q) s = .next (if !(code == 0) then pctlDone (setPart u q (imageChecked p (readImage s q p.pimg.toNat).2)) q true
      else match startImage (setPart u q (imageChecked p (readImage s q p.pimg.toNat).2)) q with
        | some s => pctlDone (setWindow (setPart s q { part s q with en := true }) q) q false
        | none => send (setPart u q (imageChecked p (readImage s q p.pimg.toNat).2)) (.enable q)) := by
    show execEnable q s = _
    unfold execEnable
    rw [if_neg (by simp [hmay]), if_neg (by rw [show imageQuiet s (part s q).pimg.toNat = true from hquiet]; simp),
      checkSystemImage_eq] <;> rfl
  have himg : (imageChecked p (readImage s q p.pimg.toNat).2).img.toNat = code := img_imageChecked ..
  clear_value u code
  by_cases hcode : code = 0
  · have hv := startImage_ctl (s := setPart u q (imageChecked p (readImage s q p.pimg.toNat).2)) (q := q)
      (by rw [part_setPart_self]; exact hctl) (by rw [freeIds_setPart (by rw [hpart]; rfl)]; exact hids) hrow
    obtain ⟨hparts, hq, h1, h2, h33⟩ := makeReady_kernelPlaced (s := setPart u q (imageChecked p (readImage s q p.pimg.toNat).2))
      (q := q) (l := l) hrow
    rw [part_setPart_self, readNow_setPart] at h1
    rw [part_setPart_self] at h33
    refine runs_of_eq hrun ((if_neg (by simp [hcode])).trans (by rw [hv])) ?_
    generalize makeReady (kernelPlaced _ q l pr) pr = v at hparts hq h1 h2 h33 ⊢
    have hpv : part v q = imageChecked p (readImage s q p.pimg.toNat).2 := (part_of_parts hparts q).trans (part_setPart_self ..)
    have hpt : part (pctlDone (setWindow (setPart v q { part v q with en := true }) q) q false) q =
        { imageChecked p (readImage s q p.pimg.toNat).2 with
          en := true, spwin := field (Config.freeWord 0x162 v.count) 28 29, pctlBusy := false } := by
      rw [hpv]
      unfold pctlDone
      rw [part_setPart_self, part_setWindow, part_setPart_self]
      exact congrArg (fun b => { imageChecked p (readImage s q p.pimg.toNat).2 with
        en := true, spwin := field (Config.freeWord 0x162 v.count) 28 29, pctlBusy := false, badcfg := b }) (Bool.or_false _)
    rw [hpt]
    refine ⟨himg, ?_, fun h => absurd hcode h, fun _ => ⟨?_, ?_, hq, ?_, h1, h2, h33⟩⟩
    · rfl
    · rfl
    · rfl
    · exact (field_field ..).symm
  · refine runs_of_eq hrun (if_pos (by simp [hcode])) ?_
    have hpt : part (pctlDone (setPart u q (imageChecked p (readImage s q p.pimg.toNat).2)) q true) q =
        { imageChecked p (readImage s q p.pimg.toNat).2 with
          pctlBusy := false, badcfg := (imageChecked p (readImage s q p.pimg.toNat).2).badcfg || true } := by
      unfold pctlDone
      rw [part_setPart_self, part_setPart_self]
    rw [hpt]
    refine ⟨himg, ?_, fun _ => ⟨Bool.or_true _, ?_, hrows⟩, fun h => absurd h hcode⟩
    · rfl
    · rfl

end Sys2Proof.Machine
end

section
/-!
SUPPORT. Views that do not see rows being frozen or retired (R198, R417, R440).
-/

namespace Sys2Proof.Machine

/-- A view that does not see the lane pools, the launches and what rows wait for. -/
structure BlindRows {α : Type} (π : State → α) : Prop extends BlindHome π where
  units : ∀ (s : State) (pools : NMap Pool) (launches : NMap (List Launch)) (waitFor : List (RowId × WaitFor))
    (stalls : List (RowId × Nat)),
    π { s with pools := pools, launches := launches, waitFor := waitFor, stalls := stalls } = π s

/-- A choice between two steps that a view does not see. -/
theorem view_ite {α : Type} {π : State → α} {c : Prop} [Decidable c] {a b s : State} (ha : π a = π s) (hb : π b = π s) :
    π (if c then a else b) = π s := by
  split
  · exact ha
  · exact hb

section
variable {α : Type} {π : State → α} (hπ : BlindRows π)
include hπ

theorem BlindRows.closeSlot (s : State) (pr : Nat) : π (closeSlot s pr) = π s := by
  unfold Machine.closeSlot
  split
  · dsimp only
    split
    · exact (hπ.setExec ..).trans (hπ.setSlot ..)
    · rfl
  · rfl
theorem BlindRows.closeRow (s : State) (pr st : Nat) : π (closeRow s pr st) = π s :=
  (hπ.closeSlot ..).trans (hπ.setRowState ..)
theorem BlindRows.unqueue (s : State) (pr : Nat) : π (unqueue s pr) = π s := hπ.setExec ..
theorem BlindRows.settleState (s : State) (pr st : Nat) : π (settleState s pr st) = π s :=
  (hπ.closeRow ..).trans (hπ.unqueue ..)
theorem BlindRows.dropWatch (s : State) (agent : Nat) (r : RowId) : π (dropWatch s agent r) = π s := hπ.setCluster ..
theorem BlindRows.dropWatchAt (s : State) (l : Loc) : π (dropWatchAt s l) = π s := by
  unfold Machine.dropWatchAt
  split
  · rfl
  · dsimp only
    refine (foldl_view (fun s c => ?_) _ _).trans ((foldl_view (fun s i => ?_) _ _).trans (hπ.setLocWord ..))
    · refine (foldl_view (fun s w => ?_) _ _).trans (view_ite rfl (hπ.dropWatch ..))
      exact view_ite rfl (hπ.send ..)
    · exact hπ.clearSlot ..
theorem BlindRows.writeClaim (s : State) (p : Nat) (c : Claim) : π (writeClaim s p c) = π s :=
  (hπ.arriveWord ..).trans (hπ.units s _ s.launches s.waitFor s.stalls)
theorem BlindRows.renegotiate (s : State) (pr : Nat) (closing : Bool) : π (renegotiate s pr closing) = π s := by
  unfold Machine.renegotiate
  split
  · rfl
  · dsimp only
    split
    · exact (hπ.writeClaim ..).trans (hπ.draw ..)
    · exact hπ.writeClaim ..
theorem BlindRows.putLaunch (s : State) (q : Nat) (x : Launch) : π (putLaunch s q x) = π s :=
  hπ.units s s.pools _ s.waitFor s.stalls
theorem BlindRows.countDone (s : State) (l : Loc) (done : Bool) : π (countDone s l done) = π s := by
  unfold Machine.countDone
  split
  · rfl
  · exact view_ite ((hπ.send ..).trans (hπ.putLaunch ..)) (hπ.putLaunch ..)
theorem BlindRows.leaveDone (s : State) (pr : Nat) : π (leaveDone s pr) = π s := by
  unfold Machine.leaveDone
  split
  · exact hπ.countDone ..
  · rfl
theorem BlindRows.dropWaitFor (s : State) (r : RowId) : π (dropWaitFor s r) = π s :=
  hπ.units s s.pools s.launches _ s.stalls
theorem BlindRows.markWcont (s : State) (pr : Nat) : π (markWcont s pr) = π s := by
  unfold Machine.markWcont
  split
  · exact hπ.setRowWord ..
  · rfl
theorem BlindRows.recordState (s : State) (pr : Nat) : π (recordState s pr) = π s := by
  unfold Machine.recordState Machine.setRstate
  exact (hπ.setLocBits ..).trans ((hπ.dropWaitFor ..).trans (hπ.markWcont ..))
theorem BlindRows.commandFreeze (s : State) (r : RowId) : π (commandFreeze s r) = π s := by
  unfold Machine.commandFreeze
  split
  · have hdrop (pr : Nat) (l : Loc) : π (Machine.dropWatchAt (Machine.recordState (Machine.renegotiate (Machine.leaveDone s pr) pr true) pr) l) = π s :=
      (hπ.dropWatchAt ..).trans ((hπ.recordState ..).trans ((hπ.renegotiate ..).trans (hπ.leaveDone ..)))
    refine view_ite (hπ.traceCoh ..) ((hπ.settleState ..).trans ((hπ.setLocBits ..).trans (view_ite ?_ (hdrop ..))))
    exact (hπ.setLocBits ..).trans ((hπ.setLocBits ..).trans (hdrop ..))
  · exact hπ.traceCoh ..
theorem BlindRows.freezeAll (s : State) (q : Nat) : π (freezeAll s q) = π s := by
  refine foldl_view (fun s pr => ?_) _ _
  split
  · rfl
  · exact hπ.commandFreeze ..
theorem BlindRows.forgetSlots (s : State) (pr : Nat) : π (forgetSlots s pr) = π s := by
  unfold Machine.forgetSlots
  split
  · exact hπ.setSlot ..
  · rfl

theorem BlindRows.setRows (s : State) (rows : NMap Image) : π { s with rows := rows } = π s := hπ.inner ..
theorem BlindRows.dropRow (s : State) (pr : Nat) : π (dropRow s pr) = π s := by
  have hstall : π (if stallLeft s pr = 0 then s
      else { s with stalls := (rowId s pr, stallLeft s pr) :: s.stalls.filter fun p => p.1 != rowId s pr }) = π s :=
    view_ite rfl (hπ.units s s.pools s.launches s.waitFor _)
  exact (hπ.setExec ..).trans ((hπ.setRows ..).trans (((hπ.forgetSlots ..).trans (hπ.unqueue ..)).trans hstall))
theorem BlindRows.dropRows (s : State) (l : List RowId) : π (l.foldl (fun s r =>
    let s := Machine.dropWatchAt s (locate s r)
    let s := match locate s r with | .bank pr => Machine.dropRow s pr | _ => s
    setRowEntry s r 0) s) = π s := by
  refine foldl_view (fun s r => ?_) l s
  dsimp only
  refine (hπ.setMemWord ..).trans ?_
  split
  · exact (hπ.dropRow ..).trans (hπ.dropWatchAt ..)
  · exact hπ.dropWatchAt ..

end

end Sys2Proof.Machine
end

section
/-!
PROOF. O57: DISABLE and RESET of a partition (R440 to R442, R453).
-/

namespace Sys2Proof.Machine

/-! ### What a reset reads of a partition and of the leases -/

/-- The leases of which this module is home, by page, and what tells the pages of a partition. -/
def resetView (q : Nat) (s : State) : Bool × Bool × (Nat → Bool) × List (Bool × Nat) :=
  ((part s q).rst, (part s q).en, ownedBy (part s q), s.leases.map fun l => (l.isHome, l.page))
/-- The forks and the launch in work of a partition. -/
def workView (q : Nat) (s : State) : List Fork × Option TakenLaunch := ((part s q).forks, (part s q).taken)

theorem leasedOut_eq (s : State) (q : Nat) :
    leasedOut s q = (resetView q s).2.2.2.any fun l => l.1 && (resetView q s).2.2.1 (65536 * l.2) := by
  unfold leasedOut resetView
  rw [List.any_map]
  rfl
theorem leasedOut_congr {s t : State} {q : Nat} (h : resetView q t = resetView q s) : leasedOut t q = leasedOut s q := by
  rw [leasedOut_eq, leasedOut_eq, h]
/-- A view of a partition's registers that does not see where its trace ring is filled. -/
theorem part_trcTail {α : Type} {f : Part → α} (hf : ∀ p x, f { p with trcTail := x } = f p) (s : State) (q k : Nat) (x : W32) :
    f (part (setPart s k { part s k with trcTail := x }) q) = f (part s q) := by
  rw [part_setPart]
  split
  next h => rw [h, hf]
  next => rfl
theorem blindRows_resetView (q : Nat) : BlindRows (resetView q) where
  inner := by intros; rfl
  fills := by intros; rfl
  sends := by intros; rfl
  units := by intros; rfl
  trace s k x := congrArg (fun v : Bool × Bool × (Nat → Bool) => (v.1, v.2.1, v.2.2, s.leases.map fun l : Lease => (l.isHome, l.page)))
    (part_trcTail (f := fun p => (p.rst, p.en, ownedBy p)) (fun _ _ => rfl) s q k x)
  revoke s f hf := by
    unfold resetView
    dsimp only
    rw [List.map_map]
    exact congrArg (fun l => ((part s q).rst, (part s q).en, ownedBy (part s q), l)) (List.map_congr_left fun l _ => by
      rw [Function.comp_apply, hf l])
theorem BlindHome.setMisses {α : Type} {π : State → α} (hπ : BlindHome π) (s : State) (l : List Miss) : π { s with misses := l } = π s :=
  hπ.inner ..
theorem blindHome_workView (q : Nat) : BlindHome (workView q) where
  inner := by intros; rfl
  fills := by intros; rfl
  sends := by intros; rfl
  revoke := by intros; rfl
  trace s k x := part_trcTail (f := fun p => (p.forks, p.taken)) (fun _ _ => rfl) s q k x
theorem blindHome_pools : BlindHome State.pools where
  inner := by intros; rfl
  fills := by intros; rfl
  sends := by intros; rfl
  revoke := by intros; rfl
  trace := by intros; rfl

/-! ### The work of a partition is discarded -/

/-- A pool without the claims of a partition. -/
def poolWithout (q : Nat) (x : Pool) : Pool :=
  { x with claims := x.claims.filter (fun c => !(c.row.part == q && true)), waiting := x.waiting.filter fun w => !(w.1.part == q && true) }
/-- A hub without the work of a partition. -/
def hubWithout (q : Nat) (h : Hub) : Hub :=
  { h with
    nodes := h.nodes.filter (fun n => n.part != q), kept := h.kept.filter (fun n => n.part != q),
    dir := h.dir.filter (fun e => e.part != q), done := h.done.filter fun d => d.row.part != q }
theorem pool_discardWork (s : State) (q p : Nat) : ∃ x, pool (discardWork s q) p = poolWithout q x := by
  have h : (discardWork s q).pools = (retireRows s q fun _ => true).pools := rfl
  unfold retireRows at h
  dsimp only at h
  unfold pool
  rw [h]
  exact ⟨_, mapGet_map (setPart _ q _).pools (poolWithout q) p Pool.init rfl⟩
theorem hub_discardWork (s : State) (q d : Nat) : ∃ h, hub (discardWork s q) d = hubWithout q h := by
  unfold discardWork
  dsimp only
  generalize setPart _ _ _ = u
  exact ⟨_, mapGet_map u.hubs (hubWithout q) d Hub.init rfl⟩
theorem part_of_mem_claims {q : Nat} {x : Pool} {c : Claim} (h : c ∈ (poolWithout q x).claims) : c.row.part ≠ q := by
  simpa using (List.mem_filter.1 h).2
theorem part_of_mem_nodes {q : Nat} {h : Hub} {n : Node} (hn : n ∈ (hubWithout q h).nodes) : n.part ≠ q := by
  simpa using (List.mem_filter.1 hn).2
theorem part_of_mem_kept {q : Nat} {h : Hub} {n : Node} (hn : n ∈ (hubWithout q h).kept) : n.part ≠ q := by
  simpa using (List.mem_filter.1 hn).2
theorem part_of_mem_dir {q : Nat} {h : Hub} {e : DirEnt} (he : e ∈ (hubWithout q h).dir) : e.part ≠ q := by
  simpa using (List.mem_filter.1 he).2
theorem workView_discardWork (s : State) (q : Nat) : workView q (discardWork s q) = ([], none) := by
  have : part (discardWork s q) q = { part (retireRows s q fun _ => true) q with forks := [], taken := none } := part_setPart_self ..
  unfold workView
  rw [this]
/-- What a reset reads stays when the rows of the partition are retired and its work is discarded. -/
theorem resetView_setPart {s : State} {q : Nat} {p : Part} (hrst : p.rst = (part s q).rst) (hen : p.en = (part s q).en)
    (hown : ownedBy p = ownedBy (part s q)) : resetView q (setPart s q p) = resetView q s := by
  unfold resetView
  rw [part_setPart_self, hrst, hen, hown]
  rfl
theorem resetView_retireRows (s : State) (q : Nat) (gone : RowId → Bool) : resetView q (retireRows s q gone) = resetView q s := by
  refine Eq.trans ?_ ((blindRows_resetView q).dropRows s ((liveRows s q).filter gone))
  unfold retireRows
  dsimp only
  exact resetView_setPart (s := List.foldl _ s _) rfl rfl rfl
theorem resetView_discardWork (s : State) (q : Nat) : resetView q (discardWork s q) = resetView q s := by
  refine Eq.trans ?_ (resetView_retireRows s q fun _ => true)
  exact resetView_setPart (s := retireRows s q fun _ => true) rfl rfl rfl

/-! ### The lines of a partition are flushed -/

/-- The state in which the engines have let go of the partition's lines and its clusters hold none. -/
def linesFlushed (s : State) (q : Nat) : State :=
  let agents := clustersOf (part s q) ++ (ctlOf (part s q)).map (0x60 + ·)
  let s' := freeEngines s q
  (s'.caches.filter fun (k, _) => agents.contains (k / 2 ^ 40) && ownedBy (part s q) (128 * (k % 2 ^ 40))).foldl (fun s (k, _) =>
    dropCline (recallNow s (k % 2 ^ 40) (k / 2 ^ 40) (BitVec.allOnes 32)) (k / 2 ^ 40) (k % 2 ^ 40)) s'
/-- A lease of a page of this partition is asked back. -/
def askedBack (p : Part) (l : Lease) : Lease := if l.isHome && ownedBy p (65536 * l.page) then { l with revoking := true } else l
/-- The fills on their way to the partition's clusters have been cleared. -/
def missesCleared (s : State) (q : Nat) : State :=
  let agents := clustersOf (part s q) ++ (ctlOf (part s q)).map (0x60 + ·)
  let u := linesFlushed s q
  { u with misses := u.misses.map fun m =>
      if agents.contains m.agent && ownedBy (part s q) (128 * m.line) then { m with cleared := true } else m }
/-- The leases of the partition's pages have been asked back. -/
def leasesAsked (s : State) (q : Nat) : State :=
  let u := missesCleared s q
  { u with leases := u.leases.map (askedBack (part s q)) }
/-- The launch queues of the partition are emptied. -/
def queuesEmptied (s : State) (q : Nat) : State :=
  setPart s q { part s q with lq := (part s q).lq.map fun x => { x with head := x.tail, rung := [] } }
theorem flushPartition_eq (s : State) (q : Nat) : flushPartition s q = queuesEmptied (leasesAsked s q) q := rfl

theorem BlindHome.freeEngines {α : Type} {π : State → α} (hπ : BlindHome π) (s : State) (q : Nat) : π (freeEngines s q) = π s := by
  refine foldl_view (fun s x => ?_) _ s
  exact hπ.engineArrive ..
theorem BlindHome.linesFlushed {α : Type} {π : State → α} (hπ : BlindHome π) (s : State) (q : Nat) : π (linesFlushed s q) = π s := by
  refine (foldl_view (fun s x => ?_) _ _).trans (hπ.freeEngines s q)
  exact (hπ.dropCline ..).trans (hπ.recallNow ..)
theorem askedBack_eq (p : Part) (l : Lease) : askedBack p l = { l with revoking := (askedBack p l).revoking } := by
  unfold askedBack
  split <;> rfl
theorem BlindHome.leasesAsked {α : Type} {π : State → α} (hπ : BlindHome π) (s : State) (q : Nat) : π (leasesAsked s q) = π s := by
  exact (hπ.revoke (missesCleared s q) _ (askedBack_eq (part s q))).trans ((hπ.setMisses ..).trans (hπ.linesFlushed s q))
theorem revoking_leasesAsked {s : State} {q : Nat} {l : Lease} (h : l ∈ (leasesAsked s q).leases) (hhome : l.isHome = true)
    (hown : ownedBy (part s q) (65536 * l.page) = true) : l.revoking = true := by
  obtain ⟨x, -, rfl⟩ := List.mem_map.1 h
  unfold askedBack at hhome hown ⊢
  split
  · rfl
  next hnot =>
    rw [if_neg hnot] at hhome hown
    exact absurd (by rw [hhome, hown]; rfl) hnot

/-! ### DISABLE and RESET -/

/-- The later of two settings of one key is what counts. -/
theorem mapSet_mapSet {α : Type} (m : NMap α) (k : Nat) (v w : α) : mapSet (mapSet m k v) k w = mapSet m k w := by
  induction m with
  | nil => simp [mapSet]
  | cons x m ih =>
    obtain ⟨j, y⟩ := x
    rw [mapSet, mapSet.eq_2 k w]
    split
    next hlt => simp [mapSet]
    next hlt =>
      split
      next hk => simp [mapSet]
      next hk => rw [mapSet, if_neg hlt, if_neg hk, ih]
theorem setPart_setPart (s : State) (q : Nat) (p r : Part) : setPart (setPart s q p) q r = setPart s q r :=
  congrArg (fun m => { s with parts := m }) (mapSet_mapSet ..)
/-- The clauses of O57 about DISABLE. -/
theorem disable_clauses (s : State) (q : Nat) :
    let p := part s q
    (running s q = true → Runs (.disable q) s fun t => t = setPart s q { p with pctlBusy := false, badcfg := true }) ∧
    (running s q = false → Runs (.disable q) s fun t => t = setPart s q { p with pctlBusy := false, en := false }) := by
  intro p
  refine ⟨fun hrun => runs_of_eq rfl (if_pos hrun) ?_, fun hrun => runs_of_eq rfl (if_neg (Bool.eq_false_iff.1 hrun)) ?_⟩
  · unfold pctlDone
    simp [p]
  · unfold pctlDone
    dsimp only
    rw [part_setPart_self, setPart_setPart]
    exact congrArg (fun b => setPart s q { p with pctlBusy := false, en := false, badcfg := b }) (Bool.or_false _)

/-- The rows of the partition are frozen, and its RST is set. -/
def resetBegun (s : State) (q : Nat) : State := freezeAll (setPart s q { part s q with rst := true }) q
/-- The work of the partition is discarded and its lines are flushed. -/
def workFlushed (s : State) (q : Nat) : State := queuesEmptied (leasesAsked (discardWork s q) q) q
/-- The end of a reset, when no lease of the partition's pages is out. -/
def resetEnds (s : State) (q : Nat) : State :=
  let s := raiseVector (setPart s q { part s q with rst := false }) (q + 1) 7
  if !(part s q).en then pctlDone s q false
  else
    let (s, good) := checkSystemImage s q
    if good then pctlDone ((startImage s q).getD s) q false else pctlDone s q true
theorem exec_reset (s : State) (q : Nat) : exec (.reset q) s = .next (
    if !resetReady (resetBegun s q) q then send (resetBegun s q) (.reset q)
    else if leasedOut (workFlushed (resetBegun s q) q) q then send (workFlushed (resetBegun s q) q) (.reset q)
    else resetEnds (workFlushed (resetBegun s q) q) q) := by
  show execReset q s = _
  unfold execReset resetEnds
  dsimp only
  rw [flushPartition_eq]
  rfl
theorem resetEnds_off {s : State} {q : Nat} (h : (part s q).en = false) :
    resetEnds s q = pctlDone (raiseVector (setPart s q { part s q with rst := false }) (q + 1) 7) q false := by
  have hpart : part (raiseVector (setPart s q { part s q with rst := false }) (q + 1) 7) q = { part s q with rst := false } :=
    part_setPart_self ..
  unfold resetEnds
  dsimp only
  rw [hpart]
  exact if_pos (congrArg (!·) h)
theorem resetView_begun (s : State) (q : Nat) : resetView q (resetBegun s q) = resetView q (setPart s q { part s q with rst := true }) :=
  (blindRows_resetView q).freezeAll ..
theorem resetView_flushed (s : State) (q : Nat) : resetView q (workFlushed s q) = resetView q s := by
  have h := ((blindRows_resetView q).leasesAsked (discardWork s q) q).trans (resetView_discardWork s q)
  unfold workFlushed queuesEmptied
  generalize leasesAsked (discardWork s q) q = u at h ⊢
  refine Eq.trans ?_ h
  exact resetView_setPart rfl rfl rfl
theorem rst_of_resetView {s t : State} {q : Nat} (h : resetView q t = resetView q (setPart s q { part s q with rst := true })) :
    (part t q).rst = true := by
  have := congrArg Prod.fst h
  unfold resetView at this
  rwa [part_setPart_self] at this
theorem en_of_resetView {s t : State} {q : Nat} (h : resetView q t = resetView q (setPart s q { part s q with rst := true })) :
    (part t q).en = (part s q).en := by
  have := congrArg (fun v => v.2.1) h
  unfold resetView at this
  rwa [part_setPart_self] at this
theorem ownedBy_of_resetView {s t : State} {q : Nat} (h : resetView q t = resetView q (setPart s q { part s q with rst := true })) :
    ownedBy (part t q) = ownedBy (part s q) := by
  have := congrArg (fun v => v.2.2.1) h
  unfold resetView at this
  rwa [part_setPart_self] at this
theorem leasedOut_of_resetView {s t : State} {q : Nat} (h : resetView q t = resetView q (setPart s q { part s q with rst := true })) :
    leasedOut t q = leasedOut s q := by
  rw [leasedOut_congr h]
  unfold leasedOut
  rw [part_setPart_self]
  rfl
/-- What a reset leaves of the partition's work. -/
theorem hub_flushed (s : State) (q d : Nat) : ∃ h, hub (workFlushed s q) d = hubWithout q h := by
  obtain ⟨h, hh⟩ := hub_discardWork s q d
  have hhubs := blindPost_hubs.leasesAsked (discardWork s q) q
  unfold workFlushed queuesEmptied
  generalize leasesAsked (discardWork s q) q = u at hhubs ⊢
  exact ⟨h, (hub_of_hubs hhubs d).trans hh⟩
theorem pool_flushed (s : State) (q p : Nat) : ∃ x, pool (workFlushed s q) p = poolWithout q x := by
  obtain ⟨x, hx⟩ := pool_discardWork s q p
  have hpools := blindHome_pools.leasesAsked (discardWork s q) q
  unfold workFlushed queuesEmptied
  generalize leasesAsked (discardWork s q) q = u at hpools ⊢
  exact ⟨x, (congrArg (fun m : NMap Pool => mapGet m p Pool.init) hpools).trans hx⟩
theorem workView_flushed (s : State) (q : Nat) : workView q (workFlushed s q) = ([], none) := by
  have h := ((blindHome_workView q).leasesAsked (discardWork s q) q).trans (workView_discardWork s q)
  unfold workFlushed queuesEmptied
  generalize leasesAsked (discardWork s q) q = u at h ⊢
  unfold workView at h ⊢
  rwa [part_setPart_self]
theorem lq_flushed (s : State) (q : Nat) : ∀ x ∈ (part (workFlushed s q) q).lq, x.head = x.tail := by
  intro x hx
  unfold workFlushed queuesEmptied at hx
  generalize leasesAsked (discardWork s q) q = u at hx
  rw [part_setPart_self] at hx
  obtain ⟨y, -, rfl⟩ := List.mem_map.1 hx
  rfl
theorem revoking_flushed {s : State} {q : Nat} {l : Lease} (h : l ∈ (workFlushed s q).leases) (hhome : l.isHome = true)
    (hown : ownedBy (part s q) (65536 * l.page) = true) : l.revoking = true := by
  have hdisc : ownedBy (part (discardWork s q) q) = ownedBy (part s q) := congrArg (fun v => v.2.2.1) (resetView_discardWork s q)
  exact revoking_leasesAsked (s := discardWork s q) h hhome (by rw [hdisc]; exact hown)

/-- The clauses of O57 about RESET. -/
theorem reset_clauses (s : State) (q : Nat) :
    let ready := resetReady (freezeAll (setPart s q { part s q with rst := true }) q) q
    (ready = false → Runs (.reset q) s fun t => (part t q).rst = true ∧ Msg.reset q ∈ t.agenda) ∧
    (ready = true → leasedOut s q = true → Runs (.reset q) s fun t => (part t q).rst = true ∧ Msg.reset q ∈ t.agenda ∧
      ∀ l ∈ t.leases, l.isHome = true → ownedBy (part s q) (65536 * l.page) = true → l.revoking = true) ∧
    (ready = true → leasedOut s q = false → (part s q).en = false →
        Runs (.reset q) s fun t => (part t q).rst = false ∧ (part t q).pctlBusy = false ∧
      (q + 1, 7) ∈ t.vectors ∧ (part t q).forks = [] ∧ (part t q).taken = none ∧ (∀ d, ∀ n ∈ (hub t d).nodes, n.part ≠ q) ∧
      (∀ d, ∀ n ∈ (hub t d).kept, n.part ≠ q) ∧ (∀ p, ∀ x ∈ (pool t p).claims, x.row.part ≠ q) ∧
      (∀ x ∈ (part t q).lq, x.head = x.tail) ∧ ∀ d, ∀ x ∈ (hub t d).dir, x.part ≠ q) := by
  intro ready
  have hbegun := resetView_begun s q
  have hexec := exec_reset s q
  have hb : resetReady (resetBegun s q) q = ready := rfl
  clear_value ready
  generalize resetBegun s q = b at hbegun hexec hb
  refine ⟨fun hready => ?_, fun hready hleased => ?_, fun hready hleased hen => ?_⟩
  · refine runs_of_eq hexec (if_pos (by rw [hb, hready]; rfl)) ⟨rst_of_resetView hbegun, List.mem_append_right _ (List.mem_singleton_self _)⟩
  · have hview := (resetView_flushed b q).trans hbegun
    have hrevoking {l : Lease} (hl : l ∈ (workFlushed b q).leases) (hhome : l.isHome = true)
        (hown : ownedBy (part s q) (65536 * l.page) = true) : l.revoking = true :=
      revoking_flushed hl hhome (by rw [ownedBy_of_resetView hbegun]; exact hown)
    generalize workFlushed b q = u at hview hexec hrevoking
    exact runs_of_eq hexec ((if_neg (by rw [hb, hready]; decide)).trans (if_pos ((leasedOut_of_resetView hview).trans hleased)))
      ⟨rst_of_resetView hview, List.mem_append_right _ (List.mem_singleton_self _), fun l => hrevoking⟩
  · have hwork := workView_flushed b q
    have hlq := lq_flushed b q
    have hhub := hub_flushed b q
    have hpool := pool_flushed b q
    have hview := (resetView_flushed b q).trans hbegun
    generalize workFlushed b q = u at hwork hlq hhub hpool hview hexec
    have hforks : (part u q).forks = [] := congrArg Prod.fst hwork
    have htaken : (part u q).taken = none := congrArg Prod.snd hwork
    have hpart : part (raiseVector (setPart u q { part u q with rst := false }) (q + 1) 7) q = { part u q with rst := false } :=
      part_setPart_self ..
    refine runs_of_eq hexec ((if_neg (by rw [hb, hready]; decide)).trans
      ((if_neg (Bool.eq_false_iff.1 ((leasedOut_of_resetView hview).trans hleased))).trans
        (resetEnds_off ((en_of_resetView hview).trans hen)))) ?_
    unfold pctlDone
    dsimp only
    rw [part_setPart_self, hpart]
    refine ⟨rfl, rfl, List.mem_append_right _ (List.mem_singleton_self _), hforks, htaken, fun d n hn => ?_, fun d n hn => ?_,
      fun p x hx => ?_, hlq, fun d x hx => ?_⟩
    · obtain ⟨h, hh⟩ := hhub d
      exact part_of_mem_nodes (h := h) (hh ▸ hn)
    · obtain ⟨h, hh⟩ := hhub d
      exact part_of_mem_kept (h := h) (hh ▸ hn)
    · obtain ⟨y, hy⟩ := hpool p
      exact part_of_mem_claims (x := y) (hy ▸ hx)
    · obtain ⟨h, hh⟩ := hhub d
      exact part_of_mem_dir (h := h) (hh ▸ hx)

/-- Settles O57: PCTL's operations are read off their equations; freezing rows, flushing lines and discarding work leave the
partition's registers and the leases' pages in view. -/
theorem partitionControl : Obligations.PartitionControl := by
  unfold Obligations.PartitionControl
  exact ⟨enable_clauses, disable_clauses, reset_clauses⟩

end Sys2Proof.Machine
end

section
/-!
PROOF. O58: the outside ports (R429, R444 to R450): what they read of the state and what an access from outside leaves alone.
-/

namespace Sys2Proof.Machine

theorem blindRows_peers : BlindRows State.peers where
  inner := by intros; rfl
  fills := by intros; rfl
  sends := by intros; rfl
  revoke := by intros; rfl
  trace := by intros; rfl
  units := by intros; rfl
theorem blindRows_posted : BlindRows State.posted where
  inner := by intros; rfl
  fills := by intros; rfl
  sends := by intros; rfl
  revoke := by intros; rfl
  trace := by intros; rfl
  units := by intros; rfl

end Sys2Proof.Machine
end

section
/-!
SUPPORT. An access from outside that arrives at a row (R175, R195 to R202) does nothing to the peer ports. The operations stand in the
order of the model.
-/

namespace Sys2Proof.Machine

theorem peers_setPart (s : State) (q : Nat) (p : Part) : (setPart s q p).peers = s.peers := rfl
theorem peers_setRowEntry (s : State) (r : RowId) (e : Word) : (setRowEntry s r e).peers = s.peers := rfl
theorem peers_sendAll (s : State) (l : List Msg) : (sendAll s l).peers = s.peers := rfl
theorem peers_observeCopies (s : State) (r : RowId) : (observeCopies s r).peers = s.peers := rfl
theorem peers_acquireClear (s : State) (agent : Nat) (sys : Bool) (remote : Nat → Bool) :
    (acquireClear s agent sys remote).peers = s.peers := rfl
theorem peers_acquireAt (s : State) (e : Nat) (sc : Scope) : (acquireAt s e sc).peers = s.peers := by
  have hdev : (if isCtl e then s else acquireClear s (agentOf e) false fun _ => false).peers = s.peers := view_ite rfl rfl
  cases sc with
  | row => rfl
  | clu => rfl
  | die => exact hdev
  | dev => exact hdev
  | sys => rfl
theorem peers_setPool (s : State) (p : Nat) (x : Pool) : (setPool s p x).peers = s.peers := rfl
theorem peers_dropClaim (s : State) (p num : Nat) : (dropClaim s p num).peers = s.peers := rfl
theorem peers_reclaim (s : State) (p : Nat) (c : Claim) : (reclaim s p c).peers = s.peers := blindRows_peers.arriveWord ..
theorem peers_leavePools (s : State) (r : RowId) (e : Nat) : (leavePools s r e).peers = s.peers := rfl
theorem peers_claimFollows (s : State) (r : RowId) (e : Nat) : (claimFollows s r e).peers = s.peers := by
  unfold claimFollows
  refine view_ite (π := State.peers) ?_ rfl
  split
  · exact view_ite (peers_reclaim ..) rfl
  · rfl
theorem peers_logDiscard (s : State) (r : RowId) : (logDiscard s r).peers = s.peers := blindRows_peers.traceCoh ..
theorem peers_storeImage (s : State) (q pa : Nat) (im : Image) : (storeImage s q pa im).peers = s.peers := blindRows_peers.merge ..
theorem peers_toCellar (s : State) (r : RowId) (pr k e : Nat) : (toCellar s r pr k e).peers = s.peers := by
  unfold toCellar
  simp only [peers_setRowEntry, blindRows_peers.dropRow, peers_storeImage]
theorem peers_notePreempt (s : State) (pr : Nat) : (notePreempt s pr).peers = s.peers := by
  unfold notePreempt
  split <;> simp only [blindRows_peers.arriveWord]
theorem peers_resumeStall (s : State) (r : RowId) (pr : Nat) : (resumeStall s r pr).peers = s.peers := by
  unfold resumeStall
  split <;> rfl
theorem peers_intoBank (s : State) (r : RowId) (pr : Nat) (im : Image) : (intoBank s r pr im).peers = s.peers := by
  unfold intoBank
  simp only [peers_setRowEntry, peers_claimFollows, peers_notePreempt, peers_resumeStall]
theorem peers_cellarToBank (s : State) (r : RowId) (pr pa : Nat) : (cellarToBank s r pr pa).peers = s.peers := by
  unfold cellarToBank
  simp only [blindRows_peers.checkRange, peers_intoBank]
theorem peers_noteParked (s : State) (r : RowId) (add : Bool) : (noteParked s r add).peers = s.peers := rfl
theorem peers_sendCommit (s : State) (r : RowId) (i tag die : Nat) : (sendCommit s r i tag die).peers = s.peers := by
  unfold sendCommit
  split
  · split <;> rfl
  · rfl
theorem peers_passReply (s : State) (l : Loc) (i : Nat) : (passReply s l i).peers = s.peers := by
  unfold passReply
  split
  · exact view_ite (blindRows_peers.setLocWord ..) rfl
  · rfl
theorem peers_unblock (s : State) (r : RowId) : (unblock s r).peers = s.peers := rfl
theorem peers_writeDest (s : State) (l : Loc) (dest : Nat) (v : Word) : (writeDest s l dest v).peers = s.peers := by
  unfold writeDest
  split <;> simp only [blindRows_peers.setLocWord]
theorem peers_acquireAfter (s : State) (p : Reply) (e : Nat) : (acquireAfter s p e).peers = s.peers := by
  unfold acquireAfter
  split <;> simp only [peers_observeCopies, peers_acquireAt]
theorem peers_writeHeldOne (s : State) (pr : Nat) (p : Reply) : (writeHeldOne s pr p).peers = s.peers := by
  unfold writeHeldOne
  refine view_ite (π := State.peers) (view_ite (blindRows_peers.clearSlot ..) ?_) rfl
  have hwrite : (if p.poison ≠ 0 then { acquireAfter s p (execOf pr) with
        late := (acquireAfter s p (execOf pr)).late ++ [(p.row, 16 * accOfKind (slotKind (acquireAfter s p (execOf pr)) (.bank pr) p.slot)
          + (p.poison - 1), slotAddr (acquireAfter s p (execOf pr)) (.bank pr) p.slot)] }
      else writeDest (acquireAfter s p (execOf pr)) (.bank pr) (slotDest (acquireAfter s p (execOf pr)) (.bank pr) p.slot) p.value).peers
      = s.peers := view_ite (π := State.peers) (peers_acquireAfter ..) ((peers_writeDest ..).trans (peers_acquireAfter ..))
  exact view_ite (π := State.peers) ((blindRows_peers.setSlotState ..).trans ((peers_passReply ..).trans hwrite))
    ((blindRows_peers.clearSlot ..).trans ((peers_passReply ..).trans hwrite))
theorem peers_writeHeld (s : State) (pr : Nat) : (writeHeld s pr).peers = s.peers := by
  refine (foldl_view (π := State.peers) (fun s p => ?_) _ _).trans (blindRows_peers.setExec ..)
  exact peers_writeHeldOne ..
theorem peers_leaveBank (s : State) (pr : Nat) : (leaveBank s pr).peers = s.peers := by
  refine (foldl_view (π := State.peers) (fun s i => ?_) _ _).trans (peers_writeHeld ..)
  exact view_ite (blindRows_peers.setSlotState ..) rfl
theorem peers_readdressAll (s : State) (r : RowId) (tag e : Nat) : (readdressAll s r tag e).peers = s.peers := rfl
theorem peers_cutReplies (s : State) (r : RowId) (tag : Nat) : (cutReplies s r tag).peers = s.peers := rfl
theorem peers_readAgain (s : State) (o : OpRec) (p : Reply) : (readAgain s o p).peers = s.peers := by
  unfold readAgain
  split <;> rfl
theorem peers_reissueReq (s : State) (l : Loc) (e i : Nat) (r : Req) : (reissueReq s l e i r).peers = s.peers := rfl
theorem peers_reissue (s : State) (pr i : Nat) : (reissue s pr i).peers = s.peers := by
  have hcut : (cutReplies (setSlotState s (.bank pr) i 1) (rowId s pr) (slotTag s (.bank pr) i)).peers = s.peers :=
    (peers_cutReplies ..).trans (blindRows_peers.setSlotState ..)
  unfold reissue
  dsimp only
  generalize cutReplies _ _ _ = u at hcut ⊢
  split
  · exact hcut
  split
  · exact (peers_readAgain ..).trans hcut
  refine view_ite hcut (view_ite hcut ?_)
  have haddr : (if slotClass u (.bank pr) i = 0 then readdressAll u (rowId s pr) (slotTag s (.bank pr) i) noExec else u).peers = s.peers :=
    view_ite hcut hcut
  generalize (if slotClass u (.bank pr) i = 0 then readdressAll u (rowId s pr) (slotTag s (.bank pr) i) noExec else u) = v at haddr ⊢
  (repeat' split) <;> exact haddr
theorem peers_resumeSlots (s : State) (pr : Nat) : (resumeSlots s pr).peers = s.peers := by
  unfold resumeSlots
  refine (foldl_view (π := State.peers) (fun s i => ?_) _ _).trans
    ((foldl_view (π := State.peers) (fun s i => ?_) _ _).trans (peers_writeHeld ..))
  · exact view_ite (peers_reissue ..) rfl
  · exact view_ite ((blindRows_peers.clearSlot ..).trans (peers_sendCommit ..)) rfl
theorem peers_clearWcont (s : State) (l : Loc) : (clearWcont s l).peers = s.peers := blindRows_peers.setLocWord ..
theorem peers_endWait (s : State) (pr : Nat) : (endWait s pr).peers = s.peers := by
  unfold endWait
  split <;> rfl
theorem peers_leaveWaits (s : State) (r : RowId) (l : Loc) : (leaveWaits s r l).peers = s.peers := by
  have hclear : (clearWcont (dropWaitFor (unblock s r) r) l).peers = s.peers := peers_clearWcont ..
  unfold leaveWaits
  dsimp only
  split
  · exact (peers_endWait ..).trans hclear
  · exact hclear
theorem peers_setRstate (s : State) (l : Loc) (v : Nat) : (setRstate s l v).peers = s.peers := blindRows_peers.setLocBits ..
theorem peers_setBlk (s : State) (l : Loc) (v : Nat) : (setBlk s l v).peers = s.peers := blindRows_peers.setLocBits ..
theorem peers_commandStart (s : State) (r : RowId) (op : Nat) : (commandStart s r op).peers = s.peers := by
  unfold commandStart
  split
  · refine view_ite (π := State.peers) ((blindRows_peers.makeReady ..).trans (view_ite (π := State.peers) ((blindRows_peers.countDone ..).trans ?_) ?_))
      (peers_logDiscard ..)
    all_goals exact (blindRows_peers.setRowWord ..).trans (peers_leaveWaits ..)
  · exact peers_logDiscard ..
theorem peers_commandStop (s : State) (r : RowId) : (commandStop s r).peers = s.peers := by
  unfold commandStop
  split
  · refine view_ite (π := State.peers) ((blindRows_peers.settleState ..).trans (view_ite (π := State.peers) ((peers_setBlk ..).trans ?_) ?_))
      (peers_logDiscard ..)
    all_goals exact (peers_leaveWaits ..).trans (blindRows_peers.dropWatchAt ..)
  · exact peers_logDiscard ..
theorem peers_commandRedirect (s : State) (r : RowId) (op : Nat) : (commandRedirect s r op).peers = s.peers := by
  unfold commandRedirect
  split
  · next pr _ =>
    have hgo : (setRowWord (leaveWaits s r (.bank pr)) pr 1 (opPc op)).peers = s.peers := (blindRows_peers.setRowWord ..).trans (peers_leaveWaits ..)
    exact view_ite (π := State.peers) (peers_logDiscard ..) (view_ite ((blindRows_peers.makeReady ..).trans hgo)
      (view_ite ((blindRows_peers.makeReady ..).trans ((peers_setBlk ..).trans ((blindRows_peers.dropWatchAt ..).trans hgo))) hgo))
  · exact peers_logDiscard ..
theorem peers_commandWake (s : State) (r : RowId) : (commandWake s r).peers = s.peers := by
  have hparked (l : Loc) : (if rstateAt s l = 4 && blkAt s l = 4 then setBlk (setRstate s l 1) l 0 else logDiscard s r).peers = s.peers :=
    view_ite ((peers_setBlk ..).trans (peers_setRstate ..)) (peers_logDiscard ..)
  unfold commandWake
  dsimp only
  split
  · exact peers_logDiscard ..
  · exact hparked _
  · refine view_ite (hparked _) (view_ite (blindRows_peers.setLocBits ..) (view_ite (view_ite ?_ (blindRows_peers.setLocBits ..)) (peers_logDiscard ..)))
    exact (blindRows_peers.makeReady ..).trans (peers_setBlk ..)
theorem peers_recheckPhases (s : State) (l : Loc) : (recheckPhases s l).peers = s.peers := rfl
theorem peers_resumeState (s : State) (pr st : Nat) : (resumeState s pr st).peers = s.peers :=
  view_ite (blindRows_peers.makeReady ..) (view_ite ((peers_recheckPhases ..).trans ((blindRows_peers.countDone ..).trans (blindRows_peers.setRowState ..)))
    (blindRows_peers.setRowState ..))
theorem peers_thawState (s : State) (pr : Nat) : (thawState s pr).peers = s.peers :=
  view_ite ((blindRows_peers.makeReady ..).trans (peers_setBlk ..)) (peers_resumeState ..)
theorem peers_commandThaw (s : State) (r : RowId) : (commandThaw s r).peers = s.peers := by
  unfold commandThaw
  split
  · exact view_ite ((peers_thawState ..).trans (peers_resumeSlots ..)) (view_ite (blindRows_peers.makeReady ..) (peers_logDiscard ..))
  · exact peers_logDiscard ..
theorem peers_owe (s : State) (r : RowId) (l : Loc) (old new : Nat) : (owe s r l old new).peers = s.peers := by
  unfold owe
  split <;> rfl
theorem peers_parkImage (s : State) (r : RowId) (pr e : Nat) (again : Msg) : (parkImage s r pr e again).peers = s.peers := by
  unfold parkImage
  split
  · exact (peers_noteParked ..).trans ((peers_toCellar ..).trans (peers_leaveBank ..))
  · exact view_ite rfl (blindRows_peers.send ..)
theorem peers_commandPark (s : State) (r : RowId) : (commandPark s r).peers = s.peers := by
  unfold commandPark
  split
  · refine view_ite (π := State.peers) (peers_parkImage ..) ((peers_parkImage ..).trans ((blindRows_peers.settleState ..).trans ?_))
    exact view_ite (blindRows_peers.setLocBits ..) ((blindRows_peers.recordState ..).trans ((blindRows_peers.renegotiate ..).trans (blindRows_peers.leaveDone ..)))
  · exact peers_logDiscard ..
theorem peers_dropRetries (s : State) (r : RowId) : (dropRetries s r).peers = s.peers := rfl
theorem peers_comeBack (s : State) (r : RowId) (pr : Nat) : (comeBack s r pr).peers = s.peers := by
  refine view_ite (π := State.peers) ((blindRows_peers.setRowState ..).trans ((blindRows_peers.setLocBits ..).trans rfl)) ?_
  exact (peers_resumeState ..).trans ((peers_resumeSlots ..).trans rfl)
theorem peers_commandUnpark (s : State) (r : RowId) : (commandUnpark s r).peers = s.peers := by
  unfold commandUnpark
  split
  · exact view_ite (peers_comeBack ..) (peers_logDiscard ..)
  · dsimp only
    split
    · exact (peers_comeBack ..).trans (peers_cellarToBank ..)
    · exact view_ite rfl (blindRows_peers.send ..)
  · exact peers_logDiscard ..
theorem peers_commandMove (s : State) (r : RowId) (op : Nat) : (commandMove s r op).peers = s.peers := by
  have hagain (m : Msg) : (if s.agenda.contains m then s else send s m).peers = s.peers := view_ite rfl (blindRows_peers.send ..)
  unfold commandMove
  refine view_ite (π := State.peers) (peers_logDiscard ..) ?_
  split
  · refine view_ite (π := State.peers) ?_ (view_ite (hagain _) (peers_logDiscard ..))
    split
    · exact (peers_intoBank ..).trans ((blindRows_peers.dropRow ..).trans ((peers_leaveBank ..).trans (peers_owe ..)))
    · refine view_ite (π := State.peers) ?_ (hagain _)
      exact (peers_parkImage ..).trans ((blindRows_peers.setRowState ..).trans ((blindRows_peers.setLocBits ..).trans (peers_owe ..)))
  · exact (peers_setRowEntry ..).trans (peers_owe ..)
  · exact peers_logDiscard ..
theorem peers_applyCommand (s : State) (r : RowId) (w : Word) : (applyCommand s r w).peers = s.peers := by
  unfold applyCommand
  refine view_ite (π := State.peers) (peers_logDiscard ..) (Eq.trans ?_ (blindRows_peers.arriveWord s r (locate s r) 0
    (w64 (at_ (locState s (locate s r)) 48 + bits w 0 48))))
  generalize arriveWord s r (locate s r) 0 _ = u
  split
  · exact peers_commandStart ..
  · exact peers_commandStop ..
  · exact peers_commandRedirect ..
  · exact peers_commandWake ..
  · exact blindRows_peers.commandFreeze ..
  · exact peers_commandThaw ..
  · exact peers_commandPark ..
  · exact peers_commandUnpark ..
  · exact peers_commandMove ..
theorem peers_writeImage (s : State) (r : RowId) (l : Loc) (off n : Nat) (v : Nat) : (writeImage s r l off n v).peers = s.peers :=
  view_ite rfl ((blindRows_peers.wakeOwnWatch ..).trans (blindRows_peers.setLocWord ..))
theorem peers_applyStore (s : State) (a : RowAccess) (l : Loc) (n : Nat) (v : Word) : (applyStore s a l n v).peers = s.peers := by
  refine view_ite (peers_applyCommand ..) (view_ite (peers_writeImage ..) (view_ite (peers_logDiscard ..) (view_ite ?_ (blindRows_peers.arriveWord ..))))
  exact (peers_clearWcont ..).trans ((peers_unblock ..).trans (blindRows_peers.arriveWord ..))
theorem peers_applyAccess (s : State) (a : RowAccess) (l : Loc) : (applyAccess s a l).1.peers = s.peers := by
  unfold applyAccess
  split
  · rfl
  · exact peers_applyStore ..
  · split
    · rfl
    · exact (blindRows_peers.doneAdd ..).trans (view_ite (peers_writeImage ..) rfl)
  · exact blindRows_peers.arriveWord ..
  · exact peers_applyCommand ..
/-- An access from outside that arrives at a row does nothing to the peer ports. -/
theorem peers_arriveAccess (s : State) (a : RowAccess) : (arriveAccess s a).peers = s.peers := by
  have happly : (if locate s a.target = .none then (logDiscard s a.target, (0 : Word))
      else applyAccess (noteArrival s (locate s a.target)) a (locate s a.target)).1.peers = s.peers := by
    split
    · exact peers_logDiscard ..
    · exact (peers_applyAccess ..).trans (blindRows_peers.noteArrival ..)
  unfold arriveAccess
  exact view_ite (π := State.peers) rfl (view_ite ((blindRows_peers.send ..).trans happly) happly)

end Sys2Proof.Machine
end

section
/-!
SUPPORT. A write of a register (R68 to R70) keeps the host's posted writes. The operations stand in the order of the model.
-/

namespace Sys2Proof.Machine

theorem posted_flushTails (s : State) (q : Nat) : (flushTails s q).posted = s.posted := blindRows_posted.writeEntries ..
theorem posted_flashClear (s : State) (q : Nat) (sel : Nat → Bool) : (flashClear s q sel).posted = s.posted := by
  refine foldl_view (π := State.posted) (fun s c => ?_) (clustersOf (part s q)) s
  rfl
theorem posted_invalidateRange (s : State) (q : Nat) (whole : Bool) (hit : TlbEnt → Bool) :
    (invalidateRange s q whole hit).posted = s.posted := posted_flashClear ..
theorem posted_setPart (s : State) (q : Nat) (p : Part) : (setPart s q p).posted = s.posted := rfl
theorem posted_pmemCfgWrite (s : State) (q : Nat) (v : Word) : (pmemCfgWrite s q v).posted = s.posted :=
  view_ite (π := State.posted) rfl rfl
theorem posted_pcaskCfgWrite (s : State) (q : Nat) (v : Word) : (pcaskCfgWrite s q v).posted = s.posted :=
  view_ite (π := State.posted) rfl (posted_flushTails ..)
theorem posted_prowCfgWrite (s : State) (q : Nat) (v : Word) : (prowCfgWrite s q v).posted = s.posted :=
  view_ite (π := State.posted) rfl rfl
theorem posted_psaveCfgWrite (s : State) (q : Nat) (v : Word) : (psaveCfgWrite s q v).posted = s.posted :=
  view_ite (π := State.posted) rfl rfl
theorem posted_stallCount (s : State) (q : Nat) : (stallCount s q).1.posted = s.posted := by
  unfold stallCount
  split <;> rfl
theorem posted_pbwWrite (s : State) (q : Nat) (v : Word) : (pbwWrite s q v).posted = s.posted := posted_stallCount ..
theorem posted_trcCtlWrite (s : State) (q : Nat) (v : Word) : (trcCtlWrite s q v).posted = s.posted := by
  refine view_ite (π := State.posted) ((foldl_view (π := State.posted) (fun s e => ?_) _ _).trans rfl) rfl
  exact blindRows_posted.traceRec ..
theorem posted_pwrCtlWrite (s : State) (v : Word) : (pwrCtlWrite s v).posted = s.posted :=
  view_ite (π := State.posted) rfl (view_ite rfl (view_ite rfl rfl))
theorem posted_rollbackFloorWrite (s : State) (v : Word) : (rollbackFloorWrite s v).posted = s.posted :=
  view_ite (π := State.posted) rfl rfl
theorem posted_keyCtlWrite (s : State) (v : Word) : (keyCtlWrite s v).posted = s.posted := by
  refine view_ite (π := State.posted) rfl ?_
  dsimp only
  split
  · rfl
  · rfl
  · exact blindRows_posted.traceCoh ..
  · rfl
theorem posted_preCtlWrite (s : State) (v : Word) : (preCtlWrite s v).posted = s.posted := by
  refine view_ite (π := State.posted) rfl ?_
  dsimp only
  split
  · rfl
  · exact view_ite (π := State.posted) rfl rfl
  · exact view_ite (π := State.posted) rfl rfl
  · exact view_ite (π := State.posted) rfl rfl
  · exact view_ite (π := State.posted) rfl rfl
  · exact blindRows_posted.traceCoh ..
theorem posted_pctlWrite (s : State) (q : Nat) (v : Word) : (pctlWrite s q v).posted = s.posted := by
  refine view_ite (π := State.posted) rfl ?_
  dsimp only
  split <;> rfl
theorem posted_caskCtlWrite (s : State) (q : Nat) (v : Word) : (caskCtlWrite s q v).posted = s.posted := by
  refine view_ite (π := State.posted) rfl ?_
  dsimp only
  split <;> rfl
theorem posted_pgCtlWrite (s : State) (q : Nat) (v : Word) : (pgCtlWrite s q v).posted = s.posted := by
  refine view_ite (π := State.posted) rfl ?_
  dsimp only
  split <;> rfl
theorem posted_nretryWrite (s : State) (q : Nat) (v : Word) : (nretryWrite s q v).posted = s.posted := by
  refine view_ite (π := State.posted) rfl ?_
  dsimp only
  split <;> rfl
theorem posted_nparkWrite (s : State) (q : Nat) (v : Word) : (nparkWrite s q v).posted = s.posted := by
  unfold nparkWrite
  dsimp only
  split
  · exact view_ite (π := State.posted) rfl rfl
  · exact view_ite (π := State.posted) rfl rfl
  · rfl
theorem posted_vparkWrite (s : State) (p : Nat) (v : Word) : (vparkWrite s p v).posted = s.posted := by
  unfold vparkWrite
  dsimp only
  split <;> rfl
theorem posted_lqCfgWrite (s : State) (q n : Nat) (v : Word) : (lqCfgWrite s q n v).posted = s.posted :=
  view_ite (π := State.posted) rfl rfl
theorem posted_storCfgWrite (s : State) (q k : Nat) (sub : Bool) (v : Word) : (storCfgWrite s q k sub v).posted = s.posted :=
  view_ite (π := State.posted) rfl (view_ite rfl rfl)
theorem posted_dbgWrite (s : State) (c off : Nat) (v : Word) (targets : BitVec 32) : (dbgWrite s c off v targets).posted = s.posted := by
  refine view_ite (π := State.posted) ?_ (view_ite rfl (view_ite rfl (view_ite rfl rfl)))
  split <;> rfl
theorem posted_ndbWrite (s : State) (q k : Nat) (v : Word) : (ndbWrite s q k v).posted = s.posted :=
  view_ite (π := State.posted) rfl rfl
theorem posted_windowWrite (s : State) (q off : Nat) (v : Word) : (windowWrite s q off v).posted = s.posted := by
  unfold windowWrite
  refine view_ite (π := State.posted) (view_ite rfl rfl) (view_ite (posted_invalidateRange ..) (view_ite ?_ (view_ite rfl (view_ite rfl
    (view_ite (posted_caskCtlWrite ..) (view_ite (posted_nparkWrite ..) (view_ite (posted_nretryWrite ..) (view_ite (posted_pgCtlWrite ..)
    (view_ite rfl (view_ite rfl (view_ite (posted_trcCtlWrite ..) (view_ite ?_ (view_ite (view_ite (posted_vparkWrite ..) rfl)
    (view_ite (view_ite (posted_dbgWrite ..) rfl) rfl))))))))))))))
  · dsimp only
    split
    · exact posted_lqCfgWrite ..
    · exact view_ite (π := State.posted) rfl rfl
    · rfl
  · dsimp only
    split
    · exact posted_storCfgWrite ..
    · exact posted_storCfgWrite ..
    · exact posted_ndbWrite ..
    · rfl
theorem posted_blockWrite (s : State) (q off : Nat) (v : Word) : (blockWrite s q off v).posted = s.posted := by
  have hdef (p : Part) : (if (part s q).en || s.hub.mgmtHalted then s else setPart s q p).posted = s.posted :=
    view_ite (π := State.posted) rfl rfl
  exact view_ite (π := State.posted) (hdef _) (view_ite (hdef _) (view_ite (hdef _) (view_ite (posted_pmemCfgWrite ..)
    (view_ite (view_ite rfl rfl) (view_ite (posted_pcaskCfgWrite ..) (view_ite (posted_prowCfgWrite ..) (view_ite (posted_psaveCfgWrite ..)
    (view_ite (posted_pbwWrite ..) (view_ite (posted_pctlWrite ..) (view_ite (hdef _) (view_ite (hdef _) (view_ite (hdef _) rfl))))))))))))
theorem posted_hubDieWrite (s : State) (off : Nat) (v : Word) : (hubDieWrite s off v).posted = s.posted := by
  refine view_ite (π := State.posted) (posted_blockWrite ..) (view_ite (posted_keyCtlWrite ..) (view_ite (view_ite rfl rfl)
    (view_ite (posted_preCtlWrite ..) (view_ite rfl (view_ite rfl (view_ite rfl (view_ite rfl (view_ite rfl (view_ite rfl (view_ite rfl
    (view_ite (posted_pwrCtlWrite ..) (view_ite rfl (view_ite (posted_rollbackFloorWrite ..) (view_ite (view_ite rfl rfl) (view_ite ?_
    (view_ite (posted_dbgWrite ..) rfl))))))))))))))))
  exact view_ite (π := State.posted) rfl rfl
/-- A write of a register does nothing to the host's posted writes. -/
theorem posted_regWrite (s : State) (pa : Nat) (v : Word) : (regWrite s pa v).posted = s.posted :=
  view_ite (posted_hubDieWrite ..) (posted_windowWrite ..)

end Sys2Proof.Machine
end

section
/-!
PROOF. O58, the host port: posted writes and reads of a function (R444, R446).
-/

namespace Sys2Proof.Machine

/-! ### What a read of a register leaves -/

/-- The rows, and the answers that have left the device. -/
def readsView (s : State) : NMap Image × List (HostAccess × List Byte) := (s.rows, s.reads)
theorem readsView_hptNext (n : Nat) (s : State) (d : Nat) : readsView (hptNext n s d).1 = readsView s := by
  induction n generalizing s with
  | zero => rfl
  | succ n ih =>
    unfold hptNext draw
    dsimp only
    generalize hu : ({ s with count := s.count + 1 } : State) = u
    have hs : readsView u = readsView s := hu ▸ rfl
    split_ifs
    · exact hs
    · exact (ih u).trans hs
    · exact (ih _).trans hs
    · exact hs
theorem view_fst_ite {α β γ : Type} {π : α → β} {c : Prop} [Decidable c] {a b : α × γ} {x : β} (ha : π a.1 = x) (hb : π b.1 = x) :
    π (if c then a else b).1 = x := by
  split
  · exact ha
  · exact hb
theorem readsView_stallCount (s : State) (q : Nat) : readsView (stallCount s q).1 = readsView s := view_fst_ite rfl rfl
theorem readsView_bwStallRead (s : State) (q : Nat) : readsView (bwStallRead s q).1 = readsView s := readsView_stallCount s q
theorem readsView_hptCandRead (s : State) (d : Nat) : readsView (hptCandRead s d).1 = readsView s := readsView_hptNext ..
theorem readsView_hptSkipRead (s : State) (d : Nat) : readsView (hptSkipRead s d).1 = readsView s := rfl
theorem readsView_hubDieRead (s : State) (off : Nat) : readsView (hubDieRead s off).1 = readsView s := by
  have h (v : Word) : readsView (s, v).1 = readsView s := rfl
  unfold hubDieRead
  dsimp only
  iterate 12 refine view_fst_ite (h _) ?_
  refine view_fst_ite (readsView_hptCandRead ..) ?_
  refine view_fst_ite (readsView_hptSkipRead ..) ?_
  iterate 7 refine view_fst_ite (h _) ?_
  exact h _
/-- A read of a register moves no row and leaves the device's answers. -/
theorem readsView_regRead (s : State) (pa : Nat) : readsView (regRead s pa).1 = readsView s := by
  have h (v : Word) : readsView (s, v).1 = readsView s := rfl
  unfold regRead windowRead
  dsimp only
  exact view_fst_ite (readsView_hubDieRead ..) (view_fst_ite (readsView_bwStallRead ..) (h _))

/-! ### Posted writes (R446) -/

/-- A lease as it stands when the pages are asked back. -/
def asked (pages : List Nat) (l : Lease) : Lease := if l.isHome ∧ l.page ∈ pages then { l with revoking := true } else l
theorem asked_cons (p : Nat) (ps : List Nat) (l : Lease) :
    asked ps (if l.isHome ∧ l.page = p then { l with revoking := true } else l) = asked (p :: ps) l := by
  unfold asked
  by_cases h : l.isHome ∧ l.page = p
  · rw [if_pos h, if_pos (c := l.isHome ∧ l.page ∈ p :: ps) ⟨h.1, h.2 ▸ List.mem_cons_self⟩]
    split <;> rfl
  · rw [if_neg h]
    refine if_congr ?_ rfl rfl
    rw [List.mem_cons]
    tauto
theorem leases_revoked (pages : List Nat) (s : State) : (pages.foldl revokeLeases s).leases = s.leases.map (asked pages) := by
  induction pages generalizing s with
  | nil =>
    have hid : ∀ l, asked [] l = l := fun l => if_neg (by simp)
    exact ((List.map_congr_left fun l _ => hid l).trans (List.map_id _)).symm
  | cons p ps ih =>
    rw [List.foldl_cons, ih]
    unfold revokeLeases
    dsimp only
    rw [List.map_map]
    exact List.map_congr_left fun l _ => asked_cons p ps l
theorem revoking_askRanges {s : State} {ranges : List (Nat × Nat)} {l : Nat} {x : Lease}
    (hl : l ∈ ranges.flatMap fun r => rangeLines r.1 r.2) (hx : x ∈ (askRanges s ranges).leases) (hhome : x.isHome = true)
    (hpage : x.page = l / 512) : x.revoking = true := by
  unfold askRanges at hx
  rw [leases_revoked] at hx
  obtain ⟨y, -, rfl⟩ := List.mem_map.1 hx
  unfold asked at hhome hpage ⊢
  split
  · rfl
  next hnot =>
    rw [if_neg hnot] at hhome hpage
    exact absurd ⟨hhome, hpage ▸ List.mem_map.2 ⟨l, hl, rfl⟩⟩ hnot

theorem askRanges_frames (s : State) (l : List (Nat × Nat)) : (askRanges s l).posted = s.posted ∧ (askRanges s l).agenda = s.agenda ∧
    (askRanges s l).rows = s.rows ∧ (askRanges s l).mem = s.mem := by
  rw [askRanges_eq]
  exact ⟨rfl, rfl, rfl, rfl⟩

section
variable {s : State} {a : HostAccess}

theorem dropFirst_posted (h : postedOf s a.fn = []) : dropFirst (· == a) (s.posted ++ [a]) = s.posted := by
  unfold postedOf at h
  generalize s.posted = l at h ⊢
  induction l with
  | nil => simp [dropFirst]
  | cons x l ih =>
    rw [List.filter_cons] at h
    split at h
    · exact nomatch h
    next hx =>
      have hne : (x == a) = false := by
        rw [beq_eq_false_iff_ne]
        rintro rfl
        simp at hx
      rw [List.cons_append, dropFirst, hne, if_neg (by decide), ih h]
theorem postedOf_append (h : postedOf s a.fn = []) : postedOf { s with posted := s.posted ++ [a] } a.fn = [a] := by
  unfold postedOf at h ⊢
  dsimp only
  rw [List.filter_append, h]
  simp
/-- A posted write of a function that has none before it. -/
theorem hostPostedWrite_eq (h : postedOf s a.fn = []) : exec (.hostPostedWrite a) s = .next (
    if !rangesFree s 0x81 (hostRanges s a) then
      send (askRanges { s with posted := s.posted ++ [a] } (hostRanges s a)) (.hostPostedWrite a)
    else
      let u := hostWrite { s with posted := s.posted ++ [a] } a
      { u with posted := dropFirst (· == a) u.posted }) := by
  show execHostPostedWrite a s = _
  unfold execHostPostedWrite
  rw [h]
  dsimp only
  unfold postNext
  rw [postedOf_append h]
  rfl
theorem hostRanges_none (h : barPlace s a.fn a.bar = .none) : hostRanges s a = [] := by
  unfold hostRanges
  rw [h]
theorem hostRanges_regs {b : Nat} (h : barPlace s a.fn a.bar = .regs b) : hostRanges s a = [] := by
  unfold hostRanges
  rw [h]
theorem hostRanges_stack {q : Nat} (h : barPlace s a.fn a.bar = .stack q) :
    hostRanges s a = [(pbase (part s q) + a.off, inBar s q a)] := by
  unfold hostRanges
  rw [h]
theorem hostPostedWrite_none (h : postedOf s a.fn = []) (hbar : barPlace s a.fn a.bar = .none) :
    Runs (.hostPostedWrite a) s fun t => t = s := by
  refine runs_of_eq (hostPostedWrite_eq h) (if_neg (by rw [hostRanges_none hbar]; exact Bool.false_ne_true)) ?_
  have hwrite : hostWrite { s with posted := s.posted ++ [a] } a = { s with posted := s.posted ++ [a] } := by
    unfold hostWrite
    rw [show barPlace { s with posted := s.posted ++ [a] } a.fn a.bar = .none from hbar]
  dsimp only
  rw [hwrite]
  exact congrArg (fun l => { s with posted := l }) (dropFirst_posted h)
theorem dwordsIn_one {off : Nat} (h : off % 8 = 0) : dwordsIn off 8 = [(off, 0)] := by
  unfold dwordsIn
  dsimp only
  rw [show (off + 7) / 8 * 8 = off by omega, show (off + 8 - off) / 8 = 1 by omega]
  simp
theorem le8_dword {bs : List Byte} (h : bs.length = 8) : le8 bs 0 = leNat bs := by
  unfold le8
  rw [List.drop_zero, List.take_of_length_le (by omega)]
/-- A write of one dword of the registers. -/
theorem hostWrite_regs {b : Nat} (hbar : barPlace s a.fn a.bar = .regs b) (hal : a.off % 8 = 0)
    (hspan : a.off < regSpan b) (hlen : a.data.length = 8) : hostWrite s a = regWrite s (b + a.off) (w64 (leNat a.data)) := by
  have hreg : hostRegWrite s b a = regWrite s (b + a.off) (w64 (le8 a.data 0)) := by
    unfold hostRegWrite
    rw [hlen, dwordsIn_one hal, List.foldl_cons, List.foldl_nil]
    dsimp only
    rw [if_pos hspan]
  unfold hostWrite
  rw [hbar, ← le8_dword hlen]
  exact hreg
theorem hostPostedWrite_regs {b : Nat} (h : postedOf s a.fn = []) (hbar : barPlace s a.fn a.bar = .regs b) (hal : a.off % 8 = 0)
    (hspan : a.off < regSpan b) (hlen : a.data.length = 8) : Runs (.hostPostedWrite a) s fun t =>
    t = { regWrite { s with posted := s.posted ++ [a] } (b + a.off) (w64 (leNat a.data)) with posted := s.posted } := by
  refine runs_of_eq (hostPostedWrite_eq h) (if_neg (by rw [hostRanges_regs hbar]; exact Bool.false_ne_true)) ?_
  dsimp only
  rw [hostWrite_regs (s := { s with posted := s.posted ++ [a] }) hbar hal hspan hlen, posted_regWrite, dropFirst_posted h]
theorem hostPostedWrite_waits {q : Nat} (h : postedOf s a.fn = []) (hbar : barPlace s a.fn a.bar = .stack q)
    (hfree : rangesFree s 0x81 [(pbase (part s q) + a.off, inBar s q a)] = false) : Runs (.hostPostedWrite a) s fun t =>
    t.posted = s.posted ++ [a] ∧ t.agenda = s.agenda ++ [.hostPostedWrite a] ∧ t.rows = s.rows ∧ t.mem = s.mem ∧
    ∀ l ∈ rangeLines (pbase (part s q) + a.off) (inBar s q a), ∀ x ∈ t.leases, x.isHome = true → x.page = l / 512 →
      x.revoking = true := by
  have hwait : (!rangesFree s 0x81 (hostRanges s a)) = true := by rw [hostRanges_stack hbar, hfree]; rfl
  refine runs_of_eq (hostPostedWrite_eq h) (if_pos hwait) ?_
  rw [hostRanges_stack hbar]
  obtain ⟨hposted, hagenda, hrows, hmem⟩ := askRanges_frames { s with posted := s.posted ++ [a] } [(pbase (part s q) + a.off, inBar s q a)]
  refine ⟨(send_posted ..).trans hposted, congrArg (· ++ [Msg.hostPostedWrite a]) hagenda, (send_rows ..).trans hrows,
    (send_mem ..).trans hmem, fun l hl x hx => ?_⟩
  rw [send_leases] at hx
  exact revoking_askRanges (List.mem_flatMap.2 ⟨(pbase (part s q) + a.off, inBar s q a), List.mem_singleton_self _, hl⟩) hx

theorem hostPostedWrite_stack {q : Nat} (h : postedOf s a.fn = []) (hbar : barPlace s a.fn a.bar = .stack q) (hcanon : MemoryCanonical s)
    (hone : OneBlock (pbase (part s q) + a.off) (inBar s q a)) (hopen : LineOpen s (lineOf (pbase (part s q) + a.off)))
    (htier : inTier (part s q) (pbase (part s q) + a.off) = false)
    (hkey : inBar s q a = 64 ∨ (block s (pbase (part s q) + a.off)).key.toNat = keyA s q) : Runs (.hostPostedWrite a) s fun t =>
    memBytes t.mem (pbase (part s q) + a.off) (inBar s q a) = a.data.take (inBar s q a) ∧ t.posted = s.posted ∧ t.rows = s.rows := by
  have hfree : rangesFree s 0x81 (hostRanges s a) = true := by rw [hostRanges_stack hbar]; exact rangesFree_of_open 0x81 hone hopen
  have hlen : (a.data.take (inBar s q a)).length = inBar s q a := by
    rw [List.length_take]
    exact min_eq_left (min_le_left ..)
  have hwrite : hostWrite { s with posted := s.posted ++ [a] } a = hubWrite { s with posted := s.posted ++ [a] } q 0x81
      (pbase (part s q) + a.off) (a.data.take (inBar s q a)) (keyA s q) := by
    unfold hostWrite
    rw [show barPlace { s with posted := s.posted ++ [a] } a.fn a.bar = .stack q from hbar]
    rfl
  refine runs_of_eq (hostPostedWrite_eq h) (if_neg (by rw [hfree]; decide)) ?_
  dsimp only
  rw [hwrite]
  obtain ⟨k, honly, hbytes, -⟩ := hubWrite_oneBlock (s := { s with posted := s.posted ++ [a] }) (q := q) (key := keyA s q) 0x81
    (hlen.symm ▸ hone) hcanon.1 ⟨hopen.1.owned, hopen.1.eng, hopen.1.kept, hopen.1.lent, hopen.1.idle⟩ htier (hlen.symm ▸ hkey)
  rw [hlen] at hbytes
  generalize hubWrite _ q 0x81 _ _ _ = u at honly hbytes ⊢
  refine ⟨hbytes, ?_, honly.rows.trans rfl⟩
  have hposted : u.posted = s.posted ++ [a] := (congrArg State.posted honly.1).trans rfl
  rw [hposted, dropFirst_posted h]

end

end Sys2Proof.Machine
end

section
/-!
PROOF. O58, the host port: reads of a function (R61, R66, R444).
-/

namespace Sys2Proof.Machine

/-! ### Bytes that a unit of the hub die reads -/

theorem wordBytes_length (w : W32) : (wordBytes w).length = 4 := rfl
theorem flatMap_length {α β : Type} {n : Nat} {f : α → List β} (hf : ∀ x, (f x).length = n) (l : List α) :
    (l.flatMap f).length = n * l.length := by
  induction l with
  | nil => rfl
  | cons x l ih =>
    rw [List.flatMap_cons, List.length_append, hf, ih, List.length_cons, Nat.mul_succ, Nat.add_comm]
theorem readNow_length (s : State) (pa n : Nat) : (readNow s pa n).length = n := by
  unfold readNow
  dsimp only
  rw [List.length_take, List.length_drop, flatMap_length (n := 4) fun i => wordBytes_length _, List.length_range]
  omega
/-- The state in which a read of the hub die has checked its blocks and logged those that it may not decrypt. -/
def checkedForRead (s : State) (q agent pa n : Nat) : State := logKeys (checkBlocks s q pa n) q agent pa n (keyA s q)
theorem barRead_fst (s : State) (q agent pa n : Nat) :
    (barRead s q agent pa n).1 = { checkedForRead s q agent pa n with count := (checkedForRead s q agent pa n).count + n } := rfl
theorem barRead_length (s : State) (q agent pa n : Nat) : (barRead s q agent pa n).2.length = n := by
  unfold barRead
  dsimp only
  rw [List.length_map, List.length_zipIdx, readNow_length]
/-- The key slot of a partition, as its definition names it. -/
def keyView (q : Nat) (s : State) : Nat := keyA s q
theorem blind_keyView (q : Nat) : Blind (keyView q) where
  inner := by intros; rfl
  fills := by intros; rfl
  trace s k x := part_trcTail (f := fun p => bits p.pdef1 0 6) (fun _ _ => rfl) s q k x
theorem keyA_checkedForRead (s : State) (q agent pa n : Nat) : keyA (checkedForRead s q agent pa n) q = keyA s q :=
  ((blind_keyView q).logKeys ..).trans ((blind_keyView q).checkBlocks ..)
/-- A byte of a block that is not delivered bad is what memory holds (R66). -/
theorem barRead_byte (s : State) (q agent pa : Nat) {n i : Nat} (hi : i < n)
    (hgood : delivery (checkedForRead s q agent pa n) (pa + i) (keyA s q) = 0) :
    nth (barRead s q agent pa n).2 i 0 = nth (readNow (checkedForRead s q agent pa n) pa n) i 0 := by
  have hkey := keyA_checkedForRead s q agent pa n
  unfold barRead
  unfold checkedForRead at hgood hkey ⊢
  dsimp only
  generalize logKeys (checkBlocks s q pa n) q agent pa n (keyA s q) = u at hgood hkey ⊢
  have hlen := readNow_length u pa n
  rw [nth_eq_getElem _ _ _ (by simpa [hlen] using hi), nth_eq_getElem _ _ _ (by rw [hlen]; exact hi), List.getElem_map,
    List.getElem_zipIdx]
  dsimp only
  unfold barByte
  rw [hkey, Nat.zero_add, if_pos hgood]

/-! ### Reads of the host port -/

section
variable {s : State} {a : HostAccess}

theorem hostBarRead_behind (h : postedOf s a.fn ≠ []) : Runs (.hostBarRead a) s fun t =>
    t = { s with agenda := s.agenda ++ [.hostBarRead a] } :=
  runs_of_eq rfl (if_pos (by simpa using h)) rfl
/-- The read has been answered with bytes. -/
def readAnswered (s : State) (a : HostAccess) (bs : List Byte) : State := { s with reads := s.reads ++ [(a, bs)] }
theorem exec_hostBarRead_none (h : postedOf s a.fn = []) (hbar : barPlace s a.fn a.bar = .none) :
    exec (.hostBarRead a) s = .next (readAnswered s a (onesBytes a.data.length)) := by
  show execHostBarRead a s = _
  unfold execHostBarRead
  rw [h, hbar] <;> rfl
theorem exec_hostBarRead_regs {b : Nat} (h : postedOf s a.fn = []) (hbar : barPlace s a.fn a.bar = .regs b) :
    exec (.hostBarRead a) s =
      .next (readAnswered (hostRegRead s b a.off a.data.length).1 a (hostRegRead s b a.off a.data.length).2) := by
  show execHostBarRead a s = _
  unfold execHostBarRead
  rw [h, hbar] <;> rfl
/-- The answer to a read of stack memory, from the bytes that the hub die has read. -/
def stackAnswer (a : HostAccess) (k : Nat) (r : State × List Byte) : State :=
  readAnswered r.1 a (r.2 ++ onesBytes (a.data.length - k))
theorem exec_hostBarRead_stack {q : Nat} (h : postedOf s a.fn = []) (hbar : barPlace s a.fn a.bar = .stack q) :
    exec (.hostBarRead a) s = .next (
      if !linesQuiet s 0x81 [(pbase (part s q) + a.off, inBar s q a)] then send s (.hostBarRead a)
      else stackAnswer a (inBar s q a) (barRead s q 0x81 (pbase (part s q) + a.off) (inBar s q a))) := by
  show execHostBarRead a s = _
  unfold execHostBarRead stackAnswer
  rw [h, hbar]
  refine congrArg Host.Outcome.next ((if_neg (by decide)).trans (if_congr Iff.rfl rfl ?_))
  generalize barRead s q 0x81 (pbase (part s q) + a.off) (inBar s q a) = r
  rfl
theorem hostBarRead_none (h : postedOf s a.fn = []) (hbar : barPlace s a.fn a.bar = .none) : Runs (.hostBarRead a) s fun t =>
    t = { s with reads := s.reads ++ [(a, onesBytes a.data.length)] } := by
  exact runs_of_eq (exec_hostBarRead_none h hbar) rfl rfl
/-- A read of one dword of the registers. -/
theorem hostRegRead_one (s : State) {b off : Nat} (hal : off % 8 = 0) (hspan : off < regSpan b) :
    hostRegRead s b off 8 = ((regRead s (b + off)).1, leBytes 8 (regRead s (b + off)).2.toNat) := by
  unfold hostRegRead
  rw [hal, show List.range ((0 + 8 + 7) / 8) = [0] from rfl, List.foldl_cons, List.foldl_nil,
    show off / 8 * 8 + 8 * 0 = off by omega]
  dsimp only
  rw [if_pos hspan]
  dsimp only
  rw [List.nil_append, List.drop_zero, List.take_of_length_le (by rw [leBytes_length])]
theorem hostBarRead_regs {b : Nat} (h : postedOf s a.fn = []) (hbar : barPlace s a.fn a.bar = .regs b) (hal : a.off % 8 = 0)
    (hspan : a.off < regSpan b) (hlen : a.data.length = 8) : Runs (.hostBarRead a) s fun t =>
    t.reads = s.reads ++ [(a, leBytes 8 (regRead s (b + a.off)).2.toNat)] ∧ t.rows = s.rows := by
  refine runs_of_eq (exec_hostBarRead_regs h hbar) rfl ?_
  rw [hlen, hostRegRead_one s hal hspan]
  have hview := readsView_regRead s (b + a.off)
  exact ⟨congrArg (· ++ _) (congrArg Prod.snd hview), congrArg Prod.fst hview⟩
theorem stackAnswer_frames {r : State × List Byte} {u : State} {k n : Nat} (h : r.1 = { u with count := u.count + n }) :
    (stackAnswer a k r).reads = u.reads ++ [(a, r.2 ++ onesBytes (a.data.length - k))] ∧ (stackAnswer a k r).rows = u.rows ∧
      (stackAnswer a k r).mem = u.mem := by
  unfold stackAnswer readAnswered
  rw [h]
  exact ⟨rfl, rfl, rfl⟩
theorem hostBarRead_stack {q pa n : Nat} {u : State} (h : postedOf s a.fn = []) (hbar : barPlace s a.fn a.bar = .stack q)
    (hpa : pbase (part s q) + a.off = pa) (hn : inBar s q a = n) (hu : checkedForRead s q 0x81 pa n = u)
    (hfree : linesQuiet s 0x81 [(pa, n)] = true) : Runs (.hostBarRead a) s fun t => ∃ bs,
      t.reads = u.reads ++ [(a, bs ++ onesBytes (a.data.length - n))] ∧ bs.length = n ∧ t.rows = u.rows ∧ t.mem = u.mem ∧
      ∀ i, i < n → delivery u (pa + i) (keyA s q) = 0 → nth bs i 0 = nth (readNow u pa n) i 0 := by
  have hexec := exec_hostBarRead_stack h hbar
  have hbytes {i : Nat} (hi : i < n) := barRead_byte s q 0x81 pa hi
  have hlen := barRead_length s q 0x81 pa n
  have hstate := barRead_fst s q 0x81 pa n
  rw [hpa, hn, hfree] at hexec
  rw [hu] at hstate hbytes
  generalize barRead s q 0x81 pa n = r at hexec hbytes hlen hstate
  obtain ⟨hreads, hrows, hmem⟩ := stackAnswer_frames (a := a) (k := n) hstate
  exact runs_of_eq hexec rfl ⟨r.2, hreads, hlen, hrows, hmem, fun i hi hgood => hbytes hi hgood⟩
theorem hostBarRead_held {q : Nat} (h : postedOf s a.fn = []) (hbar : barPlace s a.fn a.bar = .stack q)
    (hfree : linesQuiet s 0x81 [(pbase (part s q) + a.off, inBar s q a)] = false) : Runs (.hostBarRead a) s fun t =>
      t = { s with agenda := s.agenda ++ [.hostBarRead a] } := by
  have hexec := exec_hostBarRead_stack h hbar
  rw [hfree] at hexec
  exact runs_of_eq hexec rfl rfl

end

end Sys2Proof.Machine
end

section
/-!
SUPPORT. What the hub die reads does not depend on the registers of a submission queue (R450): each operation of such a read yields the
same whether the queue's registers are set before it or after it. The operations stand in the order of the model.
-/

namespace Sys2Proof.Machine

/-! ### Keys set in either order -/

theorem mapSet_comm {α : Type} (m : NMap α) {j k : Nat} (v w : α) (h : j ≠ k) :
    mapSet (mapSet m j v) k w = mapSet (mapSet m k w) j v := by
  induction m with
  | nil =>
    simp only [mapSet]
    grind
  | cons y m ih =>
    obtain ⟨i, z⟩ := y
    simp only [mapSet]
    grind [mapSet]

section
variable (s : State) (q k : Nat) (x : StorQ)

/-- A partition's registers, but for its submission queues, when one of them is set. -/
theorem part_setStor (j : Nat) : ∃ l, part (setStor s q k x) j = { part s j with stor := l } := by
  unfold setStor
  rw [part_setPart]
  split
  next h => rw [h]; exact ⟨_, rfl⟩
  next => exact ⟨(part s j).stor, rfl⟩

theorem part_setStor_self : part (setStor s q k x) q = { part s q with stor := setNth (part s q).stor k x } := part_setPart_self ..
theorem settle_setStor (pa : Nat) : settle (setStor s q k x) pa = setStor (settle s pa) q k x := rfl
theorem ownStore_setStor (pa : Nat) (data : List Byte) : ownStore (setStor s q k x) pa data = setStor (ownStore s pa data) q k x := by
  unfold ownStore
  rw [settle_setStor, settle_setStor]
  rfl
theorem setMemWord_setStor (pa : Nat) (v : Word) : setMemWord (setStor s q k x) pa v = setStor (setMemWord s pa v) q k x :=
  ownStore_setStor ..
theorem part_setMemWord (s : State) (pa : Nat) (v : Word) (j : Nat) : part (setMemWord s pa v) j = part s j := rfl
theorem setPart_comm (s : State) {i j : Nat} (a b : Part) (h : i ≠ j) : setPart (setPart s i a) j b = setPart (setPart s j b) i a :=
  congrArg (fun m => { s with parts := m }) (mapSet_comm s.parts a b h)
theorem traceRec_setStor (j : Nat) (a b : Word) : traceRec (setStor s q k x) j a b = setStor (traceRec s j a b) q k x := by
  obtain ⟨l, hl⟩ := part_setStor s q k x j
  by_cases hlogn : bits (part s j).trcCtl 0 4 = 0
  · rw [show traceRec s j a b = s from if_pos hlogn]
    exact if_pos (by rw [hl]; exact hlogn)
  · rw [traceRec_on a b hlogn, traceRec_on a b (by rw [hl]; exact hlogn)]
    have hplace : tracePlace (part (setStor s q k x) j) = tracePlace (part s j) := by rw [hl]; rfl
    rw [hplace, setMemWord_setStor, setMemWord_setStor]
    have hparts (i : Nat) : part (setMemWord (setMemWord s (tracePlace (part s j)) a) (tracePlace (part s j) + 8) b) i = part s i := by
      rw [part_setMemWord, part_setMemWord]
    generalize setMemWord (setMemWord s (tracePlace (part s j)) a) (tracePlace (part s j) + 8) b = u at hparts ⊢
    by_cases h : j = q
    · subst h
      rw [part_setStor_self]
      unfold setStor
      rw [setPart_setPart, setPart_setPart, part_setPart_self]
    · have hpart : part (setStor s q k x) j = part s j := (part_setPart ..).trans (if_neg h)
      rw [hpart]
      unfold setStor
      rw [setPart_comm _ _ _ (Ne.symm h), part_setPart, if_neg (Ne.symm h)]
theorem setStor_ite (c : Prop) [Decidable c] (a b : State) :
    setStor (if c then a else b) q k x = if c then setStor a q k x else setStor b q k x := by split <;> rfl

/-! ### Rows and their places -/

theorem locWord_setStor (l : Loc) (n : Nat) : locWord (setStor s q k x) l n = locWord s l n := by
  cases l with
  | none => rfl
  | bank pr => rfl
  | cellar pa => exact memWord_setPart ..
theorem rowEntry_setStor (r : RowId) : rowEntry (setStor s q k x) r = rowEntry s r := by
  unfold rowEntry
  exact (congrArg (memWord (setStor s q k x)) (entryAddr_setPart (p := { part s q with stor := setNth (part s q).stor k x }) rfl r)).trans
    (memWord_setPart ..)
theorem locate_setStor (r : RowId) : locate (setStor s q k x) r = locate s r := by
  obtain ⟨l, hl⟩ := part_setStor s q k x r.part
  unfold locate isLive
  rw [rowEntry_setStor, hl]
  rfl
theorem setLocWord_setStor (l : Loc) (n : Nat) (v : Word) : setLocWord (setStor s q k x) l n v = setStor (setLocWord s l n v) q k x := by
  cases l with
  | none => rfl
  | bank pr => rfl
  | cellar pa => exact setMemWord_setStor ..
theorem setLocBits_setStor (l : Loc) (n lo w v : Nat) :
    setLocBits (setStor s q k x) l n lo w v = setStor (setLocBits s l n lo w v) q k x := by
  unfold setLocBits
  rw [locWord_setStor, setLocWord_setStor]
theorem setExec_setStor (e : Nat) (y : Exec) : setExec (setStor s q k x) e y = setStor (setExec s e y) q k x := rfl
theorem setRowWord_setStor (pr n : Nat) (v : Word) : setRowWord (setStor s q k x) pr n v = setStor (setRowWord s pr n v) q k x := rfl
theorem draw_setStor (use : Nat) : draw (setStor s q k x) use = (setStor (draw s use).1 q k x, (draw s use).2) := rfl
theorem rowWord_setStor (pr n : Nat) : rowWord (setStor s q k x) pr n = rowWord s pr n := rfl
theorem rowId_setStor (pr : Nat) : rowId (setStor s q k x) pr = rowId s pr := rfl
theorem trcCtl_setStor (j : Nat) : (part (setStor s q k x) j).trcCtl = (part s j).trcCtl := by
  obtain ⟨l, hl⟩ := part_setStor s q k x j
  rw [hl]
theorem recordSlice_setStor (j pa : Nat) : recordSlice (setStor s q k x) j pa = recordSlice s j pa := by
  obtain ⟨l, hl⟩ := part_setStor s q k x j
  unfold recordSlice
  rw [hl]
  rfl
theorem traceState_setStor (pr st : Nat) : traceState (setStor s q k x) pr st = setStor (traceState s pr st) q k x := by
  unfold traceState
  dsimp only
  rw [setStor_ite, rowId_setStor, trcCtl_setStor]
  exact if_congr Iff.rfl (traceRec_setStor (s := setExec s _ _) ..) rfl
theorem traceCoh_setStor (j event scope agent pa : Nat) :
    traceCoh (setStor s q k x) j event scope agent pa = setStor (traceCoh s j event scope agent pa) q k x := by
  unfold traceCoh
  rw [setStor_ite, trcCtl_setStor, draw_setStor]
  dsimp only
  rw [recordSlice_setStor, traceRec_setStor]
theorem setRowState_setStor (pr st : Nat) : setRowState (setStor s q k x) pr st = setStor (setRowState s pr st) q k x := by
  unfold setRowState
  rw [rowWord_setStor, setRowWord_setStor, traceState_setStor]
theorem makeReady_setStor (pr : Nat) : makeReady (setStor s q k x) pr = setStor (makeReady s pr) q k x := by
  unfold makeReady
  dsimp only
  rw [setRowState_setStor, setStor_ite]
  generalize setRowState s pr stReady = u
  rfl
theorem recount_setStor (l : Loc) : recount (setStor s q k x) l = setStor (recount s l) q k x := by
  have hbusy : busySlots (setStor s q k x) l = busySlots s l := by
    unfold busySlots slotState slotWord
    simp only [locWord_setStor]
  unfold recount
  rw [hbusy, setLocBits_setStor]
theorem setSlotState_setStor (l : Loc) (i st : Nat) : setSlotState (setStor s q k x) l i st = setStor (setSlotState s l i st) q k x := by
  unfold setSlotState
  rw [setLocBits_setStor, recount_setStor]
theorem locId_setStor (l : Loc) : locId (setStor s q k x) l = locId s l := by
  unfold locId
  rw [locWord_setStor]
theorem locState_setStor (l : Loc) : locState (setStor s q k x) l = locState s l := by
  unfold locState
  rw [locWord_setStor]
theorem dropOpRec_setStor (r : RowId) (i : Nat) : dropOpRec (setStor s q k x) r i = setStor (dropOpRec s r i) q k x := rfl
theorem setOpRec_setStor (o : OpRec) : setOpRec (setStor s q k x) o = setStor (setOpRec s o) q k x := rfl
theorem clearSlot_setStor (l : Loc) (i : Nat) : clearSlot (setStor s q k x) l i = setStor (clearSlot s l i) q k x := by
  unfold clearSlot
  rw [setSlotState_setStor, locId_setStor, dropOpRec_setStor]

/-! ### Blocks that are checked (R61) -/

theorem foldl_setStor {β : Type} {f : State → β → State} (h : ∀ s y, f (setStor s q k x) y = setStor (f s y) q k x) (l : List β) (s : State) :
    l.foldl f (setStor s q k x) = setStor (l.foldl f s) q k x := by
  induction l generalizing s with
  | nil => rfl
  | cons y l ih => rw [List.foldl_cons, List.foldl_cons, h, ih]
theorem stackFound_setStor (j pa : Nat) (e : EccFound) (wrong : List Byte) :
    stackFound (setStor s q k x) j pa e wrong = setStor (stackFound s j pa e wrong) q k x := by
  obtain ⟨l, hl⟩ := part_setStor s q k x j
  unfold stackFound
  rw [hl]
  rfl
theorem stackCheck_setStor (j pa : Nat) : stackCheck (setStor s q k x) j pa = setStor (stackCheck s j pa) q k x :=
  stackFound_setStor { s with count := s.count + 9 } q k x ..
theorem checkRange_setStor (j pa n : Nat) : checkRange (setStor s q k x) j pa n = setStor (checkRange s j pa n) q k x := by
  refine foldl_setStor q k x (fun s i => ?_) _ s
  dsimp only
  rw [setStor_ite, stackCheck_setStor]
  rfl

/-! ### Watches and keepers -/

theorem endWatch_setStor (r : RowId) (i : Nat) : endWatch (setStor s q k x) r i = setStor (endWatch s r i) q k x := by
  unfold endWatch
  rw [locate_setStor]
  dsimp only
  rw [setLocWord_setStor, clearSlot_setStor]
  generalize clearSlot (setLocWord s (locate s r) 14 0) (locate s r) i = u
  rw [locWord_setStor, locState_setStor, setStor_ite, setLocWord_setStor]
  refine if_congr Iff.rfl rfl ?_
  cases locate s r with
  | none => rfl
  | bank pr =>
    dsimp only
    rw [setStor_ite, setRowWord_setStor, makeReady_setStor]
  | cellar pa => rfl
theorem wakeWatch_setStor (r : RowId) (i : Nat) : wakeWatch (setStor s q k x) r i = setStor (wakeWatch s r i) q k x := by
  unfold wakeWatch
  rw [show opRec (setStor s q k x) r i = opRec s r i from rfl]
  cases opRec s r i with
  | none => exact endWatch_setStor ..
  | some o =>
    dsimp only
    rw [setStor_ite, setOpRec_setStor, endWatch_setStor]
theorem setCluster_setStor (c : Nat) (y : Cluster) : setCluster (setStor s q k x) c y = setStor (setCluster s c y) q k x := rfl
theorem wakeWatchers_setStor (agent line : Nat) (mask : BitVec 32) :
    wakeWatchers (setStor s q k x) agent line mask = setStor (wakeWatchers s agent line mask) q k x := by
  unfold wakeWatchers
  dsimp only
  rw [setCluster_setStor]
  exact foldl_setStor q k x (fun s y => wakeWatch_setStor s q k x y.1 y.2.1) _ _
theorem invalidateAt_setStor (agent line : Nat) (mask : BitVec 32) (replace : Bool) :
    (invalidateAt (setStor s q k x) agent line mask replace).1 = setStor (invalidateAt s agent line mask replace).1 q k x := by
  unfold invalidateAt
  dsimp only
  rw [wakeWatchers_setStor, setStor_ite]
  rfl
theorem invalidateOnce_setStor (agent line : Nat) (mask : BitVec 32) (replace : Bool) :
    (invalidateOnce (setStor s q k x) agent line mask replace).1 = setStor (invalidateOnce s agent line mask replace).1 q k x := by
  unfold invalidateOnce
  dsimp only
  split
  · exact invalidateAt_setStor { s with misses := _ } q k x ..
  · exact invalidateAt_setStor s q k x ..
theorem replaceKeepers_setStor (j line : Nat) : replaceKeepers (setStor s q k x) j line = setStor (replaceKeepers s j line) q k x := by
  have hkeepers (e : KeepEntry) (page : Nat) : keepersOf (setStor s q k x) j e page = keepersOf s j e page := by
    obtain ⟨l, hl⟩ := part_setStor s q k x j
    unfold keepersOf
    rw [hl]
    rfl
  unfold replaceKeepers
  dsimp only
  rw [hkeepers, foldl_setStor q k x (fun s y => invalidateOnce_setStor s q k x y line 0 true)]
  rfl

/-! ### Sectors that are fetched (R71), and what the hub die reads -/

theorem fillUnit_setStor (j unit tag : Nat) : fillUnit (setStor s q k x) j unit tag = setStor (fillUnit s j unit tag) q k x := by
  obtain ⟨l, hl⟩ := part_setStor s q k x j
  unfold fillUnit
  dsimp only
  rw [hl]
  have hfold (f : State → Nat → State) (h : ∀ s i, f (setStor s q k x) i = setStor (f s i) q k x) (u v : State) (huv : u = setStor v q k x) :
      (List.range 32).foldl f u = setStor ((List.range 32).foldl f v) q k x := by
    rw [huv, foldl_setStor q k x h]
  refine hfold _ (fun s i => ?_) _ _ ?_
  · rw [draw_setStor]
    dsimp only
    rw [show (draw s 0x68).1 = { s with count := s.count + 1 } from rfl]
    generalize ({ s with count := s.count + 1 } : State) = v
    generalize (draw s 0x68).2 = w
    split <;> rfl
  · rw [setStor_ite]
    refine if_congr Iff.rfl ?_ rfl
    exact foldl_setStor q k x (fun s i => replaceKeepers_setStor s q k x j _) _ s
theorem tierEnsure_setStor (j pa : Nat) : tierEnsure (setStor s q k x) j pa = setStor (tierEnsure s j pa) q k x := by
  obtain ⟨l, hl⟩ := part_setStor s q k x j
  unfold tierEnsure
  dsimp only
  rw [setStor_ite, hl, fillUnit_setStor]
  rfl
theorem checkBlocks_setStor (j pa n : Nat) : checkBlocks (setStor s q k x) j pa n = setStor (checkBlocks s j pa n) q k x := by
  unfold checkBlocks
  dsimp only
  rw [foldl_setStor q k x (fun s u => tierEnsure_setStor s q k x j u), checkRange_setStor]
theorem logKeys_setStor (j agent pa n key : Nat) :
    logKeys (setStor s q k x) j agent pa n key = setStor (logKeys s j agent pa n key) q k x := by
  refine foldl_setStor q k x (fun s i => ?_) _ s
  dsimp only
  rw [setStor_ite, traceCoh_setStor]
  rfl
theorem keyA_setStor (j : Nat) : keyA (setStor s q k x) j = keyA s j := by
  obtain ⟨l, hl⟩ := part_setStor s q k x j
  unfold keyA
  rw [hl]
theorem readNow_setStor (pa n : Nat) : readNow (setStor s q k x) pa n = readNow s pa n := readNow_setPart ..
theorem barRead_setStor (j agent pa n : Nat) :
    barRead (setStor s q k x) j agent pa n = (setStor (barRead s j agent pa n).1 q k x, (barRead s j agent pa n).2) := by
  unfold barRead
  dsimp only
  rw [keyA_setStor, checkBlocks_setStor, logKeys_setStor]
  generalize logKeys (checkBlocks s j pa n) j agent pa n (keyA s j) = u
  rw [keyA_setStor, readNow_setStor]
  rfl
end

end Sys2Proof.Machine
end

section
/-!
PROOF. O58, the storage port: the ring of a submission queue (R450).
-/

namespace Sys2Proof.Machine

/-! ### What a command asks for, whatever its queue's registers are -/

section
variable (s : State) (q k : Nat) (x : StorQ)

theorem dwordNow_setStor (pa : Nat) : dwordNow (setStor s q k x) pa = dwordNow s pa := by
  unfold dwordNow
  rw [readNow_setStor]
theorem prpList_setStor (fuel a n : Nat) : prpList (setStor s q k x) fuel a n = prpList s fuel a n := by
  induction fuel generalizing a n with
  | zero => rfl
  | succ fuel ih =>
    unfold prpList
    simp only [dwordNow_setStor, ih]
theorem prpRanges_setStor (e : List Word) : prpRanges (setStor s q k x) e = prpRanges s e := by
  unfold prpRanges
  simp only [prpList_setStor]
theorem nvCheck_setStor (j : Nat) (e : List Word) : nvCheck (setStor s q k x) j e = nvCheck s j e := by
  obtain ⟨l, hl⟩ := part_setStor s q k x j
  unfold nvCheck
  dsimp only
  rw [prpRanges_setStor, hl]
  rfl

end

/-! ### The registers of a submission queue -/

/-- How many submission queues a partition has. -/
def storCount (q : Nat) (s : State) : Nat := (part s q).stor.length
theorem blind_storCount (q : Nat) : Blind (storCount q) where
  inner := by intros; rfl
  fills := by intros; rfl
  trace s k x := part_trcTail (f := fun p => p.stor.length) (fun _ _ => rfl) s q k x
theorem blind_stor (q k : Nat) : Blind fun s => stor s q k where
  inner := by intros; rfl
  fills := by intros; rfl
  trace s j x := part_trcTail (f := fun p => nth p.stor k StorQ.init) (fun _ _ => rfl) s q j x
theorem blind_copyNext : Blind State.copyNext where
  inner := by intros; rfl
  fills := by intros; rfl
  trace := by intros; rfl

theorem length_setNth {α : Type} (l : List α) (k : Nat) (v : α) : (setNth l k v).length = l.length := by
  induction l generalizing k with
  | nil => rfl
  | cons y l ih =>
    cases k with
    | zero => rfl
    | succ k => exact congrArg Nat.succ (ih k)
theorem nth_setNth {α : Type} (l : List α) {k : Nat} (v d : α) (h : k < l.length) : nth (setNth l k v) k d = v := by
  induction l generalizing k with
  | nil => exact absurd h (Nat.not_lt_zero k)
  | cons y l ih =>
    cases k with
    | zero => rfl
    | succ k => exact ih (Nat.lt_of_succ_lt_succ h)
theorem stor_setStor (s : State) {q k : Nat} (x : StorQ) (h : k < storCount q s) : stor (setStor s q k x) q k = x := by
  unfold stor
  rw [part_setStor_self]
  exact nth_setNth _ _ _ h
theorem storCount_setStor (s : State) (q k : Nat) (x : StorQ) : storCount q (setStor s q k x) = storCount q s := by
  unfold storCount
  rw [part_setStor_self]
  exact length_setNth ..

/-! ### A command that is fetched -/

/-- The entry at the head of a submission queue, and the state in which it has been read. -/
def fetched (s : State) (q k : Nat) : State × List Word :=
  let got := barRead s q 0x82 (sqPlace (stor s q k) 0) 64
  (got.1, dwords 8 got.2)
/-- The state in which the lists of a command's pages have been read, too. -/
def listsRead (s : State) (q : Nat) (e : List Word) : State :=
  (prpRanges s e).2.foldl (fun u r => logKeys (checkBlocks u q r.1 r.2) q 0x82 r.1 r.2 (keyA u q)) s
/-- The entry of a command as it is kept until its completion. -/
def openEntry (u : State) (q : Nat) (e : List Word) : List Word :=
  e ++ [w64 (if nvCheck u q e = 0 then 0 else nvCheck u q e + 1), w64 u.copyNext]
/-- The command stands in its queue's list of open ones. -/
def commandOpened (u : State) (q k : Nat) (x : StorQ) (e : List Word) : State :=
  setStor { u with copyNext := u.copyNext + 1 } q k { x with sqHead := x.sqHead + 1, open_ := x.open_ ++ [openEntry u q e] }
/-- The rest of a command's start: a refusal, or the registrations of the lines that it writes. -/
def commandGoes (u t : State) (q k : Nat) (e : List Word) : State :=
  if nvCheck u q e ≠ 0 then send t (.storageCompletion q k (nvCid e) (nvCheck u q e) [])
  else if nvOpcode e = 2 then
    sendAll t ((runLines (runsOfRanges (prpRanges t e).1)).map fun l => .registration (engReq storageEngine q u.copyNext l (keyA t q)))
  else t
theorem startCommand_eq (s : State) (q k : Nat) :
    let u := listsRead (fetched s q k).1 q (fetched s q k).2
    startCommand s q k = commandGoes u (commandOpened u q k (stor s q k) (fetched s q k).2) q k (fetched s q k).2 := rfl
theorem commandGoes_agenda (u t : State) (q k : Nat) (e : List Word) :
    ∃ l, commandGoes u t q k e = { t with agenda := t.agenda ++ l } ∧
      (nvCheck u q e ≠ 0 → Msg.storageCompletion q k (nvCid e) (nvCheck u q e) [] ∈ l) := by
  unfold commandGoes
  split
  next h => exact ⟨_, rfl, fun _ => List.mem_singleton_self _⟩
  next h =>
    split
    · exact ⟨_, rfl, fun hc => absurd hc h⟩
    · exact ⟨[], by rw [List.append_nil], fun hc => absurd hc h⟩
theorem listsRead_setStor (s : State) (q k : Nat) (x : StorQ) (e : List Word) :
    listsRead (setStor s q k x) q e = setStor (listsRead s q e) q k x := by
  unfold listsRead
  rw [prpRanges_setStor]
  refine foldl_setStor q k x (fun s r => ?_) _ s
  rw [checkBlocks_setStor, keyA_setStor, logKeys_setStor]
theorem Blind.listsRead {α : Type} {π : State → α} (hπ : Blind π) (s : State) (q : Nat) (e : List Word) : π (listsRead s q e) = π s := by
  refine foldl_view (fun s r => ?_) _ s
  exact (hπ.logKeys ..).trans (hπ.checkBlocks ..)
theorem Blind.setCount {α : Type} {π : State → α} (hπ : Blind π) (s : State) (n : Nat) : π { s with count := n } = π s := hπ.inner ..
theorem Blind.barRead {α : Type} {π : State → α} (hπ : Blind π) (s : State) (q agent pa n : Nat) : π (barRead s q agent pa n).1 = π s :=
  (hπ.setCount ..).trans ((hπ.logKeys ..).trans (hπ.checkBlocks ..))

theorem stor_commandOpened {u : State} {q k : Nat} (h : k < storCount q u) (x : StorQ) (e : List Word) :
    stor (commandOpened u q k x e) q k = { x with sqHead := x.sqHead + 1, open_ := x.open_ ++ [openEntry u q e] } :=
  stor_setStor { u with copyNext := u.copyNext + 1 } _ h
theorem storCount_commandOpened (u : State) (q k : Nat) (x : StorQ) (e : List Word) :
    storCount q (commandOpened u q k x e) = storCount q u := storCount_setStor { u with copyNext := u.copyNext + 1 } ..

/-! ### The ring of a submission queue -/

theorem foldl_range_one {α : Type} (f : α → Nat → α) (s : α) : (List.range 1).foldl f s = f s 0 := rfl

/-- A ring of a submission queue that announces `n` commands: which step it takes. -/
theorem exec_storageDoorbell {s : State} {q k n : Nat} {v : Word}
    (hn : ringDist (BitVec.ofNat 32 (bits v 0 32)) (stor s q k).sqHead (bits (stor s q k).nsq 0 4) = n) :
    exec (.storageDoorbell q k v) s = .next (
      if bits (stor s q k).nsq 0 4 ≠ bits (stor s q k).ncq 0 4 then setBadcfg (traceCoh s q 7 3 0x82 0) q
      else if bits (stor s q k).nsq 0 4 = 0 then s
      else if !entriesReady s q k n then sendAgain s (.storageDoorbell q k v)
      else
        let w := (List.range n).foldl (fun s _ => startCommand s q k)
          (setStor s q k { stor s q k with sqTail := BitVec.ofNat 32 (bits v 0 32) })
        setStor w q k { stor w q k with sqHead := BitVec.ofNat 32 (bits v 0 32) }) := by
  subst hn
  rfl

section
variable {s : State} {q k : Nat} (hk : k < storCount q s)
include hk

/-- One command is started, and the ring's head follows its tail. -/
theorem startOne (x : StorQ) (tail : W32) {a : Nat} (ha : sqPlace x 0 = a) :
    let got := barRead s q 0x82 a 64
    let e := dwords 8 got.2
    let u := (prpRanges got.1 e).2.foldl (fun u r => logKeys (checkBlocks u q r.1 r.2) q 0x82 r.1 r.2 (keyA u q)) got.1
    let v := startCommand (setStor s q k x) q k
    let t := setStor v q k { stor v q k with sqHead := tail }
    stor t q k = { x with sqHead := tail, open_ := x.open_ ++ [e ++ [w64 (if nvCheck u q e = 0 then 0 else nvCheck u q e + 1), w64 s.copyNext]] } ∧
      (nvCheck u q e ≠ 0 → Msg.storageCompletion q k (nvCid e) (nvCheck u q e) [] ∈ t.agenda) := by
  intro got e u v t
  have hfetched : fetched (setStor s q k x) q k = (setStor got.1 q k x, e) := by
    unfold fetched
    rw [stor_setStor s x hk, barRead_setStor, ha]
  have hlists : listsRead (setStor got.1 q k x) q e = setStor u q k x := listsRead_setStor got.1 q k x e
  have hv : v = commandGoes (setStor u q k x) (commandOpened (setStor u q k x) q k x e) q k e := by
    have := startCommand_eq (setStor s q k x) q k
    rw [hfetched, hlists, stor_setStor s x hk] at this
    exact this
  have hcopy : u.copyNext = s.copyNext := (blind_copyNext.listsRead ..).trans (blind_copyNext.barRead ..)
  have hcount : storCount q u = storCount q s := ((blind_storCount q).listsRead ..).trans ((blind_storCount q).barRead ..)
  have ht : t = setStor v q k { stor v q k with sqHead := tail } := rfl
  clear_value t v u e got
  obtain ⟨l, hgoes, hmsg⟩ := commandGoes_agenda (setStor u q k x) (commandOpened (setStor u q k x) q k x e) q k e
  rw [← hv] at hgoes
  have hopened := stor_commandOpened (u := setStor u q k x) (q := q) (k := k) (by rw [storCount_setStor, hcount]; exact hk) x e
  have hvstor : stor v q k = { x with sqHead := x.sqHead + 1, open_ := x.open_ ++ [openEntry (setStor u q k x) q e] } := by
    rw [hgoes]
    exact hopened
  have hvcount : k < storCount q v := by
    rw [hgoes]
    show k < storCount q (commandOpened (setStor u q k x) q k x e)
    rw [storCount_commandOpened, storCount_setStor, hcount]
    exact hk
  have hentry : openEntry (setStor u q k x) q e = e ++ [w64 (if nvCheck u q e = 0 then 0 else nvCheck u q e + 1), w64 s.copyNext] := by
    unfold openEntry
    rw [nvCheck_setStor, show (setStor u q k x).copyNext = u.copyNext from rfl, hcopy]
  refine ⟨?_, fun hc => ?_⟩
  · rw [ht, stor_setStor v _ hvcount, hvstor, hentry]
  · rw [ht]
    show _ ∈ v.agenda
    rw [hgoes]
    rw [nvCheck_setStor] at hmsg
    exact List.mem_append_right _ (hmsg hc)

/-- The clauses of O58 about the ring of a submission queue. -/
theorem storageDoorbell_clauses (v : Word) :
    let x := stor s q k
    let logn := bits x.nsq 0 4
    let tail := BitVec.ofNat 32 (bits v 0 32)
    (logn ≠ bits x.ncq 0 4 → Runs (.storageDoorbell q k v) s fun t => (part t q).badcfg = true ∧ stor t q k = x ∧
      t.agenda = s.agenda) ∧
    (logn = bits x.ncq 0 4 → logn = 0 → Runs (.storageDoorbell q k v) s fun t => t = s) ∧
    (logn = bits x.ncq 0 4 → logn ≠ 0 → entriesReady s q k (ringDist tail x.sqHead logn) = false →
        Runs (.storageDoorbell q k v) s fun t =>
      t = { s with agenda := .storageDoorbell q k v :: s.agenda }) ∧
    (logn = bits x.ncq 0 4 → logn ≠ 0 → ringDist tail x.sqHead logn = 1 → entriesReady s q k 1 = true →
      let got := barRead s q 0x82 (bits x.nsq 12 52 * 4096 + 64 * (x.sqHead.toNat % 2 ^ logn)) 64
      let e := dwords 8 got.2
      let u := (prpRanges got.1 e).2.foldl (fun u r => logKeys (checkBlocks u q r.1 r.2) q 0x82 r.1 r.2 (keyA u q)) got.1
      let st := nvCheck u q e
      Runs (.storageDoorbell q k v) s fun t => (stor t q k).sqTail = tail ∧ (stor t q k).sqHead = tail ∧
        (stor t q k).open_ = x.open_ ++ [e ++ [w64 (if st = 0 then 0 else st + 1), w64 s.copyNext]] ∧
        (st ≠ 0 → Msg.storageCompletion q k (nvCid e) st [] ∈ t.agenda)) := by
  intro x logn tail
  have hexec := exec_storageDoorbell (s := s) (q := q) (k := k) (v := v) rfl
  refine ⟨fun hne => runs_of_eq hexec (if_pos hne) ?_, fun heq hzero => runs_of_eq hexec ((if_neg (not_not.2 heq)).trans (if_pos hzero)) rfl,
    fun heq hnz hready => runs_of_eq hexec ((if_neg (not_not.2 heq)).trans ((if_neg hnz).trans (if_pos ?_))) rfl,
    fun heq hnz hdist hready => ?_⟩
  · refine ⟨congrArg Part.badcfg (part_setPart_self ..), ?_, (traceCoh_onlyTrace ..).agenda⟩
    unfold stor setBadcfg
    rw [part_setPart_self]
    exact (blind_stor q k).traceCoh ..
  · rw [show entriesReady s q k _ = false from hready]
    rfl
  · obtain ⟨hstor, hmsg⟩ := startOne hk { x with sqTail := tail } tail
      (a := bits x.nsq 12 52 * 4096 + 64 * (x.sqHead.toNat % 2 ^ logn)) (by simp only [sqPlace, Nat.add_zero, x, logn])
    refine runs_of_eq (exec_storageDoorbell hdist) ((if_neg (not_not.2 heq)).trans ((if_neg hnz).trans (if_neg ?_))) ?_
    · rw [hready]
      exact Bool.false_ne_true
    · rw [foldl_range_one]
      exact ⟨congrArg StorQ.sqTail hstor, congrArg StorQ.sqHead hstor, congrArg StorQ.open_ hstor, hmsg⟩

end

end Sys2Proof.Machine
end

section
/-!
PROOF. O58, the storage port: a completion (R450).
-/

namespace Sys2Proof.Machine

/-- The open command of a queue that a completion names. -/
def namedOpen (x : StorQ) (cid status : Nat) : Option (List Word) :=
  x.open_.find? fun e => nvCid e == cid && (nth e 8 0 == 0 || (nth e 8 0).toNat == status + 1)

/-- The entry that a completion writes (R450). -/
def completionEntry (x : StorQ) (k cid status : Nat) : List Byte :=
  leBytes 8 0 ++ leBytes 2 (x.sqHead.toNat % 2 ^ bits x.ncq 0 4) ++ leBytes 2 (k + 1) ++ leBytes 2 cid ++
    leBytes 2 (num x.phase + 2 * status)
theorem oneBlock_cqPlace (x : StorQ) : OneBlock (cqPlace x) 16 := by
  unfold OneBlock cqPlace
  omega

section
variable {s : State} {q k cid status : Nat}

theorem completion_none {data : List Byte} (h : namedOpen (stor s q k) cid status = none) :
    Runs (.storageCompletion q k cid status data) s fun t => t = s := by
  unfold namedOpen at h
  refine runs_of_eq (t := s) ?_ rfl rfl
  show execStorageCompletion q k cid status data s = _
  unfold execStorageCompletion
  dsimp only
  rw [h]

variable {e : List Word} (h : namedOpen (stor s q k) cid status = some e) (hok : nth e 8 0 = 0)
include h hok

theorem completion_noRoom {data : List Byte} (hroom : cqRoom (stor s q k) = false) :
    Runs (.storageCompletion q k cid status data) s fun t => t = s := by
  have hfailed : (nth e 8 0 != 0) = false := by rw [hok]; rfl
  have hready : completionReady s q k e = false := by
    unfold completionReady
    rw [hroom, Bool.false_and]
  unfold namedOpen at h
  refine runs_of_eq (t := s) ?_ rfl rfl
  show execStorageCompletion q k cid status data s = _
  unfold execStorageCompletion
  dsimp only
  rw [h]
  dsimp only
  rw [hready, hfailed]
  rfl

variable (hop : nvOpcode e ≠ 2)
include hop

/-- A completion, without data, of a command that does not read: which step it takes. -/
theorem exec_completion : exec (.storageCompletion q k cid status []) s = .next (
    if cqRoom (stor s q k) = false then s
    else whenFree s 0x82 [(cqPlace (stor s q k), 16)] (.storageCompletion q k cid status []) fun s' =>
      writeCompletion (setStor s' q k { stor s q k with open_ := dropFirst (· == e) (stor s q k).open_ }) q k cid (status % 2 ^ 15)) := by
  have hfailed : (nth e 8 0 != 0) = false := by rw [hok]; rfl
  have hwrites : (nvOpcode e != 2) = true := bne_iff_ne.2 hop
  have hready : completionReady s q k e = cqRoom (stor s q k) := by
    unfold completionReady
    rw [hwrites, Bool.or_true, Bool.true_or, Bool.and_true]
  have hreads : (nvOpcode e = 2) = False := eq_false hop
  unfold namedOpen at h
  show execStorageCompletion q k cid status [] s = _
  unfold execStorageCompletion
  dsimp only
  rw [h]
  dsimp only
  rw [hready, hfailed]
  cases cqRoom (stor s q k) <;> simp [hop, completionRanges]
theorem completion_waits (hroom : cqRoom (stor s q k) = true)
    (hfree : rangesFree s 0x82 [(cqPlace (stor s q k), 16)] = false) : Runs (.storageCompletion q k cid status []) s fun t =>
    t = { askRanges s [(cqPlace (stor s q k), 16)] with agenda := .storageCompletion q k cid status [] :: s.agenda } := by
  refine runs_of_eq (exec_completion h hok hop) ((if_neg (by rw [hroom]; decide)).trans (if_neg (by rw [hfree]; decide))) ?_
  unfold sendAgain
  rw [(askRanges_frames ..).2.1]

end

section
variable {s : State} {q k : Nat} (hk : k < storCount q s)
include hk

/-- A completion is written into a line that is free. -/
theorem writeCompletion_stack {x : StorQ} (hx : stor s q k = x) (cid status : Nat) (hwf : s.mem.wf = true)
    (hquiet : LineQuiet s (lineOf (cqPlace x))) (htier : inTier (part s q) (cqPlace x) = false)
    (hkey : (block s (cqPlace x)).key.toNat = keyA s q) :
    let t := writeCompletion s q k cid status
    memBytes t.mem (cqPlace x) 16 = completionEntry x k cid status ∧
      stor t q k = { x with cqTail := x.cqTail + 1,
                            phase := if x.cqTail.toNat % 2 ^ bits x.ncq 0 4 + 1 = 2 ^ bits x.ncq 0 4 then !x.phase else x.phase } ∧
      (bit x.ncq 4 = true → (q + 1, 6) ∈ t.vectors) := by
  have hlen : (completionEntry x k cid status).length = 16 := rfl
  obtain ⟨keep, honly, hbytes, -⟩ := hubWrite_oneBlock (s := s) (q := q) (key := keyA s q) (data := completionEntry x k cid status) 0x82
    (oneBlock_cqPlace x) hwf hquiet htier (Or.inr hkey)
  have hw : writeCompletion s q k cid status =
      (let u := hubWrite s q 0x82 (cqPlace x) (completionEntry x k cid status) (keyA s q)
       let v := setStor u q k { stor u q k with
         cqTail := x.cqTail + 1,
         phase := if x.cqTail.toNat % 2 ^ bits x.ncq 0 4 + 1 = 2 ^ bits x.ncq 0 4 then !x.phase else x.phase }
       if bit x.ncq 4 then raiseVector v (q + 1) 6 else v) := by
    subst hx
    rfl
  rw [hw]
  dsimp only
  generalize hubWrite s q 0x82 _ _ _ = u at honly hbytes ⊢
  have hpart : part u q = part s q := congrArg (fun l => mapGet l q Part.init) (honly.parts.trans rfl)
  have hstor : stor u q k = x := by
    unfold stor at hx ⊢
    rw [hpart, hx]
  have hcount : k < storCount q u := by
    unfold storCount at hk ⊢
    rw [hpart]
    exact hk
  rw [hstor]
  split
  next hbit => exact ⟨hbytes, stor_setStor u _ hcount, fun _ => List.mem_append_right _ (List.mem_singleton_self _)⟩
  next hbit => exact ⟨hbytes, stor_setStor u _ hcount, fun hb => absurd hb hbit⟩

end

theorem completion_stack {s : State} {q k cid status : Nat} (hk : k < storCount q s) {e : List Word}
    (h : namedOpen (stor s q k) cid status = some e) (hok : nth e 8 0 = 0) (hop : nvOpcode e ≠ 2) {x : StorQ} (hx : stor s q k = x)
    (hroom : cqRoom x = true) (hwf : s.mem.wf = true) (hopen : LineOpen s (lineOf (cqPlace x)))
    (htier : inTier (part s q) (cqPlace x) = false) (hkey : (block s (cqPlace x)).key.toNat = keyA s q) :
    Runs (.storageCompletion q k cid status []) s fun t =>
      memBytes t.mem (cqPlace x) 16 = completionEntry x k cid (status % 2 ^ 15) ∧
      stor t q k = { x with
        open_ := dropFirst (· == e) x.open_, cqTail := x.cqTail + 1,
        phase := if x.cqTail.toNat % 2 ^ bits x.ncq 0 4 + 1 = 2 ^ bits x.ncq 0 4 then !x.phase else x.phase } ∧
      (bit x.ncq 4 = true → (q + 1, 6) ∈ t.vectors) := by
  subst hx
  have hfree : rangesFree s 0x82 [(cqPlace (stor s q k), 16)] = true := rangesFree_of_open 0x82 (oneBlock_cqPlace _) hopen
  refine runs_of_eq (exec_completion h hok hop) ((if_neg (by rw [hroom]; decide)).trans (if_pos hfree)) ?_
  exact writeCompletion_stack ((storCount_setStor ..).symm ▸ hk) (stor_setStor s _ hk) cid (status % 2 ^ 15) hwf
    ⟨hopen.1.owned, hopen.1.eng, hopen.1.kept, hopen.1.lent, hopen.1.idle⟩ (by rw [part_setStor_self]; exact htier)
    ((keyA_setStor s q k _ q).symm ▸ hkey)

end Sys2Proof.Machine
end

section
/-!
PROOF. O58, the peer ports: the end of training and a failure (R429, R449).
-/

namespace Sys2Proof.Machine

/-! ### The end of training -/

theorem exec_peerLinkUp (s : State) (port : Nat) (rmod : BitVec 16) : exec (.peerLinkUp port rmod) s = .next (
    if port < 12 && (peer s port).en && (peer s port).state == 1 then setPeer s port { peer s port with state := 2, rmod := rmod } else s) :=
  rfl
theorem peerLinkUp_trained {s : State} {port : Nat} (rmod : BitVec 16) (hport : port < 12) (hen : (peer s port).en = true)
    (hstate : (peer s port).state = 1) : Runs (.peerLinkUp port rmod) s fun t =>
    t = setPeer s port { peer s port with state := 2, rmod := rmod } := by
  refine runs_of_eq (exec_peerLinkUp ..) (if_pos ?_) rfl
  simp [hport, hen, hstate]
theorem peerLinkUp_ignored {s : State} {port : Nat} (rmod : BitVec 16)
    (h : 12 ≤ port ∨ (peer s port).en = false ∨ (peer s port).state ≠ 1) : Runs (.peerLinkUp port rmod) s fun t => t = s := by
  refine runs_of_eq (exec_peerLinkUp ..) (if_neg ?_) rfl
  obtain hport | hen | hstate := h
  · simp [Nat.not_lt.2 hport]
  · simp [hen]
  · simp only [Bool.and_eq_true, beq_iff_eq]
    exact fun hall => hstate hall.2

/-! ### Pages that are dropped -/

/-- A map whose entries are changed by their keys reads as its old entry, changed. -/
theorem mapGet?_mapKeyed {α : Type} (m : NMap α) (f : Nat → α → α) (k : Nat) :
    mapGet? (m.map fun x => (x.1, f x.1 x.2)) k = (mapGet? m k).map (f k) := by
  induction m with
  | nil => rfl
  | cons x m ih =>
    rw [List.map_cons, mapGet?, mapGet?]
    by_cases h : k = x.1
    · rw [if_pos h, if_pos h, h]
      rfl
    · rw [if_neg h, if_neg h, ih]
/-- A drop of a page clears a cache line or leaves it. -/
theorem cline_dropPage_or (s : State) (page agent line : Nat) :
    cline (dropPage s page) agent line = clearLine (cline s agent line) ∨ cline (dropPage s page) agent line = cline s agent line := by
  have hmap : (dropPage s page).caches = s.caches.map fun x => (x.1, if x.1 % 2 ^ 40 / 512 = page then clearLine x.2 else x.2) := by
    refine List.map_congr_left fun x _ => ?_
    dsimp only
    split <;> rfl
  have hget : cline? (dropPage s page) agent line =
      (cline? s agent line).map fun x => if lineKey agent line % 2 ^ 40 / 512 = page then clearLine x else x := by
    unfold cline?
    rw [hmap]
    exact mapGet?_mapKeyed s.caches (fun k x => if k % 2 ^ 40 / 512 = page then clearLine x else x) _
  unfold cline
  rw [hget]
  split
  next => exact Or.inl (by cases cline? s agent line <;> rfl)
  next => exact Or.inr (by cases cline? s agent line <;> rfl)

/-- What a drop of its page leaves of a cache line, which a second drop leaves, too. -/
def Cleared (x y : CLine) : Prop := y.v = x.v &&& x.rg ∧ y.rg = x.rg
theorem cleared_clearLine (x : CLine) : Cleared x (clearLine x) := ⟨rfl, rfl⟩
theorem Cleared.again {x y : CLine} (h : Cleared x y) : Cleared x (clearLine y) := by
  obtain ⟨hv, hrg⟩ := h
  refine ⟨?_, hrg⟩
  show y.v &&& y.rg = _
  rw [hv, hrg, BitVec.and_assoc, BitVec.and_self]
theorem Cleared.dropPages {s : State} {x : CLine} {agent line : Nat} (h : Cleared x (cline s agent line)) (ls : List Lease) :
    Cleared x (cline (ls.foldl (fun s l => dropPage s l.page) s) agent line) := by
  induction ls generalizing s with
  | nil => exact h
  | cons l ls ih =>
    refine ih ?_
    obtain hc | hc := cline_dropPage_or s l.page agent line <;> rw [hc]
    · exact h.again
    · exact h
theorem cline_dropPage_same (s : State) {page agent line : Nat} (hp : line / 512 = page) (hl : line < 2 ^ 40) :
    Cleared (cline s agent line) (cline (dropPage s page) agent line) := by
  obtain hc | hc := cline_dropPage_or s page agent line
  · rw [hc]
    exact cleared_clearLine _
  · exact ⟨cline_dropPage s page hp hl, congrArg CLine.rg hc⟩
theorem cleared_dropPages (s : State) {l : Lease} {ls : List Lease} (hmem : l ∈ ls) {agent line : Nat} (hp : line / 512 = l.page)
    (hl : line < 2 ^ 40) : Cleared (cline s agent line) (cline (ls.foldl (fun s l => dropPage s l.page) s) agent line) := by
  obtain ⟨before, after, rfl⟩ := List.append_of_mem hmem
  rw [List.foldl_append, List.foldl_cons]
  generalize hu : before.foldl (fun s l => dropPage s l.page) s = u
  have hor : Cleared (cline s agent line) (cline u agent line) ∨ cline u agent line = cline s agent line := by
    clear hmem
    subst hu
    induction before generalizing s with
    | nil => exact Or.inr rfl
    | cons y before ih =>
      obtain hc | hc := cline_dropPage_or s y.page agent line
      · exact Or.inl (Cleared.dropPages (hc ▸ cleared_clearLine _) before)
      · rw [← hc]
        exact ih (dropPage s y.page)
  refine Cleared.dropPages ?_ after
  obtain h | h := hor
  · obtain hc | hc := cline_dropPage_or u l.page agent line <;> rw [hc]
    · exact h.again
    · exact h
  · rw [← h]
    exact cline_dropPage_same u hp hl
theorem dropPages_eq (ls : List Lease) (s : State) :
    ls.foldl (fun s l => dropPage s l.page) s = { s with caches := (ls.foldl (fun s l => dropPage s l.page) s).caches } := by
  induction ls generalizing s with
  | nil => rfl
  | cons l ls ih => exact ih (dropPage s l.page)

/-! ### A failure -/

/-- A lease that lapses when the last link of its partition fails. -/
def lapsed (s : State) (chmask : BitVec 32) (l : Lease) : Bool :=
  !l.isHome && (let q := ownerPart s (65536 * l.page); chmask.getLsbD q && !linked s q)
theorem lapseLeases_eq (s : State) (chmask : BitVec 32) : lapseLeases s chmask =
    (s.leases.filter (lapsed s chmask)).foldl (fun s l => dropPage s l.page)
      { s with leases := s.leases.filter fun l => !lapsed s chmask l } := rfl
theorem lapsed_iff (s : State) (chmask : BitVec 32) (l : Lease) : lapsed s chmask l = true ↔
    l.isHome = false ∧ chmask.getLsbD (ownerPart s (65536 * l.page)) = true ∧
      ∀ y ∈ s.peers, y.2.en = true → y.2.state = 2 → y.2.chmask.getLsbD (ownerPart s (65536 * l.page)) = false := by
  unfold lapsed linked
  simp
theorem lapseLeases_parts (s : State) (chmask : BitVec 32) :
    lapseLeases s chmask = { s with leases := (lapseLeases s chmask).leases, caches := (lapseLeases s chmask).caches } ∧
      (lapseLeases s chmask).leases = s.leases.filter fun l => !lapsed s chmask l := by
  rw [lapseLeases_eq, dropPages_eq]
  exact ⟨rfl, rfl⟩

/-- The messages that a failed port does not take with it. -/
def outlivesPort (port : Nat) (m : Msg) : Bool :=
  match m with
  | .peerFlitReceive f => f.port != port
  | _ => true
theorem outlivesPort_iff (port : Nat) (m : Msg) : outlivesPort port m = true ↔ ∀ f, m = .peerFlitReceive f → f.port ≠ port := by
  cases m <;> simp [outlivesPort]
/-- A port that has failed, before the leases that it carried lapse. -/
def portFailed (s : State) (port : Nat) : State :=
  ltAdd (setPeer { s with agenda := s.agenda.filter (outlivesPort port) } port { peer s port with state := 3, kept := [] }) (0x206 + port) 1
theorem exec_peerPortFailure (s : State) (port : Nat) : exec (.peerPortFailure port) s = .next (
    if port < 12 && (peer s port).en && (peer s port).state != 3 then lapseLeases (portFailed s port) (peer s port).chmask else s) := by
  rfl
theorem peerPortFailure_ignored {s : State} {port : Nat} (h : 12 ≤ port ∨ (peer s port).en = false ∨ (peer s port).state = 3) :
    Runs (.peerPortFailure port) s fun t => t = s := by
  refine runs_of_eq (exec_peerPortFailure ..) (if_neg ?_) rfl
  obtain hport | hen | hstate := h
  · simp [Nat.not_lt.2 hport]
  · simp [hen]
  · simp [hstate]
theorem peerPortFailure_lapses {s : State} {port : Nat} (hport : port < 12) (hen : (peer s port).en = true)
    (hstate : (peer s port).state ≠ 3) : Runs (.peerPortFailure port) s fun t =>
    peer t port = { peer s port with state := 3, kept := [] } ∧
    mapGet t.hub.lt (0x206 + port) 0 = mapGet s.hub.lt (0x206 + port) 0 + 1 ∧
    t = { s with hub := t.hub, peers := t.peers, leases := t.leases, caches := t.caches, agenda := t.agenda } ∧
    (∀ m, m ∈ t.agenda ↔ m ∈ s.agenda ∧ ∀ f, m = .peerFlitReceive f → f.port ≠ port) ∧
    ∀ l ∈ s.leases,
      let q := ownerPart s (65536 * l.page)
      let lapses := l.isHome = false ∧ (peer s port).chmask.getLsbD q = true ∧
        ∀ y ∈ t.peers, y.2.en = true → y.2.state = 2 → y.2.chmask.getLsbD q = false
      (¬ lapses → l ∈ t.leases) ∧
      (lapses → l ∉ t.leases ∧ ∀ a line, line < 2 ^ 40 → line / 512 = l.page →
        (cline t a line).v = (cline s a line).v &&& (cline s a line).rg) := by
  refine runs_of_eq (exec_peerPortFailure ..) (if_pos (by simp only [hport, hen, decide_true, Bool.true_and, bne_iff_ne]; exact hstate)) ?_
  obtain ⟨heq, hleases⟩ := lapseLeases_parts (portFailed s port) (peer s port).chmask
  have hpeers : (lapseLeases (portFailed s port) (peer s port).chmask).peers = (portFailed s port).peers := by rw [heq]
  have hhub : (lapseLeases (portFailed s port) (peer s port).chmask).hub = (portFailed s port).hub := by rw [heq]
  have hagenda : (lapseLeases (portFailed s port) (peer s port).chmask).agenda = s.agenda.filter (outlivesPort port) := by rw [heq]; rfl
  refine ⟨?_, ?_, ?_, fun m => ?_, fun l hl => ⟨fun hstays => ?_, fun hlapses => ⟨fun hin => ?_, fun a line hline hpage => ?_⟩⟩⟩
  · exact (congrArg (mapGet · port Peer.init) hpeers).trans (mapGet_mapSet_self ..)
  · rw [hhub]
    exact mapGet_mapSet_self ..
  · generalize lapseLeases _ _ = t at heq
    rw [heq]
    rfl
  · rw [hagenda, List.mem_filter, outlivesPort_iff]
  · rw [hpeers] at hstays
    rw [hleases, List.mem_filter, Bool.not_eq_true']
    exact ⟨hl, Bool.eq_false_iff.2 fun h => hstays ((lapsed_iff ..).1 h)⟩
  · rw [hpeers] at hlapses
    rw [hleases, List.mem_filter, (lapsed_iff (portFailed s port) (peer s port).chmask l).2 hlapses] at hin
    exact absurd hin.2 (by decide)
  · rw [hpeers] at hlapses
    rw [lapseLeases_eq]
    have hgone : l ∈ (portFailed s port).leases.filter (lapsed (portFailed s port) (peer s port).chmask) :=
      List.mem_filter.2 ⟨hl, (lapsed_iff ..).2 hlapses⟩
    obtain ⟨hv, -⟩ := cleared_dropPages { portFailed s port with
      leases := (portFailed s port).leases.filter fun l => !lapsed (portFailed s port) (peer s port).chmask l } hgone (agent := a) hpage hline
    exact hv

end Sys2Proof.Machine
end

section
/-!
PROOF. O58, the peer ports: a flit (R449), and the whole.
-/

namespace Sys2Proof.Machine

theorem peer_setPeer (s : State) (k : Nat) (x : Peer) : peer (setPeer s k x) k = x := mapGet_mapSet_self ..

/-- The flit of a partition that a port delivers next. -/
def nextFlit (x : Peer) (q : Nat) : Option Flit := x.kept.find? fun f => f.part == q && f.seq == mapGet x.next q 0

section
variable {x : Peer} {f : Flit} (hnone : (x.kept.any fun g => g.part == f.part) = false)
include hnone

theorem kept_otherPart {g : Flit} (hg : g ∈ x.kept) : (g.part == f.part) = false := by
  have := List.any_eq_false.1 hnone g hg
  simpa using this
theorem keptOf_none : x.kept.filter (fun g => g.part == f.part) = [] := by
  refine List.filter_eq_nil_iff.2 fun g hg => ?_
  rw [kept_otherPart hnone hg]
  exact Bool.false_ne_true
theorem nextFlit_none (next : NMap Nat) : nextFlit { x with next := next } f.part = none := by
  refine List.find?_eq_none.2 fun g hg => ?_
  rw [kept_otherPart hnone hg, Bool.false_and]
  exact Bool.false_ne_true
theorem nextFlit_kept : nextFlit { x with kept := x.kept ++ [f] } f.part = if f.seq = mapGet x.next f.part 0 then some f else none := by
  have hold : x.kept.find? (fun g => g.part == f.part && g.seq == mapGet x.next f.part 0) = none := nextFlit_none hnone x.next
  unfold nextFlit
  dsimp only
  rw [List.find?_append, hold, Option.none_or, List.find?_singleton, BEq.rfl, Bool.true_and]
  exact if_congr beq_iff_eq rfl rfl
theorem kept_delivered : (x.kept ++ [f]).filter (· != f) = x.kept := by
  have hothers : x.kept.filter (· != f) = x.kept := by
    refine List.filter_eq_self.2 fun g hg => bne_iff_ne.2 ?_
    rintro rfl
    have := kept_otherPart hnone hg
    simp at this
  rw [List.filter_append, hothers, List.filter_singleton, bne_self_eq_false]
  exact List.append_nil _

end

theorem deliverKept_none {s : State} {port q : Nat} (fuel : Nat) (h : nextFlit (peer s port) q = none) : deliverKept fuel s port q = s := by
  cases fuel with
  | zero => rfl
  | succ fuel =>
    unfold nextFlit at h
    unfold deliverKept
    dsimp only
    rw [h]
theorem deliverKept_refused {s : State} {port q : Nat} {f : Flit} (fuel : Nat) (h : nextFlit (peer s port) q = some f)
    (hr : flitRefused s f = true) : deliverKept (fuel + 1) s port q = s := by
  unfold nextFlit at h
  unfold deliverKept
  dsimp only
  rw [h]
  exact if_pos hr
theorem deliverKept_some {s : State} {port q : Nat} {f : Flit} (fuel : Nat) (h : nextFlit (peer s port) q = some f)
    (hr : flitRefused s f = false) : deliverKept (fuel + 1) s port q = deliverKept fuel
      (arriveAccess (setPeer s port { peer s port with
        kept := (peer s port).kept.filter (· != f), next := mapSet (peer s port).next q ((mapGet (peer s port).next q 0 + 1) % 65536) }) f.acc)
      port q := by
  unfold nextFlit at h
  conv => lhs; unfold deliverKept
  dsimp only
  rw [h]
  exact if_neg (by rw [hr]; exact Bool.false_ne_true)
theorem retryKept_none {s : State} {port q : Nat} (h : nextFlit (peer s port) q = none) : retryKept s port q = s := by
  unfold nextFlit at h
  unfold retryKept
  dsimp only
  rw [h]
theorem retryKept_some {s : State} {port q : Nat} {f : Flit} (h : nextFlit (peer s port) q = some f) :
    retryKept s port q = { s with
      agenda := if .peerFlitReceive f ∈ s.agenda then s.agenda else s.agenda ++ [.peerFlitReceive f] } := by
  unfold nextFlit at h
  unfold retryKept
  dsimp only
  rw [h]
  dsimp only
  by_cases hin : Msg.peerFlitReceive f ∈ s.agenda
  · rw [if_pos (List.contains_iff_mem.2 hin), if_pos hin]
  · rw [if_neg (fun hc => hin (List.contains_iff_mem.1 hc)), if_neg hin]
    rfl

/-! ### The arrival of a flit -/

/-- A port takes a flit of the partition. -/
def takesFlits (x : Peer) (q : Nat) : Prop := x.en = true ∧ x.state = 2 ∧ x.chmask.getLsbD q = true

section
variable {s : State} {f : Flit} (hseq : f.seq < 65536)
include hseq

theorem exec_peerFlitReceive : exec (.peerFlitReceive f) s = .next (
    if !((peer s f.port).en && (peer s f.port).state == 2 && (peer s f.port).chmask.getLsbD f.part) then s
    else retryKept (deliverKept 257
      (if decide (32768 ≤ (f.seq + 65536 - mapGet (peer s f.port).next f.part 0) % 65536) ||
          ((peer s f.port).kept.filter fun g => g.part == f.part).any (fun g => g.seq == f.seq) ||
          decide (256 ≤ ((peer s f.port).kept.filter fun g => g.part == f.part).length) then s
        else setPeer s f.port { peer s f.port with kept := (peer s f.port).kept ++ [f] }) f.port f.part) f.port f.part) := by
  obtain ⟨port, q, seq, acc⟩ := f
  show execPeerFlitReceive _ s = _
  unfold execPeerFlitReceive
  dsimp only
  rw [Nat.mod_eq_of_lt hseq]
theorem peerFlit_ignored (h : ¬ takesFlits (peer s f.port) f.part) : Runs (.peerFlitReceive f) s fun t => t = s := by
  refine runs_of_eq (exec_peerFlitReceive hseq) (if_pos ?_) rfl
  rw [Bool.not_eq_true', Bool.eq_false_iff]
  intro hall
  simp only [Bool.and_eq_true, beq_iff_eq] at hall
  exact h ⟨hall.1.1, hall.1.2, hall.2⟩

variable (hup : takesFlits (peer s f.port) f.part) (hnone : ((peer s f.port).kept.any fun g => g.part == f.part) = false)
include hup hnone

/-- A flit that is due or comes before its turn is kept, and what is due is delivered. -/
theorem exec_peerFlit (hdist : (f.seq + 65536 - mapGet (peer s f.port).next f.part 0) % 65536 < 32768) :
    exec (.peerFlitReceive f) s = .next (
      retryKept (deliverKept 257 (setPeer s f.port { peer s f.port with kept := (peer s f.port).kept ++ [f] }) f.port f.part)
        f.port f.part) := by
  obtain ⟨hen, hstate, hmask⟩ := hup
  have hgoes : ((peer s f.port).en && (peer s f.port).state == 2 && (peer s f.port).chmask.getLsbD f.part) = true := by
    rw [hen, hmask, beq_iff_eq.2 hstate]
    rfl
  rw [exec_peerFlitReceive hseq, hgoes, keptOf_none hnone, decide_eq_false (Nat.not_le.2 hdist)]
  rfl
theorem peerFlit_delivered (hdue : mapGet (peer s f.port).next f.part 0 = f.seq) (hr : flitRefused s f = false) :
    Runs (.peerFlitReceive f) s fun t => t = arriveAccess
      (setPeer (setPeer s f.port { peer s f.port with kept := (peer s f.port).kept ++ [f] }) f.port
        { peer s f.port with next := mapSet (peer s f.port).next f.part ((f.seq + 1) % 65536) }) f.acc := by
  refine runs_of_eq (exec_peerFlit hseq hup hnone (by rw [hdue]; omega)) ?_ rfl
  have hnext : nextFlit (peer (setPeer s f.port { peer s f.port with kept := (peer s f.port).kept ++ [f] }) f.port) f.part = some f := by
    rw [peer_setPeer, nextFlit_kept hnone, if_pos hdue.symm]
  have hdone : nextFlit (peer (arriveAccess
      (setPeer (setPeer s f.port { peer s f.port with kept := (peer s f.port).kept ++ [f] }) f.port
        { peer s f.port with next := mapSet (peer s f.port).next f.part ((f.seq + 1) % 65536) }) f.acc) f.port) f.part = none := by
    unfold peer
    rw [peers_arriveAccess]
    show nextFlit (peer (setPeer _ _ _) f.port) f.part = none
    rw [peer_setPeer]
    exact nextFlit_none hnone _
  rw [deliverKept_some 256 hnext hr, peer_setPeer]
  dsimp only
  rw [kept_delivered hnone, hdue, deliverKept_none 256 hdone, retryKept_none hdone]
theorem peerFlit_refused (hdue : mapGet (peer s f.port).next f.part 0 = f.seq) (hr : flitRefused s f = true) :
    Runs (.peerFlitReceive f) s fun t =>
      t = { setPeer s f.port { peer s f.port with kept := (peer s f.port).kept ++ [f] } with
        agenda := if .peerFlitReceive f ∈ s.agenda then s.agenda else s.agenda ++ [.peerFlitReceive f] } := by
  refine runs_of_eq (exec_peerFlit hseq hup hnone (by rw [hdue]; omega)) ?_ rfl
  have hnext : nextFlit (peer (setPeer s f.port { peer s f.port with kept := (peer s f.port).kept ++ [f] }) f.port) f.part = some f := by
    rw [peer_setPeer, nextFlit_kept hnone, if_pos hdue.symm]
  rw [deliverKept_refused 256 hnext hr, retryKept_some hnext]
  rfl
theorem peerFlit_early (_hnext : mapGet (peer s f.port).next f.part 0 < 65536)
    (hearly : f.seq = (mapGet (peer s f.port).next f.part 0 + 1) % 65536) : Runs (.peerFlitReceive f) s fun t =>
      t = setPeer s f.port { peer s f.port with kept := (peer s f.port).kept ++ [f] } := by
  refine runs_of_eq (exec_peerFlit hseq hup hnone (by omega)) ?_ rfl
  have hwaits : nextFlit (peer (setPeer s f.port { peer s f.port with kept := (peer s f.port).kept ++ [f] }) f.port) f.part = none := by
    rw [peer_setPeer, nextFlit_kept hnone, if_neg (by omega)]
  rw [deliverKept_none 257 hwaits, retryKept_none hwaits]

end

/-! ### The whole -/

/-- Settles O58: a posted write and a read by the host write and read the registers and the bytes that their addresses name; a ring
starts the command that it announces; a completion writes its entry; and a peer port delivers the flits of a partition in order. -/
theorem outsidePorts : Obligations.OutsidePorts := by
  unfold Obligations.OutsidePorts
  refine ⟨⟨fun s a h => ⟨hostPostedWrite_none h, fun _ => hostPostedWrite_regs h, fun _ hbar =>
      ⟨hostPostedWrite_waits h hbar, hostPostedWrite_stack h hbar⟩⟩, fun s a => ⟨hostBarRead_behind, fun h => ⟨hostBarRead_none h, fun _ => hostBarRead_regs h, fun q hbar => ?_⟩⟩⟩,
    ⟨fun s q k v hk => storageDoorbell_clauses hk v, fun s q k cid status data hk => ⟨completion_none, fun e h hok hop => ?_⟩⟩,
    fun s port rmod => ⟨peerLinkUp_trained rmod, peerLinkUp_ignored rmod, peerPortFailure_lapses, peerPortFailure_ignored⟩,
    fun s f hseq => ⟨peerFlit_ignored hseq, fun hup hdue hnone => ?_, fun hup hsmall hnone => peerFlit_early hseq hup hnone hsmall⟩⟩
  · exact ⟨hostBarRead_stack h hbar rfl rfl rfl, hostBarRead_held h hbar⟩
  · refine ⟨completion_noRoom h hok, ?_, ?_⟩
    · rintro hroom rfl hfree
      exact completion_waits h hok hop hroom hfree
    · rintro hroom rfl hcanon hopen htier hkey
      obtain ⟨t, ht, hbytes, hstor, hvector⟩ := completion_stack hk h hok hop rfl hroom hcanon.1 hopen htier hkey
      exact ⟨t, ht, hbytes, congrArg StorQ.cqTail hstor, congrArg StorQ.phase hstor, congrArg StorQ.open_ hstor, hvector⟩
  · exact ⟨peerFlit_delivered hseq hup hnone hdue, peerFlit_refused hseq hup hnone hdue⟩

end Sys2Proof.Machine
end

section
/-!
SUPPORT. What the checks of an extent's walks, the opening of a slot and a wait at an instruction leave unchanged, and the end of a chain
with a register result (R61, R174, R203).
-/

namespace Sys2Proof.Machine

/-! ### The checks of walks (R61) -/

theorem checkRange_onlyArray (s : State) (q pa n : Nat) : OnlyArray s (checkRange s q pa n) := by
  refine foldl_onlyArray (fun s i => ?_) _ s
  dsimp only
  split
  · exact .refl s
  · exact stackCheck_onlyArray ..
theorem checkWalk_onlyArray (s : State) (die q va : Nat) : OnlyArray s (checkWalk s die q va) :=
  foldl_onlyArray (fun s a => checkRange_onlyArray s q a 8) _ s
theorem checkExtent_onlyArray (s : State) (k : Asker) (va : Word) (len : Nat) : OnlyArray s (checkExtent s k va len) := by
  refine foldl_onlyArray (fun s i => ?_) _ s
  dsimp only
  split
  · exact .refl s
  · exact checkWalk_onlyArray ..
theorem OnlyArray.cur {s t : State} (h : OnlyArray s t) : t.cur = s.cur := (congrArg State.cur h.1).trans rfl
theorem OnlyArray.clusters {s t : State} (h : OnlyArray s t) : t.clusters = s.clusters := (congrArg State.clusters h.1).trans rfl

/-! ### Slots of the flight record and of the executor -/

theorem rowWord_setLocWord_other (s : State) {pr n k : Nat} (v : Word) (hn : n < 128) (hk : k ≠ n) :
    rowWord (setLocWord s (.bank pr) n v) pr k = rowWord s pr k := rowWord_setRowWord_other s pr n k v hn hk
theorem rowWord_recount_other (s : State) {pr k : Nat} (hk : k ≠ 2) : rowWord (recount s (.bank pr)) pr k = rowWord s pr k :=
  rowWord_setLocWord_other s _ (by omega) hk
theorem rowWord_setOpRec (s : State) (o : OpRec) (pr k : Nat) : rowWord (setOpRec s o) pr k = rowWord s pr k := rfl
/-- Slot i of the executing row is written in its two words and in OUTS of d2 (R196). -/
theorem rowWord_openSlot (s : State) {i k : Nat} (size dest cls kind : Nat) (a : Word) (o : OpRec) (hi : i < 8)
    (hk : k ∉ [2, 16 + 2 * i, 17 + 2 * i]) : rowWord (openSlot s i size dest cls kind a o) s.cur k = rowWord s s.cur k := by
  simp only [List.mem_cons, List.not_mem_nil, or_false, not_or] at hk
  obtain ⟨houts, haddr, hword⟩ := hk
  unfold openSlot takeSlot
  dsimp only
  rw [rowWord_setOpRec, rowWord_recount_other _ houts, rowWord_setLocWord_other _ _ (by omega) hword,
    rowWord_setLocWord_other _ _ (by omega) haddr]
  rfl
theorem freeSlot_lt {s : State} {l : Loc} {i : Nat} (h : freeSlot s l = some i) : i < 8 :=
  List.mem_range.1 (List.mem_of_find?_eq_some h)

section
variable {s t : State} (h : t.rows = s.rows) (pr : Nat)
include h

theorem slotWord_of_rows (i : Nat) : slotWord t (.bank pr) i = slotWord s (.bank pr) i := rowWord_of_rows h ..
theorem slotState_of_rows (i : Nat) : slotState t (.bank pr) i = slotState s (.bank pr) i :=
  congrArg (bits · 58 6) (slotWord_of_rows h pr i)
theorem freeSlot_of_rows : freeSlot t (.bank pr) = freeSlot s (.bank pr) := by
  unfold freeSlot
  simp only [slotState_of_rows h]
theorem batchSlot_of_rows (n : Nat) : batchSlot t (.bank pr) n = batchSlot s (.bank pr) n := by
  have hkind (i : Nat) : slotKind t (.bank pr) i = slotKind s (.bank pr) i := congrArg (bits · 0 8) (slotWord_of_rows h pr i)
  have haddr (i : Nat) : slotAddr t (.bank pr) i = slotAddr s (.bank pr) i := rowWord_of_rows h ..
  unfold batchSlot busySlots
  simp only [slotState_of_rows h, hkind, haddr]

end

theorem setWait_waitsAt {s : State} {k : Nat} (w : Wait) (h : slotOf s s.cur = some k) : WaitsAt s (setWait s w) k w := by
  have he : setWait s w = setSlot s (curExec s) k { slot s (curExec s) k with wait := w } := by
    unfold setWait
    rw [h]
  rw [he]
  exact ⟨by rw [slot_setSlot _ _ _ _ (slotOf_lt h)], rfl⟩

/-! ### The end of a chain with a register result -/

theorem SameBytes.refl (s : State) : SameBytes s s := ⟨fun _ => rfl, fun _ _ => rfl⟩
theorem SameBytes.trans {s t u : State} (h : SameBytes s t) (k : SameBytes t u) : SameBytes s u :=
  ⟨fun a => (k.1 a).trans (h.1 a), fun c a => (k.2 c a).trans (h.2 c a)⟩

theorem sameBytes_result {s v : State} (c : Ctl) (rd : Reg) (x : Word) (hmem : v.mem = s.mem) (hspads : v.spads = s.spads) :
    SameBytes s (advance c (writeReg v rd x)) := by
  refine ⟨fun a => ?_, fun cl a => ?_⟩
  · rw [result_mem, hmem]
  · unfold spad
    rw [result_spads, hspads]
/-- A chain that has changed row words and what is left of old code words ends with a result. -/
theorem onlyStale_result (c : Ctl) (s : State) (rd : Reg) (x : Word) (rows : NMap Image) (stale : List StaleWord) :
    let t := advance c (writeReg { s with rows := rows, stale := stale } rd x)
    OnlyRows { s with stale := t.stale } t := by
  dsimp only
  unfold OnlyRows
  rw [advance_frame, writeReg_frame]
/-- A chain that has changed no word of its row but those listed, of which d1 and d2 are none, ends with a result (R52, R192). -/
theorem done_of_kept {s v : State} {ws : List Nat} (c : Ctl) (rd : Reg) (x : Word) (hw : rd.win ≠ 3) (hcur : v.cur = s.cur)
    (hkept : WordsKept s v ws) (h1 : 1 ∉ ws) (h2 : 2 ∉ ws) :
    ChainDone s (advance c (writeReg v rd x)) (nextPc c s) (ws ++ resultWords rd) := by
  obtain ⟨hnext, ⟨hq, hbits⟩, hwords⟩ := (result_is c v rd x hw).done
  rw [hcur] at hnext hq hbits
  rw [hkept s.cur 2 (.inr h2)] at hq hbits
  refine ⟨?_, ⟨hq, hbits⟩, fun pr k hk => ?_⟩
  · rw [hnext]
    unfold nextPc pc
    rw [hcur, hkept s.cur 1 (.inr h1)]
  · simp only [List.mem_cons, List.mem_append, not_or] at hk
    rw [hwords pr k (by rw [hcur]; simp only [List.mem_cons, not_or]; tauto), hkept pr k (by tauto)]
/-- What the row reads in d1, d12 and rd after the result. -/
theorem words_result {s v : State} (c : Ctl) (rd : Reg) (x : Word) (hw : rd.win ≠ 3) (hcur : v.cur = s.cur)
    (hpc : rowWord v s.cur 1 = pc s) :
    let t := advance c (writeReg v rd x)
    rowWord t s.cur 1 = nextPc c s ∧ rowWord t s.cur 12 = rowWord v s.cur 12 ∧
      (isG0 rd = false → rowWord t s.cur (regIndex rd) = x) := by
  have hres := result_is c v rd x hw
  have hreg := regIndex_ge rd hw
  refine ⟨?_, ?_, fun hg => ?_⟩
  · rw [← hcur, hres.done.next]
    unfold nextPc
    rw [← hpc, ← hcur]
    rfl
  · refine hres.done.words _ _ (.inr ?_)
    have h12 : 12 ∉ resultWords rd := by
      unfold resultWords
      split
      · exact List.not_mem_nil
      · exact fun h => absurd (List.mem_singleton.1 h) (by omega)
    simpa using h12
  · rw [← hcur]
    exact hres.value hg

end Sys2Proof.Machine
end

section
/-!
PROOF. O35: the data-moving commands (R105 to R112, R124 to R128).
-/

namespace Sys2Proof.Machine

/-! ### A command counts in d12 and in its batch (R111) -/

theorem putBatch_frame (s : State) (b : Batch) : putBatch s b = { s with batches := (putBatch s b).batches } := by
  unfold putBatch
  split <;> rfl

/-- d12 when one more command has been counted in CMDS. -/
def countedWord (d : Word) : Word := putBits d 0 8 (min 255 (bits d 0 8 + 1))
/-- The command is counted in CMDS of d12 and, unless it is empty, in what is left of its batch. -/
def countCommand (s : State) (empty : Bool) : State :=
  let d := rowWord s s.cur 12
  let u := setRowWord s s.cur 12 (countedWord d)
  let b := batchAt u (curRow s) (batchNum d)
  putBatch u (if empty then b else { b with left := b.left + 1 })

theorem bits_countedWord (d : Word) : bits (countedWord d) 0 8 = min 255 (bits d 0 8 + 1) := by
  unfold countedWord
  rw [bits_putBits_self _ _ _ _ (by omega)]
  omega
theorem countCommand_frame (s : State) (empty : Bool) : countCommand s empty =
    { s with rows := (setRowWord s s.cur 12 (countedWord (rowWord s s.cur 12))).rows, batches := (countCommand s empty).batches } := putBatch_frame ..
theorem rowWord_countCommand (s : State) (empty : Bool) (k : Nat) : rowWord (countCommand s empty) s.cur k =
    if k = 12 then countedWord (rowWord s s.cur 12) else rowWord s s.cur k := by
  rw [countCommand_frame]
  refine (rowWord_setRowWord s s.cur 12 s.cur k _ (by omega)).trans ?_
  simp only [true_and]
theorem issueCopy_empty (c : Ctl) (rd : Reg) (a : CopyArgs) (dst src idx : List Run) (s : State) :
    issueCopy c rd a dst src idx true s =
      advance c (writeReg (countCommand s true) rd (w64 (batchNum (rowWord s s.cur 12)))) := rfl
/-- A command that moves something enters the queue of its executor (R99, R111). -/
theorem issueCopy_enters (c : Ctl) (rd : Reg) (a : CopyArgs) (dst src idx : List Run) (s : State) :
    ∃ y : CopyCmd, y.kind = a.kind ∧ y.row = curRow s ∧ y.queue = curExec s % 16 ∧ y.batch = batchNum (rowWord s s.cur 12) ∧
      y.dst = dst ∧ issueCopy c rd a dst src idx false s =
        advance c (writeReg (enqueueCopy (countCommand s false) (clusterOf (curExec s)) (curPart (countCommand s false)) y) rd
          (w64 (batchNum (rowWord s s.cur 12)))) := by
  have hcur : curExec (countCommand s false) = curExec s := by
    unfold curExec
    rw [countCommand_frame]
  refine ⟨⟨(countCommand s false).copyNext, curExec (countCommand s false) % 16, a.kind, curRow s, batchNum (rowWord s s.cur 12),
    none, dst, src, idx, a.len, a.count, a.ds, a.ss, a.esz, a.hint, 0, 0, 0, 0, (countCommand s false).regNext, none⟩,
    rfl, rfl, congrArg (· % 16) hcur, rfl, rfl, ?_⟩
  rw [← hcur]
  rfl

/-! ### The engine's queue -/

theorem enqueueCopy_frame (s : State) (cl q : Nat) (y : CopyCmd) :
    let t := enqueueCopy s cl q y
    t = { s with copyNext := t.copyNext, clusters := t.clusters, agenda := t.agenda } := rfl
theorem agenda_enqueueCopy (s : State) (cl q : Nat) (y : CopyCmd) : Msg.copyStep cl y.id ∈ (enqueueCopy s cl q y).agenda :=
  List.mem_append_right _ (List.mem_singleton.2 rfl)

/-! ### What the obligation says of a command -/

/-- The command's chain has ended: CMDS counts it, and rd holds the number of the open batch (R111). -/
def CommandDone (c : Ctl) (rd : Reg) (s u t : State) : Prop :=
  rowWord t s.cur 1 = nextPc c s ∧ SameBytes u t ∧
    bits (rowWord t s.cur 12) 0 8 = min 255 (bits (rowWord s s.cur 12) 0 8 + 1) ∧
    (isG0 rd = false → rowWord t s.cur (regIndex rd) = BitVec.ofNat 64 (batchNum (rowWord s s.cur 12)))
/-- A command of the row is last in the queue of its cluster's engine, and it starts (R99, R111). -/
def CommandQueued (a : CopyArgs) (dst : List Run) (s t : State) : Prop :=
  ∃ y, (cluster t (clusterOf (curExec s))).cmds = (cluster s (clusterOf (curExec s))).cmds ++ [y] ∧ y.kind = a.kind ∧
    y.row = curRow s ∧ y.queue = curExec s % 16 ∧ y.batch = batchNum (rowWord s s.cur 12) ∧ y.dst = dst ∧
    Msg.copyStep (clusterOf (curExec s)) y.id ∈ t.agenda
/-- Two states in which a command issues alike: the executing row with its PC, its identity and its d12, and the engines' queues. -/
structure SameIssue (s t : State) : Prop where
  cur      : t.cur = s.cur
  words    : ∀ k ∈ [1, 3, 12], rowWord t s.cur k = rowWord s s.cur k
  clusters : t.clusters = s.clusters

theorem SameIssue.refl (s : State) : SameIssue s s := ⟨rfl, fun _ _ => rfl, rfl⟩
theorem OnlyArray.sameIssue {s t : State} (h : OnlyArray s t) : SameIssue s t :=
  ⟨h.cur, fun k _ => rowWord_of_rows h.rows _ k, h.clusters⟩
theorem SameIssue.trans {s t u : State} (h : SameIssue s t) (h' : SameIssue t u) : SameIssue s u :=
  ⟨h'.cur.trans h.cur, fun k hk => (h.cur ▸ h'.words k hk).trans (h.words k hk), h'.clusters.trans h.clusters⟩
theorem openSlot_sameIssue (s : State) {i : Nat} (size dest cls kind : Nat) (a : Word) (o : OpRec) (hi : i < 8) :
    SameIssue s (openSlot s i size dest cls kind a o) := by
  refine ⟨rfl, fun k hk => rowWord_openSlot s size dest cls kind a o hi ?_, rfl⟩
  simp only [List.mem_cons, List.not_mem_nil, or_false] at hk ⊢
  omega
theorem CommandDone.of_sameIssue {c : Ctl} {rd : Reg} {s u v t : State} (h : SameIssue s v) (hb : SameBytes u v)
    (hd : CommandDone c rd v v t) : CommandDone c rd s u t := by
  obtain ⟨hnext, hbytes, hcmds, hval⟩ := hd
  have h12 := h.words 12 (by simp)
  rw [h.cur] at hnext hcmds hval
  rw [h12] at hcmds hval
  refine ⟨hnext.trans ?_, hb.trans hbytes, hcmds, hval⟩
  unfold nextPc pc
  rw [h.cur, h.words 1 (by simp)]
theorem CommandQueued.of_sameIssue {a : CopyArgs} {dst : List Run} {s v t : State} (h : SameIssue s v)
    (hq : CommandQueued a dst v t) : CommandQueued a dst s t := by
  have hrow : curRow v = curRow s := by
    unfold curRow
    rw [h.cur]
    exact rowId_of_d3 (h.words 3 (by simp))
  have hexec : curExec v = curExec s := congrArg execOf h.cur
  have hcl (k : Nat) : cluster v k = cluster s k := by
    unfold cluster
    rw [h.clusters]
  unfold CommandQueued at hq
  rwa [hrow, hexec, hcl, h.cur, h.words 12 (by simp)] at hq

section
variable {c : Ctl} {rd : Reg} (hw : rd.win ≠ 3)
include hw

/-- The end of an issue, in the state v in which the command has been counted. -/
theorem commandDone_result {s v : State} {empty : Bool} (hcur : v.cur = s.cur) (hrows : v.rows = (countCommand s empty).rows)
    (hmem : v.mem = s.mem) (hspads : v.spads = s.spads) :
    CommandDone c rd s s (advance c (writeReg v rd (w64 (batchNum (rowWord s s.cur 12))))) := by
  have hword (k : Nat) : rowWord v s.cur k = _ := (rowWord_of_rows hrows s.cur k).trans (rowWord_countCommand s empty k)
  obtain ⟨hnext, h12, hval⟩ := words_result c rd (w64 (batchNum (rowWord s s.cur 12))) hw hcur (hword 1)
  refine ⟨hnext, sameBytes_result c rd _ hmem hspads, ?_, hval⟩
  rw [h12, hword 12, if_pos rfl, bits_countedWord]
theorem issueCopy_empty_done (a : CopyArgs) (s : State) :
    CommandDone c rd s s (issueCopy c rd a [] [] [] true s) ∧
      OnlyRows { s with batches := (issueCopy c rd a [] [] [] true s).batches } (issueCopy c rd a [] [] [] true s) := by
  rw [issueCopy_empty]
  refine ⟨?_, ?_⟩
  · refine commandDone_result hw (empty := true) ?_ rfl ?_ ?_ <;> rw [countCommand_frame]
  · have h := onlyRows_result c (countCommand s true) rd (w64 (batchNum (rowWord s s.cur 12)))
    unfold OnlyRows at h ⊢
    rw [h, countCommand_frame]
theorem issueCopy_enters_done (a : CopyArgs) (dst src idx : List Run) (s : State) :
    CommandDone c rd s s (issueCopy c rd a dst src idx false s) ∧
      CommandQueued a dst s (issueCopy c rd a dst src idx false s) := by
  obtain ⟨y, hkind, hrow, hqueue, hbatch, hdst, hx⟩ := issueCopy_enters c rd a dst src idx s
  have hcl (k : Nat) : cluster (countCommand s false) k = cluster s k := by
    rw [countCommand_frame]
    rfl
  rw [hx]
  refine ⟨commandDone_result hw (empty := false) ?_ ?_ ?_ ?_, y, ?_, hkind, hrow, hqueue, hbatch, hdst, ?_⟩
  · rw [enqueueCopy_frame, countCommand_frame]
  · rw [enqueueCopy_frame]
  · rw [enqueueCopy_frame, countCommand_frame]
  · rw [enqueueCopy_frame, countCommand_frame]
  · rw [← hcl, ← cmds_enqueueCopy _ _ (curPart (countCommand s false))]
    unfold cluster
    rw [advance_frame, writeReg_frame]
  · rw [advance_frame, writeReg_frame]
    exact agenda_enqueueCopy ..

end

/-! ### The checks before the issue (R110) -/

/-- A part of an extent that waits: its translation is moving, or its page has no lease (R94, R110). -/
def Chunk.waits : Chunk → Bool
  | .moving => true
  | .lease _ _ => true
  | _ => false
/-- Who asks for the extents of a command. -/
def copyAsker (s : State) : Asker := ⟨curPart s, dieOf (curExec s), priv s, some (unitOf (curExec s)), 6⟩
/-- The state after the walks of a command's extents. -/
def copyWalked (s : State) (a : CopyArgs) : State :=
  ((a.dst, dstSpan a) :: srcSpans a).foldl (fun u x => checkExtent u (copyAsker s) x.1 x.2) s
/-- The destination of a command, and its sources, part by part. -/
def dstChunks (s : State) (a : CopyArgs) : List Chunk := chunks (copyWalked s a) (copyAsker s) true a.dst (dstSpan a)
def srcChunks (s : State) (a : CopyArgs) : List Chunk :=
  ((srcSpans a).map fun x => chunks (copyWalked s a) (copyAsker s) false x.1 x.2).flatten
/-- All that R110 checks of a command. -/
def copyChecks (s : State) (a : CopyArgs) : List Chunk :=
  dstChunks s a ++ srcChunks s a ++ overlapStop a (copyAsker s) ++ shapeStop a (copyAsker s) ++
    scrubStop (copyWalked s a) a (copyAsker s) (runsOf (srcChunks s a))

theorem copyWalked_onlyArray (s : State) (a : CopyArgs) : OnlyArray s (copyWalked s a) := by
  unfold copyWalked
  refine foldl_onlyArray (fun u x => ?_) _ s
  exact checkExtent_onlyArray ..

section
variable {c : Ctl} {rd : Reg} {a : CopyArgs} {s : State}

theorem dataMoving_empty (he : emptyCopy a = true) : dataMoving c rd a s = issueCopy c rd a [] [] [] true s := if_pos he
/-- A command that nothing stops issues in the state after its walks, its batch's slot opened when it had none (R103, R110, R111). -/
theorem dataMoving_issues (he : emptyCopy a = false) (hroom : queueRoom s (clusterOf (curExec s)) (curExec s % 16) 32 = true)
    (hstores : storesWait s = false) (hready : (dstChunks s a ++ srcChunks s a).find? Chunk.waits = none)
    (hallowed : firstStop (fun n _ => n) (copyChecks s a) = none)
    (hslot : batchSlot s (.bank s.cur) (batchNum (rowWord s s.cur 12)) ≠ none ∨ freeSlot s (.bank s.cur) ≠ none) :
    ∃ v src idx, dataMoving c rd a s = issueCopy c rd a (runsOf (dstChunks s a)) src idx false v ∧
      SameIssue (copyWalked s a) v ∧ SameBytes (copyWalked s a) v := by
  unfold dataMoving
  dsimp only
  rw [if_neg (Bool.eq_false_iff.1 he), if_neg (by rw [hroom]; exact Bool.false_ne_true), if_neg (Bool.eq_false_iff.1 hstores)]
  split
  · next hwait => exact nomatch hready.symm.trans hwait
  · next hwait => exact nomatch hready.symm.trans hwait
  split
  · next hstop => exact nomatch hallowed.symm.trans hstop
  have hwalk := copyWalked_onlyArray s a
  have hslot' := batchSlot_of_rows hwalk.rows s.cur (batchNum (rowWord s s.cur 12))
  split
  · exact ⟨copyWalked s a, _, _, rfl, .refl _, .refl _⟩
  · next hnone =>
    have hbatch : batchSlot s (.bank s.cur) (batchNum (rowWord s s.cur 12)) = none := by
      rw [← hslot', ← rowWord_of_rows hwalk.rows, ← hwalk.cur]
      exact hnone
    obtain ⟨i, hi⟩ := Option.ne_none_iff_exists'.1 (hslot.resolve_left (not_not.2 hbatch))
    have hfree : freeSlot (copyWalked s a) (.bank (copyWalked s a).cur) = some i := by
      rw [hwalk.cur, freeSlot_of_rows hwalk.rows, hi]
    unfold withSlot
    split
    · next j hj =>
      obtain rfl : i = j := Option.some.inj (hfree.symm.trans hj)
      exact ⟨_, _, _, rfl, openSlot_sameIssue _ _ _ _ _ _ _ (freeSlot_lt hi), .refl _⟩
    · next hfull => exact nomatch hfree.symm.trans hfull

/-- The two clauses of the obligation about a command whose instruction runs it. -/
theorem command_clauses {i : Instr} (hw : rd.win ≠ 3) (hx : exec i s = .next (dataMoving c rd a s)) :
    (emptyCopy a = true → Runs i s fun t => CommandDone c rd s s t ∧ OnlyRows { s with batches := t.batches } t) ∧
    (emptyCopy a = false → queueRoom s (clusterOf (curExec s)) (curExec s % 16) 32 = true → storesWait s = false →
      (dstChunks s a ++ srcChunks s a).find? Chunk.waits = none →
      firstStop (fun n _ => n) (copyChecks s a) = none →
      batchSlot s (.bank s.cur) (batchNum (rowWord s s.cur 12)) ≠ none ∨ freeSlot s (.bank s.cur) ≠ none →
      Runs i s fun t => CommandDone c rd s (copyWalked s a) t ∧ CommandQueued a (runsOf (dstChunks s a)) s t) := by
  refine ⟨fun he => runs_of_eq hx (dataMoving_empty he) (issueCopy_empty_done hw a s),
    fun he hroom hstores hready hallowed hslot => ?_⟩
  obtain ⟨v, src, idx, hissue, hsame, hbytes⟩ := dataMoving_issues (c := c) (rd := rd) he hroom hstores hready hallowed hslot
  have hsame' := (copyWalked_onlyArray s a).sameIssue.trans hsame
  obtain ⟨hdone, hqueued⟩ := issueCopy_enters_done hw a (runsOf (dstChunks s a)) src idx v
  exact runs_of_eq hx hissue ⟨hdone.of_sameIssue hsame' hbytes, hqueued.of_sameIssue hsame'⟩

/-- A copy instruction that nothing holds up runs its body (R105, R179). -/
theorem copyChain_ready {f : State → State} (hg : guardPasses c s = true) (hm : MemReady s) (hc : isCtl (curExec s) = false)
    (hw : rd.win ≠ 3) : copyChain c rd s f = .next (f s) := by
  unfold copyChain
  rw [memChain_ready hg hm, if_neg (Bool.eq_false_iff.1 hc), if_neg hw]

end

end Sys2Proof.Machine
end

section
/-!
PROOF. O35: the batches (R114 to R118), and the whole.
-/

namespace Sys2Proof.Machine

/-! ### The closing of a batch (R115) -/

/-- d12 when the open batch has closed: the next number is open, one more batch is outstanding, and no command has been counted. -/
def closedWord (d : Word) : Word := putBits (putBits (putBits d 16 16 (batchNum d + 1)) 8 8 (bits d 8 8 + 1)) 0 8 0

theorem batchNum_closedWord (d : Word) : batchNum (closedWord d) = (batchNum d + 1) % 2 ^ 16 := by
  unfold batchNum closedWord
  rw [bits_putBits_other _ _ _ _ _ _ (by omega), bits_putBits_other _ _ _ _ _ _ (by omega), bits_putBits_self _ _ _ _ (by omega)]
  rfl
theorem closeBatch_frame (s : State) (ev : Bool) : closeBatch s ev =
    { s with rows := (setRowWord s s.cur 12 (closedWord (rowWord s s.cur 12))).rows,
             batches := (closeBatch s ev).batches, agenda := (closeBatch s ev).agenda } := by
  unfold closeBatch
  dsimp only
  rw [putBatch_frame]
  split <;> rfl
theorem rowWord_closeBatch (s : State) (ev : Bool) (k : Nat) : rowWord (closeBatch s ev) s.cur k =
    if k = 12 then closedWord (rowWord s s.cur 12) else rowWord s s.cur k := by
  rw [closeBatch_frame]
  refine (rowWord_setRowWord s s.cur 12 s.cur k _ (by omega)).trans ?_
  simp only [true_and]

/-! ### The end of a cpyw's wait (R116, R117) -/

theorem completeWait_kept (s : State) : WordsKept s (completeWait s) [15] := by
  intro pr k hk
  refine (rowWord_setRowWord s s.cur 15 pr k _ (by omega)).trans (if_neg ?_)
  simp only [List.mem_singleton] at hk
  tauto
theorem endCpyw_good {c : Ctl} {rd : Reg} {s : State} (h : badBatch s = none) : endCpyw c rd s =
    advance c (writeReg (observeCopies (completeWait s) (curRow s)) rd (w64 (bits (rowWord s s.cur 12) 8 8))) := by
  unfold endCpyw
  rw [h]
theorem endCpyw_bad {c : Ctl} {rd : Reg} {s : State} {b : Batch} (h : badBatch s = some b) :
    endCpyw c rd s = fault (putBatch s { b with rep := true }) (batchFault b) (w64 b.errAt) := by
  unfold endCpyw
  rw [h]
/-- What a fault leaves of the state does not depend on the batches before it. -/
theorem FaultIs.of_batches {s t : State} {l : List Batch} {f : FaultInfo} {a : Word} (h : FaultIs { s with batches := l } t f a) :
    FaultIs s t f a := by
  obtain ⟨hd5, hd6, hstate, hwords, hlow, hmem, hpads⟩ := h
  exact ⟨hd5, hd6, hstate, hwords, hlow, hmem, hpads⟩
theorem endCpyw_faults {c : Ctl} {rd : Reg} {s : State} {b : Batch} (h : badBatch s = some b) :
    FaultIs s (endCpyw c rd s) (batchFault b) (w64 b.errAt) := by
  rw [endCpyw_bad h, putBatch_frame]
  exact (fault_is ..).of_batches

section
variable {c : Ctl} {rd ra : Reg} {n : BitVec 5} {ev : Bool} {s : State} (hg : guardPasses c s = true) (hm : MemReady s)
  (hc : isCtl (curExec s) = false) (hw : rd.win ≠ 3)
include hg hm hc hw

/-! ### cpyc (R115) -/

theorem exec_cpyc : exec (.cpyc c rd ev) s = .next (
    if 32 ≤ bits (rowWord s s.cur 12) 8 8 then setWait s .batchFull
    else advance c (writeReg (closeBatch s ev) rd (w64 (batchNum (rowWord s s.cur 12))))) := by
  show execCpyc c rd ev s = _
  exact copyChain_ready hg hm hc hw
theorem cpyc_closes (h : bits (rowWord s s.cur 12) 8 8 < 32) : Runs (.cpyc c rd ev) s fun t =>
    rowWord t s.cur 1 = nextPc c s ∧ SameBytes s t ∧
      batchNum (rowWord t s.cur 12) = (batchNum (rowWord s s.cur 12) + 1) % 2 ^ 16 ∧
      (isG0 rd = false → rowWord t s.cur (regIndex rd) = BitVec.ofNat 64 (batchNum (rowWord s s.cur 12))) := by
  refine runs_of_eq (exec_cpyc hg hm hc hw) (if_neg (Nat.not_le.2 h)) ?_
  have hword := rowWord_closeBatch s ev
  obtain ⟨hnext, h12, hval⟩ := words_result c rd (w64 (batchNum (rowWord s s.cur 12))) hw (v := closeBatch s ev)
    (by rw [closeBatch_frame]) (hword 1)
  refine ⟨hnext, sameBytes_result c rd _ ?_ ?_, ?_, hval⟩
  · rw [closeBatch_frame]
  · rw [closeBatch_frame]
  · rw [h12, hword 12, if_pos rfl, batchNum_closedWord]
theorem cpyc_waits {k : Nat} (h : 32 ≤ bits (rowWord s s.cur 12) 8 8) (hk : slotOf s s.cur = some k) :
    Runs (.cpyc c rd ev) s fun t => WaitsAt s t k .batchFull :=
  runs_of_eq (exec_cpyc hg hm hc hw) (if_pos h) (setWait_waitsAt _ hk)

/-! ### cpyw (R116, R117) -/

theorem exec_cpyw : exec (.cpyw c rd n ev) s = .next (
    if !hadWaited s (.cpyw n.toNat) && decide (32 ≤ bits (rowWord s s.cur 12) 8 8) then setWait s .batchFull
    else
      let u := if hadWaited s (.cpyw n.toNat) then s else closeBatch s ev
      if bits (rowWord u u.cur 12) 8 8 ≤ n.toNat then endCpyw c rd u else setWait u (.instruction (.cpyw n.toNat))) := by
  show execCpyw c rd n ev s = _
  exact copyChain_ready hg hm hc hw
/-- A cpyw that has waited closes no batch. -/
theorem exec_cpyw_again (ha : hadWaited s (.cpyw n.toNat) = true) : exec (.cpyw c rd n ev) s = .next (
    if bits (rowWord s s.cur 12) 8 8 ≤ n.toNat then endCpyw c rd s else setWait s (.instruction (.cpyw n.toNat))) := by
  rw [exec_cpyw hg hm hc hw, ha]
  rfl
/-- A cpyw that has not waited closes the open batch first. -/
theorem exec_cpyw_first (ha : hadWaited s (.cpyw n.toNat) = false) (h : bits (rowWord s s.cur 12) 8 8 < 32)
    (hle : bits (rowWord (closeBatch s ev) s.cur 12) 8 8 ≤ n.toNat) :
    exec (.cpyw c rd n ev) s = .next (endCpyw c rd (closeBatch s ev)) := by
  have hcur : (closeBatch s ev).cur = s.cur := by rw [closeBatch_frame]
  rw [exec_cpyw hg hm hc hw, ha, decide_eq_false (Nat.not_le.2 h)]
  refine congrArg Host.Outcome.next ((if_neg Bool.false_ne_true).trans (if_pos ?_))
  show bits (rowWord (closeBatch s ev) (closeBatch s ev).cur 12) 8 8 ≤ n.toNat
  rwa [hcur]
theorem cpyw_again_ends (ha : hadWaited s (.cpyw n.toNat) = true) (hle : bits (rowWord s s.cur 12) 8 8 ≤ n.toNat)
    (hb : badBatch s = none) : Runs (.cpyw c rd n ev) s fun t =>
      OnlyRows { s with stale := t.stale } t ∧ ChainDone s t (nextPc c s) (15 :: resultWords rd) ∧
        (isG0 rd = false → rowWord t s.cur (regIndex rd) = BitVec.ofNat 64 (bits (rowWord s s.cur 12) 8 8)) := by
  refine runs_of_eq (exec_cpyw_again hg hm hc hw ha) ((if_pos hle).trans (endCpyw_good hb)) ?_
  have hkept : WordsKept s (observeCopies (completeWait s) (curRow s)) [15] := completeWait_kept s
  exact ⟨onlyStale_result .., done_of_kept (ws := [15]) c rd _ hw rfl hkept (by decide) (by decide),
    (result_is c (observeCopies (completeWait s) (curRow s)) rd _ hw).value⟩
theorem cpyw_first_ends (ha : hadWaited s (.cpyw n.toNat) = false) (h : bits (rowWord s s.cur 12) 8 8 < 32)
    (hb : badBatch (closeBatch s ev) = none) (hle : bits (rowWord (closeBatch s ev) s.cur 12) 8 8 ≤ n.toNat) :
    Runs (.cpyw c rd n ev) s fun t => rowWord t s.cur 1 = nextPc c s ∧ SameBytes s t ∧
      (isG0 rd = false → rowWord t s.cur (regIndex rd) = BitVec.ofNat 64 (bits (rowWord (closeBatch s ev) s.cur 12) 8 8)) := by
  have hcur : (closeBatch s ev).cur = s.cur := by rw [closeBatch_frame]
  refine runs_of_eq (exec_cpyw_first hg hm hc hw ha h hle) (endCpyw_good hb) ?_
  rw [hcur]
  have hpc : rowWord (completeWait (closeBatch s ev)) s.cur 1 = pc s :=
    (completeWait_kept _ _ _ (.inr (by simp))).trans (rowWord_closeBatch s ev 1)
  obtain ⟨hnext, -, hval⟩ := words_result c rd (w64 (bits (rowWord (closeBatch s ev) s.cur 12) 8 8)) hw
    (v := observeCopies (completeWait (closeBatch s ev)) (curRow (closeBatch s ev))) hcur hpc
  refine ⟨hnext, sameBytes_result c rd _ ?_ ?_, hval⟩
  · show (closeBatch s ev).mem = s.mem
    rw [closeBatch_frame]
  · show (closeBatch s ev).spads = s.spads
    rw [closeBatch_frame]
theorem cpyw_faults {b : Batch} (ha : hadWaited s (.cpyw n.toNat) = true) (hle : bits (rowWord s s.cur 12) 8 8 ≤ n.toNat)
    (hb : badBatch s = some b) : Runs (.cpyw c rd n ev) s fun t => FaultIs s t (batchFault b) (BitVec.ofNat 64 b.errAt) :=
  runs_of_eq (exec_cpyw_again hg hm hc hw ha) (if_pos hle) (endCpyw_faults hb)
theorem cpyw_waits {k : Nat} (ha : hadWaited s (.cpyw n.toNat) = true) (hlt : n.toNat < bits (rowWord s s.cur 12) 8 8)
    (hk : slotOf s s.cur = some k) : Runs (.cpyw c rd n ev) s fun t => WaitsAt s t k (.instruction (.cpyw n.toNat)) :=
  runs_of_eq (exec_cpyw_again hg hm hc hw ha) (if_neg (Nat.not_le.2 hlt)) (setWait_waitsAt _ hk)

/-! ### cpyq (R118) -/

theorem exec_cpyq : exec (.cpyq c rd ra) s = .next (advance c (writeReg
    (if bits (batchStatus s (bits (readReg s ra) 0 16)) 0 2 = 2 then observeCopies s (curRow s) else s) rd
    (batchStatus s (bits (readReg s ra) 0 16)))) := by
  show execCpyq c rd ra s = _
  exact copyChain_ready hg hm hc hw
/-- A status word of a reported batch is observed: what the row may still fetch of old code words changes, and no row. -/
theorem cpyq_returns : Runs (.cpyq c rd ra) s fun t => OnlyRows { s with stale := t.stale } t ∧
    ResultIs c rd s t (batchStatus s ((readReg s ra).toNat % 2 ^ 16)) := by
  have hsel : bits (readReg s ra) 0 16 = (readReg s ra).toNat % 2 ^ 16 := by rw [bits_eq_div, pow_zero, Nat.div_one]
  rw [← hsel]
  refine ⟨_, exec_cpyq hg hm hc hw, ?_⟩
  generalize batchStatus s (bits (readReg s ra) 0 16) = v
  split
  · obtain ⟨hval, hnext, hcount, hwords⟩ := result_is c (observeCopies s (curRow s)) rd v hw
    exact ⟨onlyStale_result .., hval, hnext, hcount, hwords⟩
  · exact ⟨onlyStale_result .., result_is c s rd v hw⟩

end

/-! ### The whole -/

/-- Settles O35: a command that passes its checks is counted and, unless it is empty, enters its executor's queue; cpyc closes the open
batch, cpyw waits for those outstanding, and cpyq returns a batch's status. -/
theorem copyInstructions : Obligations.CopyInstructions := by
  unfold Obligations.CopyInstructions
  refine ⟨fun c rd ra rb hint s hg hm hc hw => ?_, fun c rd ra n ev s hg hm hc hw =>
    ⟨cpyc_closes hg hm hc hw, fun k => cpyc_waits hg hm hc hw, cpyw_again_ends hg hm hc hw, cpyw_first_ends hg hm hc hw,
      fun b => cpyw_faults hg hm hc hw, fun k => cpyw_waits hg hm hc hw, cpyq_returns hg hm hc hw⟩⟩
  have hscrub (hp : 1 ≤ priv s) :
      exec (.scrub c rd ra) s = .next (dataMoving c rd (copyArgs s .scrub ra none .norm) s) := by
    show execScrub c rd ra s = _
    unfold execScrub
    rw [copyChain_ready hg hm hc hw, if_neg (Nat.one_le_iff_ne_zero.1 hp)]
  exact ⟨command_clauses hw (show execCpy c rd ra hint s = _ from copyChain_ready hg hm hc hw),
    command_clauses hw (show execCpyz c rd ra hint s = _ from copyChain_ready hg hm hc hw),
    command_clauses hw (show execCpy2 c rd ra rb hint s = _ from copyChain_ready hg hm hc hw),
    command_clauses hw (show execCpyg c rd ra rb hint s = _ from copyChain_ready hg hm hc hw),
    command_clauses hw (show execDclone c rd ra s = _ from copyChain_ready hg hm hc hw),
    command_clauses hw (show execDzero c rd ra s = _ from copyChain_ready hg hm hc hw),
    fun hp => command_clauses hw (hscrub hp)⟩

end Sys2Proof.Machine
end

section
/-!
SUPPORT. What a chain leaves that takes a slot of the flight record: the slot's fields, OUTS and QCNT, and the words it keeps (R174, R196).
-/

namespace Sys2Proof.Machine

/-! ### What a slot and its side record leave -/

@[simp] theorem setOpRec_rows (s : State) (o : OpRec) : (setOpRec s o).rows = s.rows := rfl
@[simp] theorem setOpRec_cur (s : State) (o : OpRec) : (setOpRec s o).cur = s.cur := rfl
@[simp] theorem setOpRec_mem (s : State) (o : OpRec) : (setOpRec s o).mem = s.mem := rfl
@[simp] theorem setOpRec_spads (s : State) (o : OpRec) : (setOpRec s o).spads = s.spads := rfl
@[simp] theorem countChain_mem (s : State) : (countChain s).mem = s.mem := rfl
@[simp] theorem countChain_spads (s : State) : (countChain s).spads = s.spads := rfl
theorem takeSlot_frame (s : State) (pr i size dest cls kind : Nat) (a : Word) : takeSlot s (.bank pr) i size dest cls kind a =
    { s with time := s.time + 1, rows := (takeSlot s (.bank pr) i size dest cls kind a).rows } := rfl

/-! ### What the executing row's words say -/

theorem destOf_lt (rd : Reg) : destOf rd < 128 := by
  unfold destOf
  split
  · omega
  · exact regIndex_lt rd
theorem curRow_of_words {s t : State} (hcur : t.cur = s.cur) (h : rowWord t s.cur 3 = rowWord s s.cur 3) : curRow t = curRow s := by
  unfold curRow
  rw [hcur]
  exact rowId_of_d3 h
theorem nextPc_of_words {s t : State} (c : Ctl) (hcur : t.cur = s.cur) (h : rowWord t s.cur 1 = rowWord s s.cur 1) :
    nextPc c t = nextPc c s := by
  unfold nextPc pc
  rw [hcur, h]
theorem slotTag_of_rows {s t : State} (h : t.rows = s.rows) (pr i : Nat) : slotTag t (.bank pr) i = slotTag s (.bank pr) i :=
  congrArg (bits · 18 32) (slotWord_of_rows h pr i)
theorem slotTag_countChain (s : State) (i : Nat) : slotTag (countChain s) (.bank s.cur) i = slotTag s (.bank s.cur) i :=
  congrArg (bits · 18 32) (rowWord_setRowWord_other s s.cur 2 _ _ (by omega) (by omega))
theorem sameBytes_of_same {s t : State} (hmem : t.mem = s.mem) (hspads : t.spads = s.spads) : SameBytes s t := by
  refine ⟨fun a => by rw [hmem], fun c a => ?_⟩
  unfold spad
  rw [hspads]

/-! ### The word of a taken slot -/

/-- The second word of slot i when it has been taken: ISSUED, with the tag of its time (R196, R422). -/
def takenWord (s : State) (i size dest cls kind : Nat) : Word :=
  w64 (at_ 1 58 + at_ (size % 256) 50 + at_ (tagAt { s with time := s.time + 1 } i) 18 + at_ dest 11 + at_ cls 8 + kind)

/-- The fields of a taken slot's word, which do not overlap (R196). -/
theorem bits_takenWord (s : State) {i size dest cls kind : Nat} (hi : i < 8) (hsize : size < 256) (hdest : dest < 128) (hcls : cls < 8)
    (hkind : kind < 256) :
    let w := takenWord s i size dest cls kind
    bits w 58 6 = 1 ∧ bits w 50 8 = size ∧ bits w 11 7 = dest ∧ bits w 8 3 = cls ∧ bits w 0 8 = kind := by
  intro w
  have htag : tagAt { s with time := s.time + 1 } i < 2 ^ 32 := by
    unfold tagAt
    dsimp only
    omega
  have hw : w.toNat = at_ 1 58 + at_ (size % 256) 50 + at_ (tagAt { s with time := s.time + 1 } i) 18 + at_ dest 11 + at_ cls 8 +
      kind := by
    refine (BitVec.toNat_ofNat ..).trans (Nat.mod_eq_of_lt ?_)
    unfold at_
    omega
  simp only [bits_eq_div, hw]
  generalize tagAt { s with time := s.time + 1 } i = tag at htag
  unfold at_
  omega

/-! ### Words and slots after a slot is taken -/

theorem busySlots_congr {s t : State} {pr : Nat} (h : ∀ i, i < 8 → rowWord t pr (17 + 2 * i) = rowWord s pr (17 + 2 * i)) :
    busySlots t (.bank pr) = busySlots s (.bank pr) := by
  refine List.filter_congr fun i hi => ?_
  show (bits (rowWord t pr (17 + 2 * i)) 58 6 != 0) = (bits (rowWord s pr (17 + 2 * i)) 58 6 != 0)
  rw [h i (List.mem_range.1 hi)]
theorem busySlots_length (s : State) (l : Loc) : (busySlots s l).length ≤ 8 := by
  exact (List.length_filter_le ..).trans_eq List.length_range
/-- The row words after OUTS has been counted anew. -/
theorem rowWord_recount (s : State) (pr q k : Nat) : rowWord (recount s (.bank pr)) q k =
    if q = pr ∧ k = 2 then putBits (rowWord s pr 2) 18 6 (busySlots s (.bank pr)).length else rowWord s q k := by
  unfold recount setLocBits setLocWord
  exact rowWord_setRowWord _ _ _ _ _ _ (by omega)
/-- The executing row's two words of slot i are written. -/
def slotWritten (s : State) (i : Nat) (a w : Word) : State := setRowWord (setRowWord s s.cur (16 + 2 * i) a) s.cur (17 + 2 * i) w
theorem rowWord_slotWritten (s : State) {i : Nat} (a w : Word) (hi : i < 8) (q k : Nat) : rowWord (slotWritten s i a w) q k =
    if q = s.cur ∧ k = 17 + 2 * i then w else if q = s.cur ∧ k = 16 + 2 * i then a else rowWord s q k := by
  unfold slotWritten
  rw [rowWord_setRowWord _ _ _ _ _ _ (by omega), rowWord_setRowWord _ _ _ _ _ _ (by omega)]
theorem rows_openSlot (s : State) (i size dest cls kind : Nat) (a : Word) (o : OpRec) : (openSlot s i size dest cls kind a o).rows =
    (recount (slotWritten { s with time := s.time + 1 } i a (takenWord s i size dest cls kind)) (.bank s.cur)).rows := rfl
/-- The row words after slot i of the executing row has been taken. -/
theorem rowWord_openSlot_eq (s : State) {i : Nat} (size dest cls kind : Nat) (a : Word) (o : OpRec) (hi : i < 8) (q k : Nat) :
    rowWord (openSlot s i size dest cls kind a o) q k =
      if q = s.cur ∧ k = 2 then putBits (rowWord s s.cur 2) 18 6 (busySlots (openSlot s i size dest cls kind a o) (.bank s.cur)).length
      else if q = s.cur ∧ k = 17 + 2 * i then takenWord s i size dest cls kind
      else if q = s.cur ∧ k = 16 + 2 * i then a else rowWord s q k := by
  have hrows := rows_openSlot s i size dest cls kind a o
  have hword := rowWord_slotWritten { s with time := s.time + 1 } a (takenWord s i size dest cls kind) hi
  generalize slotWritten _ i a _ = u at hrows hword
  generalize openSlot s i size dest cls kind a o = t at hrows
  have ht (q k : Nat) := (rowWord_of_rows hrows q k).trans (rowWord_recount u s.cur q k)
  have hbusy : busySlots t (.bank s.cur) = busySlots u (.bank s.cur) :=
    busySlots_congr fun j _ => (ht ..).trans (if_neg (by omega))
  have h2 : rowWord u s.cur 2 = rowWord s s.cur 2 := (hword ..).trans ((if_neg (by omega)).trans (if_neg (by omega)))
  rw [ht, hbusy, h2, hword]
  rfl

/-- Slot i of the executing row is taken: nothing else of its row changes but OUTS (R174, R196). -/
theorem openSlot_issued (s : State) {i size dest cls kind : Nat} (a : Word) (o : OpRec) (hi : i < 8) (hsize : size < 256)
    (hdest : dest < 128) (hcls : cls < 8) (hkind : kind < 256) :
    Issued (pc s) s (openSlot s i size dest cls kind a o) i size dest cls kind a := by
  obtain ⟨hb, hbsize, hbdest, hbcls, hbkind⟩ := bits_takenWord s hi hsize hdest hcls hkind
  have hword := rowWord_openSlot_eq s size dest cls kind a o hi
  have hslot : slotWord (openSlot s i size dest cls kind a o) (.bank s.cur) i = takenWord s i size dest cls kind :=
    (hword ..).trans ((if_neg (by omega)).trans (if_pos ⟨rfl, rfl⟩))
  refine ⟨(congrArg (bits · 58 6) hslot).trans hb, (congrArg (bits · 50 8) hslot).trans hbsize,
    (congrArg (bits · 11 7) hslot).trans hbdest, (congrArg (bits · 8 3) hslot).trans hbcls,
    (congrArg (bits · 0 8) hslot).trans hbkind, ?_, ?_, ?_, fun pr k hk => ?_⟩
  · exact (hword ..).trans ((if_neg (by omega)).trans ((if_neg (by omega)).trans (if_pos ⟨rfl, rfl⟩)))
  · have hlen := busySlots_length (openSlot s i size dest cls kind a o) (.bank s.cur)
    rw [hword, if_pos ⟨rfl, rfl⟩, bits_putBits_self _ _ _ _ (by omega)]
    omega
  · exact (hword ..).trans ((if_neg (by omega)).trans ((if_neg (by omega)).trans (if_neg (by omega))))
  · simp only [List.mem_cons, List.not_mem_nil, or_false, not_or] at hk
    exact (hword ..).trans ((if_neg (by omega)).trans ((if_neg (by omega)).trans (if_neg (by omega))))

/-! ### A slot that has been taken, in the states after it -/

section
variable {s t u : State} {target : Word} {i size dest cls kind : Nat} {a : Word}

/-- The chain that took the slot is counted (R192). -/
theorem Issued.counted (h : Issued target s t i size dest cls kind a) (hcur : t.cur = s.cur) :
    Issued target s (countChain t) i size dest cls kind a := by
  have hword (q k : Nat) (hk : q ≠ s.cur ∨ k ≠ 2) : rowWord (countChain t) q k = rowWord t q k :=
    (rowWord_setRowWord t t.cur 2 q k _ (by omega)).trans (if_neg (by rw [hcur]; tauto))
  have hslot : slotWord (countChain t) (.bank s.cur) i = slotWord t (.bank s.cur) i := hword _ _ (.inr (by omega))
  have hbusy : busySlots (countChain t) (.bank s.cur) = busySlots t (.bank s.cur) :=
    busySlots_congr fun j _ => hword _ _ (.inr (by omega))
  refine ⟨(congrArg (bits · 58 6) hslot).trans h.state, (congrArg (bits · 50 8) hslot).trans h.size,
    (congrArg (bits · 11 7) hslot).trans h.dest, (congrArg (bits · 8 3) hslot).trans h.cls,
    (congrArg (bits · 0 8) hslot).trans h.kind, (hword _ _ (.inr (by omega))).trans h.addr, ?_,
    (hword _ _ (.inr (by omega))).trans h.next, fun pr k hk => (hword _ _ ?_).trans (h.words _ _ hk)⟩
  · have h2 : rowWord (countChain t) s.cur 2 = putBits (rowWord t t.cur 2) 24 8 (min 255 (bits (rowWord t t.cur 2) 24 8 + 1)) :=
      (rowWord_setRowWord t t.cur 2 s.cur 2 _ (by omega)).trans (if_pos ⟨hcur.symm, rfl⟩)
    rw [h2, bits_putBits_other _ _ _ _ _ _ (by omega), hcur, h.outs, hbusy]
  · simp only [List.mem_cons, not_or] at hk
    tauto
/-- What was issued does not depend on what is no row. -/
theorem Issued.of_rows (h : Issued target s t i size dest cls kind a) (hrows : u.rows = t.rows) :
    Issued target s u i size dest cls kind a := by
  have hslot := slotWord_of_rows hrows s.cur i
  refine ⟨(congrArg (bits · 58 6) hslot).trans h.state, (congrArg (bits · 50 8) hslot).trans h.size,
    (congrArg (bits · 11 7) hslot).trans h.dest, (congrArg (bits · 8 3) hslot).trans h.cls,
    (congrArg (bits · 0 8) hslot).trans h.kind, (rowWord_of_rows hrows ..).trans h.addr, ?_,
    (rowWord_of_rows hrows ..).trans h.next, fun pr k hk => (rowWord_of_rows hrows ..).trans (h.words pr k hk)⟩
  rw [rowWord_of_rows hrows, h.outs, busySlots_congr fun j _ => rowWord_of_rows hrows ..]

end

end Sys2Proof.Machine
end

section
/-!
PROOF. O34: the cask instructions (R139 to R150), their checks in order, the event of a refused append (R147), and the request to the tail
slice, at which the row waits at the instruction (R143).
-/

namespace Sys2Proof.Machine

/-! ### The checks of the page (R142, R438, R447) -/

section
variable {s : State} {x : TlbEnt} {need : Need} {append : Bool} {src : Option Word}

theorem caskStop_class (h : leafClass x.leaf < 2) : caskStop s x need append src = some (faultOf 5 (caskClassInfo x) 5, none) :=
  if_pos h
theorem caskStop_remote (h : 2 ≤ leafClass x.leaf) (hr : isRemote s (leafFrame x.leaf) = true) :
    caskStop s x need append src = some (faultOf 5 17 5, none) := (if_neg (Nat.not_lt.2 h)).trans (if_pos hr)
/-- An append to a sealed page that the row may write stops before its source and its key are looked at (R142, R147). -/
theorem caskStop_sealed (hs : leafClass x.leaf = clsSealed) (hr : isRemote s (leafFrame x.leaf) = false)
    (hp : permFault (priv s) need x.leaf = none) : caskStop s x need true src = some (faultOf 7 0 5, none) := by
  simp [caskStop, hs, hr, hp, clsSealed, cSealed]

end

/-! ### From the checks to the body -/

section
variable {s : State} {x : TlbEnt} {rd ra : Reg} (hw : rd.win ≠ 3) (hin : inWindow s (curPart s) (readReg s ra) = false)
  (hx : lookup s (caskBase (readReg s ra)) = .leaf x)
include hw hin hx

theorem caskChain_stops {need : Need} {append : Bool} {src : Option Word} {f : FaultInfo} {a : Option Word}
    (h : caskStop s x need append src = some (f, a)) (body : State → TlbEnt → Nat → State) :
    caskChain rd (readReg s ra) need append src s body = if f.cause = cSealed then caskFault s s.cur f (caskBase (readReg s ra))
      else fault s f (a.getD (caskBase (readReg s ra))) := by
  unfold caskChain withCask
  dsimp only
  rw [if_neg hw, hin, if_neg Bool.false_ne_true, hx]
  dsimp only
  rw [h]
theorem caskChain_passes {need : Need} {append : Bool} {src : Option Word} {i : Nat} (h : caskStop s x need append src = none)
    (hi : freeSlot s (.bank s.cur) = some i) (body : State → TlbEnt → Nat → State) :
    caskChain rd (readReg s ra) need append src s body = body s x i := by
  unfold caskChain withCask withSlot
  dsimp only
  rw [if_neg hw, hin, if_neg Bool.false_ne_true, hx]
  dsimp only
  rw [h]
  dsimp only
  rw [hi]

end

/-! ### The instructions -/

section
variable {c : Ctl} {rd ra rb : Reg} {m : CaskMod} {s : State} (hg : guardPasses c s = true) (hm : MemReady s)
include hg hm

theorem exec_app : exec (.app c rd ra rb m) s = .next (caskChain rd (readReg s ra) .write true none s fun u x i =>
    afterRelease u (appendRelease m) fun v =>
      sendCask c rd (readReg v ra) 5 2 (appSize m) (.append 0 true) (leBytes (appSize m) (readReg v rb).toNat) x v i) :=
  show execApp c rd ra rb m s = _ from memChain_ready hg hm
theorem exec_appl (hc : isCtl (curExec s) = false) : exec (.appl c rd ra rb m) s =
    .next (caskChain rd (readReg s ra) .write true (some (readReg s rb)) s fun u x i =>
      afterRelease u (appendRelease m) fun v =>
        if spadError v then fault v (faultOf cCheck 2 5) (readReg s rb)
        else sendCask c rd (readReg v ra) 6 2 64 (.append 0 true) (spadBytes v (clusterOf (curExec v)) (readReg s rb).toNat 64) x
          (spadRead v (clusterOf (curExec v))) i) := by
  show execAppl c rd ra rb m s = _
  unfold execAppl
  rw [memChain_ready hg hm, if_neg (Bool.eq_false_iff.1 hc)]
/-- A row of a control executor has no scratchpad to append from (R382). -/
theorem appl_ctl (hc : isCtl (curExec s) = true) : Faults (.appl c rd ra rb m) s (faultOf 5 18 5) (pc s) :=
  faults_of_exec (show execAppl c rd ra rb m s = _ from (memChain_ready hg hm).trans (congrArg _ (if_pos hc)))
theorem exec_seal : exec (.seal c rd ra) s = .next (caskChain rd (readReg s ra) .write false none s fun s x i =>
    sendCask c rd (readReg s ra) 7 2 8 .reg [] x s i) :=
  show execSeal c rd ra s = _ from memChain_ready hg hm
theorem exec_tail : exec (.tail c rd ra) s = .next (caskChain rd (readReg s ra) .read false none s fun s x i =>
    sendCask c rd (readReg s ra) 8 0 8 (.read .word) [] x s i) :=
  show execTail c rd ra s = _ from memChain_ready hg hm

end

/-- A page that stops every cask instruction alike does so with a fault at its base. -/
theorem casks_fault {c : Ctl} {rd ra rb : Reg} {m : CaskMod} {s : State} {x : TlbEnt} {f : FaultInfo} (hg : guardPasses c s = true)
    (hm : MemReady s) (hw : rd.win ≠ 3) (hin : inWindow s (curPart s) (readReg s ra) = false)
    (hx : lookup s (caskBase (readReg s ra)) = .leaf x) (hf : f.cause ≠ cSealed)
    (hstop : ∀ need append src, caskStop s x need append src = some (f, none)) :
    Faults (.app c rd ra rb m) s f (caskBase (readReg s ra)) ∧ Faults (.seal c rd ra) s f (caskBase (readReg s ra)) ∧
      Faults (.tail c rd ra) s f (caskBase (readReg s ra)) ∧
      (isCtl (curExec s) = false → Faults (.appl c rd ra rb m) s f (caskBase (readReg s ra))) := by
  have hchain (need : Need) (append : Bool) (src : Option Word) (body : State → TlbEnt → Nat → State) :=
    (caskChain_stops hw hin hx (hstop need append src) body).trans (if_neg hf)
  exact ⟨faults_of_exec ((exec_app hg hm).trans (congrArg _ (hchain ..))),
    faults_of_exec ((exec_seal hg hm).trans (congrArg _ (hchain ..))),
    faults_of_exec ((exec_tail hg hm).trans (congrArg _ (hchain ..))),
    fun hc => faults_of_exec ((exec_appl hg hm hc).trans (congrArg _ (hchain ..)))⟩

/-! ### The event of a refused append (R147, R364) -/

/-- The row takes SEALED_WRITE as an event: it is enabled, and it can be delivered. -/
def SealedEvent (s : State) : Prop :=
  (rowWord s s.cur 10).getLsbD 33 = true ∧ eventOpen s s.cur = true ∧ rowState s s.cur = stOpen
/-- The row goes to its handler with the append as the saved PC, the bit of the event set, and d5 and d6 written as of a fault. -/
def SealedHandled (s : State) (base : Word) (t : State) : Prop :=
  OnlyRows s t ∧ rowWord t s.cur 1 = rowWord s s.cur 8 ∧
    rowWord t s.cur 5 = faultWord (faultOf 7 0 5) false ∧ rowWord t s.cur 6 = base ∧ rowWord t s.cur 10 = rowWord s s.cur 10 ||| 2#64 ∧
    rowWord t s.cur 9 = w64 (at_ (bits (rowWord s s.cur 1) 2 46) 18 + 2 ^ 17 + bits (rowWord s s.cur 2) 0 16) ∧
    WordsKept s t [1, 5, 6, 9, 10]

theorem caskFault_of_event {s : State} {base : Word} (h : SealedEvent s) : caskFault s s.cur (faultOf 7 0 5) base =
    let u := setRowWord (setRowWord s s.cur 5 (faultWord (faultOf 7 0 5) false)) s.cur 6 base
    deliverEvent (setRowWord u s.cur 10 (rowWord u s.cur 10 ||| 2#64)) s.cur := by
  obtain ⟨hbit, hopen, hstate⟩ := h
  exact if_pos (by simp only [hopen, hstate, beq_self_eq_true, Bool.and_true]; exact hbit)
theorem caskFault_of_not_event {s : State} {base : Word} (h : ¬ SealedEvent s) :
    caskFault s s.cur (faultOf 7 0 5) base = fault s (faultOf 7 0 5) base := by
  refine if_neg fun hc => h ?_
  simp only [Bool.and_eq_true, beq_iff_eq] at hc
  obtain ⟨⟨hbit, hopen⟩, hstate⟩ := hc
  exact ⟨hbit, hopen, hstate⟩
theorem caskFault_handled {s : State} {base : Word} (h : SealedEvent s) :
    SealedHandled s base (caskFault s s.cur (faultOf 7 0 5) base) := by
  rw [caskFault_of_event h]
  unfold deliverEvent
  refine ⟨rfl, ?pc, ?d5, ?d6, ?d10, ?d9, fun pr k hk => ?kept⟩
  case kept =>
    simp only [List.mem_cons, List.not_mem_nil, or_false, not_or] at hk
    simp only [rowWord_setRowWord, Nat.reduceLT]
    iterate 5 rw [if_neg (by omega)]
  all_goals simp [rowWord_setRowWord]
/-- What the obligation says of an append to a sealed page. -/
theorem refused_of_exec {i : Instr} {s : State} {base : Word} (hx : exec i s = .next (caskFault s s.cur (faultOf 7 0 5) base)) :
    (¬ SealedEvent s → Faults i s (faultOf 7 0 5) base) ∧ (SealedEvent s → Runs i s (SealedHandled s base)) :=
  ⟨fun h => faults_of_exec (hx.trans (congrArg _ (caskFault_of_not_event h))), fun h => ⟨_, hx, caskFault_handled h⟩⟩

/-! ### The request (R143, R144) -/

/-- The row has asked the tail slice under slot i and waits at its instruction: its request, and what its reply moves the PC to. -/
def CaskAsked (c : Ctl) (rd : Reg) (base : Word) (pa : Nat) (s : State) (i : Nat) (t : State) (size cls kind : Nat) (msg : Req → Msg)
    (op : HomeOp) (data : List Byte) : Prop :=
  Issued (pc s) s t i size (destOf rd) cls kind base ∧ SameBytes s t ∧
    (∃ q, msg q ∈ t.agenda ∧ RequestIs s t i q op pa size ∧ q.data = data) ∧
    ∃ o ∈ t.ops, o.row = curRow s ∧ o.slot = i ∧ o.blocking = true ∧ o.na = nextPc c s

/-- The request and the side record of a cask instruction, in terms of the state v in which its slot is taken. -/
theorem sendCask_eq (c : Ctl) (rd : Reg) (a : Word) (kind cls size : Nat) (op : HomeOp) (data : List Byte) (x : TlbEnt) (s : State)
    (i : Nat) :
    let v := takeSlot s (.bank s.cur) i size (destOf rd) cls kind (caskBase a)
    ∃ (r : Req) (o : OpRec), sendCask c rd a kind cls size op data x s i = send (countChain (setOpRec v o)) (reqMsg kind r) ∧
      (r.op = op ∧ r.pa = leafFrame x.leaf + (caskBase a).toNat % pageSize x.lvl ∧ r.size = size ∧ r.row = curRow v ∧ r.slot = i ∧
        r.tag = slotTag v (.bank v.cur) i) ∧ r.data = data ∧
      o.row = curRow v ∧ o.slot = i ∧ o.blocking = true ∧ o.na = nextPc c v := by
  intro v
  unfold sendCask
  dsimp only
  exact ⟨_, _, rfl, ⟨rfl, rfl, rfl, rfl, rfl, rfl⟩, rfl, rfl, rfl, rfl, rfl⟩
/-- A cask instruction's request is on its way, and its row waits at the instruction (R143). -/
theorem sendCask_asks {c : Ctl} {rd : Reg} {a : Word} {kind cls size : Nat} {op : HomeOp} {data : List Byte} {x : TlbEnt} {s : State}
    {i : Nat} (hi : i < 8) (hsize : size < 256) (hcls : cls < 8) (hkind : kind < 256) :
    CaskAsked c rd (caskBase a) (leafFrame x.leaf + (caskBase a).toNat % pageSize x.lvl) s i
      (sendCask c rd a kind cls size op data x s i) size cls kind (reqMsg kind) op data := by
  obtain ⟨r, o, hsend, ⟨hop, hpa, hrsize, hrow, hslot, htag⟩, hdata, horow, hoslot, hblock, hna⟩ :=
    sendCask_eq c rd a kind cls size op data x s i
  have hissued : Issued (pc s) s (setOpRec (takeSlot s (.bank s.cur) i size (destOf rd) cls kind (caskBase a)) o) i size (destOf rd)
    cls kind (caskBase a) := openSlot_issued s (caskBase a) o hi hsize (destOf_lt rd) hcls hkind
  have hframe := takeSlot_frame s s.cur i size (destOf rd) cls kind (caskBase a)
  generalize takeSlot s (.bank s.cur) i size (destOf rd) cls kind (caskBase a) = v at *
  have hcur : v.cur = s.cur := by rw [hframe]
  have hkept (k : Nat) (hk : k ∉ [1, 2, 16 + 2 * i, 17 + 2 * i]) : rowWord v s.cur k = rowWord s s.cur k :=
    (rowWord_of_rows (setOpRec_rows v o) ..).symm.trans (hissued.words s.cur k (.inr hk))
  have hrow' : curRow v = curRow s := curRow_of_words hcur (hkept 3 (by simp only [List.mem_cons, List.not_mem_nil, or_false]; omega))
  have hpc : nextPc c v = nextPc c s := nextPc_of_words c hcur ((rowWord_of_rows (setOpRec_rows v o) ..).symm.trans hissued.next)
  have hrows := send_rows (countChain (setOpRec v o)) (reqMsg kind r)
  rw [hsend]
  refine ⟨(hissued.counted ((setOpRec_cur v o).trans hcur)).of_rows hrows, sameBytes_of_same ?_ ?_,
    ⟨r, List.mem_append_right _ (List.mem_singleton_self _), ⟨hop, hpa, hrsize, hrow.trans hrow', hslot, htag.trans ?_⟩, hdata⟩,
    o, List.mem_cons_self, horow.trans hrow', hoslot, hblock, hna.trans hpc⟩
  · rw [send_mem, countChain_mem, setOpRec_mem, hframe]
  · rw [send_spads, countChain_spads, setOpRec_spads, hframe]
  · rw [← hcur, slotTag_of_rows hrows, ← setOpRec_cur v o, slotTag_countChain, setOpRec_cur, slotTag_of_rows (setOpRec_rows v o)]

theorem spadRead_frame (s : State) (cl : Nat) :
    spadRead s cl = { s with count := (spadRead s cl).count, hub := (spadRead s cl).hub } := by
  unfold spadRead
  dsimp only
  split <;> rfl
/-- A request that is made once a scratchpad has been read is that of the state before (R164). -/
theorem CaskAsked.of_spadRead {c : Ctl} {rd : Reg} {base : Word} {pa : Nat} {s : State} {cl i : Nat} {t : State} {size cls kind : Nat}
    {msg : Req → Msg} {op : HomeOp} {data : List Byte} (h : CaskAsked c rd base pa (spadRead s cl) i t size cls kind msg op data) :
    CaskAsked c rd base pa s i t size cls kind msg op data := by
  rw [spadRead_frame] at h
  obtain ⟨⟨hstate, hsize, hdest, hcls, hkind, haddr, houts, hnext, hwords⟩, hbytes, hrequest, hrecord⟩ := h
  exact ⟨⟨hstate, hsize, hdest, hcls, hkind, haddr, houts, hnext, hwords⟩, hbytes, hrequest, hrecord⟩

theorem afterRelease_ready {s : State} {rel : Option Scope} {body : State → State} (h : ReleaseReady s rel) :
    afterRelease s rel body = body s := by
  cases rel with
  | none => rfl
  | some sc => exact if_pos (h sc rfl)
theorem appSize_lt (m : CaskMod) : appSize m < 256 := (Nat.div_le_self 8 _).trans_lt (by omega)

/-! ### The whole -/

/-- Settles O34: every check that stops the page stops the instruction at it, a refused append faults or goes to its handler, and an
instruction that passes asks the tail slice. -/
theorem caskInstructions : Obligations.CaskInstructions := by
  unfold Obligations.CaskInstructions
  intro c rd ra rb m s x hg hm hw hin base pa stopsAll hx
  refine ⟨fun h => ?_, fun h hr => ?_, fun hs hr hp => ⟨?_, fun hc => ?_⟩, appl_ctl hg hm, fun i hfree => ?_⟩
  · exact casks_fault hg hm hw hin hx (show 5 ≠ 7 by decide) fun _ _ _ => caskStop_class h
  · exact casks_fault hg hm hw hin hx (show 5 ≠ 7 by decide) fun _ _ _ => caskStop_remote h hr
  · exact refused_of_exec ((exec_app hg hm).trans (congrArg _ (caskChain_stops hw hin hx (caskStop_sealed hs hr hp) _)))
  · exact refused_of_exec ((exec_appl hg hm hc).trans (congrArg _ (caskChain_stops hw hin hx (caskStop_sealed hs hr hp) _)))
  · have hi := freeSlot_lt hfree
    refine ⟨fun hrel hstop => ?_, fun hrel hstop hc => ?_, fun hstop => ?_, fun hstop => ?_⟩
    · refine runs_of_eq (exec_app hg hm) ((caskChain_passes hw hin hx hstop hfree _).trans (afterRelease_ready hrel)) ?_
      exact sendCask_asks hi (appSize_lt m) (by decide) (by decide)
    · refine runs_of_eq (exec_appl hg hm hc) ((caskChain_passes hw hin hx hstop hfree _).trans (afterRelease_ready hrel))
        ⟨fun he => ?_, fun he => ?_⟩
      · rw [he]
        exact (sendCask_asks hi (by decide) (by decide) (by decide)).of_spadRead
      · rw [he]
        exact fault_is ..
    · refine runs_of_eq (exec_seal hg hm) (caskChain_passes hw hin hx hstop hfree _) ?_
      exact sendCask_asks hi (by decide) (by decide) (by decide)
    · refine runs_of_eq (exec_tail hg hm) (caskChain_passes hw hin hx hstop hfree _) ?_
      exact sendCask_asks hi (by decide) (by decide) (by decide)

end Sys2Proof.Machine
end

section
/-!
PROOF. O48 fails at a tail slice whose done table is full (R423): of the reads only that of a tail instruction, which is for a word, is
served there; a read for another reason is to come again, as an append or a seal is.
-/

namespace Sys2Proof.Machine

/-- The done table of slice 0 holds these keys. -/
def withDoneTable (l : List DoneEnt) : State := { State.reset with done := [(0, l)] }
/-- A read for a fill, which arrives at the tail slice of page 0. -/
def fillAtTailSlice : Req := { writeToLeftPage with op := .read .fill }

theorem tailFull_withDoneTable {l : List DoneEnt} (h : 16384 ≤ l.length) : tailFull (withDoneTable l) fillAtTailSlice = true :=
  decide_eq_true h
/-- No request waits at the page, but the table is full: the read is to come again (R423). -/
theorem tailArrive_withDoneTable {l : List DoneEnt} (h : 16384 ≤ l.length) :
    tailArrive (withDoneTable l) fillAtTailSlice = retryTail (withDoneTable l) fillAtTailSlice := by
  show (if tailFull (withDoneTable l) fillAtTailSlice && true then _ else _) = _
  rw [tailFull_withDoneTable h]
  rfl
/-- No answer is sent. -/
theorem tailRequest_unanswered {l : List DoneEnt} (h : 16384 ≤ l.length) (m : Msg) :
    ¬ Runs (.tailRequest fillAtTailSlice) (withDoneTable l) fun t =>
      t = { withDoneTable l with agenda := (withDoneTable l).agenda ++ [m] } := by
  rintro ⟨t, hx, ht⟩
  have hretry : retryTail (withDoneTable l) fillAtTailSlice = t :=
    (tailArrive_withDoneTable h).symm.trans (Host.Outcome.next.inj hx)
  have hfirst : some (Msg.sealArrival fillAtTailSlice) = some Msg.boot :=
    congrArg (fun u : State => u.agenda.head?) (hretry.trans ht)
  cases hfirst

/-- Refutes O48: a read that is not a tail instruction's is not answered while the done table of its slice is full (R423). -/
theorem not_caskPageSteps : ¬ Obligations.CaskPageSteps := by
  intro h
  obtain ⟨⟨hrequest, -⟩, -⟩ := h
  have hfull : 16384 ≤ (List.replicate 16384 (⟨⟨1, 0⟩, 0, 2, 0, 0⟩ : DoneEnt)).length := by rw [List.length_replicate]
  obtain ⟨hread, -⟩ := hrequest (withDoneTable _) fillAtTailSlice memoryCanonical_reset rfl
  exact tailRequest_unanswered hfull _ ((hread ⟨.fill, rfl⟩).1 rfl)

end Sys2Proof.Machine
end

section
/-!
SUPPORT. What a memory chain leaves once it has taken a slot of the flight record: the slot, the row's identity, and the tag of what it
sends (R174, R196, R422).
-/

namespace Sys2Proof.Machine

/-! ### The end of a chain that has taken a slot -/

section
variable {s t u : State} {target : Word} {i size dest cls kind : Nat} {a : Word}

/-- A chain that took a slot sets the PC. -/
theorem Issued.setPc (h : Issued target s t i size dest cls kind a) (hcur : t.cur = s.cur) (v : Word) :
    Issued v s (setPc t v) i size dest cls kind a := by
  have hword (q k : Nat) (hk : q ≠ s.cur ∨ k ≠ 1) : rowWord (Machine.setPc t v) q k = rowWord t q k :=
    (rowWord_setRowWord t t.cur 1 q k v (by omega)).trans (if_neg (by rw [hcur]; tauto))
  have hslot : slotWord (Machine.setPc t v) (.bank s.cur) i = slotWord t (.bank s.cur) i := hword _ _ (.inr (by omega))
  refine ⟨(congrArg (bits · 58 6) hslot).trans h.state, (congrArg (bits · 50 8) hslot).trans h.size,
    (congrArg (bits · 11 7) hslot).trans h.dest, (congrArg (bits · 8 3) hslot).trans h.cls,
    (congrArg (bits · 0 8) hslot).trans h.kind, (hword _ _ (.inr (by omega))).trans h.addr, ?outs, ?next, fun pr k hk => ?words⟩
  case outs => rw [hword _ _ (.inr (by omega)), h.outs, busySlots_congr fun j _ => hword _ _ (.inr (by omega))]
  case next => exact (rowWord_setRowWord t t.cur 1 s.cur 1 v (by omega)).trans (if_pos ⟨hcur.symm, rfl⟩)
  case words =>
    refine (hword _ _ ?_).trans (h.words _ _ hk)
    simp only [List.mem_cons, not_or] at hk
    tauto
/-- A chain that took a slot ends (R52, R192). -/
theorem Issued.advanced (h : Issued (pc s) s t i size dest cls kind a) (hcur : t.cur = s.cur) (c : Ctl) :
    Issued (nextPc c s) s (advance c t) i size dest cls kind a := by
  have hpc : nextPc c t = nextPc c s := nextPc_of_words c hcur h.next
  rw [← hpc]
  exact (h.setPc hcur _).counted hcur

end

/-! ### A slot that has been taken -/

/-- In u the executing row's words are those of s in which slot i has just been taken. -/
structure Took (s u : State) (i size dest cls kind : Nat) (a : Word) : Prop where
  rows : u.rows = (openSlot s i size dest cls kind a (blankOp s i)).rows
  cur  : u.cur = s.cur

section
variable {s u v : State} {i size dest cls kind : Nat} {a : Word}

theorem Took.of_rows (h : Took s u i size dest cls kind a) (hrows : v.rows = u.rows) (hcur : v.cur = u.cur) :
    Took s v i size dest cls kind a := ⟨hrows.trans h.rows, hcur.trans h.cur⟩
theorem rows_takeSlot (s : State) (i size dest cls kind : Nat) (a : Word) (o : OpRec) :
    (takeSlot s (.bank s.cur) i size dest cls kind a).rows = (openSlot s i size dest cls kind a o).rows := by
  unfold openSlot
  rw [setOpRec_rows]
theorem cur_takeSlot (s : State) (i size dest cls kind : Nat) (a : Word) :
    (takeSlot s (.bank s.cur) i size dest cls kind a).cur = s.cur :=
  (congrArg State.cur (takeSlot_frame s s.cur i size dest cls kind a)).trans rfl
theorem took_takeSlot (s : State) (i size dest cls kind : Nat) (a : Word) :
    Took s (takeSlot s (.bank s.cur) i size dest cls kind a) i size dest cls kind a :=
  ⟨rows_takeSlot .., cur_takeSlot ..⟩
theorem cur_openSlot (s : State) (i size dest cls kind : Nat) (a : Word) (o : OpRec) :
    (openSlot s i size dest cls kind a o).cur = s.cur := by
  unfold openSlot
  rw [setOpRec_cur, cur_takeSlot]
theorem took_openSlot (s : State) (i size dest cls kind : Nat) (a : Word) (o : OpRec) :
    Took s (openSlot s i size dest cls kind a o) i size dest cls kind a :=
  ⟨(rows_takeSlot s i size dest cls kind a o).symm.trans (rows_takeSlot s i size dest cls kind a _), cur_openSlot s i size dest cls kind a o⟩
/-- The words of the executing row in u are those of the opened slot. -/
theorem Took.word (h : Took s u i size dest cls kind a) (hi : i < 8) (k : Nat) (hk : k ∉ [2, 16 + 2 * i, 17 + 2 * i]) :
    rowWord u s.cur k = rowWord s s.cur k :=
  (rowWord_of_rows h.rows s.cur k).trans (rowWord_openSlot s size dest cls kind a (blankOp s i) hi hk)
theorem Took.curRow (h : Took s u i size dest cls kind a) (hi : i < 8) : curRow u = curRow s :=
  curRow_of_words h.cur (h.word hi 3 (by simp only [List.mem_cons, List.not_mem_nil, or_false]; omega))
theorem Took.priv (h : Took s u i size dest cls kind a) (hi : i < 8) : priv u = priv s := by
  have hd2 := (rowWord_of_rows h.rows s.cur 2).trans
    (rowWord_openSlot_eq s size dest cls kind a (blankOp s i) hi s.cur 2)
  unfold Machine.priv privOf
  rw [h.cur, hd2, if_pos ⟨rfl, rfl⟩, bits_putBits_other _ _ _ _ _ _ (by omega)]
/-- The chain that took the slot has issued its operation. -/
theorem Took.issued (h : Took s u i size dest cls kind a) (hi : i < 8) (hsize : size < 256) (hdest : dest < 128) (hcls : cls < 8)
    (hkind : kind < 256) (c : Ctl) : Issued (nextPc c s) s (advance c u) i size dest cls kind a :=
  ((openSlot_issued s a (blankOp s i) hi hsize hdest hcls hkind).of_rows h.rows).advanced h.cur c
/-- The end of the chain keeps the tag. -/
theorem slotTag_advance (c : Ctl) (s : State) (pr i : Nat) : slotTag (advance c s) (.bank pr) i = slotTag s (.bank pr) i :=
  congrArg (bits · 18 32) (rowWord_advance c s pr (17 + 2 * i) (.inr ⟨by omega, by omega⟩))
theorem Took.tag (h : Took s u i size dest cls kind a) (c : Ctl) :
    slotTag (takeSlot s (.bank s.cur) i size dest cls kind a) (.bank s.cur) i = slotTag (advance c u) (.bank s.cur) i := by
  rw [slotTag_advance, slotTag_of_rows (h.rows.trans (rows_takeSlot ..).symm)]

end

theorem advance_sameBytes {s u : State} (c : Ctl) (h : SameBytes s u) : SameBytes s (advance c u) := h

end Sys2Proof.Machine
end

section
/-!
SUPPORT. What the end of a memory chain leaves: an acquire that is complete within its instruction clears caches and rows observe copies
(R170, R225), and the chain's row words are those of the state it started from (R52, R192).
-/

namespace Sys2Proof.Machine

/-- Only what a cluster cache holds, the fills on their way to it, and what is left of old code words have changed. -/
def OnlyCached (s t : State) : Prop := t = { s with stale := t.stale, caches := t.caches, misses := t.misses }

section
variable {s t u : State}

theorem OnlyCached.rows (h : OnlyCached s t) : t.rows = s.rows := (congrArg State.rows h).trans rfl
theorem OnlyCached.cur (h : OnlyCached s t) : t.cur = s.cur := (congrArg State.cur h).trans rfl
theorem OnlyCached.mem (h : OnlyCached s t) : t.mem = s.mem := (congrArg State.mem h).trans rfl
theorem OnlyCached.spads (h : OnlyCached s t) : t.spads = s.spads := (congrArg State.spads h).trans rfl
theorem acquireAt_onlyCached (s : State) (e : Nat) (sc : Scope) : OnlyCached s (acquireAt s e sc) := by
  cases sc with
  | row | clu | sys => rfl
  | die | dev =>
    show OnlyCached s (if isCtl e then s else _)
    split <;> rfl
theorem acquireNow_onlyCached (s : State) (acq : Option Scope) : OnlyCached s (acquireNow s acq) := by
  cases acq with
  | none => rfl
  | some sc =>
    show OnlyCached s (acquireAt (observeCopies s (curRow s)) (curExec s) sc)
    have h := acquireAt_onlyCached (observeCopies s (curRow s)) (curExec s) sc
    exact h.trans rfl

/-! ### The chain's row words -/

/-- The end of a chain writes the same row words in two states whose rows are the same. -/
theorem advance_rows (c : Ctl) (hrows : t.rows = s.rows) (hcur : t.cur = s.cur) : (advance c t).rows = (advance c s).rows := by
  unfold advance countChain setPc setRowWord nextPc pc rowWord rowImage
  simp only [hrows, hcur]
theorem ChainDone.of_rows {target : Word} {ws : List Nat} (h : ChainDone s t target ws) (hrows : u.rows = t.rows) :
    ChainDone s u target ws := by
  have hword (q k : Nat) := rowWord_of_rows hrows q k
  refine ⟨(hword ..).trans h.next, ?_, fun pr k hk => (hword ..).trans (h.words pr k hk)⟩
  unfold Counted
  rw [hword]
  exact h.count
theorem ResultIs.of_rows {c : Ctl} {rd : Reg} {v : Word} (h : ResultIs c rd s t v) (hrows : u.rows = t.rows) : ResultIs c rd s u v :=
  ⟨fun hg => (rowWord_of_rows hrows ..).trans (h.value hg), h.done.of_rows hrows⟩
/-- A chain that has changed no row word ends (R52, R192). -/
theorem advance_done (c : Ctl) (hrows : t.rows = s.rows) (hcur : t.cur = s.cur) : ChainDone s (advance c t) (nextPc c s) [] :=
  (jump_done (nextPc c s) s).of_rows (advance_rows c hrows hcur)
/-- A chain that has changed no row word ends with a result, and perhaps an acquire (R52, R170). -/
theorem advance_result (c : Ctl) {rd : Reg} (v : Word) (acq : Option Scope) (hw : rd.win ≠ 3) (hrows : t.rows = s.rows)
    (hcur : t.cur = s.cur) : ResultIs c rd s (advance c (acquireNow (writeReg t rd v) acq)) v := by
  have hacq := acquireNow_onlyCached (writeReg t rd v) acq
  have hwrite : (writeReg t rd v).rows = (writeReg s rd v).rows := by
    unfold writeReg setRowWord rowImage
    split
    · exact hrows
    · simp only [hrows, hcur]
  refine (result_is c s rd v hw).of_rows (advance_rows c (hacq.rows.trans hwrite) (hacq.cur.trans ?_))
  rw [writeReg_cur, writeReg_cur, hcur]
theorem advance_result_sameBytes (c : Ctl) (rd : Reg) (v : Word) (acq : Option Scope) (hmem : t.mem = s.mem) (hspads : t.spads = s.spads) :
    SameBytes s (advance c (acquireNow (writeReg t rd v) acq)) := by
  have hacq := acquireNow_onlyCached (writeReg t rd v) acq
  have hwrite := writeReg_frame t rd v
  refine sameBytes_of_same ((hacq.mem.trans ?_).trans hmem) ((hacq.spads.trans ?_).trans hspads)
  · rw [hwrite]
  · rw [hwrite]

end

/-! ### Scratchpads (R164, R181) -/

theorem samePads_of_same {s t : State} (h : t.spads = s.spads) : SamePads s t := fun c a => by
  unfold spad
  rw [h]
theorem mapGet_canonical {m : NMap Memory} (h : ∀ x ∈ m, x.2.wf = true) (k : Nat) : (mapGet m k []).wf = true := by
  unfold mapGet
  cases hk : mapGet? m k with
  | none => rfl
  | some v => exact h _ (mem_of_mapGet? hk)
theorem spad_canonical {s : State} (h : MemoryCanonical s) (c : Nat) : (spad s c).wf = true := mapGet_canonical h.2 c
/-- The bytes that are stored are those of the scratchpad from the offset on. -/
theorem padStored_spadStore {s t : State} (c off : Nat) (data : List Byte) (hs : (spad s c).wf = true)
    (ht : t.spads = (spadStore s c off data).spads) : PadStored s t c off data := by
  intro k a
  have hpad : spad t k = if k = c then memStore (spad s c) off data else spad s k := by
    unfold spad
    rw [ht]
    exact mapGet_mapSet ..
  rw [hpad]
  by_cases hk : k = c
  · subst hk
    rw [if_pos rfl, memRead_memStore off a data hs]
    simp only [true_and]
  · rw [if_neg hk, if_neg (fun h => hk h.1)]
theorem spadRead_rows (s : State) (c : Nat) : (spadRead s c).rows = s.rows := by rw [spadRead_frame]
theorem spadRead_cur (s : State) (c : Nat) : (spadRead s c).cur = s.cur := by rw [spadRead_frame]
theorem spadRead_mem (s : State) (c : Nat) : (spadRead s c).mem = s.mem := by rw [spadRead_frame]
theorem spadRead_spads (s : State) (c : Nat) : (spadRead s c).spads = s.spads := by rw [spadRead_frame]

end Sys2Proof.Machine
end

section
/-!
PROOF. O28, ScratchpadResults (tier 2): ldl and stl access the scratchpad of the row's cluster and are complete within the instruction
(R181, R164).
-/

namespace Sys2Proof.Machine

/-- An offset in the scratchpad of the row's own cluster passes the checks of R181. -/
theorem withOffset_inside {s : State} {a : Word} {n acc : Nat} {body : State → Nat → State} (hc : isCtl (curExec s) = false)
    (ha : a.toNat % n = 0) (ho : a.toNat < 2 ^ 23) : withOffset s a n acc body = body s a.toNat := by
  simp [withOffset, hc, ha, Nat.not_le.2 ho, -Nat.reducePow]

section
variable {c : Ctl} {rd ra : Reg} {s : State}

theorem ldl_reads {ty : LdType} {off : Int} {m : MemMod} (hg : guardPasses c s = true) (hm : MemReady s)
    (hc : isCtl (curExec s) = false) (hw : rd.win ≠ 3) (ha : (memAddr s ra (ldSize ty) off).toNat % ldSize ty = 0)
    (ho : (memAddr s ra (ldSize ty) off).toNat < 2 ^ 23) :
    Runs (.ldl c rd ra ty off m) s fun t =>
      (spadError s = false → SameBytes s t ∧ ResultIs c rd s t (extend (ldSigned ty) (ldSize ty)
        (leNat (spadBytes s (clusterOf (curExec s)) (memAddr s ra (ldSize ty) off).toNat (ldSize ty))))) ∧
      (spadError s = true → FaultIs s t (faultOf 0x0A 2 2) (memAddr s ra (ldSize ty) off)) := by
  have hx : exec (.ldl c rd ra ty off m) s = .next (if spadError s then fault s (faultOf cCheck 2 2) (memAddr s ra (ldSize ty) off)
      else advance c (acquireNow (writeReg (spadRead s (clusterOf (curExec s))) rd (extend (ldSigned ty) (ldSize ty)
        (leNat (spadBytes s (clusterOf (curExec s)) (memAddr s ra (ldSize ty) off).toNat (ldSize ty))))) (acquireOf m))) := by
    show execLdl c rd ra ty off m s = _
    rw [execLdl, memChain_ready hg hm]
    exact congrArg _ ((if_neg fun h => hw (of_decide_eq_true (Bool.and_eq_true_iff.1 h).1)).trans (withOffset_inside hc ha ho))
  refine ⟨_, hx, fun he => ?_, fun he => ?_⟩
  · rw [if_neg (ne_true_of_eq_false he)]
    exact ⟨advance_result_sameBytes c rd _ _ (spadRead_mem ..) (spadRead_spads ..),
      advance_result c _ _ hw (spadRead_rows ..) (spadRead_cur ..)⟩
  · rw [if_pos he]
    exact fault_is ..

theorem stl_writes {sy : StType} {off : Int} {m : MemMod} (hg : guardPasses c s = true) (hm : MemReady s)
    (hc : isCtl (curExec s) = false) (ha : (memAddr s ra (stSize sy) off).toNat % stSize sy = 0)
    (ho : (memAddr s ra (stSize sy) off).toNat < 2 ^ 23) (hr : ReleaseReady s (releaseOf m)) :
    Runs (.stl c rd ra sy off m) s fun t => ChainDone s t (nextPc c s) [] ∧ SameMemory s t ∧ (MemoryCanonical s →
      PadStored s t (clusterOf (curExec s)) (memAddr s ra (stSize sy) off).toNat (leBytes (stSize sy) (readReg s rd).toNat)) := by
  have hx : exec (.stl c rd ra sy off m) s = .next (advance c (spadStore s (clusterOf (curExec s))
      (memAddr s ra (stSize sy) off).toNat (leBytes (stSize sy) (readReg s rd).toNat))) := by
    show execStl c rd ra sy off m s = _
    rw [execStl, memChain_ready hg hm]
    exact congrArg _ ((withOffset_inside hc ha ho).trans (afterRelease_ready hr))
  exact ⟨_, hx, advance_done c rfl rfl, fun _ => rfl, fun hcan => padStored_spadStore _ _ _ (spad_canonical hcan _) rfl⟩

end

/-- Settles O28: the checks of R181 passed, each is one access of the scratchpad and the end of a chain. -/
theorem scratchpadResults : Obligations.ScratchpadResults := by
  intro c rd ra ty sy off m s hg hm hc
  exact ⟨ldl_reads hg hm hc, stl_writes hg hm hc⟩

end Sys2Proof.Machine
end

section
/-!
SUPPORT. The rack replicas of a page and the reads of an array line (R152, R153, R61): what they depend on, and what they leave.
-/

namespace Sys2Proof.Machine

/-! ### Two states whose arrays are the same -/

/-- Two states hold the same memory, blocks, data arrays and key slots, and draw the same free values next. -/
structure SameArray (s t : State) : Prop where
  count  : t.count = s.count
  mem    : t.mem = s.mem
  blocks : t.blocks = s.blocks
  hub    : t.hub = s.hub
  parts  : t.parts = s.parts
  dlines : t.dlines = s.dlines

section
variable {s t : State}

theorem SameArray.block (h : SameArray s t) (pa : Nat) : Machine.block t pa = Machine.block s pa := by
  unfold Machine.block
  rw [h.blocks]
theorem SameArray.part (h : SameArray s t) (q : Nat) : Machine.part t q = Machine.part s q := by
  unfold Machine.part
  rw [h.parts]
theorem SameArray.stackCheck (h : SameArray s t) (q pa : Nat) : SameArray (Machine.stackCheck s q pa) (Machine.stackCheck t q pa) := by
  unfold Machine.stackCheck stackFound ltAdd Machine.part Machine.block
  constructor <;> dsimp only <;> simp only [h.count, h.mem, h.blocks, h.hub, h.parts, h.dlines]
theorem SameArray.held (h : SameArray s t) (line : Nat) : Machine.held t line = Machine.held s line := by
  unfold Machine.held dataLine?
  rw [h.dlines]
theorem SameArray.checkRange (h : SameArray s t) (q pa n : Nat) : SameArray (Machine.checkRange s q pa n) (Machine.checkRange t q pa n) := by
  unfold Machine.checkRange
  generalize List.range ((pa % 64 + n + 63) / 64) = l
  induction l generalizing s t with
  | nil => exact h
  | cons i l ih =>
    rw [List.foldl_cons, List.foldl_cons]
    refine ih ?_
    dsimp only
    rw [h.held]
    split
    · exact h
    · exact h.stackCheck ..
theorem SameArray.homeBytes (h : SameArray s t) (a n : Nat) : Machine.homeBytes t a n = Machine.homeBytes s a n :=
  homeBytes_congr fun _ _ => homeByte_congr h.mem h.blocks (congrArg HubDie.keys h.hub) _
theorem SameArray.delivery (h : SameArray s t) (pa key : Nat) : Machine.delivery t pa key = Machine.delivery s pa key := by
  unfold Machine.delivery
  rw [h.block]

end

/-! ### A read of a frame -/

theorem logKeys_quiet {s : State} {q : Nat} (h : CohQuiet s q) (agent pa n key : Nat) : logKeys s q agent pa n key = s := by
  have hcoh (b : Nat) : traceCoh s q 7 3 agent b = s := if_neg (ne_true_of_eq_false h)
  unfold logKeys
  generalize List.range ((pa % 64 + n + 63) / 64) = l
  induction l with
  | nil => rfl
  | cons i l ih =>
    rw [List.foldl_cons]
    dsimp only at ih ⊢
    rw [hcoh, ite_self]
    exact ih
/-- A partition that traces no coherence record reads a frame with the checks of its blocks, and sends the answer (R153). -/
theorem fromFrame_quiet {s : State} {r : Req} {a n : Nat} {answer : State → Msg} (h : CohQuiet s r.part) :
    fromFrame s r a n answer = send (checkRange s r.part a n) (answer (checkRange s r.part a n)) := by
  have hq : CohQuiet (checkRange s r.part a n) r.part := by
    unfold CohQuiet part
    rw [(checkRange_onlyArray s r.part a n).parts]
    exact h
  unfold fromFrame
  dsimp only
  rw [logKeys_quiet hq]

/-! ### The rack of a die -/

/-- A look into the rack changes its entries and asks for a replica, nothing else. -/
theorem rackLook_frame (s : State) (d q pa : Nat) :
    (rackLook s d q pa).1 = { s with racks := (rackLook s d q pa).1.racks, agenda := (rackLook s d q pa).1.agenda } := by
  have htake (u : Option Nat) (v : State) (h : takeFrame s d q = (v, u)) : v = { s with racks := v.racks } := by
    have hv : v = (takeFrame s d q).1 := by rw [h]
    rw [hv]
    unfold takeFrame dropRack
    dsimp only
    split
    · rfl
    · split <;> rfl
  unfold rackLook
  dsimp only
  split
  · rfl
  · split
    · split <;> rfl
    · split
      · rename_i v f h
        rw [htake _ _ h]
        rfl
      · rename_i v h
        rw [htake _ _ h]
/-- What the rack holds of a page depends on its entries, on the page's tail entry and on the partition alone. -/
theorem rackLook_snd {s t : State} (d q pa : Nat) (hracks : t.racks = s.racks) (hparts : t.parts = s.parts)
    (htail : t.tailCache = s.tailCache) (hmem : t.mem = s.mem) (hblocks : t.blocks = s.blocks) (hkeys : t.hub.keys = s.hub.keys) :
    (rackLook t d q pa).2 = (rackLook s d q pa).2 := by
  have hpart : part t q = part s q := by
    unfold part
    rw [hparts]
  have hentry : tailEntry t q (pa / 65536) = tailEntry s q (pa / 65536) := by
    unfold tailEntry entryPlace
    rw [hpart, htail, memWord_of_same hmem hblocks hkeys]
  unfold rackLook rackEnt homeDie tailSlice
  dsimp only
  rw [hpart, hracks, hentry]
  split
  · rfl
  · split
    · split <;> rfl
    · split <;> split <;> rfl

end Sys2Proof.Machine
end

section
/-!
SUPPORT. The list of a cluster cache's line requests (R166): what a new request and a joined one leave in it.
-/

namespace Sys2Proof.Machine

/-- A line request of an agent is out, and these accesses wait for it. -/
def AskedFor (t : State) (agent line : Nat) (ops : List (Bool × Req)) : Prop :=
  ∃ y ∈ t.misses, y.agent = agent ∧ y.line = line ∧ y.cleared = false ∧ ∀ o ∈ ops, o ∈ y.ops

theorem joinMiss_asks {agent line : Nat} (ops : List (Bool × Req)) {l : List Miss}
    (h : (l.find? fun m => m.agent == agent && m.line == line && !m.cleared).isSome = true) :
    ∃ y ∈ joinMiss agent line ops l, y.agent = agent ∧ y.line = line ∧ y.cleared = false ∧ ∀ o ∈ ops, o ∈ y.ops := by
  induction l with
  | nil => cases h
  | cons m l ih =>
    unfold joinMiss
    by_cases hm : m.agent = agent ∧ m.line = line ∧ m.cleared = false
    · rw [if_pos hm]
      obtain ⟨hagent, hline, hcleared⟩ := hm
      exact ⟨_, List.mem_cons_self, hagent, hline, hcleared, fun o ho => List.mem_append_right _ ho⟩
    · rw [if_neg hm]
      have hfirst : (m.agent == agent && m.line == line && !m.cleared) = false := by
        rw [Bool.eq_false_iff]
        intro hb
        simp only [Bool.and_eq_true, beq_iff_eq, Bool.not_eq_true', and_assoc] at hb
        exact hm hb
      rw [List.find?_cons, hfirst] at h
      obtain ⟨y, hy, hrest⟩ := ih h
      exact ⟨y, List.mem_cons_of_mem _ hy, hrest⟩
theorem addMiss_asks (s : State) (r : Req) (st : Bool) (op : Option (Bool × Req)) :
    AskedFor (addMiss s r st op) r.agent (lineOf r.pa) op.toList := by
  unfold addMiss
  dsimp only
  cases h : missOf s r.agent (lineOf r.pa) with
  | some m =>
    refine joinMiss_asks _ ?_
    unfold missOf at h
    rw [h]
    rfl
  | none => exact ⟨_, List.mem_append_right _ (List.mem_singleton_self _), rfl, rfl, rfl, fun o ho => ho⟩
theorem addMiss_frame (s : State) (r : Req) (st : Bool) (op : Option (Bool × Req)) :
    addMiss s r st op = { s with misses := (addMiss s r st op).misses, agenda := (addMiss s r st op).agenda } := by
  unfold addMiss
  dsimp only
  split <;> rfl
/-- What happens beside a row: its words, the time and the scratchpads are as before. -/
structure Beside (s t : State) : Prop where
  rows  : t.rows = s.rows
  cur   : t.cur = s.cur
  time  : t.time = s.time
  spads : t.spads = s.spads
theorem Beside.trans {s t u : State} (h : Beside s t) (k : Beside t u) : Beside s u :=
  ⟨k.rows.trans h.rows, k.cur.trans h.cur, k.time.trans h.time, k.spads.trans h.spads⟩
/-- A line request has been entered or joined. -/
structure LineAsked (s t : State) (agent line : Nat) (ops : List (Bool × Req)) : Prop extends Beside s t where
  asked : AskedFor t agent line ops

/-- The replica that a miss on a sealed page looks up, unless a request for the line is out already (R153). -/
def replicaLook (s : State) (die agent q pa cls : Nat) : State × Option Nat :=
  if cls = clsSealed && (missOf s agent (lineOf pa)).isNone then rackLook s die q pa else (s, none)
theorem replicaLook_frame (s : State) (die agent q pa cls : Nat) : (replicaLook s die agent q pa cls).1 =
    { s with racks := (replicaLook s die agent q pa cls).1.racks, agenda := (replicaLook s die agent q pa cls).1.agenda } := by
  unfold replicaLook
  split
  · exact rackLook_frame ..
  · rfl
theorem replicaLook_snd (s : State) (die agent q pa cls : Nat) : (replicaLook s die agent q pa cls).2 =
    if cls = clsSealed ∧ missOf s agent (lineOf pa) = none then (rackLook s die q pa).2 else none := by
  unfold replicaLook
  simp only [Bool.and_eq_true, decide_eq_true_eq, Option.isNone_iff_eq_none]
  split <;> rfl
/-- A line request entered into the list of its cache. -/
def withMiss (s : State) (y : Miss) : State := { s with misses := s.misses ++ [y] }
/-- What a miss does with the die's replica, or without one (R153, R166). -/
def missFrom (r : Req) (st : Bool) (op : Option (Bool × Req)) : State × Option Nat → State
  | (s, some fa) => fromFrame (withMiss s ⟨r.agent, lineOf r.pa, false, false, op.toList, st, r.key, r.hint⟩) r
      (fa / 128 * 128) 128 fun s => frameFill s r fa
  | (s, none) => addMiss s r st op

section
variable {s : State} {r : Req} {st : Bool} {op : Option (Bool × Req)} {l : State × Option Nat}
  (hl : l.1 = { s with racks := l.1.racks, agenda := l.1.agenda })
include hl

theorem missFrom_home (hf : l.2 = none) :
    LineAsked s (missFrom r st op l) r.agent (lineOf r.pa) op.toList ∧ (missFrom r st op l).mem = s.mem := by
  obtain ⟨v, f⟩ := l
  cases hf
  dsimp only at hl
  have hasks := addMiss_asks v r st op
  show LineAsked s (addMiss v r st op) r.agent (lineOf r.pa) op.toList ∧ (addMiss v r st op).mem = s.mem
  rw [addMiss_frame] at hasks ⊢
  rw [hl] at hasks ⊢
  exact ⟨⟨⟨rfl, rfl, rfl, rfl⟩, hasks⟩, rfl⟩
theorem missFrom_frame {fa : Nat} (hf : l.2 = some fa) (hq : CohQuiet s r.part) :
    LineAsked s (missFrom r st op l) r.agent (lineOf r.pa) op.toList ∧
      (missFrom r st op l).mem = (checkRange s r.part (fa / 128 * 128) 128).mem := by
  obtain ⟨v, f⟩ := l
  cases hf
  dsimp only at hl
  show LineAsked s (fromFrame (withMiss v _) r (fa / 128 * 128) 128 fun s => frameFill s r fa) _ _ _ ∧ (fromFrame _ _ _ _ _).mem = _
  rw [hl]
  generalize hy : (⟨r.agent, lineOf r.pa, false, false, op.toList, st, r.key, r.hint⟩ : Miss) = y
  generalize hw : withMiss { s with racks := v.racks, agenda := v.agenda } y = w
  have harray : SameArray s w := by
    rw [← hw]
    exact ⟨rfl, rfl, rfl, rfl, rfl, rfl⟩
  have hqw : CohQuiet w r.part := by
    unfold CohQuiet
    rw [harray.part]
    exact hq
  rw [fromFrame_quiet hqw]
  refine ⟨?_, (harray.checkRange ..).mem⟩
  have hcheck := (checkRange_onlyArray w r.part (fa / 128 * 128) 128).1
  generalize checkRange w r.part (fa / 128 * 128) 128 = z at hcheck
  rw [hcheck, ← hw]
  refine ⟨⟨rfl, rfl, rfl, rfl⟩, y, List.mem_append_right _ (List.mem_singleton_self _), ?_⟩
  rw [← hy]
  exact ⟨rfl, rfl, rfl, fun o ho => ho⟩

end

end Sys2Proof.Machine
end

section
/-!
PROOF. O30, FenceAndPrefetch (tier 2): fence waits and clears, pf asks for a line or does nothing (R186, R172, R170, R187).
-/

namespace Sys2Proof.Machine

/-! ### fence -/

/-- A line whose ST is 0 holds no unregistered word after its agent's clearing (R170). -/
theorem cline_acquireClear {s : State} {agent line : Nat} {remote : Nat → Bool} {y : CLine} (ha : writesThrough agent = false)
    (hl : line < 2 ^ 40) (hy : cline? (acquireClear s agent false remote) agent line = some y) (hst : y.st = false) :
    y.v &&& ~~~y.rg = 0 := by
  have hagent : lineKey agent line / 2 ^ 40 = agent := by
    unfold lineKey
    rw [Nat.mul_comm, Nat.mul_add_div (by decide), Nat.div_eq_of_lt hl, Nat.add_zero]
  have hmap : cline? (acquireClear s agent false remote) agent line =
      (cline? s agent line).map fun x => if lineKey agent line / 2 ^ 40 == agent &&
        ((!writesThrough agent && !x.st) || (false && remote (lineKey agent line % 2 ^ 40))) then clearLine x else x := by
    unfold cline?
    rw [← mapGet?_mapKeyed s.caches fun k x => if k / 2 ^ 40 == agent &&
      ((!writesThrough agent && !x.st) || (false && remote (k % 2 ^ 40))) then clearLine x else x]
    unfold acquireClear rememberStale
    dsimp only
    congr 1
    refine List.map_congr_left fun x _ => ?_
    split <;> rfl
  rw [hmap] at hy
  obtain ⟨x, -, hx⟩ := Option.map_eq_some_iff.1 hy
  simp only [hagent, BEq.rfl, ha, Bool.not_false, Bool.true_and, Bool.false_and, Bool.or_false] at hx
  cases hxst : x.st with
  | true =>
    rw [hxst] at hx
    have hxy : x = y := hx
    rw [← hxy, hxst] at hst
    cases hst
  | false =>
    rw [hxst] at hx
    have hxy : clearLine x = y := hx
    rw [← hxy]
    unfold clearLine
    ext i
    simp
/-- An executor of a core cluster has a cluster cache, which holds registered words (R165). -/
theorem writesThrough_agentOf {e : Nat} (h : isCtl e = false) : writesThrough (agentOf e) = false := by
  have he : e < 512 := by simpa [isCtl] using h
  unfold writesThrough agentOf
  rw [if_pos he, Bool.and_eq_false_iff]
  left
  rw [decide_eq_false_iff_not]
  omega

section
variable {c : Ctl} {m : MemMod} {s : State}

theorem exec_fence (hg : guardPasses c s = true) : exec (.fence c m) s =
    .next (afterRelease s (releaseOf m) fun s => afterLoads s (acquireOf m) fun s => advance c (acquireNow s (acquireOf m))) := by
  show execFence c m s = _
  rw [execFence, chain_pass hg]
theorem fence_clears (hg : guardPasses c s = true) (hr : ReleaseReady s (releaseOf m))
    (ha : acquireOf m = none ∨ (loadOut s = none ∧ acquirePending s = false)) :
    Runs (.fence c m) s fun t => ChainDone s t (nextPc c s) [] ∧ SameBytes s t ∧
      (isCtl (curExec s) = false → acquireOf m = some .die ∨ acquireOf m = some .dev →
        ∀ line y, line < 2 ^ 40 → cline? t (agentOf (curExec s)) line = some y → y.st = false → y.v &&& ~~~y.rg = 0) := by
  have hloads : afterLoads s (acquireOf m) (fun s => advance c (acquireNow s (acquireOf m))) = advance c (acquireNow s (acquireOf m)) := by
    rcases ha with ha | ⟨hload, hpend⟩
    · rw [ha]
      rfl
    · unfold afterLoads
      cases acquireOf m with
      | none => rfl
      | some sc => simp only [hload, hpend, Bool.false_eq_true, if_false]
  have hacq := acquireNow_onlyCached s (acquireOf m)
  refine runs_of_eq (exec_fence hg) ((afterRelease_ready hr).trans hloads) ⟨advance_done c hacq.rows hacq.cur,
    sameBytes_of_same hacq.mem hacq.spads, fun hc hsc line y hl hy hst => ?_⟩
  have hclear : acquireNow s (acquireOf m) =
      acquireClear (observeCopies s (curRow s)) (agentOf (curExec s)) false fun _ => false := by
    rcases hsc with hsc | hsc <;> rw [hsc] <;> exact if_neg (ne_true_of_eq_false hc)
  refine cline_acquireClear (writesThrough_agentOf hc) hl (?_ : cline? (acquireClear (observeCopies s (curRow s)) _ _ fun _ => false) _ _ = _) hst
  rw [← hclear]
  exact hy
theorem fence_awaits_release {k : Nat} {sc : Scope} (hg : guardPasses c s = true) (hsc : releaseOf m = some sc)
    (hr : releaseMet s sc (releaseSnap s) = false) (hk : slotOf s s.cur = some k) :
    Runs (.fence c m) s fun t => WaitsAt s t k (.release sc (releaseSnap s)) := by
  refine runs_of_eq (exec_fence hg) ?_ (setWait_waitsAt _ hk)
  rw [hsc]
  exact if_neg (ne_true_of_eq_false hr)
theorem fence_awaits_load {k i : Nat} (hg : guardPasses c s = true) (hr : ReleaseReady s (releaseOf m)) (ha : acquireOf m ≠ none)
    (hi : loadOut s = some i) (hk : slotOf s s.cur = some k) : Runs (.fence c m) s fun t => WaitsAt s t k (.reply i) := by
  refine runs_of_eq (exec_fence hg) ((afterRelease_ready hr).trans ?_) (setWait_waitsAt _ hk)
  obtain ⟨sc, hsc⟩ := Option.ne_none_iff_exists'.1 ha
  unfold afterLoads
  rw [hsc, hi]

end

/-! ### pf -/

section
variable {c : Ctl} {ra : Reg} {m : MemMod} {s : State}

/-- The end of a pf on what its address is (R187). -/
def pfEnd (c : Ctl) (m : MemMod) (s : State) (a : Word) : Site → State
  | .walk => if m.hint = .noal then advance c s else startWalk s a
  | .stop _ _ => advance c s
  | .at_ p t =>
    if m.hint = .noal then advance c s
    else if prefetchWaits s m p then setWait s .lines
    else advance c (prefetch s m a p t)
theorem exec_pf (hg : guardPasses c s = true) (hm : MemReady s) : exec (.pf c ra m) s =
    .next (pfEnd c m s (readReg s ra) (siteOf s ⟨true, false, 2, false⟩ (readReg s ra))) := by
  show execPf c ra m s = _
  rw [execPf, memChain_ready hg hm]
  dsimp only
  cases siteOf s ⟨true, false, 2, false⟩ (readReg s ra) <;> rfl
/-- A pf that moves on with what it has asked for. -/
theorem pf_at {p : Place} {x : TlbEnt} (hg : guardPasses c s = true) (hm : MemReady s)
    (hsite : siteOf s ⟨true, false, 2, false⟩ (readReg s ra) = .at_ p x) (hh : m.hint ≠ .noal) (hw : prefetchWaits s m p = false) :
    exec (.pf c ra m) s = .next (advance c (prefetch s m (readReg s ra) p x)) := by
  rw [exec_pf hg hm, hsite, pfEnd, if_neg hh, if_neg (ne_true_of_eq_false hw)]
/-- A pf that does nothing. -/
theorem onlyRows_advance (c : Ctl) (s : State) :
    ChainDone s (advance c s) (nextPc c s) [] ∧ SameBytes s (advance c s) ∧ OnlyRows s (advance c s) :=
  ⟨advance_done c rfl rfl, .refl s, advance_frame c s⟩

variable {a : Word} {pa : Nat} {x : TlbEnt}

/-- The request of a pf. -/
def prefetchReq (s : State) (m : MemMod) (a : Word) (pa : Nat) (x : TlbEnt) : Req :=
  requestOf s (.read .touch) 8 a pa 1 false x m.hint []
theorem prefetch_beyond (h : m.scope ≠ .clu) :
    prefetch s m a (.mem pa) x = send s (.lineRead (prefetchReq s m a pa x)) := if_neg h
theorem prefetch_idle (h : m.scope = .clu) (hn : leafClass x.leaf = clsOpen ∨
    (cline s (agentOf (curExec s)) (lineOf pa)).v = BitVec.allOnes 32 ∨ ¬ LeaseReady s pa) : prefetch s m a (.mem pa) x = s := by
  refine (if_pos h).trans (if_pos ?_)
  have hl : ¬ LeaseReady s pa ↔ (isRemote s pa && !leaseUsable s (pa / 65536)) = true := by
    unfold LeaseReady
    cases isRemote s pa <;> cases leaseUsable s (pa / 65536) <;> decide
  rw [hl] at hn
  simp only [Bool.or_eq_true, decide_eq_true_eq, or_assoc]
  exact hn
/-- A pf that misses asks the die's replica, or the home (R153, R166, R187). -/
theorem prefetch_misses (h : m.scope = .clu) (hopen : leafClass x.leaf ≠ clsOpen)
    (hfull : (cline s (agentOf (curExec s)) (lineOf pa)).v ≠ BitVec.allOnes 32) (hl : LeaseReady s pa) :
    ∃ st, prefetch s m a (.mem pa) x = missFrom (prefetchReq s m a pa x) st none
      (replicaLook s (dieOf (curExec s)) (agentOf (curExec s)) (prefetchReq s m a pa x).part pa (leafClass x.leaf)) := by
  refine ⟨leafClass x.leaf = clsReadOnly || leafClass x.leaf = clsSealed, (if_pos h).trans ((if_neg ?_).trans ?_)⟩
  · have hlease : (isRemote s pa && !leaseUsable s (pa / 65536)) = false := by
      unfold LeaseReady at hl
      revert hl
      cases isRemote s pa <;> cases leaseUsable s (pa / 65536) <;> decide
    simp only [Bool.or_eq_true, decide_eq_true_eq, hlease, Bool.false_eq_true, or_false, not_or]
    exact ⟨hopen, hfull⟩
  · show (match replicaLook s (dieOf (curExec s)) (agentOf (curExec s)) (prefetchReq s m a pa x).part pa (leafClass x.leaf) with
      | (s, some fa) => _
      | (s, none) => _) = _
    obtain ⟨u, f⟩ := replicaLook s (dieOf (curExec s)) (agentOf (curExec s)) (prefetchReq s m a pa x).part pa (leafClass x.leaf)
    cases f <;> rfl

end

/-! ### The whole -/

/-- Settles O30: a fence whose conditions hold makes its clearing; a pf asks for its line in one of the ways above, or does nothing. -/
theorem fenceAndPrefetch : Obligations.FenceAndPrefetch := by
  intro c ra m s hg
  refine ⟨fence_clears hg, fun k sc => fence_awaits_release hg, fun k i => fence_awaits_load hg, fun hm => ⟨?stop, ?noal, ?other, ?mem⟩⟩
  case stop =>
    intro f b hsite
    refine runs_of_eq (exec_pf hg hm) ?_ (onlyRows_advance c s)
    rw [hsite]
    rfl
  case noal =>
    intro p x hsite hh
    refine runs_of_eq (exec_pf hg hm) ?_ (onlyRows_advance c s)
    rw [hsite]
    exact if_pos hh
  case other =>
    intro p x hsite hh hp
    cases p with
    | mem pa => exact absurd rfl (hp pa)
    | _ => exact runs_of_eq (pf_at hg hm hsite hh rfl) rfl (onlyRows_advance c s)
  case mem =>
    intro pa x hsite hh
    have hgo (hw : m.scope = .clu → missRoom s (agentOf (curExec s)) (lineOf pa) = true) :=
      pf_at (c := c) hg hm hsite hh (by
        show (m.scope == .clu && !missRoom s (agentOf (curExec s)) (lineOf pa)) = false
        rw [Bool.and_eq_false_imp, beq_iff_eq]
        intro hs
        rw [hw hs]
        rfl)
    refine ⟨fun hs => ?beyond, fun k hs hroom hk => ?full, fun hs hroom hn => ?idle, fun hs hroom hopen hfull hl => ⟨fun hf => ?home,
      fun f hf hq => ?frame⟩⟩
    case beyond =>
      refine runs_of_eq (hgo fun h => absurd h hs) (congrArg (advance c) (prefetch_beyond hs))
        ⟨advance_done c rfl rfl, sameBytes_of_same rfl rfl, prefetchReq s m (readReg s ra) pa x, ?_, rfl, rfl⟩
      exact List.mem_append_right _ (List.mem_singleton_self _)
    case full =>
      refine runs_of_eq (exec_pf hg hm) ?_ (setWait_waitsAt .lines hk)
      rw [hsite, pfEnd, if_neg hh]
      refine if_pos ?_
      show (m.scope == .clu && !missRoom s (agentOf (curExec s)) (lineOf pa)) = true
      rw [hs, hroom]
      rfl
    case idle => exact runs_of_eq (hgo fun _ => hroom) (congrArg (advance c) (prefetch_idle hs hn)) (onlyRows_advance c s)
    case home =>
      obtain ⟨st, hst⟩ := prefetch_misses (a := readReg s ra) hs hopen hfull hl
      obtain ⟨hasked, hmem⟩ := missFrom_home (r := prefetchReq s m (readReg s ra) pa x) (st := st) (op := none)
        (replicaLook_frame ..) ((replicaLook_snd ..).trans hf)
      obtain ⟨y, hy, hagent, hline, -⟩ := hasked.asked
      exact runs_of_eq (hgo fun _ => hroom) (congrArg (advance c) hst) ⟨advance_done c hasked.rows hasked.cur,
        sameBytes_of_same hmem hasked.spads, y, hy, hagent, hline⟩
    case frame =>
      obtain ⟨st, hst⟩ := prefetch_misses (a := readReg s ra) hs hopen hfull hl
      obtain ⟨hasked, hmem⟩ := missFrom_frame (r := prefetchReq s m (readReg s ra) pa x) (st := st) (op := none)
        (replicaLook_frame ..) ((replicaLook_snd ..).trans hf) hq
      obtain ⟨y, hy, hagent, hline, -⟩ := hasked.asked
      exact runs_of_eq (hgo fun _ => hroom) (congrArg (advance c) hst) ⟨advance_done c hasked.rows hasked.cur,
        samePads_of_same hasked.spads, hmem, y, hy, hagent, hline⟩

end Sys2Proof.Machine
end

section
/-!
SUPPORT. What a device step leaves at a bank row: a slot that becomes FREE, a row that becomes READY, and a wait that ends
(R196, R334, R342, R355, R358).
-/

namespace Sys2Proof.Machine

/-! ### Row words that are kept -/

section
variable {s t u : State} {pr : Nat} {ws vs : List Nat}

theorem RowKept.refl (s : State) (pr : Nat) : RowKept s s pr [] := fun _ _ _ => rfl
theorem RowKept.of_rows (h : t.rows = s.rows) : RowKept s t pr ws := fun _ _ _ => rowWord_of_rows h ..
theorem RowKept.mono (h : RowKept s t pr ws) (hsub : ∀ k ∈ ws, k ∈ vs) : RowKept s t pr vs :=
  fun q k hk => h q k (hk.imp id fun hn hm => hn (hsub k hm))
theorem RowKept.trans (h : RowKept s t pr ws) (h' : RowKept t u pr vs) : RowKept s u pr (ws ++ vs) := fun q k hk => by
  rw [List.mem_append] at hk
  exact (h' q k (by tauto)).trans (h q k (by tauto))
theorem RowKept.word (h : RowKept s t pr ws) {k : Nat} (hk : k ∉ ws) : rowWord t pr k = rowWord s pr k := h pr k (.inr hk)
theorem rowKept_setRowWord (s : State) (pr n : Nat) (v : Word) (hn : n < 128) : RowKept s (setRowWord s pr n v) pr [n] :=
  fun q k hk => by
    rw [rowWord_setRowWord _ _ _ _ _ _ hn, if_neg (by rw [List.mem_singleton] at hk; tauto)]
/-- A freed slot stays so while its words are kept. -/
theorem SlotFreed.of_kept {i : Nat} (h : SlotFreed t pr i) (hi : i < 8) (hk : RowKept t u pr ws) (h2 : 2 ∉ ws)
    (hs : ∀ j, j < 8 → 17 + 2 * j ∉ ws) : SlotFreed u pr i := by
  obtain ⟨hstate, houts⟩ := h
  refine ⟨(congrArg (bits · 58 6) (hk.word (hs i hi))).trans hstate, ?_⟩
  rw [hk.word h2, houts, busySlots_congr fun j hj => hk.word (hs j hj)]

end

/-! ### A slot that becomes FREE (R196) -/

theorem rowWord_clearSlot (s : State) (pr : Nat) {i : Nat} (hi : i < 8) (q k : Nat) : rowWord (clearSlot s (.bank pr) i) q k =
    if q = pr ∧ k = 2 then putBits (rowWord s pr 2) 18 6 (busySlots (clearSlot s (.bank pr) i) (.bank pr)).length
    else if q = pr ∧ k = 17 + 2 * i then putBits (rowWord s pr (17 + 2 * i)) 58 6 0 else rowWord s q k := by
  have hslot (q k : Nat) := rowWord_setRowWord s pr (17 + 2 * i) q k (putBits (rowWord s pr (17 + 2 * i)) 58 6 0) (by omega)
  have hclear (q k : Nat) : rowWord (clearSlot s (.bank pr) i) q k = rowWord (recount (setRowWord s pr (17 + 2 * i)
      (putBits (rowWord s pr (17 + 2 * i)) 58 6 0)) (.bank pr)) q k := rfl
  generalize clearSlot s (.bank pr) i = t at hclear
  generalize setRowWord s pr (17 + 2 * i) (putBits (rowWord s pr (17 + 2 * i)) 58 6 0) = u at hslot hclear
  have hword (q k : Nat) := (hclear q k).trans (rowWord_recount u pr q k)
  have hbusy : busySlots t (.bank pr) = busySlots u (.bank pr) := busySlots_congr fun j _ => (hword ..).trans (if_neg (by omega))
  have h2 : rowWord u pr 2 = rowWord s pr 2 := (hslot ..).trans (if_neg (by omega))
  rw [hword, hbusy, h2, hslot]
theorem slotFreed_clearSlot (s : State) (pr : Nat) {i : Nat} (hi : i < 8) : SlotFreed (clearSlot s (.bank pr) i) pr i := by
  have hlen := busySlots_length (clearSlot s (.bank pr) i) (.bank pr)
  constructor
  · show bits (rowWord (clearSlot s (.bank pr) i) pr (17 + 2 * i)) 58 6 = 0
    rw [rowWord_clearSlot s pr hi, if_neg (by omega), if_pos ⟨rfl, rfl⟩, bits_putBits_self _ _ _ _ (by omega)]
    rfl
  · rw [rowWord_clearSlot s pr hi, if_pos ⟨rfl, rfl⟩, bits_putBits_self _ _ _ _ (by omega)]
    omega
theorem rowKept_clearSlot (s : State) (pr : Nat) {i : Nat} (hi : i < 8) :
    RowKept s (clearSlot s (.bank pr) i) pr [2, 17 + 2 * i] := fun q k hk => by
  simp only [List.mem_cons, List.not_mem_nil, or_false, not_or] at hk
  rw [rowWord_clearSlot s pr hi, if_neg (by tauto), if_neg (by tauto)]

/-! ### A row that becomes READY (R342) -/

theorem rowWord_setRowState (s : State) (pr st q k : Nat) : rowWord (setRowState s pr st) q k =
    if q = pr ∧ k = 0 then putBits (rowWord s pr 0) 48 8 st else rowWord s q k := by
  unfold setRowState
  rw [rowWord_of_rows (traceState_rows ..)]
  exact rowWord_setRowWord _ _ _ _ _ _ (by omega)
theorem makeReady_queued (s : State) (pr : Nat) : Queued (makeReady s pr) pr ∧ RowKept s (makeReady s pr) pr [0] := by
  have hword := rowWord_setRowState s pr stReady
  have hstate : rowState (setRowState s pr stReady) pr = stReady := by
    unfold rowState
    rw [hword, if_pos ⟨rfl, rfl⟩, bits_putBits_self _ _ _ _ (by omega)]
    rfl
  have hkept : RowKept s (setRowState s pr stReady) pr [0] := fun q k hk => by
    rw [List.mem_singleton] at hk
    rw [hword, if_neg (by tauto)]
  unfold makeReady
  dsimp only
  generalize setRowState s pr stReady = u at hstate hkept ⊢
  split
  next hq => exact ⟨⟨hstate, List.contains_iff_mem.1 hq⟩, hkept⟩
  next =>
    refine ⟨⟨hstate, ?_⟩, hkept⟩
    rw [exec'_setExec, if_pos rfl]
    exact List.mem_append_right _ (mem_insertAsc ..)

/-! ### A wait that ends (R355, R358, R360) -/

/-- The row's wait has ended: it is READY, BLK is 0, and its other words are kept. -/
structure Woken (s t : State) (pr : Nat) : Prop where
  queued : Queued t pr
  blk    : bits (rowWord t pr 15) 41 3 = 0
  words  : RowKept s t pr [0, 15]

section
variable {s : State} {pr : Nat}

theorem woken_makeReady (s : State) (pr : Nat) :
    Woken s (makeReady (setRowWord s pr 15 (putBits (rowWord s pr 15) 41 3 0)) pr) pr := by
  obtain ⟨hqueued, hkept⟩ := makeReady_queued (setRowWord s pr 15 (putBits (rowWord s pr 15) 41 3 0)) pr
  refine ⟨hqueued, ?_, ((rowKept_setRowWord s pr 15 _ (by omega)).trans hkept).mono (by simp)⟩
  rw [hkept.word (by simp), rowWord_setRowWord_self _ _ _ _ (by omega), bits_putBits_self _ _ _ _ (by omega)]
  rfl
/-- A row that is BLOCKED for one of the reasons is woken. -/
theorem unblockRow_woken {reasons : List Nat} (hst : rowState s pr = stBlocked)
    (hblk : reasons.contains (bits (rowWord s pr 15) 41 3) = true) : Woken s (unblockRow s (.bank pr) reasons) pr := by
  have h : unblockRow s (.bank pr) reasons = makeReady (setRowWord s pr 15 (putBits (rowWord s pr 15) 41 3 0)) pr := by
    have hloc : locState s (.bank pr) = stBlocked := hst
    unfold unblockRow
    dsimp only
    rw [hloc, if_neg (by simp [stBlocked, stFrozen, stParked])]
    exact if_pos (by
      show (decide (stBlocked = stBlocked) && reasons.contains (bits (rowWord s pr 15) 41 3)) = true
      rw [hblk]
      rfl)
  rw [h]
  exact woken_makeReady s pr

/-- The end of a watch of a BLOCKED row frees its slot, clears d14 and wakes the row (R355). -/
structure WatchEnded (s t : State) (pr i : Nat) : Prop where
  queued : Queued t pr
  freed  : SlotFreed t pr i
  blk    : bits (rowWord t pr 15) 41 3 = 0
  d14    : rowWord t pr 14 = 0
  words  : RowKept s t pr [0, 2, 14, 15, 17 + 2 * i]

theorem endWatch_ended {r : RowId} {i : Nat} (hloc : locate s r = .bank pr) (hi : i < 8) (hst : rowState s pr = stBlocked)
    (hblk : bits (rowWord s pr 15) 41 3 = 2 ∨ bits (rowWord s pr 15) 41 3 = 5) : WatchEnded s (endWatch s r i) pr i := by
  have hfreed := slotFreed_clearSlot (setRowWord s pr 14 0) pr hi
  have hcleared := rowKept_clearSlot (setRowWord s pr 14 0) pr hi
  have h14 := rowKept_setRowWord s pr 14 0 (by omega)
  have hd14 : rowWord (clearSlot (setRowWord s pr 14 0) (.bank pr) i) pr 14 = 0 := by
    rw [hcleared.word (by simp only [List.mem_cons, List.not_mem_nil, or_false]; omega), rowWord_setRowWord_self _ _ _ _ (by omega)]
  have hkept := (h14.trans hcleared).mono (vs := [2, 14, 17 + 2 * i]) (by simp)
  have hstate : rowState (clearSlot (setRowWord s pr 14 0) (.bank pr) i) pr = stBlocked := by
    unfold rowState
    rw [hkept.word (by simp only [List.mem_cons, List.not_mem_nil, or_false]; omega)]
    exact hst
  have h15 : rowWord (clearSlot (setRowWord s pr 14 0) (.bank pr) i) pr 15 = rowWord s pr 15 :=
    hkept.word (by simp only [List.mem_cons, List.not_mem_nil, or_false]; omega)
  have hend : endWatch s r i = unblockRow (clearSlot (setRowWord s pr 14 0) (.bank pr) i) (.bank pr) [2, 5] := by
    have hreason (w : Word) : [2, 5].contains (bits w 41 3) = (bits w 41 3 == 2 || bits w 41 3 == 5) := by
      simp only [List.contains_cons, List.contains_nil, Bool.or_false]
    unfold endWatch unblockRow
    rw [hloc]
    simp only [hreason]
    rfl
  rw [hend]
  generalize clearSlot (setRowWord s pr 14 0) (.bank pr) i = u at *
  obtain ⟨hqueued, hblk', hwords⟩ := unblockRow_woken (reasons := [2, 5]) hstate (by
    rw [h15]
    rcases hblk with h | h <;> rw [h] <;> rfl)
  refine ⟨hqueued, hfreed.of_kept hi hwords (by simp) (by simp; omega), hblk', (hwords.word (by simp)).trans hd14, ?_⟩
  exact (hkept.trans hwords).mono (by simp)

end

end Sys2Proof.Machine
end

section
/-!
SUPPORT. Lines of a cluster cache: the words of a mask, what fills and allocations leave, and the lines of other keys (R165, R166, R168).
-/

namespace Sys2Proof.Machine

/-! ### Masks of words -/

/-- The mask of an access names the words that it touches. -/
theorem getLsbD_wordMask (pa n i : Nat) : (wordMask pa n).getLsbD i =
    decide (i < 32 ∧ pa % 128 / 4 ≤ i ∧ i < (pa % 128 + n + 3) / 4) := by
  have hle : pa % 128 / 4 ≤ (pa % 128 + n + 3) / 4 := Nat.div_le_div_right (by omega)
  obtain ⟨d, hd⟩ := Nat.exists_eq_add_of_le hle
  have hval : 2 ^ ((pa % 128 + n + 3) / 4) - 1 - (2 ^ (pa % 128 / 4) - 1) = 2 ^ (pa % 128 / 4) * (2 ^ d - 1) := by
    rw [hd, Nat.pow_add, Nat.mul_sub, Nat.mul_one]
    have := Nat.one_le_two_pow (n := pa % 128 / 4)
    omega
  unfold wordMask
  rw [BitVec.getLsbD_ofNat, hval, Nat.testBit_two_pow_mul, Nat.testBit_two_pow_sub_one, hd, Bool.eq_iff_iff]
  simp only [Bool.and_eq_true, decide_eq_true_eq, ge_iff_le]
  omega
theorem mem_setBits {n v i : Nat} : i ∈ setBits n v ↔ i < n ∧ v.testBit i = true := by
  unfold setBits
  rw [List.mem_filter, List.mem_range]

/-! ### The words of a line -/

/-- A word after the words of a list have been set. -/
theorem getElem?_foldl_set (f : Nat → W32) (l : List Nat) (v : Vector W32 32) (i : Nat) (hi : i < 32) :
    (l.foldl (fun v i => v.setIfInBounds i (f i)) v)[i]? = if i ∈ l then some (f i) else v[i]? := by
  induction l generalizing v with
  | nil => rfl
  | cons j l ih =>
    rw [List.foldl_cons, ih, Vector.getElem?_setIfInBounds]
    by_cases hl : i ∈ l
    · rw [if_pos hl, if_pos (List.mem_cons_of_mem _ hl)]
    · rw [if_neg hl]
      by_cases hj : j = i
      · subst hj
        rw [if_pos rfl, if_pos hi, if_pos List.mem_cons_self]
      · rw [if_neg hj, if_neg (by rw [List.mem_cons]; tauto)]
theorem cword_putWords (x : CLine) (mask : BitVec 32) (data : List W32) {i : Nat} (hi : i < 32) :
    cword (putWords x mask data) i = if mask.getLsbD i then nth data i 0 else cword x i := by
  unfold cword putWords
  dsimp only
  rw [getElem?_foldl_set (fun i => nth data i 0) _ _ _ hi]
  have hmem : i ∈ setBits 32 mask.toNat ↔ mask.getLsbD i = true := by
    rw [mem_setBits, BitVec.getLsbD]
    exact and_iff_right hi
  simp only [hmem]
  split <;> rfl

/-! ### Lines of the cache -/

section
variable {s t : State}

theorem cline?_setCline_self (s : State) (agent line : Nat) (x : CLine) : cline? (setCline s agent line x) agent line = some x :=
  mapGet?_mapSet_self ..
theorem cline_setCline_self (s : State) (agent line : Nat) (x : CLine) : cline (setCline s agent line x) agent line = x := by
  unfold cline
  rw [cline?_setCline_self]
  rfl
theorem cline_of_caches (h : t.caches = s.caches) (agent line : Nat) : cline t agent line = cline s agent line := by
  unfold cline cline?
  rw [h]
/-- Only caches, their misses and messages of theirs have changed. -/
def OnlyLines (s t : State) : Prop := t = { s with caches := t.caches, misses := t.misses, agenda := t.agenda }
theorem OnlyLines.trans {u : State} (h : OnlyLines s t) (k : OnlyLines t u) : OnlyLines s u := by
  unfold OnlyLines at *
  rw [k, h]
theorem OnlyLines.rows (h : OnlyLines s t) : t.rows = s.rows := (congrArg State.rows h).trans rfl
theorem OnlyLines.mem (h : OnlyLines s t) : t.mem = s.mem := (congrArg State.mem h).trans rfl
theorem evictLine_onlyLines (s : State) (agent line : Nat) : OnlyLines s (evictLine s agent line) := by
  unfold evictLine
  dsimp only
  split
  · rfl
  · split <;> rfl
theorem makeWay_onlyLines (s : State) (agent line : Nat) : OnlyLines s (makeWay s agent line) := by
  unfold makeWay
  dsimp only
  split
  · rfl
  · split
    · exact evictLine_onlyLines ..
    · rfl
theorem useLine_onlyLines (s : State) (agent line : Nat) : OnlyLines s (useLine s agent line) := by
  unfold useLine
  split <;> rfl
theorem allocLine_onlyLines (s : State) (agent line : Nat) (h : Hint) : OnlyLines s (allocLine s agent line h) := by
  unfold allocLine
  dsimp only
  split
  · rfl
  · have hset : OnlyLines s (setCline (makeWay s agent line) agent line { CLine.init with age := 15 }) :=
      (makeWay_onlyLines s agent line).trans rfl
    split
    · exact hset
    · exact hset.trans (useLine_onlyLines ..)

end

end Sys2Proof.Machine
end

section
/-!
SUPPORT. Watches of a cluster (R355): what a wake changes, and which watches a write or an invalidation wakes.
-/

namespace Sys2Proof.Machine

/-! ### What a wake changes -/

/-- Only rows with their slots and queues, and what a trace touches, have changed. -/
def OnlyWoken (s t : State) : Prop :=
  t = { s with mem := t.mem, blocks := t.blocks, parts := t.parts, count := t.count, rows := t.rows, execs := t.execs, ops := t.ops }

section
variable {s t u : State}

theorem OnlyWoken.trans (h : OnlyWoken s t) (k : OnlyWoken t u) : OnlyWoken s u := by
  unfold OnlyWoken at *
  rw [k, h]
theorem OnlyWoken.clusters (h : OnlyWoken s t) : t.clusters = s.clusters := (congrArg State.clusters h).trans rfl
theorem OnlyTrace.onlyWoken (h : OnlyTrace s t) : OnlyWoken s t := by
  unfold OnlyTrace at h
  unfold OnlyWoken
  rw [h]
theorem setLocWord_onlyWoken (s : State) (l : Loc) (n : Nat) (v : Word) : OnlyWoken s (setLocWord s l n v) := by
  cases l <;> rfl
theorem setLocBits_onlyWoken (s : State) (l : Loc) (n lo w v : Nat) : OnlyWoken s (setLocBits s l n lo w v) :=
  setLocWord_onlyWoken ..
theorem clearSlot_onlyWoken (s : State) (l : Loc) (i : Nat) : OnlyWoken s (clearSlot s l i) :=
  (setLocBits_onlyWoken s l (17 + 2 * i) 58 6 0).trans ((setLocBits_onlyWoken _ l 2 18 6 _).trans rfl)
theorem traceState_onlyWoken (s : State) (pr st : Nat) : OnlyWoken s (traceState s pr st) := by
  unfold traceState
  dsimp only
  split
  · exact OnlyWoken.trans (t := setExec s _ _) rfl (traceRec_onlyTrace ..).onlyWoken
  · rfl
theorem setRowState_onlyWoken (s : State) (pr st : Nat) : OnlyWoken s (setRowState s pr st) :=
  OnlyWoken.trans (t := setRowWord s pr 0 _) rfl (traceState_onlyWoken ..)
theorem makeReady_onlyWoken (s : State) (pr : Nat) : OnlyWoken s (makeReady s pr) := by
  refine (setRowState_onlyWoken s pr stReady).trans ?_
  unfold makeReady
  dsimp only
  split <;> rfl
theorem endWatch_onlyWoken (s : State) (r : RowId) (i : Nat) : OnlyWoken s (endWatch s r i) := by
  have hcleared : OnlyWoken s (clearSlot (setLocWord s (locate s r) 14 0) (locate s r) i) :=
    (setLocWord_onlyWoken ..).trans (clearSlot_onlyWoken ..)
  refine hcleared.trans ?_
  unfold endWatch
  dsimp only
  split
  · exact setLocWord_onlyWoken ..
  · split
    · split
      · exact OnlyWoken.trans (t := setRowWord _ _ 15 _) rfl (makeReady_onlyWoken ..)
      · rfl
    · rfl
theorem wakeWatch_onlyWoken (s : State) (r : RowId) (i : Nat) : OnlyWoken s (wakeWatch s r i) := by
  unfold wakeWatch
  split
  · split
    · rfl
    · exact endWatch_onlyWoken ..
  · exact endWatch_onlyWoken ..

/-! ### Which watches wake -/

/-- The watches of a list whose dword lies in the words of a mask. -/
def hitWatches (l : List (RowId × Nat × Nat)) (line : Nat) (mask : BitVec 32) : List (RowId × Nat × Nat) :=
  l.filter fun w => lineOf w.2.2 == line && (wordMask w.2.2 8 &&& mask) != 0
/-- The cluster with these watches. -/
def withWatches (s : State) (agent : Nat) (l : List (RowId × Nat × Nat)) : State :=
  setCluster s agent { cluster s agent with watches := l }
theorem wakeWatchers_eq (s : State) (agent line : Nat) (mask : BitVec 32) : wakeWatchers s agent line mask =
    (hitWatches (cluster s agent).watches line mask).foldl (fun s w => wakeWatch s w.1 w.2.1) (withWatches s agent
      ((cluster s agent).watches.filter fun w => !(hitWatches (cluster s agent).watches line mask).contains w)) := rfl
theorem hitWatches_singleton {line pa i : Nat} {r : RowId} {mask : BitVec 32} (hline : lineOf pa = line) :
    hitWatches [(r, i, pa)] line mask = if wordMask pa 8 &&& mask = 0 then [] else [(r, i, pa)] := by
  unfold hitWatches
  rw [List.filter_cons, List.filter_nil]
  dsimp only
  rw [hline, beq_self_eq_true, Bool.true_and]
  by_cases h : wordMask pa 8 &&& mask = 0
  · rw [if_pos h, h]
    rfl
  · rw [if_neg h, if_pos (bne_iff_ne.2 h)]
section
variable {agent line pa i : Nat} {r : RowId} {mask : BitVec 32}

/-- A write or an invalidation of a cluster that watches nothing wakes no row. -/
theorem wakeWatchers_unwatched (h : (cluster s agent).watches = []) (line : Nat) (mask : BitVec 32) :
    wakeWatchers s agent line mask = withWatches s agent [] := by
  rw [wakeWatchers_eq, h]
  rfl
/-- The watch of words that are not concerned stays. -/
theorem wakeWatchers_missed (h : (cluster s agent).watches = [(r, i, pa)]) (hline : lineOf pa = line)
    (hmask : wordMask pa 8 &&& mask = 0) : wakeWatchers s agent line mask = withWatches s agent [(r, i, pa)] := by
  rw [wakeWatchers_eq, h, hitWatches_singleton hline, if_pos hmask]
  rfl
theorem wakeWatchers_hit (h : (cluster s agent).watches = [(r, i, pa)]) (hline : lineOf pa = line)
    (hmask : wordMask pa 8 &&& mask ≠ 0) : wakeWatchers s agent line mask = wakeWatch (withWatches s agent []) r i := by
  have hrest : ([(r, i, pa)].filter fun w => not ([(r, i, pa)].contains w)) = [] := by
    rw [List.filter_eq_nil_iff]
    intro x hx
    rw [List.mem_singleton.1 hx]
    simp
  rw [wakeWatchers_eq, h, hitWatches_singleton hline, if_neg hmask, hrest]
  rfl
theorem watching_of_clusters {t : State} (h : t.clusters = s.clusters) (agent line : Nat) : watching t agent line = watching s agent line := by
  unfold watching cluster
  rw [h]
theorem cluster_withWatches (s : State) (agent : Nat) (l : List (RowId × Nat × Nat)) :
    (cluster (withWatches s agent l) agent).watches = l := by
  unfold withWatches
  rw [cluster_setCluster_self]
theorem watching_withWatches (s : State) (agent line : Nat) (l : List (RowId × Nat × Nat)) :
    watching (withWatches s agent l) agent line = l.any fun w => lineOf w.2.2 == line := by
  unfold watching
  rw [cluster_withWatches]

end

/-- The wake of a row whose watch is not answered yet is kept in its slot's side record (R355). -/
theorem opRec_setOpRec_self (s : State) (o : OpRec) : opRec (setOpRec s o) o.row o.slot = some o := by
  unfold opRec setOpRec
  rw [List.find?_cons]
  simp only [beq_self_eq_true, Bool.and_self]
theorem opRec_key {r : RowId} {i : Nat} {o : OpRec} (h : opRec s r i = some o) : o.row = r ∧ o.slot = i := by
  have hp := List.find?_some h
  rwa [Bool.and_eq_true, beq_iff_eq, beq_iff_eq] at hp
theorem wakeWatch_asked {r : RowId} {i : Nat} {o : OpRec} (h : opRec s r i = some o) (ho : o.more = some .asked) :
    wakeWatch s r i = setOpRec s { o with more := some .woken } := by
  unfold wakeWatch
  rw [h]
  exact if_pos (by rw [ho]; rfl)
theorem wakeWatch_ends {r : RowId} {i : Nat} (h : ∀ o, opRec s r i = some o → o.more ≠ some .asked ∧ o.more ≠ some .woken) :
    wakeWatch s r i = endWatch s r i := by
  unfold wakeWatch
  cases ho : opRec s r i with
  | none => rfl
  | some o =>
    obtain ⟨hasked, hwoken⟩ := h o ho
    exact if_neg (by
      rw [Bool.or_eq_true, decide_eq_true_eq, decide_eq_true_eq]
      exact not_or.2 ⟨hasked, hwoken⟩)

end

end Sys2Proof.Machine
end

section
/-!
PROOF. O44, CacheMessages (tier 2), the first part: line fills (R166, R171).
-/

namespace Sys2Proof.Machine

/-! ### The words that come good -/

theorem goodWords_all : goodWords 0 0 = BitVec.allOnes 32 := by decide
theorem blockMark_good (pa : Nat) : blockMark 0 0 pa = 0 := by
  have hzero (i : Nat) : (0 : BitVec 2).getLsbD i = false := BitVec.getLsbD_zero
  unfold blockMark
  simp only [hzero, Bool.false_eq_true, if_false]
theorem blockMark_half (poison keymiss : BitVec 2) (pa : Nat) :
    blockMark poison keymiss pa = blockMark poison keymiss (64 * (pa / 64 % 2)) := by
  have h : 64 * (pa / 64 % 2) / 64 % 2 = pa / 64 % 2 := by omega
  unfold blockMark
  rw [h]
/-- No word of a block that comes marked is good. -/
theorem getLsbD_goodWords {poison keymiss : BitVec 2} {pa i : Nat} (hbad : blockMark poison keymiss pa ≠ 0)
    (hi : i / 16 = pa / 64 % 2) : (goodWords poison keymiss).getLsbD i = false := by
  rw [blockMark_half] at hbad
  have hlow (j : Nat) (hj : 16 ≤ j) : (0xFFFF#32).getLsbD j = false := by
    rw [BitVec.getLsbD_ofNat]
    have : (0xFFFF : Nat).testBit j = false := Nat.testBit_lt_two_pow (lt_of_lt_of_le (by decide) (Nat.pow_le_pow_right (by decide) hj))
    rw [this, Bool.and_false]
  unfold goodWords
  rw [BitVec.getLsbD_or, Bool.or_eq_false_iff]
  rcases Nat.mod_two_eq_zero_or_one (pa / 64) with h | h <;> rw [h] at hbad hi
  · rw [if_neg hbad]
    refine ⟨BitVec.getLsbD_zero .., ?_⟩
    split
    · have hlt : i < 16 := by omega
      interval_cases i <;> rfl
    · exact BitVec.getLsbD_zero ..
  · rw [if_neg hbad]
    refine ⟨?_, BitVec.getLsbD_zero ..⟩
    split
    · exact hlow i (by omega)
    · exact BitVec.getLsbD_zero ..
/-- A word that an access lacks in a block that comes marked, it lacks after the fill. -/
theorem bytesMask_lacks {poison keymiss : BitVec 2} {r : Req} {v rg : BitVec 32} (hone : OneBlock r.pa r.size)
    (hbad : blockMark poison keymiss r.pa ≠ 0) (hlack : bytesMask r &&& ~~~v ≠ 0) :
    bytesMask r &&& ~~~(v ||| ~~~rg &&& goodWords poison keymiss) ≠ 0 := by
  have hsame : bytesMask r &&& ~~~(v ||| ~~~rg &&& goodWords poison keymiss) = bytesMask r &&& ~~~v := by
    refine BitVec.eq_of_getLsbD_eq fun i hi => ?_
    have hgood : (bytesMask r).getLsbD i = true → (goodWords poison keymiss).getLsbD i = false := by
      intro hmask
      unfold bytesMask at hmask
      rw [getLsbD_wordMask, decide_eq_true_eq] at hmask
      unfold OneBlock at hone
      exact getLsbD_goodWords hbad (by omega)
    simp only [BitVec.getLsbD_and, BitVec.getLsbD_not, BitVec.getLsbD_or, decide_eq_true hi, Bool.true_and]
    cases hmask : (bytesMask r).getLsbD i with
    | false => rfl
    | true => rw [hgood hmask, Bool.and_false, Bool.or_false]
  rw [hsame]
  exact hlack

/-! ### The fill of a line -/

/-- The list of line requests without the one that is answered. -/
def withoutMiss (s : State) (agent line : Nat) : State :=
  { s with misses := dropFirst (fun x : Miss => x.agent == agent && x.line == line) s.misses }
/-- The line after its fill: the words that are good and not registered are those delivered (R166). -/
def fillLine (x : CLine) (m : Miss) (data : List W32) (poison keymiss : BitVec 2) : CLine :=
  { putWords x (~~~x.rg &&& goodWords poison keymiss) data with
    v := x.v ||| (~~~x.rg &&& goodWords poison keymiss), key := BitVec.ofNat 6 m.key, st := m.st }
/-- What the fill marks of the words of an access. -/
def fillMark (x : CLine) (poison keymiss : BitVec 2) (r : Req) : Nat :=
  if bytesMask r &&& ~~~x.v = 0 then 0 else blockMark poison keymiss r.pa

section
variable {s : State} {agent line : Nat} {data : List W32} {m : Miss} {poison keymiss : BitVec 2}

/-- The line allocated for the fill. -/
def fillAlloc (s : State) (agent line : Nat) (m : Miss) : State := allocLine (withoutMiss s agent line) agent line m.hint
def filled (s : State) (agent line : Nat) (m : Miss) (data : List W32) (poison keymiss : BitVec 2) : State :=
  setCline (fillAlloc s agent line m) agent line (fillLine (cline (fillAlloc s agent line m) agent line) m data poison keymiss)

theorem exec_lineFill_empty (hm : s.misses.find? (fun m => m.agent == agent && m.line == line) = some m) (he : m.evicted = false)
    (hc : m.cleared = false) (hops : m.ops = []) :
    exec (.lineFill agent line data poison keymiss) s = .next (filled s agent line m data poison keymiss) := by
  show execLineFill agent line data poison keymiss s = _
  unfold execLineFill
  rw [hm]
  simp only [he, hc, hops, Bool.false_eq_true, if_false, Bool.or_false, List.filter_nil, List.foldl_nil]
  rfl
theorem exec_lineFill_read {r : Req} (hm : s.misses.find? (fun m => m.agent == agent && m.line == line) = some m)
    (he : m.evicted = false) (hc : m.cleared = false) (hops : m.ops = [(false, r)]) :
    exec (.lineFill agent line data poison keymiss) s = .next (
      let u := filled s agent line m data poison keymiss
      serveOp u (cline u agent line) (fillMark (cline u agent line) poison keymiss r) (false, r)) := by
  show execLineFill agent line data poison keymiss s = _
  unfold execLineFill
  rw [hm]
  simp only [he, hc, hops, Bool.false_eq_true, if_false, Bool.or_false, List.filter_cons, List.filter_nil, List.contains_nil,
    Bool.not_false, if_true, List.foldl_cons, List.foldl_nil, Bool.false_and]
  rfl
variable (s agent line m data poison keymiss) in
theorem filled_onlyLines : OnlyLines s (filled s agent line m data poison keymiss) := by
  have halloc : OnlyLines (withoutMiss s agent line) (fillAlloc s agent line m) := allocLine_onlyLines ..
  exact (OnlyLines.trans (t := withoutMiss s agent line) rfl halloc).trans rfl
theorem cline_filled : cline (filled s agent line m data poison keymiss) agent line =
    fillLine (cline (fillAlloc s agent line m) agent line) m data poison keymiss := cline_setCline_self ..
theorem serveOp_read {x : CLine} {r : Req} {why : ReadFor} (hr : r.op = .read why) (u : State) (bad : Nat) :
    serveOp u x bad (false, r) = send u (replyTo r (if bad = 0 then lineValue x r else 0) bad) := by
  unfold serveOp
  dsimp only
  by_cases hb : bad = 0
  · rw [if_neg (not_not_intro hb), if_neg Bool.false_ne_true, if_pos hb, hr, hb]
  · rw [if_pos hb, if_neg hb]

/-- A fill that no access waits for, and one that a load waits for. -/
def FillIs (s t : State) (agent line : Nat) (x : CLine) (data : List W32) : Prop :=
  t.rows = s.rows ∧ t.mem = s.mem ∧ (cline t agent line).v = x.v ||| ~~~x.rg ∧ (cline t agent line).rg = x.rg ∧
    ∀ i, i < 32 → cword (cline t agent line) i = if x.rg.getLsbD i then cword x i else nth data i 0
theorem fillIs_of_caches {t : State} (hrows : t.rows = s.rows) (hmem : t.mem = s.mem)
    (hcaches : t.caches = (filled s agent line m data 0 0).caches) :
    FillIs s t agent line (cline (fillAlloc s agent line m) agent line) data := by
  unfold FillIs
  rw [cline_of_caches hcaches, cline_filled]
  generalize cline (fillAlloc s agent line m) agent line = x
  have hput : ~~~x.rg &&& goodWords 0 0 = ~~~x.rg := by rw [goodWords_all, BitVec.and_allOnes]
  refine ⟨hrows, hmem, congrArg (x.v ||| ·) hput, rfl, fun i hi => ?_⟩
  refine (cword_putWords x (~~~x.rg &&& goodWords 0 0) data hi).trans ?_
  rw [hput, BitVec.getLsbD_not, decide_eq_true hi, Bool.true_and]
  cases x.rg.getLsbD i <;> rfl

theorem lineFill_empty (hm : s.misses.find? (fun m => m.agent == agent && m.line == line) = some m) (he : m.evicted = false)
    (hc : m.cleared = false) (hops : m.ops = []) : Runs (.lineFill agent line data 0 0) s fun t =>
      FillIs s t agent line (cline (fillAlloc s agent line m) agent line) data ∧ t.agenda = (fillAlloc s agent line m).agenda :=
  have hlines := filled_onlyLines s agent line data m 0 0
  ⟨_, exec_lineFill_empty hm he hc hops, fillIs_of_caches hlines.rows hlines.mem rfl, rfl⟩
theorem lineFill_read {r : Req} {why : ReadFor} (hm : s.misses.find? (fun m => m.agent == agent && m.line == line) = some m)
    (he : m.evicted = false) (hc : m.cleared = false) (hops : m.ops = [(false, r)]) (hr : r.op = .read why) :
    Runs (.lineFill agent line data 0 0) s fun t => FillIs s t agent line (cline (fillAlloc s agent line m) agent line) data ∧
      t.agenda = (fillAlloc s agent line m).agenda ++ [replyTo r (lineValue (cline t agent line) r) 0] := by
  have hmark (x : CLine) : fillMark x 0 0 r = 0 := by
    unfold fillMark
    rw [blockMark_good, ite_self]
  have hlines := filled_onlyLines s agent line data m 0 0
  refine runs_of_eq (exec_lineFill_read hm he hc hops) ((congrArg (serveOp _ _ · _) (hmark _)).trans (serveOp_read hr _ 0)) ?_
  exact ⟨fillIs_of_caches hlines.rows hlines.mem rfl, rfl⟩
theorem lineFill_bad {r : Req} {why : ReadFor} (hm : s.misses.find? (fun m => m.agent == agent && m.line == line) = some m)
    (he : m.evicted = false) (hc : m.cleared = false) (hops : m.ops = [(false, r)]) (hr : r.op = .read why)
    (hone : OneBlock r.pa r.size) (hbad : blockMark poison keymiss r.pa ≠ 0)
    (hlack : bytesMask r &&& ~~~(cline (fillAlloc s agent line m) agent line).v ≠ 0) :
    Runs (.lineFill agent line data poison keymiss) s fun t => t.rows = s.rows ∧ t.mem = s.mem ∧
      t.agenda = (fillAlloc s agent line m).agenda ++ [replyTo r 0 (blockMark poison keymiss r.pa)] := by
  have hmark : fillMark (cline (filled s agent line m data poison keymiss) agent line) poison keymiss r =
      blockMark poison keymiss r.pa := by
    unfold fillMark
    rw [cline_filled]
    exact if_neg (bytesMask_lacks hone hbad hlack)
  have hlines := filled_onlyLines s agent line data m poison keymiss
  refine runs_of_eq (exec_lineFill_read hm he hc hops) ((congrArg (serveOp _ _ · _) hmark).trans (serveOp_read hr _ _)) ?_
  rw [if_neg hbad]
  exact ⟨hlines.rows, hlines.mem, rfl⟩
/-- The fill of an evicted line is asked for again (R168). -/
theorem lineFill_evicted {b : Bool} {r : Req} (hm : s.misses.find? (fun m => m.agent == agent && m.line == line) = some m)
    (he : m.evicted = true) (hops : m.ops.head? = some (b, r)) : Runs (.lineFill agent line data poison keymiss) s fun t =>
      t.caches = s.caches ∧ t.rows = s.rows ∧ t.mem = s.mem ∧
        t.agenda = s.agenda ++ [.lineRead { r with op := .read .fill, pa := 128 * line, size := 128, slot := 8 }] := by
  refine ⟨send (withMiss (withoutMiss s agent line) { m with evicted := false, cleared := false })
    (.lineRead { r with op := .read .fill, pa := 128 * line, size := 128, slot := 8 }), ?_, rfl, rfl, rfl, rfl⟩
  show execLineFill agent line data poison keymiss s = _
  unfold execLineFill
  rw [hm]
  simp only [he, if_true, hops]
  rfl

end

end Sys2Proof.Machine
end

section
/-!
PROOF. O44, CacheMessages (tier 2), the second part: recalls, forwards and invalidations (R81, R89, R90, R91, R355).
-/

namespace Sys2Proof.Machine

/-! ### Recalls and forwards -/

theorem and_not_zero (w : BitVec 32) : w &&& ~~~0 = w := by
  show w &&& ~~~(0#32) = w
  rw [BitVec.not_zero, BitVec.and_allOnes]
section
variable {s : State} {agent line : Nat} {mask : BitVec 32}

/-- A recall takes the registered words of its mask whose registration is not pending (R81, R89). -/
theorem recall_hands_over :
    let x := cline s agent line
    let m := x.rg &&& mask &&& ~~~pendingMask s agent line
    Runs (.recall agent line mask) s fun t => t.rows = s.rows ∧ t.mem = s.mem ∧
      (cline t agent line).rg = x.rg &&& ~~~m ∧ (cline t agent line).v = x.v ∧
      t.agenda = s.agenda ++ [.recallWriteback agent (ownInc agent) line m x.words.toList] := by
  dsimp only
  have hx : exec (.recall agent line mask) s = .next (send
      (if (cline s agent line).rg &&& mask &&& ~~~pendingMask s agent line = 0 then s
        else setCline s agent line { cline s agent line with
          rg := (cline s agent line).rg &&& ~~~((cline s agent line).rg &&& mask &&& ~~~pendingMask s agent line) })
      (.recallWriteback agent (ownInc agent) line ((cline s agent line).rg &&& mask &&& ~~~pendingMask s agent line)
        (cline s agent line).words.toList)) := rfl
  generalize (cline s agent line).rg &&& mask &&& ~~~pendingMask s agent line = m at hx ⊢
  refine ⟨_, hx, ?_⟩
  split
  next hm =>
    rw [hm]
    refine ⟨rfl, rfl, ?_, rfl, rfl⟩
    exact (and_not_zero _).symm
  next =>
    have hline := cline_setCline_self s agent line { cline s agent line with rg := (cline s agent line).rg &&& ~~~m }
    refine ⟨rfl, rfl, ?_, ?_, rfl⟩
    · exact (congrArg CLine.rg hline).trans rfl
    · exact (congrArg CLine.v hline).trans rfl

/-! ### Invalidations -/

/-- The line that an invalidation of a cache of the hub die drops (R90). -/
def invalidated (s : State) (agent line : Nat) : State :=
  if writesThrough agent then
    dropCline (rememberStale s agent false (heldWords line (cline s agent line) (BitVec.allOnes 32))) agent line else s
theorem exec_invalidation : exec (.invalidation agent line mask false) s = .next (send
    (invalidated (wakeWatchers s agent line mask) agent line)
    (.invalidationAck agent (ownInc agent) line (watching (wakeWatchers s agent line mask) agent line))) := by
  have hcl : (invalidated (wakeWatchers s agent line mask) agent line).clusters = (wakeWatchers s agent line mask).clusters := by
    unfold invalidated
    split <;> rfl
  rw [← watching_of_clusters hcl]
  rfl
theorem invalidated_cluster (h : agent < 0x20) : invalidated s agent line = s := by
  refine if_neg ?_
  unfold writesThrough
  rw [Bool.and_eq_true, decide_eq_true_eq]
  omega
theorem invalidation_unwatched (h : (cluster s agent).watches = []) : Runs (.invalidation agent line mask false) s fun t =>
    t.rows = s.rows ∧ t.mem = s.mem ∧ t.agenda = s.agenda ++ [.invalidationAck agent (ownInc agent) line false] ∧
      t.caches = if writesThrough agent then mapDel s.caches (lineKey agent line) else s.caches := by
  refine ⟨_, exec_invalidation, ?_⟩
  rw [wakeWatchers_unwatched h, watching_withWatches, List.any_nil]
  unfold invalidated
  split <;> exact ⟨rfl, rfl, rfl, rfl⟩
/-- An invalidation of a keeper in a group that watches nothing touches no row and no memory. -/
theorem invalidateOnce_unwatched (a : Nat) (h : ∀ k, (cluster s k).watches = []) (mask : BitVec 32) (replace : Bool) :
    let t := (invalidateOnce s a line mask replace).1
    (∀ k, (cluster t k).watches = []) ∧ t.mem = s.mem := by
  have hfirst (u : State) (hu : u.clusters = s.clusters) (hmem : u.mem = s.mem) :
      (∀ k, (cluster (invalidateAt u a line mask replace).1 k).watches = []) ∧ (invalidateAt u a line mask replace).1.mem = s.mem := by
    have hwatch (k : Nat) : (cluster u k).watches = [] := by
      unfold cluster
      rw [hu]
      exact h k
    have heq : (invalidateAt u a line mask replace).1 = invalidated (withWatches u a []) a line := by
      rw [← wakeWatchers_unwatched (hwatch a) line (if replace then BitVec.allOnes 32 else mask)]
      rfl
    have hcl : (invalidated (withWatches u a []) a line).clusters = (withWatches u a []).clusters := by
      unfold invalidated
      split <;> rfl
    rw [heq]
    refine ⟨fun k => ?_, ?_⟩
    · have hk : cluster (invalidated (withWatches u a []) a line) k = cluster (withWatches u a []) k := by
        unfold cluster
        rw [hcl]
      rw [hk]
      unfold withWatches
      rw [cluster_setCluster]
      split
      · rfl
      · exact hwatch k
    · unfold invalidated
      split <;> exact hmem
  unfold invalidateOnce
  dsimp only
  split <;> exact hfirst _ rfl rfl
theorem invalidation_replaces : Runs (.invalidation agent line mask true) s fun t => (hline t line).keep = KeepEntry.init ∧
    ((∀ k, (cluster s k).watches = []) → t.mem = s.mem) := by
  have hfold (l : List Nat) : ∀ u : State, (∀ k, (cluster u k).watches = []) →
      (l.foldl (fun s a => (invalidateOnce s a line 0 true).1) u).mem = u.mem := by
    induction l with
    | nil => exact fun _ _ => rfl
    | cons a l ih =>
      intro u hu
      obtain ⟨hwatch, hmem⟩ := invalidateOnce_unwatched (line := line) a hu 0 true
      exact (ih _ hwatch).trans hmem
  refine ⟨replaceKeepers s (ownerPart s (128 * line)) line, rfl, ?_, fun h => hfold _ s h⟩
  exact congrArg HLine.keep (hline_setHline_self ..)

variable {r : RowId} {i pa : Nat}

theorem invalidation_missed (h : (cluster s agent).watches = [(r, i, pa)]) (hline : lineOf pa = line) (ha : agent < 0x20)
    (hmask : wordMask pa 8 &&& mask = 0) : Runs (.invalidation agent line mask false) s fun t =>
      t.rows = s.rows ∧ t.agenda = s.agenda ++ [.invalidationAck agent (ownInc agent) line true] := by
  refine ⟨_, exec_invalidation, ?_⟩
  rw [invalidated_cluster ha, wakeWatchers_missed h hline hmask, watching_withWatches]
  have hany : [(r, i, pa)].any (fun w => lineOf w.2.2 == line) = true := by
    rw [List.any_cons, List.any_nil, Bool.or_false]
    exact beq_iff_eq.2 hline
  rw [hany]
  exact ⟨rfl, rfl⟩
/-- The only watch of the cluster is woken: the agent keeps the line no longer (R90, R355). -/
theorem invalidation_hit (h : (cluster s agent).watches = [(r, i, pa)]) (hline : lineOf pa = line) (ha : agent < 0x20)
    (hmask : wordMask pa 8 &&& mask ≠ 0) : exec (.invalidation agent line mask false) s =
      .next (send (wakeWatch (withWatches s agent []) r i) (.invalidationAck agent (ownInc agent) line false)) := by
  have hcl := (wakeWatch_onlyWoken (withWatches s agent []) r i).clusters
  rw [exec_invalidation, invalidated_cluster ha, wakeWatchers_hit h hline hmask, watching_of_clusters hcl, watching_withWatches]
  rfl
theorem invalidation_wakes_asked {o : OpRec} (h : (cluster s agent).watches = [(r, i, pa)]) (hline : lineOf pa = line)
    (ha : agent < 0x20) (hmask : wordMask pa 8 &&& mask ≠ 0) (ho : opRec s r i = some o) (hmore : o.more = some .asked) :
    Runs (.invalidation agent line mask false) s fun t => t.rows = s.rows ∧ opRec t r i = some { o with more := some .woken } ∧
      Msg.invalidationAck agent (ownInc agent) line false ∈ t.agenda := by
  obtain ⟨rfl, rfl⟩ := opRec_key ho
  have hop : opRec (withWatches s agent []) o.row o.slot = some o := ho
  refine runs_of_eq (invalidation_hit h hline ha hmask) (congrArg (send · _) (wakeWatch_asked hop hmore)) ⟨rfl, ?_, ?_⟩
  · exact opRec_setOpRec_self _ { o with more := some .woken }
  · exact List.mem_append_right _ (List.mem_singleton_self _)
theorem invalidation_wakes {pr : Nat} (h : (cluster s agent).watches = [(r, i, pa)]) (hline : lineOf pa = line) (ha : agent < 0x20)
    (hmask : wordMask pa 8 &&& mask ≠ 0) (hop : ∀ o, opRec s r i = some o → o.more ≠ some .asked ∧ o.more ≠ some .woken)
    (hloc : locate s r = .bank pr) (hst : rowState s pr = stBlocked) (hi : i < 8)
    (hblk : bits (rowWord s pr 15) 41 3 = 2 ∨ bits (rowWord s pr 15) 41 3 = 5) :
    Runs (.invalidation agent line mask false) s fun t => Queued t pr ∧ SlotFreed t pr i ∧ rowWord t pr 14 = 0 ∧
      Msg.invalidationAck agent (ownInc agent) line false ∈ t.agenda := by
  obtain ⟨hqueued, hfreed, -, hd14, -⟩ := endWatch_ended (s := withWatches s agent []) hloc hi hst hblk
  refine runs_of_eq (invalidation_hit h hline ha hmask) (congrArg (send · _) (wakeWatch_ends (s := withWatches s agent []) hop)) ?_
  exact ⟨hqueued, hfreed, hd14, List.mem_append_right _ (List.mem_singleton_self _)⟩

end

end Sys2Proof.Machine
end

section
/-!
PROOF. O44, CacheMessages (tier 2), the third part: the acknowledgement of a registration, and the whole (R167, R175, R323, R424).
-/

namespace Sys2Proof.Machine

theorem locate_of_same {s t : State} (hparts : t.parts = s.parts) (hmem : t.mem = s.mem) (hblocks : t.blocks = s.blocks)
    (hkeys : t.hub.keys = s.hub.keys) (r : RowId) : locate t r = locate s r := by
  have hpart (q : Nat) : part t q = part s q := by
    unfold part
    rw [hparts]
  have hentry : rowEntry t r = rowEntry s r := by
    unfold rowEntry entryAddr
    rw [hpart, memWord_of_same hmem hblocks hkeys]
  unfold locate isLive
  rw [hentry, hpart]

/-! ### Words that a registration does not get -/

theorem dropWords_frame (s : State) (agent line : Nat) (mask : BitVec 32) : dropWords s agent line mask =
    { s with caches := (dropWords s agent line mask).caches, misses := (dropWords s agent line mask).misses } := by
  unfold dropWords
  dsimp only
  split <;> rfl
theorem cline_dropWords (s : State) (agent line : Nat) (mask : BitVec 32) :
    (cline (dropWords s agent line mask) agent line).v = (cline s agent line).v &&& ~~~mask ∧
      (cline (dropWords s agent line mask) agent line).rg = (cline s agent line).rg &&& ~~~mask := by
  cases h : cline? s agent line with
  | none =>
    have hc : (dropWords s agent line mask).caches = s.caches := by
      unfold dropWords
      rw [h]
    have hx : cline s agent line = CLine.init := by
      unfold cline
      rw [h]
      rfl
    have hzero : (0 : BitVec 32) = 0 &&& ~~~mask := BitVec.zero_and.symm
    rw [cline_of_caches hc, hx]
    exact ⟨hzero, hzero⟩
  | some x =>
    have hx : cline s agent line = x := by
      unfold cline
      rw [h]
      rfl
    have hc : (dropWords s agent line mask).caches =
        (setCline s agent line { x with v := x.v &&& ~~~mask, rg := x.rg &&& ~~~mask }).caches := by
      unfold dropWords
      rw [h]
    rw [cline_of_caches hc, cline_setCline_self, hx]
    exact ⟨rfl, rfl⟩

/-! ### The acknowledgement -/

section
variable {s : State} {agent id : Nat} {refused : BitVec 32} {p : PendReg}

/-- The registration is no longer pending, and what was refused of it is dropped. -/
def droppedReg (s : State) (agent id : Nat) (refused : BitVec 32) (p : PendReg) : State :=
  if refused = 0 then { s with regs := s.regs.filter fun x => x.id != id }
  else dropWords { s with regs := s.regs.filter fun x => x.id != id } agent p.line refused
/-- Its request is committed. -/
def ackedReg (s : State) (agent id : Nat) (refused : BitVec 32) (p : PendReg) : State :=
  send (droppedReg s agent id refused p)
    (.commit (homeOf (part (droppedReg s agent id refused p) p.part) (128 * p.line)) p.row p.tag)
theorem exec_registrationAck (hp : s.regs.find? (fun p => p.id == id && p.agent == agent) = some p) :
    exec (.registrationAck agent id refused) s = .next (settleStores (ackedReg s agent id refused p) id [] (refused != 0)) := by
  show execRegistrationAck agent id refused s = _
  unfold execRegistrationAck
  rw [hp]
  rfl
theorem droppedReg_frame (s : State) (agent id : Nat) (refused : BitVec 32) (p : PendReg) : droppedReg s agent id refused p =
    { s with regs := s.regs.filter fun x => x.id != id, caches := (droppedReg s agent id refused p).caches,
             misses := (droppedReg s agent id refused p).misses } := by
  unfold droppedReg
  split
  · rfl
  · rw [dropWords_frame]
theorem ackedReg_frame (s : State) (agent id : Nat) (refused : BitVec 32) (p : PendReg) : ackedReg s agent id refused p =
    { s with regs := s.regs.filter fun x => x.id != id, caches := (ackedReg s agent id refused p).caches,
             misses := (ackedReg s agent id refused p).misses, agenda := (ackedReg s agent id refused p).agenda } := by
  unfold ackedReg
  rw [droppedReg_frame]
  rfl
/-- What every acknowledgement leaves, whatever the stores do next. -/
def RegAcked (s t : State) (agent id : Nat) (refused : BitVec 32) (p : PendReg) : Prop :=
  (∀ x ∈ t.regs, x.id ≠ id) ∧ Msg.commit (homeOf (part s p.part) (128 * p.line)) p.row p.tag ∈ t.agenda ∧
    (cline t agent p.line).v = (cline s agent p.line).v &&& ~~~refused ∧
    (cline t agent p.line).rg = (cline s agent p.line).rg &&& ~~~refused
theorem regAcked_of_same {t : State} (hregs : t.regs = (ackedReg s agent id refused p).regs)
    (hagenda : t.agenda = (ackedReg s agent id refused p).agenda) (hcaches : t.caches = (ackedReg s agent id refused p).caches) :
    RegAcked s t agent id refused p := by
  have hpart : part (droppedReg s agent id refused p) p.part = part s p.part := by
    rw [droppedReg_frame]
    rfl
  have hline : (cline (droppedReg s agent id refused p) agent p.line).v = (cline s agent p.line).v &&& ~~~refused ∧
      (cline (droppedReg s agent id refused p) agent p.line).rg = (cline s agent p.line).rg &&& ~~~refused := by
    unfold droppedReg
    split
    next h =>
      rw [h]
      exact ⟨(and_not_zero _).symm, (and_not_zero _).symm⟩
    next => exact cline_dropWords ..
  refine ⟨fun x hx => ?_, ?_, ?_⟩
  · rw [hregs, ackedReg_frame] at hx
    exact bne_iff_ne.1 (List.mem_filter.1 hx).2
  · rw [hagenda, ← hpart]
    exact List.mem_append_right _ (List.mem_singleton_self _)
  · have hcl : cline t agent p.line = cline (droppedReg s agent id refused p) agent p.line := cline_of_caches hcaches ..
    rw [hcl]
    exact hline

theorem settleStores_none {u : State} (h : ∀ w ∈ u.stores, w.ids.contains id = false ∧ w.ids ≠ []) (bad : Bool) :
    settleStores u id [] bad = u := by
  have hmap : (u.stores.map fun w => if w.ids.contains id then
      { w with ids := w.ids.filter (· != id) ++ [], bad := w.bad || bad } else w) = u.stores := by
    refine (List.map_congr_left fun w hw => ?_).trans (List.map_id _)
    exact if_neg (ne_true_of_eq_false (h w hw).1)
  have hpart : u.stores.partition (fun w => w.ids.isEmpty) = ([], u.stores) := by
    rw [List.partition_eq_filter_filter, Prod.mk.injEq, List.filter_eq_nil_iff, List.filter_eq_self]
    refine ⟨fun w hw => ?_, fun w hw => ?_⟩
    · rw [List.isEmpty_iff]
      exact (h w hw).2
    · show (!w.ids.isEmpty) = true
      rw [Bool.not_eq_true', List.isEmpty_eq_false_iff]
      exact (h w hw).2
  unfold settleStores
  dsimp only
  rw [hmap, hpart]
  rfl
theorem registrationAck_other (hp : s.regs.find? (fun p => p.id == id && p.agent == agent) = some p)
    (h : ∀ w ∈ s.stores, w.ids.contains id = false ∧ w.ids ≠ []) : Runs (.registrationAck agent id refused) s fun t =>
      RegAcked s t agent id refused p ∧ t.stores = s.stores ∧ t.rows = s.rows ∧ t.mem = s.mem := by
  have hframe := ackedReg_frame s agent id refused p
  have hstores : (ackedReg s agent id refused p).stores = s.stores := (congrArg State.stores hframe).trans rfl
  rw [← hstores] at h
  exact runs_of_eq (exec_registrationAck hp) (settleStores_none h _) ⟨regAcked_of_same rfl rfl rfl, hstores,
    (congrArg State.rows hframe).trans rfl, (congrArg State.mem hframe).trans rfl⟩

/-- The reply of a store whose last registration has been acknowledged (R175). -/
def storeReply (w : StoreWait) (refused : BitVec 32) : Reply := ⟨w.row, w.exec, w.slot, w.tag, 0, if refused != 0 then 2 else 0, 0, 0⟩
theorem settleStores_last {u : State} {w : StoreWait} (hs : u.stores = [w]) (hid : w.ids = [id]) (hbad : w.bad = false) :
    settleStores u id [] (refused != 0) = arriveReply { u with stores := [] } (storeReply w refused) := by
  unfold settleStores storeReply
  simp only [hs, List.map_cons, List.map_nil, hid, List.contains_cons, beq_self_eq_true, Bool.true_or, if_true, List.filter_cons,
    bne_self_eq_false, Bool.false_eq_true, if_false, List.filter_nil, List.append_nil, hbad, Bool.false_or]
  rfl

/-- A store's slot of a bank row, held under the tag of its reply, that the reply completes (R174, R175). -/
structure StoreSlot (s : State) (pr : Nat) (r : RowId) (i tag : Nat) : Prop where
  loc   : locate s r = .bank pr
  ident : rowId s pr = r
  lt    : i < 8
  has   : slotHas s (.bank pr) i tag = true
  state : slotState s (.bank pr) i = 1
  cls   : slotClass s (.bank pr) i = 1
  kind  : slotKind s (.bank pr) i = 2
  runs  : rowState s pr ≠ stWait
  plain : opRec s r i = none

/-- The late fault of a store that was refused (R175). -/
def lateOf (s : State) (p : Reply) (pr : Nat) : List (RowId × Nat × Word) :=
  if p.poison ≠ 0 then s.late ++ [(p.row, 16 * 3 + (p.poison - 1), slotAddr s (.bank pr) p.slot)] else s.late
theorem deliver_store {u : State} {pr : Nat} {q : Reply} (h : StoreSlot u pr q.row q.slot q.tag) :
    deliver u (.bank pr) q = clearSlot { u with late := lateOf u q pr } (.bank pr) q.slot := by
  have hlate : (if q.poison ≠ 0 then { u with late := u.late ++ [(q.row, 16 * accOfKind 2 + (q.poison - 1), slotAddr u (.bank pr) q.slot)] }
      else u) = { u with late := lateOf u q pr } := by
    unfold lateOf
    split <;> rfl
  have hop : opRec { u with late := lateOf u q pr } (locId { u with late := lateOf u q pr } (.bank pr)) q.slot = none := by
    have hid : locId { u with late := lateOf u q pr } (.bank pr) = q.row := h.ident
    rw [hid]
    exact h.plain
  have hplain : opRec { u with late := lateOf u q pr } q.row q.slot = none := h.plain
  have hcls : slotClass { u with late := lateOf u q pr } (.bank pr) q.slot = 1 := h.cls
  unfold deliver passReply writtenThrough
  simp only [h.kind, if_true, hlate, hop, hplain, hcls]
  rfl
theorem replyInBank_store {u : State} {pr : Nat} {q : Reply} (h : StoreSlot u pr q.row q.slot q.tag) (hr : q.refuse = 0) :
    replyInBank u pr q = clearSlot { u with late := lateOf u q pr } (.bank pr) q.slot := by
  have hacq : acquireAfter u q (execOf pr) = u := by
    unfold acquireAfter
    rw [h.plain]
    rfl
  have hwake : wakeIfMet (clearSlot { u with late := lateOf u q pr } (.bank pr) q.slot) pr =
      clearSlot { u with late := lateOf u q pr } (.bank pr) q.slot := by
    have hstate : rowState (clearSlot { u with late := lateOf u q pr } (.bank pr) q.slot) pr = rowState u pr :=
      congrArg (bits · 48 8) ((rowKept_clearSlot _ pr h.lt).word (by simp only [List.mem_cons, List.not_mem_nil, or_false]; omega))
    refine if_neg ?_
    rw [hstate, Bool.and_eq_true, decide_eq_true_eq]
    exact fun hw => h.runs hw.1
  unfold replyInBank
  simp only [h.cls, hr, ne_eq, not_true_eq_false, if_false, hacq, deliver_store h, hwake]
  exact if_neg (by simp)
theorem arriveReply_store {u : State} {pr : Nat} {q : Reply} (h : StoreSlot u pr q.row q.slot q.tag)
    (hstill : inTransfer u (.bank pr) = false) (hr : q.refuse = 0) : ∃ execs,
      arriveReply u q = clearSlot { u with execs := execs, late := lateOf u q pr } (.bank pr) q.slot := by
  have hframe : noteArrival u (.bank pr) = { u with execs := (noteArrival u (.bank pr)).execs } := by
    unfold noteArrival
    dsimp only
    split <;> rfl
  refine ⟨(noteArrival u (.bank pr)).execs, ?_⟩
  generalize (noteArrival u (.bank pr)).execs = execs at hframe
  have hnoted : StoreSlot { u with execs := execs } pr q.row q.slot q.tag :=
    ⟨h.loc, h.ident, h.lt, h.has, h.state, h.cls, h.kind, h.runs, h.plain⟩
  have hown : ownAtomic { u with execs := execs } q = { u with execs := execs } := by
    unfold ownAtomic
    rw [hnoted.plain]
    rfl
  refine Eq.trans ?_ (replyInBank_store hnoted hr)
  unfold arriveReply
  simp only [h.loc, h.has, hstill, h.state, h.cls, hframe, hown, Bool.not_true, Bool.false_eq_true, if_false, decide_true,
    Bool.true_or, Bool.and_self, if_true]
theorem registrationAck_last {w : StoreWait} {pr : Nat} (hp : s.regs.find? (fun p => p.id == id && p.agent == agent) = some p)
    (hs : s.stores = [w]) (hid : w.ids = [id]) (hbad : w.bad = false) (h : StoreSlot s pr w.row w.slot w.tag)
    (hstill : inTransfer s (.bank pr) = false) : Runs (.registrationAck agent id refused) s fun t =>
      RegAcked s t agent id refused p ∧ t.stores = [] ∧ SlotFreed t pr w.slot ∧ RowKept s t pr [2, 17 + 2 * w.slot] ∧
        t.late = if refused = 0 then s.late else s.late ++ [(w.row, 16 * 3 + 1, slotAddr s (.bank pr) w.slot)] := by
  have hframe := ackedReg_frame s agent id refused p
  have hback (t : State) := regAcked_of_same (s := s) (agent := agent) (id := id) (refused := refused) (p := p) (t := t)
  have hexec := exec_registrationAck (refused := refused) hp
  generalize ackedReg s agent id refused p = u at hframe hback hexec
  have hstores : u.stores = [w] := ((congrArg State.stores hframe).trans rfl).trans hs
  have hslot : StoreSlot { u with stores := [] } pr (storeReply w refused).row (storeReply w refused).slot (storeReply w refused).tag := by
    rw [hframe]
    exact ⟨h.loc, h.ident, h.lt, h.has, h.state, h.cls, h.kind, h.runs, h.plain⟩
  have hstill' : inTransfer { u with stores := [] } (.bank pr) = false := by
    rw [hframe]
    exact hstill
  obtain ⟨execs, harrive⟩ := arriveReply_store hslot hstill' rfl
  have hlate : lateOf { u with stores := [] } (storeReply w refused) pr =
      if refused = 0 then s.late else s.late ++ [(w.row, 16 * 3 + 1, slotAddr s (.bank pr) w.slot)] := by
    rw [hframe]
    unfold lateOf storeReply
    by_cases hr : refused = 0
    · rw [if_pos hr, hr]
      rfl
    · rw [if_neg hr, if_pos (bne_iff_ne.2 hr)]
      rfl
  refine runs_of_eq hexec ((settleStores_last hstores hid hbad).trans harrive)
    ⟨hback _ rfl rfl rfl, rfl, slotFreed_clearSlot _ pr h.lt, ?_, hlate⟩
  refine RowKept.trans (ws := []) (RowKept.of_rows ?_) (rowKept_clearSlot _ pr h.lt)
  exact (congrArg State.rows hframe).trans rfl

end

/-- Settles O44: each message by the lemma named after it; the words that a fill delivers, the watch that an invalidation wakes and the
store that the last acknowledgement completes are what the three parts turn on. -/
theorem cacheMessages : Obligations.CacheMessages := by
  refine ⟨fun s agent line data m hm => ⟨fun he hc => ⟨fun hops => ?empty, fun r why hops hr => ⟨?read, ?bad⟩⟩, ?evicted⟩,
    fun s agent line mask => ⟨recall_hands_over, ⟨_, rfl, rfl⟩, invalidation_unwatched, invalidation_replaces,
      fun r i pa hw hline ha => ⟨invalidation_missed hw hline ha, fun o hmask ho hmore => invalidation_wakes_asked hw hline ha hmask ho hmore,
        fun pr hmask hop hloc hst hi hblk => invalidation_wakes hw hline ha hmask hop hloc hst hi hblk⟩⟩,
    fun s agent id refused p hp => ⟨fun h => registrationAck_other hp h, ?last⟩⟩
  case empty => exact lineFill_empty hm he hc hops
  case read => exact lineFill_read hm he hc hops hr
  case bad => exact fun poison keymiss hone hbad hlack => lineFill_bad hm he hc hops hr hone hbad hlack
  case evicted => exact fun b r he hops poison keymiss => lineFill_evicted hm he hops
  case last =>
    intro w pr hs hid hloc hident hlt hhas hstate hcls hkind hstill hruns hbad hplain
    exact registrationAck_last hp hs hid hbad ⟨hloc, hident, hlt, hhas, hstate, hcls, hkind, hruns, hplain⟩ hstill

end Sys2Proof.Machine
end

section
/-!
PROOF. O42, RowBoundariesAndWaits (tier 2), the first part: what comes about at a boundary of an OPEN row (R175, R288, R95, R364, R460).
-/

namespace Sys2Proof.Machine

/-! ### A fault at a boundary -/

theorem takeFault_faulted (s : State) (pr : Nat) (f : FaultInfo) (late hy : Bool) (a : Word) :
    RowFaulted s (takeFault s pr f late hy a) pr f late a [] := by
  have hword (q k : Nat) := (rowWord_of_rows (takeFault_rows s pr f late hy a) q k).trans (rowWord_faultBody s pr f late a q k)
  refine ⟨(hword ..).trans ?_, (hword ..).trans ?_, (congrArg (bits · 48 8) (hword ..)).trans ?_, fun q k hk => (hword ..).trans ?_⟩
  · rw [if_neg (by omega), if_neg (by omega), if_pos ⟨rfl, rfl⟩]
  · rw [if_neg (by omega), if_pos ⟨rfl, rfl⟩]
  · rw [if_pos ⟨rfl, rfl⟩, bits_putBits_self _ _ _ _ (by omega)]
    rfl
  · simp only [List.mem_cons, List.not_mem_nil, or_false, not_or] at hk
    rw [if_neg (by tauto), if_neg (by tauto), if_neg (by tauto)]
theorem RowFaulted.of_kept {s u t : State} {pr : Nat} {f : FaultInfo} {late : Bool} {a : Word} {ws : List Nat}
    (h : RowFaulted u t pr f late a []) (hk : RowKept s u pr ws) : RowFaulted s t pr f late a ws :=
  ⟨h.d5, h.d6, h.state, (hk.trans h.words).mono fun k hm => by
    simp only [List.mem_append, List.mem_cons, List.not_mem_nil, or_false] at hm ⊢
    tauto⟩

section
variable {s : State} {r : RowId} {pr : Nat}


theorem lateCheck_faults {code : Nat} {a : Word} (h : openRow s r = some pr) (hd : lateDue s r = some (code, a)) :
    Runs (.lateCheck r) s fun t => RowFaulted s t pr ⟨cCheck, code % 16, 0, code / 16, 7⟩ true a [] := by
  refine ⟨takeFault { s with late := dropFirst (fun x => x.1 == r && decide (x.2.1 < 256)) s.late } pr
    ⟨cCheck, code % 16, 0, code / 16, 7⟩ true false a, ?_, (takeFault_faulted ..).of_kept fun _ _ _ => rfl⟩
  show execLateCheck r s = _
  unfold execLateCheck
  rw [h, hd]
theorem vlate_faults {a : Word} (h : openRow s r = some pr) (hd : vlateDue s r = some a) : Runs (.vlate r) s fun t =>
    RowFaulted s t pr (faultOf cVlate 0 0) true a [7] ∧ rowWord t pr 7 = putBits (rowWord s pr 7) 23 1 0 := by
  have hx : exec (.vlate r) s = .next (takeFault (setRowWord
      { s with late := s.late.filter fun x => !(x.1 == r && x.2.1 == 256), count := s.count + 1 } pr 7
      (putBits (rowWord s pr 7) 23 1 0)) pr (faultOf cVlate 0 0) true false a) := by
    show execVlate r s = _
    unfold execVlate
    rw [h, hd]
    rfl
  have hfault := takeFault_faulted (setRowWord
    { s with late := s.late.filter fun x => !(x.1 == r && x.2.1 == 256), count := s.count + 1 } pr 7
    (putBits (rowWord s pr 7) 23 1 0)) pr (faultOf cVlate 0 0) true false a
  refine ⟨_, hx, hfault.of_kept (rowKept_setRowWord _ pr 7 _ (by omega)), ?_⟩
  rw [hfault.words.word (by decide), rowWord_setRowWord_self _ _ _ _ (by omega)]

section
variable {k page acc since : Nat} {a : Word}

theorem exec_leaseLost (h : openRow s r = some pr) (hk : slotOf s pr = some k)
    (hw : (slot s (execOf pr) k).wait = .lease page a acc since) : exec (.leaseLost r) s =
    .next (if since + 1000000 ≤ s.time then takeFault s pr (faultOf cLease 0 acc) false false a else s) := by
  show execLeaseLost r s = _
  unfold execLeaseLost
  rw [h]
  dsimp only
  rw [hk, Option.map_some, hw]
theorem leaseLost_faults (h : openRow s r = some pr) (hk : slotOf s pr = some k)
    (hw : (slot s (execOf pr) k).wait = .lease page a acc since) (ht : since + 1000000 ≤ s.time) :
    Runs (.leaseLost r) s fun t => RowFaulted s t pr (faultOf cLease 0 acc) false a [] :=
  runs_of_eq (exec_leaseLost h hk hw) (if_pos ht) (takeFault_faulted ..)
theorem leaseLost_early (h : openRow s r = some pr) (hk : slotOf s pr = some k)
    (hw : (slot s (execOf pr) k).wait = .lease page a acc since) (ht : s.time < since + 1000000) :
    Runs (.leaseLost r) s fun t => t = s :=
  runs_of_eq (exec_leaseLost h hk hw) (if_neg (by omega)) rfl

end

/-! ### Events -/

theorem exec_eventDelivery (h : openRow s r = some pr) : exec (.eventDelivery r) s =
    .next (if eventDue s pr then endWait (deliverEvent (seeCopyEvent s r pr) pr) pr else s) := by
  show execEventDelivery r s = _
  unfold execEventDelivery
  rw [h]
theorem eventDelivery_delivers (h : openRow s r = some pr) (hd : eventDue s pr = true) : Runs (.eventDelivery r) s fun t =>
    rowWord t pr 9 = w64 (at_ (bits (rowWord s pr 1) 2 46) 18 + 2 ^ 17 + bits (rowWord s pr 2) 0 16) ∧
      rowWord t pr 1 = rowWord s pr 8 ∧ RowKept s t pr [1, 9] := by
  have hsee : (seeCopyEvent s r pr).rows = s.rows := by
    unfold seeCopyEvent
    split <;> rfl
  have hend (u : State) : (endWait u pr).rows = u.rows := by
    unfold endWait
    split <;> rfl
  have hword (q k : Nat) : rowWord (endWait (deliverEvent (seeCopyEvent s r pr) pr) pr) q k =
      if q = pr ∧ k = 1 then rowWord s pr 8 else if q = pr ∧ k = 9 then
        w64 (at_ (bits (rowWord s pr 1) 2 46) 18 + 2 ^ 17 + bits (rowWord s pr 2) 0 16) else rowWord s q k := by
    rw [rowWord_of_rows (hend _)]
    unfold deliverEvent
    dsimp only
    rw [rowWord_setRowWord _ _ _ _ _ _ (by omega), rowWord_setRowWord _ _ _ _ _ _ (by omega)]
    simp only [rowWord_of_rows hsee]
  refine runs_of_eq (exec_eventDelivery h) (if_pos hd) ⟨?_, ?_, fun q k hk => ?_⟩
  · rw [hword, if_neg (by omega), if_pos ⟨rfl, rfl⟩]
  · rw [hword, if_pos ⟨rfl, rfl⟩]
  · simp only [List.mem_cons, List.not_mem_nil, or_false, not_or] at hk
    rw [hword, if_neg (by tauto), if_neg (by tauto)]

end

/-! ### Breakpoints -/

/-- One cluster of a halt (R459). -/
def haltOne (c cause : Nat) (s : State) (t : Nat) : State :=
  if (cluster s t).halted then s
  else setCluster s t { cluster s t with halted := true, stepping := false, dbgCause := BitVec.ofNat 2 (if t = c then cause else 3) }
theorem haltCluster_eq (s : State) (c cause : Nat) : haltCluster s c cause = (haltSet s 32 [c]).foldl (haltOne c cause) s := rfl
theorem mem_haltSet (s : State) (n : Nat) {l : List Nat} {c : Nat} (h : c ∈ l) : c ∈ haltSet s n l := by
  induction n generalizing l with
  | zero => exact h
  | succ n ih => exact ih (List.mem_dedup.2 (List.mem_append_left _ h))
theorem haltOne_frame (c cause : Nat) (s : State) (t : Nat) : haltOne c cause s t = { s with clusters := (haltOne c cause s t).clusters } := by
  unfold haltOne
  split <;> rfl
/-- A cluster that is halted, or is not the one that halts, stays as it is. -/
theorem cluster_haltOne {c cause : Nat} {s : State} {t k : Nat} (h : (cluster s k).halted = true ∨ k ≠ t) :
    cluster (haltOne c cause s t) k = cluster s k := by
  unfold haltOne
  split
  next => rfl
  next ht =>
    rw [cluster_setCluster]
    refine if_neg fun hkt => ?_
    subst hkt
    exact h.elim ht fun hne => hne rfl
theorem foldl_haltOne_frame (c cause : Nat) (l : List Nat) (s : State) :
    l.foldl (haltOne c cause) s = { s with clusters := (l.foldl (haltOne c cause) s).clusters } := by
  induction l generalizing s with
  | nil => rfl
  | cons t l ih =>
    rw [List.foldl_cons, ih, haltOne_frame]
theorem foldl_haltOne_halted {c cause : Nat} {l : List Nat} {s : State} (h : (cluster s c).halted = true) :
    cluster (l.foldl (haltOne c cause) s) c = cluster s c := by
  induction l generalizing s with
  | nil => rfl
  | cons t l ih =>
    have hone := cluster_haltOne (c := c) (cause := cause) (t := t) (.inl h)
    rw [List.foldl_cons, ih (by rw [hone]; exact h), hone]
theorem foldl_haltOne_halts {c cause : Nat} {l : List Nat} {s : State} (hc : c ∈ l) :
    (cluster (l.foldl (haltOne c cause) s) c).halted = true ∧
      ((cluster s c).halted = false → (cluster (l.foldl (haltOne c cause) s) c).dbgCause = BitVec.ofNat 2 cause) := by
  induction l generalizing s with
  | nil => cases hc
  | cons t l ih =>
    rw [List.foldl_cons]
    by_cases ht : t = c
    · subst ht
      cases hh : (cluster s t).halted with
      | true =>
        have hone := cluster_haltOne (c := t) (cause := cause) (t := t) (.inl hh)
        rw [foldl_haltOne_halted (by rw [hone]; exact hh), hone]
        exact ⟨hh, fun h => nomatch h⟩
      | false =>
        have hone : cluster (haltOne t cause s t) t = { cluster s t with halted := true, stepping := false,
                                                                         dbgCause := BitVec.ofNat 2 cause } := by
          unfold haltOne
          rw [if_neg (ne_true_of_eq_false hh), cluster_setCluster_self, if_pos rfl]
        rw [foldl_haltOne_halted (by rw [hone]), hone]
        exact ⟨rfl, fun _ => rfl⟩
    · have hone := cluster_haltOne (s := s) (c := c) (cause := cause) (t := t) (k := c) (.inr (Ne.symm ht))
      obtain ⟨hhalted, hcause⟩ := ih (s := haltOne c cause s t) ((List.mem_cons.1 hc).resolve_left (Ne.symm ht))
      rw [hone] at hcause
      exact ⟨hhalted, hcause⟩
theorem haltCluster_frame (s : State) (c cause : Nat) :
    haltCluster s c cause = { s with clusters := (haltCluster s c cause).clusters } := by
  rw [haltCluster_eq]
  exact foldl_haltOne_frame ..
theorem haltCluster_halts (s : State) (c cause : Nat) : (cluster (haltCluster s c cause) c).halted = true ∧
    ((cluster s c).halted = false → (cluster (haltCluster s c cause) c).dbgCause = BitVec.ofNat 2 cause) := by
  rw [haltCluster_eq]
  exact foldl_haltOne_halts (mem_haltSet s 32 (List.mem_singleton_self c))
/-- Beyond the slots of an executor there is no OPEN row. -/
theorem lt_of_breakDue {s : State} {e k : Nat} (h : breakDue s e k = true) : k < 4 := by
  by_contra hk
  have hnone : slot s e k = Slot.init := by
    unfold slot
    rw [Vector.getElem?_eq_none (by omega)]
    rfl
  have hopen : openIn s e k = none := by
    unfold openIn
    rw [hnone]
    rfl
  unfold breakDue at h
  rw [hopen] at h
  cases h
theorem breakpoint_halts {s : State} {e k : Nat} (h : breakDue s e k = true) : Runs (.breakpointMatch e k) s fun t =>
    (cluster t (clusterOf e)).halted = true ∧ (slot t e k).bpPass = true ∧ t.rows = s.rows ∧
      ((cluster s (clusterOf e)).halted = false → (cluster t (clusterOf e)).dbgCause = 2) := by
  have hx : exec (.breakpointMatch e k) s = .next (haltCluster (setSlot s e k { slot s e k with bpPass := true }) (clusterOf e) 2) := by
    show execBreakpointMatch e k s = _
    unfold execBreakpointMatch
    rw [if_pos h]
  have hslot : (slot (setSlot s e k { slot s e k with bpPass := true }) e k).bpPass = true := by
    rw [slot_setSlot _ _ _ _ (lt_of_breakDue h)]
  have hcl : (setSlot s e k { slot s e k with bpPass := true }).clusters = s.clusters := rfl
  have hrows : (setSlot s e k { slot s e k with bpPass := true }).rows = s.rows := rfl
  generalize setSlot s e k { slot s e k with bpPass := true } = u at hx hslot hcl hrows
  have hframe := haltCluster_frame u (clusterOf e) 2
  obtain ⟨hhalted, hcause⟩ := haltCluster_halts u (clusterOf e) 2
  have hsame : cluster u (clusterOf e) = cluster s (clusterOf e) := by
    unfold cluster
    rw [hcl]
  rw [hsame] at hcause
  generalize haltCluster u (clusterOf e) 2 = t at *
  refine ⟨t, hx, hhalted, ?_, ?_, hcause⟩
  · rw [hframe]
    exact hslot
  · rw [hframe]
    exact hrows

end Sys2Proof.Machine
end

section
/-!
PROOF. O42, RowBoundariesAndWaits (tier 2), the second part: the replies of watches, barriers and rendezvous at a row in a bank
(R354, R355, R358, R359, R360).
-/

namespace Sys2Proof.Machine

/-! ### A reply that arrives -/

/-- Only what a reply's arrival touches besides its row has changed: executors, caches, and what is left of old code words. -/
def OnlyArrived (s t : State) : Prop :=
  t = { s with execs := t.execs, stale := t.stale, caches := t.caches, misses := t.misses }

section
variable {s t u : State}

theorem OnlyArrived.trans (h : OnlyArrived s t) (k : OnlyArrived t u) : OnlyArrived s u := by
  unfold OnlyArrived at *
  rw [k, h]
theorem OnlyArrived.rows (h : OnlyArrived s t) : t.rows = s.rows := (congrArg State.rows h).trans rfl
theorem OnlyArrived.ops (h : OnlyArrived s t) : t.ops = s.ops := (congrArg State.ops h).trans rfl
theorem OnlyArrived.locate (h : OnlyArrived s t) (r : RowId) : Machine.locate t r = Machine.locate s r :=
  locate_of_same ((congrArg State.parts h).trans rfl) ((congrArg State.mem h).trans rfl) ((congrArg State.blocks h).trans rfl)
    (congrArg (fun s : State => s.hub.keys) h) r
theorem OnlyCached.onlyArrived (h : OnlyCached s t) : OnlyArrived s t := by
  unfold OnlyCached at h
  unfold OnlyArrived
  rw [h]
theorem noteArrival_onlyArrived (s : State) (l : Loc) : OnlyArrived s (noteArrival s l) := by
  unfold noteArrival
  split
  · split <;> rfl
  · rfl
theorem opRec_of_ops (h : t.ops = s.ops) (r : RowId) (i : Nat) : opRec t r i = opRec s r i := by
  unfold opRec
  rw [h]

end

/-! ### The words of a reply's row -/

section
variable {s : State} {r : RowId} {pr i tag : Nat} {v : Word}

theorem slotDest_lt (s : State) (l : Loc) (i : Nat) : slotDest s l i < 128 := by
  unfold slotDest
  rw [bits_eq_div]
  exact Nat.mod_lt _ (by decide)
/-- A destination register is written (R174). -/
theorem writeDest_eq {d : Nat} (hd : 32 < d) (s : State) (v : Word) : writeDest s (.bank pr) d v = setRowWord s pr d v := by
  unfold writeDest
  rw [if_neg]
  · rfl
  · rw [Bool.or_eq_true, decide_eq_true_eq, decide_eq_true_eq]
    omega
/-- A reply finds its slot, and the row is not being moved between its places (R202). -/
structure ReplyAt (s : State) (r : RowId) (pr i tag : Nat) : Prop where
  loc   : locate s r = .bank pr
  has   : slotHas s (.bank pr) i tag = true
  still : inTransfer s (.bank pr) = false

theorem logDiscard_rows (s : State) (r : RowId) : (logDiscard s r).rows = s.rows := (traceCoh_onlyTrace ..).rows

/-! ### Watches -/

theorem exec_watchReply_stale (h : slotHas s (locate s r) i tag = false) (met : Bool) :
    exec (.watchReply r i tag v met) s = .next (logDiscard s r) := by
  show execWatchReply r i tag v met s = _
  unfold execWatchReply
  dsimp only
  rw [if_pos]
  rw [h, Bool.not_false, Bool.or_true]
theorem exec_watchReply_moving (hloc : locate s r = .bank pr) (h : slotHas s (.bank pr) i tag = true)
    (hm : inTransfer s (.bank pr) = true) (met : Bool) :
    exec (.watchReply r i tag v met) s = .next (sendAgain s (.watchReply r i tag v met)) := by
  show execWatchReply r i tag v met s = _
  unfold execWatchReply
  dsimp only
  rw [hloc, h, if_neg (by simp), if_pos hm]
/-- The row once the answer to its watch has arrived (R170, R354). -/
def watchSeen (s : State) (r : RowId) (pr : Nat) : State := acquireAt (noteArrival s (.bank pr)) (execOfRow s r) .dev
/-- The row once the value of an answer is in its register; that of an await which is not met yet is not kept (R354). -/
def watchValued (s : State) (r : RowId) (pr i : Nat) (v : Word) (met : Bool) : State :=
  if decide (bits (rowWord (watchSeen s r pr) pr 14) 0 2 = 2) && !met then watchSeen s r pr
  else writeDest (watchSeen s r pr) (.bank pr) (slotDest (watchSeen s r pr) (.bank pr) i) v
theorem watchSeen_onlyArrived (s : State) (r : RowId) (pr : Nat) : OnlyArrived s (watchSeen s r pr) :=
  (noteArrival_onlyArrived ..).trans (acquireAt_onlyCached ..).onlyArrived
/-- The answer of a watch that is not met ends the wait only of a row that has been woken meanwhile (R355). -/
theorem exec_watchReply_unmet (h : ReplyAt s r pr i tag) : exec (.watchReply r i tag v false) s = .next (
    match opRec (watchValued s r pr i v false) r i with
    | some o => if o.more = some .woken then endWatch (watchValued s r pr i v false) r i
      else setOpRec (watchValued s r pr i v false) { o with more := none }
    | none => watchValued s r pr i v false) := by
  show execWatchReply r i tag v false s = _
  unfold execWatchReply
  dsimp only
  rw [h.loc, h.has, if_neg (by simp), if_neg (ne_true_of_eq_false h.still), if_neg Bool.false_ne_true]
  rfl
/-- An await that is met goes on behind its chain (R355). -/
def watchPassed (s : State) (r : RowId) (pr i : Nat) (v : Word) : State :=
  match opRec (watchValued s r pr i v true) r i with
  | some o => if bits (rowWord (watchSeen s r pr) pr 14) 0 2 = 2 then setRowWord (watchValued s r pr i v true) pr 1 o.na
    else watchValued s r pr i v true
  | none => watchValued s r pr i v true
/-- No cluster watches for the row any more. -/
def dropWatches (s : State) (r : RowId) : State :=
  (List.range 0x81).foldl (fun s a => if (cluster s a).watches.any (fun w => w.1 == r) then dropWatch s a r else s) s
theorem exec_watchReply_met (h : ReplyAt s r pr i tag) :
    exec (.watchReply r i tag v true) s = .next (endWatch (dropWatches (watchPassed s r pr i v) r) r i) := by
  show execWatchReply r i tag v true s = _
  unfold execWatchReply
  dsimp only
  rw [h.loc, h.has, if_neg (by simp), if_neg (ne_true_of_eq_false h.still), if_pos rfl]
  unfold dropWatches watchPassed
  congr 3
theorem dropWatches_frame (s : State) (r : RowId) : dropWatches s r = { s with clusters := (dropWatches s r).clusters } := by
  unfold dropWatches
  generalize List.range 0x81 = l
  induction l generalizing s with
  | nil => rfl
  | cons a l ih =>
    rw [List.foldl_cons, ih]
    split <;> rfl
theorem dropWatches_same (s : State) (r q : RowId) : (dropWatches s r).rows = s.rows ∧ locate (dropWatches s r) q = locate s q := by
  have hframe := dropWatches_frame s r
  generalize dropWatches s r = t at hframe
  rw [hframe]
  exact ⟨rfl, rfl⟩

/-! ### What the answer of a watch leaves -/

/-- The word that the answer is written to lies among the registers. -/
theorem notMem_low {d : Nat} (hd : 32 < d) {k : Nat} (hk : k ≤ 32) : k ∉ [d] := by
  rw [List.mem_singleton]
  omega
theorem watchSeen_kept (s : State) (r : RowId) (pr : Nat) : RowKept s (watchSeen s r pr) pr [] :=
  RowKept.of_rows (watchSeen_onlyArrived s r pr).rows
theorem watchSeen_dest (s : State) (r : RowId) (pr i : Nat) : slotDest (watchSeen s r pr) (.bank pr) i = slotDest s (.bank pr) i :=
  congrArg (bits · 11 7) (rowWord_of_rows (watchSeen_onlyArrived s r pr).rows ..)
/-- The value is written, but for an await that is not met. -/
theorem watchValued_eq (hd : 32 < slotDest s (.bank pr) i) (met : Bool) : watchValued s r pr i v met =
    if bits (rowWord s pr 14) 0 2 = 2 ∧ met = false then watchSeen s r pr
    else setRowWord (watchSeen s r pr) pr (slotDest s (.bank pr) i) v := by
  unfold watchValued
  rw [rowWord_of_rows (watchSeen_onlyArrived s r pr).rows, watchSeen_dest, writeDest_eq hd]
  simp only [Bool.and_eq_true, decide_eq_true_eq, Bool.not_eq_true']
theorem watchValued_same (s : State) (r : RowId) (pr i : Nat) (v : Word) (met : Bool) (hd : 32 < slotDest s (.bank pr) i) :
    (watchValued s r pr i v met).ops = s.ops ∧ locate (watchValued s r pr i v met) r = locate s r ∧
      RowKept s (watchValued s r pr i v met) pr [slotDest s (.bank pr) i] := by
  have hseen := watchSeen_onlyArrived s r pr
  have hkept := (watchSeen_kept s r pr).trans
    (rowKept_setRowWord (watchSeen s r pr) pr (slotDest s (.bank pr) i) v (slotDest_lt ..))
  rw [watchValued_eq hd]
  split
  · exact ⟨hseen.ops, hseen.locate r, (watchSeen_kept s r pr).mono (by simp)⟩
  · exact ⟨hseen.ops, hseen.locate r, hkept⟩
theorem watchValued_word (hd : 32 < slotDest s (.bank pr) i) {met : Bool} (h : bits (rowWord s pr 14) 0 2 = 2 → met = true) :
    rowWord (watchValued s r pr i v met) pr (slotDest s (.bank pr) i) = v := by
  rw [watchValued_eq hd, if_neg (fun hn => by rw [h hn.1] at hn; exact Bool.noConfusion hn.2),
    rowWord_setRowWord_self _ _ _ _ (slotDest_lt ..)]

/-- A met await goes on at its chain's successor, a met wait where it is (R355). -/
theorem watchPassed_eq (hd : 32 < slotDest s (.bank pr) i) : watchPassed s r pr i v =
    ((opRec s r i).filter fun _ => decide (bits (rowWord s pr 14) 0 2 = 2)).elim (watchValued s r pr i v true)
      fun o => setRowWord (watchValued s r pr i v true) pr 1 o.na := by
  have hd14 : rowWord (watchSeen s r pr) pr 14 = rowWord s pr 14 := rowWord_of_rows (watchSeen_onlyArrived s r pr).rows ..
  unfold watchPassed
  rw [opRec_of_ops (watchValued_same s r pr i v true hd).1, hd14]
  cases opRec s r i with
  | none => rfl
  | some o =>
    simp only [Option.filter_some, decide_eq_true_eq]
    split <;> rfl
theorem watchPassed_same (hd : 32 < slotDest s (.bank pr) i) :
    locate (watchPassed s r pr i v) r = locate (watchValued s r pr i v true) r ∧
      RowKept (watchValued s r pr i v true) (watchPassed s r pr i v) pr [1] := by
  rw [watchPassed_eq hd]
  generalize watchValued s r pr i v true = u
  cases (opRec s r i).filter fun _ => decide (bits (rowWord s pr 14) 0 2 = 2) with
  | none => exact ⟨rfl, (RowKept.refl _ pr).mono (by simp)⟩
  | some o => exact ⟨rfl, rowKept_setRowWord _ pr 1 _ (by omega)⟩
theorem watchPassed_next (hd : 32 < slotDest s (.bank pr) i) :
    (bits (rowWord s pr 14) 0 2 = 1 → rowWord (watchPassed s r pr i v) pr 1 = rowWord (watchValued s r pr i v true) pr 1) ∧
      ∀ o, bits (rowWord s pr 14) 0 2 = 2 → opRec s r i = some o → rowWord (watchPassed s r pr i v) pr 1 = o.na := by
  rw [watchPassed_eq hd]
  refine ⟨fun hone => ?_, fun o htwo ho => ?_⟩
  · rw [hone]
    cases opRec s r i <;> rfl
  · rw [ho, htwo]
    exact rowWord_setRowWord_self _ _ _ _ (by omega)

/-- The end of a watch in a state whose row has kept its state and its reason. -/
theorem endWatch_after {u : State} {ws : List Nat} (hi : i < 8) (hloc : locate u r = .bank pr) (hkept : RowKept s u pr ws)
    (h0 : 0 ∉ ws) (h15 : 15 ∉ ws) (hst : rowState s pr = stBlocked)
    (hblk : bits (rowWord s pr 15) 41 3 = 2 ∨ bits (rowWord s pr 15) 41 3 = 5) : WatchEnded u (endWatch u r i) pr i := by
  refine endWatch_ended hloc hi ?_ ?_
  · unfold rowState
    rw [hkept.word h0]
    exact hst
  · rw [hkept.word h15]
    exact hblk
/-- A register keeps its value over the end of a watch. -/
theorem WatchEnded.reg {u t : State} {d : Nat} (h : WatchEnded u t pr i) (hi : i < 8) (hd : 32 < d) : rowWord t pr d = rowWord u pr d :=
  h.words.word (by simp only [List.mem_cons, List.not_mem_nil, or_false]; omega)

section
variable (hi : i < 8) (h : ReplyAt s r pr i tag) (hd : 32 < slotDest s (.bank pr) i)
include h hd

theorem watchReply_value (hone : bits (rowWord s pr 14) 0 2 = 1) (hn : ¬ ∃ o, opRec s r i = some o ∧ o.more = some .woken) :
    Runs (.watchReply r i tag v false) s fun t => rowWord t pr (slotDest s (.bank pr) i) = v ∧
      RowKept s t pr [slotDest s (.bank pr) i] := by
  have hword := watchValued_word (r := r) (v := v) (met := false) hd (fun htwo => by rw [hone] at htwo; cases htwo)
  obtain ⟨hops, -, hkept⟩ := watchValued_same s r pr i v false hd
  refine ⟨_, exec_watchReply_unmet h, ?_⟩
  rw [opRec_of_ops hops]
  cases ho : opRec s r i with
  | none => exact ⟨hword, hkept⟩
  | some o =>
    dsimp only
    rw [if_neg fun hw => hn ⟨o, ho, hw⟩]
    exact ⟨hword, hkept⟩
theorem watchReply_await (htwo : bits (rowWord s pr 14) 0 2 = 2) (hn : ¬ ∃ o, opRec s r i = some o ∧ o.more = some .woken) :
    Runs (.watchReply r i tag v false) s fun t => t.rows = s.rows := by
  have hseen := watchSeen_onlyArrived s r pr
  have hvalued : watchValued s r pr i v false = watchSeen s r pr := by rw [watchValued_eq hd, if_pos ⟨htwo, rfl⟩]
  refine ⟨_, exec_watchReply_unmet h, ?_⟩
  rw [hvalued, opRec_of_ops hseen.ops]
  cases ho : opRec s r i with
  | none => exact hseen.rows
  | some o =>
    dsimp only
    rw [if_neg fun hw => hn ⟨o, ho, hw⟩]
    exact hseen.rows

include hi
variable (hst : rowState s pr = stBlocked) (hblk : bits (rowWord s pr 15) 41 3 = 2 ∨ bits (rowWord s pr 15) 41 3 = 5)
include hst hblk

theorem watchReply_woken (hw : ∃ o, opRec s r i = some o ∧ o.more = some .woken) : Runs (.watchReply r i tag v false) s fun t =>
    (SlotFreed t pr i ∧ Queued t pr ∧ bits (rowWord t pr 15) 41 3 = 0) ∧ rowWord t pr 14 = 0 ∧
      RowKept s t pr [0, 2, 14, 15, 17 + 2 * i, slotDest s (.bank pr) i] ∧
      (bits (rowWord s pr 14) 0 2 = 1 → rowWord t pr (slotDest s (.bank pr) i) = v) := by
  obtain ⟨hops, hloc, hkept⟩ := watchValued_same s r pr i v false hd
  obtain ⟨o, ho, hmore⟩ := hw
  have hend := endWatch_after (u := watchValued s r pr i v false) hi (hloc.trans h.loc) hkept (notMem_low hd (by omega))
    (notMem_low hd (by omega)) hst hblk
  refine runs_of_eq (exec_watchReply_unmet h) ?_ ⟨⟨hend.freed, hend.queued, hend.blk⟩, hend.d14, ?_, fun hone => ?_⟩
  · rw [opRec_of_ops hops, ho]
    exact if_pos hmore
  · exact (hkept.trans hend.words).mono fun k hk => by
      simp only [List.mem_append, List.mem_cons, List.not_mem_nil, or_false] at hk ⊢
      omega
  · rw [hend.reg hi hd]
    exact watchValued_word hd (fun htwo => by rw [hone] at htwo; cases htwo)
theorem watchReply_met : Runs (.watchReply r i tag v true) s fun t =>
    (SlotFreed t pr i ∧ Queued t pr ∧ bits (rowWord t pr 15) 41 3 = 0) ∧ rowWord t pr (slotDest s (.bank pr) i) = v ∧
      rowWord t pr 14 = 0 ∧ RowKept s t pr [0, 1, 2, 14, 15, 17 + 2 * i, slotDest s (.bank pr) i] ∧
      (bits (rowWord s pr 14) 0 2 = 1 → rowWord t pr 1 = rowWord s pr 1) ∧
      ∀ o, bits (rowWord s pr 14) 0 2 = 2 → opRec s r i = some o → rowWord t pr 1 = o.na := by
  obtain ⟨-, hplace, hkept⟩ := watchValued_same s r pr i v true hd
  obtain ⟨hloc, hkeep⟩ := watchPassed_same (r := r) (v := v) hd
  obtain ⟨hone, htwo⟩ := watchPassed_next (r := r) (v := v) hd
  have hword := (hkeep.word (k := slotDest s (.bank pr) i) (by rw [List.mem_singleton]; omega)).trans
    (watchValued_word (r := r) (v := v) (met := true) hd fun _ => rfl)
  have hx := exec_watchReply_met (v := v) h
  have hkept1 := hkept.trans hkeep
  have hlocp := (hloc.trans hplace).trans h.loc
  have hlow : rowWord (watchValued s r pr i v true) pr 1 = rowWord s pr 1 := hkept.word (notMem_low hd (by omega))
  generalize watchPassed s r pr i v = p at hone htwo hword hx hkept1 hlocp
  obtain ⟨hrows, hsame⟩ := dropWatches_same p r r
  generalize dropWatches p r = u at hx hrows hsame
  have hkept' : RowKept s u pr ([slotDest s (.bank pr) i] ++ [1]) := fun q k hk => (rowWord_of_rows hrows q k).trans (hkept1 q k hk)
  have hnot (k : Nat) (hk : k ≤ 32) (h1 : k ≠ 1) : k ∉ [slotDest s (.bank pr) i] ++ [1] := by
    simp only [List.mem_append, List.mem_singleton]
    omega
  have hend := endWatch_after hi (hsame.trans hlocp) hkept' (hnot 0 (by omega) (by omega)) (hnot 15 (by omega) (by omega)) hst hblk
  have hnext : rowWord (endWatch u r i) pr 1 = rowWord p pr 1 :=
    (hend.words.word (by simp only [List.mem_cons, List.not_mem_nil, or_false]; omega)).trans (rowWord_of_rows hrows ..)
  refine ⟨_, hx, ⟨hend.freed, hend.queued, hend.blk⟩, ?_, hend.d14, ?_, fun h1 => ?_, fun o h2 ho => ?_⟩
  · exact (hend.reg hi hd).trans ((rowWord_of_rows hrows ..).trans hword)
  · exact (hkept'.trans hend.words).mono fun k hk => by
      simp only [List.mem_append, List.mem_cons, List.not_mem_nil, or_false] at hk ⊢
      omega
  · rw [hnext, hone h1, hlow]
  · rw [hnext, htwo o h2 ho]

end

end

end Sys2Proof.Machine
end

section
/-!
PROOF. O42, RowBoundariesAndWaits (tier 2), the third part: completions of barriers and rendezvous, and the whole (R358, R359, R360).
-/

namespace Sys2Proof.Machine

/-! ### Whether a closing wait is met -/

/-- A slot that is freed in two states whose system words agree leaves the same system words. -/
theorem clearSlot_congr {s t : State} {pr i : Nat} (hi : i < 8) (h : ∀ k, k < 32 → rowWord t pr k = rowWord s pr k) (k : Nat)
    (hk : k < 32) : rowWord (clearSlot t (.bank pr) i) pr k = rowWord (clearSlot s (.bank pr) i) pr k := by
  have hbusy : busySlots (clearSlot t (.bank pr) i) (.bank pr) = busySlots (clearSlot s (.bank pr) i) (.bank pr) :=
    busySlots_congr fun j hj => by
      have h2 : ¬ (pr = pr ∧ 17 + 2 * j = 2) := by omega
      rw [rowWord_clearSlot t pr hi, rowWord_clearSlot s pr hi, if_neg h2, if_neg h2, h _ (by omega), h _ (by omega)]
  rw [rowWord_clearSlot t pr hi, rowWord_clearSlot s pr hi, hbusy, h 2 (by omega), h (17 + 2 * i) (by omega), h k hk]
/-- What a closing instruction waits for depends on its row's low words, on the waits and on the pools (R334). -/
theorem switchMet_congr {s t : State} {pr : Nat} (hword : ∀ k, k < 16 → rowWord t pr k = rowWord s pr k)
    (hwait : t.waitFor = s.waitFor) (hpools : t.pools = s.pools) : switchMet t pr = switchMet s pr := by
  have hid : rowId t pr = rowId s pr := by
    unfold rowId
    rw [hword 3 (by omega)]
  have hclaim : ownClaim t pr = ownClaim s pr := by
    unfold ownClaim claimIn pool
    rw [hword 11 (by omega), hpools]
  have hsettled : claimSettled t pr = claimSettled s pr := by
    unfold claimSettled stranded pool
    rw [hclaim, hid, hword 11 (by omega), hpools]
  have hmet (w : WaitFor) : waitForMet t pr w = waitForMet s pr w := by
    unfold waitForMet
    rw [hword 2 (by omega), hword 12 (by omega), hword 11 (by omega), hsettled, hclaim]
  unfold switchMet
  rw [hword 15 (by omega), hword 2 (by omega), hid, hwait]
  simp only [hmet]
/-- A row that has issued a closing instruction goes on when what it waits for is met (R334). -/
theorem wakeIfMet_kept (s : State) (pr : Nat) : RowKept s (wakeIfMet s pr) pr [0] ∧
    (rowState s pr ≠ stWait → (wakeIfMet s pr).rows = s.rows) ∧
    (rowState s pr = stWait → switchMet s pr = true → Queued (wakeIfMet s pr) pr) := by
  obtain ⟨hqueued, hkept⟩ := makeReady_queued (dropWaitFor s (rowId s pr)) pr
  unfold wakeIfMet
  split
  next h =>
    rw [Bool.and_eq_true, decide_eq_true_eq] at h
    exact ⟨hkept, fun hn => absurd h.1 hn, fun _ _ => hqueued⟩
  next h =>
    refine ⟨(RowKept.refl s pr).mono (by simp), fun _ => rfl, fun hw hm => absurd ?_ h⟩
    rw [Bool.and_eq_true, decide_eq_true_eq]
    exact ⟨hw, hm⟩

/-! ### The completion -/

section
variable {s : State} {r : RowId} {pr i tag : Nat} {v : Word}

theorem exec_sync_stale (h : slotHas s (locate s r) i tag = false) (no : Bool) :
    exec (.syncCompletion r i tag v no) s = .next (logDiscard s r) := by
  show execSyncCompletion r i tag v no s = _
  unfold execSyncCompletion
  dsimp only
  rw [if_pos]
  rw [h, Bool.not_false, Bool.or_true]
theorem exec_sync_moving (hloc : locate s r = .bank pr) (h : slotHas s (.bank pr) i tag = true)
    (hm : inTransfer s (.bank pr) = true) (no : Bool) :
    exec (.syncCompletion r i tag v no) s = .next (sendAgain s (.syncCompletion r i tag v no)) := by
  show execSyncCompletion r i tag v no s = _
  unfold execSyncCompletion
  dsimp only
  rw [hloc, h, if_neg (by simp), if_pos hm]
theorem exec_sync_refused (h : ReplyAt s r pr i tag) : exec (.syncCompletion r i tag v true) s =
    .next (refuseRdv (noteArrival s (.bank pr)) (.bank pr) i) := by
  show execSyncCompletion r i tag v true s = _
  unfold execSyncCompletion
  dsimp only
  rw [h.loc, h.has, if_neg (by simp), if_neg (ne_true_of_eq_false h.still)]
  rfl
/-- The row once the value of a completion is in its register. -/
def syncValued (s : State) (pr i : Nat) (v : Word) : State :=
  writeDest (noteArrival s (.bank pr)) (.bank pr) (slotDest (noteArrival s (.bank pr)) (.bank pr) i) v
/-- Its slot is FREE. -/
def syncFreed (s : State) (pr i : Nat) (v : Word) : State := clearSlot (syncValued s pr i v) (.bank pr) i
/-- The row waits for the completion: every rendezvous blocks, and a barrier that is none of arrival alone. -/
def syncWaits (s : State) (r : RowId) (pr i : Nat) : Bool :=
  !decide ((slotAddr s (.bank pr) i).toNat < 8) || ((opRec s r i).map (·.bar)).getD false
theorem exec_sync (h : ReplyAt s r pr i tag) : ∃ e sc, exec (.syncCompletion r i tag v false) s = .next (wakeIfMet
    (if syncWaits s r pr i then unblockRow (acquireAt (syncFreed s pr i v) e sc) (.bank pr)
      [if (slotAddr s (.bank pr) i).toNat < 8 then 1 else 3]
    else syncFreed s pr i v) pr) := by
  have hnoted := noteArrival_onlyArrived s (.bank pr)
  have haddr : slotAddr (noteArrival s (.bank pr)) (.bank pr) i = slotAddr s (.bank pr) i := rowWord_of_rows hnoted.rows ..
  have hop := opRec_of_ops hnoted.ops r i
  have hx : ∃ e sc, exec (.syncCompletion r i tag v false) s = .next (wakeIfMet
      (if !decide ((slotAddr (noteArrival s (.bank pr)) (.bank pr) i).toNat < 8) ||
          ((opRec (noteArrival s (.bank pr)) r i).map (·.bar)).getD false then
        unblockRow (acquireAt (syncFreed s pr i v) e sc) (.bank pr)
          [if (slotAddr (noteArrival s (.bank pr)) (.bank pr) i).toNat < 8 then 1 else 3]
      else syncFreed s pr i v) pr) := by
    refine ⟨execOfRow (syncFreed s pr i v) r, domainScope (syncValued s pr i v)
      (if (slotAddr (noteArrival s (.bank pr)) (.bank pr) i).toNat < 8 then
        (slotAddr (noteArrival s (.bank pr)) (.bank pr) i).toNat
      else (slotAddr (noteArrival s (.bank pr)) (.bank pr) i).toNat % 256 - 8) (.bank pr), ?_⟩
    show execSyncCompletion r i tag v false s = _
    unfold execSyncCompletion
    dsimp only
    rw [h.loc, h.has, if_neg (by simp), if_neg (ne_true_of_eq_false h.still), if_neg Bool.false_ne_true]
    rfl
  simp only [haddr, hop] at hx
  exact hx

theorem syncValued_eq (v : Word) (hd : 32 < slotDest s (.bank pr) i) :
    syncValued s pr i v = setRowWord (noteArrival s (.bank pr)) pr (slotDest s (.bank pr) i) v := by
  have hdest : slotDest (noteArrival s (.bank pr)) (.bank pr) i = slotDest s (.bank pr) i :=
    congrArg (bits · 11 7) (rowWord_of_rows (noteArrival_onlyArrived s (.bank pr)).rows ..)
  unfold syncValued
  rw [hdest, writeDest_eq hd]
theorem syncValued_kept (s : State) (pr i : Nat) (v : Word) (hd : 32 < slotDest s (.bank pr) i) :
    RowKept s (syncValued s pr i v) pr [slotDest s (.bank pr) i] := by
  rw [syncValued_eq v hd]
  exact (RowKept.of_rows (ws := []) (noteArrival_onlyArrived s (.bank pr)).rows).trans (rowKept_setRowWord _ pr _ v (slotDest_lt ..))
/-- What a completion leaves before its row is woken. -/
theorem syncFreed_same (v : Word) (hi : i < 8) (hd : 32 < slotDest s (.bank pr) i) :
    RowKept s (syncFreed s pr i v) pr [2, 17 + 2 * i, slotDest s (.bank pr) i] ∧ SlotFreed (syncFreed s pr i v) pr i ∧
      rowWord (syncFreed s pr i v) pr (slotDest s (.bank pr) i) = v ∧
      (syncFreed s pr i v).waitFor = s.waitFor ∧ (syncFreed s pr i v).pools = s.pools := by
  have hnoted := noteArrival_onlyArrived s (.bank pr)
  have hvalued := syncValued_eq v hd
  have hwait : (syncValued s pr i v).waitFor = s.waitFor := by
    rw [hvalued]
    exact (congrArg State.waitFor hnoted).trans rfl
  have hpools : (syncValued s pr i v).pools = s.pools := by
    rw [hvalued]
    exact (congrArg State.pools hnoted).trans rfl
  have hcleared := rowKept_clearSlot (syncValued s pr i v) pr hi
  have honly := clearSlot_onlyWoken (syncValued s pr i v) (.bank pr) i
  refine ⟨((syncValued_kept s pr i v hd).trans hcleared).mono fun k hk => ?_, slotFreed_clearSlot (syncValued s pr i v) pr hi, ?_,
    ((congrArg State.waitFor honly).trans rfl).trans hwait, ((congrArg State.pools honly).trans rfl).trans hpools⟩
  · simp only [List.mem_append, List.mem_cons, List.not_mem_nil, or_false] at hk ⊢
    omega
  · refine (hcleared.word ?_).trans ?_
    · simp only [List.mem_cons, List.not_mem_nil, or_false]
      omega
    · rw [hvalued]
      exact rowWord_setRowWord_self _ _ _ _ (slotDest_lt ..)

section
variable (hi : i < 8) (h : ReplyAt s r pr i tag) (hd : 32 < slotDest s (.bank pr) i)
include hi h hd

/-- A completion that a BLOCKED row waits for wakes it (R358, R359). -/
theorem sync_wakes (hw : syncWaits s r pr i = true) (hst : rowState s pr = stBlocked)
    (hblk : bits (rowWord s pr 15) 41 3 = if (slotAddr s (.bank pr) i).toNat < 8 then 1 else 3) :
    Runs (.syncCompletion r i tag v false) s fun t =>
      (SlotFreed t pr i ∧ Queued t pr ∧ bits (rowWord t pr 15) 41 3 = 0) ∧ rowWord t pr (slotDest s (.bank pr) i) = v ∧
        RowKept s t pr [0, 2, 15, 17 + 2 * i, slotDest s (.bank pr) i] := by
  obtain ⟨hkept, hfreed, hword, -, -⟩ := syncFreed_same v hi hd
  obtain ⟨e, sc, hx⟩ := exec_sync (v := v) h
  rw [if_pos hw] at hx
  have hacq := acquireAt_onlyCached (syncFreed s pr i v) e sc
  generalize acquireAt (syncFreed s pr i v) e sc = u at hx hacq
  have hlow (k : Nat) (hk : k = 0 ∨ k = 15) : rowWord u pr k = rowWord s pr k :=
    (rowWord_of_rows hacq.rows ..).trans (hkept.word (by simp only [List.mem_cons, List.not_mem_nil, or_false]; omega))
  obtain ⟨hqueued, hblk', hwords⟩ := unblockRow_woken (s := u) (pr := pr)
    (reasons := [if (slotAddr s (.bank pr) i).toNat < 8 then 1 else 3])
    ((congrArg (bits · 48 8) (hlow 0 (.inl rfl))).trans hst) (by
      rw [hlow 15 (.inr rfl), hblk]
      simp only [List.contains_cons, BEq.rfl, Bool.true_or])
  generalize unblockRow u (.bank pr) [if (slotAddr s (.bank pr) i).toNat < 8 then 1 else 3] = t at hx hqueued hblk' hwords
  have hend : wakeIfMet t pr = t := by
    refine if_neg ?_
    rw [hqueued.1, Bool.and_eq_true, decide_eq_true_eq]
    exact fun hn => absurd hn.1 (by decide)
  have hkept' : RowKept (syncFreed s pr i v) t pr [0, 15] := fun q k hk => (hwords q k hk).trans (rowWord_of_rows hacq.rows ..)
  refine runs_of_eq hx hend ⟨⟨hfreed.of_kept hi hkept' (by simp) ?_, hqueued, hblk'⟩, ?_, (hkept.trans hkept').mono fun k hk => ?_⟩
  · intro j _
    simp only [List.mem_cons, List.not_mem_nil, or_false]
    omega
  · refine (hkept'.word ?_).trans hword
    simp only [List.mem_cons, List.not_mem_nil, or_false]
    omega
  · simp only [List.mem_append, List.mem_cons, List.not_mem_nil, or_false] at hk ⊢
    omega
/-- The completion of a barrier that was arrived at alone only completes its slot (R358). -/
theorem sync_completes (hw : syncWaits s r pr i = false) : Runs (.syncCompletion r i tag v false) s fun t =>
    SlotFreed t pr i ∧ rowWord t pr (slotDest s (.bank pr) i) = v ∧
      (rowState s pr ≠ stWait → RowKept s t pr [2, 17 + 2 * i, slotDest s (.bank pr) i]) ∧
      (rowState s pr = stWait → switchMet (clearSlot s (.bank pr) i) pr = true → Queued t pr) := by
  obtain ⟨hkept, hfreed, hword, hwait, hpools⟩ := syncFreed_same v hi hd
  have hlow (k : Nat) (hk : k < 32) := (syncValued_kept s pr i v hd).word (notMem_low hd (k := k) (by omega))
  obtain ⟨e, sc, hx⟩ := exec_sync (v := v) h
  rw [if_neg (ne_true_of_eq_false hw)] at hx
  obtain ⟨hwords, hsame, hqueued⟩ := wakeIfMet_kept (syncFreed s pr i v) pr
  have hstate : rowState (syncFreed s pr i v) pr = rowState s pr :=
    congrArg (bits · 48 8) (hkept.word (by simp only [List.mem_cons, List.not_mem_nil, or_false]; omega))
  have hmet : switchMet (syncFreed s pr i v) pr = switchMet (clearSlot s (.bank pr) i) pr := by
    have hcleared := clearSlot_onlyWoken s (.bank pr) i
    exact switchMet_congr (fun k hk => clearSlot_congr hi hlow k (by omega)) (hwait.trans ((congrArg State.waitFor hcleared).trans rfl).symm)
      (hpools.trans ((congrArg State.pools hcleared).trans rfl).symm)
  refine ⟨_, hx, hfreed.of_kept hi hwords (by simp) ?_, ?_, fun hn q k hk => ?_, fun hs hm => hqueued (hstate.trans hs) (hmet.trans hm)⟩
  · intro j _
    simp only [List.mem_singleton]
    omega
  · exact (hwords.word (by rw [List.mem_singleton]; omega)).trans hword
  · rw [rowWord_of_rows (hsame (by rw [hstate]; exact hn))]
    exact hkept q k hk

end

/-- A rendezvous that is refused faults its BLOCKED row at the instruction (R359). -/
theorem sync_refused {o : OpRec} (hi : i < 8) (h : ReplyAt s r pr i tag) (hid : rowId s pr = r) (ho : opRec s r i = some o)
    (hst : rowState s pr = stBlocked) (hblk : bits (rowWord s pr 15) 41 3 = 3) : Runs (.syncCompletion r i tag v true) s fun t =>
      SlotFreed t pr i ∧ rowWord t pr 1 = o.na ∧ RowFaulted s t pr (faultOf cDomain 0 9) false
        (w64 (at_ (bits (slotAddr s (.bank pr) i) 0 8 - 8) 32 + bits (slotAddr s (.bank pr) i) 8 16)) [1, 2, 15, 17 + 2 * i] := by
  have hnoted := noteArrival_onlyArrived s (.bank pr)
  have hx := exec_sync_refused (v := v) h
  generalize noteArrival s (.bank pr) = u at hnoted hx
  have hword (k : Nat) : rowWord u pr k = rowWord s pr k := rowWord_of_rows hnoted.rows ..
  have hlocid : locId u (.bank pr) = r := by
    refine Eq.trans ?_ hid
    show (⟨bits (rowWord u pr 3) 40 6, bits (rowWord u pr 3) 0 24⟩ : RowId) = ⟨bits (rowWord s pr 3) 40 6, bits (rowWord s pr 3) 0 24⟩
    rw [hword]
  have haddr : slotAddr u (.bank pr) i = slotAddr s (.bank pr) i := hword _
  have hcleared := rowKept_clearSlot u pr hi
  have hfreed := slotFreed_clearSlot u pr hi
  have h15 : rowWord (clearSlot u (.bank pr) i) pr 15 = rowWord s pr 15 :=
    (hcleared.word (by simp only [List.mem_cons, List.not_mem_nil, or_false]; omega)).trans (hword 15)
  have hrefuse : refuseRdv u (.bank pr) i = takeFault (setRowWord (setRowWord (clearSlot u (.bank pr) i) pr 1 o.na) pr 15
      (putBits (rowWord (setRowWord (clearSlot u (.bank pr) i) pr 1 o.na) pr 15) 41 3 0)) pr (faultOf cDomain 0 9) false false
      (w64 (at_ (bits (slotAddr s (.bank pr) i) 0 8 - 8) 32 + bits (slotAddr s (.bank pr) i) 8 16)) := by
    have hstate : locState u (.bank pr) = stBlocked := (congrArg (bits · 48 8) (hword 0)).trans hst
    have hblocked : decide (bits (locWord (clearSlot u (.bank pr) i) (.bank pr) 15) 41 3 = 3) = true :=
      decide_eq_true ((congrArg (bits · 41 3) h15).trans hblk)
    unfold refuseRdv
    dsimp only
    rw [hblocked, hlocid, opRec_of_ops hnoted.ops, ho, haddr, if_neg (by decide)]
    exact if_pos hstate
  rw [hrefuse] at hx
  generalize clearSlot u (.bank pr) i = c at *
  have hset := (rowKept_setRowWord c pr 1 o.na (by omega)).trans
    (rowKept_setRowWord (setRowWord c pr 1 o.na) pr 15 (putBits (rowWord (setRowWord c pr 1 o.na) pr 15) 41 3 0) (by omega))
  have hna : rowWord (setRowWord (setRowWord c pr 1 o.na) pr 15
      (putBits (rowWord (setRowWord c pr 1 o.na) pr 15) 41 3 0)) pr 1 = o.na := by
    rw [rowWord_setRowWord_other _ _ _ _ _ (by omega) (by omega), rowWord_setRowWord_self _ _ _ _ (by omega)]
  generalize setRowWord (setRowWord c pr 1 o.na) pr 15 (putBits (rowWord (setRowWord c pr 1 o.na) pr 15) 41 3 0) = w at hx hset hna
  have hfault := takeFault_faulted w pr (faultOf cDomain 0 9) false false
    (w64 (at_ (bits (slotAddr s (.bank pr) i) 0 8 - 8) 32 + bits (slotAddr s (.bank pr) i) 8 16))
  have hkept : RowKept s w pr [1, 2, 15, 17 + 2 * i] :=
    (((RowKept.of_rows (ws := []) hnoted.rows).trans hcleared).trans hset).mono fun k hk => by
      simp only [List.mem_append, List.mem_cons, List.not_mem_nil, or_false, false_or] at hk ⊢
      omega
  refine ⟨_, hx, hfreed.of_kept hi (hset.trans hfault.words) ?_ fun j _ => ?_, ?_, hfault.of_kept hkept⟩
  · decide
  · simp only [List.mem_append, List.mem_cons, List.not_mem_nil, or_false]
    omega
  · exact (hfault.words.word (by decide)).trans hna

end

/-- Settles O42: what is due at a boundary, and the replies by what the row was waiting for, each by the lemma named after it. -/
theorem rowBoundariesAndWaits : Obligations.RowBoundariesAndWaits := by
  refine ⟨fun s r pr h => ⟨fun code a => lateCheck_faults h, fun a => vlate_faults h,
      fun k page a acc since hk hw => ⟨leaseLost_faults h hk hw, leaseLost_early h hk hw⟩, eventDelivery_delivers h,
      fun hd => runs_of_eq (exec_eventDelivery h) (if_neg (ne_true_of_eq_false hd)) rfl, fun e k => breakpoint_halts⟩,
    fun s r pr i tag v hloc hid hi => ⟨fun hs => ?stale, fun hs hm => ?moving, fun hs hm hd => ?replies, ?refused⟩⟩
  case stale =>
    rw [← hloc] at hs
    exact ⟨fun met => ⟨_, exec_watchReply_stale hs met, logDiscard_rows s r⟩, fun no => ⟨_, exec_sync_stale hs no, logDiscard_rows s r⟩⟩
  case moving => exact ⟨fun met => ⟨_, exec_watchReply_moving hloc hs hm met, rfl⟩, fun no => ⟨_, exec_sync_moving hloc hs hm no, rfl⟩⟩
  case replies =>
    have h : ReplyAt s r pr i tag := ⟨hloc, hs, hm⟩
    refine ⟨watchReply_value h hd, watchReply_await h hd, fun hw hst hblk => watchReply_woken hi h hd hst hblk hw,
      fun hst hblk => watchReply_met hi h hd hst hblk, fun o ho ha hbar hst hblk => ?_, fun ha hst hblk => ?_, fun o ho ha hbar => ?_⟩
    · exact sync_wakes hi h hd (by rw [syncWaits, ho, Option.map_some, Option.getD_some, hbar, Bool.or_true]) hst
        (hblk.trans (if_pos ha).symm)
    · have hfar : ¬ (slotAddr s (.bank pr) i).toNat < 8 := by omega
      exact sync_wakes hi h hd (by rw [syncWaits, decide_eq_false hfar, Bool.not_false, Bool.true_or]) hst (hblk.trans (if_neg hfar).symm)
    · exact sync_completes hi h hd (by
        rw [syncWaits, ho, Option.map_some, Option.getD_some, hbar, decide_eq_true ha, Bool.not_true, Bool.or_false])
  case refused => exact fun hs hm o ho hst hblk => sync_refused hi ⟨hloc, hs, hm⟩ hid ho hst hblk

end Sys2Proof.Machine
end

section
/-!
SUPPORT. A memory chain that takes a slot: the checks that it has passed, its operation under the slot's tag, and the ends that it can
have (R174, R179, R180, R188, R196, R202, R422).
-/

namespace Sys2Proof.Machine

/-! ### The checks passed -/

section
variable {s : State} {a : Word} {n acc : Nat}

theorem withSite_at {w : Want} {p : Place} {x : TlbEnt} {body : State → Place → TlbEnt → State} (ha : a.toNat % n = 0)
    (hsite : siteOf s w a = .at_ p x) : withSite s w a n body = body s p x := by
  unfold withSite
  rw [if_neg (not_not_intro ha), hsite]
theorem underLease_ready {pa : Nat} {body : State → State} (h : LeaseReady s pa) : underLease s pa a acc body = body s := by
  refine if_neg ?_
  rw [Bool.and_eq_true, Bool.not_eq_true']
  exact fun hn => absurd (h hn.1) (ne_true_of_eq_false hn.2)
theorem afterEarlier_free {pa : Nat} {body : State → State} (h : earlierAccess s pa n = none) : afterEarlier s pa n body = body s := by
  unfold afterEarlier
  rw [h]
theorem afterEarlier_waits {pa j : Nat} {body : State → State} (h : earlierAccess s pa n = some j) :
    afterEarlier s pa n body = setWait s (.reply j) := by
  unfold afterEarlier
  rw [h]
theorem afterReread_free {body : State → State} (h : rereading s = none) : afterReread s body = body s := by
  unfold afterReread
  rw [h]
theorem withSlot_free {i : Nat} {body : State → Nat → State} (h : freeSlot s (.bank s.cur) = some i) : withSlot s body = body s i := by
  unfold withSlot
  rw [h]
theorem withSlot_full {body : State → Nat → State} (h : freeSlot s (.bank s.cur) = none) : withSlot s body = setWait s .slotFull := by
  unfold withSlot
  rw [h]
/-- No load or atomic that is still out will write the word (R174). -/
theorem afterOwn_ready {o : Nat} {body : State → State} (h : WordReady s (o / 8)) : afterOwn s o body = body s := by
  have hnone : (busySlots s (.bank s.cur)).find? (fun i => (slotKind s (.bank s.cur) i == 1 || slotKind s (.bank s.cur) i == 3) &&
      slotDest s (.bank s.cur) i == o / 8 && o / 8 != 0) = none := by
    rw [List.find?_eq_none]
    intro j hj
    obtain ⟨hlt, hbusy⟩ := List.mem_filter.1 hj
    simp only [Bool.and_eq_true, Bool.or_eq_true, beq_iff_eq, bne_iff_ne, ne_eq, not_and, not_not]
    exact fun hk => h j (List.mem_range.1 hlt) (bne_iff_ne.1 hbusy) hk.1 hk.2
  unfold afterOwn
  dsimp only
  rw [hnone]
theorem setWait_time (s : State) (w : Wait) : (setWait s w).time = s.time := by
  unfold setWait
  split <;> rfl

end

/-! ### The slot taken -/

section
variable {s u : State} {i size dest cls kind : Nat} {a : Word}

/-- Once the slot is taken only the row, the side record and the time have changed. -/
def OnlyTaken (s u : State) : Prop := u = { s with time := s.time + 1, rows := u.rows, ops := u.ops }
theorem openSlot_onlyTaken (s : State) (i size dest cls kind : Nat) (a : Word) (o : OpRec) :
    OnlyTaken s (openSlot s i size dest cls kind a o) := by
  unfold openSlot OnlyTaken
  generalize hu : takeSlot s (.bank s.cur) i size dest cls kind a = v
  have hframe := takeSlot_frame s s.cur i size dest cls kind a
  rw [hu] at hframe
  unfold setOpRec
  rw [hframe]
section
variable {s u : State} (h : OnlyTaken s u)
include h

theorem OnlyTaken.time : u.time = s.time + 1 := (congrArg State.time h).trans rfl
theorem OnlyTaken.mem : u.mem = s.mem := (congrArg State.mem h).trans rfl
theorem OnlyTaken.spads : u.spads = s.spads := (congrArg State.spads h).trans rfl
theorem OnlyTaken.sameArray : SameArray s u :=
  ⟨(congrArg State.count h).trans rfl, h.mem, (congrArg State.blocks h).trans rfl, (congrArg State.hub h).trans rfl,
    (congrArg State.parts h).trans rfl, (congrArg State.dlines h).trans rfl⟩
theorem OnlyTaken.quiet {q : Nat} (hq : CohQuiet s q) : CohQuiet u q := by
  unfold CohQuiet
  rw [h.sameArray.part]
  exact hq
theorem OnlyTaken.cline (agent line : Nat) : Machine.cline u agent line = Machine.cline s agent line :=
  cline_of_caches ((congrArg State.caches h).trans rfl) agent line
theorem OnlyTaken.missOf (agent line : Nat) : Machine.missOf u agent line = Machine.missOf s agent line := by
  unfold Machine.missOf
  rw [(congrArg State.misses h).trans rfl]
theorem OnlyTaken.hits (r : Req) : Machine.hits u r = Machine.hits s r := by
  unfold Machine.hits
  rw [h.cline]
theorem OnlyTaken.missRoom (agent line : Nat) : Machine.missRoom u agent line = Machine.missRoom s agent line := by
  unfold Machine.missRoom
  rw [h.missOf, (congrArg State.misses h).trans rfl]
theorem OnlyTaken.watching (agent line : Nat) : Machine.watching u agent line = Machine.watching s agent line :=
  watching_of_clusters ((congrArg State.clusters h).trans rfl) agent line
/-- The rack of a die is the same once the slot is taken. -/
theorem OnlyTaken.rackLook (d q pa : Nat) : (Machine.rackLook u d q pa).2 = (Machine.rackLook s d q pa).2 :=
  rackLook_snd d q pa ((congrArg State.racks h).trans rfl) h.sameArray.parts ((congrArg State.tailCache h).trans rfl) h.mem
    h.sameArray.blocks (congrArg HubDie.keys h.sameArray.hub)

end

/-- The tag of the slot taken (R422). -/
def takenTag (s : State) (i size dest cls kind : Nat) (a : Word) : Nat :=
  slotTag (takeSlot s (.bank s.cur) i size dest cls kind a) (.bank (takeSlot s (.bank s.cur) i size dest cls kind a).cur) i
theorem Took.tagged (h : Took s u i size dest cls kind a) (c : Ctl) :
    takenTag s i size dest cls kind a = slotTag (advance c u) (.bank s.cur) i := by
  unfold takenTag
  rw [cur_takeSlot]
  exact h.tag c

/-! ### A place that answers at once -/

/-- A reply of the operation, under the slot's tag. -/
theorem Took.replies {p : Reply} {v : Word} (h : Took s u i size dest cls kind a) (c : Ctl) (hp : Msg.resultArrival p ∈ u.agenda)
    (hrow : p.row = Machine.curRow s) (hslot : p.slot = i) (htag : p.tag = takenTag s i size dest cls kind a) (hv : p.value = v)
    (hpoison : p.poison = 0) (hrefuse : p.refuse = 0) : Replies s (advance c u) i v :=
  ⟨p, hp, hrow, hslot, htag.trans (h.tagged c), hv, hpoison, hrefuse⟩
/-- What an operation's own answer says of it. -/
theorem ownReply_taken (hi : i < 8) (o : OpRec) (v : Word) :
    (ownReply (openSlot s i size dest cls kind a o) i v).row = curRow s ∧ (ownReply (openSlot s i size dest cls kind a o) i v).slot = i ∧
      (ownReply (openSlot s i size dest cls kind a o) i v).tag = takenTag s i size dest cls kind a ∧
      (ownReply (openSlot s i size dest cls kind a o) i v).value = v := by
  refine ⟨(took_openSlot s i size dest cls kind a o).curRow hi, rfl, ?_, rfl⟩
  show slotTag (openSlot s i size dest cls kind a o) (.bank (openSlot s i size dest cls kind a o).cur) i = _
  rw [cur_openSlot, takenTag, cur_takeSlot, slotTag_of_rows (rows_takeSlot s i size dest cls kind a o)]
/-- What a chain leaves that has been issued under a slot without changing a byte. -/
def IssuedOnly (c : Ctl) (s t : State) (i size dest cls kind : Nat) (a : Word) : Prop :=
  Issued (nextPc c s) s t i size dest cls kind a ∧ SameBytes s t
theorem Took.issuedOnly (h : Took s u i size dest cls kind a) (c : Ctl) (hmem : u.mem = s.mem) (hspads : u.spads = s.spads)
    (hi : i < 8) (hsize : size < 256) (hdest : dest < 128) (hcls : cls < 8) (hkind : kind < 256) :
    IssuedOnly c s (advance c u) i size dest cls kind a :=
  ⟨h.issued hi hsize hdest hcls hkind c, advance_sameBytes c (sameBytes_of_same hmem hspads)⟩
theorem answerNow_issues (c : Ctl) (acq : Option Scope) (v : Word) (more : Option OpMore) (hi : i < 8) (hsize : size < 256)
    (hdest : dest < 128) (hcls : cls < 8) (hkind : kind < 256) :
    IssuedOnly c s (advance c (answerNow s i size dest cls kind a acq v more)) i size dest cls kind a ∧
      Replies s (advance c (answerNow s i size dest cls kind a acq v more)) i v := by
  have htook := took_openSlot s i size dest cls kind a { blankOp s i with acq := acq }
  obtain ⟨hrow, hslot, htag, hv⟩ := ownReply_taken (s := s) (size := size) (dest := dest) (cls := cls) (kind := kind) (a := a) hi
    { blankOp s i with acq := acq } v
  have honly := openSlot_onlyTaken s i size dest cls kind a { blankOp s i with acq := acq }
  unfold answerNow
  dsimp only
  generalize openSlot s i size dest cls kind a { blankOp s i with acq := acq } = u at *
  have htook' : Took s (send (setOpRec u { blankOp u i with acq := acq, reply := some (ownReply u i v), more := more })
      (.resultArrival (ownReply u i v))) i size dest cls kind a := htook.of_rows rfl rfl
  refine ⟨htook'.issuedOnly c ((congrArg State.mem honly).trans rfl) ((congrArg State.spads honly).trans rfl) hi hsize hdest hcls hkind, htook'.replies c ?_ hrow hslot htag hv rfl rfl⟩
  · exact List.mem_append_right _ (List.mem_singleton_self _)
theorem answerBad_issues (c : Ctl) (acq : Option Scope) (hi : i < 8) (hsize : size < 256) (hdest : dest < 128) (hcls : cls < 8)
    (hkind : kind < 256) :
    IssuedOnly c s (advance c (answerBad s i size dest cls kind a acq)) i size dest cls kind a ∧
      ∃ p, Msg.resultArrival p ∈ (advance c (answerBad s i size dest cls kind a acq)).agenda ∧ p.row = curRow s ∧ p.slot = i ∧
        p.tag = slotTag (advance c (answerBad s i size dest cls kind a acq)) (.bank s.cur) i ∧ p.poison = 3 := by
  have htook := took_openSlot s i size dest cls kind a { blankOp s i with acq := acq }
  obtain ⟨hrow, hslot, htag, -⟩ := ownReply_taken (s := s) (size := size) (dest := dest) (cls := cls) (kind := kind) (a := a) hi
    { blankOp s i with acq := acq } 0
  have honly := openSlot_onlyTaken s i size dest cls kind a { blankOp s i with acq := acq }
  unfold answerBad
  dsimp only
  generalize openSlot s i size dest cls kind a { blankOp s i with acq := acq } = u at *
  have htook' : Took s (send (setOpRec u { blankOp u i with acq := acq, reply := some { ownReply u i 0 with poison := 3 } })
      (.resultArrival { ownReply u i 0 with poison := 3 })) i size dest cls kind a := htook.of_rows rfl rfl
  refine ⟨htook'.issuedOnly c ((congrArg State.mem honly).trans rfl) ((congrArg State.spads honly).trans rfl) hi hsize hdest hcls hkind, { ownReply u i 0 with poison := 3 }, ?_, hrow, hslot,
    htag.trans (htook'.tagged c), rfl⟩
  · exact List.mem_append_right _ (List.mem_singleton_self _)
/-- A chain issued on a state whose rows are those of another is issued on that one. -/
theorem Issued.of_base {v t : State} {target : Word} (h : Issued target v t i size dest cls kind a) (hrows : v.rows = s.rows)
    (hcur : v.cur = s.cur) : Issued target s t i size dest cls kind a := by
  obtain ⟨hstate, hsz, hd, hc, hk, haddr, houts, hnext, hwords⟩ := h
  rw [hcur] at hstate hsz hd hc hk haddr houts hnext
  refine ⟨hstate, hsz, hd, hc, hk, haddr, houts, hnext, fun pr k hn => ?_⟩
  rw [hwords pr k (by rw [hcur]; exact hn), rowWord_of_rows hrows]
theorem Replies.of_base {v t : State} {x : Word} (h : Replies v t i x) (hrows : v.rows = s.rows) (hcur : v.cur = s.cur) :
    Replies s t i x := by
  obtain ⟨p, hp, hrow, hslot, htag, hrest⟩ := h
  have hid : curRow v = curRow s := curRow_of_words hcur (rowWord_of_rows hrows ..)
  rw [hcur] at htag
  exact ⟨p, hp, hrow.trans hid, hslot, htag, hrest⟩
theorem nextPc_of_rows (c : Ctl) (hrows : u.rows = s.rows) (hcur : u.cur = s.cur) : nextPc c u = nextPc c s :=
  nextPc_of_words c hcur (rowWord_of_rows hrows ..)

/-! ### Another row's image -/

/-- The access to another row's image, sent once the slot is taken. -/
def rowAccess (u : State) (i : Nat) (a : Word) (r : RowId) (off : Nat) (op : RowOp) : RowAccess :=
  ⟨r, off, op, priv u, curRow u, curExec u, i, slotTag u (.bank u.cur) i, a.toNat⟩
def sentToRow (u : State) (i : Nat) (acq : Option Scope) (x : RowAccess) : State :=
  send (setOpRec u { blankOp u i with acq := acq, access := some x }) (.outsideRowAccess x)
theorem toRow_eq (s : State) (i size dest cls kind : Nat) (a : Word) (acq : Option Scope) (r : RowId) (off : Nat) (op : RowOp) :
    toRow s i size dest cls kind a acq r off op = sentToRow (takeSlot s (.bank s.cur) i size dest cls kind a) i acq
      (rowAccess (takeSlot s (.bank s.cur) i size dest cls kind a) i a r off op) := rfl
theorem toRow_issues (c : Ctl) (acq : Option Scope) (r : RowId) (off : Nat) (op : RowOp) (hi : i < 8) (hsize : size < 256)
    (hdest : dest < 128) (hcls : cls < 8) (hkind : kind < 256) :
    IssuedOnly c s (advance c (toRow s i size dest cls kind a acq r off op)) i size dest cls kind a ∧
      AccessSent s (advance c (toRow s i size dest cls kind a acq r off op)) i r off op := by
  have htook := took_takeSlot s i size dest cls kind a
  have honly := takeSlot_frame s s.cur i size dest cls kind a
  have htagged : takenTag s i size dest cls kind a = slotTag (takeSlot s (.bank s.cur) i size dest cls kind a)
      (.bank (takeSlot s (.bank s.cur) i size dest cls kind a).cur) i := rfl
  rw [toRow_eq]
  generalize takeSlot s (.bank s.cur) i size dest cls kind a = u at *
  have htook' : Took s (sentToRow u i acq (rowAccess u i a r off op)) i size dest cls kind a := htook.of_rows rfl rfl
  have hmem : (sentToRow u i acq (rowAccess u i a r off op)).mem = s.mem := (congrArg State.mem honly).trans rfl
  have hspads : (sentToRow u i acq (rowAccess u i a r off op)).spads = s.spads := (congrArg State.spads honly).trans rfl
  refine ⟨htook'.issuedOnly c hmem hspads hi hsize hdest hcls hkind, rowAccess u i a r off op, ?_, ?_⟩
  · exact List.mem_append_right _ (List.mem_singleton_self _)
  · exact ⟨rfl, rfl, rfl, htook.priv hi, htook.curRow hi, rfl, htagged.symm.trans (htook'.tagged c)⟩

/-! ### A request for global memory -/

theorem beside_send (s : State) (m : Msg) : Beside s (send s m) := ⟨rfl, rfl, rfl, rfl⟩
theorem mem_send (s : State) (m : Msg) : (send s m).mem = s.mem := rfl
theorem sent_mem_agenda (s : State) (m : Msg) : m ∈ (send s m).agenda := List.mem_append_right _ (List.mem_singleton_self _)
theorem beside_addMiss (s : State) (r : Req) (st : Bool) (op : Option (Bool × Req)) :
    Beside s (addMiss s r st op) ∧ (addMiss s r st op).mem = s.mem := by
  rw [addMiss_frame]
  exact ⟨⟨rfl, rfl, rfl, rfl⟩, rfl⟩

/-- The request of the operation, under the slot's tag. -/
def taggedReq (s : State) (i size dest cls kind : Nat) (a : Word) (r : Req) : Req :=
  { r with tag := takenTag s i size dest cls kind a }
/-- The slot taken for a request that goes to the cluster cache or to the home. -/
def askOpened (s : State) (i size dest cls kind : Nat) (a : Word) (acq : Option Scope) (r : Req) : State :=
  openSlot s i size dest cls kind a
    { blankOp (takeSlot s (.bank s.cur) i size dest cls kind a) i with acq := acq, req := some r }
theorem took_askOpened (s : State) (i size dest cls kind : Nat) (a : Word) (acq : Option Scope) (r : Req) :
    Took s (askOpened s i size dest cls kind a acq r) i size dest cls kind a := took_openSlot ..
theorem askOpened_onlyTaken (s : State) (i size dest cls kind : Nat) (a : Word) (acq : Option Scope) (r : Req) :
    OnlyTaken s (askOpened s i size dest cls kind a acq r) := openSlot_onlyTaken ..
theorem Took.requestIs {r : Req} {op : HomeOp} {pa n : Nat} (h : Took s u i size dest cls kind a) (c : Ctl) (hop : r.op = op)
    (hpa : r.pa = pa) (hn : r.size = n) (hrow : r.row = Machine.curRow s) (hslot : r.slot = i) :
    RequestIs s (advance c u) i (taggedReq s i size dest cls kind a r) op pa n :=
  ⟨hop, hpa, hn, hrow, hslot, h.tagged c⟩

end

end Sys2Proof.Machine
end

section
/-!
PROOF. O26, LoadResults (tier 2): what ld takes, and where its value comes from (R179, R174, R176, R166, R169, R202, R153).
-/

namespace Sys2Proof.Machine

theorem ldSize_lt (ty : LdType) : ldSize ty < 256 := by cases ty <;> decide

/-! ### What is asked for a line that misses -/

theorem addMiss_requests {s : State} {r : Req} (st : Bool) (op : Option (Bool × Req)) (h : missOf s r.agent (lineOf r.pa) = none) :
    Msg.lineRead { r with op := .read .fill, pa := 128 * lineOf r.pa, size := 128, slot := 8 } ∈ (addMiss s r st op).agenda := by
  unfold addMiss
  dsimp only
  rw [h]
  exact List.mem_append_right _ (List.mem_singleton_self _)
theorem missFrom_requests {s : State} {r : Req} {st : Bool} {op : Option (Bool × Req)} {l : State × Option Nat}
    (hl : l.1 = { s with racks := l.1.racks, agenda := l.1.agenda }) (hf : l.2 = none) (h : missOf s r.agent (lineOf r.pa) = none) :
    Msg.lineRead { r with op := .read .fill, pa := 128 * lineOf r.pa, size := 128, slot := 8 } ∈ (missFrom r st op l).agenda := by
  obtain ⟨v, f⟩ := l
  cases hf
  refine addMiss_requests st op ?_
  dsimp only at hl
  rw [hl]
  exact h
theorem missFrom_fills {s : State} {r : Req} {st : Bool} {op : Option (Bool × Req)} {l : State × Option Nat} {fa : Nat}
    (hl : l.1 = { s with racks := l.1.racks, agenda := l.1.agenda }) (hf : l.2 = some fa) (hq : CohQuiet s r.part) :
    ∃ ws p k, Msg.lineFill r.agent (lineOf r.pa) ws p k ∈ (missFrom r st op l).agenda := by
  obtain ⟨v, f⟩ := l
  cases hf
  dsimp only at hl
  have hqv : CohQuiet (withMiss v ⟨r.agent, lineOf r.pa, false, false, op.toList, st, r.key, r.hint⟩) r.part := by
    rw [hl]
    exact hq
  have hsent : frameFill (checkRange (withMiss v ⟨r.agent, lineOf r.pa, false, false, op.toList, st, r.key, r.hint⟩) r.part
      (fa / 128 * 128) 128) r fa ∈ (missFrom r st op (v, some fa)).agenda := by
    show _ ∈ (fromFrame _ r (fa / 128 * 128) 128 fun s => frameFill s r fa).agenda
    rw [fromFrame_quiet hqv]
    exact List.mem_append_right _ (List.mem_singleton_self _)
  exact ⟨_, _, _, hsent⟩

/-! ### The ways of a load from global memory -/

section
variable {s : State} {rd : Reg} {a : Word} {pa n : Nat} {signed : Bool} {x : TlbEnt} {h : Hint} {acq : Option Scope} {i : Nat}

/-- The request of a load. -/
def loadReq (s : State) (i : Nat) (a : Word) (pa n : Nat) (signed : Bool) (x : TlbEnt) (h : Hint) : Req :=
  requestOf s (.read .fill) i a pa n signed x h []
def loadTagged (s : State) (rd : Reg) (i : Nat) (a : Word) (pa n : Nat) (signed : Bool) (x : TlbEnt) (h : Hint) : Req :=
  taggedReq s i n (destOf rd) 0 1 a (loadReq s i a pa n signed x h)
/-- The state in which its slot has been taken. -/
def loadOpened (s : State) (rd : Reg) (i : Nat) (a : Word) (pa n : Nat) (signed : Bool) (x : TlbEnt) (h : Hint) (acq : Option Scope) :
    State := askOpened s i n (destOf rd) 0 1 a acq (loadTagged s rd i a pa n signed x h)
/-- All bytes of a load are valid in the cluster cache (R166). -/
def loadHits (s : State) (x : TlbEnt) (r : Req) : Bool := leafClass x.leaf ≠ clsOpen && hits s r
/-- A load goes past the cluster cache (R149, R169). -/
def loadPasses (s : State) (x : TlbEnt) (h : Hint) (r : Req) (pa : Nat) : Bool :=
  leafClass x.leaf = clsOpen || (h == .noal && (cline s r.agent (lineOf pa)).v &&& bytesMask r == 0)
/-- A load past the cluster cache reads the die's replica, or asks the home (R153, R169). -/
def passFrom (r : Req) (n : Nat) : State × Option Nat → State
  | (s, some fa) => fromFrame s r (fa + r.pa % 128) n fun s => frameWord s r (fa + r.pa % 128)
  | (s, none) => send s (.lineRead { r with op := .read .word })
/-- The replica that a load past the cluster cache looks up (R153). -/
def passLook (s : State) (die q pa cls : Nat) : State × Option Nat :=
  if cls = clsSealed then rackLook s die q pa else (s, none)
/-- Where the value of a load comes from. -/
def loadServed (u : State) (r : Req) (x : TlbEnt) (n : Nat) (hit pass : Bool) : State :=
  if hit then send (useLine u r.agent (lineOf r.pa)) (replyTo r (lineValue (cline u r.agent (lineOf r.pa)) r) 0)
  else if pass then passFrom r n (passLook u (dieOf r.exec) r.part r.pa (leafClass x.leaf))
  else missFrom r (leafClass x.leaf = clsReadOnly || leafClass x.leaf = clsSealed) (some (false, r))
    (replicaLook u (dieOf r.exec) r.agent r.part r.pa (leafClass x.leaf))

theorem loadMemory_eq (hi : freeSlot s (.bank s.cur) = some i) :
    let r := loadReq s i a pa n signed x h
    let hit := loadHits s x r
    let pass := loadPasses s x h r pa
    loadMemory s rd a pa n signed x h acq = if !hit && !pass && !missRoom s r.agent (lineOf pa) then setWait s .lines
      else loadServed (loadOpened s rd i a pa n signed x h acq) (loadTagged s rd i a pa n signed x h) x n hit pass := by
  dsimp only
  unfold loadMemory
  rw [withSlot_free hi]
  show (if !loadHits s x (loadReq s i a pa n signed x h) && !loadPasses s x h (loadReq s i a pa n signed x h) pa &&
    !missRoom s (loadReq s i a pa n signed x h).agent (lineOf pa) then _ else _) = _
  congr 1

end

/-! ### A load that is served -/

theorem passLook_frame (s : State) (die q pa cls : Nat) : (passLook s die q pa cls).1 =
    { s with racks := (passLook s die q pa cls).1.racks, agenda := (passLook s die q pa cls).1.agenda } := by
  unfold passLook
  split
  · exact rackLook_frame ..
  · rfl
theorem passLook_snd (s : State) (die q pa cls : Nat) :
    (passLook s die q pa cls).2 = if cls = clsSealed then (rackLook s die q pa).2 else none := by
  unfold passLook
  split <;> rfl
theorem OnlyLines.beside {s t : State} (h : OnlyLines s t) : Beside s t :=
  ⟨h.rows, (congrArg State.cur h).trans rfl, (congrArg State.time h).trans rfl, (congrArg State.spads h).trans rfl⟩

section
variable {s : State} {r : Req} {n : Nat} {l : State × Option Nat} (hl : l.1 = { s with racks := l.1.racks, agenda := l.1.agenda })
include hl

theorem passFrom_home (hf : l.2 = none) : Beside s (passFrom r n l) ∧ (passFrom r n l).mem = s.mem ∧
    Msg.lineRead { r with op := .read .word } ∈ (passFrom r n l).agenda := by
  obtain ⟨v, f⟩ := l
  cases hf
  dsimp only at hl
  have hsent : Msg.lineRead { r with op := .read .word } ∈ (send v (.lineRead { r with op := .read .word })).agenda :=
    List.mem_append_right _ (List.mem_singleton_self _)
  refine ⟨?_, ?_, hsent⟩
  · show Beside s (send v _)
    rw [hl]
    exact ⟨rfl, rfl, rfl, rfl⟩
  · exact (congrArg State.mem hl).trans rfl
theorem passFrom_frame {f : Nat} (hf : l.2 = some f) (hq : CohQuiet s r.part) :
    Beside s (passFrom r n l) ∧ (passFrom r n l).mem = (checkRange s r.part (f + r.pa % 128) n).mem ∧
      frameWord (checkRange s r.part (f + r.pa % 128) n) r (f + r.pa % 128) ∈ (passFrom r n l).agenda := by
  obtain ⟨v, _⟩ := l
  cases hf
  dsimp only at hl
  have harray : SameArray s v := by
    rw [hl]
    exact ⟨rfl, rfl, rfl, rfl, rfl, rfl⟩
  have hqv : CohQuiet v r.part := by
    unfold CohQuiet
    rw [harray.part]
    exact hq
  have hchecked := harray.checkRange r.part (f + r.pa % 128) n
  have hword : frameWord (checkRange v r.part (f + r.pa % 128) n) r (f + r.pa % 128) =
      frameWord (checkRange s r.part (f + r.pa % 128) n) r (f + r.pa % 128) := by
    unfold frameWord
    rw [hchecked.homeBytes, hchecked.delivery]
  have he : passFrom r n (v, some f) = send (checkRange v r.part (f + r.pa % 128) n)
      (frameWord (checkRange s r.part (f + r.pa % 128) n) r (f + r.pa % 128)) := by
    rw [← hword]
    exact fromFrame_quiet (answer := fun s => frameWord s r (f + r.pa % 128)) hqv
  rw [he]
  refine ⟨?_, hchecked.mem, List.mem_append_right _ (List.mem_singleton_self _)⟩
  have hcheck := (checkRange_onlyArray v r.part (f + r.pa % 128) n).1
  generalize checkRange v r.part (f + r.pa % 128) n = z at hcheck
  rw [hcheck, hl]
  exact ⟨rfl, rfl, rfl, rfl⟩

end

/-! ### A load at its place -/

section
variable {c : Ctl} {rd ra : Reg} {ty : LdType} {off : Int} {m : MemMod} {s : State} {x : TlbEnt}

theorem exec_ld_at {p : Place} (hg : guardPasses c s = true) (hm : MemReady s) (hw : rd.win ≠ 3)
    (ha : (memAddr s ra (ldSize ty) off).toNat % ldSize ty = 0)
    (hsite : siteOf s ⟨true, false, 2, ldSize ty == 8⟩ (memAddr s ra (ldSize ty) off) = .at_ p x) :
    exec (.ld c rd ra ty off m) s = .next (loadAt c rd (memAddr s ra (ldSize ty) off) (ldSize ty) (ldSigned ty) m.hint (acquireOf m) s p x) := by
  show execLd c rd ra ty off m s = _
  rw [execLd, memChain_ready hg hm]
  exact congrArg _ ((if_neg hw).trans (withSite_at ha hsite))

end

section
variable {c : Ctl} {rd : Reg} {a : Word} {pa n o i : Nat} {signed : Bool} {h : Hint} {acq : Option Scope} {s : State} {x : TlbEnt}

/-- A load of the row's own image is complete within the instruction (R176). -/
theorem loadAt_own (hw : rd.win ≠ 3) (hready : WordReady s (o / 8)) :
    ResultIs c rd s (loadAt c rd a n signed h acq s (.row (curRow s) o) x) (extend signed n (imageBytes s (.bank s.cur) o n)) ∧
      SameBytes s (loadAt c rd a n signed h acq s (.row (curRow s) o) x) := by
  have hbase : ∃ u : State, (u.rows = s.rows ∧ u.cur = s.cur ∧ u.mem = s.mem ∧ u.spads = s.spads) ∧
      loadAt c rd a n signed h acq s (.row (curRow s) o) x =
        advance c (acquireNow (writeReg u rd (extend signed n (imageBytes s (.bank s.cur) o n))) acq) := by
    refine ⟨if overlap o n 96 8 then observeCopies s (curRow s) else s, ?_, (if_pos rfl).trans (afterOwn_ready hready)⟩
    split <;> exact ⟨rfl, rfl, rfl, rfl⟩
  obtain ⟨u, ⟨hrows, hcur, hmem, hspads⟩, he⟩ := hbase
  rw [he]
  exact ⟨advance_result c _ _ hw hrows hcur, advance_result_sameBytes c rd _ _ hmem hspads⟩
theorem loadAt_otherRow {r : RowId} (hr : r ≠ curRow s) (hi : freeSlot s (.bank s.cur) = some i) :
    loadAt c rd a n signed h acq s (.row r o) x = advance c (toRow s i n (destOf rd) 0 1 a acq r o (.load n signed)) :=
  (if_neg hr).trans (withSlot_free hi)
theorem loadAt_spad {cl : Nat} (hr : routerRefuses s cl = false) (hi : freeSlot s (.bank s.cur) = some i) :
    loadAt c rd a n signed h acq s (.spad cl o) x = if spadError s then fault s (faultOf cCheck 2 2) a
      else advance c (answerNow (spadRead s cl) i n (destOf rd) 0 1 a acq (extend signed n (leNat (spadBytes s cl o n)))
        (some (.place (.spad cl o) n signed))) :=
  (if_neg (ne_true_of_eq_false hr)).trans (withSlot_free hi)

theorem loadAt_reg (hr : rereading s = none) (hi : freeSlot s (.bank s.cur) = some i) :
    loadAt c rd a n signed h acq s (.reg pa) x = advance c (answerNow (regRead s pa).1 i n (destOf rd) 0 1 a acq (regRead s pa).2
      (some (.place (.reg pa) n signed))) := by
  unfold loadAt
  dsimp only
  rw [afterReread_free hr, withSlot_free hi]
theorem loadAt_afterReread {j : Nat} (hr : rereading s = some j) :
    loadAt c rd a n signed h acq s (.reg pa) x = setWait s (.reply j) := by
  unfold loadAt afterReread
  dsimp only
  rw [hr]
theorem loadAt_afterEarlier {j : Nat} (hl : LeaseReady s pa) (he : earlierAccess s pa n = some j) :
    loadAt c rd a n signed h acq s (.mem pa) x = setWait s (.reply j) := by
  unfold loadAt
  dsimp only
  rw [underLease_ready hl, afterEarlier_waits he]
theorem loadAt_mem (hl : LeaseReady s pa) (he : earlierAccess s pa n = none) : loadAt c rd a n signed h acq s (.mem pa) x =
    if (loadMemory s rd a pa n signed x h acq).time = s.time then loadMemory s rd a pa n signed x h acq
      else advance c (loadMemory s rd a pa n signed x h acq) := by
  unfold loadAt
  dsimp only
  rw [underLease_ready hl, afterEarlier_free he]
theorem loadAt_full (hl : LeaseReady s pa) (he : earlierAccess s pa n = none) (hi : freeSlot s (.bank s.cur) = none) :
    loadAt c rd a n signed h acq s (.mem pa) x = setWait s .slotFull := by
  have hfull : loadMemory s rd a pa n signed x h acq = setWait s .slotFull := withSlot_full hi
  rw [loadAt_mem hl he, hfull, if_pos (setWait_time ..)]
/-- What a load leaves before its chain ends. -/
def servedLoad (s : State) (rd : Reg) (i : Nat) (a : Word) (pa n : Nat) (signed : Bool) (x : TlbEnt) (h : Hint) (acq : Option Scope) :
    State :=
  loadServed (loadOpened s rd i a pa n signed x h acq) (loadTagged s rd i a pa n signed x h) x n
    (loadHits s x (loadReq s i a pa n signed x h)) (loadPasses s x h (loadReq s i a pa n signed x h) pa)
/-- What holds of a load that has taken its slot, beside its value: the bytes of memory are those of another state. -/
def LoadIssued (c : Ctl) (rd : Reg) (i n : Nat) (a : Word) (s v t : State) : Prop :=
  Issued (nextPc c s) s t i n (destOf rd) 0 1 a ∧ t.mem = v.mem ∧ SamePads s t

section
variable (hl : LeaseReady s pa) (he : earlierAccess s pa n = none) (hi : freeSlot s (.bank s.cur) = some i)
  (hgo : loadHits s x (loadReq s i a pa n signed x h) = true ∨ loadPasses s x h (loadReq s i a pa n signed x h) pa = true ∨
    missRoom s (agentOf (curExec s)) (lineOf pa) = true)
include hl he hi hgo

/-- A load that takes its slot ends its chain once it is served. -/
theorem loadAt_served (hb : (servedLoad s rd i a pa n signed x h acq).time = (loadOpened s rd i a pa n signed x h acq).time) :
    loadAt c rd a n signed h acq s (.mem pa) x = advance c (servedLoad s rd i a pa n signed x h acq) := by
  have hserved : loadMemory s rd a pa n signed x h acq = servedLoad s rd i a pa n signed x h acq := by
    refine (loadMemory_eq hi).trans (if_neg ?_)
    simp only [Bool.and_eq_true, Bool.not_eq_true', not_and, Bool.not_eq_false]
    intro hh
    rcases hgo with hgo | hgo | hgo
    · exact absurd hgo (ne_true_of_eq_false hh.1)
    · exact absurd hgo (ne_true_of_eq_false hh.2)
    · exact hgo
  have htime : (loadOpened s rd i a pa n signed x h acq).time = s.time + 1 :=
    (congrArg State.time (askOpened_onlyTaken ..)).trans rfl
  rw [loadAt_mem hl he, hserved, if_neg (by rw [hb, htime]; omega)]
/-- So served, it has issued its load under the slot. -/
theorem loadAt_issued {v : State} (hn : n < 256) (hb : Beside (loadOpened s rd i a pa n signed x h acq) (servedLoad s rd i a pa n signed x h acq))
    (hmem : (servedLoad s rd i a pa n signed x h acq).mem = v.mem) :
    LoadIssued c rd i n a s v (loadAt c rd a n signed h acq s (.mem pa) x) := by
  rw [loadAt_served hl he hi hgo hb.time]
  have htook : Took s (servedLoad s rd i a pa n signed x h acq) i n (destOf rd) 0 1 a :=
    (took_askOpened s i n (destOf rd) 0 1 a acq (loadTagged s rd i a pa n signed x h)).of_rows hb.rows hb.cur
  have hspads : (servedLoad s rd i a pa n signed x h acq).spads = s.spads :=
    hb.spads.trans ((congrArg State.spads (askOpened_onlyTaken ..)).trans rfl)
  have hpads : SamePads s (servedLoad s rd i a pa n signed x h acq) := samePads_of_same hspads
  generalize servedLoad s rd i a pa n signed x h acq = u at *
  exact ⟨htook.issued (freeSlot_lt hi) hn (destOf_lt rd) (by decide) (by decide) c, hmem, hpads⟩
end

/-! ### What is served -/

section
variable {i : Nat}

theorem took_loadServed {u : State} (hb : Beside (loadOpened s rd i a pa n signed x h acq) u) : Took s u i n (destOf rd) 0 1 a :=
  (took_askOpened s i n (destOf rd) 0 1 a acq (loadTagged s rd i a pa n signed x h)).of_rows hb.rows hb.cur

/-- All bytes are valid in the cluster cache: it answers (R166). -/
theorem servedLoad_hit (hh : loadHits s x (loadReq s i a pa n signed x h) = true) :
    Beside (loadOpened s rd i a pa n signed x h acq) (servedLoad s rd i a pa n signed x h acq) ∧
      (servedLoad s rd i a pa n signed x h acq).mem = s.mem ∧
      replyTo (loadTagged s rd i a pa n signed x h) (lineValue (cline s (agentOf (curExec s)) (lineOf pa)) (loadReq s i a pa n signed x h)) 0 ∈
        (servedLoad s rd i a pa n signed x h acq).agenda := by
  have honly : OnlyTaken s (loadOpened s rd i a pa n signed x h acq) := askOpened_onlyTaken ..
  unfold servedLoad loadServed
  rw [if_pos hh]
  generalize loadOpened s rd i a pa n signed x h acq = u at *
  have huse := useLine_onlyLines u (agentOf (curExec s)) (lineOf pa)
  have hb := huse.beside
  refine ⟨⟨hb.rows, hb.cur, hb.time, hb.spads⟩, huse.mem.trans honly.mem, List.mem_append_right _ (List.mem_singleton.2 ?_)⟩
  rw [← honly.cline]
  rfl

section
variable (hh : loadHits s x (loadReq s i a pa n signed x h) = false) (hp : loadPasses s x h (loadReq s i a pa n signed x h) pa = true)
include hh hp

theorem servedLoad_pass : servedLoad s rd i a pa n signed x h acq = passFrom (loadTagged s rd i a pa n signed x h) n
    (passLook (loadOpened s rd i a pa n signed x h acq) (dieOf (curExec s)) (loadReq s i a pa n signed x h).part pa (leafClass x.leaf)) :=
  (if_neg (ne_true_of_eq_false hh)).trans (if_pos hp)
/-- Past the cluster cache, without a replica: the home is asked (R169). -/
theorem servedLoad_passHome
    (hf : (if leafClass x.leaf = clsSealed then (rackLook s (dieOf (curExec s)) (loadReq s i a pa n signed x h).part pa).2 else none) = none) :
    Beside (loadOpened s rd i a pa n signed x h acq) (servedLoad s rd i a pa n signed x h acq) ∧
      (servedLoad s rd i a pa n signed x h acq).mem = s.mem ∧
      Msg.lineRead { loadTagged s rd i a pa n signed x h with op := .read .word } ∈ (servedLoad s rd i a pa n signed x h acq).agenda := by
  have honly : OnlyTaken s (loadOpened s rd i a pa n signed x h acq) := askOpened_onlyTaken ..
  obtain ⟨hb, hmem, hsent⟩ := passFrom_home (r := loadTagged s rd i a pa n signed x h) (n := n) (passLook_frame
      (loadOpened s rd i a pa n signed x h acq) (dieOf (curExec s)) (loadReq s i a pa n signed x h).part pa (leafClass x.leaf))
    (by rw [passLook_snd, honly.rackLook]; exact hf)
  rw [servedLoad_pass hh hp]
  exact ⟨hb, hmem.trans honly.mem, hsent⟩
/-- Past the cluster cache, with the die's replica (R153). -/
theorem servedLoad_passFrame {f : Nat}
    (hf : (if leafClass x.leaf = clsSealed then (rackLook s (dieOf (curExec s)) (loadReq s i a pa n signed x h).part pa).2 else none) = some f)
    (hq : CohQuiet s (loadReq s i a pa n signed x h).part) :
    let v := checkRange s (loadReq s i a pa n signed x h).part (f + pa % 128) n
    Beside (loadOpened s rd i a pa n signed x h acq) (servedLoad s rd i a pa n signed x h acq) ∧
      (servedLoad s rd i a pa n signed x h acq).mem = v.mem ∧
      frameWord v (loadTagged s rd i a pa n signed x h) (f + pa % 128) ∈ (servedLoad s rd i a pa n signed x h acq).agenda := by
  have honly : OnlyTaken s (loadOpened s rd i a pa n signed x h acq) := askOpened_onlyTaken ..
  obtain ⟨hb, hmem, hsent⟩ := passFrom_frame (r := loadTagged s rd i a pa n signed x h) (n := n) (passLook_frame
      (loadOpened s rd i a pa n signed x h acq) (dieOf (curExec s)) (loadReq s i a pa n signed x h).part pa (leafClass x.leaf))
    (by rw [passLook_snd, honly.rackLook]; exact hf) (honly.quiet hq)
  have hchecked := honly.sameArray.checkRange (loadReq s i a pa n signed x h).part (f + pa % 128) n
  rw [servedLoad_pass hh hp]
  refine ⟨hb, hmem.trans hchecked.mem, ?_⟩
  unfold frameWord at hsent ⊢
  rw [← hchecked.homeBytes, ← hchecked.delivery]
  exact hsent

end

section
variable (hh : loadHits s x (loadReq s i a pa n signed x h) = false) (hp : loadPasses s x h (loadReq s i a pa n signed x h) pa = false)
include hh hp

theorem servedLoad_miss : ∃ st, servedLoad s rd i a pa n signed x h acq =
    missFrom (loadTagged s rd i a pa n signed x h) st (some (false, loadTagged s rd i a pa n signed x h))
      (replicaLook (loadOpened s rd i a pa n signed x h acq) (dieOf (curExec s)) (agentOf (curExec s))
        (loadReq s i a pa n signed x h).part pa (leafClass x.leaf)) :=
  ⟨_, (if_neg (ne_true_of_eq_false hh)).trans (if_neg (ne_true_of_eq_false hp))⟩
/-- A miss joins the line request that is out, or asks the home for the line (R166). -/
theorem servedLoad_missHome
    (hf : missOf s (agentOf (curExec s)) (lineOf pa) ≠ none ∨
      (if leafClass x.leaf = clsSealed then (rackLook s (dieOf (curExec s)) (loadReq s i a pa n signed x h).part pa).2 else none) = none) :
    LineAsked (loadOpened s rd i a pa n signed x h acq) (servedLoad s rd i a pa n signed x h acq) (agentOf (curExec s)) (lineOf pa)
        [(false, loadTagged s rd i a pa n signed x h)] ∧
      (servedLoad s rd i a pa n signed x h acq).mem = s.mem ∧
      (missOf s (agentOf (curExec s)) (lineOf pa) = none →
        Msg.lineRead { loadTagged s rd i a pa n signed x h with op := .read .fill, pa := 128 * lineOf pa, size := 128, slot := 8 } ∈
          (servedLoad s rd i a pa n signed x h acq).agenda) := by
  have honly : OnlyTaken s (loadOpened s rd i a pa n signed x h acq) := askOpened_onlyTaken ..
  obtain ⟨st, he⟩ := servedLoad_miss (s := s) (rd := rd) (acq := acq) hh hp
  have hframe := replicaLook_frame (loadOpened s rd i a pa n signed x h acq) (dieOf (curExec s)) (agentOf (curExec s))
    (loadReq s i a pa n signed x h).part pa (leafClass x.leaf)
  have hnone : (replicaLook (loadOpened s rd i a pa n signed x h acq) (dieOf (curExec s)) (agentOf (curExec s))
      (loadReq s i a pa n signed x h).part pa (leafClass x.leaf)).2 = none := by
    rw [replicaLook_snd, honly.missOf, honly.rackLook, ite_and]
    rcases hf with hf | hf
    · rw [if_neg hf, ite_self]
    · split at hf
      · rw [if_pos ‹_›, hf, ite_self]
      · rw [if_neg ‹_›]
  obtain ⟨hasked, hmem⟩ := missFrom_home (r := loadTagged s rd i a pa n signed x h) (st := st)
    (op := some (false, loadTagged s rd i a pa n signed x h)) hframe hnone
  rw [he]
  exact ⟨hasked, hmem.trans honly.mem, fun hnew => missFrom_requests hframe hnone ((honly.missOf ..).trans hnew)⟩
/-- A miss that the die's replica serves fills the line from it (R153). -/
theorem servedLoad_missFrame {f : Nat} (hnew : missOf s (agentOf (curExec s)) (lineOf pa) = none)
    (hf : (if leafClass x.leaf = clsSealed then (rackLook s (dieOf (curExec s)) (loadReq s i a pa n signed x h).part pa).2 else none) = some f)
    (hq : CohQuiet s (loadReq s i a pa n signed x h).part) :
    LineAsked (loadOpened s rd i a pa n signed x h acq) (servedLoad s rd i a pa n signed x h acq) (agentOf (curExec s)) (lineOf pa)
        [(false, loadTagged s rd i a pa n signed x h)] ∧
      (servedLoad s rd i a pa n signed x h acq).mem = (checkRange s (loadReq s i a pa n signed x h).part (f / 128 * 128) 128).mem ∧
      ∃ ws p k, Msg.lineFill (agentOf (curExec s)) (lineOf pa) ws p k ∈ (servedLoad s rd i a pa n signed x h acq).agenda := by
  have honly : OnlyTaken s (loadOpened s rd i a pa n signed x h acq) := askOpened_onlyTaken ..
  obtain ⟨st, he⟩ := servedLoad_miss (s := s) (rd := rd) (acq := acq) hh hp
  have hframe := replicaLook_frame (loadOpened s rd i a pa n signed x h acq) (dieOf (curExec s)) (agentOf (curExec s))
    (loadReq s i a pa n signed x h).part pa (leafClass x.leaf)
  have hsome : (replicaLook (loadOpened s rd i a pa n signed x h acq) (dieOf (curExec s)) (agentOf (curExec s))
      (loadReq s i a pa n signed x h).part pa (leafClass x.leaf)).2 = some f := by
    rw [replicaLook_snd, honly.missOf, honly.rackLook, ite_and, if_pos hnew]
    exact hf
  obtain ⟨hasked, hmem⟩ := missFrom_frame (r := loadTagged s rd i a pa n signed x h) (st := st)
    (op := some (false, loadTagged s rd i a pa n signed x h)) hframe hsome (honly.quiet hq)
  have hfill := missFrom_fills (r := loadTagged s rd i a pa n signed x h) (st := st)
    (op := some (false, loadTagged s rd i a pa n signed x h)) hframe hsome (honly.quiet hq)
  rw [he]
  exact ⟨hasked, hmem.trans (honly.sameArray.checkRange ..).mem, hfill⟩

end

/-- The load of a line request that has been entered or joined is that of the slot. -/
theorem loadAsked (c : Ctl) {u : State} (ha : LineAsked (loadOpened s rd i a pa n signed x h acq) u (agentOf (curExec s)) (lineOf pa)
    [(false, loadTagged s rd i a pa n signed x h)]) :
    ∃ y q, y ∈ (advance c u).misses ∧ y.agent = agentOf (curExec s) ∧ y.line = lineOf pa ∧ y.cleared = false ∧ (false, q) ∈ y.ops ∧
      RequestIs s (advance c u) i q (.read .fill) pa n := by
  obtain ⟨y, hy, hagent, hline, hcleared, hops⟩ := ha.asked
  exact ⟨y, _, hy, hagent, hline, hcleared, hops _ (List.mem_singleton_self _),
    (took_loadServed ha.toBeside).requestIs c (r := loadReq s i a pa n signed x h) rfl rfl rfl rfl rfl⟩

end

end

/-! ### The whole -/

/-- A load of global memory that has a slot: the cluster cache, the replica of the die, the home, or a line request. -/
theorem loadAt_global {c : Ctl} {rd : Reg} {a : Word} {pa n i : Nat} {signed : Bool} {h : Hint} {acq : Option Scope} {s : State} {x : TlbEnt}
    (hn : n < 256) (hi : freeSlot s (.bank s.cur) = some i) (hl : LeaseReady s pa) (he : earlierAccess s pa n = none) :
    let t := loadAt c rd a n signed h acq s (.mem pa) x
    let r := loadReq s i a pa n signed x h
    let frame := if leafClass x.leaf = clsSealed then (rackLook s (dieOf r.exec) r.part pa).2 else none
    (loadHits s x r = true → LoadIssued c rd i n a s s t ∧ Replies s t i (lineValue (cline s r.agent (lineOf pa)) r)) ∧
    (loadHits s x r = false → loadPasses s x h r pa = true →
      (frame = none → LoadIssued c rd i n a s s t ∧ ∃ q, Msg.lineRead q ∈ t.agenda ∧ RequestIs s t i q (.read .word) pa n) ∧
      ∀ f, frame = some f → CohQuiet s r.part → let u := checkRange s r.part (f + pa % 128) n
        LoadIssued c rd i n a s u t ∧ (delivery u (f + pa % 128) r.key = 0 →
          Replies s t i (extend signed n (leNat (homeBytes u (f + pa % 128) n))))) ∧
    (loadHits s x r = false → loadPasses s x h r pa = false → missRoom s r.agent (lineOf pa) = true →
      let asked := ∃ y q, y ∈ t.misses ∧ y.agent = r.agent ∧ y.line = lineOf pa ∧ y.cleared = false ∧ (false, q) ∈ y.ops ∧
        RequestIs s t i q (.read .fill) pa n
      let new := missOf s r.agent (lineOf pa) = none
      (¬ new ∨ frame = none → LoadIssued c rd i n a s s t ∧ asked ∧ (new → ∃ q, Msg.lineRead q ∈ t.agenda ∧ q.op = .read .fill ∧
        q.pa = 128 * lineOf pa ∧ q.size = 128 ∧ q.agent = r.agent)) ∧
      ∀ f, new → frame = some f → CohQuiet s r.part → LoadIssued c rd i n a s (checkRange s r.part (f / 128 * 128) 128) t ∧ asked ∧
        ∃ ws p k, Msg.lineFill r.agent (lineOf pa) ws p k ∈ t.agenda) := by
  have hlt := freeSlot_lt hi
  refine ⟨fun hh => ?hit, fun hh hp => ⟨fun hf => ?passHome, fun f hf hq => ?passFrame⟩,
    fun hh hp hroom => ⟨fun hf => ?missHome, fun f hnew hf hq => ?missFrame⟩⟩
  case hit =>
    obtain ⟨hb, hmem, hsent⟩ := servedLoad_hit (rd := rd) (acq := acq) hh
    refine ⟨loadAt_issued hl he hi (.inl hh) hn hb hmem, ?_⟩
    rw [loadAt_served hl he hi (.inl hh) hb.time]
    exact (took_loadServed hb).replies c hsent rfl rfl rfl rfl rfl rfl
  case passHome =>
    obtain ⟨hb, hmem, hsent⟩ := servedLoad_passHome (rd := rd) (acq := acq) hh hp hf
    refine ⟨loadAt_issued hl he hi (.inr (.inl hp)) hn hb hmem, ?_⟩
    rw [loadAt_served hl he hi (.inr (.inl hp)) hb.time]
    exact ⟨_, hsent, (took_loadServed hb).requestIs c (r := { loadReq s i a pa n signed x h with op := .read .word }) rfl rfl rfl rfl rfl⟩
  case passFrame =>
    obtain ⟨hb, hmem, hsent⟩ := servedLoad_passFrame (rd := rd) (acq := acq) hh hp hf hq
    refine ⟨loadAt_issued hl he hi (.inr (.inl hp)) hn hb hmem, fun hd => ?_⟩
    rw [loadAt_served hl he hi (.inr (.inl hp)) hb.time]
    exact (took_loadServed hb).replies c hsent rfl rfl rfl rfl hd rfl
  case missHome =>
    obtain ⟨ha, hmem, hsent⟩ := servedLoad_missHome (rd := rd) (acq := acq) hh hp hf
    refine ⟨loadAt_issued hl he hi (.inr (.inr hroom)) hn ha.toBeside hmem, ?_⟩
    rw [loadAt_served hl he hi (.inr (.inr hroom)) ha.time]
    exact ⟨loadAsked c ha, fun hnew => ⟨_, hsent hnew, rfl, rfl, rfl, rfl⟩⟩
  case missFrame =>
    obtain ⟨ha, hmem, hsent⟩ := servedLoad_missFrame (rd := rd) (acq := acq) hh hp hnew hf hq
    refine ⟨loadAt_issued hl he hi (.inr (.inr hroom)) hn ha.toBeside hmem, ?_⟩
    rw [loadAt_served hl he hi (.inr (.inr hroom)) ha.time]
    exact ⟨loadAsked c ha, hsent⟩

theorem sameBytes_of {s t : State} (hmem : t.mem = s.mem) (hpads : SamePads s t) : SameBytes s t :=
  ⟨fun a => by rw [hmem], hpads⟩
theorem loadHits_of {s : State} {x : TlbEnt} {r : Req} (ho : leafClass x.leaf ≠ clsOpen) (hh : hits s r = true) : loadHits s x r = true := by
  unfold loadHits
  rw [hh, decide_eq_true ho]
  rfl
theorem loadHits_not_of {s : State} {x : TlbEnt} {r : Req} (h : leafClass x.leaf = clsOpen ∨ hits s r = false) :
    loadHits s x r = false := by
  unfold loadHits
  rw [Bool.and_eq_false_iff, decide_eq_false_iff_not, not_not]
  exact h
theorem loadPasses_iff (s : State) (x : TlbEnt) (h : Hint) (r : Req) (pa : Nat) : loadPasses s x h r pa = true ↔
    leafClass x.leaf = clsOpen ∨ (h = .noal ∧ (cline s r.agent (lineOf pa)).v &&& bytesMask r = 0) := by
  unfold loadPasses
  rw [Bool.or_eq_true, decide_eq_true_eq, Bool.and_eq_true, beq_iff_eq, beq_iff_eq]

/-- Settles O26: a load on each place that R160 names, and for global memory each way of R166, R169 and R153. -/
theorem loadResults : Obligations.LoadResults := by
  intro c rd ra ty off m s x hg hm hw n a v site ld ha
  have hn : n < 256 := ldSize_lt ty
  have hx {p : Place} (hsite : site = .at_ p x) := exec_ld_at (off := off) (m := m) hg hm hw ha hsite
  refine ⟨fun o hsite hready => ⟨_, hx hsite, loadAt_own hw hready⟩,
    fun k pa hsite hl he hi hk => runs_of_eq (hx hsite) (loadAt_full hl he hi) (setWait_waitsAt _ hk),
    fun k j hk => ⟨fun pa hsite hl he => runs_of_eq (hx hsite) (loadAt_afterEarlier hl he) (setWait_waitsAt _ hk),
      fun pa hsite hr => runs_of_eq (hx hsite) (loadAt_afterReread hr) (setWait_waitsAt _ hk)⟩,
    fun i hi => ⟨fun r o hsite hr => ?row, fun cl o hsite hr => ?spad, fun pa hsite hr => ?reg, fun pa hsite hl he => ?mem⟩⟩
  case row =>
    obtain ⟨⟨hissued, hsame⟩, hsent⟩ := toRow_issues (s := s) (i := i) (a := a) c (acquireOf m) r o (.load n (ldSigned ty))
      (freeSlot_lt hi) hn (destOf_lt rd) (by decide : 0 < 8) (by decide : 1 < 256)
    exact runs_of_eq (hx hsite) (loadAt_otherRow hr hi) ⟨hissued, hsame, hsent⟩
  case spad =>
    refine runs_of_eq (hx hsite) (loadAt_spad hr hi) ⟨fun hok => ?_, fun hbad => ?_⟩
    · rw [if_neg (ne_true_of_eq_false hok)]
      obtain ⟨⟨hissued, hmem, hpads⟩, hreply⟩ := answerNow_issues (s := spadRead s cl) (i := i) (a := a) c (acquireOf m)
        (v (leNat (spadBytes s cl o n))) (some (.place (.spad cl o) n (ldSigned ty))) (freeSlot_lt hi) hn (destOf_lt rd)
        (by decide : 0 < 8) (by decide : 1 < 256)
      have hrows := spadRead_rows s cl
      have hcur := spadRead_cur s cl
      rw [nextPc_of_rows c hrows hcur] at hissued
      rw [SameMemory, spadRead_mem] at hmem
      exact ⟨hissued.of_base hrows hcur, ⟨hmem, fun k b => (hpads k b).trans (samePads_of_same (spadRead_spads s cl) k b)⟩,
        hreply.of_base hrows hcur⟩
    · rw [if_pos hbad]
      exact fault_is ..
  case reg =>
    obtain ⟨⟨hissued, hsame⟩, hreply⟩ := answerNow_issues (s := (regRead s pa).1) (i := i) (a := a) c (acquireOf m) (regRead s pa).2
      (some (.place (.reg pa) n (ldSigned ty))) (freeSlot_lt hi) hn (destOf_lt rd) (by decide : 0 < 8) (by decide : 1 < 256)
    exact runs_of_eq (hx hsite) (loadAt_reg hr hi) ⟨hissued, hsame, hreply⟩
  case mem =>
    obtain ⟨hhit, hpass, hmiss⟩ := loadAt_global (c := c) (rd := rd) (a := a) (signed := ldSigned ty) (h := m.hint) (acq := acquireOf m)
      (x := x) hn hi hl he
    refine ⟨fun hopen hh => ?hit, fun hp hf => ?home, fun f hh hb hv hf hq => ?frame, fun hopen hnone hh hroom => ?miss⟩
    case hit =>
      obtain ⟨⟨hissued, hmem, hpads⟩, hreply⟩ := hhit (loadHits_of hopen hh)
      exact ⟨_, hx hsite, hissued, sameBytes_of hmem hpads, hreply⟩
    case home =>
      have hnohit := hp.imp id fun h => h.2.1
      have hgo := (loadPasses_iff ..).2 (hp.imp id fun h => ⟨h.1, h.2.2⟩)
      obtain ⟨⟨hissued, hmem, hpads⟩, hsent⟩ := (hpass (loadHits_not_of hnohit) hgo).1 hf
      exact ⟨_, hx hsite, hissued, sameBytes_of hmem hpads, hsent⟩
    case frame =>
      obtain ⟨hissued, hreply⟩ := (hpass (loadHits_not_of (.inr hb)) ((loadPasses_iff ..).2 (.inr ⟨hh, hv⟩))).2 f hf hq
      obtain ⟨hissued, hmem, hpads⟩ := hissued
      exact fun hd => ⟨_, hx hsite, hissued, hmem, hpads, hreply hd⟩
    case miss =>
      have hstop : loadPasses s x m.hint (loadReq s i a pa n (ldSigned ty) x m.hint) pa = false := by
        rw [Bool.eq_false_iff, Ne, loadPasses_iff, not_or]
        exact ⟨hopen, hnone⟩
      obtain ⟨hhome, hframe⟩ := hmiss (loadHits_not_of (.inr hh)) hstop hroom
      refine ⟨fun hf => ?_, fun f hnew hf hq => ?_⟩
      · obtain ⟨⟨hissued, hmem, hpads⟩, hrest⟩ := hhome hf
        exact ⟨_, hx hsite, hissued, sameBytes_of hmem hpads, hrest⟩
      · obtain ⟨⟨hissued, hmem, hpads⟩, hrest⟩ := hframe f hnew hf hq
        exact ⟨_, hx hsite, hissued, hmem, hpads, hrest⟩

end Sys2Proof.Machine
end

section
/-!
SUPPORT. A line of a cluster cache that is written (R5, R167): the bytes that are read back are those that were written.
-/

namespace Sys2Proof.Machine

/-! ### Cell lists that rise -/

/-- The addresses of a cell list rise; unlike the canonical form it may hold cells with the default. -/
def Rising (m : Memory) : Prop := m.Pairwise fun x y => x.1 < y.1

section
variable {m : Memory} {a b : Nat} {v : Byte}

theorem memRead_of_above (h : ∀ x ∈ m, a < x.1) : memRead m a = 0 := by
  induction m with
  | nil => rfl
  | cons x m ih =>
    obtain ⟨d, w⟩ := x
    have hd : a < d := h (d, w) List.mem_cons_self
    unfold memRead
    rw [if_neg (by omega)]
    exact ih fun y hy => h y (List.mem_cons_of_mem _ hy)
theorem mem_memWrite {x : Nat × Byte} (h : x ∈ memWrite m a v) : x = (a, v) ∨ x ∈ m := by
  induction m with
  | nil =>
    unfold memWrite at h
    split at h
    · exact .inr h
    · exact .inl (List.mem_singleton.1 h)
  | cons y m ih =>
    obtain ⟨d, w⟩ := y
    unfold memWrite at h
    split at h
    · split at h
      · exact .inr h
      · exact List.mem_cons.1 h
    · split at h
      · split at h
        · exact .inr (List.mem_cons_of_mem _ h)
        · exact (List.mem_cons.1 h).imp id (List.mem_cons_of_mem _)
      · rcases List.mem_cons.1 h with h | h
        · exact .inr (h ▸ List.mem_cons_self)
        · exact (ih h).imp id (List.mem_cons_of_mem _)
theorem rising_memWrite (h : Rising m) (a : Nat) (v : Byte) : Rising (memWrite m a v) := by
  induction m with
  | nil =>
    unfold memWrite
    split
    · exact .nil
    · exact List.pairwise_singleton ..
  | cons x m ih =>
    obtain ⟨d, w⟩ := x
    obtain ⟨hd, hm⟩ := List.pairwise_cons.1 h
    unfold memWrite
    split
    next hlt =>
      split
      · exact h
      · refine List.pairwise_cons.2 ⟨fun y hy => ?_, h⟩
        rcases List.mem_cons.1 hy with hy | hy
        · rw [hy]
          exact hlt
        · exact Nat.lt_trans hlt (hd y hy)
    next hlt =>
      split
      next heq =>
        split
        · exact hm
        · exact List.pairwise_cons.2 ⟨fun y hy => heq ▸ hd y hy, hm⟩
      next hne =>
        refine List.pairwise_cons.2 ⟨fun y hy => ?_, ih hm⟩
        rcases mem_memWrite hy with hy | hy
        · rw [hy]
          show d < a
          omega
        · exact hd y hy
theorem memRead_memWrite_rising (h : Rising m) (a b : Nat) (v : Byte) :
    memRead (memWrite m a v) b = if b = a then v else memRead m b := by
  induction m with
  | nil =>
    unfold memWrite
    split
    next hv => exact (ite_eq_right_iff.2 fun _ => hv).symm
    · rfl
  | cons x m ih =>
    obtain ⟨d, w⟩ := x
    obtain ⟨hd, hm⟩ := List.pairwise_cons.1 h
    unfold memWrite
    split
    next hlt =>
      split
      next hv =>
        by_cases hb : b = a
        · rw [if_pos hb, hv, hb]
          refine memRead_of_above fun y hy => ?_
          rcases List.mem_cons.1 hy with hy | hy
          · rw [hy]
            exact hlt
          · exact Nat.lt_trans hlt (hd y hy)
        · rw [if_neg hb]
      · rfl
    next hlt =>
      split
      next heq =>
        subst heq
        rw [memRead]
        split
        next hv =>
          by_cases hb : b = a
          · rw [if_pos hb, hb, memRead_of_above hd]
            exact hv.symm
          · rw [if_neg hb, if_neg hb]
        · rw [memRead]
          split <;> rfl
      next hne =>
        rw [memRead, memRead, ih hm]
        by_cases hb : b = d
        · rw [if_pos hb, if_neg (by omega), if_pos hb]
        · rw [if_neg hb, if_neg hb]
theorem memRead_memStore_rising (h : Rising m) (a b : Nat) (bs : List Byte) :
    memRead (memStore m a bs) b = if a ≤ b ∧ b < a + bs.length then nth bs (b - a) 0 else memRead m b := by
  induction bs generalizing m a with
  | nil =>
    rw [List.length_nil, if_neg (by omega)]
    rfl
  | cons v bs ih =>
    rw [memStore, ih (rising_memWrite h a v), memRead_memWrite_rising h, List.length_cons]
    by_cases hb : b = a
    · rw [if_neg (by omega), if_pos hb, if_pos (by omega), hb, Nat.sub_self]
      rfl
    · rw [if_neg hb]
      by_cases hin : a ≤ b ∧ b < a + (bs.length + 1)
      · obtain ⟨k, hk⟩ : ∃ k, b = a + 1 + k := ⟨b - (a + 1), by omega⟩
        rw [if_pos (by omega), if_pos hin, hk, Nat.add_sub_cancel_left, Nat.add_assoc, Nat.add_sub_cancel_left, Nat.add_comm 1 k]
        rfl
      · rw [if_neg (by omega), if_neg hin]

end

/-! ### The bytes of a line -/

/-- The bytes of a line as cells. -/
def lineCells (x : CLine) : Memory := ((lineBytes x).zipIdx).foldr (fun p m => (p.2, p.1) :: m) []
theorem rising_lineCells (x : CLine) : Rising (lineCells x) := by
  have hmap : lineCells x = ((lineBytes x).zipIdx).map fun p => (p.2, p.1) := by
    unfold lineCells
    generalize (lineBytes x).zipIdx = l
    induction l with
    | nil => rfl
    | cons p l ih => rw [List.foldr_cons, ih, List.map_cons]
  unfold Rising
  rw [hmap, List.pairwise_map]
  have h : ((lineBytes x).zipIdx.map Prod.snd).Pairwise (· < ·) := by
    rw [List.zipIdx_map_snd]
    exact List.pairwise_lt_range'
  exact List.pairwise_map.1 h
/-- A byte of the word of four bytes. -/
theorem extractByte_wordOfBytes (a b c d : Byte) {k : Nat} (hk : k < 4) :
    (wordOfBytes [a, b, c, d]).extractLsb' (8 * k) 8 = nth [a, b, c, d] k 0 := by
  refine BitVec.eq_of_getLsbD_eq fun i hi => ?_
  rw [BitVec.getLsbD_extractLsb', decide_eq_true hi, Bool.true_and]
  show BitVec.getLsbD (((d ++ c) ++ b) ++ a) (8 * k + i) = _
  rw [BitVec.getLsbD_append, BitVec.getLsbD_append, BitVec.getLsbD_append]
  match k, hk with
  | 0, _ => rw [if_pos (by omega), Nat.zero_add]; rfl
  | 1, _ => rw [if_neg (by omega), if_pos (by omega), show 8 * 1 + i - 8 = i by omega]; rfl
  | 2, _ => rw [if_neg (by omega), if_neg (by omega), if_pos (by omega), show 8 * 2 + i - 8 - 8 = i by omega]; rfl
  | 3, _ => rw [if_neg (by omega), if_neg (by omega), if_neg (by omega), show 8 * 3 + i - 8 - 8 - 8 = i by omega]; rfl
theorem wordBytes_wordOfBytes (a b c d : Byte) : wordBytes (wordOfBytes [a, b, c, d]) = [a, b, c, d] := by
  have h {k : Nat} (hk : k < 4) := extractByte_wordOfBytes a b c d hk
  unfold wordBytes
  rw [h (k := 0) (by decide), h (k := 1) (by decide), h (k := 2) (by decide), h (k := 3) (by decide)]
  rfl
theorem memBytes_append (m : Memory) (a j k : Nat) : memBytes m a (j + k) = memBytes m a j ++ memBytes m (a + j) k := by
  induction j generalizing a with
  | zero => simp [memBytes]
  | succ j ih => rw [Nat.add_right_comm, memBytes, ih, memBytes, List.cons_append, Nat.add_assoc a 1 j, Nat.add_comm 1 j]
theorem flatMap_memBytes (m : Memory) (n : Nat) : (List.range n).flatMap (fun i => memBytes m (4 * i) 4) = memBytes m 0 (4 * n) := by
  induction n with
  | zero => rfl
  | succ n ih => rw [List.range_succ, List.flatMap_append, ih, List.flatMap_singleton, Nat.mul_succ, memBytes_append, Nat.zero_add]
theorem words_getElem? (x : CLine) {i : Nat} (hi : i < 32) : x.words[i]? = some (cword x i) := by
  unfold cword
  rw [Vector.getElem?_eq_getElem hi]
  rfl
theorem lineBytes_putBytes (x : CLine) (off : Nat) (data : List Byte) :
    lineBytes (putBytes x off data) = memBytes (memStore (lineCells x) off data) 0 128 := by
  have hword (i : Nat) (hi : i < 32) : cword (putBytes x off data) i =
      wordOfBytes (memBytes (memStore (lineCells x) off data) (4 * i) 4) := by
    refine (cword_putWords x (BitVec.allOnes 32)
      ((List.range 32).map fun i => wordOfBytes (memBytes (memStore (lineCells x) off data) (4 * i) 4)) hi).trans ?_
    rw [BitVec.getLsbD_allOnes, decide_eq_true hi, if_pos rfl, nth_eq_getElem _ _ _ (by simpa using hi), List.getElem_map,
      List.getElem_range]
  have hwords : (putBytes x off data).words.toList =
      (List.range 32).map fun i => wordOfBytes (memBytes (memStore (lineCells x) off data) (4 * i) 4) := by
    refine List.ext_getElem? fun i => ?_
    rw [List.getElem?_map]
    rcases Nat.lt_or_ge i 32 with hi | hi
    · rw [List.getElem?_range hi, Option.map_some, Vector.getElem?_toList, words_getElem? _ hi, hword i hi]
    · rw [List.getElem?_eq_none (by simpa using hi), List.getElem?_eq_none (by simpa using hi)]
      rfl
  unfold lineBytes
  rw [hwords, List.flatMap_map]
  simp only [wordBytes_wordOfBytes, memBytes]
  exact flatMap_memBytes _ 32
/-- The bytes that a write has put into a line are read back. -/
theorem lineRange_putBytes (x : CLine) (off : Nat) (data : List Byte) (h : off + data.length ≤ 128) :
    lineRange (putBytes x off data) off data.length = data := by
  unfold lineRange
  obtain ⟨k, hk⟩ := Nat.exists_eq_add_of_le h
  rw [lineBytes_putBytes, hk, Nat.add_assoc, memBytes_append, List.drop_left' (memBytes_length ..), memBytes_append,
    List.take_left' (memBytes_length ..), memBytes_eq_map]
  refine List.ext_getElem (by simp) fun i hi hi' => ?_
  rw [List.getElem_map, List.getElem_range, memRead_memStore_rising (rising_lineCells x), if_pos (by omega), Nat.zero_add,
    Nat.add_sub_cancel_left, nth_eq_getElem _ _ _ hi']

end Sys2Proof.Machine
end

section
/-!
SUPPORT. A write in a cluster cache (R165, R167, R184): the line that it leaves, the registration that it asks for, and what a row that it
wakes keeps.
-/

namespace Sys2Proof.Machine

/-! ### Tags are kept -/

/-- Every slot of every bank row holds the tag that it held. -/
def TagsKept (s t : State) : Prop := ∀ pr i, slotTag t (.bank pr) i = slotTag s (.bank pr) i

section
variable {s t u : State}

theorem TagsKept.refl (s : State) : TagsKept s s := fun _ _ => rfl
theorem TagsKept.trans (h : TagsKept s t) (k : TagsKept t u) : TagsKept s u := fun pr i => (k pr i).trans (h pr i)
theorem TagsKept.of_rows (h : t.rows = s.rows) : TagsKept s t := fun pr i => slotTag_of_rows h pr i
/-- A word written keeps the tags when it is none of a slot, or has its tag bits. -/
theorem tagsKept_setRowWord (s : State) (pr n : Nat) (v : Word) (h : n < 16 ∨ bits v 18 32 = bits (rowWord s pr n) 18 32) :
    TagsKept s (setRowWord s pr n v) := by
  intro q i
  show bits (rowWord (setRowWord s pr n v) q (17 + 2 * i)) 18 32 = bits (rowWord s q (17 + 2 * i)) 18 32
  have hword : rowWord (setRowWord s pr n v) q (17 + 2 * i) = rowWord s q (17 + 2 * i) ∨ (q = pr ∧ 17 + 2 * i = n ∧
      rowWord (setRowWord s pr n v) q (17 + 2 * i) = v) := by
    by_cases hn : n < 128
    · rw [rowWord_setRowWord _ _ _ _ _ _ hn]
      by_cases hq : q = pr ∧ 17 + 2 * i = n
      · exact .inr ⟨hq.1, hq.2, if_pos hq⟩
      · exact .inl (if_neg hq)
    · left
      have himg : imgSet (mapGet s.rows pr Image.init) n v = mapGet s.rows pr Image.init := by
        unfold imgSet
        exact Vector.setIfInBounds_eq_of_size_le (by omega)
      unfold rowWord setRowWord rowImage
      rw [mapGet_mapSet]
      split
      next hq => rw [himg, hq]
      · rfl
  rcases hword with hword | ⟨hq, hi, hv⟩
  · rw [hword]
  · rw [hv, hq, hi]
    exact h.resolve_left (by omega)
theorem tagsKept_setLocWord (s : State) (l : Loc) (n : Nat) (v : Word) (h : n < 16 ∨ bits v 18 32 = bits (locWord s l n) 18 32) :
    TagsKept s (setLocWord s l n v) := by
  cases l with
  | none => exact .refl s
  | bank pr => exact tagsKept_setRowWord s pr n v h
  | cellar pa => exact .of_rows (setMemWord_rows ..)
theorem tagsKept_setLocBits (s : State) (l : Loc) {n lo w v : Nat} (h : n < 16 ∨ 50 ≤ lo) : TagsKept s (setLocBits s l n lo w v) :=
  tagsKept_setLocWord s l n _ (h.imp id fun h => bits_putBits_other _ _ _ _ _ _ (by omega))
theorem tagsKept_clearSlot (s : State) (l : Loc) (i : Nat) : TagsKept s (clearSlot s l i) :=
  ((tagsKept_setLocBits s l (n := 17 + 2 * i) (.inr (by omega))).trans (tagsKept_setLocBits _ l (.inl (by omega)))).trans (.of_rows rfl)
theorem tagsKept_makeReady (s : State) (pr : Nat) : TagsKept s (makeReady s pr) := fun q i =>
  congrArg (bits · 18 32) ((makeReady_queued s pr).2 q (17 + 2 * i) (.inr (by rw [List.mem_singleton]; omega)))
/-- A row that a write wakes keeps the tags of its slots. -/
theorem tagsKept_endWatch (s : State) (r : RowId) (i : Nat) : TagsKept s (endWatch s r i) := by
  have hcleared : TagsKept s (clearSlot (setLocWord s (locate s r) 14 0) (locate s r) i) :=
    (tagsKept_setLocWord s (locate s r) 14 0 (.inl (by omega))).trans (tagsKept_clearSlot _ (locate s r) i)
  refine hcleared.trans ?_
  unfold endWatch
  dsimp only
  split
  · exact tagsKept_setLocWord _ _ _ _ (.inl (by omega))
  · split
    · split
      · exact (tagsKept_setRowWord _ _ 15 _ (.inl (by omega))).trans (tagsKept_makeReady _ _)
      · exact .refl _
    · exact .refl _
theorem tagsKept_wakeWatch (s : State) (r : RowId) (i : Nat) : TagsKept s (wakeWatch s r i) := by
  unfold wakeWatch
  split
  · split
    · exact .of_rows (setOpRec_rows ..)
    · exact tagsKept_endWatch s r i
  · exact tagsKept_endWatch s r i

end

/-! ### What a write in the cache changes -/

/-- Only rows with their slots and queues, what a trace touches, watches and messages have changed. -/
def OnlyWakes (s t : State) : Prop :=
  t = { s with mem := t.mem, blocks := t.blocks, parts := t.parts, count := t.count, rows := t.rows, execs := t.execs, ops := t.ops,
               clusters := t.clusters, agenda := t.agenda }
/-- Only the caches, what they ask for and what they have replaced have changed. -/
def OnlyStored (s t : State) : Prop :=
  t = { s with caches := t.caches, misses := t.misses, agenda := t.agenda, stale := t.stale, regs := t.regs, regNext := t.regNext,
               stores := t.stores }
/-- Both. -/
def OnlyWritten (s t : State) : Prop :=
  t = { s with mem := t.mem, blocks := t.blocks, parts := t.parts, count := t.count, rows := t.rows, execs := t.execs, ops := t.ops,
               clusters := t.clusters, caches := t.caches, misses := t.misses, agenda := t.agenda, stale := t.stale, regs := t.regs,
               regNext := t.regNext, stores := t.stores }

section
variable {s t u : State}

theorem OnlyWakes.trans (h : OnlyWakes s t) (k : OnlyWakes t u) : OnlyWakes s u := by
  unfold OnlyWakes at *
  rw [k, h]
theorem OnlyWoken.onlyWakes (h : OnlyWoken s t) : OnlyWakes s t := by
  unfold OnlyWoken at h
  unfold OnlyWakes
  rw [h]
theorem OnlyWakes.caches (h : OnlyWakes s t) : t.caches = s.caches := (congrArg State.caches h).trans rfl
theorem OnlyWakes.onlyWritten (h : OnlyWakes s t) : OnlyWritten s t := by
  unfold OnlyWakes at h
  unfold OnlyWritten
  rw [h]
theorem OnlyStored.trans (h : OnlyStored s t) (k : OnlyStored t u) : OnlyStored s u := by
  unfold OnlyStored at *
  rw [k, h]
theorem OnlyLines.onlyStored (h : OnlyLines s t) : OnlyStored s t := by
  unfold OnlyLines at h
  unfold OnlyStored
  rw [h]
theorem OnlyStored.onlyWritten (h : OnlyStored s t) : OnlyWritten s t := by
  unfold OnlyStored at h
  unfold OnlyWritten
  rw [h]
theorem OnlyStored.rows (h : OnlyStored s t) : t.rows = s.rows := (congrArg State.rows h).trans rfl
theorem OnlyStored.mem (h : OnlyStored s t) : t.mem = s.mem := (congrArg State.mem h).trans rfl
theorem OnlyStored.clusters (h : OnlyStored s t) : t.clusters = s.clusters := (congrArg State.clusters h).trans rfl
theorem OnlyWritten.trans (h : OnlyWritten s t) (k : OnlyWritten t u) : OnlyWritten s u := by
  unfold OnlyWritten at *
  rw [k, h]
theorem OnlyWritten.cur (h : OnlyWritten s t) : t.cur = s.cur := (congrArg State.cur h).trans rfl
theorem OnlyWritten.time (h : OnlyWritten s t) : t.time = s.time := (congrArg State.time h).trans rfl
theorem OnlyWritten.spads (h : OnlyWritten s t) : t.spads = s.spads := (congrArg State.spads h).trans rfl
theorem OnlyStored.beside (h : OnlyStored s t) : Beside s t :=
  ⟨h.rows, h.onlyWritten.cur, h.onlyWritten.time, h.onlyWritten.spads⟩

/-! ### The rows that a write wakes (R355) -/

theorem wakeAll_wakes (l : List (RowId × Nat × Nat)) (s : State) :
    OnlyWakes s (l.foldl (fun s w => wakeWatch s w.1 w.2.1) s) ∧ TagsKept s (l.foldl (fun s w => wakeWatch s w.1 w.2.1) s) := by
  induction l generalizing s with
  | nil => exact ⟨rfl, .refl s⟩
  | cons w l ih =>
    obtain ⟨honly, htags⟩ := ih (wakeWatch s w.1 w.2.1)
    exact ⟨(wakeWatch_onlyWoken ..).onlyWakes.trans honly, (tagsKept_wakeWatch s w.1 w.2.1).trans htags⟩
theorem ownWrite_unwatched {agent line : Nat} (h : watching s agent line = false) (mask : BitVec 32) : ownWrite s agent line mask = s :=
  if_neg (ne_true_of_eq_false h)
theorem ownWrite_wakes (s : State) (agent line : Nat) (mask : BitVec 32) :
    OnlyWakes s (ownWrite s agent line mask) ∧ TagsKept s (ownWrite s agent line mask) := by
  unfold ownWrite
  split
  · have hwake : OnlyWakes s (wakeWatchers s agent line mask) ∧ TagsKept s (wakeWatchers s agent line mask) := by
      rw [wakeWatchers_eq]
      generalize ((cluster s agent).watches.filter fun w => !(hitWatches (cluster s agent).watches line mask).contains w) = kept
      obtain ⟨honly, htags⟩ := wakeAll_wakes (hitWatches (cluster s agent).watches line mask) (withWatches s agent kept)
      exact ⟨OnlyWakes.trans (t := withWatches s agent kept) rfl honly, TagsKept.trans (.of_rows rfl) htags⟩
    obtain ⟨honly, htags⟩ := hwake
    dsimp only
    split
    · exact ⟨honly, htags⟩
    · exact ⟨honly.trans rfl, htags.trans (.of_rows rfl)⟩
  · exact ⟨rfl, .refl s⟩

/-! ### The write -/

/-- The line is present and used (R165). -/
def lineReady (s : State) (r : Req) : State := useLine (allocLine s r.agent (lineOf r.pa) r.hint) r.agent (lineOf r.pa)
/-- The words that a write registers (R167). -/
def newWords (u : State) (r : Req) : BitVec 32 :=
  if splitStore u r then bytesMask r else bytesMask r &&& ~~~(cline u r.agent (lineOf r.pa)).rg
/-- The line with the bytes written, its words valid and registered. -/
def lineWritten (x : CLine) (old : Bool) (r : Req) : CLine :=
  { putBytes x (r.pa % 128) r.data with
    v := x.v ||| bytesMask r, rg := x.rg ||| bytesMask r, key := if old then x.key else BitVec.ofNat 6 r.key }
/-- A dword of which one word is registered is given back home first (R317). -/
def givenBack (u : State) (r : Req) : State :=
  if splitStore u r then send u (.evictionWriteback r.agent (ownInc r.agent) (lineOf r.pa) ((cline u r.agent (lineOf r.pa)).rg &&& bytesMask r)
    (cline u r.agent (lineOf r.pa)).words.toList) else u
/-- The cache once the line is written. -/
def withWritten (u : State) (old : Bool) (r : Req) : State :=
  setCline (rememberStale (givenBack u r) r.agent false
    (lostWords (givenBack u r) (lineOf r.pa) (cline u r.agent (lineOf r.pa)) (bytesMask r))) r.agent (lineOf r.pa)
    (lineWritten (cline u r.agent (lineOf r.pa)) old r)
/-- The registration of new words is sent (R167). -/
def registered (s : State) (r : Req) (new : BitVec 32) : State :=
  if new = 0 then s
  else send { s with regNext := s.regNext + 1, regs := s.regs ++ [⟨s.regNext, r.agent, lineOf r.pa, new, r.part, r.row, r.tag⟩] }
    (.registration { r with op := .reg, mask := new, id := s.regNext })
theorem cacheWrite_eq (s : State) (r : Req) : (cacheWrite s r).1 =
    registered (ownWrite (withWritten (lineReady s r) (cline? s r.agent (lineOf r.pa)).isSome r) r.agent (lineOf r.pa) (bytesMask r)) r
      (newWords (lineReady s r) r) := rfl

theorem lineReady_onlyStored (s : State) (r : Req) : OnlyStored s (lineReady s r) :=
  ((allocLine_onlyLines ..).trans (useLine_onlyLines ..)).onlyStored
theorem withWritten_onlyStored (u : State) (old : Bool) (r : Req) : OnlyStored u (withWritten u old r) := by
  unfold withWritten givenBack
  split <;> rfl
theorem cline_withWritten (u : State) (old : Bool) (r : Req) : cline (withWritten u old r) r.agent (lineOf r.pa) =
    lineWritten (cline u r.agent (lineOf r.pa)) old r := cline_setCline_self ..
theorem registered_onlyStored (s : State) (r : Req) (new : BitVec 32) :
    OnlyStored s (registered s r new) ∧ (registered s r new).caches = s.caches := by
  unfold registered
  split <;> exact ⟨rfl, rfl⟩
theorem lineRange_lineWritten (x : CLine) (old : Bool) (r : Req) (h : r.pa % 128 + r.data.length ≤ 128) :
    lineRange (lineWritten x old r) (r.pa % 128) r.data.length = r.data := lineRange_putBytes x (r.pa % 128) r.data h

/-- A write in the cache has been made: the line holds it, and the rows' slots hold the tags that they held. -/
structure CacheWritten (s t : State) (r : Req) : Prop where
  only   : OnlyWritten s t
  tags   : TagsKept s t
  line   : ∃ x old, cline t r.agent (lineOf r.pa) = lineWritten x old r
  nobody : watching s r.agent (lineOf r.pa) = false → OnlyStored s t

theorem cacheWrite_written (s : State) (r : Req) : CacheWritten s (cacheWrite s r).1 r := by
  rw [cacheWrite_eq]
  generalize (cline? s r.agent (lineOf r.pa)).isSome = old
  have hready := lineReady_onlyStored s r
  have hnew : ∃ new, newWords (lineReady s r) r = new := ⟨_, rfl⟩
  obtain ⟨new, hnew⟩ := hnew
  rw [hnew]
  generalize lineReady s r = u at hready
  have hwritten := withWritten_onlyStored u old r
  have hline := cline_withWritten u old r
  generalize withWritten u old r = v at hwritten hline
  obtain ⟨hwakes, htags⟩ := ownWrite_wakes v r.agent (lineOf r.pa) (bytesMask r)
  obtain ⟨hreg, hcaches⟩ := registered_onlyStored (ownWrite v r.agent (lineOf r.pa) (bytesMask r)) r new
  have hstored := hready.trans hwritten
  refine ⟨?_, ?_, ⟨cline u r.agent (lineOf r.pa), old, ?_⟩, fun hnobody => ?_⟩
  · exact (hstored.onlyWritten.trans hwakes.onlyWritten).trans hreg.onlyWritten
  · exact (TagsKept.of_rows hstored.rows).trans (htags.trans (.of_rows hreg.rows))
  · rw [cline_of_caches (hcaches.trans hwakes.caches), hline]
  · have hunwatched := ownWrite_unwatched ((watching_of_clusters hstored.clusters ..).trans hnobody) (bytesMask r)
    rw [hunwatched] at hreg ⊢
    exact hstored.trans hreg

/-! ### The registration of the words written (R167) -/

/-- The age that a use of a line leaves a way (log 17). -/
def usedAge (agent line : Nat) (age : BitVec 4) (k : Nat) (y : CLine) : CLine :=
  if k = lineKey agent line then { y with age := 0 }
  else if k / 2 ^ 40 = agent ∧ setOf (k % 2 ^ 40) = setOf line ∧ y.age < age then { y with age := y.age + 1 } else y
theorem cline?_useLine (s : State) (agent line : Nat) :
    cline? (useLine s agent line) agent line = (cline? s agent line).map fun y => { y with age := 0 } := by
  unfold useLine
  cases h : cline? s agent line with
  | none =>
    rw [h]
    rfl
  | some x =>
    have hmap : cline? { s with caches := s.caches.map fun p => (p.1, usedAge agent line x.age p.1 p.2) } agent line =
        (cline? s agent line).map (usedAge agent line x.age (lineKey agent line)) := mapGet?_mapKeyed ..
    have hsame : (s.caches.map fun p => (p.1, usedAge agent line x.age p.1 p.2)) = s.caches.map fun (k, y) =>
        if k = lineKey agent line then (k, { y with age := 0 })
        else if k / 2 ^ 40 = agent ∧ setOf (k % 2 ^ 40) = setOf line ∧ y.age < x.age then (k, { y with age := y.age + 1 })
        else (k, y) := by
      refine List.map_congr_left fun p _ => ?_
      unfold usedAge
      dsimp only
      split
      · rfl
      · split <;> rfl
    rw [hsame, h] at hmap
    refine hmap.trans ?_
    unfold usedAge
    rw [Option.map_some, if_pos rfl, Option.map_some]
theorem rg_lineReady (s : State) (r : Req) : (cline (lineReady s r) r.agent (lineOf r.pa)).rg = (cline s r.agent (lineOf r.pa)).rg := by
  have huse (t : State) (agent line : Nat) : (cline (useLine t agent line) agent line).rg = (cline t agent line).rg := by
    unfold cline
    rw [cline?_useLine]
    cases cline? t agent line <;> rfl
  have halloc : (cline (allocLine s r.agent (lineOf r.pa) r.hint) r.agent (lineOf r.pa)).rg = (cline s r.agent (lineOf r.pa)).rg := by
    unfold allocLine
    dsimp only
    split
    · rfl
    next hnone =>
      have hold : cline s r.agent (lineOf r.pa) = CLine.init := by
        unfold cline
        rw [Option.not_isSome_iff_eq_none.1 hnone]
        rfl
      rw [hold]
      split
      · rw [cline_setCline_self]
      · rw [huse, cline_setCline_self]
  unfold lineReady
  rw [huse, halloc]
/-- Words that were not registered are (R167). -/
theorem cacheWrite_registers {s : State} {r : Req} (h : bytesMask r &&& ~~~(cline s r.agent (lineOf r.pa)).rg ≠ 0) :
    ∃ q, Msg.registration q ∈ (cacheWrite s r).1.agenda ∧ q.pa = r.pa ∧ q.agent = r.agent ∧
      q.mask &&& bytesMask r = q.mask ∧ q.mask ≠ 0 := by
  have hnew : newWords (lineReady s r) r ≠ 0 ∧ newWords (lineReady s r) r &&& bytesMask r = newWords (lineReady s r) r := by
    unfold newWords
    rw [rg_lineReady]
    split
    · refine ⟨fun h0 => h ?_, BitVec.and_self⟩
      rw [h0]
      exact BitVec.zero_and
    · exact ⟨h, by rw [BitVec.and_assoc, BitVec.and_comm _ (bytesMask r), ← BitVec.and_assoc, BitVec.and_self]⟩
  rw [cacheWrite_eq]
  unfold registered
  rw [if_neg hnew.1]
  exact ⟨_, List.mem_append_right _ (List.mem_singleton_self _), rfl, rfl, hnew.2, hnew.1⟩

end

end Sys2Proof.Machine
end

section
/-!
SUPPORT. What an access to the row's own image, to a scratchpad, or to a cluster cache that takes its bytes leaves (R164, R174, R176, R184,
R193, R354).
-/

namespace Sys2Proof.Machine

/-! ### The row's own image -/

section
variable {s t u : State}

/-- An arrival wakes no watch of a row that has none (R354). -/
theorem wakeOwnWatch_unwatched (h : NoWatch s) (r : RowId) (off n : Nat) : wakeOwnWatch s r (.bank s.cur) off n = s := by
  have hnone : (busySlots s (.bank s.cur)).find? (fun i => slotKind s (.bank s.cur) i == 0x0A) = none := by
    rw [List.find?_eq_none]
    intro j hj
    obtain ⟨hlt, hbusy⟩ := List.mem_filter.1 hj
    rw [beq_iff_eq]
    exact h j (List.mem_range.1 hlt) (bne_iff_ne.1 hbusy)
  unfold wakeOwnWatch
  rw [hnone]
/-- A word that is none of a slot is written: the row watches no more than before. -/
theorem noWatch_setRowWord {w : Nat} (h : NoWatch s) (hw : w < 16 ∨ 32 ≤ w) (hlt : w < 128) (v : Word) :
    NoWatch (setRowWord s s.cur w v) := by
  intro j hj
  have hword : slotWord (setRowWord s s.cur w v) (.bank s.cur) j = slotWord s (.bank s.cur) j :=
    rowWord_setRowWord_other _ _ _ _ _ hlt (by omega)
  show bits (slotWord (setRowWord s s.cur w v) (.bank s.cur) j) 58 6 ≠ 0 → bits (slotWord (setRowWord s s.cur w v) (.bank s.cur) j) 0 8 ≠ 0x0A
  rw [hword]
  exact h j hj
/-- A chain that has written one row word before it ends. -/
theorem ChainDone.after {c : Ctl} {ws : List Nat} {w : Nat} (h : ChainDone u t (nextPc c u) ws) (hcur : u.cur = s.cur)
    (hkept : WordsKept s u [w]) (hw : 2 < w) : ChainDone s t (nextPc c s) (w :: ws) := by
  obtain ⟨hnext, hcount, hwords⟩ := h
  have hkeep {k : Nat} (hk : k ≠ w) : rowWord u s.cur k = rowWord s s.cur k := hkept s.cur k (.inr (by rwa [List.mem_singleton]))
  have hpc : nextPc c u = nextPc c s := nextPc_of_words c hcur (hkeep (by omega))
  unfold Counted at hcount
  unfold WordsKept at hwords
  rw [hcur] at hnext hcount hwords
  rw [hkeep (by omega)] at hcount
  refine ⟨hnext.trans hpc, hcount, fun pr k hk => (hwords pr k ?_).trans (hkept pr k ?_)⟩
  · exact hk.imp id fun h hm => h (by simp only [List.mem_cons] at hm ⊢; tauto)
  · exact hk.imp id fun h hm => h (by simp only [List.mem_cons, List.not_mem_nil, or_false] at hm ⊢; tauto)
theorem wordsKept_setRowWord (s : State) {w : Nat} (hlt : w < 128) (v : Word) : WordsKept s (setRowWord s s.cur w v) [w] := by
  intro pr k hk
  rw [List.mem_singleton] at hk
  exact (rowWord_setRowWord _ _ _ _ _ _ hlt).trans (if_neg (by tauto))

/-! ### Scratchpads -/

theorem PadStored.same {cl off : Nat} {data : List Byte} (h : PadStored s u cl off data) (hs : SamePads u t) :
    PadStored s t cl off data := fun k a => (hs k a).trans (h k a)
theorem padStored_nil (h : SamePads s t) (cl off : Nat) : PadStored s t cl off [] := fun k a => by
  rw [h k a, if_neg (by rw [List.length_nil]; omega)]

end

end Sys2Proof.Machine
end

section
/-!
PROOF. O29, AtomicResults (tier 2): an atomic returns the old value and writes the new one, in the place that it is performed at
(R182 to R185).
-/

namespace Sys2Proof.Machine

theorem amoSize_cases (m : MemMod) : amoSize m = 4 ∨ amoSize m = 8 := by
  unfold amoSize
  split
  · exact .inl rfl
  · exact .inr rfl
theorem amoSize_lt (m : MemMod) : amoSize m < 256 := by rcases amoSize_cases m with h | h <;> omega

/-! ### Atomics that stop, and those on rows, scratchpads and registers -/

section
variable {c : Ctl} {rd ra rb : Reg} {op : AmoOp} {m : MemMod} {s : State} {x : TlbEnt} {a : Word} {o : Nat}

theorem exec_amo (hg : guardPasses c s = true) (hm : MemReady s) (hw : rd.win ≠ 3) : exec (.amo c rd ra rb op m) s =
    .next (withSite s ⟨true, true, 4, false⟩ (readReg s ra) (amoSize m) (amoAt c rd rb op m (readReg s ra))) := by
  show execAmo c rd ra rb op m s = _
  rw [execAmo, memChain_ready hg hm]
  exact congrArg _ (if_neg hw)
theorem exec_amo_at {p : Place} (hg : guardPasses c s = true) (hm : MemReady s) (hw : rd.win ≠ 3)
    (ha : (readReg s ra).toNat % amoSize m = 0) (hsite : siteOf s ⟨true, true, 4, false⟩ (readReg s ra) = .at_ p x) :
    exec (.amo c rd ra rb op m) s = .next (amoAt c rd rb op m (readReg s ra) s p x) := by
  rw [exec_amo hg hm hw, withSite_at ha hsite]
/-- A register page admits no atomic (R438). -/
theorem siteOf_amoReg {pa : Nat} (he : curExec s ≠ 544) (hcan : canonical a = true) (hin : inWindow s (curPart s) a = false)
    (hl : lookup s a = .leaf x) (hp : leafPlace x (bits a 0 57) = .reg pa) (hpriv : 1 ≤ priv s) (hr : leafR x.leaf = true)
    (hw : leafW x.leaf = true) (hord : leafClass x.leaf = clsOrdinary) :
    siteOf s ⟨true, true, 4, false⟩ a = .stop (faultOf 5 14 4) a := by
  have hstop : leafStop s ⟨true, true, 4, false⟩ (curPart s) x (.reg pa) = some (faultOf 5 14 4) := by
    have hread : permFault (priv s) .read x.leaf = none := by rw [permFault_read hpriv, if_pos hr]
    have hwrite : permFault (priv s) .write x.leaf = none := by
      rw [permFault_write hpriv, if_pos (by rw [hw, hord]; rfl)]
    simp [leafStop, hread, hwrite, hord, clsOrdinary, cPagePerm]
  simp [siteOf, he, hcan, hin, hl, hp, hstop]

variable (hr : ReleaseReady s (releaseOf m))
include hr

/-- A row word below d32 admits none (R182). -/
theorem amoAt_head {r : RowId} (ho : o / 8 < 32) : amoAt c rd rb op m a s (.row r o) x = fault s (faultOf 6 0 4) a := by
  unfold amoAt
  dsimp only
  rw [afterRelease_ready hr, if_pos ho, cRowword]
theorem amoAt_otherRow {r : RowId} {i : Nat} (ho : 32 ≤ o / 8) (hne : r ≠ curRow s) (hi : freeSlot s (.bank s.cur) = some i) :
    amoAt c rd rb op m a s (.row r o) x =
      advance c (toRow s i (amoSize m) (destOf rd) 2 3 a (acquireOf m) r o (.amo (amoSize m) op (readReg s rb) (readReg s rd))) := by
  unfold amoAt
  dsimp only
  rw [afterRelease_ready hr, if_neg (by omega), if_neg hne, withSlot_free hi]

/-- The row's image once an atomic has been performed on it. -/
def imageAmoed (s : State) (rd rb : Reg) (op : AmoOp) (n o : Nat) : State :=
  let old := imageBytes s (.bank s.cur) o n
  if amoWrites op old ((readReg s rd).toNat % 256 ^ n) then
    writeImage s (curRow s) (.bank s.cur) o n (amoNew op n old ((readReg s rb).toNat % 256 ^ n)) else s
theorem amoAt_own (ho : 32 ≤ o / 8) (hready : WordReady s (o / 8)) : amoAt c rd rb op m a s (.row (curRow s) o) x =
    advance c (acquireNow (writeReg (imageAmoed s rd rb op (amoSize m) o) rd
      (zextBytes (amoSize m) (imageBytes s (.bank s.cur) o (amoSize m)))) (acquireOf m)) := by
  unfold amoAt imageAmoed
  dsimp only
  rw [afterRelease_ready hr, if_neg (by omega), if_pos rfl, afterOwn_ready hready]

end

/-- Only the word that the atomic is on has changed, if it writes. -/
theorem imageAmoed_word {rd rb : Reg} {op : AmoOp} {s : State} {n o : Nat} (hlo : 32 ≤ o / 8) (hhi : o / 8 < 128) (hno : NoWatch s) :
    let old := imageBytes s (.bank s.cur) o n
    let u := imageAmoed s rd rb op n o
    u = { s with rows := u.rows } ∧ WordsKept s u [o / 8] ∧ rowWord u s.cur (o / 8) =
      if amoWrites op old ((readReg s rd).toNat % 256 ^ n) = true ∧ o / 8 ≠ 32 then
        putBits (rowWord s s.cur (o / 8)) (8 * (o % 8)) (8 * n) (amoNew op n old ((readReg s rb).toNat % 256 ^ n))
      else rowWord s s.cur (o / 8) := by
  dsimp only
  unfold imageAmoed
  dsimp only
  by_cases hw : amoWrites op (imageBytes s (.bank s.cur) o n) ((readReg s rd).toNat % 256 ^ n) = true
  · rw [if_pos hw]
    unfold writeImage
    by_cases h32 : o / 8 = 32
    · rw [if_pos h32, if_neg (by tauto)]
      exact ⟨rfl, fun _ _ _ => rfl, rfl⟩
    · rw [if_neg h32, if_pos ⟨hw, h32⟩]
      have hquiet := wakeOwnWatch_unwatched (noWatch_setRowWord hno (.inr hlo) hhi (patchWord (rowWord s s.cur (o / 8)) (o % 8) n
        (amoNew op n (imageBytes s (.bank s.cur) o n) ((readReg s rb).toNat % 256 ^ n)))) (curRow s) o n
      have himage : wakeOwnWatch (setLocWord s (.bank s.cur) (o / 8) (patchWord (locWord s (.bank s.cur) (o / 8)) (o % 8) n
          (amoNew op n (imageBytes s (.bank s.cur) o n) ((readReg s rb).toNat % 256 ^ n)))) (curRow s) (.bank s.cur) o n =
          setRowWord s s.cur (o / 8) (patchWord (rowWord s s.cur (o / 8)) (o % 8) n
            (amoNew op n (imageBytes s (.bank s.cur) o n) ((readReg s rb).toNat % 256 ^ n))) := hquiet
      dsimp only
      rw [himage]
      exact ⟨rfl, wordsKept_setRowWord s hhi _, rowWord_setRowWord_self _ _ _ _ hhi⟩
  · rw [if_neg hw, if_neg (by tauto)]
    exact ⟨rfl, fun _ _ _ => rfl, rfl⟩
/-- An atomic of the row's own image is complete within the instruction. -/
theorem amoAt_own_results {c : Ctl} {rd rb : Reg} {op : AmoOp} {m : MemMod} {s : State} {x : TlbEnt} {a : Word} {o : Nat}
    (hr : ReleaseReady s (releaseOf m)) (hw : rd.win ≠ 3) (hlo : 32 ≤ o / 8) (hhi : o / 8 < 128) (hready : WordReady s (o / 8))
    (hno : NoWatch s) :
    let n := amoSize m
    let old := imageBytes s (.bank s.cur) o n
    let t := amoAt c rd rb op m a s (.row (curRow s) o) x
    SameBytes s t ∧ ChainDone s t (nextPc c s) (o / 8 :: resultWords rd) ∧
      (isG0 rd = false → rowWord t s.cur (regIndex rd) = BitVec.ofNat 64 (old % 256 ^ n)) ∧
      (isG0 rd = true ∨ regIndex rd ≠ o / 8 → rowWord t s.cur (o / 8) =
        if amoWrites op old ((readReg s rd).toNat % 256 ^ n) = true ∧ o / 8 ≠ 32 then
          putBits (rowWord s s.cur (o / 8)) (8 * (o % 8)) (8 * n) (amoNew op n old ((readReg s rb).toNat % 256 ^ n))
        else rowWord s s.cur (o / 8)) := by
  dsimp only
  obtain ⟨honly, hkept, hword⟩ := imageAmoed_word (rd := rd) (rb := rb) (op := op) (n := amoSize m) hlo hhi hno
  rw [amoAt_own hr hlo hready, ← hword]
  generalize imageAmoed s rd rb op (amoSize m) o = u at *
  have hcur : u.cur = s.cur := (congrArg State.cur honly).trans rfl
  obtain ⟨hvalue, hdone⟩ := advance_result (s := u) c (zextBytes (amoSize m) (imageBytes s (.bank s.cur) o (amoSize m))) (acquireOf m)
    hw rfl rfl
  have hbytes := advance_result_sameBytes c rd (zextBytes (amoSize m) (imageBytes s (.bank s.cur) o (amoSize m))) (acquireOf m)
    ((congrArg State.mem honly).trans rfl : u.mem = s.mem) ((congrArg State.spads honly).trans rfl)
  have hwords := hdone.words
  unfold WordsKept at hwords
  rw [hcur] at hvalue hwords
  refine ⟨hbytes, hdone.after hcur hkept (by omega), hvalue, fun hother => hwords s.cur (o / 8) (.inr ?_)⟩
  unfold resultWords
  split
  · simp only [List.mem_cons, List.not_mem_nil, or_false]
    omega
  next hg0 =>
    have hne := hother.resolve_left hg0
    simp only [List.mem_cons, List.not_mem_nil, or_false]
    omega

/-! ### Scratchpads -/

section
variable {c : Ctl} {rd rb : Reg} {op : AmoOp} {m : MemMod} {s : State} {x : TlbEnt} {a : Word} {o cl i : Nat}

/-- The scratchpads once an atomic has been performed on one. -/
def spadAmoed (s : State) (rd rb : Reg) (op : AmoOp) (n cl o : Nat) : State :=
  let old := leNat (spadBytes s cl o n)
  if amoWrites op old ((readReg s rd).toNat % 256 ^ n) then
    spadStore (spadRead s cl) cl o (leBytes n (amoNew op n old ((readReg s rb).toNat % 256 ^ n))) else spadRead s cl
theorem spadAmoed_stored (s : State) (rd rb : Reg) (op : AmoOp) (n cl o : Nat) :
    let old := leNat (spadBytes s cl o n)
    let u := spadAmoed s rd rb op n cl o
    u.rows = s.rows ∧ u.cur = s.cur ∧ u.mem = s.mem ∧ (MemoryCanonical s → PadStored s u cl o
      (if amoWrites op old ((readReg s rd).toNat % 256 ^ n) then leBytes n (amoNew op n old ((readReg s rb).toNat % 256 ^ n)) else [])) := by
  dsimp only
  unfold spadAmoed
  dsimp only
  split
  · refine ⟨spadRead_rows .., spadRead_cur .., spadRead_mem .., fun hcan => padStored_spadStore _ _ _ (spad_canonical hcan _) ?_⟩
    unfold spadStore setSpad spad
    dsimp only
    rw [spadRead_spads]
  · exact ⟨spadRead_rows .., spadRead_cur .., spadRead_mem .., fun _ => padStored_nil (samePads_of_same (spadRead_spads ..)) _ _⟩
theorem amoAt_spad (hr : ReleaseReady s (releaseOf m)) (href : routerRefuses s cl = false) (hi : freeSlot s (.bank s.cur) = some i) :
    amoAt c rd rb op m a s (.spad cl o) x =
      if spadError s then advance c (answerBad { s with count := s.count + 1 } i (amoSize m) (destOf rd) 2 3 a (acquireOf m))
      else advance c (answerNow (spadAmoed s rd rb op (amoSize m) cl o) i (amoSize m) (destOf rd) 2 3 a (acquireOf m)
        (zextBytes (amoSize m) (leNat (spadBytes s cl o (amoSize m)))) none) := by
  unfold amoAt spadAmoed
  dsimp only
  rw [afterRelease_ready hr, if_neg (ne_true_of_eq_false href), withSlot_free hi]
/-- A scratchpad is changed at once, and answers (R164, R183). -/
theorem amoAt_spad_answers (hr : ReleaseReady s (releaseOf m)) (href : routerRefuses s cl = false)
    (hi : freeSlot s (.bank s.cur) = some i) (hok : spadError s = false) :
    let n := amoSize m
    let old := leNat (spadBytes s cl o n)
    let t := amoAt c rd rb op m a s (.spad cl o) x
    Issued (nextPc c s) s t i n (destOf rd) 2 3 a ∧ SameMemory s t ∧ Replies s t i (BitVec.ofNat 64 (old % 256 ^ n)) ∧
      (MemoryCanonical s → PadStored s t cl o (if amoWrites op old ((readReg s rd).toNat % 256 ^ n) then
        leBytes n (amoNew op n old ((readReg s rb).toNat % 256 ^ n)) else [])) := by
  dsimp only
  rw [amoAt_spad hr href hi, if_neg (ne_true_of_eq_false hok)]
  obtain ⟨hrows, hcur, hmem, hpads⟩ := spadAmoed_stored s rd rb op (amoSize m) cl o
  generalize spadAmoed s rd rb op (amoSize m) cl o = u at *
  obtain ⟨⟨hissued, hsame, hkept⟩, hreply⟩ := answerNow_issues (s := u) (i := i) (a := a) c (acquireOf m)
    (zextBytes (amoSize m) (leNat (spadBytes s cl o (amoSize m)))) none (freeSlot_lt hi) (amoSize_lt m) (destOf_lt rd)
    (by decide : 2 < 8) (by decide : 3 < 256)
  rw [nextPc_of_rows c hrows hcur] at hissued
  exact ⟨hissued.of_base hrows hcur, fun b => (hsame b).trans (by rw [hmem]), hreply.of_base hrows hcur, fun hcan => (hpads hcan).same hkept⟩
/-- A scratchpad whose check fails writes nothing, and its reply is poisoned (R183). -/
theorem amoAt_spad_poisoned (hr : ReleaseReady s (releaseOf m)) (href : routerRefuses s cl = false)
    (hi : freeSlot s (.bank s.cur) = some i) (hbad : spadError s = true) :
    let t := amoAt c rd rb op m a s (.spad cl o) x
    Issued (nextPc c s) s t i (amoSize m) (destOf rd) 2 3 a ∧ SameBytes s t ∧ ∃ p, Msg.resultArrival p ∈ t.agenda ∧
      p.row = curRow s ∧ p.slot = i ∧ p.tag = slotTag t (.bank s.cur) i ∧ p.poison = 3 := by
  dsimp only
  rw [amoAt_spad hr href hi, if_pos hbad]
  have hrows : ({ s with count := s.count + 1 } : State).rows = s.rows := rfl
  have hcur : ({ s with count := s.count + 1 } : State).cur = s.cur := rfl
  have hbytes : SameBytes s { s with count := s.count + 1 } := sameBytes_of_same rfl rfl
  have hid : curRow { s with count := s.count + 1 } = curRow s := rfl
  generalize ({ s with count := s.count + 1 } : State) = u at *
  obtain ⟨⟨hissued, hsame, hkept⟩, hreply⟩ := answerBad_issues (s := u) (i := i) (a := a) c (acquireOf m) (freeSlot_lt hi) (amoSize_lt m)
    (destOf_lt rd) (by decide : 2 < 8) (by decide : 3 < 256)
  rw [nextPc_of_rows c hrows hcur] at hissued
  rw [hid, hcur] at hreply
  obtain ⟨hmem, hpads⟩ := hbytes
  exact ⟨hissued.of_base hrows hcur, ⟨fun b => (hsame b).trans (hmem b), fun k b => (hkept k b).trans (hpads k b)⟩, hreply⟩

end

/-! ### The cluster cache -/

/-- The cache once an atomic has been performed in it (R184). -/
def cacheAmoed (u : State) (r : Req) (op : AmoOp) (b cmp : Word) : State :=
  let old := leNat (lineRange (cline u r.agent (lineOf r.pa)) (r.pa % 128) r.size)
  if amoWrites op old (cmp.toNat % 256 ^ r.size) then
    (cacheWrite u { r with data := leBytes r.size (amoNew op r.size old (b.toNat % 256 ^ r.size)) }).1 else u
/-- The answer of an atomic that the cache performs. -/
def cacheAnswer (u : State) (r : Req) : Reply :=
  ⟨r.row, r.exec, r.slot, r.tag, zextBytes r.size (leNat (lineRange (cline u r.agent (lineOf r.pa)) (r.pa % 128) r.size)), 0, 0, 0⟩
theorem atomicCache_eq (u : State) (r : Req) (op : AmoOp) (b cmp : Word) : atomicCache u r op b cmp =
    send (performedNow (cacheAmoed u r op b cmp) (cacheAnswer u r)) (.resultArrival (cacheAnswer u r)) := rfl
theorem answered_frame (v : State) (p : Reply) : OnlyWritten v (send (performedNow v p) (.resultArrival p)) ∧
    TagsKept v (send (performedNow v p) (.resultArrival p)) ∧ Beside v (send (performedNow v p) (.resultArrival p)) ∧
    (send (performedNow v p) (.resultArrival p)).mem = v.mem ∧ (send (performedNow v p) (.resultArrival p)).caches = v.caches :=
  ⟨rfl, .of_rows rfl, ⟨rfl, rfl, rfl, rfl⟩, rfl, rfl⟩
/-- What an atomic leaves that the cache performs. -/
structure CacheAmoed (u t : State) (r : Req) (op : AmoOp) (b cmp : Word) : Prop where
  only   : OnlyWritten u t
  tags   : TagsKept u t
  answer : Msg.resultArrival (cacheAnswer u r) ∈ t.agenda
  nobody : watching u r.agent (lineOf r.pa) = false → Beside u t ∧ t.mem = u.mem
  line   : let old := lineRange (cline u r.agent (lineOf r.pa)) (r.pa % 128) r.size
    lineRange (cline t r.agent (lineOf r.pa)) (r.pa % 128) r.size =
      if amoWrites op (leNat old) (cmp.toNat % 256 ^ r.size) then leBytes r.size (amoNew op r.size (leNat old) (b.toNat % 256 ^ r.size))
      else old
theorem atomicCache_amoed (u : State) (r : Req) (op : AmoOp) (b cmp : Word) (hsize : r.pa % 128 + r.size ≤ 128) :
    CacheAmoed u (atomicCache u r op b cmp) r op b cmp := by
  have hbase : OnlyWritten u (cacheAmoed u r op b cmp) ∧ TagsKept u (cacheAmoed u r op b cmp) ∧
      (watching u r.agent (lineOf r.pa) = false → Beside u (cacheAmoed u r op b cmp) ∧ (cacheAmoed u r op b cmp).mem = u.mem) ∧
      lineRange (cline (cacheAmoed u r op b cmp) r.agent (lineOf r.pa)) (r.pa % 128) r.size =
        if amoWrites op (leNat (lineRange (cline u r.agent (lineOf r.pa)) (r.pa % 128) r.size)) (cmp.toNat % 256 ^ r.size) then
          leBytes r.size (amoNew op r.size (leNat (lineRange (cline u r.agent (lineOf r.pa)) (r.pa % 128) r.size)) (b.toNat % 256 ^ r.size))
        else lineRange (cline u r.agent (lineOf r.pa)) (r.pa % 128) r.size := by
    unfold cacheAmoed
    dsimp only
    generalize leNat (lineRange (cline u r.agent (lineOf r.pa)) (r.pa % 128) r.size) = old
    split
    · generalize hdata : leBytes r.size (amoNew op r.size old (b.toNat % 256 ^ r.size)) = data
      have hlen : data.length = r.size := by rw [← hdata, leBytes_length]
      obtain ⟨honly, htags, ⟨x, old', hline⟩, hnobody⟩ := cacheWrite_written u { r with data := data }
      refine ⟨honly, htags, fun h => ⟨(hnobody h).beside, (hnobody h).mem⟩, ?_⟩
      have hput := lineRange_lineWritten x old' { r with data := data } (by rw [hlen]; exact hsize)
      rw [← hline, hlen] at hput
      exact hput
    · exact ⟨rfl, .refl u, fun _ => ⟨⟨rfl, rfl, rfl, rfl⟩, rfl⟩, rfl⟩
  obtain ⟨honly, htags, hnobody, hline⟩ := hbase
  rw [atomicCache_eq]
  generalize cacheAmoed u r op b cmp = v at *
  obtain ⟨honly', htags', hb, hmem, hcaches⟩ := answered_frame v (cacheAnswer u r)
  have hsent := sent_mem_agenda (performedNow v (cacheAnswer u r)) (.resultArrival (cacheAnswer u r))
  generalize send (performedNow v (cacheAnswer u r)) (.resultArrival (cacheAnswer u r)) = t at *
  refine ⟨honly.trans honly', htags.trans htags', hsent, fun h => ?_, ?_⟩
  · obtain ⟨hb0, hmem0⟩ := hnobody h
    exact ⟨hb0.trans hb, hmem.trans hmem0⟩
  · rw [cline_of_caches hcaches]
    exact hline

/-! ### Global memory -/

section
variable {c : Ctl} {rd rb : Reg} {op : AmoOp} {m : MemMod} {s : State} {x : TlbEnt} {a : Word} {pa i : Nat}

/-- The request of an atomic. -/
def amoReq (s : State) (rd rb : Reg) (op : AmoOp) (m : MemMod) (i : Nat) (a : Word) (pa : Nat) (x : TlbEnt) : Req :=
  requestOf s (.atomic op (readReg s rb) (readReg s rd)) i a pa (amoSize m) false x m.hint []
/-- The same under the slot's tag; identifier 1 says that the cluster cache performs it (R184). -/
def amoTagged (s : State) (rd rb : Reg) (op : AmoOp) (m : MemMod) (i : Nat) (a : Word) (pa : Nat) (x : TlbEnt) : Req :=
  taggedReq s i (amoSize m) (destOf rd) 2 3 a { amoReq s rd rb op m i a pa x with id := num (!atHome s pa m) }
def amoOpened (s : State) (rd rb : Reg) (op : AmoOp) (m : MemMod) (i : Nat) (a : Word) (pa : Nat) (x : TlbEnt) : State :=
  askOpened s i (amoSize m) (destOf rd) 2 3 a (acquireOf m) (amoTagged s rd rb op m i a pa x)
/-- Where an atomic on global memory goes once its slot is taken (R184). -/
def amoServed (s : State) (rd rb : Reg) (op : AmoOp) (m : MemMod) (i : Nat) (a : Word) (pa : Nat) (x : TlbEnt) : State :=
  if atHome s pa m then send (amoOpened s rd rb op m i a pa x) (.homeAtomic (amoTagged s rd rb op m i a pa x))
  else cacheAtomic (amoOpened s rd rb op m i a pa x) (amoTagged s rd rb op m i a pa x)
theorem amoMemory_eq (hi : freeSlot s (.bank s.cur) = some i)
    (hgo : atHome s pa m = true ∨ hits s (amoReq s rd rb op m i a pa x) = true ∨ missRoom s (agentOf (curExec s)) (lineOf pa) = true) :
    amoMemory s rd op m a pa (readReg s rb) (readReg s rd) x = amoServed s rd rb op m i a pa x := by
  unfold amoMemory
  rw [withSlot_free hi]
  refine if_neg ?_
  simp only [Bool.and_eq_true, Bool.not_eq_true', not_and, Bool.not_eq_false]
  intro hh
  rcases hgo with hgo | hgo | hgo
  · exact absurd hgo (ne_true_of_eq_false hh.1)
  · exact absurd hgo (ne_true_of_eq_false hh.2)
  · exact hgo
theorem amoAt_served (hr : ReleaseReady s (releaseOf m)) (hl : LeaseReady s pa) (he : earlierAccess s pa (amoSize m) = none)
    (hi : freeSlot s (.bank s.cur) = some i)
    (hgo : atHome s pa m = true ∨ hits s (amoReq s rd rb op m i a pa x) = true ∨ missRoom s (agentOf (curExec s)) (lineOf pa) = true)
    (htime : (amoServed s rd rb op m i a pa x).time = (amoOpened s rd rb op m i a pa x).time) :
    amoAt c rd rb op m a s (.mem pa) x = advance c (amoServed s rd rb op m i a pa x) := by
  have hopened : (amoOpened s rd rb op m i a pa x).time = s.time + 1 := (askOpened_onlyTaken ..).time
  unfold amoAt
  dsimp only
  rw [afterRelease_ready hr, underLease_ready hl, afterEarlier_free he, amoMemory_eq hi hgo, if_neg (by rw [htime, hopened]; omega)]

theorem cacheAtomic_hits {u : State} {r : Req} {o : AmoOp} {b cmp : Word} (hop : r.op = .atomic o b cmp) (hh : hits u r = true) :
    cacheAtomic u r = atomicCache u r o b cmp := by
  unfold cacheAtomic
  rw [hop]
  exact if_pos hh
theorem cacheAtomic_misses {u : State} {r : Req} {o : AmoOp} {b cmp : Word} (hop : r.op = .atomic o b cmp) (hh : hits u r = false)
    (hroom : missRoom u r.agent (lineOf r.pa) = true) : cacheAtomic u r = addMiss u r false (some (false, r)) := by
  unfold cacheAtomic
  rw [hop]
  exact (if_neg (ne_true_of_eq_false hh)).trans (if_pos hroom)
/-- What an atomic of global memory leaves whose cache is not written. -/
structure AmoIssued (c : Ctl) (rd : Reg) (m : MemMod) (i : Nat) (a : Word) (s t : State) : Prop where
  issued : Issued (nextPc c s) s t i (amoSize m) (destOf rd) 2 3 a
  bytes  : SameBytes s t

theorem took_amo {u : State} (hrows : u.rows = (amoOpened s rd rb op m i a pa x).rows) (hcur : u.cur = (amoOpened s rd rb op m i a pa x).cur) :
    Took s u i (amoSize m) (destOf rd) 2 3 a :=
  (took_askOpened s i (amoSize m) (destOf rd) 2 3 a (acquireOf m) (amoTagged s rd rb op m i a pa x)).of_rows hrows hcur
theorem amoIssued {u : State} (c : Ctl) (hi : i < 8) (hb : Beside (amoOpened s rd rb op m i a pa x) u)
    (hmem : u.mem = (amoOpened s rd rb op m i a pa x).mem) : AmoIssued c rd m i a s (advance c u) := by
  have honly : OnlyTaken s (amoOpened s rd rb op m i a pa x) := askOpened_onlyTaken ..
  have hissued := (took_amo hb.rows hb.cur).issuedOnly c (hmem.trans honly.mem) (hb.spads.trans honly.spads) hi (amoSize_lt m) (destOf_lt rd)
    (by decide) (by decide)
  exact ⟨hissued.1, hissued.2⟩

section
variable (hr : ReleaseReady s (releaseOf m)) (hl : LeaseReady s pa) (he : earlierAccess s pa (amoSize m) = none)
  (hi : freeSlot s (.bank s.cur) = some i)
include hr hl he hi

/-- At die scope and wider the home is sent the atomic (R184). -/
theorem amoAt_home (hhome : atHome s pa m = true) :
    AmoIssued c rd m i a s (amoAt c rd rb op m a s (.mem pa) x) ∧
      ∃ q, Msg.homeAtomic q ∈ (amoAt c rd rb op m a s (.mem pa) x).agenda ∧
        RequestIs s (amoAt c rd rb op m a s (.mem pa) x) i q (.atomic op (readReg s rb) (readReg s rd)) pa (amoSize m) := by
  have hserved : amoServed s rd rb op m i a pa x =
      send (amoOpened s rd rb op m i a pa x) (.homeAtomic (amoTagged s rd rb op m i a pa x)) := if_pos hhome
  have hsent : Msg.homeAtomic (amoTagged s rd rb op m i a pa x) ∈ (amoServed s rd rb op m i a pa x).agenda := by
    rw [hserved]
    exact sent_mem_agenda ..
  have hb : Beside (amoOpened s rd rb op m i a pa x) (amoServed s rd rb op m i a pa x) := by
    rw [hserved]
    exact beside_send ..
  have hmem : (amoServed s rd rb op m i a pa x).mem = (amoOpened s rd rb op m i a pa x).mem := by
    rw [hserved]
    exact mem_send ..
  rw [amoAt_served hr hl he hi (.inl hhome) hb.time]
  generalize amoServed s rd rb op m i a pa x = u at *
  exact ⟨amoIssued c (freeSlot_lt hi) hb hmem, _, hsent, (took_amo hb.rows hb.cur).requestIs c
    (r := { amoReq s rd rb op m i a pa x with id := num (!atHome s pa m) }) rfl rfl rfl rfl rfl⟩
/-- In the cluster cache the words are obtained first that are not valid (R184). -/
theorem amoAt_miss (hhome : atHome s pa m = false) (hmiss : hits s (amoReq s rd rb op m i a pa x) = false)
    (hroom : missRoom s (agentOf (curExec s)) (lineOf pa) = true) :
    AmoIssued c rd m i a s (amoAt c rd rb op m a s (.mem pa) x) ∧
      ∃ y q, y ∈ (amoAt c rd rb op m a s (.mem pa) x).misses ∧ y.agent = agentOf (curExec s) ∧ y.line = lineOf pa ∧ (false, q) ∈ y.ops ∧
        RequestIs s (amoAt c rd rb op m a s (.mem pa) x) i q (.atomic op (readReg s rb) (readReg s rd)) pa (amoSize m) := by
  have honly : OnlyTaken s (amoOpened s rd rb op m i a pa x) := askOpened_onlyTaken ..
  have hserved : amoServed s rd rb op m i a pa x = addMiss (amoOpened s rd rb op m i a pa x) (amoTagged s rd rb op m i a pa x) false
      (some (false, amoTagged s rd rb op m i a pa x)) := by
    refine (if_neg (ne_true_of_eq_false hhome)).trans (cacheAtomic_misses (r := amoTagged s rd rb op m i a pa x) rfl ?_ ?_)
    · rw [honly.hits]
      exact hmiss
    · rw [honly.missRoom]
      exact hroom
  have hasks := addMiss_asks (amoOpened s rd rb op m i a pa x) (amoTagged s rd rb op m i a pa x) false
    (some (false, amoTagged s rd rb op m i a pa x))
  have hbeside := beside_addMiss (amoOpened s rd rb op m i a pa x) (amoTagged s rd rb op m i a pa x) false
    (some (false, amoTagged s rd rb op m i a pa x))
  rw [← hserved] at hasks hbeside
  obtain ⟨hb, hmem⟩ := hbeside
  rw [amoAt_served hr hl he hi (.inr (.inr hroom)) hb.time]
  generalize amoServed s rd rb op m i a pa x = u at *
  obtain ⟨y, hy, hagent, hline, -, hops⟩ := hasks
  exact ⟨amoIssued c (freeSlot_lt hi) hb hmem, y, _, hy, hagent, hline, hops _ (List.mem_singleton_self _),
    (took_amo hb.rows hb.cur).requestIs c (r := { amoReq s rd rb op m i a pa x with id := num (!atHome s pa m) }) rfl rfl rfl rfl rfl⟩

/-- In the cluster cache an atomic on valid words is performed at once (R184). -/
theorem amoAt_hit (hhome : atHome s pa m = false) (hhit : hits s (amoReq s rd rb op m i a pa x) = true) (hpa : pa % amoSize m = 0) :
    let t := amoAt c rd rb op m a s (.mem pa) x
    let n := amoSize m
    let agent := agentOf (curExec s)
    let old := leNat (lineRange (cline s agent (lineOf pa)) (pa % 128) n)
    (watching s agent (lineOf pa) = false → Issued (nextPc c s) s t i n (destOf rd) 2 3 a ∧ SameBytes s t) ∧
      Replies s t i (BitVec.ofNat 64 (old % 256 ^ n)) ∧
      lineRange (cline t agent (lineOf pa)) (pa % 128) n =
        if amoWrites op old ((readReg s rd).toNat % 256 ^ n) then leBytes n (amoNew op n old ((readReg s rb).toNat % 256 ^ n))
        else lineRange (cline s agent (lineOf pa)) (pa % 128) n := by
  dsimp only
  have honly : OnlyTaken s (amoOpened s rd rb op m i a pa x) := askOpened_onlyTaken ..
  have hserved : amoServed s rd rb op m i a pa x = atomicCache (amoOpened s rd rb op m i a pa x) (amoTagged s rd rb op m i a pa x) op
      (readReg s rb) (readReg s rd) := by
    refine (if_neg (ne_true_of_eq_false hhome)).trans (cacheAtomic_hits (r := amoTagged s rd rb op m i a pa x) rfl ?_)
    rw [honly.hits]
    exact hhit
  have hsize : pa % 128 + amoSize m ≤ 128 := by
    rcases amoSize_cases m with h | h <;> rw [h] at hpa ⊢ <;> omega
  have hdone := atomicCache_amoed (amoOpened s rd rb op m i a pa x) (amoTagged s rd rb op m i a pa x) op (readReg s rb) (readReg s rd) hsize
  rw [← hserved] at hdone
  obtain ⟨hwritten, htags, hsent, hnobody, hline⟩ := hdone
  rw [amoAt_served hr hl he hi (.inr (.inl hhit)) hwritten.time]
  have htag : takenTag s i (amoSize m) (destOf rd) 2 3 a = slotTag (advance c (amoServed s rd rb op m i a pa x)) (.bank s.cur) i := by
    have htook : Took s (amoOpened s rd rb op m i a pa x) i (amoSize m) (destOf rd) 2 3 a := took_amo rfl rfl
    rw [slotTag_advance, htags, ← slotTag_advance c]
    exact htook.tagged c
  have hold := honly.cline (agentOf (curExec s)) (lineOf pa)
  have hanswer : cacheAnswer (amoOpened s rd rb op m i a pa x) (amoTagged s rd rb op m i a pa x) = ⟨curRow s, curExec s, i,
      takenTag s i (amoSize m) (destOf rd) 2 3 a, zextBytes (amoSize m) (leNat (lineRange (cline s (agentOf (curExec s)) (lineOf pa))
        (pa % 128) (amoSize m))), 0, 0, 0⟩ := by
    rw [← hold]
    rfl
  refine ⟨fun hwatch => ?_, ⟨_, hsent, ?_⟩, ?_⟩
  · obtain ⟨hb, hmem⟩ := hnobody ((honly.watching ..).trans hwatch)
    obtain ⟨hissued, hbytes⟩ := amoIssued c (freeSlot_lt hi) hb hmem
    exact ⟨hissued, hbytes⟩
  · rw [hanswer]
    exact ⟨rfl, rfl, htag, rfl, rfl, rfl⟩
  · rw [← hold]
    exact hline

end

end

/-! ### The whole -/

/-- Settles O29: an atomic on each place that admits one, and for global memory at the home, in the cluster cache, and on words that are
obtained first. -/
theorem atomicResults : Obligations.AtomicResults := by
  intro c rd ra rb op m s x hg hm hw hr n a b cmp site amo ha
  have hx {p : Place} (hsite : site = .at_ p x) := exec_amo_at (rb := rb) (op := op) hg hm hw ha hsite
  refine ⟨fun r o hsite ho => ?head, fun pa he hcan hin hl hp hpriv hread hwrite hord => ?reg,
    fun o hsite hlo hhi hready hno => ⟨_, hx hsite, amoAt_own_results hr hw hlo hhi hready hno⟩, fun i hi => ⟨fun r o hsite hne ho => ?row,
    fun cl o hsite href => ⟨_, hx hsite, amoAt_spad_answers hr href hi, amoAt_spad_poisoned hr href hi⟩,
    fun pa hsite hpa hl he => ⟨fun hhome => ?home, fun hhome hhit => ⟨_, hx hsite, amoAt_hit hr hl he hi hhome hhit hpa⟩,
      fun hhome hmiss hroom => ?miss⟩⟩⟩
  case head => exact runs_of_eq (hx hsite) (amoAt_head hr ho) (fault_is ..)
  case reg =>
    have hstop := siteOf_amoReg he hcan hin hl hp hpriv hread hwrite hord
    exact runs_of_eq (exec_amo hg hm hw) (withSite_stop ha hstop) (fault_is ..)
  case row =>
    obtain ⟨⟨hissued, hsame, hpads⟩, hsent⟩ := toRow_issues (s := s) (i := i) (a := a) c (acquireOf m) r o
      (.amo n op (readReg s rb) (readReg s rd)) (freeSlot_lt hi) (amoSize_lt m) (destOf_lt rd) (by decide : 2 < 8) (by decide : 3 < 256)
    exact runs_of_eq (hx hsite) (amoAt_otherRow hr ho hne hi) ⟨hissued, hsame, hpads, hsent⟩
  case home =>
    obtain ⟨⟨hissued, hsame, hpads⟩, hsent⟩ := amoAt_home (c := c) (a := a) (x := x) (op := op) (rb := rb) hr hl he hi hhome
    exact ⟨_, hx hsite, hissued, hsame, hpads, hsent⟩
  case miss =>
    obtain ⟨⟨hissued, hsame, hpads⟩, hasked⟩ := amoAt_miss (c := c) (a := a) (x := x) (op := op) (rb := rb) (rd := rd) hr hl he hi hhome hmiss hroom
    exact ⟨_, hx hsite, hissued, hsame, hpads, hasked⟩

end Sys2Proof.Machine
end

section
/-!
PROOF. O27, StoreResults (tier 2): where st stores, and that it stores nowhere else (R179, R176, R193, R167, R194, R202).
-/

namespace Sys2Proof.Machine

theorem stSize_dvd (sy : StType) : stSize sy ∣ 8 := by cases sy <;> decide
theorem stSize_lt (sy : StType) : stSize sy < 256 := (Nat.le_of_dvd (by decide) (stSize_dvd sy)).trans_lt (by decide)
/-- An aligned store lies in one line. -/
theorem stSize_inLine {sy : StType} {pa : Nat} (h : pa % stSize sy = 0) : pa % 128 + stSize sy ≤ 128 := by
  cases sy <;> simp only [stSize] at h ⊢ <;> omega

section
variable {c : Ctl} {rd ra : Reg} {sy : StType} {off : Int} {m : MemMod} {s : State} {x : TlbEnt} {a v : Word} {n o : Nat} {h : Hint}
  {rel : Option Scope}

theorem exec_st_at {p : Place} (hg : guardPasses c s = true) (hm : MemReady s)
    (ha : (memAddr s ra (stSize sy) off).toNat % stSize sy = 0)
    (hsite : siteOf s ⟨false, true, 3, stSize sy == 8⟩ (memAddr s ra (stSize sy) off) = .at_ p x) :
    exec (.st c rd ra sy off m) s =
      .next (storeAt c (memAddr s ra (stSize sy) off) (stSize sy) (readReg s rd) m.hint (releaseOf m) s p x) := by
  show execSt c rd ra sy off m s = _
  rw [execSt, memChain_ready hg hm]
  exact congrArg _ (withSite_at ha hsite)
/-- A store waits for its release (R172). -/
theorem storeAt_releases {p : Place} {sc : Scope} (hrel : rel = some sc) (hwait : releaseMet s sc (releaseSnap s) = false) :
    storeAt c a n v h rel s p x = setWait s (.release sc (releaseSnap s)) := by
  rw [hrel]
  exact if_neg (ne_true_of_eq_false hwait)

/-! ### The row's own image (R176, R193) -/

section
variable (hr : ReleaseReady s rel)
include hr

theorem storeAt_own (hready : WordReady s (o / 8)) :
    storeAt c a n v h rel s (.row (curRow s) o) x = storeSelf c a n o v s := by
  unfold storeAt
  dsimp only
  rw [afterRelease_ready hr, if_pos rfl, afterOwn_ready hready]
theorem storeAt_otherRow_refused {r : RowId} {cause : Nat} (hne : r ≠ curRow s) (hf : outsideStoreFault s n o v = some cause) :
    storeAt c a n v h rel s (.row r o) x = fault s (faultOf cause 0 3) a := by
  unfold storeAt
  dsimp only
  rw [afterRelease_ready hr, if_neg hne, hf]
theorem storeAt_otherRow {r : RowId} {i : Nat} (hne : r ≠ curRow s) (hf : outsideStoreFault s n o v = none)
    (hi : freeSlot s (.bank s.cur) = some i) :
    storeAt c a n v h rel s (.row r o) x = advance c (toRow s i n 0 1 2 a none r o (.store n v)) := by
  unfold storeAt
  dsimp only
  rw [afterRelease_ready hr, if_neg hne, hf]
  exact withSlot_free hi
theorem storeAt_spad {cl i : Nat} (href : routerRefuses s cl = false) (hi : freeSlot s (.bank s.cur) = some i) :
    storeAt c a n v h rel s (.spad cl o) x =
      advance c (answerNow (spadStore s cl o (leBytes n v.toNat)) i n 0 1 2 a none 0 none) := by
  unfold storeAt
  dsimp only
  rw [afterRelease_ready hr, if_neg (ne_true_of_eq_false href), withSlot_free hi]
theorem storeAt_reg {pa i : Nat} (hread : rereading s = none) (hi : freeSlot s (.bank s.cur) = some i) :
    storeAt c a n v h rel s (.reg pa) x = advance c (answerNow (regWrite s pa v) i n 0 1 2 a none 0 none) := by
  unfold storeAt
  dsimp only
  rw [afterRelease_ready hr, afterReread_free hread, withSlot_free hi]

end

/-- A word of the own image that takes everything (R193). -/
theorem storeSelf_word (hw : o / 8 = 8 ∨ (32 < o / 8 ∧ o / 8 < 128)) (hno : NoWatch s) : storeSelf c a n o v s =
    advance c (setRowWord s s.cur (o / 8) (putBits (rowWord s s.cur (o / 8)) (8 * (o % 8)) (8 * n) v.toNat)) := by
  have hquiet := wakeOwnWatch_unwatched (noWatch_setRowWord hno (show o / 8 < 16 ∨ 32 ≤ o / 8 by omega) (by omega)
    (patchWord (rowWord s s.cur (o / 8)) (o % 8) n v.toNat)) (curRow s) o n
  have hword : wakeOwnWatch (setRowWord s s.cur (o / 8) (patchWord (rowWord s s.cur (o / 8)) (o % 8) n v.toNat)) (curRow s)
      (.bank s.cur) o n = setRowWord s s.cur (o / 8) (patchWord (rowWord s s.cur (o / 8)) (o % 8) n v.toNat) := hquiet
  unfold storeSelf
  dsimp only
  rw [if_neg (by omega), if_pos (by simp only [Bool.or_eq_true, decide_eq_true_eq]; omega), hword]
  rfl
theorem storeSelf_g0 (hw : o / 8 = 32) : storeSelf c a n o v s = advance c s := by
  unfold storeSelf
  dsimp only
  rw [if_neg (by omega), if_neg (by simp only [Bool.or_eq_true, decide_eq_true_eq]; omega), if_pos hw]
theorem storeSelf_events (hw : o / 8 = 10) : storeSelf c a n o v s =
    advance c (setRowWord s s.cur 10 (putBits (putBits (rowWord s s.cur 10) (8 * (o % 8)) (8 * n) v.toNat &&& 0xFFFF001FFFFF001F#64)
      0 32 (bits (rowWord s s.cur 10) 0 32))) := by
  have hbits : eventBits = 0xFFFF001FFFFF001F#64 := by decide
  rw [← hbits]
  unfold storeSelf
  dsimp only
  rw [if_neg (by omega), if_neg (by simp only [Bool.or_eq_true, decide_eq_true_eq]; omega), if_neg (by omega), if_pos hw]
  rfl
theorem storeSelf_readOnly (hw : (1 ≤ o / 8 ∧ o / 8 < 32 ∧ o / 8 ≠ 8 ∧ o / 8 ≠ 10) ∨ (o / 8 = 0 ∧ n ≠ 8)) :
    storeSelf c a n o v s = fault s (faultOf 6 0 3) a := by
  unfold storeSelf
  dsimp only
  by_cases h0 : o / 8 = 0
  · rw [if_pos h0, if_pos (by omega), cRowword]
  · rw [if_neg h0, if_neg (by simp only [Bool.or_eq_true, decide_eq_true_eq]; omega), if_neg (by omega), if_neg (by omega), cRowword]
/-- The command byte of a word. -/
theorem commandByte (v : Word) : bits v 56 8 = v.toNat / 2 ^ 56 := by
  rw [bits_eq_div]
  exact Nat.mod_eq_of_lt ((Nat.div_lt_iff_lt_mul (by decide)).2 (by have := v.isLt; omega))
theorem privilegedCommand_iff (v : Word) : privilegedCommand v = true ↔ 0x10 ≤ v.toNat / 2 ^ 56 ∧ v.toNat / 2 ^ 56 ≤ 0x14 := by
  unfold privilegedCommand
  rw [commandByte, Bool.and_eq_true, decide_eq_true_eq, decide_eq_true_eq]
/-- A command of low privilege that needs more faults (R195). -/
theorem storeSelf_privileged (hw : o / 8 = 0) (hn : n = 8) (hp : priv s = 0) (hv : privilegedCommand v = true) :
    storeSelf c a n o v s = fault s (faultOf 2 0 3) a := by
  unfold storeSelf
  dsimp only
  rw [if_pos hw, if_neg (not_not_intro hn), hv, hp]
  exact if_pos rfl
theorem storeSelf_command (hw : o / 8 = 0) (hn : n = 8) (hp : 1 ≤ priv s ∨ privilegedCommand v = false) :
    storeSelf c a n o v s =
      if freezeWaits s (curRow s) v then setWait s .answer else applyCommand (advance c s) (curRow s) v := by
  unfold storeSelf
  dsimp only
  rw [if_pos hw, if_neg (not_not_intro hn), if_neg]
  rw [Bool.and_eq_true, decide_eq_true_eq]
  rintro ⟨hv, h0⟩
  rcases hp with hp | hp
  · omega
  · exact absurd hv (ne_true_of_eq_false hp)

end

/-! ### Global memory (R167, R170) -/

/-- A line that the agent holds takes the bytes of a store that goes past it. -/
def copyPut (u : State) (r : Req) : State :=
  match cline? u r.agent (lineOf r.pa) with
  | some x => setCline u r.agent (lineOf r.pa) (putBytes x (r.pa % 128) r.data)
  | none => u
/-- The rows of a control executor that watch the words wake (R355). -/
def wokenOut (u : State) (r : Req) : State :=
  if writesThrough r.agent then ownWrite u r.agent (lineOf r.pa) (bytesMask r) else u
/-- A store that is written through (R167, R170). -/
def writeOut (u : State) (r : Req) : State :=
  send (dropWords (wokenOut (copyPut (rememberStale u r.agent false
    (lostWords u (lineOf r.pa) (cline u r.agent (lineOf r.pa)) (bytesMask r))) r) r) r.agent (lineOf r.pa) 0) (.writeThrough r)
theorem writeOut_sent (u : State) (r : Req) : Msg.writeThrough r ∈ (writeOut u r).agenda := sent_mem_agenda ..
theorem copyPut_onlyStored (u : State) (r : Req) : OnlyStored u (copyPut u r) := by
  unfold copyPut
  split <;> rfl
theorem sendDropped_onlyStored (u : State) (agent line : Nat) (mask : BitVec 32) (m : Msg) :
    OnlyStored u (send (dropWords u agent line mask) m) := by
  rw [dropWords_frame]
  rfl
theorem wokenOut_written (u : State) (r : Req) : OnlyWritten u (wokenOut u r) ∧
    (writesThrough r.agent = false ∨ watching u r.agent (lineOf r.pa) = false → wokenOut u r = u) := by
  unfold wokenOut
  by_cases hw : writesThrough r.agent = true
  · rw [if_pos hw]
    exact ⟨(ownWrite_wakes ..).1.onlyWritten, fun h => ownWrite_unwatched (h.resolve_left (ne_false_of_eq_true hw)) _⟩
  · rw [if_neg hw]
    exact ⟨rfl, fun _ => rfl⟩
theorem writeOut_written (u : State) (r : Req) : OnlyWritten u (writeOut u r) ∧
    (writesThrough r.agent = false ∨ watching u r.agent (lineOf r.pa) = false → OnlyStored u (writeOut u r)) := by
  unfold writeOut
  generalize lostWords u (lineOf r.pa) (cline u r.agent (lineOf r.pa)) (bytesMask r) = lost
  have hput : OnlyStored u (copyPut (rememberStale u r.agent false lost) r) :=
    OnlyStored.trans (t := rememberStale u r.agent false lost) rfl (copyPut_onlyStored ..)
  generalize copyPut (rememberStale u r.agent false lost) r = v at hput ⊢
  obtain ⟨hwoken, hquiet⟩ := wokenOut_written v r
  refine ⟨(hput.onlyWritten.trans hwoken).trans (sendDropped_onlyStored ..).onlyWritten, fun h => ?_⟩
  rw [hquiet (h.imp id (watching_of_clusters hput.clusters ..).trans)]
  exact hput.trans (sendDropped_onlyStored ..)

theorem or_and_absorb (v m : BitVec 32) : (v ||| m) &&& m = m := by
  refine BitVec.eq_of_getLsbD_eq fun i _ => ?_
  rw [BitVec.getLsbD_and, BitVec.getLsbD_or]
  cases m.getLsbD i <;> simp
/-- A store that a cluster cache accepts (R167). -/
theorem storeCache_eq (u : State) (r : Req) : storeCache u r = if (cacheWrite u r).2 = [] then send (cacheWrite u r).1 (replyTo r 0 0)
    else { (cacheWrite u r).1 with stores := (cacheWrite u r).1.stores ++ [⟨r.row, r.exec, r.slot, r.tag, r.va, (cacheWrite u r).2, false⟩] } :=
  rfl
/-- What it leaves beside the line: an answer, or a store that waits for its registrations. -/
theorem storeCache_accepted (u : State) (r : Req) : OnlyStored (cacheWrite u r).1 (storeCache u r) ∧
    (storeCache u r).caches = (cacheWrite u r).1.caches ∧ (cacheWrite u r).1.agenda ⊆ (storeCache u r).agenda := by
  rw [storeCache_eq]
  generalize (cacheWrite u r).1 = v
  split
  · exact ⟨rfl, rfl, fun m hm => List.mem_append_left _ hm⟩
  · exact ⟨rfl, rfl, fun m hm => hm⟩
theorem storeCache_written (u : State) (r : Req) (hsize : r.pa % 128 + r.data.length ≤ 128) :
    let y := cline (storeCache u r) r.agent (lineOf r.pa)
    OnlyWritten u (storeCache u r) ∧ (watching u r.agent (lineOf r.pa) = false → OnlyStored u (storeCache u r)) ∧
      lineRange y (r.pa % 128) r.data.length = r.data ∧ y.v &&& bytesMask r = bytesMask r ∧ y.rg &&& bytesMask r = bytesMask r ∧
      (bytesMask r &&& ~~~(cline u r.agent (lineOf r.pa)).rg ≠ 0 → ∃ q, Msg.registration q ∈ (storeCache u r).agenda ∧
        q.pa = r.pa ∧ q.agent = r.agent ∧ q.mask &&& bytesMask r = q.mask ∧ q.mask ≠ 0) := by
  dsimp only
  obtain ⟨honly, -, ⟨x, old, hline⟩, hnobody⟩ := cacheWrite_written u r
  obtain ⟨haccepted, hcaches, hagenda⟩ := storeCache_accepted u r
  rw [cline_of_caches hcaches, hline]
  refine ⟨honly.trans haccepted.onlyWritten, fun h => (hnobody h).trans haccepted, lineRange_lineWritten x old r hsize, ?_, ?_, fun h => ?_⟩
  · exact or_and_absorb x.v (bytesMask r)
  · exact or_and_absorb x.rg (bytesMask r)
  · obtain ⟨q, hq, hrest⟩ := cacheWrite_registers h
    exact ⟨q, hagenda hq, hrest⟩

section
variable {c : Ctl} {s : State} {x : TlbEnt} {a v : Word} {pa n i : Nat} {h : Hint} {rel : Option Scope}

/-- A store goes past the cluster cache: from the hub die, or to a page homed elsewhere (R167). -/
def storesThrough (s : State) (pa : Nat) : Bool := writesThrough (agentOf (curExec s)) || isRemote s pa
/-- The request of a store. -/
def storeReq (s : State) (i : Nat) (a : Word) (pa n : Nat) (v : Word) (x : TlbEnt) (h : Hint) : Req :=
  requestOf s .reg i a pa n false x h (leBytes n v.toNat)
def storeTagged (s : State) (i : Nat) (a : Word) (pa n : Nat) (v : Word) (x : TlbEnt) (h : Hint) : Req :=
  taggedReq s i n 0 1 2 a { storeReq s i a pa n v x h with op := if storesThrough s pa then .write else .reg }
def storeOpened (s : State) (i : Nat) (a : Word) (pa n : Nat) (v : Word) (x : TlbEnt) (h : Hint) : State :=
  askOpened s i n 0 1 2 a none (storeTagged s i a pa n v x h)
/-- Where a store to global memory goes once its slot is taken. -/
def storeServed (s : State) (i : Nat) (a : Word) (pa n : Nat) (v : Word) (x : TlbEnt) (h : Hint) : State :=
  let u := storeOpened s i a pa n v x h
  let r := storeTagged s i a pa n v x h
  if storesThrough s pa then writeOut u r
  else if needsFill u r then addMiss u r false (some (true, r)) else storeCache u r
theorem storeMemory_eq (hi : freeSlot s (.bank s.cur) = some i)
    (hgo : storesThrough s pa = true ∨ needsFill s (storeReq s i a pa n v x h) = false ∨
      missRoom s (agentOf (curExec s)) (lineOf pa) = true) :
    storeMemory s a pa n v x h = storeServed s i a pa n v x h := by
  unfold storeMemory
  rw [withSlot_free hi]
  refine if_neg ?_
  simp only [Bool.and_eq_true, Bool.not_eq_true', not_and, Bool.not_eq_false]
  intro hh
  rcases hgo with hgo | hgo | hgo
  · exact absurd hgo (ne_true_of_eq_false hh.1)
  · exact absurd hh.2 (ne_true_of_eq_false hgo)
  · exact hgo

theorem storeAt_served (hr : ReleaseReady s rel) (hl : LeaseReady s pa) (he : earlierAccess s pa n = none)
    (hi : freeSlot s (.bank s.cur) = some i)
    (hgo : storesThrough s pa = true ∨ needsFill s (storeReq s i a pa n v x h) = false ∨
      missRoom s (agentOf (curExec s)) (lineOf pa) = true)
    (htime : (storeServed s i a pa n v x h).time = (storeOpened s i a pa n v x h).time) :
    storeAt c a n v h rel s (.mem pa) x = advance c (storeServed s i a pa n v x h) := by
  have hopened : (storeOpened s i a pa n v x h).time = s.time + 1 := (askOpened_onlyTaken ..).time
  unfold storeAt
  dsimp only
  rw [afterRelease_ready hr, underLease_ready hl, afterEarlier_free he, storeMemory_eq hi hgo, if_neg (by rw [htime, hopened]; omega)]
theorem took_store {u : State} (hrows : u.rows = (storeOpened s i a pa n v x h).rows) (hcur : u.cur = (storeOpened s i a pa n v x h).cur) :
    Took s u i n 0 1 2 a :=
  (took_askOpened s i n 0 1 2 a none (storeTagged s i a pa n v x h)).of_rows hrows hcur
theorem storeIssued {u : State} (c : Ctl) (hn : n < 256) (hi : i < 8) (hb : Beside (storeOpened s i a pa n v x h) u)
    (hmem : u.mem = (storeOpened s i a pa n v x h).mem) :
    Issued (nextPc c s) s (advance c u) i n 0 1 2 a ∧ SameBytes s (advance c u) := by
  have honly : OnlyTaken s (storeOpened s i a pa n v x h) := askOpened_onlyTaken ..
  exact (took_store hb.rows hb.cur).issuedOnly c (hmem.trans honly.mem) (hb.spads.trans honly.spads) hi hn (by decide) (by decide) (by decide)
theorem storeReq_is {u : State} (c : Ctl) (htook : Took s u i n 0 1 2 a) :
    RequestIs s (advance c u) i (storeTagged s i a pa n v x h) (if storesThrough s pa then .write else .reg) pa n :=
  htook.requestIs c (r := { storeReq s i a pa n v x h with op := if storesThrough s pa then .write else .reg }) rfl rfl rfl rfl rfl

section
variable (hn : n < 256) (hr : ReleaseReady s rel) (hl : LeaseReady s pa) (he : earlierAccess s pa n = none)
  (hi : freeSlot s (.bank s.cur) = some i)
include hn hr hl he hi

/-- The hub die, and a page homed elsewhere, is written through (R167, R170). -/
theorem storeAt_through (hthrough : storesThrough s pa = true) :
    ∃ q, Msg.writeThrough q ∈ (storeAt c a n v h rel s (.mem pa) x).agenda ∧ q.op = .write ∧ q.pa = pa ∧ q.size = n ∧
      q.row = curRow s ∧ q.slot = i ∧ q.data = leBytes n v.toNat ∧
      (writesThrough (agentOf (curExec s)) = false ∨ watching s (agentOf (curExec s)) (lineOf pa) = false →
        Issued (nextPc c s) s (storeAt c a n v h rel s (.mem pa) x) i n 0 1 2 a ∧
          SameBytes s (storeAt c a n v h rel s (.mem pa) x) ∧ RequestIs s (storeAt c a n v h rel s (.mem pa) x) i q .write pa n) := by
  have honly : OnlyTaken s (storeOpened s i a pa n v x h) := askOpened_onlyTaken ..
  have hserved : storeServed s i a pa n v x h = writeOut (storeOpened s i a pa n v x h) (storeTagged s i a pa n v x h) := if_pos hthrough
  have hsent := writeOut_sent (storeOpened s i a pa n v x h) (storeTagged s i a pa n v x h)
  have hwritten := writeOut_written (storeOpened s i a pa n v x h) (storeTagged s i a pa n v x h)
  rw [← hserved] at hsent hwritten
  obtain ⟨hwritten, hquiet⟩ := hwritten
  have hop : (storeTagged s i a pa n v x h).op = .write := if_pos hthrough
  rw [storeAt_served hr hl he hi (.inl hthrough) hwritten.time]
  generalize storeServed s i a pa n v x h = u at *
  refine ⟨storeTagged s i a pa n v x h, hsent, hop, rfl, rfl, rfl, rfl, rfl, fun hwatch => ?_⟩
  have hstored := hquiet (hwatch.imp id (honly.watching ..).trans)
  obtain ⟨hissued, hbytes⟩ := storeIssued c hn (freeSlot_lt hi) hstored.beside hstored.mem
  have hreq := storeReq_is (v := v) (x := x) (h := h) (pa := pa) c (took_store hstored.rows hstored.onlyWritten.cur)
  rw [hthrough] at hreq
  exact ⟨hissued, hbytes, hreq⟩
/-- A cluster cache takes the bytes and registers their words (R167). -/
theorem storeAt_cached (hsize : pa % 128 + n ≤ 128) (hthrough : storesThrough s pa = false)
    (hfill : needsFill s (storeReq s i a pa n v x h) = false) :
    let t := storeAt c a n v h rel s (.mem pa) x
    let y := cline t (agentOf (curExec s)) (lineOf pa)
    (watching s (agentOf (curExec s)) (lineOf pa) = false → Issued (nextPc c s) s t i n 0 1 2 a ∧ SameBytes s t) ∧
      lineRange y (pa % 128) n = leBytes n v.toNat ∧ y.v &&& wordMask pa n = wordMask pa n ∧ y.rg &&& wordMask pa n = wordMask pa n ∧
      (wordMask pa n &&& ~~~(cline s (agentOf (curExec s)) (lineOf pa)).rg ≠ 0 → ∃ q, Msg.registration q ∈ t.agenda ∧
        q.pa = pa ∧ q.agent = agentOf (curExec s) ∧ q.mask &&& wordMask pa n = q.mask ∧ q.mask ≠ 0) := by
  dsimp only
  have honly : OnlyTaken s (storeOpened s i a pa n v x h) := askOpened_onlyTaken ..
  have hserved : storeServed s i a pa n v x h = storeCache (storeOpened s i a pa n v x h) (storeTagged s i a pa n v x h) := by
    refine (if_neg (ne_true_of_eq_false hthrough)).trans (if_neg ?_)
    unfold needsFill
    rw [honly.hits]
    exact ne_true_of_eq_false hfill
  have hlen : (storeTagged s i a pa n v x h).data.length = n := leBytes_length ..
  have hdone := storeCache_written (storeOpened s i a pa n v x h) (storeTagged s i a pa n v x h) (by rw [hlen]; exact hsize)
  dsimp only at hdone
  rw [← hserved, hlen] at hdone
  obtain ⟨hwritten, hnobody, hline, hv, hrg, hreg⟩ := hdone
  rw [storeAt_served hr hl he hi (.inr (.inl hfill)) hwritten.time]
  generalize storeServed s i a pa n v x h = u at *
  refine ⟨fun hwatch => ?_, hline, hv, hrg, fun hnew => ?_⟩
  · have hstored := hnobody ((honly.watching ..).trans hwatch)
    exact storeIssued c hn (freeSlot_lt hi) hstored.beside hstored.mem
  · rw [← honly.cline] at hnew
    exact hreg hnew
/-- Part of a word that has no value is stored once the line is filled (R167). -/
theorem storeAt_fills (hthrough : storesThrough s pa = false) (hfill : needsFill s (storeReq s i a pa n v x h) = true)
    (hroom : missRoom s (agentOf (curExec s)) (lineOf pa) = true) :
    let t := storeAt c a n v h rel s (.mem pa) x
    (Issued (nextPc c s) s t i n 0 1 2 a ∧ SameBytes s t) ∧ ∃ y q, y ∈ t.misses ∧ y.agent = agentOf (curExec s) ∧ y.line = lineOf pa ∧
      (true, q) ∈ y.ops ∧ RequestIs s t i q .reg pa n ∧ q.data = leBytes n v.toNat := by
  dsimp only
  have honly : OnlyTaken s (storeOpened s i a pa n v x h) := askOpened_onlyTaken ..
  have hserved : storeServed s i a pa n v x h = addMiss (storeOpened s i a pa n v x h) (storeTagged s i a pa n v x h) false
      (some (true, storeTagged s i a pa n v x h)) := by
    refine (if_neg (ne_true_of_eq_false hthrough)).trans (if_pos ?_)
    unfold needsFill
    rw [honly.hits]
    exact hfill
  have hasks := addMiss_asks (storeOpened s i a pa n v x h) (storeTagged s i a pa n v x h) false (some (true, storeTagged s i a pa n v x h))
  have hbeside := beside_addMiss (storeOpened s i a pa n v x h) (storeTagged s i a pa n v x h) false
    (some (true, storeTagged s i a pa n v x h))
  rw [← hserved] at hasks hbeside
  obtain ⟨hb, hmem⟩ := hbeside
  rw [storeAt_served hr hl he hi (.inr (.inr hroom)) hb.time]
  generalize storeServed s i a pa n v x h = u at *
  obtain ⟨y, hy, hagent, hline, -, hops⟩ := hasks
  have hreq := storeReq_is (v := v) (x := x) (h := h) (pa := pa) c (took_store hb.rows hb.cur)
  rw [hthrough] at hreq
  exact ⟨storeIssued c hn (freeSlot_lt hi) hb hmem, y, _, hy, hagent, hline, hops _ (List.mem_singleton_self _), hreq, rfl⟩

end

end

/-! ### The whole -/

/-- A store of the row's own image, by the row word that it is on (R193, R195). -/
theorem storeSelf_results {c : Ctl} {s : State} {a v : Word} {n o : Nat} :
    let t := storeSelf c a n o v s
    let w := o / 8
    (w = 8 ∨ (32 < w ∧ w < 128) → NoWatch s → OnlyRows s t ∧ ChainDone s t (nextPc c s) [w] ∧
      rowWord t s.cur w = putBits (rowWord s s.cur w) (8 * (o % 8)) (8 * n) v.toNat) ∧
    (w = 32 → OnlyRows s t ∧ ChainDone s t (nextPc c s) []) ∧
    (w = 10 → OnlyRows s t ∧ ChainDone s t (nextPc c s) [10] ∧ rowWord t s.cur 10 =
      putBits (putBits (rowWord s s.cur 10) (8 * (o % 8)) (8 * n) v.toNat &&& 0xFFFF001FFFFF001F#64) 0 32
        (bits (rowWord s s.cur 10) 0 32)) := by
  dsimp only
  have hwrites (w : Nat) (x : Word) (hlo : 2 < w) (hhi : w < 128) : OnlyRows s (advance c (setRowWord s s.cur w x)) ∧
      ChainDone s (advance c (setRowWord s s.cur w x)) (nextPc c s) [w] ∧ rowWord (advance c (setRowWord s s.cur w x)) s.cur w = x := by
    refine ⟨?_, ?_, ?_⟩
    · unfold OnlyRows
      rw [advance_frame]
      rfl
    · exact (advance_done (s := setRowWord s s.cur w x) c rfl rfl).after rfl (wordsKept_setRowWord s hhi x) hlo
    · rw [rowWord_advance c _ _ _ (.inr ⟨by omega, by omega⟩), rowWord_setRowWord_self _ _ _ _ hhi]
  refine ⟨fun hw hno => ?_, fun hw => ?_, fun hw => ?_⟩
  · rw [storeSelf_word hw hno]
    exact hwrites (o / 8) _ (by omega) (by omega)
  · rw [storeSelf_g0 hw]
    exact ⟨advance_frame c s, advance_done c rfl rfl⟩
  · rw [storeSelf_events hw]
    exact hwrites 10 _ (by omega) (by omega)

/-- Settles O27: a store on each place that R160 names, by row word in the own image, and for global memory written through, taken by the
cluster cache, or held for a fill. -/
theorem storeResults : Obligations.StoreResults := by
  intro c rd ra sy off m s x hg hm n a v data site st ha
  have hn : n < 256 := stSize_lt sy
  have hx {p : Place} (hsite : site = .at_ p x) := exec_st_at (rd := rd) (m := m) hg hm ha hsite
  refine ⟨fun k sc p hsite hsc hwait hk => runs_of_eq (hx hsite) (storeAt_releases hsc hwait) (setWait_waitsAt _ hk), fun hr =>
    ⟨fun o hsite hready => ?own, fun r o cause hsite hne hf => runs_of_eq (hx hsite) (storeAt_otherRow_refused hr hne hf) (fault_is ..),
      fun i hi => ⟨fun r o hsite hne hf => ?row, fun cl o hsite href => ?spad, fun pa hsite hread => ?reg,
        fun pa hsite hpa hl => ?mem⟩⟩⟩
  case own =>
    have hself {P : State → Prop} (h : P (storeSelf c a n o v s)) : Runs st s P := runs_of_eq (hx hsite) (storeAt_own hr hready) h
    obtain ⟨hword, hg0, hevents⟩ := storeSelf_results (c := c) (s := s) (a := a) (v := v) (n := n) (o := o)
    refine ⟨fun hw hno => hself (hword hw hno), fun hw => hself (hg0 hw), fun hw => hself (hevents hw), fun hw => ?_,
      fun hw h8 hp hlo hhi => ?_, fun hw h8 hp => ⟨fun hgo => ?_, fun k hcmd hbusy hk => ?_⟩⟩
    · exact hself (by rw [storeSelf_readOnly hw]; exact fault_is ..)
    · exact hself (by rw [storeSelf_privileged hw h8 hp ((privilegedCommand_iff v).2 ⟨hlo, hhi⟩)]; exact fault_is ..)
    all_goals
      have hplain := storeSelf_command (c := c) (s := s) (a := a) (v := v) hw h8 (hp.imp id fun h => by
        rw [Bool.eq_false_iff, Ne, privilegedCommand_iff]
        omega)
      have hfreeze : freezeWaits s (curRow s) v = (v.toNat / 2 ^ 56 == 0x10 && tierBusy s (curPart s)) := by
        unfold freezeWaits
        rw [commandByte]
        rfl
    · refine hself (hplain.trans (if_neg ?_))
      rw [hfreeze, Bool.and_eq_true, beq_iff_eq]
      rintro ⟨h1, h2⟩
      exact hgo.elim (fun h => h h1) (fun h => ne_true_of_eq_false h h2)
    · refine hself ?_
      rw [hplain, if_pos (by rw [hfreeze, hcmd, hbusy]; rfl)]
      exact setWait_waitsAt _ hk
  case row =>
    obtain ⟨⟨hissued, hsame, hpads⟩, hsent⟩ := toRow_issues (s := s) (i := i) (a := a) c none r o (.store n v) (freeSlot_lt hi) hn
      (by decide : 0 < 128) (by decide : 1 < 8) (by decide : 2 < 256)
    exact runs_of_eq (hx hsite) (storeAt_otherRow hr hne hf hi) ⟨hissued, hsame, hpads, hsent⟩
  case spad =>
    obtain ⟨⟨hissued, hsame, hpads⟩, hreply⟩ := answerNow_issues (s := spadStore s cl o data) (i := i) (a := a) c none 0 none
      (freeSlot_lt hi) hn (by decide : 0 < 128) (by decide : 1 < 8) (by decide : 2 < 256)
    exact runs_of_eq (hx hsite) (storeAt_spad hr href hi) ⟨hissued.of_base rfl rfl, hsame,
      fun hcan => (padStored_spadStore _ _ _ (spad_canonical hcan _) rfl).same hpads, hreply.of_base rfl rfl⟩
  case reg =>
    obtain ⟨⟨hissued, hsame⟩, hreply⟩ := answerNow_issues (s := regWrite s pa v) (i := i) (a := a) c none 0 none (freeSlot_lt hi) hn
      (by decide : 0 < 128) (by decide : 1 < 8) (by decide : 2 < 256)
    exact runs_of_eq (hx hsite) (storeAt_reg hr hread hi) ⟨hissued, hsame, hreply⟩
  case mem =>
    intro r through he
    refine ⟨fun hthrough => ⟨_, hx hsite, storeAt_through hn hr hl he hi hthrough⟩,
      fun hthrough hfill => ⟨_, hx hsite, storeAt_cached hn hr hl he hi (stSize_inLine hpa) hthrough hfill⟩,
      fun hthrough hfill hroom => ?_⟩
    obtain ⟨⟨hissued, hsame, hpads⟩, hasked⟩ := storeAt_fills (c := c) (a := a) (v := v) (x := x) (h := m.hint) hn hr hl he hi hthrough hfill hroom
    exact ⟨_, hx hsite, hissued, hsame, hpads, hasked⟩

end Sys2Proof.Machine
end
